-- ==== Sys2Proof/Word.lean ====
section
/-!
DEFINITION. The words of the TM-940 (R4, R5) and the plain data that a device step takes from outside the device:
answers and requests of other devices, what the members of a collective contribute, host descriptors and accesses.
-/

namespace Sys2Proof

/-- One byte of memory. -/
abbrev Byte := BitVec 8

/-- A halfword: a compact instruction, or half of a 32-bit one (R5). -/
abbrev Half := BitVec 16

/-- A 32-bit register or instruction word. -/
abbrev Word := BitVec 32

/-- A 64-bit address, front register or register pair. -/
abbrev Word64 := BitVec 64

/-- Which thread of a team: a lane thread by its team-local id (R12), or the front thread (R211). -/
inductive Who where
  | thread (t : Nat)
  | front
  deriving DecidableEq, Repr

/-- The one answer every remote request receives (R309). -/
inductive RemoteAnswer where
  /-- Performed at the target; the bytes are what a load or an atomic read there. -/
  | performed (bytes : List Byte)
  | refused
  | expired
  deriving DecidableEq, Repr

/-- What an inbound remote request asks for (R312, R313). -/
inductive InboundOp where
  | load (n : Nat)
  | store (bytes : List Byte)
  /-- `op` is the ATOM op code of R65; the bytes are the operand registers, low first. -/
  | atomic (op : BitVec 3) (operand : Word64)
  deriving DecidableEq, Repr

/-- A remote request as it reaches this device: context id, initiating device, budget (R309), address and operation. -/
structure InboundRequest where
  ctx : BitVec 12
  dev : BitVec 17
  budget : BitVec 24
  addr : Word64
  op : InboundOp
  deriving DecidableEq, Repr

/-- What one member of a collective supplies for a chunk (R318–R322): its bytes, or that its request failed. The order
of these in a list is the order in which the engine adds them, which the spec does not promise (R319, R55). -/
structure PeerContribution where
  member : Nat
  /-- The member's descriptor differs (R317), or a request to it was refused or expired (R322). -/
  failed : Bool
  bytes : List Byte
  /-- The non-finite flag that travels with this member's data (R320). -/
  nonfinite : Bool
  deriving DecidableEq, Repr

/-- One descriptor of a host copy engine (R329), with the bytes host memory holds when it is read. -/
structure HostDescriptor where
  raw : List Byte
  hostBytes : List Byte
  deriving DecidableEq, Repr

/-- A host access through BAR4 (R328): offset in the 64 GB aperture, and the bytes written, or how many are read. -/
inductive HostAccess where
  | read (off : Nat) (n : Nat)
  | write (off : Nat) (bytes : List Byte)
  deriving DecidableEq, Repr

end Sys2Proof
end

