-- ==== Sys2Proof/Syntax.lean ====
section
/-!
DEFINITION. The instructions and device steps of the TM-940: one constructor per row of spec/opcode_table.json.

Fields carry the row's own names, in ascending bit order, at the width the row gives them (a one-bit field is a
`Bool`).  A row the table gives no bits is a step the device, the fabric, the host or the environment takes
(spec/95_what_each_step_holds.md); its arguments say which agent moves and what comes from outside the device.
The constructors stand in the table's order, but that Lean's compiler builds no constructor with fields beyond the 244th:
constructors without fields, and steps that only the environment starts, are therefore last.
-/

namespace Sys2Proof

/-- Every row of the opcode table. The docstring of a constructor names the rule that gives the row its meaning. -/
inductive Instr where
  /-- MOV_COMPACT (R59). -/
  | movCompact (d : BitVec 6) (s : BitVec 5)
  /-- IADD_COMPACT (R59). -/
  | iaddCompact (d : BitVec 6) (s : BitVec 5)
  /-- ISUB_COMPACT (R59). -/
  | isubCompact (d : BitVec 6) (s : BitVec 5)
  /-- AND_COMPACT (R59). -/
  | andCompact (d : BitVec 6) (s : BitVec 5)
  /-- OR_COMPACT (R59). -/
  | orCompact (d : BitVec 6) (s : BitVec 5)
  /-- XOR_COMPACT (R59). -/
  | xorCompact (d : BitVec 6) (s : BitVec 5)
  /-- SHL_COMPACT (R59). -/
  | shlCompact (d : BitVec 6) (s : BitVec 5)
  /-- SHR_COMPACT (R59). -/
  | shrCompact (d : BitVec 6) (s : BitVec 5)
  /-- SAR_COMPACT (R59). -/
  | sarCompact (d : BitVec 6) (s : BitVec 5)
  /-- IMUL_COMPACT (R59). -/
  | imulCompact (d : BitVec 6) (s : BitVec 5)
  /-- FADD_COMPACT (R59). -/
  | faddCompact (d : BitVec 6) (s : BitVec 5)
  /-- FSUB_COMPACT (R59). -/
  | fsubCompact (d : BitVec 6) (s : BitVec 5)
  /-- FMUL_COMPACT (R59). -/
  | fmulCompact (d : BitVec 6) (s : BitVec 5)
  /-- FMAX_COMPACT (R59). -/
  | fmaxCompact (d : BitVec 6) (s : BitVec 5)
  /-- IADDI_COMPACT (R59). -/
  | iaddiCompact (d : BitVec 6) (i : BitVec 5)
  /-- MOVI (R59). -/
  | movi (d : BitVec 6) (i : BitVec 5)
  /-- IADD (R89). -/
  | iadd (d : BitVec 8) (a : BitVec 8) (b : BitVec 8)
  /-- ISUB (R89). -/
  | isub (d : BitVec 8) (a : BitVec 8) (b : BitVec 8)
  /-- IMUL (R89). -/
  | imul (d : BitVec 8) (a : BitVec 8) (b : BitVec 8) (x : Bool)
  /-- IMULHS (R89). -/
  | imulhs (d : BitVec 8) (a : BitVec 8) (b : BitVec 8)
  /-- IMAD (R89). -/
  | imad (d : BitVec 8) (a : BitVec 8) (b : BitVec 8) (x : Bool)
  /-- AND (R89). -/
  | and (d : BitVec 8) (a : BitVec 8) (b : BitVec 8)
  /-- OR (R89). -/
  | or (d : BitVec 8) (a : BitVec 8) (b : BitVec 8)
  /-- XOR (R89). -/
  | xor (d : BitVec 8) (a : BitVec 8) (b : BitVec 8)
  /-- ANDN (R89). -/
  | andn (d : BitVec 8) (a : BitVec 8) (b : BitVec 8)
  /-- SHL (R89). -/
  | shl (d : BitVec 8) (a : BitVec 8) (b : BitVec 8)
  /-- SHR (R89). -/
  | shr (d : BitVec 8) (a : BitVec 8) (b : BitVec 8)
  /-- SAR (R89). -/
  | sar (d : BitVec 8) (a : BitVec 8) (b : BitVec 8)
  /-- IMIN (R89). -/
  | imin (d : BitVec 8) (a : BitVec 8) (b : BitVec 8) (x : Bool)
  /-- IMAX (R89). -/
  | imax (d : BitVec 8) (a : BitVec 8) (b : BitVec 8) (x : Bool)
  /-- IADD64 (R89). -/
  | iadd64 (d : BitVec 8) (a : BitVec 8) (b : BitVec 8) (x : Bool)
  /-- PERM (R90). -/
  | perm (d : BitVec 8) (a : BitVec 8) (b : BitVec 8)
  /-- MOV (R93). -/
  | mov (d : BitVec 8) (a : BitVec 8)
  /-- NOT (R93). -/
  | not (d : BitVec 8) (a : BitVec 8)
  /-- NEG (R93). -/
  | neg (d : BitVec 8) (a : BitVec 8)
  /-- IABS (R93). -/
  | iabs (d : BitVec 8) (a : BitVec 8)
  /-- CLZ (R93). -/
  | clz (d : BitVec 8) (a : BitVec 8)
  /-- POPC (R93). -/
  | popc (d : BitVec 8) (a : BitVec 8)
  /-- BREV (R93). -/
  | brev (d : BitVec 8) (a : BitVec 8)
  /-- SEXB (R93). -/
  | sexb (d : BitVec 8) (a : BitVec 8)
  /-- SEXH (R93). -/
  | sexh (d : BitVec 8) (a : BitVec 8)
  /-- ZEXB (R93). -/
  | zexb (d : BitVec 8) (a : BitVec 8)
  /-- ZEXH (R93). -/
  | zexh (d : BitVec 8) (a : BitVec 8)
  /-- LANEID (R93). -/
  | laneid (d : BitVec 8)
  /-- TIDX (R93). -/
  | tidx (d : BitVec 8)
  /-- TEAMIX (R93). -/
  | teamix (d : BitVec 8)
  /-- CLKLO (R93). -/
  | clklo (d : BitVec 8)
  /-- CLKHI (R93). -/
  | clkhi (d : BitVec 8)
  /-- B2G (R93). -/
  | b2g (d : BitVec 8) (k : BitVec 3)
  /-- G2B (R93). -/
  | g2b (k : BitVec 3) (a : BitVec 8)
  /-- CLZ64 (R74). -/
  | clz64 (d : BitVec 8) (a : BitVec 8)
  /-- POPC64 (R74). -/
  | popc64 (d : BitVec 8) (a : BitVec 8)
  /-- IADDI (R91). -/
  | iaddi (d : BitVec 8) (a : BitVec 8) (i : BitVec 9)
  /-- ANDI (R91). -/
  | andi (d : BitVec 8) (a : BitVec 8) (i : BitVec 9)
  /-- ORI (R91). -/
  | ori (d : BitVec 8) (a : BitVec 8) (i : BitVec 9)
  /-- XORI (R91). -/
  | xori (d : BitVec 8) (a : BitVec 8) (i : BitVec 9)
  /-- SHLI (R91). -/
  | shli (d : BitVec 8) (a : BitVec 8) (n : BitVec 5)
  /-- SHRI (R91). -/
  | shri (d : BitVec 8) (a : BitVec 8) (n : BitVec 5)
  /-- SARI (R91). -/
  | sari (d : BitVec 8) (a : BitVec 8) (n : BitVec 5)
  /-- ROTRI (R91). -/
  | rotri (d : BitVec 8) (a : BitVec 8) (n : BitVec 5)
  /-- MOVKL (R92). -/
  | movkl (d : BitVec 8) (i : BitVec 16)
  /-- MOVKH (R92). -/
  | movkh (d : BitVec 8) (i : BitVec 16)
  /-- ICMP (R94). -/
  | icmp (e : BitVec 3) (c : BitVec 3) (n : Bool) (a : BitVec 8) (b : BitVec 8)
  /-- ICMPI (R94). -/
  | icmpi (e : BitVec 3) (c : BitVec 3) (n : Bool) (a : BitVec 8) (i : BitVec 8)
  /-- SEL (R95). -/
  | sel (c : BitVec 3) (s : Bool) (d : BitVec 8) (a : BitVec 8)
  /-- SHFL_IDX (R117). -/
  | shflIdx (s : BitVec 4) (d : BitVec 8) (c : BitVec 8) (r : Bool)
  /-- SHFL_UP (R117). -/
  | shflUp (s : BitVec 4) (d : BitVec 8) (n : BitVec 8) (r : Bool)
  /-- SHFL_DOWN (R117). -/
  | shflDown (s : BitVec 4) (d : BitVec 8) (n : BitVec 8) (r : Bool)
  /-- SHFL_XOR (R117). -/
  | shflXor (s : BitVec 4) (d : BitVec 8) (n : BitVec 8) (r : Bool)
  /-- VOTE_ANY (R118). -/
  | voteAny (s : BitVec 4) (d : BitVec 3) (f : BitVec 3) (r : Bool)
  /-- VOTE_ALL (R118). -/
  | voteAll (s : BitVec 4) (d : BitVec 3) (f : BitVec 3) (r : Bool)
  /-- VOTE_BALLOT (R118). -/
  | voteBallot (s : BitVec 4) (d : BitVec 8) (f : BitVec 3) (r : Bool)
  /-- VOTE_MATCH (R118). -/
  | voteMatch (s : BitVec 4) (d : BitVec 8) (a : BitVec 8) (r : Bool)
  /-- VOTE_RADD (R118). -/
  | voteRadd (s : BitVec 4) (d : BitVec 8) (a : BitVec 8) (r : Bool)
  /-- VOTE_RMIN (R118). -/
  | voteRmin (s : BitVec 4) (d : BitVec 8) (a : BitVec 8) (r : Bool)
  /-- VOTE_RMAX (R118). -/
  | voteRmax (s : BitVec 4) (d : BitVec 8) (a : BitVec 8) (r : Bool)
  /-- VOTE_RFADD (R53). -/
  | voteRfadd (s : BitVec 4) (d : BitVec 8) (a : BitVec 8) (r : Bool)
  /-- FADD (R96). -/
  | fadd (d : BitVec 8) (a : BitVec 8) (b : BitVec 8) (x : Bool)
  /-- FSUB (R96). -/
  | fsub (d : BitVec 8) (a : BitVec 8) (b : BitVec 8) (x : Bool)
  /-- FMUL (R96). -/
  | fmul (d : BitVec 8) (a : BitVec 8) (b : BitVec 8) (x : Bool)
  /-- FFMA (R96). -/
  | ffma (d : BitVec 8) (a : BitVec 8) (b : BitVec 8) (x : Bool)
  /-- FMIN (R97). -/
  | fmin (d : BitVec 8) (a : BitVec 8) (b : BitVec 8) (x : Bool)
  /-- FMAX (R97). -/
  | fmax (d : BitVec 8) (a : BitVec 8) (b : BitVec 8) (x : Bool)
  /-- FABS (R99). -/
  | fabs (d : BitVec 8) (a : BitVec 8) (l : BitVec 4)
  /-- FNEG (R99). -/
  | fneg (d : BitVec 8) (a : BitVec 8) (l : BitVec 4)
  /-- FRCP (R99). -/
  | frcp (d : BitVec 8) (a : BitVec 8) (l : BitVec 4)
  /-- FRSQ (R99). -/
  | frsq (d : BitVec 8) (a : BitVec 8) (l : BitVec 4)
  /-- FSQRT (R99). -/
  | fsqrt (d : BitVec 8) (a : BitVec 8) (l : BitVec 4)
  /-- FEXP2 (R99). -/
  | fexp2 (d : BitVec 8) (a : BitVec 8) (l : BitVec 4)
  /-- FLOG2 (R99). -/
  | flog2 (d : BitVec 8) (a : BitVec 8) (l : BitVec 4)
  /-- FSIN (R99). -/
  | fsin (d : BitVec 8) (a : BitVec 8) (l : BitVec 4)
  /-- FCOS (R99). -/
  | fcos (d : BitVec 8) (a : BitVec 8) (l : BitVec 4)
  /-- FTANH (R99). -/
  | ftanh (d : BitVec 8) (a : BitVec 8) (l : BitVec 4)
  /-- FFLOOR (R99). -/
  | ffloor (d : BitVec 8) (a : BitVec 8) (l : BitVec 4)
  /-- FCEIL (R99). -/
  | fceil (d : BitVec 8) (a : BitVec 8) (l : BitVec 4)
  /-- FTRUNC (R99). -/
  | ftrunc (d : BitVec 8) (a : BitVec 8) (l : BitVec 4)
  /-- FRINT (R99). -/
  | frint (d : BitVec 8) (a : BitVec 8) (l : BitVec 4)
  /-- FCLASS (R100). -/
  | fclass (d : BitVec 8) (a : BitVec 8) (l : BitVec 4)
  /-- FSAT (R99). -/
  | fsat (d : BitVec 8) (a : BitVec 8) (l : BitVec 4)
  /-- FCMP (R101). -/
  | fcmp (e : BitVec 3) (c : BitVec 3) (n : Bool) (a : BitVec 8) (b : BitVec 8)
  /-- CVT (R102). -/
  | cvt (d : BitVec 8) (a : BitVec 8) (f : BitVec 3) (r : BitVec 2) (p : BitVec 2) (i : Bool)
  /-- CVIF (R103). -/
  | cvif (d : BitVec 8) (a : BitVec 8)
  /-- CVNF (R103). -/
  | cvnf (d : BitVec 8) (a : BitVec 8)
  /-- CVFI (R103). -/
  | cvfi (d : BitVec 8) (a : BitVec 8)
  /-- CVFN (R103). -/
  | cvfn (d : BitVec 8) (a : BitVec 8)
  /-- CVHF (R103). -/
  | cvhf (d : BitVec 8) (a : BitVec 8) (x : Bool)
  /-- CVBF (R103). -/
  | cvbf (d : BitVec 8) (a : BitVec 8)
  /-- CV8AF (R103). -/
  | cv8af (d : BitVec 8) (a : BitVec 8)
  /-- CV8BF (R103). -/
  | cv8bf (d : BitVec 8) (a : BitVec 8)
  /-- DOT4 (R104). -/
  | dot4 (d : BitVec 8) (a : BitVec 8) (b : BitVec 8)
  /-- DOT2 (R104). -/
  | dot2 (d : BitVec 8) (a : BitVec 8) (b : BitVec 8)
  /-- IDIV (R74). -/
  | idiv (d : BitVec 8) (a : BitVec 8) (b : BitVec 8)
  /-- IDIVU (R74). -/
  | idivu (d : BitVec 8) (a : BitVec 8) (b : BitVec 8)
  /-- SCMP (R141). -/
  | scmp (q : BitVec 3) (k : BitVec 2) (l : BitVec 3) (a : BitVec 8) (b : BitVec 8)
  /-- PCOMB_AND (R143). -/
  | pcombAnd (d : BitVec 3) (a : BitVec 3) (b : BitVec 3) (m : BitVec 2)
  /-- PCOMB_OR (R143). -/
  | pcombOr (d : BitVec 3) (a : BitVec 3) (b : BitVec 3) (m : BitVec 2)
  /-- PCOMB_NOT (R143). -/
  | pcombNot (d : BitVec 3) (a : BitVec 3)
  /-- PCOMB_XOR (R143). -/
  | pcombXor (d : BitVec 3) (a : BitVec 3) (b : BitVec 3) (m : BitVec 2)
  /-- BLEND (R144). -/
  | blend (c : BitVec 3) (s : Bool) (d : BitVec 8) (a : BitVec 8)
  /-- BLENDI (R144). -/
  | blendi (c : BitVec 3) (s : Bool) (d : BitVec 8) (a : BitVec 8)
  /-- SELQ (R144). -/
  | selq (c : BitVec 3) (s : Bool) (d : BitVec 8) (a : BitVec 8)
  /-- COLL (R146). -/
  | coll (q : BitVec 3) (d : BitVec 3)
  /-- QSET (R146). -/
  | qset (q : BitVec 3) (a : BitVec 8)
  /-- QGET (R146). -/
  | qget (q : BitVec 3) (d : BitVec 8)
  /-- QFROMB (R146). -/
  | qfromb (q : BitVec 3) (b : BitVec 3)
  /-- PGRAD (R146). -/
  | pgrad (q : BitVec 3) (k : BitVec 2) (d : BitVec 8)
  /-- QHARD (R146). -/
  | qhard (q : BitVec 3) (d : BitVec 3)
  /-- LD (R155). -/
  | ld (d : BitVec 8) (a : BitVec 8) (l : BitVec 4) (s : BitVec 3) (o : BitVec 2)
  /-- ST (R155). -/
  | st (d : BitVec 8) (a : BitVec 8) (l : BitVec 4) (s : BitVec 3) (o : BitVec 2)
  /-- LDL (R155). -/
  | ldl (d : BitVec 8) (a : BitVec 8) (l : BitVec 4) (s : BitVec 3) (o : BitVec 2)
  /-- STL (R155). -/
  | stl (d : BitVec 8) (a : BitVec 8) (l : BitVec 4) (s : BitVec 3) (o : BitVec 2)
  /-- ATOM_ADD (R164). -/
  | atomAdd (d : BitVec 8) (a : BitVec 8) (l : BitVec 4) (s : BitVec 2)
  /-- ATOM_ADD64 (R164). -/
  | atomAdd64 (d : BitVec 8) (a : BitVec 8) (l : BitVec 4) (s : BitVec 2)
  /-- ATOM_MIN (R164). -/
  | atomMin (d : BitVec 8) (a : BitVec 8) (l : BitVec 4) (s : BitVec 2)
  /-- ATOM_MAX (R164). -/
  | atomMax (d : BitVec 8) (a : BitVec 8) (l : BitVec 4) (s : BitVec 2)
  /-- ATOM_AND (R164). -/
  | atomAnd (d : BitVec 8) (a : BitVec 8) (l : BitVec 4) (s : BitVec 2)
  /-- ATOM_OR (R164). -/
  | atomOr (d : BitVec 8) (a : BitVec 8) (l : BitVec 4) (s : BitVec 2)
  /-- ATOM_XCHG (R164). -/
  | atomXchg (d : BitVec 8) (a : BitVec 8) (l : BitVec 4) (s : BitVec 2)
  /-- ATOM_CAS (R164). -/
  | atomCas (d : BitVec 8) (a : BitVec 8) (l : BitVec 4) (s : BitVec 2)
  /-- ATOML_ADD (R164). -/
  | atomlAdd (d : BitVec 8) (a : BitVec 8) (l : BitVec 4) (s : Bool)
  /-- ATOML_FADD (R164). -/
  | atomlFadd (d : BitVec 8) (a : BitVec 8) (l : BitVec 4) (s : Bool)
  /-- ATOML_MIN (R164). -/
  | atomlMin (d : BitVec 8) (a : BitVec 8) (l : BitVec 4) (s : Bool)
  /-- ATOML_MAX (R164). -/
  | atomlMax (d : BitVec 8) (a : BitVec 8) (l : BitVec 4) (s : Bool)
  /-- ATOML_XCHG (R164). -/
  | atomlXchg (d : BitVec 8) (a : BitVec 8) (l : BitVec 4) (s : Bool)
  /-- ATOML_CAS (R164). -/
  | atomlCas (d : BitVec 8) (a : BitVec 8) (l : BitVec 4) (s : Bool)
  /-- ATOML_FADD2 (R164). -/
  | atomlFadd2 (d : BitVec 8) (a : BitVec 8) (l : BitVec 4) (s : Bool)
  /-- ATOML_OR (R164). -/
  | atomlOr (d : BitVec 8) (a : BitVec 8) (l : BitVec 4) (s : Bool)
  /-- FENCE (R166). -/
  | fence (s : BitVec 5) (b : BitVec 3)
  /-- NB_INIT (R169). -/
  | nbInit (k : BitVec 4) (i : Bool) (n : BitVec 6)
  /-- NB_EXPECT (R169). -/
  | nbExpect (k : BitVec 4) (i : Bool) (a : BitVec 8)
  /-- NB_ARR (R169). -/
  | nbArr (k : BitVec 4) (i : Bool) (d : BitVec 8) (g : Bool)
  /-- NB_WAIT (R169). -/
  | nbWait (k : BitVec 4) (i : Bool) (a : BitVec 8)
  /-- NB_ARW (R169). -/
  | nbArw (k : BitVec 4) (i : Bool) (g : Bool)
  /-- NB_TEST (R169). -/
  | nbTest (k : BitVec 4) (i : Bool) (a : BitVec 8) (e : BitVec 3)
  /-- CPY_G2L (R176). -/
  | cpyG2l (s : BitVec 5) (l : BitVec 8) (c : BitVec 8)
  /-- CPY_L2G (R176). -/
  | cpyL2g (s : BitVec 5) (l : BitVec 8) (c : BitVec 8)
  /-- CPY_L2L (R176). -/
  | cpyL2l (p : BitVec 8) (c : BitVec 8)
  /-- CPY_G2G (R176). -/
  | cpyG2g (p : BitVec 8) (c : BitVec 8)
  /-- CPY_PFX (R174). -/
  | cpyPfx (p : BitVec 8) (c : BitVec 8)
  /-- STRM (R179). -/
  | strm (p : BitVec 2) (d : BitVec 8)
  /-- STRM_OFF (R179). -/
  | strmOff (p : BitVec 2)
  /-- MX_ISSUE (R195). -/
  | mxIssue (a : BitVec 8)
  /-- MX_ISSUE_S (R195). -/
  | mxIssueS (e : BitVec 2)
  /-- MX_ZERO (R198). -/
  | mxZero (n : Bool)
  /-- MX_STORE (R199). -/
  | mxStore (q : BitVec 2) (p : BitVec 2) (n : Bool) (a : BitVec 8)
  /-- MX_LOAD (R199). -/
  | mxLoad (n : Bool) (a : BitVec 8)
  /-- MX_PROG (R204). -/
  | mxProg (d : BitVec 8) (w : Bool)
  /-- WJOIN (R182). -/
  | wjoin (d : BitVec 8) (a : BitVec 8)
  /-- WMAP (R183). -/
  | wmap (w : BitVec 4) (d : BitVec 8) (a : BitVec 8)
  /-- WQUERY (R181). -/
  | wquery (d : BitVec 8)
  /-- RSH_PLAN (R231). -/
  | rshPlan (d : BitVec 8) (a : BitVec 8)
  /-- RSH_GO (R232). -/
  | rshGo (a : BitVec 8)
  /-- RSH_POLL (R235). -/
  | rshPoll (d : BitVec 8) (w : Bool)
  /-- RSH_SAVE (R234). -/
  | rshSave (a : BitVec 8)
  /-- RSH_RESUME (R234). -/
  | rshResume (a : BitVec 8)
  /-- CKA (R207). -/
  | cka (n : BitVec 2) (m : Bool) (a : BitVec 8)
  /-- CKX (R208). -/
  | ckx (s : BitVec 4) (n : BitVec 2) (m : Bool) (r : Bool)
  /-- CKT (R209). -/
  | ckt (n : BitVec 2) (m : Bool) (a : BitVec 8) (b : BitVec 8)
  /-- CKZ (R210). -/
  | ckz (n : BitVec 2)
  /-- BRA (R107). -/
  | bra (c : BitVec 3) (s : Bool) (o : BitVec 21)
  /-- CALL (R107). -/
  | call (c : BitVec 3) (s : Bool) (o : BitVec 21)
  /-- JMPI (R108). -/
  | jmpi (p : BitVec 8)
  /-- CALLI (R108). -/
  | calli (p : BitVec 8)
  /-- RET (R106). -/
  | ret
  /-- EXIT (R110). -/
  | exit
  /-- RCV_SET (R112). -/
  | rcvSet (s : BitVec 4) (k : BitVec 3)
  /-- RCV_WAIT (R113). -/
  | rcvWait (k : BitVec 3)
  /-- YLD (R121). -/
  | yld (dl : BitVec 4) (n : BitVec 4)
  /-- STAGE (R128). -/
  | stage (s : BitVec 2) (k : BitVec 16)
  /-- CHEND (R135). -/
  | chend
  /-- TRAP (R123). -/
  | trap (i : BitVec 8)
  /-- RTT (R124). -/
  | rtt
  /-- ELECT (R119). -/
  | elect (s : BitVec 4) (d : BitVec 3)
  /-- BOP (R120). -/
  | bop (d : BitVec 3) (a : BitVec 3) (b : BitVec 3) (o : BitVec 2)
  /-- BRK (R123). -/
  | brk
  /-- SRD (R222). -/
  | srd (d : BitVec 8) (i : BitVec 8)
  /-- SWR (R223). -/
  | swr (a : BitVec 8) (i : BitVec 8)
  /-- MOVS (R224). -/
  | movs (a : BitVec 8) (s : BitVec 6)
  /-- SMOV (R224). -/
  | smov (d : BitVec 8) (s : BitVec 6)
  /-- DQPUSH (R217). -/
  | dqpush (g : BitVec 5) (a : BitVec 8)
  /-- DQPOP (R218). -/
  | dqpop (d : BitVec 8)
  /-- FTWAIT_NB (R219). -/
  | ftwaitNb (a : BitVec 8) (k : BitVec 5)
  /-- FTWAIT_DQ (R219). -/
  | ftwaitDq (a : BitVec 8) (k : BitVec 5)
  /-- FTWAIT_CLK (R219). -/
  | ftwaitClk (a : BitVec 8)
  /-- FTLAUNCH (R220). -/
  | ftlaunch (d : BitVec 8) (a : BitVec 8)
  /-- CHSEED (R134). -/
  | chseed (k : BitVec 3) (a : BitVec 8)
  /-- TLBINV_ALL (R227). -/
  | tlbinvAll (a : BitVec 8)
  /-- TLBINV_PAGE (R227). -/
  | tlbinvPage (a : BitVec 8)
  /-- KILLCTX (R228). -/
  | killctx (d : BitVec 8) (a : BitVec 8)
  /-- SUCC_GOTO (R338). -/
  | succGoto (t : BitVec 24)
  /-- SUCC_BR (R338). -/
  | succBr (c : BitVec 3) (sense : Bool) (t1 : BitVec 24) (t2 : BitVec 24)
  /-- SUCC_SW (R338). -/
  | succSw (i : BitVec 8) (ts : List (BitVec 24))
  /-- SUCC_CALL (R338). -/
  | succCall (t : BitVec 24) (tr : BitVec 24)
  /-- FAULT_RECORD_WAKE (R248). -/
  | faultRecordWake (ctx : Nat) (rec : Nat)
  /-- TRAP_ENTRY (R298). -/
  | trapEntry (team : Nat) (t : Nat)
  /-- CHAIN_SETTLE (R133). -/
  | chainSettle (team : Nat) (t : Nat)
  /-- STREAM_PUSH (R180). -/
  | streamPush (team : Nat) (who : Who)
  /-- CHAIN_GROUP_CREATE (R126). -/
  | chainGroupCreate (team : Nat)
  /-- COPY_TRANSFER (R176). -/
  | copyTransfer (team : Nat) (id : Nat)
  /-- MATRIX_COMMAND_START (R187). -/
  | matrixCommandStart (team : Nat)
  /-- MX_SLICE (R196). -/
  | mxSlice (team : Nat)
  /-- MX_STORE_TRANSFER (R200). -/
  | mxStoreTransfer (team : Nat)
  /-- MX_LOAD_TRANSFER (R203). -/
  | mxLoadTransfer (team : Nat)
  /-- RSH_STOP_AT_BOUNDARY (R234). -/
  | rshStopAtBoundary (team : Nat)
  /-- RSH_ROW_PULL (R232). -/
  | rshRowPull (team : Nat) (answer : RemoteAnswer)
  /-- STORE_ACKNOWLEDGEMENT (R291). -/
  | storeAcknowledgement (team : Nat) (k : Nat)
  /-- CLOCK_WAIT_EXPIRY (R219). -/
  | clockWaitExpiry (team : Nat)
  /-- TEAM_END (R215). -/
  | teamEnd (team : Nat)
  /-- CONTEXT_SAVE (R289). -/
  | contextSave (team : Nat)
  /-- WIZIN_TRANSLATE (R334). -/
  | wizinTranslate (launch : Nat)
  /-- JOB_TEAM_CREATE (R280). -/
  | jobTeamCreate (launch : Nat) (core : Nat)
  /-- JOB_CHUNK_TAKE (R280). -/
  | jobChunkTake (launch : Nat) (core : Nat)
  /-- LAUNCH_COMPLETE (R292). -/
  | launchComplete (launch : Nat)
  /-- PARITY_UPDATE_LAND (R265). -/
  | parityUpdateLand (core : Nat)
  /-- BANK_RETIRE (R270). -/
  | bankRetire (core : Nat) (bank : Nat)
  /-- REQUEST_BUDGET_EXPIRY (R310). -/
  | requestBudgetExpiry (id : Nat)
  /-- KILL_COMPLETE (R305). -/
  | killComplete (ctx : Nat)
  /-- FAULT_RECORD_TAKE (R301). -/
  | faultRecordTake (ctx : Nat)
  /-- COLLECTIVE_DOORBELL (R316). -/
  | collectiveDoorbell (q : Nat) (tail : BitVec 32)
  /-- COLLECTIVE_COMPLETE (R322). -/
  | collectiveComplete (id : Nat)
  /-- COLLECTIVE_CHUNK (R321). -/
  | collectiveChunk (id : Nat) (peers : List PeerContribution)
  /-- REFRESH_MANAGEMENT_COMPLETE (R242). -/
  | refreshManagementComplete (stack : Nat) (bank : Nat)
  /-- RESET_BOOT (R345). -/
  | resetBoot (failed : Option (BitVec 3))
  /-- FTWAIT_MX (R219). -/
  | ftwaitMx
  /-- FTWAIT_RSH (R219). -/
  | ftwaitRsh
  /-- ICINV (R226). -/
  | icinv
  /-- TLBINV_HEAP (R227). -/
  | tlbinvHeap
  /-- WLEAVE (R184). -/
  | wleave
  /-- LAND (R108). -/
  | land
  /-- SUCC_RET (R338). -/
  | succRet
  /-- SUCC_EXIT (R338). -/
  | succExit
  /-- SUCC_RTT (R338). -/
  | succRtt
  /-- LOAD_RESULT_RETURN (R155). -/
  | loadResultReturn (team : Nat) (who : Who)
  /-- STREAM_POP (R180). -/
  | streamPop (team : Nat) (who : Who) (port : Bool)
  /-- WATCHDOG (R122). -/
  | watchdog (team : Nat) (t : Nat)
  /-- LAUNCH_DOORBELL (R276). -/
  | launchDoorbell (q : Nat) (tail : BitVec 32)
  /-- LAUNCH_ADMISSION (R277). -/
  | launchAdmission
  /-- TEAM_PLACEMENT (R281). -/
  | teamPlacement
  /-- GANG_STAGGER_EXPIRY (R283). -/
  | gangStaggerExpiry (launch : Nat)
  /-- PATH_AGEING (R286). -/
  | pathAgeing (team : Nat) (group : Nat) (pc : Word64)
  /-- PREEMPTION (R288). -/
  | preemption
  /-- REMOTE_ANSWER (R309). -/
  | remoteAnswer (id : Nat) (answer : RemoteAnswer)
  /-- INBOUND_REMOTE_REQUEST (R313). -/
  | inboundRemoteRequest (req : InboundRequest)
  /-- LINK_PAUSE (R311). -/
  | linkPause (port : Nat)
  /-- LINK_RESUME (R311). -/
  | linkResume (port : Nat)
  /-- PORT_FAILURE (R308). -/
  | portFailure (port : Nat)
  /-- HOST_COPY_DESCRIPTOR (R329). -/
  | hostCopyDescriptor (d : HostDescriptor)
  /-- HOST_APERTURE_ACCESS (R328). -/
  | hostApertureAccess (a : HostAccess)
  /-- CORRECTED_ERROR (R251). -/
  | correctedError (stack : BitVec 3) (rho : BitVec 32)
  /-- ROW_ACTIVATION_ALERT (R242). -/
  | rowActivationAlert (stack : Nat) (bank : Nat)
  /-- POWER_ESTIMATE (R347). -/
  | powerEstimate (watts : Nat) (ks : List (BitVec 3))
  /-- TEMPERATURE_THROTTLE (R348). -/
  | temperatureThrottle (die : Nat) (temp : BitVec 8)
  /-- THERMAL_TRIP (R348). -/
  | thermalTrip (die : Nat) (temp : BitVec 8)
  /-- ATTESTATION (R346). -/
  | attestation
  /-- LINDEN_CLEAR (R349). -/
  | lindenClear (v : BitVec 32)
  /-- SPRETIRE (R349). -/
  | spretire (v : BitVec 32)
  /-- ROUTE (R349). -/
  | route (v : BitVec 64)
  /-- CTXCTL (R349). -/
  | ctxctl (x : BitVec 12) (v : BitVec 64)
  /-- TRANSLATION_STORE_CONFIG (R336). -/
  | translationStoreConfig (base : BitVec 64) (size : BitVec 64)
  /-- MANAGEMENT_REGISTER_WRITE (R349). -/
  | managementRegisterWrite (off : BitVec 16) (v : BitVec 64)
  /-- HOST_LINK_FAILURE (R328). -/
  | hostLinkFailure (link : Bool)
  /-- LINK_RETRANSMISSION (R308). -/
  | linkRetransmission (port : Nat)
  /-- TEMPERATURE_THROTTLE_END (R348). -/
  | temperatureThrottleEnd (die : Nat) (temp : BitVec 8)
  /-- ATTESTATION_COMPLETE (R346). -/
  | attestationComplete
  deriving DecidableEq, Repr

end Sys2Proof
end

