-- ==== Sys2Proof/WellFormed.lean ====
section
/-!
DEFINITION. Which instructions the encoding tables admit: every coded field holds an assigned value (R62).  A field
whose table leaves no value unassigned needs no check, and so has none here.
-/

namespace Sys2Proof

/-- An instruction whose coded fields hold assigned values. Anything else traps ILLEGAL (R62). -/
def Instr.wf : Instr → Bool
  | .movCompact _ _ => true
  | .iaddCompact _ _ => true
  | .isubCompact _ _ => true
  | .andCompact _ _ => true
  | .orCompact _ _ => true
  | .xorCompact _ _ => true
  | .shlCompact _ _ => true
  | .shrCompact _ _ => true
  | .sarCompact _ _ => true
  | .imulCompact _ _ => true
  | .faddCompact _ _ => true
  | .fsubCompact _ _ => true
  | .fmulCompact _ _ => true
  | .fmaxCompact _ _ => true
  | .iaddiCompact _ _ => true
  | .movi _ _ => true
  | .iadd _ _ _ => true
  | .isub _ _ _ => true
  | .imul _ _ _ _ => true
  | .imulhs _ _ _ => true
  | .imad _ _ _ _ => true
  | .and _ _ _ => true
  | .or _ _ _ => true
  | .xor _ _ _ => true
  | .andn _ _ _ => true
  | .shl _ _ _ => true
  | .shr _ _ _ => true
  | .sar _ _ _ => true
  | .imin _ _ _ _ => true
  | .imax _ _ _ _ => true
  | .iadd64 _ _ _ _ => true
  | .perm _ _ _ => true
  | .mov _ _ => true
  | .not _ _ => true
  | .neg _ _ => true
  | .iabs _ _ => true
  | .clz _ _ => true
  | .popc _ _ => true
  | .brev _ _ => true
  | .sexb _ _ => true
  | .sexh _ _ => true
  | .zexb _ _ => true
  | .zexh _ _ => true
  | .laneid _ => true
  | .tidx _ => true
  | .teamix _ => true
  | .clklo _ => true
  | .clkhi _ => true
  | .b2g _ _ => true
  | .g2b _ _ => true
  | .clz64 _ _ => true
  | .popc64 _ _ => true
  | .iaddi _ _ _ => true
  | .andi _ _ _ => true
  | .ori _ _ _ => true
  | .xori _ _ _ => true
  | .shli _ _ _ => true
  | .shri _ _ _ => true
  | .sari _ _ _ => true
  | .rotri _ _ _ => true
  | .movkl _ _ => true
  | .movkh _ _ => true
  | .icmp _ _ _ _ _ => true
  | .icmpi _ _ _ _ _ => true
  | .sel _ _ _ _ => true
  | .shflIdx _ _ _ _ => true
  | .shflUp _ _ _ _ => true
  | .shflDown _ _ _ _ => true
  | .shflXor _ _ _ _ => true
  | .voteAny _ _ _ _ => true
  | .voteAll _ _ _ _ => true
  | .voteBallot _ _ _ _ => true
  | .voteMatch _ _ _ _ => true
  | .voteRadd _ _ _ _ => true
  | .voteRmin _ _ _ _ => true
  | .voteRmax _ _ _ _ => true
  | .voteRfadd _ _ _ _ => true
  | .fadd _ _ _ _ => true
  | .fsub _ _ _ _ => true
  | .fmul _ _ _ _ => true
  | .ffma _ _ _ _ => true
  | .fmin _ _ _ _ => true
  | .fmax _ _ _ _ => true
  | .fabs _ _ _ => true
  | .fneg _ _ _ => true
  | .frcp _ _ _ => true
  | .frsq _ _ _ => true
  | .fsqrt _ _ _ => true
  | .fexp2 _ _ _ => true
  | .flog2 _ _ _ => true
  | .fsin _ _ _ => true
  | .fcos _ _ _ => true
  | .ftanh _ _ _ => true
  | .ffloor _ _ _ => true
  | .fceil _ _ _ => true
  | .ftrunc _ _ _ => true
  | .frint _ _ _ => true
  | .fclass _ _ _ => true
  | .fsat _ _ _ => true
  | .fcmp _ _ _ _ _ => true
  | .cvt _ _ f _ _ i => !(i && f == 7)  -- shift-insert with an FP32 result (R66)
  | .cvif _ _ => true
  | .cvnf _ _ => true
  | .cvfi _ _ => true
  | .cvfn _ _ => true
  | .cvhf _ _ _ => true
  | .cvbf _ _ => true
  | .cv8af _ _ => true
  | .cv8bf _ _ => true
  | .dot4 _ _ _ => true
  | .dot2 _ _ _ => true
  | .idiv _ _ _ => true
  | .idivu _ _ _ => true
  | .scmp _ _ _ _ _ => true
  | .pcombAnd _ _ _ _ => true
  | .pcombOr _ _ _ _ => true
  | .pcombNot _ _ => true
  | .pcombXor _ _ _ _ => true
  | .blend _ _ _ _ => true
  | .blendi _ _ _ _ => true
  | .selq _ _ _ _ => true
  | .coll _ _ => true
  | .qset _ _ => true
  | .qget _ _ => true
  | .qfromb _ _ => true
  | .pgrad _ _ _ => true
  | .qhard _ _ => true
  | .ld _ _ _ s o => decide (s ≠ 7) && decide (o ≠ 3)  -- size 7 and order 3 are unassigned (R64)
  | .st _ _ _ s o => (s == 0 || s == 2 || s == 4 || s == 5 || s == 6) && decide (o ≠ 3)  -- a store has no signed size; order 3 is unassigned (R64)
  | .ldl _ _ _ s o => decide (s ≠ 7) && (o == 0 || o == 1)  -- no .NT form of LDL (R64)
  | .stl _ _ _ s o => (s == 0 || s == 2 || s == 4 || s == 5 || s == 6) && (o == 0 || o == 1)  -- no .NT form of STL (R64)
  | .atomAdd _ _ _ _ => true
  | .atomAdd64 _ _ _ _ => true
  | .atomMin _ _ _ _ => true
  | .atomMax _ _ _ _ => true
  | .atomAnd _ _ _ _ => true
  | .atomOr _ _ _ _ => true
  | .atomXchg _ _ _ _ => true
  | .atomCas _ _ _ _ => true
  | .atomlAdd _ _ _ _ => true
  | .atomlFadd _ _ _ _ => true
  | .atomlMin _ _ _ _ => true
  | .atomlMax _ _ _ _ => true
  | .atomlXchg _ _ _ _ => true
  | .atomlCas _ _ _ _ => true
  | .atomlFadd2 _ _ _ _ => true
  | .atomlOr _ _ _ _ => true
  | .fence s _ => decide (s.toNat ≤ 5)  -- scope codes 6 to 31 (R72)
  | .nbInit _ _ _ => true
  | .nbExpect _ _ _ => true
  | .nbArr _ _ _ _ => true
  | .nbWait _ _ _ => true
  | .nbArw _ _ _ => true
  | .nbTest _ _ _ _ => true
  | .cpyG2l _ _ _ => true
  | .cpyL2g _ _ _ => true
  | .cpyL2l _ _ => true
  | .cpyG2g _ _ => true
  | .cpyPfx _ _ => true
  | .strm _ _ => true
  | .strmOff _ => true
  | .mxIssue _ => true
  | .mxIssueS _ => true
  | .mxZero _ => true
  | .mxStore _ _ _ _ => true
  | .mxLoad _ _ => true
  | .mxProg _ _ => true
  | .wjoin _ _ => true
  | .wleave => true
  | .wmap _ _ _ => true
  | .wquery _ => true
  | .rshPlan _ _ => true
  | .rshGo _ => true
  | .rshPoll _ _ => true
  | .rshSave _ => true
  | .rshResume _ => true
  | .cka _ _ _ => true
  | .ckx _ _ _ _ => true
  | .ckt _ _ _ _ => true
  | .ckz _ => true
  | .bra _ _ _ => true
  | .call _ _ _ => true
  | .jmpi _ => true
  | .calli _ => true
  | .ret => true
  | .exit => true
  | .land => true
  | .rcvSet _ _ => true
  | .rcvWait _ => true
  | .yld _ n => decide (n.toNat ≤ 14)  -- a live class of 15 (R69)
  | .stage _ k => decide (2 ≤ k.toNat)  -- a skip of 0 or 1 (R128)
  | .chend => true
  | .trap _ => true
  | .rtt => true
  | .elect _ _ => true
  | .bop _ _ _ _ => true
  | .brk => true
  | .srd _ _ => true
  | .swr _ _ => true
  | .movs _ _ => true
  | .smov _ _ => true
  | .dqpush _ _ => true
  | .dqpop _ => true
  | .ftwaitNb _ k => decide (k.toNat ≤ 15)  -- a barrier number above 15 (R219)
  | .ftwaitDq _ _ => true
  | .ftwaitMx => true
  | .ftwaitRsh => true
  | .ftwaitClk _ => true
  | .ftlaunch _ _ => true
  | .chseed _ _ => true
  | .icinv => true
  | .tlbinvAll _ => true
  | .tlbinvPage _ => true
  | .tlbinvHeap => true
  | .killctx _ _ => true
  | .succGoto _ => true
  | .succBr _ _ _ _ => true
  | .succSw _ ts => decide (1 ≤ ts.length) && decide (ts.length ≤ 65535)  -- a table of 1 to 65535 targets (R338)
  | .succCall _ _ => true
  | .succRet => true
  | .succExit => true
  | .succRtt => true
  | .loadResultReturn _ _ => true
  | .streamPop _ _ _ => true
  | .streamPush _ _ => true
  | .watchdog _ _ => true
  | .trapEntry _ _ => true
  | .teamEnd _ => true
  | .chainGroupCreate _ => true
  | .chainSettle _ _ => true
  | .faultRecordWake _ _ => true
  | .faultRecordTake _ => true
  | .copyTransfer _ _ => true
  | .matrixCommandStart _ => true
  | .mxSlice _ => true
  | .mxStoreTransfer _ => true
  | .mxLoadTransfer _ => true
  | .rshRowPull _ _ => true
  | .rshStopAtBoundary _ => true
  | .parityUpdateLand _ => true
  | .bankRetire _ _ => true
  | .killComplete _ => true
  | .launchDoorbell _ _ => true
  | .launchAdmission => true
  | .wizinTranslate _ => true
  | .teamPlacement => true
  | .gangStaggerExpiry _ => true
  | .jobChunkTake _ _ => true
  | .jobTeamCreate _ _ => true
  | .pathAgeing _ _ _ => true
  | .preemption => true
  | .contextSave _ => true
  | .launchComplete _ => true
  | .remoteAnswer _ _ => true
  | .inboundRemoteRequest _ => true
  | .requestBudgetExpiry _ => true
  | .linkPause _ => true
  | .linkResume _ => true
  | .portFailure _ => true
  | .collectiveDoorbell _ _ => true
  | .collectiveChunk _ _ => true
  | .collectiveComplete _ => true
  | .hostCopyDescriptor _ => true
  | .hostApertureAccess _ => true
  | .correctedError _ _ => true
  | .rowActivationAlert _ _ => true
  | .powerEstimate _ _ => true
  | .temperatureThrottle _ _ => true
  | .thermalTrip _ _ => true
  | .resetBoot _ => true
  | .attestation => true
  | .lindenClear _ => true
  | .spretire _ => true
  | .route _ => true
  | .ctxctl _ _ => true
  | .translationStoreConfig _ _ => true
  | .managementRegisterWrite _ _ => true
  | .storeAcknowledgement _ _ => true
  | .clockWaitExpiry _ => true
  | .refreshManagementComplete _ _ => true
  | .hostLinkFailure _ => true
  | .linkRetransmission _ => true
  | .temperatureThrottleEnd _ _ => true
  | .attestationComplete => true

end Sys2Proof
end

