-- ==== Sys2Proof/Decode.lean ====
section
/-!
DEFINITION. Decoding (R56–R73): total on any bytes, rejecting by name; and an encoder written from the same tables.
Segment-form successor words (R338) have a decoder of their own, since their kind stands where a native word has its
length bit.
-/

namespace Sys2Proof

/-- Why bytes are no instruction. -/
inductive Reject where
  /-- Fewer bytes than the first halfword's length bit asks for (R56). -/
  | truncated
  /-- A major, minor, function or coded field that the tables leave unassigned, or a must-be-zero field that is not
  zero (R62, R70–R73). -/
  | illegal
  deriving DecidableEq, Repr

/-- A one-bit field as a truth value. -/
def flag (b : BitVec 1) : Bool := b == 1#1

/-- A truth value as a one-bit field. -/
def bit (b : Bool) : BitVec 1 := if b then 1#1 else 0#1

/-- The instruction, if its fixed fields hold what the table gives. -/
def req (c : Bool) (i : Instr) : Option Instr := if c then some i else none

/-- The sixteen compact forms, by op (R59). -/
def rawCompact (w : BitVec 16) : Option Instr :=
  match (w.extractLsb' 0 5).toNat with
  | 0x00 => some (.movCompact (w.extractLsb' 5 6) (w.extractLsb' 11 5))
  | 0x02 => some (.iaddCompact (w.extractLsb' 5 6) (w.extractLsb' 11 5))
  | 0x04 => some (.isubCompact (w.extractLsb' 5 6) (w.extractLsb' 11 5))
  | 0x06 => some (.andCompact (w.extractLsb' 5 6) (w.extractLsb' 11 5))
  | 0x08 => some (.orCompact (w.extractLsb' 5 6) (w.extractLsb' 11 5))
  | 0x0a => some (.xorCompact (w.extractLsb' 5 6) (w.extractLsb' 11 5))
  | 0x0c => some (.shlCompact (w.extractLsb' 5 6) (w.extractLsb' 11 5))
  | 0x0e => some (.shrCompact (w.extractLsb' 5 6) (w.extractLsb' 11 5))
  | 0x10 => some (.sarCompact (w.extractLsb' 5 6) (w.extractLsb' 11 5))
  | 0x12 => some (.imulCompact (w.extractLsb' 5 6) (w.extractLsb' 11 5))
  | 0x14 => some (.faddCompact (w.extractLsb' 5 6) (w.extractLsb' 11 5))
  | 0x16 => some (.fsubCompact (w.extractLsb' 5 6) (w.extractLsb' 11 5))
  | 0x18 => some (.fmulCompact (w.extractLsb' 5 6) (w.extractLsb' 11 5))
  | 0x1a => some (.fmaxCompact (w.extractLsb' 5 6) (w.extractLsb' 11 5))
  | 0x1c => some (.iaddiCompact (w.extractLsb' 5 6) (w.extractLsb' 11 5))
  | 0x1e => some (.movi (w.extractLsb' 5 6) (w.extractLsb' 11 5))
  | _ => none

/-- Major 0x10: the rows told apart by bits [30:23]. -/
def group21 (w : BitVec 32) : Option Instr :=
  match (w.extractLsb' 23 8).toNat with
  | 0x00 => req (w.extractLsb' 31 1 == 0#1) (.mov (w.extractLsb' 7 8) (w.extractLsb' 15 8))
  | 0x01 => req (w.extractLsb' 31 1 == 0#1) (.not (w.extractLsb' 7 8) (w.extractLsb' 15 8))
  | 0x02 => req (w.extractLsb' 31 1 == 0#1) (.neg (w.extractLsb' 7 8) (w.extractLsb' 15 8))
  | 0x03 => req (w.extractLsb' 31 1 == 0#1) (.iabs (w.extractLsb' 7 8) (w.extractLsb' 15 8))
  | 0x04 => req (w.extractLsb' 31 1 == 0#1) (.clz (w.extractLsb' 7 8) (w.extractLsb' 15 8))
  | 0x05 => req (w.extractLsb' 31 1 == 0#1) (.popc (w.extractLsb' 7 8) (w.extractLsb' 15 8))
  | 0x06 => req (w.extractLsb' 31 1 == 0#1) (.brev (w.extractLsb' 7 8) (w.extractLsb' 15 8))
  | 0x07 => req (w.extractLsb' 31 1 == 0#1) (.sexb (w.extractLsb' 7 8) (w.extractLsb' 15 8))
  | 0x08 => req (w.extractLsb' 31 1 == 0#1) (.sexh (w.extractLsb' 7 8) (w.extractLsb' 15 8))
  | 0x09 => req (w.extractLsb' 31 1 == 0#1) (.zexb (w.extractLsb' 7 8) (w.extractLsb' 15 8))
  | 0x0a => req (w.extractLsb' 31 1 == 0#1) (.zexh (w.extractLsb' 7 8) (w.extractLsb' 15 8))
  | 0x0b => req (w.extractLsb' 15 16 == 2816#16 && w.extractLsb' 31 1 == 0#1) (.laneid (w.extractLsb' 7 8))
  | 0x0c => req (w.extractLsb' 15 16 == 3072#16 && w.extractLsb' 31 1 == 0#1) (.tidx (w.extractLsb' 7 8))
  | 0x0d => req (w.extractLsb' 15 16 == 3328#16 && w.extractLsb' 31 1 == 0#1) (.teamix (w.extractLsb' 7 8))
  | 0x0e => req (w.extractLsb' 15 16 == 3584#16 && w.extractLsb' 31 1 == 0#1) (.clklo (w.extractLsb' 7 8))
  | 0x0f => req (w.extractLsb' 15 16 == 3840#16 && w.extractLsb' 31 1 == 0#1) (.clkhi (w.extractLsb' 7 8))
  | 0x10 => req (w.extractLsb' 18 13 == 512#13 && w.extractLsb' 31 1 == 0#1) (.b2g (w.extractLsb' 7 8) (w.extractLsb' 15 3))
  | 0x11 => req (w.extractLsb' 10 5 == 0#5 && w.extractLsb' 31 1 == 0#1) (.g2b (w.extractLsb' 7 3) (w.extractLsb' 15 8))
  | 0x12 => req (w.extractLsb' 31 1 == 0#1) (.clz64 (w.extractLsb' 7 8) (w.extractLsb' 15 8))
  | 0x13 => req (w.extractLsb' 31 1 == 0#1) (.popc64 (w.extractLsb' 7 8) (w.extractLsb' 15 8))
  | _ => none

/-- Major 0x15: the rows told apart by bits [30:28]. -/
def group2B (w : BitVec 32) : Option Instr :=
  match (w.extractLsb' 28 3).toNat with
  | 0x00 => req (w.extractLsb' 31 1 == 0#1) (.shli (w.extractLsb' 7 8) (w.extractLsb' 15 8) (w.extractLsb' 23 5))
  | 0x01 => req (w.extractLsb' 31 1 == 0#1) (.shri (w.extractLsb' 7 8) (w.extractLsb' 15 8) (w.extractLsb' 23 5))
  | 0x02 => req (w.extractLsb' 31 1 == 0#1) (.sari (w.extractLsb' 7 8) (w.extractLsb' 15 8) (w.extractLsb' 23 5))
  | 0x03 => req (w.extractLsb' 31 1 == 0#1) (.rotri (w.extractLsb' 7 8) (w.extractLsb' 15 8) (w.extractLsb' 23 5))
  | _ => none

/-- Major 0x16: the rows told apart by bits [31:31]. -/
def group2D (w : BitVec 32) : Option Instr :=
  match (w.extractLsb' 31 1).toNat with
  | 0x00 => some (.movkl (w.extractLsb' 7 8) (w.extractLsb' 15 16))
  | 0x01 => some (.movkh (w.extractLsb' 7 8) (w.extractLsb' 15 16))
  | _ => none

/-- Major 0x1A: the rows told apart by bits [9:7]. -/
def group35 (w : BitVec 32) : Option Instr :=
  match (w.extractLsb' 7 3).toNat with
  | 0x00 => req (w.extractLsb' 14 1 == 0#1) (.shflIdx (w.extractLsb' 10 4) (w.extractLsb' 15 8) (w.extractLsb' 23 8) (flag (w.extractLsb' 31 1)))
  | 0x01 => req (w.extractLsb' 14 1 == 0#1) (.shflUp (w.extractLsb' 10 4) (w.extractLsb' 15 8) (w.extractLsb' 23 8) (flag (w.extractLsb' 31 1)))
  | 0x02 => req (w.extractLsb' 14 1 == 0#1) (.shflDown (w.extractLsb' 10 4) (w.extractLsb' 15 8) (w.extractLsb' 23 8) (flag (w.extractLsb' 31 1)))
  | 0x03 => req (w.extractLsb' 14 1 == 0#1) (.shflXor (w.extractLsb' 10 4) (w.extractLsb' 15 8) (w.extractLsb' 23 8) (flag (w.extractLsb' 31 1)))
  | _ => none

/-- Major 0x1B: the rows told apart by bits [9:7]. -/
def group37 (w : BitVec 32) : Option Instr :=
  match (w.extractLsb' 7 3).toNat with
  | 0x00 => req (w.extractLsb' 14 1 == 0#1 && w.extractLsb' 18 5 == 0#5 && w.extractLsb' 26 5 == 0#5) (.voteAny (w.extractLsb' 10 4) (w.extractLsb' 15 3) (w.extractLsb' 23 3) (flag (w.extractLsb' 31 1)))
  | 0x01 => req (w.extractLsb' 14 1 == 0#1 && w.extractLsb' 18 5 == 0#5 && w.extractLsb' 26 5 == 0#5) (.voteAll (w.extractLsb' 10 4) (w.extractLsb' 15 3) (w.extractLsb' 23 3) (flag (w.extractLsb' 31 1)))
  | 0x02 => req (w.extractLsb' 14 1 == 0#1 && w.extractLsb' 26 5 == 0#5) (.voteBallot (w.extractLsb' 10 4) (w.extractLsb' 15 8) (w.extractLsb' 23 3) (flag (w.extractLsb' 31 1)))
  | 0x03 => req (w.extractLsb' 14 1 == 0#1) (.voteMatch (w.extractLsb' 10 4) (w.extractLsb' 15 8) (w.extractLsb' 23 8) (flag (w.extractLsb' 31 1)))
  | 0x04 => req (w.extractLsb' 14 1 == 0#1) (.voteRadd (w.extractLsb' 10 4) (w.extractLsb' 15 8) (w.extractLsb' 23 8) (flag (w.extractLsb' 31 1)))
  | 0x05 => req (w.extractLsb' 14 1 == 0#1) (.voteRmin (w.extractLsb' 10 4) (w.extractLsb' 15 8) (w.extractLsb' 23 8) (flag (w.extractLsb' 31 1)))
  | 0x06 => req (w.extractLsb' 14 1 == 0#1) (.voteRmax (w.extractLsb' 10 4) (w.extractLsb' 15 8) (w.extractLsb' 23 8) (flag (w.extractLsb' 31 1)))
  | 0x07 => req (w.extractLsb' 14 1 == 0#1) (.voteRfadd (w.extractLsb' 10 4) (w.extractLsb' 15 8) (w.extractLsb' 23 8) (flag (w.extractLsb' 31 1)))
  | _ => none

/-- Major 0x26: the rows told apart by bits [26:23]. -/
def group4D (w : BitVec 32) : Option Instr :=
  match (w.extractLsb' 23 4).toNat with
  | 0x00 => req (w.extractLsb' 31 1 == 0#1) (.fabs (w.extractLsb' 7 8) (w.extractLsb' 15 8) (w.extractLsb' 27 4))
  | 0x01 => req (w.extractLsb' 31 1 == 0#1) (.fneg (w.extractLsb' 7 8) (w.extractLsb' 15 8) (w.extractLsb' 27 4))
  | 0x02 => req (w.extractLsb' 31 1 == 0#1) (.frcp (w.extractLsb' 7 8) (w.extractLsb' 15 8) (w.extractLsb' 27 4))
  | 0x03 => req (w.extractLsb' 31 1 == 0#1) (.frsq (w.extractLsb' 7 8) (w.extractLsb' 15 8) (w.extractLsb' 27 4))
  | 0x04 => req (w.extractLsb' 31 1 == 0#1) (.fsqrt (w.extractLsb' 7 8) (w.extractLsb' 15 8) (w.extractLsb' 27 4))
  | 0x05 => req (w.extractLsb' 31 1 == 0#1) (.fexp2 (w.extractLsb' 7 8) (w.extractLsb' 15 8) (w.extractLsb' 27 4))
  | 0x06 => req (w.extractLsb' 31 1 == 0#1) (.flog2 (w.extractLsb' 7 8) (w.extractLsb' 15 8) (w.extractLsb' 27 4))
  | 0x07 => req (w.extractLsb' 31 1 == 0#1) (.fsin (w.extractLsb' 7 8) (w.extractLsb' 15 8) (w.extractLsb' 27 4))
  | 0x08 => req (w.extractLsb' 31 1 == 0#1) (.fcos (w.extractLsb' 7 8) (w.extractLsb' 15 8) (w.extractLsb' 27 4))
  | 0x09 => req (w.extractLsb' 31 1 == 0#1) (.ftanh (w.extractLsb' 7 8) (w.extractLsb' 15 8) (w.extractLsb' 27 4))
  | 0x0a => req (w.extractLsb' 31 1 == 0#1) (.ffloor (w.extractLsb' 7 8) (w.extractLsb' 15 8) (w.extractLsb' 27 4))
  | 0x0b => req (w.extractLsb' 31 1 == 0#1) (.fceil (w.extractLsb' 7 8) (w.extractLsb' 15 8) (w.extractLsb' 27 4))
  | 0x0c => req (w.extractLsb' 31 1 == 0#1) (.ftrunc (w.extractLsb' 7 8) (w.extractLsb' 15 8) (w.extractLsb' 27 4))
  | 0x0d => req (w.extractLsb' 31 1 == 0#1) (.frint (w.extractLsb' 7 8) (w.extractLsb' 15 8) (w.extractLsb' 27 4))
  | 0x0e => req (w.extractLsb' 31 1 == 0#1) (.fclass (w.extractLsb' 7 8) (w.extractLsb' 15 8) (w.extractLsb' 27 4))
  | 0x0f => req (w.extractLsb' 31 1 == 0#1) (.fsat (w.extractLsb' 7 8) (w.extractLsb' 15 8) (w.extractLsb' 27 4))
  | _ => none

/-- Major 0x29: the rows told apart by bits [30:23]. -/
def group53 (w : BitVec 32) : Option Instr :=
  match (w.extractLsb' 23 8).toNat with
  | 0x00 => req (w.extractLsb' 31 1 == 0#1) (.cvif (w.extractLsb' 7 8) (w.extractLsb' 15 8))
  | 0x01 => req (w.extractLsb' 31 1 == 0#1) (.cvnf (w.extractLsb' 7 8) (w.extractLsb' 15 8))
  | 0x02 => req (w.extractLsb' 31 1 == 0#1) (.cvfi (w.extractLsb' 7 8) (w.extractLsb' 15 8))
  | 0x03 => req (w.extractLsb' 31 1 == 0#1) (.cvfn (w.extractLsb' 7 8) (w.extractLsb' 15 8))
  | 0x04 => some (.cvhf (w.extractLsb' 7 8) (w.extractLsb' 15 8) (flag (w.extractLsb' 31 1)))
  | 0x05 => req (w.extractLsb' 31 1 == 0#1) (.cvbf (w.extractLsb' 7 8) (w.extractLsb' 15 8))
  | 0x06 => req (w.extractLsb' 31 1 == 0#1) (.cv8af (w.extractLsb' 7 8) (w.extractLsb' 15 8))
  | 0x07 => req (w.extractLsb' 31 1 == 0#1) (.cv8bf (w.extractLsb' 7 8) (w.extractLsb' 15 8))
  | _ => none

/-- Major 0x2A: the rows told apart by bits [31:31]. -/
def group55 (w : BitVec 32) : Option Instr :=
  match (w.extractLsb' 31 1).toNat with
  | 0x00 => some (.dot4 (w.extractLsb' 7 8) (w.extractLsb' 15 8) (w.extractLsb' 23 8))
  | 0x01 => some (.dot2 (w.extractLsb' 7 8) (w.extractLsb' 15 8) (w.extractLsb' 23 8))
  | _ => none

/-- Major 0x2B: the rows told apart by bits [31:31]. -/
def group57 (w : BitVec 32) : Option Instr :=
  match (w.extractLsb' 31 1).toNat with
  | 0x00 => some (.idiv (w.extractLsb' 7 8) (w.extractLsb' 15 8) (w.extractLsb' 23 8))
  | 0x01 => some (.idivu (w.extractLsb' 7 8) (w.extractLsb' 15 8) (w.extractLsb' 23 8))
  | _ => none

/-- Major 0x2D: the rows told apart by bits [17:16]. -/
def group5B (w : BitVec 32) : Option Instr :=
  match (w.extractLsb' 16 2).toNat with
  | 0x00 => req (w.extractLsb' 20 11 == 0#11 && w.extractLsb' 31 1 == 0#1) (.pcombAnd (w.extractLsb' 7 3) (w.extractLsb' 10 3) (w.extractLsb' 13 3) (w.extractLsb' 18 2))
  | 0x01 => req (w.extractLsb' 20 11 == 0#11 && w.extractLsb' 31 1 == 0#1) (.pcombOr (w.extractLsb' 7 3) (w.extractLsb' 10 3) (w.extractLsb' 13 3) (w.extractLsb' 18 2))
  | 0x02 => req (w.extractLsb' 13 18 == 16#18 && w.extractLsb' 31 1 == 0#1) (.pcombNot (w.extractLsb' 7 3) (w.extractLsb' 10 3))
  | 0x03 => req (w.extractLsb' 20 11 == 0#11 && w.extractLsb' 31 1 == 0#1) (.pcombXor (w.extractLsb' 7 3) (w.extractLsb' 10 3) (w.extractLsb' 13 3) (w.extractLsb' 18 2))
  | _ => none

/-- Major 0x2E: the rows told apart by bits [31:27]. -/
def group5D (w : BitVec 32) : Option Instr :=
  match (w.extractLsb' 27 5).toNat with
  | 0x00 => req (w.extractLsb' 27 4 == 0#4 && w.extractLsb' 31 1 == 0#1) (.blend (w.extractLsb' 7 3) (flag (w.extractLsb' 10 1)) (w.extractLsb' 11 8) (w.extractLsb' 19 8))
  | 0x01 => req (w.extractLsb' 27 4 == 1#4 && w.extractLsb' 31 1 == 0#1) (.blendi (w.extractLsb' 7 3) (flag (w.extractLsb' 10 1)) (w.extractLsb' 11 8) (w.extractLsb' 19 8))
  | 0x02 => req (w.extractLsb' 27 4 == 2#4 && w.extractLsb' 31 1 == 0#1) (.selq (w.extractLsb' 7 3) (flag (w.extractLsb' 10 1)) (w.extractLsb' 11 8) (w.extractLsb' 19 8))
  | _ => none

/-- Major 0x2F: the rows told apart by bits [9:7]. -/
def group5F (w : BitVec 32) : Option Instr :=
  match (w.extractLsb' 7 3).toNat with
  | 0x00 => req (w.extractLsb' 13 2 == 0#2 && w.extractLsb' 18 13 == 0#13 && w.extractLsb' 31 1 == 0#1) (.coll (w.extractLsb' 10 3) (w.extractLsb' 15 3))
  | 0x01 => req (w.extractLsb' 13 2 == 0#2 && w.extractLsb' 23 8 == 0#8 && w.extractLsb' 31 1 == 0#1) (.qset (w.extractLsb' 10 3) (w.extractLsb' 15 8))
  | 0x02 => req (w.extractLsb' 13 2 == 0#2 && w.extractLsb' 23 8 == 0#8 && w.extractLsb' 31 1 == 0#1) (.qget (w.extractLsb' 10 3) (w.extractLsb' 15 8))
  | 0x03 => req (w.extractLsb' 13 2 == 0#2 && w.extractLsb' 18 13 == 0#13 && w.extractLsb' 31 1 == 0#1) (.qfromb (w.extractLsb' 10 3) (w.extractLsb' 15 3))
  | 0x04 => req (w.extractLsb' 23 8 == 0#8 && w.extractLsb' 31 1 == 0#1) (.pgrad (w.extractLsb' 10 3) (w.extractLsb' 13 2) (w.extractLsb' 15 8))
  | 0x05 => req (w.extractLsb' 13 2 == 0#2 && w.extractLsb' 18 13 == 0#13 && w.extractLsb' 31 1 == 0#1) (.qhard (w.extractLsb' 10 3) (w.extractLsb' 15 3))
  | _ => none

/-- Major 0x34: the rows told apart by bits [29:27]. -/
def group69 (w : BitVec 32) : Option Instr :=
  match (w.extractLsb' 27 3).toNat with
  | 0x00 => some (.atomAdd (w.extractLsb' 7 8) (w.extractLsb' 15 8) (w.extractLsb' 23 4) (w.extractLsb' 30 2))
  | 0x01 => some (.atomAdd64 (w.extractLsb' 7 8) (w.extractLsb' 15 8) (w.extractLsb' 23 4) (w.extractLsb' 30 2))
  | 0x02 => some (.atomMin (w.extractLsb' 7 8) (w.extractLsb' 15 8) (w.extractLsb' 23 4) (w.extractLsb' 30 2))
  | 0x03 => some (.atomMax (w.extractLsb' 7 8) (w.extractLsb' 15 8) (w.extractLsb' 23 4) (w.extractLsb' 30 2))
  | 0x04 => some (.atomAnd (w.extractLsb' 7 8) (w.extractLsb' 15 8) (w.extractLsb' 23 4) (w.extractLsb' 30 2))
  | 0x05 => some (.atomOr (w.extractLsb' 7 8) (w.extractLsb' 15 8) (w.extractLsb' 23 4) (w.extractLsb' 30 2))
  | 0x06 => some (.atomXchg (w.extractLsb' 7 8) (w.extractLsb' 15 8) (w.extractLsb' 23 4) (w.extractLsb' 30 2))
  | 0x07 => some (.atomCas (w.extractLsb' 7 8) (w.extractLsb' 15 8) (w.extractLsb' 23 4) (w.extractLsb' 30 2))
  | _ => none

/-- Major 0x35: the rows told apart by bits [29:27]. -/
def group6B (w : BitVec 32) : Option Instr :=
  match (w.extractLsb' 27 3).toNat with
  | 0x00 => req (w.extractLsb' 31 1 == 0#1) (.atomlAdd (w.extractLsb' 7 8) (w.extractLsb' 15 8) (w.extractLsb' 23 4) (flag (w.extractLsb' 30 1)))
  | 0x01 => req (w.extractLsb' 31 1 == 0#1) (.atomlFadd (w.extractLsb' 7 8) (w.extractLsb' 15 8) (w.extractLsb' 23 4) (flag (w.extractLsb' 30 1)))
  | 0x02 => req (w.extractLsb' 31 1 == 0#1) (.atomlMin (w.extractLsb' 7 8) (w.extractLsb' 15 8) (w.extractLsb' 23 4) (flag (w.extractLsb' 30 1)))
  | 0x03 => req (w.extractLsb' 31 1 == 0#1) (.atomlMax (w.extractLsb' 7 8) (w.extractLsb' 15 8) (w.extractLsb' 23 4) (flag (w.extractLsb' 30 1)))
  | 0x04 => req (w.extractLsb' 31 1 == 0#1) (.atomlXchg (w.extractLsb' 7 8) (w.extractLsb' 15 8) (w.extractLsb' 23 4) (flag (w.extractLsb' 30 1)))
  | 0x05 => req (w.extractLsb' 31 1 == 0#1) (.atomlCas (w.extractLsb' 7 8) (w.extractLsb' 15 8) (w.extractLsb' 23 4) (flag (w.extractLsb' 30 1)))
  | 0x06 => req (w.extractLsb' 31 1 == 0#1) (.atomlFadd2 (w.extractLsb' 7 8) (w.extractLsb' 15 8) (w.extractLsb' 23 4) (flag (w.extractLsb' 30 1)))
  | 0x07 => req (w.extractLsb' 31 1 == 0#1) (.atomlOr (w.extractLsb' 7 8) (w.extractLsb' 15 8) (w.extractLsb' 23 4) (flag (w.extractLsb' 30 1)))
  | _ => none

/-- Major 0x36: the rows told apart by bits [9:7]. -/
def group6D (w : BitVec 32) : Option Instr :=
  match (w.extractLsb' 7 3).toNat with
  | 0x00 => req (w.extractLsb' 18 13 == 0#13 && w.extractLsb' 31 1 == 0#1) (.fence (w.extractLsb' 10 5) (w.extractLsb' 15 3))
  | 0x01 => req (w.extractLsb' 15 8 == 0#8 && w.extractLsb' 29 2 == 0#2 && w.extractLsb' 31 1 == 0#1) (.nbInit (w.extractLsb' 10 4) (flag (w.extractLsb' 14 1)) (w.extractLsb' 23 6))
  | 0x02 => req (w.extractLsb' 23 8 == 0#8 && w.extractLsb' 31 1 == 0#1) (.nbExpect (w.extractLsb' 10 4) (flag (w.extractLsb' 14 1)) (w.extractLsb' 15 8))
  | 0x03 => req (w.extractLsb' 23 8 == 0#8) (.nbArr (w.extractLsb' 10 4) (flag (w.extractLsb' 14 1)) (w.extractLsb' 15 8) (flag (w.extractLsb' 31 1)))
  | 0x04 => req (w.extractLsb' 23 8 == 0#8 && w.extractLsb' 31 1 == 0#1) (.nbWait (w.extractLsb' 10 4) (flag (w.extractLsb' 14 1)) (w.extractLsb' 15 8))
  | 0x05 => req (w.extractLsb' 15 16 == 0#16) (.nbArw (w.extractLsb' 10 4) (flag (w.extractLsb' 14 1)) (flag (w.extractLsb' 31 1)))
  | 0x06 => req (w.extractLsb' 26 5 == 0#5 && w.extractLsb' 31 1 == 0#1) (.nbTest (w.extractLsb' 10 4) (flag (w.extractLsb' 14 1)) (w.extractLsb' 15 8) (w.extractLsb' 23 3))
  | _ => none

/-- Major 0x37: the rows told apart by bits [9:7]. -/
def group6F (w : BitVec 32) : Option Instr :=
  match (w.extractLsb' 7 3).toNat with
  | 0x00 => req (w.extractLsb' 31 1 == 0#1) (.cpyG2l (w.extractLsb' 10 5) (w.extractLsb' 15 8) (w.extractLsb' 23 8))
  | 0x01 => req (w.extractLsb' 31 1 == 0#1) (.cpyL2g (w.extractLsb' 10 5) (w.extractLsb' 15 8) (w.extractLsb' 23 8))
  | 0x02 => req (w.extractLsb' 10 5 == 0#5 && w.extractLsb' 31 1 == 0#1) (.cpyL2l (w.extractLsb' 15 8) (w.extractLsb' 23 8))
  | 0x03 => req (w.extractLsb' 10 5 == 0#5 && w.extractLsb' 31 1 == 0#1) (.cpyG2g (w.extractLsb' 15 8) (w.extractLsb' 23 8))
  | 0x04 => req (w.extractLsb' 10 5 == 0#5 && w.extractLsb' 31 1 == 0#1) (.cpyPfx (w.extractLsb' 15 8) (w.extractLsb' 23 8))
  | 0x05 => (req (w.extractLsb' 12 3 == 0#3 && w.extractLsb' 23 8 == 0#8 && w.extractLsb' 31 1 == 0#1) (.strm (w.extractLsb' 10 2) (w.extractLsb' 15 8))) <|> (req (w.extractLsb' 12 19 == 0#19 && w.extractLsb' 31 1 == 1#1) (.strmOff (w.extractLsb' 10 2)))
  | _ => none

/-- Major 0x38: the rows told apart by bits [9:7]. -/
def group71 (w : BitVec 32) : Option Instr :=
  match (w.extractLsb' 7 3).toNat with
  | 0x00 => (req (w.extractLsb' 10 5 == 0#5 && w.extractLsb' 23 8 == 0#8 && w.extractLsb' 31 1 == 0#1) (.mxIssue (w.extractLsb' 15 8))) <|> (req (w.extractLsb' 12 19 == 0#19 && w.extractLsb' 31 1 == 1#1) (.mxIssueS (w.extractLsb' 10 2)))
  | 0x01 => req (w.extractLsb' 10 4 == 0#4 && w.extractLsb' 15 16 == 0#16 && w.extractLsb' 31 1 == 0#1) (.mxZero (flag (w.extractLsb' 14 1)))
  | 0x02 => req (w.extractLsb' 23 8 == 0#8 && w.extractLsb' 31 1 == 0#1) (.mxStore (w.extractLsb' 10 2) (w.extractLsb' 12 2) (flag (w.extractLsb' 14 1)) (w.extractLsb' 15 8))
  | 0x03 => req (w.extractLsb' 10 4 == 0#4 && w.extractLsb' 23 8 == 0#8 && w.extractLsb' 31 1 == 0#1) (.mxLoad (flag (w.extractLsb' 14 1)) (w.extractLsb' 15 8))
  | 0x04 => req (w.extractLsb' 10 5 == 0#5 && w.extractLsb' 23 8 == 0#8) (.mxProg (w.extractLsb' 15 8) (flag (w.extractLsb' 31 1)))
  | _ => none

/-- Major 0x39: the rows told apart by bits [9:7]. -/
def group73 (w : BitVec 32) : Option Instr :=
  match (w.extractLsb' 7 3).toNat with
  | 0x00 => req (w.extractLsb' 10 5 == 0#5 && w.extractLsb' 31 1 == 0#1) (.wjoin (w.extractLsb' 15 8) (w.extractLsb' 23 8))
  | 0x01 => req (w.extractLsb' 10 21 == 0#21 && w.extractLsb' 31 1 == 0#1) (.wleave)
  | 0x02 => req (w.extractLsb' 14 1 == 0#1 && w.extractLsb' 31 1 == 0#1) (.wmap (w.extractLsb' 10 4) (w.extractLsb' 15 8) (w.extractLsb' 23 8))
  | 0x03 => req (w.extractLsb' 10 5 == 0#5 && w.extractLsb' 23 8 == 0#8 && w.extractLsb' 31 1 == 0#1) (.wquery (w.extractLsb' 15 8))
  | _ => none

/-- Major 0x3A: the rows told apart by bits [9:7]. -/
def group75 (w : BitVec 32) : Option Instr :=
  match (w.extractLsb' 7 3).toNat with
  | 0x00 => req (w.extractLsb' 10 5 == 0#5 && w.extractLsb' 31 1 == 0#1) (.rshPlan (w.extractLsb' 15 8) (w.extractLsb' 23 8))
  | 0x01 => req (w.extractLsb' 10 5 == 0#5 && w.extractLsb' 23 8 == 0#8 && w.extractLsb' 31 1 == 0#1) (.rshGo (w.extractLsb' 15 8))
  | 0x02 => req (w.extractLsb' 10 5 == 0#5 && w.extractLsb' 23 8 == 0#8) (.rshPoll (w.extractLsb' 15 8) (flag (w.extractLsb' 31 1)))
  | 0x03 => req (w.extractLsb' 10 5 == 0#5 && w.extractLsb' 23 8 == 0#8 && w.extractLsb' 31 1 == 0#1) (.rshSave (w.extractLsb' 15 8))
  | 0x04 => req (w.extractLsb' 10 5 == 0#5 && w.extractLsb' 23 8 == 0#8 && w.extractLsb' 31 1 == 0#1) (.rshResume (w.extractLsb' 15 8))
  | _ => none

/-- Major 0x3B: the rows told apart by bits [9:7]. -/
def group77 (w : BitVec 32) : Option Instr :=
  match (w.extractLsb' 7 3).toNat with
  | 0x00 => req (w.extractLsb' 13 2 == 0#2 && w.extractLsb' 23 8 == 0#8 && w.extractLsb' 31 1 == 0#1) (.cka (w.extractLsb' 10 2) (flag (w.extractLsb' 12 1)) (w.extractLsb' 15 8))
  | 0x01 => req (w.extractLsb' 14 1 == 0#1 && w.extractLsb' 18 13 == 0#13) (.ckx (w.extractLsb' 10 4) (w.extractLsb' 15 2) (flag (w.extractLsb' 17 1)) (flag (w.extractLsb' 31 1)))
  | 0x02 => req (w.extractLsb' 13 2 == 0#2 && w.extractLsb' 31 1 == 0#1) (.ckt (w.extractLsb' 10 2) (flag (w.extractLsb' 12 1)) (w.extractLsb' 15 8) (w.extractLsb' 23 8))
  | 0x03 => req (w.extractLsb' 12 19 == 0#19 && w.extractLsb' 31 1 == 0#1) (.ckz (w.extractLsb' 10 2))
  | _ => none

/-- Major 0x3E: the rows told apart by bits [9:7]. -/
def group7D (w : BitVec 32) : Option Instr :=
  match (w.extractLsb' 7 3).toNat with
  | 0x00 => (req (w.extractLsb' 10 5 == 0#5 && w.extractLsb' 23 8 == 0#8 && w.extractLsb' 31 1 == 0#1) (.jmpi (w.extractLsb' 15 8))) <|> (req (w.extractLsb' 12 3 == 0#3 && w.extractLsb' 31 1 == 1#1) (.stage (w.extractLsb' 10 2) (w.extractLsb' 15 16)))
  | 0x01 => (req (w.extractLsb' 10 5 == 0#5 && w.extractLsb' 23 8 == 0#8 && w.extractLsb' 31 1 == 0#1) (.calli (w.extractLsb' 15 8))) <|> (req (w.extractLsb' 10 21 == 0#21 && w.extractLsb' 31 1 == 1#1) (.chend))
  | 0x02 => (req (w.extractLsb' 10 21 == 0#21 && w.extractLsb' 31 1 == 0#1) (.ret)) <|> (req (w.extractLsb' 10 13 == 0#13 && w.extractLsb' 31 1 == 1#1) (.trap (w.extractLsb' 23 8)))
  | 0x03 => (req (w.extractLsb' 10 21 == 0#21 && w.extractLsb' 31 1 == 0#1) (.exit)) <|> (req (w.extractLsb' 10 21 == 0#21 && w.extractLsb' 31 1 == 1#1) (.rtt))
  | 0x04 => (req (w.extractLsb' 10 21 == 0#21 && w.extractLsb' 31 1 == 0#1) (.land)) <|> (req (w.extractLsb' 14 1 == 0#1 && w.extractLsb' 18 13 == 0#13 && w.extractLsb' 31 1 == 1#1) (.elect (w.extractLsb' 10 4) (w.extractLsb' 15 3)))
  | 0x05 => (req (w.extractLsb' 14 9 == 0#9 && w.extractLsb' 26 5 == 0#5 && w.extractLsb' 31 1 == 0#1) (.rcvSet (w.extractLsb' 10 4) (w.extractLsb' 23 3))) <|> (req (w.extractLsb' 10 5 == 0#5 && w.extractLsb' 21 2 == 0#2 && w.extractLsb' 28 3 == 0#3 && w.extractLsb' 31 1 == 1#1) (.bop (w.extractLsb' 15 3) (w.extractLsb' 18 3) (w.extractLsb' 23 3) (w.extractLsb' 26 2)))
  | 0x06 => (req (w.extractLsb' 10 13 == 0#13 && w.extractLsb' 26 5 == 0#5 && w.extractLsb' 31 1 == 0#1) (.rcvWait (w.extractLsb' 23 3))) <|> (req (w.extractLsb' 10 21 == 0#21 && w.extractLsb' 31 1 == 1#1) (.brk))
  | 0x07 => req (w.extractLsb' 10 5 == 0#5 && w.extractLsb' 19 4 == 0#4 && w.extractLsb' 27 4 == 0#4 && w.extractLsb' 31 1 == 0#1) (.yld (w.extractLsb' 15 4) (w.extractLsb' 23 4))
  | _ => none

/-- Major 0x3F: the rows told apart by bits [9:7]. -/
def group7F (w : BitVec 32) : Option Instr :=
  match (w.extractLsb' 7 3).toNat with
  | 0x00 => (req (w.extractLsb' 10 5 == 0#5 && w.extractLsb' 31 1 == 0#1) (.srd (w.extractLsb' 15 8) (w.extractLsb' 23 8))) <|> (req (w.extractLsb' 13 2 == 0#2 && w.extractLsb' 23 8 == 0#8 && w.extractLsb' 31 1 == 1#1) (.chseed (w.extractLsb' 10 3) (w.extractLsb' 15 8)))
  | 0x01 => (req (w.extractLsb' 10 5 == 0#5 && w.extractLsb' 31 1 == 0#1) (.swr (w.extractLsb' 15 8) (w.extractLsb' 23 8))) <|> (req (w.extractLsb' 10 21 == 0#21 && w.extractLsb' 31 1 == 1#1) (.icinv))
  | 0x02 => (req (w.extractLsb' 10 5 == 0#5 && w.extractLsb' 29 2 == 0#2 && w.extractLsb' 31 1 == 0#1) (.movs (w.extractLsb' 15 8) (w.extractLsb' 23 6))) <|> (req (w.extractLsb' 10 5 == 0#5 && w.extractLsb' 23 8 == 0#8 && w.extractLsb' 31 1 == 1#1) (.tlbinvAll (w.extractLsb' 15 8))) <|> (req (w.extractLsb' 10 5 == 1#5 && w.extractLsb' 23 8 == 0#8 && w.extractLsb' 31 1 == 1#1) (.tlbinvPage (w.extractLsb' 15 8))) <|> (req (w.extractLsb' 10 21 == 2#21 && w.extractLsb' 31 1 == 1#1) (.tlbinvHeap))
  | 0x03 => (req (w.extractLsb' 10 5 == 0#5 && w.extractLsb' 29 2 == 0#2 && w.extractLsb' 31 1 == 0#1) (.smov (w.extractLsb' 15 8) (w.extractLsb' 23 6))) <|> (req (w.extractLsb' 10 5 == 0#5 && w.extractLsb' 31 1 == 1#1) (.killctx (w.extractLsb' 15 8) (w.extractLsb' 23 8)))
  | 0x04 => req (w.extractLsb' 23 8 == 0#8 && w.extractLsb' 31 1 == 0#1) (.dqpush (w.extractLsb' 10 5) (w.extractLsb' 15 8))
  | 0x05 => req (w.extractLsb' 10 5 == 0#5 && w.extractLsb' 23 8 == 0#8 && w.extractLsb' 31 1 == 0#1) (.dqpop (w.extractLsb' 15 8))
  | 0x06 => (req (w.extractLsb' 10 5 == 0#5 && w.extractLsb' 28 3 == 0#3 && w.extractLsb' 31 1 == 0#1) (.ftwaitNb (w.extractLsb' 15 8) (w.extractLsb' 23 5))) <|> (req (w.extractLsb' 10 5 == 1#5 && w.extractLsb' 28 3 == 0#3 && w.extractLsb' 31 1 == 0#1) (.ftwaitDq (w.extractLsb' 15 8) (w.extractLsb' 23 5))) <|> (req (w.extractLsb' 10 21 == 2#21 && w.extractLsb' 31 1 == 0#1) (.ftwaitMx)) <|> (req (w.extractLsb' 10 21 == 3#21 && w.extractLsb' 31 1 == 0#1) (.ftwaitRsh)) <|> (req (w.extractLsb' 10 5 == 4#5 && w.extractLsb' 23 8 == 0#8 && w.extractLsb' 31 1 == 0#1) (.ftwaitClk (w.extractLsb' 15 8)))
  | 0x07 => req (w.extractLsb' 10 5 == 0#5 && w.extractLsb' 31 1 == 0#1) (.ftlaunch (w.extractLsb' 15 8) (w.extractLsb' 23 8))
  | _ => none

/-- A 32-bit native word, by major opcode and length bit (R61, R70). -/
def rawWord (w : BitVec 32) : Option Instr :=
  match (w.extractLsb' 0 7).toNat with
  | 0x01 => req (w.extractLsb' 31 1 == 0#1) (.iadd (w.extractLsb' 7 8) (w.extractLsb' 15 8) (w.extractLsb' 23 8))
  | 0x03 => req (w.extractLsb' 31 1 == 0#1) (.isub (w.extractLsb' 7 8) (w.extractLsb' 15 8) (w.extractLsb' 23 8))
  | 0x05 => some (.imul (w.extractLsb' 7 8) (w.extractLsb' 15 8) (w.extractLsb' 23 8) (flag (w.extractLsb' 31 1)))
  | 0x07 => req (w.extractLsb' 31 1 == 0#1) (.imulhs (w.extractLsb' 7 8) (w.extractLsb' 15 8) (w.extractLsb' 23 8))
  | 0x09 => some (.imad (w.extractLsb' 7 8) (w.extractLsb' 15 8) (w.extractLsb' 23 8) (flag (w.extractLsb' 31 1)))
  | 0x0b => req (w.extractLsb' 31 1 == 0#1) (.and (w.extractLsb' 7 8) (w.extractLsb' 15 8) (w.extractLsb' 23 8))
  | 0x0d => req (w.extractLsb' 31 1 == 0#1) (.or (w.extractLsb' 7 8) (w.extractLsb' 15 8) (w.extractLsb' 23 8))
  | 0x0f => req (w.extractLsb' 31 1 == 0#1) (.xor (w.extractLsb' 7 8) (w.extractLsb' 15 8) (w.extractLsb' 23 8))
  | 0x11 => req (w.extractLsb' 31 1 == 0#1) (.andn (w.extractLsb' 7 8) (w.extractLsb' 15 8) (w.extractLsb' 23 8))
  | 0x13 => req (w.extractLsb' 31 1 == 0#1) (.shl (w.extractLsb' 7 8) (w.extractLsb' 15 8) (w.extractLsb' 23 8))
  | 0x15 => req (w.extractLsb' 31 1 == 0#1) (.shr (w.extractLsb' 7 8) (w.extractLsb' 15 8) (w.extractLsb' 23 8))
  | 0x17 => req (w.extractLsb' 31 1 == 0#1) (.sar (w.extractLsb' 7 8) (w.extractLsb' 15 8) (w.extractLsb' 23 8))
  | 0x19 => some (.imin (w.extractLsb' 7 8) (w.extractLsb' 15 8) (w.extractLsb' 23 8) (flag (w.extractLsb' 31 1)))
  | 0x1b => some (.imax (w.extractLsb' 7 8) (w.extractLsb' 15 8) (w.extractLsb' 23 8) (flag (w.extractLsb' 31 1)))
  | 0x1d => some (.iadd64 (w.extractLsb' 7 8) (w.extractLsb' 15 8) (w.extractLsb' 23 8) (flag (w.extractLsb' 31 1)))
  | 0x1f => req (w.extractLsb' 31 1 == 0#1) (.perm (w.extractLsb' 7 8) (w.extractLsb' 15 8) (w.extractLsb' 23 8))
  | 0x21 => group21 w
  | 0x23 => some (.iaddi (w.extractLsb' 7 8) (w.extractLsb' 15 8) (w.extractLsb' 23 9))
  | 0x25 => some (.andi (w.extractLsb' 7 8) (w.extractLsb' 15 8) (w.extractLsb' 23 9))
  | 0x27 => some (.ori (w.extractLsb' 7 8) (w.extractLsb' 15 8) (w.extractLsb' 23 9))
  | 0x29 => some (.xori (w.extractLsb' 7 8) (w.extractLsb' 15 8) (w.extractLsb' 23 9))
  | 0x2b => group2B w
  | 0x2d => group2D w
  | 0x2f => req (w.extractLsb' 30 1 == 0#1 && w.extractLsb' 31 1 == 0#1) (.icmp (w.extractLsb' 7 3) (w.extractLsb' 10 3) (flag (w.extractLsb' 13 1)) (w.extractLsb' 14 8) (w.extractLsb' 22 8))
  | 0x31 => req (w.extractLsb' 30 1 == 0#1 && w.extractLsb' 31 1 == 0#1) (.icmpi (w.extractLsb' 7 3) (w.extractLsb' 10 3) (flag (w.extractLsb' 13 1)) (w.extractLsb' 14 8) (w.extractLsb' 22 8))
  | 0x33 => req (w.extractLsb' 27 4 == 0#4 && w.extractLsb' 31 1 == 0#1) (.sel (w.extractLsb' 7 3) (flag (w.extractLsb' 10 1)) (w.extractLsb' 11 8) (w.extractLsb' 19 8))
  | 0x35 => group35 w
  | 0x37 => group37 w
  | 0x41 => some (.fadd (w.extractLsb' 7 8) (w.extractLsb' 15 8) (w.extractLsb' 23 8) (flag (w.extractLsb' 31 1)))
  | 0x43 => some (.fsub (w.extractLsb' 7 8) (w.extractLsb' 15 8) (w.extractLsb' 23 8) (flag (w.extractLsb' 31 1)))
  | 0x45 => some (.fmul (w.extractLsb' 7 8) (w.extractLsb' 15 8) (w.extractLsb' 23 8) (flag (w.extractLsb' 31 1)))
  | 0x47 => some (.ffma (w.extractLsb' 7 8) (w.extractLsb' 15 8) (w.extractLsb' 23 8) (flag (w.extractLsb' 31 1)))
  | 0x49 => some (.fmin (w.extractLsb' 7 8) (w.extractLsb' 15 8) (w.extractLsb' 23 8) (flag (w.extractLsb' 31 1)))
  | 0x4b => some (.fmax (w.extractLsb' 7 8) (w.extractLsb' 15 8) (w.extractLsb' 23 8) (flag (w.extractLsb' 31 1)))
  | 0x4d => group4D w
  | 0x4f => req (w.extractLsb' 30 1 == 0#1 && w.extractLsb' 31 1 == 0#1) (.fcmp (w.extractLsb' 7 3) (w.extractLsb' 10 3) (flag (w.extractLsb' 13 1)) (w.extractLsb' 14 8) (w.extractLsb' 22 8))
  | 0x51 => req (w.extractLsb' 26 1 == 0#1) (.cvt (w.extractLsb' 7 8) (w.extractLsb' 15 8) (w.extractLsb' 23 3) (w.extractLsb' 27 2) (w.extractLsb' 29 2) (flag (w.extractLsb' 31 1)))
  | 0x53 => group53 w
  | 0x55 => group55 w
  | 0x57 => group57 w
  | 0x59 => req (w.extractLsb' 12 1 == 0#1) (.scmp (w.extractLsb' 7 3) (w.extractLsb' 10 2) (w.extractLsb' 13 3) (w.extractLsb' 16 8) (w.extractLsb' 24 8))
  | 0x5b => group5B w
  | 0x5d => group5D w
  | 0x5f => group5F w
  | 0x61 => some (.ld (w.extractLsb' 7 8) (w.extractLsb' 15 8) (w.extractLsb' 23 4) (w.extractLsb' 27 3) (w.extractLsb' 30 2))
  | 0x63 => some (.st (w.extractLsb' 7 8) (w.extractLsb' 15 8) (w.extractLsb' 23 4) (w.extractLsb' 27 3) (w.extractLsb' 30 2))
  | 0x65 => some (.ldl (w.extractLsb' 7 8) (w.extractLsb' 15 8) (w.extractLsb' 23 4) (w.extractLsb' 27 3) (w.extractLsb' 30 2))
  | 0x67 => some (.stl (w.extractLsb' 7 8) (w.extractLsb' 15 8) (w.extractLsb' 23 4) (w.extractLsb' 27 3) (w.extractLsb' 30 2))
  | 0x69 => group69 w
  | 0x6b => group6B w
  | 0x6d => group6D w
  | 0x6f => group6F w
  | 0x71 => group71 w
  | 0x73 => group73 w
  | 0x75 => group75 w
  | 0x77 => group77 w
  | 0x79 => some (.bra (w.extractLsb' 7 3) (flag (w.extractLsb' 10 1)) (w.extractLsb' 11 21))
  | 0x7b => some (.call (w.extractLsb' 7 3) (flag (w.extractLsb' 10 1)) (w.extractLsb' 11 21))
  | 0x7d => group7D w
  | 0x7f => group7F w
  | _ => none

/-- A compact halfword (R59). -/
def decode16 (w : Half) : Option Instr := (rawCompact w).filter Instr.wf

/-- A 32-bit native word; `none` traps ILLEGAL (R62). -/
def decode32 (w : Word) : Option Instr := (rawWord w).filter Instr.wf

/-- A run of halfwords: the instruction they begin with and the rest (R56). -/
def decodeHalves : List Half → Except Reject (Instr × List Half)
  | [] => .error .truncated
  | h :: hs =>
    if flag (h.extractLsb' 0 1) then
      match hs with
      | [] => .error .truncated
      | h' :: rest =>
        match decode32 (h' ++ h) with
        | some i => .ok (i, rest)
        | none => .error .illegal
    else
      match decode16 h with
      | some i => .ok (i, hs)
      | none => .error .illegal

/-- Two bytes of memory as a halfword, the lower address first (R5). -/
def halfOf (lo hi : Byte) : Half := hi ++ lo

/-- Bytes as halfwords; a last odd byte is dropped. -/
def halves : List Byte → List Half
  | lo :: hi :: bs => halfOf lo hi :: halves bs
  | _ => []

/-- Decode the bytes at an address, and say how many were taken (R56). -/
def decode (bs : List Byte) : Except Reject (Instr × Nat) :=
  match decodeHalves (halves bs) with
  | .ok (i, rest) => .ok (i, 2 * ((halves bs).length - rest.length))
  | .error e => .error e

/-- The words of a successor table, each [23:0] a segment index with [31:24] zero (R338). -/
def targets : List Word → Option (List (BitVec 24))
  | [] => some []
  | w :: ws =>
    if w.extractLsb' 24 8 == 0#8 then (targets ws).map (w.extractLsb' 0 24 :: ·) else none

/-- A successor word with its extension words, as they follow in the segment (R338). -/
def decodeSucc : List Word → Option (Instr × List Word)
  | [] => none
  | w :: ws =>
    match (w.extractLsb' 0 4).toNat with
    | 0 => if w.extractLsb' 4 4 == 0#4 then some (.succGoto (w.extractLsb' 8 24), ws) else none
    | 1 =>
      match ws with
      | x :: ws' =>
        if x.extractLsb' 24 8 == 0#8 then
          some (.succBr (w.extractLsb' 4 3) (flag (w.extractLsb' 7 1)) (w.extractLsb' 8 24) (x.extractLsb' 0 24), ws')
        else none
      | [] => none
    | 2 =>
      let n := (w.extractLsb' 16 16).toNat
      if w.extractLsb' 4 4 == 0#4 && decide (1 ≤ n) && decide (n ≤ ws.length) then
        (targets (ws.take n)).map (fun ts => (.succSw (w.extractLsb' 8 8) ts, ws.drop n))
      else none
    | 3 =>
      match ws with
      | x :: ws' =>
        if w.extractLsb' 4 4 == 0#4 && x.extractLsb' 24 8 == 0#8 then
          some (.succCall (w.extractLsb' 8 24) (x.extractLsb' 0 24), ws')
        else none
      | [] => none
    | 4 => if w.extractLsb' 4 28 == 0#28 then some (.succRet, ws) else none
    | 5 => if w.extractLsb' 4 28 == 0#28 then some (.succExit, ws) else none
    | 6 => if w.extractLsb' 4 28 == 0#28 then some (.succRtt, ws) else none
    | _ => none

/-- The table word of an instruction: `nbits` of 16 is a compact halfword; a 32-bit word with bit 0 set is a native
word (R56), and one with bit 0 clear can only be a successor word (R338). SUCC_EXIT's word, 5, has bit 0 set and is
the native word of IMUL g0, g0, g0, so it reads as that (log entry 14). -/
def decodeTableWord (nbits w : Nat) : Option Instr :=
  if nbits = 16 then
    (if w % 2 = 0 then decode16 (BitVec.ofNat 16 w) else decode32 (BitVec.ofNat 32 w))
  else if w % 2 = 1 then decode32 (BitVec.ofNat 32 w)
  else
    match decodeSucc [BitVec.ofNat 32 w, 0#32] with
    | some (i, _) => some i
    | none => none

/-- A 32-bit word as its two halfwords, the lower address first (R5). -/
def wordHalves (w : Word) : List Half := [w.extractLsb' 0 16, w.extractLsb' 16 16]

/-- The 32-bit word of an instruction that has one. -/
def encode32 : Instr → Option Word
  | .movCompact _ _ => none
  | .iaddCompact _ _ => none
  | .isubCompact _ _ => none
  | .andCompact _ _ => none
  | .orCompact _ _ => none
  | .xorCompact _ _ => none
  | .shlCompact _ _ => none
  | .shrCompact _ _ => none
  | .sarCompact _ _ => none
  | .imulCompact _ _ => none
  | .faddCompact _ _ => none
  | .fsubCompact _ _ => none
  | .fmulCompact _ _ => none
  | .fmaxCompact _ _ => none
  | .iaddiCompact _ _ => none
  | .movi _ _ => none
  | .iadd d a b => some (0#1 ++ b ++ a ++ d ++ 1#7)
  | .isub d a b => some (0#1 ++ b ++ a ++ d ++ 3#7)
  | .imul d a b x => some (bit x ++ b ++ a ++ d ++ 5#7)
  | .imulhs d a b => some (0#1 ++ b ++ a ++ d ++ 7#7)
  | .imad d a b x => some (bit x ++ b ++ a ++ d ++ 9#7)
  | .and d a b => some (0#1 ++ b ++ a ++ d ++ 11#7)
  | .or d a b => some (0#1 ++ b ++ a ++ d ++ 13#7)
  | .xor d a b => some (0#1 ++ b ++ a ++ d ++ 15#7)
  | .andn d a b => some (0#1 ++ b ++ a ++ d ++ 17#7)
  | .shl d a b => some (0#1 ++ b ++ a ++ d ++ 19#7)
  | .shr d a b => some (0#1 ++ b ++ a ++ d ++ 21#7)
  | .sar d a b => some (0#1 ++ b ++ a ++ d ++ 23#7)
  | .imin d a b x => some (bit x ++ b ++ a ++ d ++ 25#7)
  | .imax d a b x => some (bit x ++ b ++ a ++ d ++ 27#7)
  | .iadd64 d a b x => some (bit x ++ b ++ a ++ d ++ 29#7)
  | .perm d a b => some (0#1 ++ b ++ a ++ d ++ 31#7)
  | .mov d a => some (0#1 ++ 0#8 ++ a ++ d ++ 33#7)
  | .not d a => some (0#1 ++ 1#8 ++ a ++ d ++ 33#7)
  | .neg d a => some (0#1 ++ 2#8 ++ a ++ d ++ 33#7)
  | .iabs d a => some (0#1 ++ 3#8 ++ a ++ d ++ 33#7)
  | .clz d a => some (0#1 ++ 4#8 ++ a ++ d ++ 33#7)
  | .popc d a => some (0#1 ++ 5#8 ++ a ++ d ++ 33#7)
  | .brev d a => some (0#1 ++ 6#8 ++ a ++ d ++ 33#7)
  | .sexb d a => some (0#1 ++ 7#8 ++ a ++ d ++ 33#7)
  | .sexh d a => some (0#1 ++ 8#8 ++ a ++ d ++ 33#7)
  | .zexb d a => some (0#1 ++ 9#8 ++ a ++ d ++ 33#7)
  | .zexh d a => some (0#1 ++ 10#8 ++ a ++ d ++ 33#7)
  | .laneid d => some (0#1 ++ 2816#16 ++ d ++ 33#7)
  | .tidx d => some (0#1 ++ 3072#16 ++ d ++ 33#7)
  | .teamix d => some (0#1 ++ 3328#16 ++ d ++ 33#7)
  | .clklo d => some (0#1 ++ 3584#16 ++ d ++ 33#7)
  | .clkhi d => some (0#1 ++ 3840#16 ++ d ++ 33#7)
  | .b2g d k => some (0#1 ++ 512#13 ++ k ++ d ++ 33#7)
  | .g2b k a => some (0#1 ++ 17#8 ++ a ++ 0#5 ++ k ++ 33#7)
  | .clz64 d a => some (0#1 ++ 18#8 ++ a ++ d ++ 33#7)
  | .popc64 d a => some (0#1 ++ 19#8 ++ a ++ d ++ 33#7)
  | .iaddi d a i => some (i ++ a ++ d ++ 35#7)
  | .andi d a i => some (i ++ a ++ d ++ 37#7)
  | .ori d a i => some (i ++ a ++ d ++ 39#7)
  | .xori d a i => some (i ++ a ++ d ++ 41#7)
  | .shli d a n => some (0#1 ++ 0#3 ++ n ++ a ++ d ++ 43#7)
  | .shri d a n => some (0#1 ++ 1#3 ++ n ++ a ++ d ++ 43#7)
  | .sari d a n => some (0#1 ++ 2#3 ++ n ++ a ++ d ++ 43#7)
  | .rotri d a n => some (0#1 ++ 3#3 ++ n ++ a ++ d ++ 43#7)
  | .movkl d i => some (0#1 ++ i ++ d ++ 45#7)
  | .movkh d i => some (1#1 ++ i ++ d ++ 45#7)
  | .icmp e c n a b => some (0#1 ++ 0#1 ++ b ++ a ++ bit n ++ c ++ e ++ 47#7)
  | .icmpi e c n a i => some (0#1 ++ 0#1 ++ i ++ a ++ bit n ++ c ++ e ++ 49#7)
  | .sel c s d a => some (0#1 ++ 0#4 ++ a ++ d ++ bit s ++ c ++ 51#7)
  | .shflIdx s d c r => some (bit r ++ c ++ d ++ 0#1 ++ s ++ 0#3 ++ 53#7)
  | .shflUp s d n r => some (bit r ++ n ++ d ++ 0#1 ++ s ++ 1#3 ++ 53#7)
  | .shflDown s d n r => some (bit r ++ n ++ d ++ 0#1 ++ s ++ 2#3 ++ 53#7)
  | .shflXor s d n r => some (bit r ++ n ++ d ++ 0#1 ++ s ++ 3#3 ++ 53#7)
  | .voteAny s d f r => some (bit r ++ 0#5 ++ f ++ 0#5 ++ d ++ 0#1 ++ s ++ 0#3 ++ 55#7)
  | .voteAll s d f r => some (bit r ++ 0#5 ++ f ++ 0#5 ++ d ++ 0#1 ++ s ++ 1#3 ++ 55#7)
  | .voteBallot s d f r => some (bit r ++ 0#5 ++ f ++ d ++ 0#1 ++ s ++ 2#3 ++ 55#7)
  | .voteMatch s d a r => some (bit r ++ a ++ d ++ 0#1 ++ s ++ 3#3 ++ 55#7)
  | .voteRadd s d a r => some (bit r ++ a ++ d ++ 0#1 ++ s ++ 4#3 ++ 55#7)
  | .voteRmin s d a r => some (bit r ++ a ++ d ++ 0#1 ++ s ++ 5#3 ++ 55#7)
  | .voteRmax s d a r => some (bit r ++ a ++ d ++ 0#1 ++ s ++ 6#3 ++ 55#7)
  | .voteRfadd s d a r => some (bit r ++ a ++ d ++ 0#1 ++ s ++ 7#3 ++ 55#7)
  | .fadd d a b x => some (bit x ++ b ++ a ++ d ++ 65#7)
  | .fsub d a b x => some (bit x ++ b ++ a ++ d ++ 67#7)
  | .fmul d a b x => some (bit x ++ b ++ a ++ d ++ 69#7)
  | .ffma d a b x => some (bit x ++ b ++ a ++ d ++ 71#7)
  | .fmin d a b x => some (bit x ++ b ++ a ++ d ++ 73#7)
  | .fmax d a b x => some (bit x ++ b ++ a ++ d ++ 75#7)
  | .fabs d a l => some (0#1 ++ l ++ 0#4 ++ a ++ d ++ 77#7)
  | .fneg d a l => some (0#1 ++ l ++ 1#4 ++ a ++ d ++ 77#7)
  | .frcp d a l => some (0#1 ++ l ++ 2#4 ++ a ++ d ++ 77#7)
  | .frsq d a l => some (0#1 ++ l ++ 3#4 ++ a ++ d ++ 77#7)
  | .fsqrt d a l => some (0#1 ++ l ++ 4#4 ++ a ++ d ++ 77#7)
  | .fexp2 d a l => some (0#1 ++ l ++ 5#4 ++ a ++ d ++ 77#7)
  | .flog2 d a l => some (0#1 ++ l ++ 6#4 ++ a ++ d ++ 77#7)
  | .fsin d a l => some (0#1 ++ l ++ 7#4 ++ a ++ d ++ 77#7)
  | .fcos d a l => some (0#1 ++ l ++ 8#4 ++ a ++ d ++ 77#7)
  | .ftanh d a l => some (0#1 ++ l ++ 9#4 ++ a ++ d ++ 77#7)
  | .ffloor d a l => some (0#1 ++ l ++ 10#4 ++ a ++ d ++ 77#7)
  | .fceil d a l => some (0#1 ++ l ++ 11#4 ++ a ++ d ++ 77#7)
  | .ftrunc d a l => some (0#1 ++ l ++ 12#4 ++ a ++ d ++ 77#7)
  | .frint d a l => some (0#1 ++ l ++ 13#4 ++ a ++ d ++ 77#7)
  | .fclass d a l => some (0#1 ++ l ++ 14#4 ++ a ++ d ++ 77#7)
  | .fsat d a l => some (0#1 ++ l ++ 15#4 ++ a ++ d ++ 77#7)
  | .fcmp e c n a b => some (0#1 ++ 0#1 ++ b ++ a ++ bit n ++ c ++ e ++ 79#7)
  | .cvt d a f r p i => some (bit i ++ p ++ r ++ 0#1 ++ f ++ a ++ d ++ 81#7)
  | .cvif d a => some (0#1 ++ 0#8 ++ a ++ d ++ 83#7)
  | .cvnf d a => some (0#1 ++ 1#8 ++ a ++ d ++ 83#7)
  | .cvfi d a => some (0#1 ++ 2#8 ++ a ++ d ++ 83#7)
  | .cvfn d a => some (0#1 ++ 3#8 ++ a ++ d ++ 83#7)
  | .cvhf d a x => some (bit x ++ 4#8 ++ a ++ d ++ 83#7)
  | .cvbf d a => some (0#1 ++ 5#8 ++ a ++ d ++ 83#7)
  | .cv8af d a => some (0#1 ++ 6#8 ++ a ++ d ++ 83#7)
  | .cv8bf d a => some (0#1 ++ 7#8 ++ a ++ d ++ 83#7)
  | .dot4 d a b => some (0#1 ++ b ++ a ++ d ++ 85#7)
  | .dot2 d a b => some (1#1 ++ b ++ a ++ d ++ 85#7)
  | .idiv d a b => some (0#1 ++ b ++ a ++ d ++ 87#7)
  | .idivu d a b => some (1#1 ++ b ++ a ++ d ++ 87#7)
  | .scmp q k l a b => some (b ++ a ++ l ++ 0#1 ++ k ++ q ++ 89#7)
  | .pcombAnd d a b m => some (0#1 ++ 0#11 ++ m ++ 0#2 ++ b ++ a ++ d ++ 91#7)
  | .pcombOr d a b m => some (0#1 ++ 0#11 ++ m ++ 1#2 ++ b ++ a ++ d ++ 91#7)
  | .pcombNot d a => some (0#1 ++ 16#18 ++ a ++ d ++ 91#7)
  | .pcombXor d a b m => some (0#1 ++ 0#11 ++ m ++ 3#2 ++ b ++ a ++ d ++ 91#7)
  | .blend c s d a => some (0#1 ++ 0#4 ++ a ++ d ++ bit s ++ c ++ 93#7)
  | .blendi c s d a => some (0#1 ++ 1#4 ++ a ++ d ++ bit s ++ c ++ 93#7)
  | .selq c s d a => some (0#1 ++ 2#4 ++ a ++ d ++ bit s ++ c ++ 93#7)
  | .coll q d => some (0#1 ++ 0#13 ++ d ++ 0#2 ++ q ++ 0#3 ++ 95#7)
  | .qset q a => some (0#1 ++ 0#8 ++ a ++ 0#2 ++ q ++ 1#3 ++ 95#7)
  | .qget q d => some (0#1 ++ 0#8 ++ d ++ 0#2 ++ q ++ 2#3 ++ 95#7)
  | .qfromb q b => some (0#1 ++ 0#13 ++ b ++ 0#2 ++ q ++ 3#3 ++ 95#7)
  | .pgrad q k d => some (0#1 ++ 0#8 ++ d ++ k ++ q ++ 4#3 ++ 95#7)
  | .qhard q d => some (0#1 ++ 0#13 ++ d ++ 0#2 ++ q ++ 5#3 ++ 95#7)
  | .ld d a l s o => some (o ++ s ++ l ++ a ++ d ++ 97#7)
  | .st d a l s o => some (o ++ s ++ l ++ a ++ d ++ 99#7)
  | .ldl d a l s o => some (o ++ s ++ l ++ a ++ d ++ 101#7)
  | .stl d a l s o => some (o ++ s ++ l ++ a ++ d ++ 103#7)
  | .atomAdd d a l s => some (s ++ 0#3 ++ l ++ a ++ d ++ 105#7)
  | .atomAdd64 d a l s => some (s ++ 1#3 ++ l ++ a ++ d ++ 105#7)
  | .atomMin d a l s => some (s ++ 2#3 ++ l ++ a ++ d ++ 105#7)
  | .atomMax d a l s => some (s ++ 3#3 ++ l ++ a ++ d ++ 105#7)
  | .atomAnd d a l s => some (s ++ 4#3 ++ l ++ a ++ d ++ 105#7)
  | .atomOr d a l s => some (s ++ 5#3 ++ l ++ a ++ d ++ 105#7)
  | .atomXchg d a l s => some (s ++ 6#3 ++ l ++ a ++ d ++ 105#7)
  | .atomCas d a l s => some (s ++ 7#3 ++ l ++ a ++ d ++ 105#7)
  | .atomlAdd d a l s => some (0#1 ++ bit s ++ 0#3 ++ l ++ a ++ d ++ 107#7)
  | .atomlFadd d a l s => some (0#1 ++ bit s ++ 1#3 ++ l ++ a ++ d ++ 107#7)
  | .atomlMin d a l s => some (0#1 ++ bit s ++ 2#3 ++ l ++ a ++ d ++ 107#7)
  | .atomlMax d a l s => some (0#1 ++ bit s ++ 3#3 ++ l ++ a ++ d ++ 107#7)
  | .atomlXchg d a l s => some (0#1 ++ bit s ++ 4#3 ++ l ++ a ++ d ++ 107#7)
  | .atomlCas d a l s => some (0#1 ++ bit s ++ 5#3 ++ l ++ a ++ d ++ 107#7)
  | .atomlFadd2 d a l s => some (0#1 ++ bit s ++ 6#3 ++ l ++ a ++ d ++ 107#7)
  | .atomlOr d a l s => some (0#1 ++ bit s ++ 7#3 ++ l ++ a ++ d ++ 107#7)
  | .fence s b => some (0#1 ++ 0#13 ++ b ++ s ++ 0#3 ++ 109#7)
  | .nbInit k i n => some (0#1 ++ 0#2 ++ n ++ 0#8 ++ bit i ++ k ++ 1#3 ++ 109#7)
  | .nbExpect k i a => some (0#1 ++ 0#8 ++ a ++ bit i ++ k ++ 2#3 ++ 109#7)
  | .nbArr k i d g => some (bit g ++ 0#8 ++ d ++ bit i ++ k ++ 3#3 ++ 109#7)
  | .nbWait k i a => some (0#1 ++ 0#8 ++ a ++ bit i ++ k ++ 4#3 ++ 109#7)
  | .nbArw k i g => some (bit g ++ 0#16 ++ bit i ++ k ++ 5#3 ++ 109#7)
  | .nbTest k i a e => some (0#1 ++ 0#5 ++ e ++ a ++ bit i ++ k ++ 6#3 ++ 109#7)
  | .cpyG2l s l c => some (0#1 ++ c ++ l ++ s ++ 0#3 ++ 111#7)
  | .cpyL2g s l c => some (0#1 ++ c ++ l ++ s ++ 1#3 ++ 111#7)
  | .cpyL2l p c => some (0#1 ++ c ++ p ++ 0#5 ++ 2#3 ++ 111#7)
  | .cpyG2g p c => some (0#1 ++ c ++ p ++ 0#5 ++ 3#3 ++ 111#7)
  | .cpyPfx p c => some (0#1 ++ c ++ p ++ 0#5 ++ 4#3 ++ 111#7)
  | .strm p d => some (0#1 ++ 0#8 ++ d ++ 0#3 ++ p ++ 5#3 ++ 111#7)
  | .strmOff p => some (1#1 ++ 0#19 ++ p ++ 5#3 ++ 111#7)
  | .mxIssue a => some (0#1 ++ 0#8 ++ a ++ 0#5 ++ 0#3 ++ 113#7)
  | .mxIssueS e => some (1#1 ++ 0#19 ++ e ++ 0#3 ++ 113#7)
  | .mxZero n => some (0#1 ++ 0#16 ++ bit n ++ 0#4 ++ 1#3 ++ 113#7)
  | .mxStore q p n a => some (0#1 ++ 0#8 ++ a ++ bit n ++ p ++ q ++ 2#3 ++ 113#7)
  | .mxLoad n a => some (0#1 ++ 0#8 ++ a ++ bit n ++ 0#4 ++ 3#3 ++ 113#7)
  | .mxProg d w => some (bit w ++ 0#8 ++ d ++ 0#5 ++ 4#3 ++ 113#7)
  | .wjoin d a => some (0#1 ++ a ++ d ++ 0#5 ++ 0#3 ++ 115#7)
  | .wleave => some (0#1 ++ 0#21 ++ 1#3 ++ 115#7)
  | .wmap w d a => some (0#1 ++ a ++ d ++ 0#1 ++ w ++ 2#3 ++ 115#7)
  | .wquery d => some (0#1 ++ 0#8 ++ d ++ 0#5 ++ 3#3 ++ 115#7)
  | .rshPlan d a => some (0#1 ++ a ++ d ++ 0#5 ++ 0#3 ++ 117#7)
  | .rshGo a => some (0#1 ++ 0#8 ++ a ++ 0#5 ++ 1#3 ++ 117#7)
  | .rshPoll d w => some (bit w ++ 0#8 ++ d ++ 0#5 ++ 2#3 ++ 117#7)
  | .rshSave a => some (0#1 ++ 0#8 ++ a ++ 0#5 ++ 3#3 ++ 117#7)
  | .rshResume a => some (0#1 ++ 0#8 ++ a ++ 0#5 ++ 4#3 ++ 117#7)
  | .cka n m a => some (0#1 ++ 0#8 ++ a ++ 0#2 ++ bit m ++ n ++ 0#3 ++ 119#7)
  | .ckx s n m r => some (bit r ++ 0#13 ++ bit m ++ n ++ 0#1 ++ s ++ 1#3 ++ 119#7)
  | .ckt n m a b => some (0#1 ++ b ++ a ++ 0#2 ++ bit m ++ n ++ 2#3 ++ 119#7)
  | .ckz n => some (0#1 ++ 0#19 ++ n ++ 3#3 ++ 119#7)
  | .bra c s o => some (o ++ bit s ++ c ++ 121#7)
  | .call c s o => some (o ++ bit s ++ c ++ 123#7)
  | .jmpi p => some (0#1 ++ 0#8 ++ p ++ 0#5 ++ 0#3 ++ 125#7)
  | .calli p => some (0#1 ++ 0#8 ++ p ++ 0#5 ++ 1#3 ++ 125#7)
  | .ret => some (0#1 ++ 0#21 ++ 2#3 ++ 125#7)
  | .exit => some (0#1 ++ 0#21 ++ 3#3 ++ 125#7)
  | .land => some (0#1 ++ 0#21 ++ 4#3 ++ 125#7)
  | .rcvSet s k => some (0#1 ++ 0#5 ++ k ++ 0#9 ++ s ++ 5#3 ++ 125#7)
  | .rcvWait k => some (0#1 ++ 0#5 ++ k ++ 0#13 ++ 6#3 ++ 125#7)
  | .yld dl n => some (0#1 ++ 0#4 ++ n ++ 0#4 ++ dl ++ 0#5 ++ 7#3 ++ 125#7)
  | .stage s k => some (1#1 ++ k ++ 0#3 ++ s ++ 0#3 ++ 125#7)
  | .chend => some (1#1 ++ 0#21 ++ 1#3 ++ 125#7)
  | .trap i => some (1#1 ++ i ++ 0#13 ++ 2#3 ++ 125#7)
  | .rtt => some (1#1 ++ 0#21 ++ 3#3 ++ 125#7)
  | .elect s d => some (1#1 ++ 0#13 ++ d ++ 0#1 ++ s ++ 4#3 ++ 125#7)
  | .bop d a b o => some (1#1 ++ 0#3 ++ o ++ b ++ 0#2 ++ a ++ d ++ 0#5 ++ 5#3 ++ 125#7)
  | .brk => some (1#1 ++ 0#21 ++ 6#3 ++ 125#7)
  | .srd d i => some (0#1 ++ i ++ d ++ 0#5 ++ 0#3 ++ 127#7)
  | .swr a i => some (0#1 ++ i ++ a ++ 0#5 ++ 1#3 ++ 127#7)
  | .movs a s => some (0#1 ++ 0#2 ++ s ++ a ++ 0#5 ++ 2#3 ++ 127#7)
  | .smov d s => some (0#1 ++ 0#2 ++ s ++ d ++ 0#5 ++ 3#3 ++ 127#7)
  | .dqpush g a => some (0#1 ++ 0#8 ++ a ++ g ++ 4#3 ++ 127#7)
  | .dqpop d => some (0#1 ++ 0#8 ++ d ++ 0#5 ++ 5#3 ++ 127#7)
  | .ftwaitNb a k => some (0#1 ++ 0#3 ++ k ++ a ++ 0#5 ++ 6#3 ++ 127#7)
  | .ftwaitDq a k => some (0#1 ++ 0#3 ++ k ++ a ++ 1#5 ++ 6#3 ++ 127#7)
  | .ftwaitMx => some (0#1 ++ 2#21 ++ 6#3 ++ 127#7)
  | .ftwaitRsh => some (0#1 ++ 3#21 ++ 6#3 ++ 127#7)
  | .ftwaitClk a => some (0#1 ++ 0#8 ++ a ++ 4#5 ++ 6#3 ++ 127#7)
  | .ftlaunch d a => some (0#1 ++ a ++ d ++ 0#5 ++ 7#3 ++ 127#7)
  | .chseed k a => some (1#1 ++ 0#8 ++ a ++ 0#2 ++ k ++ 0#3 ++ 127#7)
  | .icinv => some (1#1 ++ 0#21 ++ 1#3 ++ 127#7)
  | .tlbinvAll a => some (1#1 ++ 0#8 ++ a ++ 0#5 ++ 2#3 ++ 127#7)
  | .tlbinvPage a => some (1#1 ++ 0#8 ++ a ++ 1#5 ++ 2#3 ++ 127#7)
  | .tlbinvHeap => some (1#1 ++ 2#21 ++ 2#3 ++ 127#7)
  | .killctx d a => some (1#1 ++ a ++ d ++ 0#5 ++ 3#3 ++ 127#7)
  | .succGoto t => some (t ++ 0#8)
  | .succBr _ _ _ _ => none
  | .succSw _ _ => none
  | .succCall _ _ => none
  | .succRet => some 4#32
  | .succExit => some 5#32
  | .succRtt => some 6#32
  | .loadResultReturn _ _ => none
  | .streamPop _ _ _ => none
  | .streamPush _ _ => none
  | .watchdog _ _ => none
  | .trapEntry _ _ => none
  | .teamEnd _ => none
  | .chainGroupCreate _ => none
  | .chainSettle _ _ => none
  | .faultRecordWake _ _ => none
  | .faultRecordTake _ => none
  | .copyTransfer _ _ => none
  | .matrixCommandStart _ => none
  | .mxSlice _ => none
  | .mxStoreTransfer _ => none
  | .mxLoadTransfer _ => none
  | .rshRowPull _ _ => none
  | .rshStopAtBoundary _ => none
  | .parityUpdateLand _ => none
  | .bankRetire _ _ => none
  | .killComplete _ => none
  | .launchDoorbell _ _ => none
  | .launchAdmission => none
  | .wizinTranslate _ => none
  | .teamPlacement => none
  | .gangStaggerExpiry _ => none
  | .jobChunkTake _ _ => none
  | .jobTeamCreate _ _ => none
  | .pathAgeing _ _ _ => none
  | .preemption => none
  | .contextSave _ => none
  | .launchComplete _ => none
  | .remoteAnswer _ _ => none
  | .inboundRemoteRequest _ => none
  | .requestBudgetExpiry _ => none
  | .linkPause _ => none
  | .linkResume _ => none
  | .portFailure _ => none
  | .collectiveDoorbell _ _ => none
  | .collectiveChunk _ _ => none
  | .collectiveComplete _ => none
  | .hostCopyDescriptor _ => none
  | .hostApertureAccess _ => none
  | .correctedError _ _ => none
  | .rowActivationAlert _ _ => none
  | .powerEstimate _ _ => none
  | .temperatureThrottle _ _ => none
  | .thermalTrip _ _ => none
  | .resetBoot _ => none
  | .attestation => none
  | .lindenClear _ => none
  | .spretire _ => none
  | .route _ => none
  | .ctxctl _ _ => none
  | .translationStoreConfig _ _ => none
  | .managementRegisterWrite _ _ => none
  | .storeAcknowledgement _ _ => none
  | .clockWaitExpiry _ => none
  | .refreshManagementComplete _ _ => none
  | .hostLinkFailure _ => none
  | .linkRetransmission _ => none
  | .temperatureThrottleEnd _ _ => none
  | .attestationComplete => none

/-- The halfword of a compact form. -/
def encode16 : Instr → Option Half
  | .movCompact d s => some (s ++ d ++ 0#5)
  | .iaddCompact d s => some (s ++ d ++ 2#5)
  | .isubCompact d s => some (s ++ d ++ 4#5)
  | .andCompact d s => some (s ++ d ++ 6#5)
  | .orCompact d s => some (s ++ d ++ 8#5)
  | .xorCompact d s => some (s ++ d ++ 10#5)
  | .shlCompact d s => some (s ++ d ++ 12#5)
  | .shrCompact d s => some (s ++ d ++ 14#5)
  | .sarCompact d s => some (s ++ d ++ 16#5)
  | .imulCompact d s => some (s ++ d ++ 18#5)
  | .faddCompact d s => some (s ++ d ++ 20#5)
  | .fsubCompact d s => some (s ++ d ++ 22#5)
  | .fmulCompact d s => some (s ++ d ++ 24#5)
  | .fmaxCompact d s => some (s ++ d ++ 26#5)
  | .iaddiCompact d i => some (i ++ d ++ 28#5)
  | .movi d i => some (i ++ d ++ 30#5)
  | _ => none

/-- The halfwords of an instruction in memory order; a step that no word encodes has none. -/
def encode (i : Instr) : List Half :=
  match encode16 i with
  | some h => [h]
  | none =>
    match encode32 i with
    | some w => wordHalves w
    | none => []

/-- The words of a successor with its extension words (R338). -/
def encodeSucc : Instr → List Word
  | .succBr c sense t1 t2 => [t1 ++ bit sense ++ c ++ 1#4, 0#8 ++ t2]
  | .succSw i ts => (BitVec.ofNat 16 ts.length ++ i ++ 2#8) :: ts.map (fun t => 0#8 ++ t)
  | .succCall t tr => [t ++ 3#8, 0#8 ++ tr]
  | i => (encode32 i).toList

end Sys2Proof
end

