-- ==== Sys2Proof/Config.lean ====
section
/-!
DEFINITION. The values the spec leaves open: nothing in Lean can evaluate them, so a claim that uses one holds for every
value. Choices and draws are applied to a counter that State holds, so that successive uses are unrelated; the others to
what they depend on.
-/

namespace Sys2Proof.Config

/-- Which of the two values the rules allow an access takes before the matching TLBINV or ICINV retires (R31, R152,
R226, R227): the new one when `true`. Log entry 10. -/
opaque pick : Nat → Bool

/-- A byte of an attestation signature (R346), by nonce, device hash, firmware digest, DEVID, leaf index and place: the key
is fused and the spec gives no value. Log entry 13. -/
opaque signatureByte : BitVec 256 → Word64 → BitVec 256 → BitVec 17 → Nat → Nat → Byte

/-- The binary32 word of the binary8 value 2^e where e is 128 or more, which only an unsigned format of precision 1 has: the
spec calls every binary8 value exact in binary32 (R39, R103, R201, R203) and gives no word for these. Log entry 55. -/
opaque beyondFp32 : Nat → Word

/-- The ordering kind of a page as another device has it, by device, context and page number: the initiator of a remote
access obeys it and cannot read it (R245, R312). Log entry 9. -/
opaque targetKind : Nat → Nat → Nat → BitVec 2

/-- The bank of its HBM stack that holds a physical address: no rule maps addresses to banks (R238, R242). Log entry 60. -/
opaque bankAt : Nat → Nat

/-- A draw for which the spec gives no counter: a stochastic MX.STORE issued by the front thread (R147, R200). Log
entries 10 and 22. -/
opaque freeWord : Nat → Word

end Sys2Proof.Config
end

