-- ==== Sys2Proof/Machine/Float.lean ====
section
/-!
DEFINITION. Number formats, exact values and the one rounding routine (R34–R50, R52, R54).  Every operation forms its
result exactly on integers and rounds once; a format's magnitudes are numbered by their codes without an upper limit,
so that rounding to nearest-even is a matter of a code's parity (R45).
-/

namespace Sys2Proof.Machine

/-- An exact value: `fin neg m e` is ± m · 2^e, with a signed zero when m = 0. -/
inductive FVal where
  | nan
  | inf (neg : Bool)
  | fin (neg : Bool) (m : Nat) (e : Int)
  deriving DecidableEq, Repr

/-- A format of the IEEE family: exponent and trailing significand widths (R34). -/
structure Ieee where
  e : Nat
  t : Nat
  deriving DecidableEq, Repr

def fp32 : Ieee := ⟨8, 23⟩
def fp16 : Ieee := ⟨5, 10⟩
def bf16 : Ieee := ⟨8, 7⟩

namespace Ieee

def width (F : Ieee) : Nat := F.e + F.t + 1
def bias (F : Ieee) : Nat := 2 ^ (F.e - 1) - 1
/-- Exponent of the smallest normal value. -/
def emin (F : Ieee) : Int := 1 - (F.bias : Int)
/-- Magnitude code of infinity; every finite code lies below it. -/
def infCode (F : Ieee) : Nat := (2 ^ F.e - 1) * 2 ^ F.t
/-- The canonical NaN (R35). -/
def nanBits (F : Ieee) : Nat := F.infCode + 2 ^ (F.t - 1)
def signed (F : Ieee) (neg : Bool) (code : Nat) : Nat := code + if neg then 2 ^ (F.e + F.t) else 0
def mag (F : Ieee) (b : Nat) : Nat := b % 2 ^ (F.e + F.t)
def neg (F : Ieee) (b : Nat) : Bool := b / 2 ^ (F.e + F.t) % 2 == 1
def isNan (F : Ieee) (b : Nat) : Bool := decide (F.infCode < F.mag b)
def isSub (F : Ieee) (b : Nat) : Bool := decide (0 < F.mag b) && decide (F.mag b < 2 ^ F.t)

/-- The value of a bit pattern (R34). -/
def value (F : Ieee) (b : Nat) : FVal :=
  let m := F.mag b
  if F.infCode < m then .nan
  else if m = F.infCode then .inf (F.neg b)
  else if m < 2 ^ F.t then .fin (F.neg b) m (F.emin - F.t)
  else .fin (F.neg b) (m % 2 ^ F.t + 2 ^ F.t) (F.emin - F.t + (m / 2 ^ F.t : Nat) - 1)

/-- DAZ (R48): a subnormal operand reads as zero of its sign. -/
def daz (F : Ieee) (on : Bool) (b : Nat) : Nat := if on && F.isSub b then F.signed (F.neg b) 0 else b

/-- A NaN quieted by setting its most significant trailing bit (R50). -/
def quiet (F : Ieee) (b : Nat) : Nat :=
  if b / 2 ^ (F.t - 1) % 2 = 1 then b else b + 2 ^ (F.t - 1)

/-- The NaN that a NaN result takes: canonical, or under legacy NaN the first NaN source quieted (R36, R50). -/
def nanOf (F : Ieee) (legacy : Bool) (srcs : List Nat) : Nat :=
  if legacy then
    match srcs.find? F.isNan with
    | some b => F.quiet b
    | none => F.nanBits
  else F.nanBits

end Ieee

/-! ### Rounding -/

/-- The rounding in force (R44, R45). `rna` is the tie rule of legacy convert rounding (R49). -/
inductive Rnd where
  | rne | rtz | rdn | rup
  | sr (d : Nat)
  | rna
  deriving DecidableEq, Repr

/-- FPCTL[1:0] (R28). -/
def Rnd.ofMode (v : BitVec 2) : Rnd :=
  match v.toNat with
  | 0 => .rne
  | 1 => .rtz
  | 2 => .rdn
  | _ => .rup

/-- Whether rounding takes hi rather than lo (R45): `r / den` is rem / ulp, and `odd` says lo's code is odd. -/
def Rnd.up (rnd : Rnd) (neg odd : Bool) (r den : Nat) : Bool :=
  match rnd with
  | .rne => decide (den < 2 * r) || (decide (2 * r = den) && odd)
  | .rtz => false
  | .rdn => neg && decide (r ≠ 0)
  | .rup => !neg && decide (r ≠ 0)
  | .sr d => decide (d * den < r * 32768)
  | .rna => decide (den ≤ 2 * r)

/-- m · 2^e as a fraction. -/
def ratOf (m : Nat) (e : Int) : Nat × Nat :=
  match e with
  | .ofNat k => (m * 2 ^ k, 1)
  | .negSucc k => (m, 2 ^ (k + 1))

/-- ⌊log₂ (n / d)⌋ for n, d > 0. -/
def ilog2 (n d : Nat) : Int :=
  let l : Int := (Nat.log2 n : Int) - Nat.log2 d
  let (a, b) := ratOf 1 l
  if n * b < d * a then l - 1 else l

/-- The magnitude code, without an upper limit, of a positive fraction n / d rounded to a format with `t` trailing
bits and smallest normal exponent `emin` (R45). -/
def roundCode (t : Nat) (emin : Int) (rnd : Rnd) (neg : Bool) (n d : Nat) : Nat :=
  if n = 0 then 0 else
  let q := max (ilog2 n d) emin
  let (a, b) := ratOf 1 (q - t)
  let den := d * a
  let k := n * b / den
  let r := n * b % den
  let code := k + (q - emin).toNat * 2 ^ t
  if rnd.up neg (code % 2 == 1) r den then code + 1 else code

/-- A signed fraction rounded to an integer. -/
def roundInt (rnd : Rnd) (neg : Bool) (n d : Nat) : Int :=
  let k := n / d
  let m := if rnd.up neg (k % 2 == 1) (n % d) d then k + 1 else k
  if neg then - (m : Int) else m

/-- An IEEE result of a finite non-zero exact value (R96): beyond the format it becomes infinity or the largest finite
value, as the rounding mode gives. -/
def Ieee.round (F : Ieee) (rnd : Rnd) (neg : Bool) (n d : Nat) : Nat :=
  let c := roundCode F.t F.emin rnd neg n d
  if c < F.infCode then F.signed neg c
  else
    let toInf := match rnd with
      | .rtz => false
      | .rdn => neg
      | .rup => !neg
      | _ => true
    F.signed neg (if toInf then F.infCode else F.infCode - 1)

/-- FTZ (R48): a subnormal result becomes zero of its sign. -/
def Ieee.ftz (F : Ieee) (on : Bool) (b : Nat) : Nat := F.daz on b

/-! ### Exact arithmetic -/

/-- ± m · 2^e as an integer multiple of 2^e0, for e0 ≤ e. -/
def scaled (neg : Bool) (m : Nat) (e e0 : Int) : Int :=
  let v : Int := m * 2 ^ (e - e0).toNat
  if neg then -v else v

/-- The exact sum of two finite values as an integer multiple of a power of two. -/
def addFin (n1 : Bool) (m1 : Nat) (e1 : Int) (n2 : Bool) (m2 : Nat) (e2 : Int) : Int × Int :=
  let e0 := min e1 e2
  (scaled n1 m1 e1 e0 + scaled n2 m2 e2 e0, e0)

/-- The sign of an exact zero sum of two terms (R96): that of both when they are zeros of one sign, else + (− under
RDN). -/
def zeroSumNeg (rnd : Rnd) (n1 : Bool) (m1 : Nat) (n2 : Bool) (m2 : Nat) : Bool :=
  if m1 = 0 && m2 = 0 && n1 == n2 then n1 else rnd == .rdn

/-- The sum of two exact values rounded once (R96); `nan` supplies the NaN result. -/
def Ieee.addV (F : Ieee) (rnd : Rnd) (nan : Nat) : FVal → FVal → Nat
  | .nan, _ => nan
  | _, .nan => nan
  | .inf a, .inf b => if a == b then F.signed a F.infCode else nan
  | .inf a, _ => F.signed a F.infCode
  | _, .inf b => F.signed b F.infCode
  | .fin n1 m1 e1, .fin n2 m2 e2 =>
    let (v, e) := addFin n1 m1 e1 n2 m2 e2
    if v = 0 then F.signed (zeroSumNeg rnd n1 m1 n2 m2) 0
    else
      let (n, d) := ratOf v.natAbs e
      F.round rnd (v < 0) n d

/-- The exact product of two values. -/
def mulV : FVal → FVal → FVal
  | .nan, _ => .nan
  | _, .nan => .nan
  | .inf a, .inf b => .inf (a != b)
  | .inf a, .fin b m _ => if m = 0 then .nan else .inf (a != b)
  | .fin a m _, .inf b => if m = 0 then .nan else .inf (a != b)
  | .fin a m e, .fin b m' e' => .fin (a != b) (m * m') (e + e')

/-- A value rounded once to the format (R45 with the IEEE overflow of R96). -/
def Ieee.ofV (F : Ieee) (rnd : Rnd) (nan : Nat) : FVal → Nat
  | .nan => nan
  | .inf a => F.signed a F.infCode
  | .fin neg m e =>
    if m = 0 then F.signed neg 0
    else
      let (n, d) := ratOf m e
      F.round rnd neg n d

def FVal.negate : FVal → FVal
  | .nan => .nan
  | .inf a => .inf (!a)
  | .fin a m e => .fin (!a) m e

/-- The order of two values that are not NaN, with −0 = +0: −1, 0 or 1. -/
def FVal.cmp : FVal → FVal → Int
  | .inf a, .inf b => if a == b then 0 else if a then -1 else 1
  | .inf a, _ => if a then -1 else 1
  | _, .inf b => if b then 1 else -1
  | .fin n1 m1 e1, .fin n2 m2 e2 =>
    let v := (addFin n1 m1 e1 (!n2) m2 e2).1
    if v < 0 then -1 else if v = 0 then 0 else 1
  | _, _ => 0

/-- What FPCTL says of an FP operation (R28, R48–R51). -/
structure FpMode where
  rnd : Rnd
  ftz : Bool
  daz : Bool
  legacyNan : Bool
  legacyRound : Bool
  bf : Bool
  deriving DecidableEq, Repr

def FpMode.of (c : BitVec 32) : FpMode :=
  { rnd := .ofMode (c.extractLsb' 0 2), ftz := c.getLsbD 2, daz := c.getLsbD 3, legacyNan := c.getLsbD 4,
    legacyRound := c.getLsbD 5, bf := c.getLsbD 6 }

/-- The mode of reductions, checksums, the matrix unit and atomics: RNE, subnormals kept, canonical NaN. -/
def FpMode.plain : FpMode := .of 0#32

/-- FADD, FSUB, FMUL, FFMA, FMIN, FMAX. -/
inductive FpOp where
  | add | sub | mul | fma | min | max
  deriving DecidableEq, Repr

/-- minimumNumber and maximumNumber of two operands after DAZ (R97). -/
def Ieee.minMax (F : Ieee) (isMax : Bool) (legacy : Bool) (a b : Nat) : Nat :=
  if F.isNan a && F.isNan b then F.nanOf legacy [a, b]
  else if F.isNan a then b
  else if F.isNan b then a
  else
    let c := (F.value a).cmp (F.value b)
    if c = 0 then (if F.neg a != isMax then a else b)
    else if (c < 0) != isMax then a else b

/-- One element of the FP R forms (R96–R98): operands a, b and old d. -/
def Ieee.op (F : Ieee) (M : FpMode) (op : FpOp) (a b d : Nat) : Nat :=
  let a := F.daz M.daz a
  let b := F.daz M.daz b
  let d := F.daz M.daz d
  let va := F.value a
  let vb := F.value b
  let nan2 := F.nanOf M.legacyNan [a, b]
  F.ftz M.ftz <|
    match op with
    | .add => F.addV M.rnd nan2 va vb
    | .sub => F.addV M.rnd nan2 va vb.negate
    | .mul => F.ofV M.rnd nan2 (mulV va vb)
    | .fma => F.addV M.rnd (F.nanOf M.legacyNan [a, b, d]) (mulV va vb) (F.value d)
    | .min => F.minMax false M.legacyNan a b
    | .max => F.minMax true M.legacyNan a b

/-- A binary32 addition rounded to nearest, as reductions and checksums do it (R53, R206). -/
def add32 (a b : BitVec 32) : BitVec 32 := BitVec.ofNat 32 (fp32.op .plain .add a.toNat b.toNat 0)

def sub32 (a b : BitVec 32) : BitVec 32 := BitVec.ofNat 32 (fp32.op .plain .sub a.toNat b.toNat 0)

/-! ### binary8 (R37–R40) -/

/-- An NFMT slot: precision, unsigned, extended (R28, R40). -/
structure Slot8 where
  p : Nat
  uns : Bool
  ext : Bool
  deriving DecidableEq, Repr

/-- Slot A (`false`) or B (`true`) of NFMT. -/
def slotOf (nfmt : BitVec 32) (b : Bool) : Slot8 :=
  let v := if b then nfmt.extractLsb' 8 6 else nfmt.extractLsb' 0 6
  { p := (v.extractLsb' 0 4).toNat, uns := v.getLsbD 4, ext := v.getLsbD 5 }

namespace Slot8

/-- A slot whose P is 0 or 8 to 15 traps OPERAND_FORMAT when used (R40). -/
def valid (S : Slot8) : Bool := decide (1 ≤ S.p) && decide (S.p ≤ 7)
def t (S : Slot8) : Nat := S.p - 1
def emin (S : Slot8) : Int := 1 - (2 ^ (7 - S.p) : Nat)
/-- The largest finite magnitude code (R38). -/
def maxCode (S : Slot8) : Nat := (if S.uns then 0xFE else 0x7F) - (if S.ext then 1 else 0)
def nanCode (S : Slot8) : Nat := if S.uns then 0xFF else 0x80

/-- The value of a code (R37, R38). -/
def value (S : Slot8) (c : Nat) : FVal :=
  if c = S.nanCode then .nan
  else
    let neg := !S.uns && decide (128 ≤ c)
    let m := if S.uns then c else c % 128
    if S.ext && m = S.maxCode + 1 then .inf neg
    else if m < 2 ^ S.t then .fin (neg && decide (m ≠ 0)) m (S.emin - S.t)
    else .fin neg (m % 2 ^ S.t + 2 ^ S.t) (S.emin - S.t + (m / 2 ^ S.t : Nat) - 1)

end Slot8

/-- A finite value that binary32 cannot hold, such as a large code of the unsigned binary8 of precision 1. -/
def FVal.beyond32 (v : FVal) : Bool :=
  match v with
  | .fin _ _ _ => fp32.ofV .rne fp32.nanBits v % 2 ^ 31 == fp32.infCode
  | _ => false

/-- The exponent of a value. -/
def FVal.exponent : FVal → Nat
  | .fin _ _ e => e.toNat
  | _ => 0

/-- The binary32 word of an element, exact (R103, R203); a free one where binary32 does not hold it (log entry 55). -/
def fp32Of (v : FVal) : Nat :=
  if v.beyond32 then (Config.beyondFp32 v.exponent).toNat else fp32.ofV .rne fp32.nanBits v

/-! ### Conversion (R45, R47, R102) -/

/-- The destination formats of the V format (R66). -/
inductive VFmt where
  | ieee (F : Ieee)
  | bin8 (S : Slot8)
  | int (bits : Nat) (sgn : Bool)
  deriving DecidableEq, Repr

def VFmt.width : VFmt → Nat
  | .ieee F => F.width
  | .bin8 _ => 8
  | .int n _ => n

/-- The outcome of a conversion: a bit pattern with whether OVERFLOWED was applied, or an overflow under TRAP. -/
inductive Conv where
  | ok (bits : Nat) (clamped : Bool)
  | trap
  deriving DecidableEq, Repr

/-- OVERFLOWED for a float format (R47). -/
def overFloat (pol : BitVec 2) (neg : Bool) : VFmt → Conv
  | .ieee F =>
    match pol.toNat with
    | 0 => .ok (F.signed neg (F.infCode - 1)) true
    | 1 => .ok (F.signed neg F.infCode) true
    | 2 => .ok F.nanBits true
    | _ => .trap
  | .bin8 S =>
    match pol.toNat with
    | 0 => .ok (if S.uns && neg then 0 else S.maxCode + if neg then 128 else 0) true
    | 1 => .ok (if S.ext && !(S.uns && neg) then S.maxCode + 1 + (if neg then 128 else 0) else S.nanCode) true
    | 2 => .ok S.nanCode true
    | _ => .trap
  | .int _ _ => .trap

/-- An integer result clamped to its range, or an overflow under TRAP (R47). -/
def overInt (pol : BitVec 2) (bits : Nat) (sgn : Bool) (v : Int) : Conv :=
  let lo : Int := if sgn then -(2 ^ (bits - 1) : Nat) else 0
  let hi : Int := if sgn then (2 ^ (bits - 1) : Nat) - 1 else (2 ^ bits : Nat) - 1
  if lo ≤ v ∧ v ≤ hi then .ok (v % (2 ^ bits : Nat)).toNat false
  else if pol = 3#2 then .trap
  else .ok ((if v < lo then lo else hi) % (2 ^ bits : Nat)).toNat true

/-- RoundToFormat (R45) of an exact value; `nan` is the NaN of an IEEE destination (R36, R50). -/
def convert (F : VFmt) (rnd : Rnd) (pol : BitVec 2) (nan : Nat) (x : FVal) : Conv :=
  match F with
  | .ieee G =>
    match x with
    | .nan => .ok nan false
    | .inf neg => .ok (G.signed neg G.infCode) false
    | .fin neg m e =>
      let (n, d) := ratOf m e
      let c := roundCode G.t G.emin rnd neg n d
      if c < G.infCode then .ok (G.signed neg c) false else overFloat pol neg F
  | .bin8 S =>
    match x with
    | .nan => .ok S.nanCode false
    | .inf neg =>
      if S.ext && !(S.uns && neg) then .ok (S.maxCode + 1 + if neg then 128 else 0) false else overFloat pol neg F
    | .fin neg m e =>
      let (n, d) := ratOf m e
      let c := roundCode S.t S.emin rnd neg n d
      if c = 0 then .ok 0 false
      else if S.uns && neg then overFloat pol true F
      else if S.maxCode < c then overFloat pol neg F
      else .ok (c + if neg then 128 else 0) false
  | .int bits sgn =>
    match x with
    | .nan => .ok 0 false
    | .inf neg => overInt pol bits sgn (if neg then -(2 ^ 40 : Nat) else (2 ^ 40 : Nat))
    | .fin neg m e =>
      let (n, d) := ratOf m e
      overInt pol bits sgn (roundInt rnd neg n d)

/-! ### Exact sums (R52, R54) -/

/-- A running exact sum: the special values met, the finite part, whether every term so far was a negative zero. -/
structure Acc where
  nan : Bool
  pos : Bool
  neg : Bool
  v : Int
  e : Int
  allNegZero : Bool
  deriving DecidableEq, Repr

def Acc.empty : Acc := ⟨false, false, false, 0, 0, true⟩

/-- One term more. -/
def Acc.add (s : Acc) : FVal → Acc
  | .nan => { s with nan := true }
  | .inf n => { s with pos := s.pos || !n, neg := s.neg || n }
  | .fin n m e =>
    if m = 0 then { s with allNegZero := s.allNegZero && n }
    else
      let e0 := min s.e e
      { s with v := s.v * 2 ^ (s.e - e0).toNat + scaled n m e e0, e := e0, allNegZero := false }

/-- The value of an exact sum; an exact zero is −0 only when every term was a zero of negative sign. -/
def Acc.value (s : Acc) : FVal :=
  if s.nan || (s.pos && s.neg) then .nan
  else if s.pos then .inf false
  else if s.neg then .inf true
  else if s.v = 0 then .fin s.allNegZero 0 0
  else .fin (s.v < 0) s.v.natAbs s.e

/-- The sum of exact terms, rounded once to binary32 by RNE (R52). -/
def sum32 (ts : List FVal) : BitVec 32 :=
  BitVec.ofNat 32 (fp32.ofV .rne fp32.nanBits (ts.foldl Acc.add .empty).value)

/-- A product scaled by two block scales, exactly (R41): `none` is the NaN scale. -/
def scaleV (x : FVal) (k : Option Int) : FVal :=
  match k, x with
  | none, _ => .nan
  | some k, .fin n m e => .fin n m (e + k)
  | some _, v => v

/-- The exponent of a block scale code (R41). -/
def blockScale (s : Byte) : Option Int := if s = 0xFF#8 then none else some ((s.toNat : Int) - 127)

end Sys2Proof.Machine
end

