-- ==== Sys2Proof/Machine/Map.lean ====
section
/-!
DEFINITION. Sparse maps with natural-number keys: lists of pairs, keys strictly rising.  A map of registers or bytes
lists no entry equal to what an unlisted key reads as, so equal contents are equal data.
-/

namespace Sys2Proof.Machine

/-- A sparse map: pairs of a key and a value, keys strictly rising. -/
abbrev SMap (α : Type) := List (Nat × α)

/-- The value at a key, if one is listed. -/
def SMap.find? {α : Type} (k : Nat) : SMap α → Option α
  | [] => none
  | (j, v) :: m => if j = k then some v else SMap.find? k m

/-- The value at a key, or what an unlisted key reads as. -/
def SMap.getD {α : Type} (m : SMap α) (k : Nat) (d : α) : α := (SMap.find? k m).getD d

/-- The map with a key's entry removed. -/
def SMap.erase {α : Type} (k : Nat) : SMap α → SMap α
  | [] => []
  | (j, v) :: m => if j = k then m else (j, v) :: SMap.erase k m

/-- The map with a key's entry put in its place, whatever it held. -/
def SMap.insert {α : Type} (k : Nat) (v : α) : SMap α → SMap α
  | [] => [(k, v)]
  | (j, w) :: m =>
    if k < j then (k, v) :: (j, w) :: m
    else if k = j then (k, v) :: m
    else (j, w) :: SMap.insert k v m

/-- Write a value, where an unlisted key reads as `d`: writing `d` removes the entry. -/
def SMap.put {α : Type} [DecidableEq α] (m : SMap α) (k : Nat) (v d : α) : SMap α :=
  if v = d then SMap.erase k m else SMap.insert k v m

/-- Change the value at a key, if one is listed. -/
def SMap.modify {α : Type} (k : Nat) (f : α → α) : SMap α → SMap α
  | [] => []
  | (j, v) :: m => if j = k then (j, f v) :: m else (j, v) :: SMap.modify k f m

/-- Every key of a map is above `k`. -/
def SMap.above {α : Type} (k : Nat) : SMap α → Bool
  | [] => true
  | (j, _) :: m => decide (k < j) && SMap.above k m

/-- Keys strictly rising. -/
def SMap.sorted {α : Type} : SMap α → Bool
  | [] => true
  | (j, _) :: m => SMap.above j m && SMap.sorted m

/-- The canonical form of a map whose unlisted keys read as `d`. -/
def SMap.canon {α : Type} [DecidableEq α] (m : SMap α) (d : α) : Bool :=
  SMap.sorted m && m.all (fun e => decide (e.2 ≠ d))

/-- Put an element before the first of a list that does not come before it. -/
def insertBy {α : Type} (le : α → α → Bool) (x : α) : List α → List α
  | [] => [x]
  | y :: ys => if le x y then x :: y :: ys else y :: insertBy le x ys

/-- A list in order; equal elements keep their places. -/
def sortBy {α : Type} (le : α → α → Bool) (l : List α) : List α := l.foldr (insertBy le) []

/-- The least natural number that a list of numbers lacks, counting up from `n` with `fuel` tries. -/
def leastFree (used : List Nat) : Nat → Nat → Option Nat
  | 0, _ => none
  | fuel + 1, n => if used.contains n then leastFree used fuel (n + 1) else some n

end Sys2Proof.Machine
end

