-- ==== Sys2Proof/Machine/State.lean ====
section
/-!
DEFINITION. All the state the spec gives the machine, as plain data, and the machine right after reset.
The owners are those of R19 (thread, group, team, context, core, front context) and the device's own units.
-/

namespace Sys2Proof.Machine

/-- The reasons the model stops. -/
inductive Fault where
  /-- Raised by a thread or front instruction handed to `exec` with no issue in progress (`State.cur` empty, or naming
  a team or thread that does not exist): `step` never does this. Safe: no run from `step` meets it. -/
  | noIssue
  deriving DecidableEq, Repr

/-- The reasons the model gives an instruction no meaning. -/
inductive Refusal where
  /-- Raised by an arm of `exec` whose instruction has no meaning yet. Safe: nothing is claimed of it. -/
  | notModelled (mnemonic : String)
  deriving DecidableEq, Repr

/-! ### Threads -/

/-- What a pending load, atomic or FUN result will be (R67): values ready, or a remote atomic that will be answered. -/
inductive PendValue where
  | ready (vals : List Word64)
  | remote (id : Nat)
  deriving DecidableEq, Repr

/-- A part of a load's bytes: read here, asked of another device, or here with an uncorrectable word at an address. The
remote parts are answered before such a word counts (R161). -/
inductive LoadPart where
  | bytes (bs : List Byte)
  | asked (id : Nat)
  | bad (addr : Word64)
  deriving DecidableEq, Repr

/-- A pending result: its destination codes, its value, how many instructions of its window are left (R67), whether it is
that of a memory operation (R286), its place among the elements of an out port that it is one of (R26), and the team in
whose scratchpad that port's ring lay when the instruction issued, where the ring lies in a window (R183, R184). -/
structure Pending where
  dest : List (BitVec 8)
  value : PendValue
  left : Nat
  mem : Bool
  place : Nat
  via : Option Nat
  deriving DecidableEq, Repr

/-- A checksum accumulator (R22): its 64 bits, and the mode that last wrote it (`some true` = .I, `some false` = .F). -/
structure Ck where
  bits : Word64
  mode : Option Bool
  deriving DecidableEq, Repr

/-- A trap met and not yet entered (R298): it waits for the thread's pending results. -/
structure TrapReq where
  cause : BitVec 8
  addr : Word64
  tpc : Word64
  word : Word
  instr : Option Instr
  deriving DecidableEq, Repr

/-- What a waiting thread waits for. -/
inductive Wait where
  /-- A condition of its instruction, which is tested again when it issues again. -/
  | poll
  /-- Asleep on fault record `rec` of its context, with the trap it takes when the record is freed (R248). -/
  | record (rec : Nat) (req : TrapReq)
  /-- Waiting for a fault record: a TRANSLATION fault at `addr` with its access bit, met when none was free (R248). -/
  | recordFree (addr : Word64) (access : BitVec 8) (req : TrapReq)
  /-- In run-ahead, waiting for a fault record for a page that the instruction `n` places on faults at: with the record of
  the thread's own fault, until that is freed, and its trap (R248, R249). -/
  | ahead (n : Nat) (addr : Word64) (access : BitVec 8) (rec : Option Nat) (req : TrapReq)
  /-- Waiting at FTLAUNCH for its record to be admitted or refused (R220, R278). -/
  | launch
  /-- Arrived at reconvergence slot `k` (R113). -/
  | slot (k : Nat)
  /-- Arrived at a group operation (R115). -/
  | groupOp
  /-- Waiting on barrier `k` for a phase other than the token's: in NB.WAIT, NB.ARW or FTWAIT.NB (R169, R170, R219). -/
  | barrier (k : Nat) (tok : Bool)
  /-- Let go from a barrier that broke, with its address: it traps BARRIER_BROKEN when it issues again, whatever has
  become of the barrier since (R169, R172, R177). -/
  | broken (addr : Word64)
  /-- Waiting at a load for the parts that lie on remote pages (R162): the instruction, its word, the address of the
  access and its parts. -/
  | load (i : Instr) (word : Word) (addr : Word64) (parts : List LoadPart)
  /-- In line to read in port `p`, with its place in `Thread.places` (R26, R180). -/
  | port (p : Bool)
  /-- In line to push onto out port `p`, with its place in `Thread.places` (R26, R180). -/
  | outPort (p : Bool)
  /-- Settling: every window register below `k` is settled (R133). -/
  | settle (k : Nat)
  /-- Waiting for the kill of a context it started (R228). -/
  | kill (ctx : Nat)
  /-- Waiting at WLEAVE, its windows revoked, for the accesses in flight through them that are numbered below `n` (R184). -/
  | leave (n : Nat)
  /-- Waiting at MX.PROG until the team's first `n` matrix commands have ended (R204). -/
  | mx (n : Nat)
  /-- Waiting at DQPUSH after the group operation completed: the push for the group is made by its lowest member. -/
  | push (v : Word) (lead : Bool)
  deriving DecidableEq, Repr

/-- A thread (R19, R22, R28, R122, R128, R131, R147, R216, R288). `b` holds b0–b7 with bit 7 set; `stage` is `none`
for cur = −1, and `skipped0` says that it executed STAGE 0 with sp0 false (R130); `written` are the marks of its w
registers; `tcause`, `tmask` and the like hold only defined bits; `places` are the places of an instruction that waits at
a port in the lines of the ports it has still to read or write, by port (R26, R180). -/
structure Thread where
  pc : Word64
  rs : List Word64
  spill : Nat
  g : SMap Word
  b : BitVec 8
  q : SMap (BitVec 25)
  ck : SMap Ck
  draw : Word
  cursor : Word
  tpc : Word
  tcause : Word
  tinst : Word
  taddr : Word64
  tmask : Word
  written : BitVec 8
  stage : Option Nat
  skipped0 : Bool
  count : Nat
  limit : Nat
  pend : List Pending
  wait : Option Wait
  trap : Option TrapReq
  latch : List (Bool × Word)
  places : SMap Nat
  remoteFail : Option Word64
  parked : Bool
  ended : Bool
  deriving DecidableEq, Repr

/-! ### Groups -/

/-- A reconvergence slot (R111): member mask and arrived threads, bit i for thread index i. -/
structure RcvSlot where
  mask : BitVec 128
  arrived : BitVec 128
  deriving DecidableEq, Repr

/-- A group operation in progress (R115, R116): the instruction with its register operands cleared, the mask, and what
each arrived member offered (thread index, its own instruction, its source values). -/
structure GroupOp where
  key : Instr
  mask : BitVec 128
  arrived : List (Nat × Instr × List Word)
  deriving DecidableEq, Repr

/-- A group (R13, R19, R111, R216). `dq` holds the queue entries pushed and not yet removed, `pushed` the cursor value
after them, how many were ever pushed modulo 2³²; `beat` is the chain beat of a chain group. -/
structure Group where
  producer : Bool
  budget : Nat
  lane : Nat
  beat : Option Nat
  s : SMap Word
  fpctl : Word
  nfmt : Word
  temp : Word
  dq : List Word
  pushed : Word
  rcv : SMap RcvSlot
  ops : List GroupOp
  cancelled : Bool
  ended : Bool
  deriving DecidableEq, Repr

/-! ### Teams -/

/-- What makes an access: a thread or the front thread, with the chain beat of its group, and the engine operation when an
engine makes it for that thread (R126, R254, R259). -/
structure Origin where
  who : Who
  beat : Option Nat
  op : Option Nat
  deriving DecidableEq, Repr

/-- What an engine sleeps on after a TRANSLATION fault: a fault record, or until one is free for its access (R177, R248,
R250). -/
inductive Asleep where
  | on (rec : Nat)
  | free (addr : Word64)
  deriving DecidableEq, Repr

/-- A named barrier (R167), with the .G marks of R170 (group, thread) and the faulting copy address of R177. -/
structure Barrier where
  phase : Bool
  expected : Nat
  pending : Nat
  bytes : Nat
  engines : Nat
  participants : BitVec 32
  arrived : BitVec 32
  broken : Bool
  marks : List (Nat × Nat)
  badAddr : Word64
  deriving DecidableEq, Repr

/-- A bound stream port (R179): element 0 and control block (local addresses), element count, and whether the ring
lies in a wing window. -/
structure Ring where
  base : Word
  control : Word
  count : Nat
  window : Bool
  deriving DecidableEq, Repr

/-- A wing window (R183, R184): the team whose scratchpad it maps, or that its mapping was revoked. -/
inductive Window where
  | mapped (team : Nat)
  | revoked
  deriving DecidableEq, Repr

/-- Matrix commands (R187), each with its block or descriptor as read at issue. -/
inductive MxKind where
  | issue (block : List Byte)
  | zero (acc : Bool)
  | store (acc : Bool) (desc : List Byte) (rnd pol : BitVec 2)
  | load (acc : Bool) (desc : List Byte)
  deriving DecidableEq, Repr

/-- A queued or running matrix command, with what it read at issue, the draws it reserved (R200) and its barrier. `step`
counts the trailers checked and rows transferred; `parts` and `out` are what it has asked of, and written to, other
devices; `sleep` is what it sleeps on. -/
structure MxCmd where
  kind : MxKind
  nfmt : Word
  fpctl : Word
  origin : Origin
  draws : List Nat
  barrier : Option Nat
  started : Bool
  step : Nat
  sleep : Option Asleep
  parts : List LoadPart
  out : List Nat
  deriving DecidableEq, Repr

/-- The matrix state of a team (R185). Accumulator element (r, c) is at key 64 r + c; the stop record holds `true`
when marked stopped and `false` when marked abandoned, with its block; `issued` counts the commands so far. -/
structure Mx where
  a0 : SMap Word
  a1 : SMap Word
  claims : BitVec 2
  prog : Word
  stop : Option (Bool × List Byte)
  abandon : Option (BitVec 8 × Word64)
  lastBad : Bool
  issued : Nat
  queue : List MxCmd
  deriving DecidableEq, Repr

/-- A row that a re-shard operation has pulled and whose words have not all been performed: its place in the plan, and
the numbers of its stores (R232). -/
structure RowFlight where
  entry : BitVec 16
  row : BitVec 16
  seqs : List Nat
  deriving DecidableEq, Repr

/-- The re-shard operation of a team (R229): copy of the go block, the two layout records read at issue, RSPROG, state
0 idle, 1 running, 2 done, 3 stopped, 4 abandoned, the abandon record, a stop asked for by RSH.SAVE (R234), the place of
the row to pull next with its plan entry once that has been read, the rows pulled and not yet landed, that it waits for a
fault record to be free, and the thread that started it. -/
structure Rsh where
  go : List Byte
  src : List Byte
  dst : List Byte
  entry : BitVec 16
  row : BitVec 16
  state : Nat
  abandon : Option (BitVec 8 × Word64)
  stopAsked : Bool
  nextEntry : BitVec 16
  nextRow : BitVec 16
  plan : Option (List Byte)
  flight : List RowFlight
  sleep : Option Asleep
  origin : Origin
  deriving DecidableEq, Repr

/-- One slot of a chain's ring (R127, R132): its beat, values and presence of w register k, thread index i at key
128 k + i, and whether its group has retired or been cancelled. -/
structure ChainSlot where
  beat : Nat
  vals : SMap Word
  present : List Nat
  retired : Bool
  deriving DecidableEq, Repr

/-- The chain state of a team (R125–R138). `slots` is keyed by beat mod 4, `seeds` by 128 k + i; `trip` is the
effective N and `next` the next beat to create. -/
structure Chain where
  trip : Nat
  stages : Nat
  delta : Nat
  next : Nat
  slots : SMap ChainSlot
  seeds : SMap Word
  deriving DecidableEq, Repr

/-- The copy operations (R174). -/
inductive CopyKind where
  | g2l | l2g | l2l | g2g
  deriving DecidableEq, Repr

/-- A resolved local address (R153): a team's scratchpad, the byte in it, and whether a wing window named it. -/
structure Local where
  team : Nat
  off : Nat
  window : Bool
  deriving DecidableEq, Repr

/-- A running copy (R176): what it read at issue, its places (a local side with what it resolved to and how often that
team had been relaunched), the bytes landed so far, its barrier, its thread, what it sleeps on, and the parts of the piece now under way that are asked of, or written to, another device. `coord` are the box coordinates. -/
structure Copy where
  kind : CopyKind
  origin : Origin
  desc : List Byte
  coord : List Int
  src : Word64
  dst : Word64
  srcAt : Option (Local × Nat)
  dstAt : Option (Local × Nat)
  total : Nat
  done : Nat
  barrier : Option Nat
  sleep : Option Asleep
  parts : List LoadPart
  out : List Nat
  deriving DecidableEq, Repr

/-- What orders a global store among those of its team (R254–R259): who made it, its number in issue order, its page's
kind, and the priority that a doorbell store carries (R316). `skew` is its virtual address modulo 8, by which it is naturally
aligned or not (R157), and `holes` the physical addresses between its first and last byte that it does not write (R178). -/
structure StoreTag where
  origin : Origin
  seq : Nat
  kind : BitVec 2
  bprio : BitVec 8
  skew : Nat
  holes : List Nat
  deriving DecidableEq, Repr

/-- One entry of the porch (R258): a physical address and up to 16 bytes, none for an atomic that wrote nothing. A sealed
entry stands before every later one. -/
structure PorchEntry where
  pa : Nat
  bytes : List Byte
  tag : StoreTag
  sealed : Bool
  deriving DecidableEq, Repr

/-- The front context (R211, R212). -/
structure Front where
  pc : Word64
  f : SMap Word64
  b : BitVec 8
  rs : List Word64
  spill : Nat
  pend : List Pending
  wait : Option Wait
  remoteFail : Option Word64
  latch : List (Bool × Word)
  ended : Bool
  parked : Bool
  deriving DecidableEq, Repr

/-- Where a team stands between placement and its end (R281–R290). -/
inductive TeamStatus where
  | waiting
  | resident
  | resting
  | saved
  | ended
  deriving DecidableEq, Repr

/-- A fault record waiting to be written (R301): its type and its 40 detail bytes. -/
structure Report where
  type : Nat
  detail : List Byte
  launch : Option Nat
  deriving DecidableEq, Repr

/-- A team (R13, R15, R19, R285–R290). `ix` is the linear team index (R16), `args` the argument words R20 loads,
`argAddr` and `argSize` what s60–s62 hold; `started` says it has started before, so that stagger no longer applies;
`dying` that a fault has ended it, while its engines still come to rest, and `fault` the record of that end, which is
written once its porch has committed (R300, R301); `lastPaths` holds for each group the PC of
the path that issued last, and `ages` for each ready thread the clock since which it has been ready without issuing
(R286). -/
structure Team where
  ctx : Nat
  launch : Nat
  ix : Nat
  gang : Nat
  x : BitVec 16
  y : BitVec 16
  z : BitVec 16
  status : TeamStatus
  core : Nat
  base : Nat
  avoidCluster : Option Nat
  relaunches : Nat
  width : Nat
  producers : Nat
  consumers : Nat
  size : Nat
  priority : Nat
  args : List Word
  argAddr : Word64
  argSize : Word
  entry : Word64
  groups : SMap Group
  threads : SMap Thread
  front : Option Front
  sp : List Host.Cell
  nbs : SMap Barrier
  ports : SMap Ring
  wing : Option (Nat × Nat)
  windows : SMap Window
  rseed : Word64
  replay : Word
  bprio : BitVec 8
  mx : Mx
  rsh : Rsh
  chain : Option Chain
  revocable : Bool
  porchSlot : Option Nat
  porch : List PorchEntry
  copies : SMap Copy
  nextCopy : Nat
  started : Bool
  dying : Bool
  fault : Option Report
  lastPaths : SMap Word64
  lastGroup : Option Nat
  ages : SMap Nat
  deriving DecidableEq, Repr

/-! ### Contexts, launches, cores -/

/-- The heap triple and HKIND that a core holds for a context (R31, R152). -/
structure Heap where
  hb : Word64
  hl : Word64
  ho : Word64
  hkind : BitVec 6
  deriving DecidableEq, Repr

/-- A context (R19, R28, R31, R225, R247, R305, R349). `heldHeap` are earlier heap triples that a core may still use, and
`heldPtbase` earlier table roots, each with the pages (64 KiB, or 4 MiB when `true`) invalidated since (R31, R227). -/
structure Context where
  live : Bool
  privileged : Bool
  vector : BitVec 11
  pendingFault : Bool
  heap : Heap
  heldHeap : List Heap
  ptbase : Word64
  heldPtbase : List (Word64 × List (Nat × Bool))
  frbase : Word64
  killctl : Word
  killBusy : Bool
  killDone : Bool
  killLast : BitVec 12
  killedBy : List Nat
  reports : List Report
  deriving DecidableEq, Repr

/-- The launch record (R274), as read at admission. -/
structure LaunchRec where
  image : Word64
  entry : Word
  front : Word
  width : Byte
  producers : Byte
  consumers : Byte
  flags : Byte
  pbudget : BitVec 16
  cbudget : BitVec 16
  tx : BitVec 16
  ty : BitVec 16
  tz : BitVec 16
  scratch : Word
  trip : Byte
  stages : Byte
  gang : Byte
  priority : Byte
  yield : Byte
  stagger : Word
  args : Word64
  argsize : Word
  job : Word64
  done : Word64
  deriving DecidableEq, Repr

/-- A record that FTLAUNCH put into the device launch queue (R278): its context, the priority it may have at most, the
record as read, and the front thread and register that receive the outcome. -/
structure DevLaunch where
  ctx : Nat
  prio : Nat
  record : LaunchRec
  team : Nat
  dest : BitVec 8
  deriving DecidableEq, Repr

/-- A job card being dealt out (R279, R280): entry, record size, array, records in all, records dealt, and the runs of
unstarted records each core holds (first, count). -/
structure Job where
  entry : Word
  rsize : Nat
  array : Word64
  count : Nat
  dealt : Nat
  runs : SMap (Nat × Nat)
  deriving DecidableEq, Repr

/-- A launch (R277, R283, R291–R293). `body` is the native body's base address; `xlat` names the translation it runs
when Wizin made one; `pending` is true until that translation exists. -/
structure Launch where
  ctx : Nat
  record : LaunchRec
  priority : Nat
  body : Word64
  xlat : Option Nat
  pending : Bool
  ttab : List Word
  argWords : List Word
  t0 : Option Nat
  gangsStarted : Nat
  job : Option Job
  faulted : Bool
  complete : Bool
  deriving DecidableEq, Repr

/-- What the 7-bit SECDED code of a scratchpad word says where it does not fit its 32 bits (R261, R267–R269). A code that
fits is a function of the word, and nothing reads a code but to tell these cases apart. -/
inductive WordErr where
  /-- A single-bit error, which a read corrects. -/
  | single
  /-- An error that the code detects and cannot correct. -/
  | double
  /-- A poisoned word: its code always reads as uncorrectable. -/
  | poison
  deriving DecidableEq, Repr

/-- A core (R261–R273, R285, R347). Data word w of the core is at key w, parity word (g, row) at key 8 row + g; `parity`
holds the parity words, a word not listed being zero; `queue` the group, row and value of each update not yet landed;
`errs` and `perrs` what the check codes of wrong data and parity words say; `recompute` the parity words to be formed anew
once their rows are not stale (R269); `asked` the banks whose retirement the present step has called for, and `toRetire` those for which
the core holds new accesses (R270); `corrected` counts its words corrected or repaired since reset (R267); `turn` the team
served last, by priority (R286). -/
structure Core where
  fenced : Bool
  retired : SMap Nat
  repairs : SMap Nat
  parityBad : SMap Nat
  parity : SMap Word
  queue : List (Nat × Nat × Word)
  errs : SMap WordErr
  perrs : SMap WordErr
  recompute : List Nat
  asked : List Nat
  toRetire : List Nat
  corrected : Nat
  k : Nat
  turn : SMap Nat
  deriving DecidableEq, Repr

/-! ### Memory, fabric, host, management -/

/-- A cached translation (R246): context, first page address, whether it is a 4 MiB page, and the entry word. -/
structure TlbEntry where
  ctx : Nat
  page : Nat
  large : Bool
  entry : Word64
  deriving DecidableEq, Repr

/-- A fetched halfword held by a core for a context (R226). -/
structure Fetched where
  core : Nat
  ctx : Nat
  addr : Nat
  half : Half
  deriving DecidableEq, Repr

/-- A global store that has issued and has not been performed (R291): where it counts, what it writes, and what orders it.
A sealed store stands before every later one of its team (R255, R259); `commit` marks one that a porch commit put on its
way (R258). -/
structure PendStore where
  team : Nat
  launch : Nat
  core : Nat
  ctx : Nat
  pa : Nat
  bytes : List Byte
  tag : StoreTag
  sealed : Bool
  commit : Bool
  deriving DecidableEq, Repr

/-- What a remote request does (R309, R312). -/
inductive RemoteOp where
  | load (n : Nat)
  | store (bytes : List Byte)
  | atomic (op : BitVec 3) (operand : Word64)
  deriving DecidableEq, Repr

/-- A remote request in flight (R309–R311). `agent` is 0 for a thread, 2 copy, 3 matrix unit; 5 or 6 for the completion
word of a launch or a collective, which no team issues (R293, R301). `seq` is its number in issue order. Until it is `sent` this device
holds it, since the clock `since`, at the cost of its budget (R310). -/
structure Remote where
  ctx : Nat
  team : Nat
  agent : Nat
  launch : Nat
  core : Nat
  origin : Origin
  seq : Nat
  dev : BitVec 17
  port : Nat
  addr : Word64
  op : RemoteOp
  budget : BitVec 24
  sent : Bool
  since : Nat
  deriving DecidableEq, Repr

/-- A request of another device that this one holds, since which clock (R242, R310), and the address at which it faulted
TRANSLATION while no fault record was free (R248). -/
structure Inbound where
  req : InboundRequest
  since : Nat
  wants : Option Word64
  deriving DecidableEq, Repr

/-- A Zhebor port (R308, R311). -/
structure Port where
  failed : Bool
  paused : Bool
  deriving DecidableEq, Repr

/-- A submission or collective queue (R276, R316, R349). Of each published entry of a collective queue `prios` holds its
number in the order of the doorbell stores (R321) and the priority that the publishing store gave (R316); `wants` is the
address at which the read of the head's descriptor faulted TRANSLATION while no fault record was free (R248). -/
structure Queue where
  base : Word64
  cfg : Word64
  head : Word
  tail : Word
  prios : List (Nat × BitVec 8)
  wants : Option Word64
  deriving DecidableEq, Repr

/-- A collective under way (R316–R323); `wants` is the address at which an access of it faulted TRANSLATION while no fault
record was free (R248). -/
structure Collective where
  ctx : Nat
  desc : List Byte
  priority : BitVec 8
  chunk : Nat
  nonfinite : Bool
  failed : Bool
  out : List Byte
  wants : Option Word64
  deriving DecidableEq, Repr

/-- A translation that Wizin made (R336, R340): the key it is reused under, the native base, the portable body that it
translates, its entries and its trap table; `far` are the segment and word of each STAGE that is emitted before two
branches; `stored` says that the translation store holds it, so that later launches reuse it. -/
structure Xlat where
  ctx : Nat
  image : Word64
  serial : Word64
  hash : Word64
  base : Word64
  body : List Byte
  entry : Word64
  front : Word64
  hasFront : Bool
  segs : Nat
  far : List (Nat × Nat)
  ttab : List Word
  errata : List Nat
  stored : Bool
  deriving DecidableEq, Repr

/-- What an attestation signs (R346). -/
structure Quote where
  nonce : BitVec 256
  hash : Word64
  digest : BitVec 256
  devid : BitVec 17
  leaf : Nat
  deriving DecidableEq, Repr

/-- The firmware image in the flash of the I/O die, and the fuses it is held against (R345, R346): its version and digest,
the digest of the HSS public key that it carries, whether its signature verifies under that key, the fused digest of the
key, and the fused minimum of the version. -/
structure Firmware where
  version : Nat
  digest : BitVec 256
  key : BitVec 256
  signed : Bool
  fusedKey : BitVec 256
  fusedVersion : Nat
  deriving DecidableEq, Repr

/-- The attestation unit (R346). -/
structure Attest where
  nonce : BitVec 256
  busy : Bool
  quote : Quote
  done : Bool
  leaf : Nat
  sig : SMap Byte
  deriving DecidableEq, Repr

/-- The management registers that are not kept elsewhere (R349). `window` is the model's own: the physical address at which
a mapped page reaches the registers (log entry 46). -/
structure Mgmt where
  ready : Bool
  bootFailed : Bool
  thermalHalt : Bool
  hot : List Nat
  devid : BitVec 17
  genid : Word64
  ucodeid : Word64
  errata : BitVec 256
  porch : BitVec 4
  ramthresh : BitVec 16
  smin : Word
  rbudget : BitVec 24
  doorbase : Word64
  aperture : Word64
  xstbase : Word64
  xstsize : BitVec 16
  powerlim : BitVec 16
  dietemp : SMap Byte
  cerepeat : Word
  linden : SMap (List Nat)
  celog : Word64
  celogcnt : Word
  infault : Word
  routes : SMap (BitVec 5 × BitVec 8)
  contextMade : Bool
  window : Word64
  deriving DecidableEq, Repr

/-- The next agent to move, when something outside the default order chooses it (log entry 6). -/
inductive Turn where
  /-- A bundle: these threads of the team, all at one PC, in increasing lane order (R285). -/
  | bundle (team : Nat) (threads : List Nat)
  | front (team : Nat)
  | event (i : Instr)
  /-- An uncorrectable or corrected error strikes a scratchpad word, a parity word, or a word of HBM or the loft. -/
  | scratchError (core : Nat) (word : Nat) (parity : Bool) (e : WordErr)
  | memoryError (pa : Nat)
  deriving DecidableEq, Repr

/-- The issue in progress: team, the threads in lane order or the front thread, the instruction word, its length. -/
structure Issue where
  team : Nat
  threads : List Nat
  front : Bool
  word : Word
  len : Nat
  deriving DecidableEq, Repr

/-- The whole machine. -/
structure State where
  clock : Nat
  mem : List Host.Cell
  badMem : List Nat
  mgmt : Mgmt
  attest : Attest
  firmware : Firmware
  ctxs : SMap Context
  cores : SMap Core
  launches : SMap Launch
  nextLaunch : Nat
  teams : SMap Team
  nextTeam : Nat
  sqs : SMap Queue
  cqs : SMap Queue
  lastQueue : Nat
  devQueue : List DevLaunch
  collectives : SMap Collective
  nextCollective : Nat
  xlats : SMap Xlat
  nextXlat : Nat
  tlb : List TlbEntry
  fetched : List Fetched
  stores : List PendStore
  remotes : SMap Remote
  nextRemote : Nat
  nextSeq : Nat
  inbound : SMap Inbound
  ports : SMap Port
  pcieFailed : List Bool
  heldBanks : List (Nat × Nat × Nat)
  fencedCtxs : List Nat
  fencedClusters : List Nat
  recordCount : Word
  msix : List Nat
  doneVectors : List (Nat × Word64 × Nat)
  answers : List (Nat × RemoteAnswer)
  hostReads : List Byte
  hostCompletions : List Bool
  agenda : List Turn
  cur : Option Issue
  picks : Nat
  deriving DecidableEq, Repr

/-! ### Defaults and reset -/

/-- A core as it is after reset: nothing fenced, retired or wrong; four bundles per period. -/
def Core.fresh : Core :=
  { fenced := false, retired := [], repairs := [], parityBad := [], parity := [], queue := [], errs := [], perrs := [],
    recompute := [], asked := [], toRetire := [], corrected := 0, k := 4, turn := [] }

/-- A queue that system software has not configured. -/
def Queue.fresh : Queue := { base := 0, cfg := 0, head := 0, tail := 0, prios := [], wants := none }

/-- A port that is up and not paused. -/
def Port.fresh : Port := { failed := false, paused := false }

/-- A context that does not exist (R345): every register 0 (log entry 4). -/
def Context.fresh : Context :=
  { live := false, privileged := false, vector := 0, pendingFault := false,
    heap := { hb := 0, hl := 0, ho := 0, hkind := 0 }, heldHeap := [], ptbase := 0, heldPtbase := [], frbase := 0,
    killctl := 0, killBusy := false, killDone := false, killLast := 0, killedBy := [], reports := [] }

/-- The management registers at power-on (R349); a register the table gives no default is 0 (log entry 3). -/
def Mgmt.fresh : Mgmt :=
  { ready := false, bootFailed := false, thermalHalt := false, hot := [], devid := 0, genid := 0, ucodeid := 0,
    errata := 0, porch := 4, ramthresh := 32768, smin := 256, rbudget := 0x4000, doorbase := 0, aperture := 0,
    xstbase := 0, xstsize := 0, powerlim := 1500, dietemp := [], cerepeat := 0, linden := [], celog := 0,
    celogcnt := 0, infault := 0, routes := [], contextMade := false, window := 0x400000000000 }

/-- The device right after reset (R345): idle, no context, nothing launched, memory listing nothing; the boot sequence
is the first step. -/
def State.reset : State :=
  { clock := 0, mem := [], badMem := [], mgmt := .fresh,
    attest := { nonce := 0, busy := false, quote := ⟨0, 0, 0, 0, 0⟩, done := false, leaf := 0, sig := [] },
    firmware := { version := 0, digest := 0, key := 0, signed := true, fusedKey := 0, fusedVersion := 0 },
    ctxs := [], cores := [], launches := [], nextLaunch := 0, teams := [], nextTeam := 0, sqs := [], cqs := [],
    lastQueue := 63, devQueue := [], collectives := [], nextCollective := 0, xlats := [], nextXlat := 0, tlb := [],
    fetched := [], stores := [], remotes := [], nextRemote := 0, nextSeq := 0, inbound := [], ports := [], pcieFailed := [false, false],
    heldBanks := [], fencedCtxs := [], fencedClusters := [], recordCount := 0, msix := [], doneVectors := [], answers := [],
    hostReads := [], hostCompletions := [], agenda := [], cur := none, picks := 0 }

end Sys2Proof.Machine
end

