-- ==== Sys2Proof/Machine/Mem.lean ====
section
/-!
DEFINITION. Global memory: bytes, the physical map (R238), translation and the heap triple (R151, R152, R243–R246),
permission checks (R161), the porch and stores on their way (R159, R258, R291), doorbell words (R315), remote requests
(R309), and fault records (R247, R248).
-/

namespace Sys2Proof.Machine

/-- How the performance of one thread's instruction, or of one engine step, can stop short. -/
inductive Stop where
  /-- A precise trap: cause and TADDR (R294). -/
  | trap (cause : BitVec 8) (addr : Word64)
  /-- A precise trap whose saved PC is not that of the instruction (R123, R124). -/
  | trapAt (cause : BitVec 8) (addr tpc : Word64)
  /-- A TRANSLATION fault at an address, with its access bits (R247, R248). -/
  | page (addr : Word64) (access : BitVec 8)
  /-- The same, of a page that an access to `taddr` needs: the trap names that address (R109). -/
  | pageAt (addr : Word64) (access : BitVec 8) (taddr : Word64)
  /-- RECONSTRUCTION (R272): the scratchpad word that cannot be read, and the local address by which it was named. -/
  | lost (place : Local) (addr : Word64)
  /-- The thread waits with nothing done: the instruction is tried again later. -/
  | retry
  /-- The thread waits; the state holds the record of its wait and what was done so far. -/
  | hold (s : State)
  /-- The step is over, with this state, and nothing of the ordinary completion follows. -/
  | done (s : State)
  /-- The state names no such team or thread. -/
  | missing

/-- The performance of one thread's instruction, or of one engine step: all of it or, on a trap, none of it. -/
abbrev M (α : Type) := StateT State (Except Stop) α

/-! ### Causes (R294) -/

def Cause.illegal : BitVec 8 := 0x01
def Cause.unimplemented : BitVec 8 := 0x02
def Cause.illegalRegister : BitVec 8 := 0x03
def Cause.lookahead : BitVec 8 := 0x04
def Cause.nonuniform : BitVec 8 := 0x05
def Cause.memberMask : BitVec 8 := 0x06
def Cause.landing : BitVec 8 := 0x07
def Cause.misalignedPc : BitVec 8 := 0x08
def Cause.misalignedData : BitVec 8 := 0x09
def Cause.translation : BitVec 8 := 0x0A
def Cause.protection : BitVec 8 := 0x0B
def Cause.remoteAccess : BitVec 8 := 0x0C
def Cause.operandFormat : BitVec 8 := 0x0D
def Cause.trailerMismatch : BitVec 8 := 0x0E
def Cause.invariant : BitVec 8 := 0x0F
def Cause.overflowTrap : BitVec 8 := 0x10
def Cause.dependentPredicate : BitVec 8 := 0x11
def Cause.chainRewrite : BitVec 8 := 0x12
def Cause.barrierBroken : BitVec 8 := 0x13
def Cause.barrierMisuse : BitVec 8 := 0x14
def Cause.watchdog : BitVec 8 := 0x15
def Cause.reconstruction : BitVec 8 := 0x16
def Cause.uncorrectable : BitVec 8 := 0x17
def Cause.wingRevoked : BitVec 8 := 0x18
def Cause.streamMisuse : BitVec 8 := 0x19
def Cause.reshardPlan : BitVec 8 := 0x1A
def Cause.userTrap : BitVec 8 := 0x1B
def Cause.tempInvalid : BitVec 8 := 0x1D
def Cause.privileged : BitVec 8 := 0x1E

/-- The causes no handler may receive (R294). -/
def Cause.never (c : BitVec 8) : Bool :=
  c == Cause.watchdog || c == Cause.reconstruction || c == Cause.uncorrectable

def stop {α : Type} (e : Stop) : M α := fun _ => .error e

def trap {α : Type} (cause : BitVec 8) (addr : Word64 := 0) : M α := stop (.trap cause addr)

/-- Trap unless a condition holds. -/
def check (c : Bool) (cause : BitVec 8) (addr : Word64 := 0) : M Unit := if c then pure () else trap cause addr

/-- Wait with nothing done. -/
def hold {α : Type} : M α := stop .retry

/-- Wait, keeping the state as it is now. -/
def holdHere {α : Type} : M α := fun s => .error (.hold s)

/-- End the step here, with the state as it is now. -/
def endHere {α : Type} : M α := fun s => .error (.done s)

/-! ### Bytes -/

/-- The number that bytes hold, lowest address first (R5). -/
def leNat : List Byte → Nat
  | [] => 0
  | b :: bs => b.toNat + 256 * leNat bs

/-- The low `n` bytes of a number, lowest address first (R5). -/
def leBytes : Nat → Nat → List Byte
  | 0, _ => []
  | n + 1, v => BitVec.ofNat 8 v :: leBytes n (v / 256)

/-- What a byte of memory that nothing has written reads as: HBM after power-on is not given by the spec (log entry 1);
the loft and every scratchpad are cleared (R345, R153). -/
def unlisted : Byte := 0#8

def readByte (m : List Host.Cell) (a : Nat) : Byte := SMap.getD m a unlisted

def writeByte (m : List Host.Cell) (a : Nat) (b : Byte) : List Host.Cell := SMap.put m a b unlisted

def readBytes (m : List Host.Cell) (a : Nat) : Nat → List Byte
  | 0 => []
  | n + 1 => readByte m a :: readBytes m (a + 1) n

def writeBytes (m : List Host.Cell) (a : Nat) : List Byte → List Host.Cell
  | [] => m
  | b :: bs => writeBytes (writeByte m a b) (a + 1) bs

/-- The canonical form of a memory: addresses strictly rising, no entry equal to what an unlisted address reads as. -/
def memWf (m : List Host.Cell) : Bool := SMap.canon m unlisted

/-- `n` consecutive slices of a list of bytes. -/
def slice (bs : List Byte) (at_ n : Nat) : List Byte := (bs.drop at_).take n

def fieldN (bs : List Byte) (at_ n : Nat) : Nat := leNat (slice bs at_ n)

/-! ### The physical map (R238, R239) -/

def hbmEnd : Nat := 0x8000000000
def loftBase : Nat := 0x10000000000
def vaultSize : Nat := 0x800000

/-- MiB of porch region in each vault (R239). DESIGN CHOICE (log entry 80): a PORCH value of 9 to 15, which the rule does
not give, acts as 8; it reads back as written. -/
def State.porchMiB (s : State) : Nat := min s.mgmt.porch.toNat 8

/-- A physical byte that an access may reach. -/
def State.physOk (s : State) (pa : Nat) : Bool :=
  decide (pa < hbmEnd) ||
    (decide (loftBase ≤ pa) && decide (pa < loftBase + 48 * vaultSize) &&
      decide ((pa - loftBase) % vaultSize < vaultSize - s.porchMiB * 0x100000))

/-- A physical range wholly within what an access may reach. -/
def State.rangeOk (s : State) (pa n : Nat) : Bool := s.physOk pa && s.physOk (pa + n - 1)

def State.read64 (s : State) (pa : Nat) : Word64 := BitVec.ofNat 64 (leNat (readBytes s.mem pa 8))

/-! ### Contexts and walks -/

def State.ctx (s : State) (c : Nat) : Context := SMap.getD s.ctxs c .fresh

def State.setCtx (s : State) (c : Nat) (x : Context) : State := { s with ctxs := SMap.insert c x s.ctxs }

/-- The outcome of a walk or of a cached translation (R243, R244). -/
inductive Walk where
  | page (entry : Word64) (large : Bool)
  | invalid
  | protection
  deriving DecidableEq, Repr

/-- The five levels: number, lowest VA bit indexed, index bits (R243). -/
def walkLevels : List (Nat × Nat × Nat) := [(4, 48, 9), (3, 39, 9), (2, 30, 9), (1, 22, 8), (0, 16, 6)]

/-- The walk from a table (R243). DESIGN CHOICE (log entry 69): a table entry in an uncorrectable word, for which the
spec gives the walk no outcome, is read as the word's bytes. -/
def walkGo (s : State) (va : Nat) : List (Nat × Nat × Nat) → Nat → Walk
  | [], _ => .protection
  | (l, sh, bits) :: rest, table =>
    if !s.rangeOk table (8 * 2 ^ bits) then .protection
    else
      let e := s.read64 (table + 8 * (va / 2 ^ sh % 2 ^ bits))
      if !e.getLsbD 0 then .invalid
      else if e.getLsbD 1 then (if l = 1 then .page e true else .protection)
      else if l = 0 then .page e false
      else walkGo s va rest ((e.extractLsb' 9 38).toNat * 512)

/-- The walk of an address from a table root, by system-scope loads (R243). -/
def State.walk (s : State) (root : Word64) (va : Nat) : Walk := walkGo s va walkLevels root.toNat

/-- A cached translation of an address (R246). -/
def State.cached (s : State) (c va : Nat) : Option TlbEntry :=
  s.tlb.find? (fun t => t.ctx == c && t.page == (if t.large then va / 2 ^ 22 else va / 2 ^ 16) )

/-- Choose between an old and a new value that the rules both allow (R31): the same value needs no choice. -/
def pick {α : Type} [DecidableEq α] (old new : α) : M α := fun s =>
  if old = new then .ok (new, s)
  else .ok (if Config.pick s.picks then new else old, { s with picks := s.picks + 1 })

/-- Choose among earlier values and the present one (R31). -/
def pickAmong {α : Type} [DecidableEq α] : List α → α → M α
  | [], new => pure new
  | old :: olds, new => do pickAmong olds (← pick old new)

/-- Earlier table roots that may still serve an address (R31, R227). -/
def Context.oldRoots (x : Context) (va : Nat) : List Word64 :=
  (x.heldPtbase.filter fun h => !(h.2.contains (va / 2 ^ 16, false) || h.2.contains (va / 2 ^ 22, true))).map (·.1)

/-- The translation an access uses: a walk under PTBASE, or what a core still holds (R31, R246). -/
def translate (c va : Nat) : M Walk := do
  let s ← get
  let x := s.ctx c
  let root ← pickAmong (x.oldRoots va) x.ptbase
  let fresh := s.walk root va
  match s.cached c va with
  | some t => pick (.page t.entry t.large) fresh
  | none =>
    match fresh with
    | .page e large =>
      modify fun s =>
        { s with tlb := ⟨c, if large then va / 2 ^ 22 else va / 2 ^ 16, large, e⟩ :: s.tlb }
      pure fresh
    | w => pure w

/-- Which permissions an access needs. -/
structure Need where
  r : Bool
  w : Bool
  x : Bool
  deriving DecidableEq, Repr

/-- Where a part of an access goes, with its page's ordering kind (R244). -/
inductive Target where
  | phys (pa : Nat)
  | remote (dev : BitVec 17)
  deriving DecidableEq, Repr

structure Part where
  va : Nat
  len : Nat
  target : Target
  kind : BitVec 2
  deriving DecidableEq, Repr

/-- Bits [63:57] all equal bit 56 (R151). -/
def canonical (va : Nat) : Bool :=
  let v : Word64 := BitVec.ofNat 64 va
  v.extractLsb' 57 7 == (if v.getLsbD 56 then 0x7F#7 else 0#7)

/-- Bytes that the management registers take, and a physical range within them (R349, log entry 46). -/
def registerSpan : Nat := 0xA000
def State.inRegisters (s : State) (pa n : Nat) : Bool :=
  decide (s.mgmt.window.toNat ≤ pa) && decide (pa + n ≤ s.mgmt.window.toNat + registerSpan)

/-- A page entry used for an access: PROTECTION on a missing permission, on kind 3, on a remote page of this device or
fetched from, or on a physical address in no region (R238, R244, R245). A privileged context reaches the management
registers for data (R349). -/
def usePage (s : State) (privileged : Bool) (need : Need) (va len : Nat) (e : Word64) (large : Bool) : Option Part :=
  let kind := e.extractLsb' 5 2
  if (need.r && !e.getLsbD 2) || (need.w && !e.getLsbD 3) || (need.x && !e.getLsbD 4) || kind == 3#2 then none
  else if e.getLsbD 11 then
    let dev := e.extractLsb' 47 17
    if dev == s.mgmt.devid || need.x then none else some ⟨va, len, .remote dev, kind⟩
  else
    let frame := (e.extractLsb' 16 31).toNat * 2 ^ 16
    let pa := if large then frame / 2 ^ 22 * 2 ^ 22 + va % 2 ^ 22 else frame + va % 2 ^ 16
    if s.rangeOk pa len || (privileged && !need.x && s.inRegisters pa len) then some ⟨va, len, .phys pa, kind⟩ else none

/-- Runs of bytes that each stay in one 64 KiB page. -/
def pageRuns : Nat → Nat → Nat → List (Nat × Nat)
  | 0, _, _ => []
  | fuel + 1, va, n =>
    if n = 0 then []
    else
      let k := min n (65536 - va % 65536)
      (va, k) :: pageRuns fuel (va + k) (n - k)

/-- The 64 KiB pages that `n` bytes touch at most. -/
def pagesIn (n : Nat) : Nat := n / 65536 + 2

/-- Translate an access page by page: it splits where a page ends, which for a large page is at 4 MiB (R157, R243). DESIGN
CHOICE (log entry 78): an access whose bytes run past address 2⁶⁴ − 1 goes on at address 0. -/
def walkRuns (c : Nat) : Nat → Nat → Nat → M (List (Nat × Nat × Walk))
  | 0, _, _ => pure []
  | fuel + 1, va, n => do
    if n = 0 then pure []
    else
      let w ← translate c (va % 2 ^ 64)
      let size := match w with
        | .page _ true => 2 ^ 22
        | _ => 2 ^ 16
      let k := min n (size - va % size)
      let ws ← walkRuns c fuel (va + k) (n - k)
      pure ((va % 2 ^ 64, k, w) :: ws)

/-- The parts of a paged access, or its PROTECTION fault: the lower-addressed part first (R161). DESIGN CHOICE (log entry
78): an address in no region (R238), an ordering kind of 3 and a malformed entry (R243, R244) rank with the permission
fault of R161, and so after a TRANSLATION fault of any part. -/
def useParts (s : State) (privileged : Bool) (need : Need) : List (Nat × Nat × Walk) → Except Nat (List Part)
  | [] => .ok []
  | (va, n, w) :: ps =>
    match w with
    | .page e large =>
      match usePage s privileged need va n e large with
      | some p =>
        match useParts s privileged need ps with
        | .ok qs => .ok (p :: qs)
        | .error v => .error v
      | none => .error va
    | _ => .error va

/-- The heap triple in force for an access (R152). -/
def heapOf (c : Nat) : M Heap := do
  let x := (← get).ctx c
  pickAmong x.heldHeap x.heap

/-- CHECK of a global access of `n` bytes in context `c` (R151, R152, R161): its parts, or the first cause it meets, that of
the lower-addressed part first: the heap test comes before the address at which a later part begins. DESIGN
CHOICE (log entry 78): for the heap test the last byte of an access that runs past address 2⁶⁴ − 1 lies above that address.
`access` is the bit a fault record notes (R247). -/
def checkGlobal (c va n : Nat) (need : Need) (access : BitVec 8) : M (List Part) := do
  check (canonical va) Cause.protection (BitVec.ofNat 64 va)
  let h ← heapOf c
  let e := min (h.hb.toNat + h.hl.toNat) (2 ^ 64)
  let s ← get
  if h.hb.toNat ≤ va ∧ va + n ≤ e then
    let pa := (va + h.ho.toNat) % 2 ^ 64
    if need.x || !s.rangeOk pa n then trap Cause.protection (BitVec.ofNat 64 va)
    else pure [⟨va, n, .phys pa, h.hkind.extractLsb' 0 2⟩]
  else if (h.hb.toNat ≤ va ∧ va < e) ∨ (h.hb.toNat ≤ va + n - 1 ∧ va + n - 1 < e) then
    trap Cause.protection (BitVec.ofNat 64 va)
  else
    match (pageRuns (pagesIn n) va n).find? (fun p => !canonical p.1) with
    | some p => trap Cause.protection (BitVec.ofNat 64 p.1)
    | none =>
      let ws ← walkRuns c (pagesIn n) va n
      match ws.find? (fun w => w.2.2 == .invalid) with
      | some w => stop (.page (BitVec.ofNat 64 w.1) access)
      | none =>
        let s ← get
        match useParts s (s.ctx c).privileged need ws with
        | .ok ps => pure ps
        | .error v => trap Cause.protection (BitVec.ofNat 64 v)

/-! ### Teams in the state -/

def State.team? (s : State) (t : Nat) : Option Team := SMap.find? t s.teams

def State.modTeam (s : State) (t : Nat) (f : Team → Team) : State := { s with teams := SMap.modify t f s.teams }

/-- The team as it now is, if it exists. -/
def State.setTeam (s : State) (t : Nat) (T : Team) : State := s.modTeam t fun _ => T

def getTeam (t : Nat) : M Team := fun s =>
  match s.team? t with
  | some T => .ok (T, s)
  | none => .error .missing

def modTeam (t : Nat) (f : Team → Team) : M Unit := modify fun s => s.modTeam t f

/-! ### Stores, the porch and doorbells -/

/-- A write of bytes at `pa` that leaves out some addresses reaches the byte at `a`. -/
def reaches (a pa : Nat) (bytes : List Byte) (holes : List Nat) : Bool :=
  decide (pa ≤ a) && decide (a < pa + bytes.length) && !holes.contains a

/-- One write on top of a byte: the bytes at `pa` if they cover it. -/
def cover (a pa : Nat) (bytes : List Byte) (holes : List Nat) (b : Byte) : Byte :=
  if reaches a pa bytes holes then bytes.getD (a - pa) b else b

/-- The runs of bytes at an address that lie between the addresses left out. -/
def runsBetween (holes : List Nat) : Nat → List Byte → List (Nat × List Byte)
  | _, [] => []
  | a, b :: bs =>
    let rest := runsBetween holes (a + 1) bs
    if holes.contains a then rest
    else
      match rest with
      | (x, r) :: rs => if x = a + 1 then (a, b :: r) :: rs else (a, [b]) :: rest
      | [] => [(a, [b])]

/-- Entries a queue's ring holds: 2^n (R276, R316, R349). -/
def Queue.size (q : Queue) : Nat := 2 ^ (4 + (q.cfg.extractLsb' 12 4).toNat)

def Queue.enabled (q : Queue) : Bool := q.cfg.getLsbD 16

def Queue.ctx (q : Queue) : Nat := (q.cfg.extractLsb' 0 12).toNat

/-- A doorbell value: taken up unless it lies behind the head or more than the ring's size ahead of it (R276). `prio`
is the priority of the store that publishes (R316), and `first` the number of the first entry that it publishes (R321);
entries that the tail comes back over are no longer published. -/
def Queue.ring (q : Queue) (v : Word) (prio : BitVec 8) (first : Nat) : Queue :=
  let ahead := (v - q.head).toNat
  if ahead ≤ q.size then
    { q with tail := v, prios := q.prios.take ahead ++
                          (List.range' first (ahead - (q.tail - q.head).toNat)).map fun n => (n, prio) }
  else q

/-- A write to doorbell word `w` (R315): before ready it is ignored (R345), words 80 to 127 are reserved. -/
def State.doorbell (s : State) (w : Nat) (v : Word) (prio : BitVec 8) : State :=
  if !s.mgmt.ready then s
  else if w < 64 then { s with sqs := SMap.insert w ((SMap.getD s.sqs w .fresh).ring v prio 0) s.sqs }
  else if w < 80 then
    let q := (SMap.getD s.cqs (w - 64) .fresh).ring v prio s.nextCollective
    { s with cqs := SMap.insert (w - 64) q s.cqs, nextCollective := s.nextCollective + (q.tail - q.head).toNat }
  else s

/-- The doorbell words that a write of `n` bytes at a physical address reaches (R315). -/
def State.doorbellWords (s : State) (pa n : Nat) : List Nat :=
  let b := s.mgmt.doorbase.toNat
  if s.mgmt.ready ∧ pa < b + 1024 ∧ b < pa + n then
    (List.range 128).filter fun w => decide (pa < b + 8 * w + 8) && decide (b + 8 * w < pa + n)
  else []

/-- Who a thread of a team is to the ordering of its stores (R126, R254). -/
def Team.origin (T : Team) (who : Who) : Origin :=
  let beat := match who with
    | .thread t => (SMap.find? (t / T.width) T.groups).bind (·.beat)
    | .front => none
  { who := who, beat := beat, op := none }

/-- Bytes at an address as the pieces that each lie in one naturally aligned block of `unit` bytes. -/
def pieces (unit : Nat) : Nat → Nat → List Byte → List (Nat × List Byte)
  | 0, _, _ => []
  | fuel + 1, a, bs =>
    if bs.isEmpty then []
    else
      let n := unit - a % unit
      (a, bs.take n) :: pieces unit fuel (a + n) (bs.drop n)

/-- A store of a team on its way. -/
def Team.store (T : Team) (t pa : Nat) (bytes : List Byte) (tag : StoreTag) : PendStore :=
  { team := t, launch := T.launch, core := T.core, ctx := T.ctx, pa := pa, bytes := bytes, tag := tag, sealed := false,
    commit := false }

/-- A write as what is performed whole: aligned eight bytes of a thread's store, an aligned word of an engine's, by its
virtual address (R157, R178). -/
def Team.stores (T : Team) (t pa : Nat) (bytes : List Byte) (tag : StoreTag) : List PendStore :=
  (pieces (if tag.origin.op.isSome then 4 else 8) (bytes.length + 1) tag.skew bytes).map fun p =>
    T.store t (pa + (p.1 - tag.skew)) p.2 tag

/-- Commit a team's porch: its entries go on their way in order, and the team is irrevocable (R258, R302). -/
def State.commitPorch (s : State) (t : Nat) : State :=
  match s.team? t with
  | some T =>
    if T.revocable then
      let ws := T.porch.flatMap fun e =>
        (T.stores t e.pa e.bytes e.tag).map fun w => { w with sealed := e.sealed, commit := true }
      { s with stores := s.stores ++ ws }.setTeam t { T with revocable := false, porchSlot := none, porch := [] }
    else s
  | none => s

def commitPorch (t : Nat) : M Unit := modify fun s => s.commitPorch t

/-- Stores of a commit that have not been performed. -/
def State.committing (s : State) (t : Nat) : Bool := s.stores.any fun w => w.team == t && w.commit

/-- Before an access that the commit precedes: the porch commits, and the access waits until the commit has been
performed (R258). -/
def commitFirst (t : Nat) : M Unit := do
  let T ← getTeam t
  if T.revocable then
    commitPorch t
    holdHere
  else if (← get).committing t then holdHere
  else pure ()

/-- Later stores of the team are ordered after every store it has issued (R255, R256). -/
def State.seal (s : State) (t : Nat) : State :=
  { s with stores := s.stores.map fun w => if w.team == t then { w with sealed := true } else w }

/-- Every store of an engine operation of the team stands before what follows its completion (R259). -/
def State.sealOp (s : State) (t op : Nat) : State :=
  let s := s.modTeam t fun T =>
    { T with porch := T.porch.map fun e => if e.tag.origin.op = some op then { e with sealed := true } else e }
  { s with stores := s.stores.map fun w =>
      if w.team == t && w.tag.origin.op == some op then { w with sealed := true } else w }

/-- Of two stores of a team the later, `w`, follows the earlier, `o`, by what their page kinds say of one thread's stores,
or because the thread made `o` before it issued the engine operation that makes `w` (R254, R259). -/
def StoreTag.after (w o : StoreTag) : Bool :=
  let same := w.origin.who == o.origin.who && w.origin.beat == o.origin.beat && o.origin.op.isNone && o.seq != w.seq
  match w.origin.op with
  | none => same && (w.kind == 0 || (w.kind == 1 && o.kind == 1))
  | some n => same && decide (o.seq < n)

/-- Store `w` may be performed before the older store `o` of its team (R253–R256): their bytes are apart, no release
stands between them, and nothing else orders them. -/
def PendStore.mayPass (w o : PendStore) : Bool :=
  (decide (w.pa + w.bytes.length ≤ o.pa) || decide (o.pa + o.bytes.length ≤ w.pa)) && !o.sealed && !w.tag.after o.tag

/-- A team-mate may have read, in the porch, a store that follows `o` by what its own thread made: nothing that others of the
team store may be seen before `o` (R253, R254). -/
def State.shown (s : State) (o : PendStore) : Bool :=
  s.stores.any fun y => y.team == o.team && y.commit && decide (o.tag.seq < y.tag.seq) && y.tag.after o.tag

/-- The same of two stores of a team among all those on their way (R254). -/
def State.mayPass (s : State) (w o : PendStore) : Bool :=
  w.mayPass o && (w.tag.origin == o.tag.origin || !s.shown o)

/-- Another of the team has made a store on its way to `n` bytes at `pa` and, before it, one that is ordered before it and not
performed: nobody else reads the later one as yet (R252, R254). -/
def State.readsAhead (s : State) (t : Nat) (o : Origin) (pa n : Nat) : Bool :=
  s.stores.any fun y => y.team == t && !y.commit && y.tag.origin != o &&
    decide (y.pa < pa + n) && decide (pa < y.pa + y.bytes.length) &&
    s.stores.any fun x => x.team == t && decide (x.tag.seq < y.tag.seq) && (x.sealed || y.tag.after x.tag)

/-- One part of a store of team `t`, at a virtual address and in physical memory: into the porch of a revocable team, else on its way (R159,
R258). When no entry is free the porch commits before it. -/
def State.storePart (s : State) (t : Nat) (o : Origin) (va pa : Nat) (kind : BitVec 2) (bytes : List Byte)
    (holes : List Nat := []) : State :=
  match s.team? t with
  | some T =>
    let tag : StoreTag :=
      { origin := o, seq := s.nextSeq, kind := kind, bprio := T.bprio, skew := va % 8, holes := holes }
    let s : State := { s with nextSeq := s.nextSeq + 1 }
    if T.revocable && decide (T.porch.length < 2048) then
      s.setTeam t { T with porch := T.porch ++ [⟨pa, bytes, tag, false⟩] }
    else
      let s := if T.revocable then (s.commitPorch t).seal t else s
      { s with stores := s.stores ++ T.stores t pa bytes tag }
  | none => s

/-! ### Remote requests -/

/-- The port toward a device (R308, R349). -/
def State.route? (s : State) (dev : BitVec 17) : Option (BitVec 5 × BitVec 8) := SMap.find? dev.toNat s.mgmt.routes

/-- The port that a request to a device leaves by; 18 is none, where no route remains (R308). -/
def State.portTo (s : State) (dev : BitVec 17) : Nat :=
  match s.route? dev with
  | some r => if (SMap.getD s.ports r.1.toNat .fresh).failed then 18 else r.1.toNat
  | none => 18

/-- A port takes a request at once unless it is paused or there is no route (R308, R311). -/
def State.portOpen (s : State) (p : Nat) : Bool := decide (p < 18) && !(SMap.getD s.ports p .fresh).paused

/-- The device's default budget, 0 read as 1 (R310, R349). -/
def State.defaultBudget (s : State) : BitVec 24 := if s.mgmt.rbudget = 0 then 1 else s.mgmt.rbudget

/-- Put a request on its way (R309, R310). -/
def State.request (s : State) (ctx team agent launch core : Nat) (o : Origin) (dev : BitVec 17) (addr : Word64)
    (op : RemoteOp) : State :=
  let port := s.portTo dev
  let r : Remote :=
    { ctx := ctx, team := team, agent := agent, launch := launch, core := core, origin := o, seq := s.nextSeq, dev := dev,
      port := port, addr := addr, op := op, budget := s.defaultBudget, sent := s.portOpen port, since := s.clock }
  { s with remotes := SMap.insert s.nextRemote r s.remotes, nextRemote := s.nextRemote + 1, nextSeq := s.nextSeq + 1 }

/-- Issue a remote request of an agent of a team, whose porch has committed (R258, R309). -/
def remoteAs (agent t : Nat) (o : Origin) (dev : BitVec 17) (addr : Nat) (op : RemoteOp) : M Nat := do
  let T ← getTeam t
  let s ← get
  set (s.request T.ctx t agent T.launch T.core o dev (BitVec.ofNat 64 addr) op)
  pure s.nextRemote

def RemoteOp.writes : RemoteOp → Bool
  | .load _ => false
  | _ => true

/-- The ordering kind that a remote request finds at its target (R312, log entry 9). -/
def Remote.kind (r : Remote) : BitVec 2 := Config.targetKind r.dev.toNat r.ctx (r.addr.toNat / 65536)

/-- A store that a thread, or an engine for it, has issued, of those a test picks, is not performed. -/
def State.storeOf (s : State) (t : Nat) (o : Origin) (p : StoreTag → Bool) : Bool :=
  s.stores.any fun w => w.team == t && w.tag.origin == o && p w.tag

/-- A remote store or atomic of a thread, of those a test picks, is not answered. -/
def State.remoteOf (s : State) (t : Nat) (o : Origin) (p : Remote → Bool) : Bool :=
  s.remotes.any fun e => e.2.agent == 0 && e.2.team == t && e.2.origin == o && e.2.op.writes && p e.2

/-- What a thread issued before the engine operation that acts for it. -/
def Origin.forked (o x : Origin) (seq : Nat) : Bool :=
  x.who == o.who && x.beat == o.beat && x.op.isNone && o.op.any fun n => decide (seq < n)

/-- A store, or remote request, that the issuing thread made before an engine operation is not performed (R259). -/
def State.forkPending (s : State) (t : Nat) (o : Origin) : Bool :=
  (s.stores.any fun w => w.team == t && o.forked w.tag.origin w.tag.seq) ||
    s.remotes.any fun e => e.2.team == t && e.2.agent == 0 && e.2.op.writes && o.forked e.2.origin e.2.seq

/-- The code of a port that a thread pushes to. -/
def isOutPort (c : BitVec 8) : Bool := c.toNat == 222 || c.toNat == 223

/-- A pending result is an element that is still to be pushed onto a ring (R180). -/
def Pending.owed (p : Pending) : Bool := p.dest.any isOutPort && p.value != .ready []

/-- An instruction that the thread has issued has still to push its element. The push is a local store, so an RC store of the
thread (R180, R252). -/
def State.pushPending (s : State) (t : Nat) (who : Who) : Bool :=
  match who, s.team? t with
  | .thread k, some T => (SMap.find? k T.threads).any fun h => h.pend.any Pending.owed
  | _, _ => false

/-- An RC store of a thread in global memory is not performed, or one that a team-mate may have seen what follows of. -/
def State.rcStoring (s : State) (t : Nat) (o : Origin) : Bool :=
  s.storeOf t o (fun w => w.kind == 1) || s.remoteOf t o (fun r => r.kind == 1) ||
    s.stores.any fun x => x.team == t && s.shown x

/-- An RC store that a thread has made is not performed, so that its later local stores, which are RC, wait (R252, R254). -/
def State.rcPending (s : State) (t : Nat) (o : Origin) : Bool := s.rcStoring t o || s.pushPending t o.who

/-- Before a local store of a thread: its earlier RC stores are performed (R252, R254). -/
def rcFirst (t : Nat) (o : Origin) : M Unit := do
  if (← get).rcPending t o then holdHere else pure ()

/-- Before a release of a thread: its own elements are pushed (R180, R255). -/
def pushFirst (t : Nat) (who : Who) : M Unit := do
  if (← get).pushPending t who then holdHere else pure ()

/-- Before a read by others than its maker: what its maker stored before a store on its way to these bytes is performed
(R254). -/
def readFirst (t : Nat) (o : Origin) (ps : List Part) : M Unit := do
  let s ← get
  let ahead (p : Part) : Bool := match p.target with
    | .phys pa => s.readsAhead t o pa p.len
    | .remote _ => false
  if ps.any ahead then hold else pure ()

/-- A store of an engine operation is not performed (R259). -/
def State.opPending (s : State) (t : Nat) (o : Origin) : Bool :=
  o.op.isSome && s.stores.any fun w => w.team == t && w.tag.origin.op == o.op

/-- The team has global stores that have issued and are not performed. -/
def State.storesPending (s : State) (t : Nat) : Bool := s.stores.any (fun w => w.team == t)

/-- The team has remote stores or atomics that are not answered. -/
def State.remotesPending (s : State) (t : Nat) : Bool :=
  s.remotes.any (fun e => e.2.agent == 0 && e.2.team == t && e.2.op.writes)

/-- Wait, with the porch committed, until every store and atomic of the team has been performed or refused (R166, R255,
R258). -/
def drain (t : Nat) : M Unit := do
  commitPorch t
  let s ← get
  if s.storesPending t || s.remotesPending t then holdHere else pure ()

/-! ### Fault records (R247, R248, R301) -/

/-- The address of fault record `i` of a context. DESIGN CHOICE (log entry 89): with an FRBASE that is not aligned to 4 KiB, or
not in HBM, the records lie there all the same (R247). -/
def State.recordAt (s : State) (c i : Nat) : Nat := (s.ctx c).frbase.toNat + 64 * i

def State.recordState (s : State) (c i : Nat) : Nat := (readByte s.mem (s.recordAt c i + 16)).toNat

/-- Something sleeps on fault record `i` of a context: until it has been woken the record is not taken again (R248). -/
def State.sleeperOn (s : State) (c i : Nat) : Bool :=
  let on (w : Option Wait) : Bool := match w with
    | some (.record j _) => j == i
    | some (.ahead _ _ _ j _) => j == some i
    | _ => false
  s.teams.any fun (e : Nat × Team) => e.2.ctx == c && (e.2.threads.any (fun (h : Nat × Thread) => on h.2.wait) ||
    e.2.front.any (fun f => on f.wait) || e.2.copies.any (fun (C : Nat × Copy) => C.2.sleep == some (.on i)) ||
    e.2.mx.queue.any (fun m => m.sleep == some (.on i)))

/-- The lowest-numbered record of a context that is free. -/
def State.freeRecord (s : State) (c : Nat) : Option Nat :=
  (List.range 64).find? fun i => s.recordState c i == 0 && !s.sleeperOn c i

/-- The lowest-numbered record of a context that a test holds of. -/
def State.findRecord (s : State) (c : Nat) (p : Nat → Bool) : Option Nat :=
  (List.range 64).find? (fun i => p (s.recordAt c i))

/-- The context's fault interrupt, and its fault-pending bit (R314). -/
def State.faultInterrupt (s : State) (c : Nat) : State :=
  let x := s.ctx c
  { s.setCtx c { x with pendingFault := true } with msix := s.msix ++ [x.vector.toNat] }

/-- Write a free record whole, its state last, and send the interrupt (R248, R301, R314). -/
def State.takeRecord (s : State) (c i : Nat) (addr bitmap : Nat) (type : Nat) (access : BitVec 8) (detail : List Byte) :
    State :=
  let a := s.recordAt c i
  let bytes := leBytes 8 addr ++ leBytes 8 bitmap ++ [1, BitVec.ofNat 8 type, access, 0]
    ++ leBytes 4 s.recordCount.toNat ++ (detail ++ List.replicate (40 - detail.length) 0#8)
  { s with mem := writeBytes s.mem a bytes, recordCount := s.recordCount + 1 }.faultInterrupt c

/-- RECORD of a TRANSLATION fault (R248): the record it went to, or `none` when no record is free. -/
def State.recordFault (s : State) (c : Nat) (va : Word64) (access : BitVec 8) : Option (State × Nat) :=
  let block := va.toNat / 2 ^ 22 * 2 ^ 22
  let j := va.toNat / 2 ^ 16 % 64
  match s.findRecord c (fun a => leNat (readBytes s.mem a 8) == block && readByte s.mem (a + 16) == 1#8
      && readByte s.mem (a + 17) == 1#8) with
  | some i =>
    let a := s.recordAt c i
    let bm := leNat (readBytes s.mem (a + 8) 8) ||| 2 ^ j
    let m := writeBytes s.mem (a + 8) (leBytes 8 bm)
    some ({ s with mem := writeByte m (a + 18) (readByte m (a + 18) ||| access) }, i)
  | none =>
    match s.freeRecord c with
    | some i => some (s.takeRecord c i block (2 ^ j) 1 access [], i)
    | none => none

/-- Access bits of a type 1 record (R247). -/
def accLoad : BitVec 8 := 0x01
def accStore : BitVec 8 := 0x02
def accAtomic : BitVec 8 := 0x04
def accFetch : BitVec 8 := 0x08
def accEngine : BitVec 8 := 0x10

/-- Queue a record of type 2 to 6; FAULT_RECORD_TAKE writes it once a record is free (R301). -/
def State.report (s : State) (c : Nat) (r : Report) : State :=
  let x := s.ctx c
  s.setCtx c { x with reports := x.reports ++ [r] }

end Sys2Proof.Machine
end

