-- ==== Sys2Proof/Machine/Hash.lean ====
section
/-!
DEFINITION. The device hash (R333): SHA-256 over 48 bytes, which with its padding is one block of sixteen words. The
function's constants are computed from their definition, the fractions of roots of the first primes.
-/

namespace Sys2Proof.Machine

/-- The first primes, up to 311: sixty-four of them. -/
def firstPrimes : List Nat :=
  (List.range 312).filter fun n => decide (2 ≤ n) && (List.range 18).all fun d => decide (d < 2) || d == n || n % d != 0

/-- The largest number of `b` bits above `r` whose k-th power is at most `n`. -/
def rootGo (k n : Nat) : Nat → Nat → Nat
  | 0, r => r
  | b + 1, r => rootGo k n b (if (r + 2 ^ b) ^ k ≤ n then r + 2 ^ b else r)

/-- The first 32 bits of the fraction of the k-th root of a prime below 312. -/
def rootFraction (k p : Nat) : Word := BitVec.ofNat 32 (rootGo k (p * 2 ^ (32 * k)) 35 0)

/-- A hash in progress: the last four words of each of the two sequences that the rounds extend, the newest first. -/
structure Digest where
  as : List Word
  es : List Word
  deriving DecidableEq, Repr

/-- What every hash starts from: the roots of the first eight primes. -/
def Digest.start : Digest :=
  let w := firstPrimes.map (rootFraction 2)
  ⟨w.take 4, (w.drop 4).take 4⟩

/-- Three rotations of a word, added bit by bit. -/
def rot3 (x : Word) (i j k : Nat) : Word := x.rotateRight i ^^^ x.rotateRight j ^^^ x.rotateRight k

/-- Two rotations and a shift of a word, added bit by bit. -/
def rot2Shift (x : Word) (i j k : Nat) : Word := x.rotateRight i ^^^ x.rotateRight j ^^^ (x >>> k)

/-- Word n of a sequence. -/
def nthWord (l : List Word) (n : Nat) : Word := l.getD n 0

/-- One round with its constant and its word of the schedule: both sequences take a new word. -/
def Digest.round (v : Digest) (k w : Word) : Digest :=
  let a := nthWord v.as
  let e := nthWord v.es
  let chosen := e 2 ^^^ (e 0 &&& (e 1 ^^^ e 2))
  let most := (a 0 &&& a 1) ||| (a 2 &&& (a 0 ||| a 1))
  let mixed := e 3 + rot3 (e 0) 6 11 25 + chosen + k + w
  ⟨(mixed + rot3 (a 0) 2 13 22 + most) :: v.as.take 3, (a 3 + mixed) :: v.es.take 3⟩

/-- The words of the schedule, the newest first: each after the sixteenth comes from the sixteen before it. -/
def extend : Nat → List Word → List Word
  | 0, ws => ws
  | n + 1, ws =>
    let w := nthWord ws
    extend n ((w 15 + rot2Shift (w 14) 7 18 3 + w 6 + rot2Shift (w 1) 17 19 10) :: ws)

/-- Big-endian words of bytes. -/
def beWords : List Byte → List Word
  | a :: b :: c :: d :: r => (a ++ b ++ c ++ d) :: beWords r
  | _ => []

/-- The first two words of SHA-256 over 48 bytes. -/
def sha48 (bs : List Byte) : Word × Word :=
  let block := beWords (bs ++ [0x80] ++ List.replicate 13 0 ++ [0x01, 0x80])
  let ws := (extend 48 block.reverse).reverse
  let v := ((firstPrimes.map (rootFraction 3)).zip ws).foldl (fun v kw => v.round kw.1 kw.2) Digest.start
  (nthWord v.as 0 + nthWord Digest.start.as 0, nthWord v.as 1 + nthWord Digest.start.as 1)

def beBytes4 (w : Word) : List Byte := (leBytes 4 w.toNat).reverse

/-- The device hash of a generation, a microcode set and an errata bitmap (R333). -/
def hashOf (genid ucodeid : Word64) (errata : BitVec 256) : Word64 :=
  let h := sha48 (leBytes 8 genid.toNat ++ leBytes 8 ucodeid.toNat ++ leBytes 32 errata.toNat)
  BitVec.ofNat 64 (leNat (beBytes4 h.1 ++ beBytes4 h.2))

def State.deviceHash (s : State) : Word64 := hashOf s.mgmt.genid s.mgmt.ucodeid s.mgmt.errata

end Sys2Proof.Machine
end

