-- ==== Sys2Proof/Machine/Scratch.lean ====
section
/-!
DEFINITION. Local addresses (R153) and the parity scratchpad (R261–R273). Data words, parity words and queued updates are
held as values, with what the check code of a wrong word says; a row is stale while an update for it is queued.
-/

namespace Sys2Proof.Machine

def State.core (s : State) (c : Nat) : Core := SMap.getD s.cores c .fresh

def State.setCore (s : State) (c : Nat) (x : Core) : State := { s with cores := SMap.insert c x s.cores }

/-! ### Parity groups (R261) -/

/-- Data bank, parity group and row of physical scratchpad word `w` (address 4 w). -/
def bankOf (w : Nat) : Nat := w % 32
def parityGroupOf (w : Nat) : Nat := w / 4 % 8
def rowOf (w : Nat) : Nat := w / 32
/-- The other three data words of a word's row and group. -/
def rowMates (w : Nat) : List Nat := [w / 4 * 4, w / 4 * 4 + 1, w / 4 * 4 + 2, w / 4 * 4 + 3].filter (fun v => v != w)
def parityKey (w : Nat) : Nat := 8 * rowOf w + parityGroupOf w

/-- A word whose check code reads as uncorrectable. -/
def badErr : Option WordErr → Bool
  | some .double => true
  | some .poison => true
  | _ => false

namespace Core

def dataBad (c : Core) (w : Nat) : Bool := badErr (SMap.find? w c.errs)
def parityWrong (c : Core) (w : Nat) : Bool := badErr (SMap.find? (parityKey w) c.perrs)
/-- A row of a group is stale while an update for it is queued (R265). -/
def stale (c : Core) (w : Nat) : Bool := c.queue.any fun u => u.1 == parityGroupOf w && u.2.1 == rowOf w
/-- The bank retired in a word's group, if it is degraded (R270). -/
def retiredBank? (c : Core) (w : Nat) : Option Nat := SMap.find? (parityGroupOf w) c.retired

/-- Reconstruction from the row gives the word (R263, R267, R268). -/
def rebuilds (c : Core) (w : Nat) : Bool :=
  !c.stale w && !(rowMates w).any c.dataBad && !c.parityWrong w

/-- A read of the word receives its value (R267, R268, R270): directly, corrected, repaired, or rebuilt. -/
def readable (c : Core) (w : Nat) : Bool :=
  match c.retiredBank? w with
  | some b => if b = bankOf w then !(rowMates w).any c.dataBad && !c.parityWrong w else !c.dataBad w
  | none => !c.dataBad w || c.rebuilds w

/-- Ask for a bank's retirement, once; the core holds the group's accesses from the end of the step on (R270). -/
def askRetire (c : Core) (b : Nat) : Core :=
  if c.asked.contains b || c.toRetire.contains b || SMap.find? (b / 4) c.retired == some b then c
  else { c with asked := c.asked ++ [b] }

/-- The banks asked for begin to be retired. -/
def hold (c : Core) : Core := { c with toRetire := c.toRetire ++ c.asked, asked := [] }

/-- A second bank of a degraded group has failed (R271). -/
def failsAgain (c : Core) : Bool := c.toRetire.any fun b => (SMap.find? (b / 4) c.retired).any (· != b)

/-- A data word is read directly: a single-bit error in it is corrected, written back and counted (R267). -/
def fixWord (c : Core) (w : Nat) : Core :=
  match SMap.find? w c.errs with
  | some .single => { c with errs := SMap.erase w c.errs, corrected := c.corrected + 1 }
  | _ => c

/-- The same for a parity word that a reconstruction, a store or an update reads (R267). -/
def fixParity (c : Core) (key : Nat) : Core :=
  match SMap.find? key c.perrs with
  | some .single => { c with perrs := SMap.erase key c.perrs, corrected := c.corrected + 1 }
  | _ => c

/-- An occasion on which an uncorrectable parity word, be it a poisoned one, is found (R271). -/
def foundParity (c : Core) (key : Nat) : Core :=
  if badErr (SMap.find? key c.perrs) then
    { c with parityBad := SMap.insert (key % 8) (SMap.getD c.parityBad (key % 8) 0 + 1) c.parityBad }
  else c

/-- The parity word of a key, and the word with an update added (R261, R265). -/
def parityWord (c : Core) (key : Nat) : Word := SMap.getD c.parity key 0
def addParity (c : Core) (key : Nat) (u : Word) : Core :=
  { c with parity := SMap.put c.parity key (c.parityWord key ^^^ u) 0 }

/-- A parity bank in which an uncorrectable word was found for the fourth time (R271). -/
def parityFailed (c : Core) : Bool := c.parityBad.any fun (e : Nat × Nat) => decide (4 ≤ e.2)

/-- A reconstruction of `w` reads the other three data words and the parity word (R263, R267). -/
def fixRow (c : Core) (w : Nat) : Core := (rowMates w).foldl fixWord (c.fixParity (parityKey w))

/-- An uncorrectable word is repaired and written back; the repair counts against its bank, and the fourth retires it
(R267, R270). -/
def repaired (c : Core) (w : Nat) : Core :=
  let c := c.fixRow w
  let n := SMap.getD c.repairs (bankOf w) 0 + 1
  let c : Core :=
    { c with errs := SMap.erase w c.errs, repairs := SMap.insert (bankOf w) n c.repairs, corrected := c.corrected + 1 }
  if n = 4 then c.askRetire (bankOf w) else c

/-- The core after a read of a word that can be served: directly, repaired, or rebuilt for the retired bank (R267,
R270). -/
def served (c : Core) (w : Nat) : Core :=
  match c.retiredBank? w with
  | some b => if b = bankOf w then c.fixRow w else c.fixWord w
  | none => if c.dataBad w then c.repaired w else c.fixWord w

/-- The four data words of a parity word. -/
def rowWords (key : Nat) : List Nat := [4 * key, 4 * key + 1, 4 * key + 2, 4 * key + 3]

/-- A parity word is formed anew from its row when all four data words are correctable, else it is poisoned (R268,
R269). -/
def reform (c : Core) (key : Nat) : Core :=
  let c : Core := { c with recompute := c.recompute.filter (· != key) }
  if (rowWords key).any c.dataBad then { c with perrs := SMap.insert key .poison c.perrs }
  else { c with perrs := SMap.erase key c.perrs }

/-- The oldest queued update lands: parity := parity XOR update (R265). A parity word found uncorrectable then counts
(R271); with its row no longer stale it is recomputed (R268), as is one whose old value no store could use (R269), and
with its row still stale it is poisoned. -/
def land (c : Core) : Core :=
  match c.queue with
  | [] => c
  | (g, row, u) :: q =>
    let key := 8 * row + g
    let c := (({ c with queue := q } : Core).fixParity key).addParity key u
    let found := badErr (SMap.find? key c.perrs)
    let c := c.foundParity key
    if c.stale (4 * key) then (if found then { c with perrs := SMap.insert key .poison c.perrs } else c)
    else if found || c.recompute.contains key then c.reform key
    else c

/-- Queue a parity update: a full queue lands its oldest first, which is a wait and so only time (R265). -/
def queueUpdate (c : Core) (w : Nat) (u : Word) : Core :=
  let c := if c.queue.length < 32 then c else c.land
  { c with queue := c.queue ++ [(parityGroupOf w, rowOf w, u)] }

/-- A store to word `w` in a degraded group whose bank `b` is retired, which changes it by `u` (R270): the parity word
changes in the same access; an uncorrectable word that the store needs poisons it, and one of another data bank than the
retired is the group's second failure (R271). -/
def storedDegraded (c : Core) (w b : Nat) (whole : Bool) (u : Word) : Core :=
  let key := parityKey w
  let needed := if b = bankOf w then rowMates w else [w]
  if needed.any c.dataBad || c.parityWrong w then
    let c := (needed.filter c.dataBad).foldl (fun c v => c.askRetire (bankOf v)) (c.foundParity key)
    let c := if whole && b != bankOf w then { c with errs := SMap.erase w c.errs } else c
    ({ c with perrs := SMap.insert key .poison c.perrs } : Core).addParity key u
  else (needed.foldl fixWord (c.fixParity key)).addParity key u

/-- A store to word `w` whose old value can be neither read nor repaired queues no update (R269): a whole word has its
row's parity formed anew once the row is no longer stale, and a part of a word poisons both. -/
def storedBlind (c : Core) (w : Nat) (whole : Bool) (u : Word) : Core :=
  let key := parityKey w
  let c := (if c.stale w then c else c.foundParity key).addParity key u
  if whole then
    let c : Core := { c with errs := SMap.erase w c.errs }
    if c.stale w then { c with recompute := key :: c.recompute.filter (· != key) } else c.reform key
  else { c with errs := SMap.insert w .poison c.errs, perrs := SMap.insert key .poison c.perrs }

/-- The core after a store to word `w` that changes it by `u`; `whole` says that all four bytes are written. The old value
is read, corrected or repaired under R267 (R265, R266, R269, R270). -/
def stored (c : Core) (w : Nat) (whole : Bool) (u : Word) : Core :=
  match c.retiredBank? w with
  | some b => c.storedDegraded w b whole u
  | none =>
    if !c.dataBad w then (c.fixWord w).queueUpdate w u
    else if c.rebuilds w then (c.repaired w).queueUpdate w u
    else c.storedBlind w whole u

/-- A team's scratchpad is put at a base: every word of it is written, with fresh codes, and the parity words are those of
its contents. -/
def fill (c : Core) (base size : Nat) (sp : List Host.Cell) : Core :=
  let mine (key : Nat) : Bool := decide (base / 16 ≤ key) && decide (16 * key < base + size)
  let c : Core :=
    { c with parity := c.parity.filter (fun (e : Nat × Word) => !mine e.1),
             queue := c.queue.filter (fun u => !mine (8 * u.2.1 + u.1)),
             errs := c.errs.filter (fun (e : Nat × WordErr) => !mine (e.1 / 4)),
             perrs := c.perrs.filter (fun (e : Nat × WordErr) => !mine e.1),
             recompute := c.recompute.filter fun k => !mine k }
  sp.foldl (fun c (x : Host.Cell) =>
    let p := base + x.1
    c.addParity (p / 16) (BitVec.ofNat 32 (x.2.toNat * 256 ^ (p % 4)))) c

end Core

/-- The words that `n` bytes from physical scratchpad address `p` touch. -/
def wordsOf (p n : Nat) : List Nat :=
  if n = 0 then [] else (List.range ((p + n - 1) / 4 - p / 4 + 1)).map (fun i => p / 4 + i)

/-! ### Resolving a local address (R153) -/

def winBase : Nat := 0x1000000

/-- A local access of `n` bytes at `x`: its place, or its cause (R153, R161). -/
def State.local? (s : State) (t : Nat) (x n : Nat) : Except (BitVec 8) Local :=
  match s.team? t with
  | none => .error Cause.protection
  | some T =>
    if x < winBase then (if x + n ≤ T.size then .ok ⟨t, x, false⟩ else .error Cause.protection)
    else if x < 0x1400000 then
      let o := (x - winBase) % 0x40000
      match SMap.find? ((x - winBase) / 0x40000) T.windows with
      | none => .error Cause.protection
      | some .revoked => .error Cause.wingRevoked
      | some (.mapped p) =>
        match s.team? p with
        | some P => if o + n ≤ P.size then .ok ⟨p, o, true⟩ else .error Cause.protection
        | none => .error Cause.wingRevoked
    else .error Cause.protection

/-- CHECK of a local access; an access to a peer that is not resident waits (R184). -/
def resolveLocal (t : Nat) (x n : Nat) : M Local := do
  let s ← get
  match s.local? t x n with
  | .error c => trap c (BitVec.ofNat 64 x)
  | .ok l =>
    if l.window then
      match s.team? l.team with
      | some P => if P.status = .resident ∨ P.status = .resting then pure l else hold
      | none => hold
    else pure l

/-- The first word of a local access that no read can serve. -/
def State.unreadable? (s : State) (l : Local) (n : Nat) : Option Nat :=
  match s.team? l.team with
  | some P => (wordsOf (P.base + l.off) n).find? (fun w => !(s.core P.core).readable w)
  | none => none

/-- The words of `n` bytes at a resolved local address, all readable, are read (R267). -/
def State.serveLocal (s : State) (l : Local) (n : Nat) : State :=
  match s.team? l.team with
  | some P =>
    let c := s.core P.core
    if c.errs.isEmpty && c.perrs.isEmpty then s
    else s.setCore P.core ((wordsOf (P.base + l.off) n).foldl Core.served c)
  | none => s

/-- The core holds an access of `n` bytes at a local address: a bank of a group that it touches is asked to retire (R270),
or the core is fenced (R271). -/
def State.localHeld (s : State) (l : Local) (n : Nat) : Bool :=
  match s.team? l.team with
  | some P =>
    let c := s.core P.core
    c.fenced || ((wordsOf (P.base + l.off) n).any fun w =>
      (c.retiredBank? w).isNone && c.toRetire.any fun b => b / 4 == parityGroupOf w)
  | none => false

/-- Wait until the core admits the access. -/
def admitLocal (l : Local) (n : Nat) : M Unit := do
  if (← get).localHeld l n then hold else pure ()

/-- Read `n` bytes at a resolved local address named `x`; RECONSTRUCTION names the failing word (R272). -/
def readLocal (l : Local) (x n : Nat) : M (List Byte) := do
  admitLocal l n
  let P ← getTeam l.team
  let s ← get
  match s.unreadable? l n with
  | some w => stop (.lost { l with off := 4 * w - P.base } (BitVec.ofNat 64 (x + 4 * w - (P.base + l.off))))
  | none =>
    set (s.serveLocal l n)
    pure (readBytes P.sp l.off n)

/-- Word `w` of a core as a team's scratchpad holds it. -/
def Team.spWord (P : Team) (sp : List Host.Cell) (w : Nat) : Word := BitVec.ofNat 32 (leNat (readBytes sp (4 * w - P.base) 4))

/-- Write bytes at a resolved local address: data in the team's scratchpad, parity in its core, word by word in increasing
order. A store never traps on what it finds (R266, R269). -/
def State.writeLocal (s : State) (l : Local) (bytes : List Byte) : State :=
  match s.team? l.team with
  | some P =>
    let p := P.base + l.off
    let n := bytes.length
    let sp := writeBytes P.sp l.off bytes
    let c := (wordsOf p n).foldl
      (fun c w => c.stored w (decide (p ≤ 4 * w) && decide (4 * w + 4 ≤ p + n)) (P.spWord P.sp w ^^^ P.spWord sp w))
      (s.core P.core)
    (s.setCore P.core c).setTeam l.team { P with sp := sp }
  | none => s

/-- A local store by team `t`: a write through a window makes the team irrevocable (R302). -/
def storeLocal (t : Nat) (l : Local) (bytes : List Byte) : M Unit := do
  admitLocal l bytes.length
  if l.window then commitPorch t
  modify fun s => s.writeLocal l bytes

/-- The write of an access that writes back what it read: it queues an update of its own (R266). -/
def touchLocal (l : Local) (n : Nat) : M Unit := do
  let P ← getTeam l.team
  modify fun s => s.writeLocal l (readBytes P.sp l.off n)

/-- A load of `n` bytes at a local address (R153, R161). -/
def loadLocal (t : Nat) (x n : Nat) : M (List Byte) := do
  let l ← resolveLocal t x n
  readLocal l x n

/-- A structure of `n` bytes that an instruction reads at issue from the team's own scratchpad, aligned to `align`
(R195, R199, R231, R232). -/
def readBlock (t : Nat) (x n align : Nat) : M (List Byte) := do
  check (x % align = 0) Cause.misalignedData (BitVec.ofNat 64 x)
  let T ← getTeam t
  check (decide (x + n ≤ T.size) && decide (x < winBase)) Cause.protection (BitVec.ofNat 64 x)
  readLocal ⟨t, x, false⟩ x n

/-- SPSTAT (R273). -/
def Core.spstat (c : Core) : Word :=
  let degraded := c.retired.foldl (fun v e => v ||| 2 ^ e.1) 0
  let banks := c.retired.foldl (fun v e => v ||| (e.2 % 4) * 2 ^ (8 + 2 * e.1)) 0
  BitVec.ofNat 32 (degraded + banks + min ((c.queue.map fun u => (u.1, u.2.1)).eraseDups.length) 255 * 2 ^ 24)

/-- SPCORR: scratchpad words corrected or repaired since reset, in every core (R267, R349). -/
def State.spcorr (s : State) : Word :=
  s.cores.foldl (fun v (e : Nat × Core) => v + BitVec.ofNat 32 e.2.corrected) 0

end Sys2Proof.Machine
end

