-- ==== Sys2Proof/Machine/Registers.lean ====
section
/-!
DEFINITION. The management registers (R349) and what the physical memory that accesses reach is (R238, R315, R349): reads
and writes of HBM and the loft, of doorbell words, and of the registers; and the parts of a team's accesses.
-/

namespace Sys2Proof.Machine

def State.modMgmt (s : State) (f : Mgmt → Mgmt) : State := { s with mgmt := f s.mgmt }

/-- POWERLIM as it is read (R349). -/
def Mgmt.powerLimit (m : Mgmt) : Nat := max 300 (min 1500 m.powerlim.toNat)

/-! ### Attestation (R346) -/

/-- Leaves of the identity key. -/
def leafCount : Nat := 2 ^ 20

/-- ATTSTAT (R346, R349): with every leaf used and none in progress it reads 3. -/
def Attest.status (a : Attest) : Nat :=
  (if a.busy then 2 else if leafCount ≤ a.leaf then 3 else if a.done then 1 else 0) + a.leaf % leafCount * 2 ^ 12

/-- A command (R346): the next leaf is taken to sign the nonce, the device hash, the firmware digest, DEVID and the leaf's
index. One in progress is not disturbed, with every leaf used nothing is signed, and before ready the unit is idle
(R345). -/
def State.attestNow (s : State) : State :=
  let a := s.attest
  if !s.mgmt.ready || a.busy || decide (leafCount ≤ a.leaf) then s
  else
    let q : Quote :=
      { nonce := a.nonce, hash := s.deviceHash, digest := s.firmware.digest, devid := s.mgmt.devid, leaf := a.leaf }
    { s with attest := { a with busy := true, done := false, quote := q, leaf := a.leaf + 1 } }

/-! ### Writing registers -/

/-- A write to LINDEN. -/
def State.clearLinden (s : State) (v : Word64) : State :=
  if v.getLsbD 0 then s.modMgmt fun m => { m with linden := [], cerepeat := 0 } else s

/-- A write to SPRETIRE: refused in a group that is degraded (R270). -/
def State.retireBank (s : State) (v : Word64) : State :=
  let core := (v.extractLsb' 0 10).toNat
  let bank := (v.extractLsb' 10 5).toNat
  let c := s.core core
  if 768 ≤ core ∨ (SMap.find? (bank / 4) c.retired).isSome ∨ (c.toRetire ++ c.asked).any (fun b => b / 4 == bank / 4) then s
  else s.setCore core (c.askRetire bank)

/-- A write to ROUTE: ports above 17 do not exist. -/
def State.setRoute (s : State) (v : Word64) : State :=
  let port := v.extractLsb' 17 5
  if 17 < port.toNat then s
  else s.modMgmt fun m =>
    { m with routes := SMap.insert (v.extractLsb' 0 17).toNat (port, v.extractLsb' 22 8) m.routes }

/-- A write to CTXCTL of context x: it creates the context, privileged or not for its whole life (R225), or configures it;
a write that would clear [0] is ignored, and [13] clears fault pending. Creating a context again lifts the fence on its id
(R305). -/
def State.ctxWrite (s : State) (x : Nat) (v : Word64) : State :=
  let c := s.ctx x
  let set (c : Context) : Context :=
    { c with vector := v.extractLsb' 2 11, pendingFault := c.pendingFault && !v.getLsbD 13 }
  if v.getLsbD 0 then
    let c' := if c.live then c else
      { Context.fresh with live := true, privileged := v.getLsbD 1, killedBy := c.killedBy, reports := c.reports,
                           pendingFault := c.pendingFault }
    { s.setCtx x (set c') with fencedCtxs := s.fencedCtxs.filter (· != x),
                               mgmt := { s.mgmt with contextMade := true } }
  else if c.live then s
  else s.setCtx x { set c with privileged := v.getLsbD 1 }

/-- A translation that a resident team is using (R336). -/
def State.xlatInUse (s : State) (k : Nat) : Bool :=
  s.teams.any fun (e : Nat × Team) =>
    (e.2.status == .resident || e.2.status == .resting) &&
      (SMap.find? e.2.launch s.launches).any (fun L => L.xlat == some k)

/-- A launch that is not complete runs a translation. -/
def State.xlatNeeded (s : State) (k : Nat) : Bool :=
  s.launches.any fun (e : Nat × Launch) => !e.2.complete && e.2.xlat == some k

/-- An output is discarded from the translation store (R336). What a launch still has to run stays with it outside the
store (log entry 27). -/
def State.discardXlat (s : State) (k : Nat) : State :=
  if s.xlatNeeded k then { s with xlats := SMap.modify k (fun x => { x with stored := false }) s.xlats }
  else { s with xlats := SMap.erase k s.xlats }

/-- Every output that no resident team uses is discarded (R349). -/
def State.dropXlats (s : State) : State :=
  (s.xlats.filter fun (e : Nat × Xlat) => !s.xlatInUse e.1).foldl (fun s (e : Nat × Xlat) => s.discardXlat e.1) s

/-- Writes to XSTBASE and XSTSIZE; a change discards every output not in use. -/
def State.setStore (s : State) (base size : Word64) : State :=
  let b := base &&& 0x00007FFFFFFF0000
  let z := size.setWidth 16
  if s.mgmt.xstbase = b ∧ s.mgmt.xstsize = z then s
  else (s.modMgmt fun m => { m with xstbase := b, xstsize := z }).dropXlats

def State.modSq (s : State) (q : Nat) (f : Queue → Queue) : State :=
  { s with sqs := SMap.insert q (f (SMap.getD s.sqs q .fresh)) s.sqs }
def State.modCq (s : State) (q : Nat) (f : Queue → Queue) : State :=
  { s with cqs := SMap.insert q (f (SMap.getD s.cqs q .fresh)) s.cqs }

/-- One word of ATTNONCE. -/
def setNonce (n : BitVec 256) (k : Nat) (v : Word64) : BitVec 256 :=
  let sh := 64 * k
  (n &&& ~~~ ((0xFFFFFFFFFFFFFFFF : BitVec 256) <<< sh)) ||| ((v.setWidth 256) <<< sh)

/-- Base and configuration of a queue register pair, reserved bits reading zero (R7). -/
def ringBase (v : Word64) : Word64 := v &&& 0x00007FFFFFFFFFF8
def ringCfg (v : Word64) : Word64 := v &&& 0x1FFFF

/-- A write to the management register at a byte offset; read-only registers and offsets that name none ignore it. -/
def State.mgmtWrite (s : State) (off : Nat) (v : Word64) : State :=
  if off % 8 ≠ 0 then s
  else
    match off with
    | 0x008 => if s.mgmt.contextMade then s else s.modMgmt fun m => { m with devid := v.setWidth 17 }
    | 0x048 =>
      if s.teams.any fun (e : Nat × Team) => e.2.status == .resident || e.2.status == .resting then s
      else s.modMgmt fun m => { m with porch := v.setWidth 4 }
    | 0x050 => s.modMgmt fun m => { m with ramthresh := v.setWidth 16 }
    | 0x058 => s.modMgmt fun m => { m with smin := v.setWidth 32 }
    | 0x060 => s.modMgmt fun m => { m with rbudget := v.setWidth 24 }
    | 0x068 => s.modMgmt fun m => { m with doorbase := v &&& 0x00007FFFFFFFFC00 }
    | 0x070 => s.modMgmt fun m => { m with aperture := v &&& 0x00007FF000000000 }
    | 0x078 => s.setStore v (s.mgmt.xstsize.setWidth 64)
    | 0x080 => s.setStore s.mgmt.xstbase v
    | 0x088 => s.modMgmt fun m => { m with powerlim := v.setWidth 16 }
    | 0x098 => s.clearLinden v
    | 0x0A8 => s.modMgmt fun m => { m with celog := v &&& 0x00007FFFFFFF0000 }
    | 0x0C0 => s.retireBank v
    | 0x0D0 => s.setRoute v
    | 0x120 => if v.getLsbD 0 then s.attestNow else s
    | _ =>
      if 0x100 ≤ off ∧ off < 0x120 then
        { s with attest := { s.attest with nonce := setNonce s.attest.nonce ((off - 0x100) / 8) v } }
      else if 0x1200 ≤ off ∧ off < 0x1600 then
        s.modSq ((off - 0x1200) / 16) fun q => if off % 16 = 0 then { q with base := ringBase v } else { q with cfg := ringCfg v }
      else if 0x1600 ≤ off ∧ off < 0x1700 then
        s.modCq ((off - 0x1600) / 16) fun q => if off % 16 = 0 then { q with base := ringBase v } else { q with cfg := ringCfg v }
      else if 0x2000 ≤ off ∧ off < 0xA000 then s.ctxWrite ((off - 0x2000) / 8) v
      else s

/-- What a read of the management register at a byte offset gives (R349); write-only registers and reserved bits read
zero. -/
def State.mgmtRead (s : State) (off : Nat) : Word64 :=
  let m := s.mgmt
  let n (k : Nat) : Word64 := BitVec.ofNat 64 k
  match off with
  | 0x000 => n ((if m.ready then 1 else 0) + (if m.bootFailed then 2 else 0) + (if m.thermalHalt then 4 else 0)
      + if m.hot.isEmpty then 0 else 8)
  | 0x008 => m.devid.setWidth 64
  | 0x010 => s.deviceHash
  | 0x018 => m.genid
  | 0x020 => m.ucodeid
  | 0x028 => m.errata.extractLsb' 0 64
  | 0x030 => m.errata.extractLsb' 64 64
  | 0x038 => m.errata.extractLsb' 128 64
  | 0x040 => m.errata.extractLsb' 192 64
  | 0x048 => m.porch.setWidth 64
  | 0x050 => n (max 1024 m.ramthresh.toNat)
  | 0x058 => m.smin.setWidth 64
  | 0x060 => n (max 1 m.rbudget.toNat)
  | 0x068 => m.doorbase
  | 0x070 => m.aperture
  | 0x078 => m.xstbase
  | 0x080 => m.xstsize.setWidth 64
  | 0x088 => n m.powerLimit
  | 0x090 => n ((List.range 5).foldl (fun v j => v + (SMap.getD m.dietemp j 0).toNat * 256 ^ j) 0)
  | 0x0A0 => m.cerepeat.setWidth 64
  | 0x0A8 => m.celog
  | 0x0B0 => m.celogcnt.setWidth 64
  | 0x0B8 => s.spcorr.setWidth 64
  | 0x0C8 => m.infault.setWidth 64
  | 0x128 => n s.attest.status
  | _ =>
    if 0x100 ≤ off ∧ off < 0x120 then s.attest.nonce.extractLsb' (8 * (off - 0x100)) 64
    else if 0x200 ≤ off ∧ off < 0x1200 then
      n ((List.range 8).foldl (fun v j => v + (SMap.getD s.attest.sig (off - 0x200 + j) 0).toNat * 256 ^ j) 0)
    else if 0x1200 ≤ off ∧ off < 0x1600 then
      let q := SMap.getD s.sqs ((off - 0x1200) / 16) .fresh
      if off % 16 = 0 then q.base else q.cfg
    else if 0x1600 ≤ off ∧ off < 0x1700 then
      let q := SMap.getD s.cqs ((off - 0x1600) / 16) .fresh
      if off % 16 = 0 then q.base else q.cfg
    else if 0x2000 ≤ off ∧ off < 0xA000 then
      let c := s.ctx ((off - 0x2000) / 8)
      n ((if c.live then 1 else 0) + (if c.privileged then 2 else 0) + c.vector.toNat * 4
        + if c.pendingFault then 2 ^ 13 else 0)
    else 0

/-! ### Physical memory and the registers behind it -/

/-- A byte that a read of a physical address gives: of memory, or of a management register (R349). -/
def State.physByte (s : State) (a : Nat) : Byte :=
  if s.inRegisters a 1 then
    let off := a - s.mgmt.window.toNat
    (s.mgmtRead (off / 8 * 8)).extractLsb' (8 * (off % 8)) 8
  else readByte s.mem a

/-- A byte of physical memory as a team sees it: its own stores not yet performed, then its porch (R159, R160). DESIGN
CHOICE (log entry 67): bytes go by physical address, so a load through an alias of a stored byte sees the store at once,
fence or none. -/
def State.teamByte (s : State) (t : Nat) (a : Nat) : Byte :=
  let b := (s.stores.filter (fun w => w.team == t)).foldl
    (fun b w => cover a w.pa w.bytes w.tag.holes b) (s.physByte a)
  match s.team? t with
  | some T => T.porch.foldl (fun b w => cover a w.pa w.bytes w.tag.holes b) b
  | none => b

def State.teamBytes (s : State) (t : Nat) (a : Nat) : Nat → List Byte
  | 0 => []
  | n + 1 => s.teamByte t a :: s.teamBytes t (a + 1) n

/-- Write bytes, but those at addresses that a test bars. -/
def writeBytesBut (bar : Nat → Bool) (m : List Host.Cell) (a : Nat) : List Byte → List Host.Cell
  | [] => m
  | b :: bs => writeBytesBut bar (if bar a then m else writeByte m a b) (a + 1) bs

/-- Writes that reach the management registers act on each word they touch; bytes that a write leaves out of a word are
those a read of it gives (R349, log entry 46). -/
def State.writeRegisters (s : State) (off : Nat) (bytes : List Byte) : State :=
  (List.range ((off + bytes.length + 7) / 8 - off / 8)).foldl (fun s i =>
    let w := off / 8 * 8 + 8 * i
    let old := leBytes 8 (s.mgmtRead w).toNat
    let new := (List.range 8).map fun j =>
      if off ≤ w + j ∧ w + j < off + bytes.length then bytes.getD (w + j - off) 0 else old.getD j 0
    s.mgmtWrite w (BitVec.ofNat 64 (leNat new))) s

/-- Perform a write in physical memory. DESIGN CHOICE (log entry 88): of a doorbell word its low 32 bits are the value, and
head, tail and value count modulo 2³² (R276, R315). Writes to reserved doorbell words are discarded, and each other doorbell word
that the write reaches is acted on (R315). An unreadable word that is written whole is readable again. -/
def State.writePhys (s : State) (pa : Nat) (bytes : List Byte) (prio : BitVec 8) : State :=
  if s.inRegisters pa bytes.length then s.writeRegisters (pa - s.mgmt.window.toNat) bytes
  else
    let s : State := { s with badMem := s.badMem.filter (fun a => !(decide (pa ≤ a) && decide (a + 4 ≤ pa + bytes.length))) }
    match s.doorbellWords pa bytes.length with
    | [] => { s with mem := writeBytes s.mem pa bytes }
    | ws =>
      let b := s.mgmt.doorbase.toNat
      let s := { s with mem := writeBytesBut (fun a => decide (b + 640 ≤ a) && decide (a < b + 1024)) s.mem pa bytes }
      ws.foldl (fun s w => s.doorbell w (BitVec.ofNat 32 (leNat (readBytes s.mem (b + 8 * w) 4))) prio) s

/-- A pending store is performed, all of it at once (R157, R178). -/
def State.performStore (s : State) (w : PendStore) : State :=
  (runsBetween w.tag.holes w.pa w.bytes).foldl (fun s r => s.writePhys r.1 r.2 w.tag.bprio) s

/-! ### Reading and writing the parts of an access -/

/-- A byte that the team reads from a store of its own, in its porch or on its way, and not from memory (R159, R160). -/
def State.ownByte (s : State) (t : Nat) (a : Nat) : Bool :=
  s.stores.any (fun w => w.team == t && reaches a w.pa w.bytes w.tag.holes) ||
    (s.team? t).any (fun T => T.porch.any fun w => reaches a w.pa w.bytes w.tag.holes)

/-- Word `a` is read from memory by an access of `n` bytes at `pa`: a byte of it that the access names is no store of
the team's own. -/
def State.readsWord (s : State) (team : Option Nat) (pa n a : Nat) : Bool :=
  (List.range 4).any fun i =>
    decide (pa ≤ a + i) && decide (a + i < pa + n) &&
      match team with
      | some t => !s.ownByte t (a + i)
      | none => true

/-- The uncorrectable word, if any, that a part reads, for a team or for the device (R161). -/
def Part.badWord? (s : State) (team : Option Nat) (p : Part) : Option Nat :=
  match p.target with
  | .phys pa =>
    match s.badMem.find? (s.readsWord team pa p.len) with
    | some a => some (p.va + a - pa)
    | none => none
  | .remote _ => none

def Part.isRemote (p : Part) : Bool :=
  match p.target with
  | .remote _ => true
  | .phys _ => false

/-- Trap UNCORRECTABLE when a part reads an uncorrectable word. -/
def checkWords (team : Option Nat) : List Part → M Unit
  | [] => pure ()
  | p :: ps => do
    match p.badWord? (← get) team with
    | some a => trap Cause.uncorrectable (BitVec.ofNat 64 a)
    | none => checkWords team ps

/-- The bytes of the local parts of an access, as the team sees them. -/
def readParts (t : Nat) : List Part → M (List Byte)
  | [] => pure []
  | p :: ps => do
    let s ← get
    let bs := match p.target with
      | .phys pa => s.teamBytes t pa p.len
      | .remote _ => List.replicate p.len 0#8
    let rest ← readParts t ps
    pure (bs ++ rest)

/-- Issue the parts of a store; a part on a remote page is a remote request (R159, R162). -/
def writeParts (t : Nat) (o : Origin) : List Part → List Byte → M Unit
  | [], _ => pure ()
  | p :: ps, bs => do
    match p.target with
    | .phys pa => modify fun s => s.storePart t o p.va pa p.kind (bs.take p.len)
    | .remote dev =>
      let _ ← remoteAs 0 t o dev p.va (.store (bs.take p.len))
    writeParts t o ps (bs.drop p.len)

end Sys2Proof.Machine
end

