-- ==== Sys2Proof/Machine/Operands.lean ====
section
/-!
DEFINITION. Register operands: the register-field codes of threads and of the front thread (R25, R27, R212), pairs and
quads, stream ports (R26, R180), window registers (R131), s registers and member masks (R114), b, q and ck registers.
Which codes an instruction may name is checked before it has any effect (Issue.lean); here they are read and written.
-/

namespace Sys2Proof.Machine

/-- The thread that executes: its team, and which thread of it. -/
structure Lane where
  team : Nat
  who : Who
  deriving DecidableEq, Repr

/-! ### Threads and groups of a team -/

def Team.thread? (T : Team) (t : Nat) : Option Thread := SMap.find? t T.threads

def Team.setThread (T : Team) (t : Nat) (h : Thread) : Team := { T with threads := SMap.insert t h T.threads }

def Team.group? (T : Team) (g : Nat) : Option Group := SMap.find? g T.groups

def Team.setGroup (T : Team) (g : Nat) (G : Group) : Team := { T with groups := SMap.insert g G T.groups }

def Team.modGroup (T : Team) (g : Nat) (f : Group → Group) : Team := { T with groups := SMap.modify g f T.groups }

/-- Group index and thread index of a team-local thread id (R12). -/
def Team.groupIx (T : Team) (t : Nat) : Nat := t / T.width
def Team.index (T : Team) (t : Nat) : Nat := t % T.width

def State.thread? (s : State) (team t : Nat) : Option Thread := (s.team? team).bind (·.thread? t)

def State.modThread (s : State) (team t : Nat) (f : Thread → Thread) : State :=
  s.modTeam team (fun T => { T with threads := SMap.modify t f T.threads })

/-- The thread as it now is, if it exists. -/
def State.setThread (s : State) (team t : Nat) (h : Thread) : State := s.modThread team t fun _ => h

def State.modFront (s : State) (team : Nat) (f : Front → Front) : State :=
  s.modTeam team (fun T => { T with front := T.front.map f })

def getThread (team t : Nat) : M Thread := fun s =>
  match s.thread? team t with
  | some h => .ok (h, s)
  | none => .error .missing

def getFront (team : Nat) : M Front := fun s =>
  match (s.team? team).bind (·.front) with
  | some f => .ok (f, s)
  | none => .error .missing

def modThread (team t : Nat) (f : Thread → Thread) : M Unit := modify fun s => s.modThread team t f

def modFront (team : Nat) (f : Front → Front) : M Unit := modify fun s => s.modFront team f

/-- The group of a lane thread. -/
def getGroup (team t : Nat) : M Group := fun s =>
  match (s.team? team).bind (fun T => T.group? (T.groupIx t)) with
  | some g => .ok (g, s)
  | none => .error .missing

def modGroupOf (team t : Nat) (f : Group → Group) : M Unit :=
  modTeam team fun T => T.modGroup (T.groupIx t) f

/-! ### General registers -/

def Thread.reg (h : Thread) (c : Nat) : Word := SMap.getD h.g c 0

def Thread.setReg (h : Thread) (c : Nat) (v : Word) : Thread := { h with g := SMap.put h.g c v 0 }

def Front.reg (f : Front) (c : Nat) : Word64 := SMap.getD f.f c 0

def Front.setReg (f : Front) (c : Nat) (v : Word64) : Front := { f with f := SMap.put f.f c v 0 }

/-! ### Register-field codes (R25) -/

inductive RegCode where
  | g (n : Nat)
  | inPort (p : Bool)
  | outPort (p : Bool)
  | window (k d : Nat)
  deriving DecidableEq, Repr

def regCode (c : BitVec 8) : RegCode :=
  let n := c.toNat
  if n < 220 then .g n
  else if n < 222 then .inPort (n == 221)
  else if n < 224 then .outPort (n == 223)
  else .window ((n - 224) / 4) ((n - 224) % 4)

/-- A code that names a g register. -/
def isG (c : BitVec 8) : Bool := decide (c.toNat < 220)

/-! ### Stream ports (R179, R180) -/

def portIx (out p : Bool) : Nat := (if out then 2 else 0) + if p then 1 else 0

def Team.ring? (T : Team) (out p : Bool) : Option Ring := SMap.find? (portIx out p) T.ports

def loadLocal32 (t : Nat) (x : Nat) : M Word := do
  pure (BitVec.ofNat 32 (leNat (← loadLocal t x 4)))

def storeLocal32 (t : Nat) (x : Nat) (v : Word) : M Unit := do
  let l ← resolveLocal t x 4
  storeLocal t l (leBytes 4 v.toNat)

/-- POP: wait until the ring is not empty, take its head element (R180). -/
def ringPop (team : Nat) (r : Ring) : M Word := do
  let head ← loadLocal32 team r.control.toNat
  let tail ← loadLocal32 team (r.control.toNat + 4)
  if tail = head then hold
  else
    let v ← loadLocal32 team (r.base.toNat + 4 * (head.toNat % r.count))
    storeLocal32 team r.control.toNat (head + 1)
    pure v

/-- The place of a word of a ring: where the team's address resolves now, or in the scratchpad of the team that its window
mapped when the instruction issued (R183, R184). -/
def ringPlace (team : Nat) (via : Option Nat) (x : Nat) : M Local :=
  match via with
  | none => resolveLocal team x 4
  | some p => do
    let P ← getTeam p
    if P.status = .resident ∨ P.status = .resting then pure ⟨p, (x - winBase) % 0x40000, true⟩ else hold

/-- PUSH: wait until the ring has room, write its tail element (R180). -/
def ringPush (team : Nat) (r : Ring) (v : Word) (via : Option Nat := none) : M Unit := do
  let word (x : Nat) : M Word := do
    pure (BitVec.ofNat 32 (leNat (← readLocal (← ringPlace team via x) x 4)))
  let put (x : Nat) (v : Word) : M Unit := do storeLocal team (← ringPlace team via x) (leBytes 4 v.toNat)
  let head ← word r.control.toNat
  let tail ← word (r.control.toNat + 4)
  if r.count ≤ (tail - head).toNat then hold
  else
    put (r.base.toNat + 4 * (tail.toNat % r.count)) v
    put (r.control.toNat + 4) (tail + 1)

/-- The first latched element of a port, and the rest (STREAM_POP). -/
def takeLatch (p : Bool) : List (Bool × Word) → Option (Word × List (Bool × Word))
  | [] => none
  | (q, v) :: l =>
    if q = p then some (v, l)
    else (takeLatch p l).map fun x => (x.1, (q, v) :: x.2)

/-- A thread's place in the line of an in port, while its instruction waits at a port (R26). -/
def Thread.ticket? (h : Thread) (p : Bool) : Option Nat := SMap.find? (portIx false p) h.places

/-- The places of the threads in line at an in port. -/
def Team.line (T : Team) (p : Bool) : List Nat := T.threads.filterMap fun e => e.2.ticket? p

/-- The register code of an out port. -/
def outCode (p : Bool) : BitVec 8 := if p then 223 else 222

/-- A thread's place in the line of an out port, while its instruction waits at a port (R26). -/
def Thread.pushTicket? (h : Thread) (p : Bool) : Option Nat := SMap.find? (portIx true p) h.places

/-- The places of what a thread has still to push onto an out port: at the instruction where it waits, and as results. -/
def Thread.pushes (h : Thread) (p : Bool) : List Nat :=
  if h.ended then []
  else (h.pushTicket? p).toList ++
    (h.pend.filter fun q => q.dest.contains (outCode p) && q.value != .ready []).map (·.place)

/-- The places of all that the team has still to push onto an out port. -/
def Team.pushLine (T : Team) (p : Bool) : List Nat := T.threads.flatMap fun e => e.2.pushes p

/-- The place of an element that a thread's instruction reads or pushes: the one it waits with, or behind all others. -/
def Team.popPlace (T : Team) (h : Thread) (p : Bool) : Nat := (h.ticket? p).getD ((T.line p).foldl max 0 + 1)
def Team.pushPlace (T : Team) (h : Thread) (p : Bool) : Nat := (h.pushTicket? p).getD ((T.pushLine p).foldl max 0 + 1)

/-- A thread waits at a port: it has its place in the lines of the in ports that it has still to read and of the out ports
that it is to write, so that instructions issued after its own take and push their elements after it (R26, R180). -/
def Team.inLine (T : Team) (h : Thread) (w : Wait) (ins outs : List Bool) : Thread :=
  { h with wait := some w,
           places := outs.foldl (fun m p => SMap.insert (portIx true p) (T.pushPlace h p) m)
             (ins.foldl (fun m p => SMap.insert (portIx false p) (T.popPlace h p) m) []) }

/-- Take a thread's next element of an in port into its latch. Reads take elements in the order in which they were
issued, so a thread stands in line behind those that wait already (R26, R180); `ins` and `outs` are the ports that its
instruction reads and writes beside this read. -/
def latchPort (team t : Nat) (p : Bool) (ins outs : List Bool) : M Unit := do
  let T ← getTeam team
  let h ← getThread team t
  let inLine (s : State) : Stop := .hold (s.setThread team t (T.inLine h (.port p) (p :: ins) outs))
  if (T.line p).any (fun k => decide (k < T.popPlace h p)) || (← get).rcPending team (T.origin (.thread t)) then
    fun s => .error (inLine s)
  else
    match T.ring? false p with
    | none => trap Cause.illegalRegister
    | some r => fun s =>
      match ringPop team r s with
      | .ok (v, s) => .ok ((), s.modThread team t fun h => { h with latch := h.latch ++ [(p, v)] })
      | .error .retry => .error (inLine s)
      | .error e => .error e

/-- Elements that a thread holds of an in port. -/
def Thread.latched (h : Thread) (p : Bool) : Nat := (h.latch.filter (fun x => x.1 == p)).length

/-- A thread has all that it reads of the in ports: it leaves their lines. -/
def Thread.leaveInLines (h : Thread) : Thread :=
  { h with places := h.places.filter fun e => decide (2 ≤ e.1),
           wait := match h.wait with
             | some (.port _) => none
             | w => w }

/-- Take the elements for reads of in ports, each its own, in the order given (R26). -/
def latchPorts (team t : Nat) (outs : List Bool) : List Bool → List Bool → M Unit
  | _, [] => modThread team t Thread.leaveInLines
  | seen, p :: ps => do
    let h ← getThread team t
    if h.latched p ≤ (seen.filter (· == p)).length then latchPort team t p ps outs else pure ()
    latchPorts team t outs (p :: seen) ps

/-- A thread's read of an in port: the element it took when its instruction began. -/
def popPort (team t : Nat) (p : Bool) : M Word := do
  let h ← getThread team t
  match takeLatch p h.latch with
  | some (v, l) =>
    modThread team t fun h => { h with latch := l }
    pure v
  | none =>
    let T ← getTeam team
    if (T.ring? false p).isSome then hold else trap Cause.illegalRegister

/-- The team in whose scratchpad the ring of an out port lies now, where it lies in a window (R179, R183). -/
def Team.ringVia (T : Team) (p : Bool) : Option Nat :=
  match T.ring? true p with
  | some r =>
    if r.window then
      match SMap.find? ((r.control.toNat - winBase) / 0x40000) T.windows with
      | some (.mapped q) => some q
      | _ => none
    else none
  | none => none

/-- An element goes onto an out port: elements go in issue order, so it waits for those that come before its place (R26,
R180), and as a local store for the thread's RC stores (R252, R254). -/
def pushPort (l : Lane) (p : Bool) (place : Nat) (v : Word) (via : Option Nat := none) : M Unit := do
  let T ← getTeam l.team
  match T.ring? true p with
  | some r =>
    if (T.pushLine p).any (fun k => decide (k < place)) || (← get).rcStoring l.team (T.origin l.who) then hold
    else ringPush l.team r v via
  | none => trap Cause.illegalRegister

/-! ### Window registers of a chain (R129–R132) -/

/-- sp_s of beat b (R129). -/
def Chain.runs (C : Chain) (b s : Nat) : Bool := decide (s ≤ b) && decide (b - s < C.trip) && decide (s < C.stages)

/-- A thread has ended, has cur of 1 or more, or has executed STAGE 0 with sp0 false (R130). -/
def Thread.passedStage0 (h : Thread) : Bool :=
  h.ended || h.skipped0 || match h.stage with
    | some k => decide (0 < k)
    | none => false

/-- Threads of a group, by team-local id. -/
def Team.members (T : Team) (g : Nat) : List (Nat × Thread) := T.threads.filter (fun e => e.1 / T.width == g)

/-- Beat b has passed stage 0 (R130). -/
def Team.passed (T : Team) (C : Chain) (b : Nat) : Bool :=
  match SMap.find? (b % 4) C.slots with
  | some sl =>
    if sl.beat = b then
      sl.retired || (T.members (T.producers + b % 4)).all (fun e => e.2.passedStage0)
    else decide (b < sl.beat)
  | none => false

/-- READW's value at distance d ≥ 1 for thread index i of beat b, or `none` while it waits (R131). -/
def Team.windowAt (T : Team) (C : Chain) (b k d i : Nat) : Option Word :=
  if b < d then
    if b = 0 ∨ T.passed C 0 then some (SMap.getD C.seeds (128 * k + i) 0) else none
  else
    match SMap.find? ((b - d) % 4) C.slots with
    | some sl =>
      if sl.beat = b - d ∧ sl.present.contains (128 * k + i) then some (SMap.getD sl.vals (128 * k + i) 0) else none
    | none => none

/-- Set a window value and its presence (R131, R133). -/
def Chain.put (C : Chain) (b k i : Nat) (v : Word) : Chain :=
  let set (sl : ChainSlot) : ChainSlot :=
    { sl with vals := SMap.put sl.vals (128 * k + i) v 0, present := (128 * k + i) :: sl.present }
  { C with slots := SMap.modify (b % 4) set C.slots }

/-- READW (R131). DESIGN CHOICE (log entry 77): a distance beyond the chain's delta traps ILLEGAL_REGISTER here, at the read,
and so after LOOKAHEAD and the waits; R75 names for its decode-time check R14 and R25 only. -/
def readWindow (team t k d : Nat) : M Word := do
  let T ← getTeam team
  let G ← getGroup team t
  let h ← getThread team t
  match T.chain, G.beat with
  | some C, some b =>
    let i := T.index t
    if d = 0 ∧ h.written.getLsbD k then
      match SMap.find? (b % 4) C.slots with
      | some sl => pure (SMap.getD sl.vals (128 * k + i) 0)
      | none => trap Cause.illegalRegister
    else
      let d := if d = 0 then 1 else d
      if C.delta < d then trap Cause.illegalRegister
      else
        match T.windowAt C b k d i with
        | some v => pure v
        | none => hold
  | _, _ => trap Cause.illegalRegister

def writeWindow (team t k d : Nat) (v : Word) : M Unit := do
  let T ← getTeam team
  let G ← getGroup team t
  let h ← getThread team t
  match T.chain, G.beat with
  | some C, some b =>
    check (d = 0) Cause.illegalRegister
    check (!h.written.getLsbD k) Cause.chainRewrite
    modTeam team fun T => { T with chain := some (C.put b k (T.index t) v) }
    modThread team t fun h => { h with written := h.written ||| BitVec.ofNat 8 (2 ^ k) }
  | _, _ => trap Cause.illegalRegister

/-- A later write of a destination code will be taken, as far as that shows now: the beat's own w register is unwritten
(R131), and the ring of an out port lies in no revoked window (R180). -/
def destOk (l : Lane) (c : BitVec 8) : M Unit :=
  match l.who with
  | .front => pure ()
  | .thread t =>
    match regCode c with
    | .window k _ => do check (!(← getThread l.team t).written.getLsbD k) Cause.chainRewrite
    | .outPort p => do
      let T ← getTeam l.team
      let s ← get
      match T.ring? true p with
      | some r =>
        match s.local? l.team r.control.toNat 8 with
        | .ok _ => pure ()
        | .error e => trap e (r.control.setWidth 64)
      | none => trap Cause.illegalRegister
    | _ => pure ()

/-! ### Reading and writing a field -/

/-- A 32-bit source (R25, R27). -/
def rd (l : Lane) (c : BitVec 8) : M Word :=
  match l.who with
  | .front => do pure (((← getFront l.team).reg c.toNat).setWidth 32)
  | .thread t =>
    match regCode c with
    | .g n => do pure ((← getThread l.team t).reg n)
    | .inPort p => popPort l.team t p
    | .outPort _ => trap Cause.illegalRegister
    | .window k d => readWindow l.team t k d

/-- A 32-bit destination (R25, R27). -/
def wr (l : Lane) (c : BitVec 8) (v : Word) : M Unit :=
  match l.who with
  | .front => modFront l.team (·.setReg c.toNat (v.setWidth 64))
  | .thread t =>
    match regCode c with
    | .g n => modThread l.team t (·.setReg n v)
    | .inPort _ => trap Cause.illegalRegister
    | .outPort p => do
      if (← get).pushPending l.team l.who then hold
      else pushPort l p ((← getTeam l.team).pushPlace (← getThread l.team t) p) v
    | .window k d => writeWindow l.team t k d v

/-- A 64-bit pair, or one front register whole (R5, R212). -/
def rd64 (l : Lane) (c : BitVec 8) : M Word64 :=
  match l.who with
  | .front => do pure ((← getFront l.team).reg c.toNat)
  | .thread t => do
    let h ← getThread l.team t
    pure (h.reg (c.toNat + 1) ++ h.reg c.toNat)

def wr64 (l : Lane) (c : BitVec 8) (v : Word64) : M Unit :=
  match l.who with
  | .front => modFront l.team (·.setReg c.toNat v)
  | .thread t =>
    modThread l.team t fun h => (h.setReg c.toNat (v.setWidth 32)).setReg (c.toNat + 1) (v.extractLsb' 32 32)

/-- `n` consecutive g registers from a code, low first. -/
def rdMany (team t : Nat) (c : Nat) (n : Nat) : M (List Word) := do
  let h ← getThread team t
  pure ((List.range n).map fun j => h.reg (c + j))

def Thread.setRegs (h : Thread) (c : Nat) : List Word → Thread
  | [] => h
  | v :: vs => (h.setReg c v).setRegs (c + 1) vs

/-! ### b, q, ck and s registers -/

/-- A b register; b7 reads true (R19). -/
def rdB (l : Lane) (k : BitVec 3) : M Bool :=
  match l.who with
  | .front => do pure ((← getFront l.team).b.getLsbD k.toNat)
  | .thread t => do pure ((← getThread l.team t).b.getLsbD k.toNat)

/-- Set bit k of eight b registers; a write to b7 is discarded. -/
def setBit (b : BitVec 8) (k : BitVec 3) (v : Bool) : BitVec 8 :=
  if k = 7#3 then b
  else if v then b ||| BitVec.ofNat 8 (2 ^ k.toNat) else b &&& ~~~ (BitVec.ofNat 8 (2 ^ k.toNat))

def wrB (l : Lane) (k : BitVec 3) (v : Bool) : M Unit :=
  match l.who with
  | .front => modFront l.team fun f => { f with b := setBit f.b k v }
  | .thread t => modThread l.team t fun h => { h with b := setBit h.b k v }

/-- The fields of a q register (R21). -/
def qCode (q : BitVec 25) : Nat := (q.extractLsb' 0 16).toNat
def qLineage (q : BitVec 25) : BitVec 8 := q.extractLsb' 16 8
def qIndep (q : BitVec 25) : Bool := q.getLsbD 24

/-- A q register from its fields; a code above 0x8000 is written as 0x8000 (R21). -/
def qMake (code : Nat) (lineage : BitVec 8) (indep : Bool) : BitVec 25 :=
  (if indep then 1#1 else 0#1) ++ lineage ++ BitVec.ofNat 16 (min code 0x8000)

def rdQ (team t : Nat) (k : BitVec 3) : M (BitVec 25) := do
  pure (SMap.getD (← getThread team t).q k.toNat 0)

def wrQ (team t : Nat) (k : BitVec 3) (v : BitVec 25) : M Unit :=
  modThread team t fun h => { h with q := SMap.put h.q k.toNat v 0 }

/-- What an accumulator that nothing has written holds (R22). -/
def Ck.zero : Ck := ⟨0, none⟩

/-- A checksum accumulator as an instruction of the given mode reads it (R22, R206). -/
def Thread.ckFor (h : Thread) (n : Nat) (intMode : Bool) : Word64 :=
  let c := SMap.getD h.ck n Ck.zero
  if c.mode = some intMode then c.bits else 0

def Thread.setCk (h : Thread) (n : Nat) (c : Ck) : Thread := { h with ck := SMap.put h.ck n c Ck.zero }

def Group.sreg (G : Group) (n : Nat) : Word := SMap.getD G.s n 0

def Group.setSreg (G : Group) (n : Nat) (v : Word) : Group := { G with s := SMap.put G.s n v 0 }

/-- The argument values that R20 loads into s[n] at creation; they are what front code reads (R224). -/
def Team.arg (T : Team) (n : Nat) : Word :=
  if n < 60 then T.args.getD n 0
  else if n = 60 then T.argAddr.extractLsb' 0 32
  else if n = 61 then T.argAddr.extractLsb' 32 32
  else if n = 62 then T.argSize
  else 0

/-- s[n] as a lane reads it: the group's register, or for the front thread its creation value. -/
def rdS (l : Lane) (n : Nat) : M Word :=
  match l.who with
  | .front => do pure ((← getTeam l.team).arg n)
  | .thread t => do pure ((← getGroup l.team t).sreg n)

/-- The s registers a member mask spans: ceil(W/32) (R114). -/
def maskWords (width : Nat) : Nat := (width + 31) / 32

/-- MASK(sm) of a group of a given width (R114). -/
def Group.mask (G : Group) (width sm : Nat) : BitVec 128 :=
  let v := (List.range (maskWords width)).foldl (fun v j => v + (G.sreg (sm + j)).toNat * 2 ^ (32 * j)) 0
  BitVec.ofNat 128 (v % 2 ^ width)

/-! ### Group modes -/

/-- FPCTL of a lane's group; the front thread's is the creation value 0 (R213). -/
def fpctl (l : Lane) : M Word :=
  match l.who with
  | .front => pure 0
  | .thread t => do pure (← getGroup l.team t).fpctl

def nfmt (l : Lane) : M Word :=
  match l.who with
  | .front => pure 0x2304#32
  | .thread t => do pure (← getGroup l.team t).nfmt

def fpMode (l : Lane) : M FpMode := do pure (.of (← fpctl l))

/-- An NFMT slot in use: an invalid P traps OPERAND_FORMAT (R40). -/
def slot8 (l : Lane) (b : Bool) : M Slot8 := do
  let S := slotOf (← nfmt l) b
  check S.valid Cause.operandFormat
  pure S

/-- CLOCK of a lane's launch (R30). -/
def clockOf (team : Nat) : M Nat := do
  let T ← getTeam team
  let s ← get
  match SMap.find? T.launch s.launches with
  | some L => pure (s.clock - L.t0.getD s.clock)
  | none => pure 0

end Sys2Proof.Machine
end

