-- ==== Sys2Proof/Machine/Group.lean ====
section
/-!
DEFINITION. What threads of a team do to one another: group operations (R114–R119, R208, R217), reconvergence slots
(R111–R113), named barriers (R167–R173), decision-queue removal (R216), and what a thread's exit sets off (R110, R170,
R172, R127).
-/

namespace Sys2Proof.Machine

/-! ### Completing an instruction -/

/-- A window instruction more has passed (R67): every window shrinks; one that is over and delivered is forgotten. -/
def Pending.tick (p : Pending) : Pending := { p with left := p.left - 1 }

/-- The thread is past an instruction of `len` bytes: its PC, its watchdog count (R122) and its windows move on. -/
def Thread.advance (h : Thread) (len : Nat) : Thread :=
  { h with pc := h.pc + BitVec.ofNat 64 len, count := h.count + 1, wait := none, places := [],
           pend := h.pend.map Pending.tick }

/-! ### Group operations -/

/-- The instruction with the registers of p and q cleared: what every member of one instance shares (R116). -/
def groupKey : Instr → Instr
  | .shflIdx s _ _ r => .shflIdx s 0 0 r
  | .shflUp s _ _ r => .shflUp s 0 0 r
  | .shflDown s _ _ r => .shflDown s 0 0 r
  | .shflXor s _ _ r => .shflXor s 0 0 r
  | .voteAny s _ _ r => .voteAny s 0 0 r
  | .voteAll s _ _ r => .voteAll s 0 0 r
  | .voteBallot s _ _ r => .voteBallot s 0 0 r
  | .voteMatch s _ _ r => .voteMatch s 0 0 r
  | .voteRadd s _ _ r => .voteRadd s 0 0 r
  | .voteRmin s _ _ r => .voteRmin s 0 0 r
  | .voteRmax s _ _ r => .voteRmax s 0 0 r
  | .voteRfadd s _ _ r => .voteRfadd s 0 0 r
  | .ckx s _ _ r => .ckx s 0 false r
  | .elect s _ => .elect s 0
  | .dqpush g _ => .dqpush g 0
  | i => i

/-- Whether the instruction asks for the dropped-lane report in b6 (R115). -/
def groupReport : Instr → Bool
  | .shflIdx _ _ _ r | .shflUp _ _ _ r | .shflDown _ _ _ r | .shflXor _ _ _ r => r
  | .voteAny _ _ _ r | .voteAll _ _ _ r | .voteBallot _ _ _ r | .voteMatch _ _ _ r => r
  | .voteRadd _ _ _ r | .voteRmin _ _ _ r | .voteRmax _ _ _ r | .voteRfadd _ _ _ r => r
  | .ckx _ _ _ r => r
  | _ => false

/-- What a live member receives. -/
inductive GroupOut where
  | regs (d : BitVec 8) (vals : List Word)
  | b (k : BitVec 3) (v : Bool)
  | ck (n : Nat) (c : Ck)
  | push (v : Word) (same : Bool)
  deriving DecidableEq, Repr

/-- One level of the tree of R53. -/
def pairUp {α : Type} (f : α → α → α) : List α → List α
  | a :: b :: r => f a b :: pairUp f r
  | l => l

/-- The reduction over a fixed binary tree; seven levels reach width 128 (R53). -/
def treeGo {α : Type} (f : α → α → α) (z : α) : Nat → List α → α
  | 0, l => l.headD z
  | n + 1, l => treeGo f z n (pairUp f l)

def treeReduce {α : Type} (f : α → α → α) (z : α) (l : List α) : α := treeGo f z 7 l

/-- The first value a member offered. -/
def offered (live : List (Nat × Instr × List Word)) (i : Nat) : Option Word :=
  (live.find? (fun m => m.1 == i)).map fun m => m.2.2.headD 0

/-- The values over all lanes of the group, a lane that is not live giving the identity. -/
def overLanes (live : List (Nat × Instr × List Word)) (width : Nat) (z : Word) : List Word :=
  (List.range width).map fun i => (offered live i).getD z

/-- A set of thread indices as consecutive registers (R118). -/
def maskRegs (width : Nat) (v : Nat) : List Word :=
  (List.range (maskWords width)).map fun j => BitVec.ofNat 32 (v / 2 ^ (32 * j))

/-- The value that member i takes by SHFL from index j (R117). -/
def shuffled (live : List (Nat × Instr × List Word)) (width : Nat) (j : Int) (own : Word) : Word :=
  if 0 ≤ j ∧ j < width then (offered live j.toNat).getD own else own

/-- Signed minimum and maximum. -/
def sminW (a b : Word) : Word := if b.slt a then b else a
def smaxW (a b : Word) : Word := if a.slt b then b else a

/-- COMPUTE for one live member (R117–R119, R208, R217). -/
def groupCompute (live : List (Nat × Instr × List Word)) (width : Nat) (m : Nat × Instr × List Word) : GroupOut :=
  let i := m.1
  let own := m.2.2.headD 0
  match m.2.1 with
  | .shflIdx _ d _ _ => .regs d [shuffled live width (((m.2.2.getD 1 0).toNat % width : Nat)) own]
  | .shflUp _ d n _ => .regs d [shuffled live width ((i : Int) - n.toNat) own]
  | .shflDown _ d n _ => .regs d [shuffled live width ((i : Int) + n.toNat) own]
  | .shflXor _ d n _ => .regs d [shuffled live width ((i ^^^ n.toNat : Nat)) own]
  | .voteAny _ d _ _ => .b d (live.any fun x => x.2.2.headD 0 != 0)
  | .voteAll _ d _ _ => .b d (live.all fun x => x.2.2.headD 0 != 0)
  | .voteBallot _ d _ _ =>
    .regs d (maskRegs width (live.foldl (fun v x => if x.2.2.headD 0 != 0 then v + 2 ^ x.1 else v) 0))
  | .voteMatch _ d _ _ =>
    .regs d (maskRegs width (live.foldl (fun v x => if x.2.2.headD 0 == own then v + 2 ^ x.1 else v) 0))
  | .voteRadd _ d _ _ => .regs d [treeReduce (· + ·) 0 (overLanes live width 0)]
  | .voteRmin _ d _ _ => .regs d [treeReduce sminW 0x7FFFFFFF (overLanes live width 0x7FFFFFFF)]
  | .voteRmax _ d _ _ => .regs d [treeReduce smaxW 0x80000000 (overLanes live width 0x80000000)]
  | .voteRfadd _ d _ _ => .regs d [treeReduce add32 0x80000000 (overLanes live width 0x80000000)]
  | .elect _ d => .b d (live.all fun x => decide (i ≤ x.1))
  | .ckx _ n mode _ =>
    let v := if mode then treeReduce (· + ·) 0 (overLanes live width 0)
             else treeReduce add32 0x80000000 (overLanes live width 0x80000000)
    .ck n.toNat ⟨v.setWidth 64, some mode⟩
  | .dqpush _ _ => .push own (live.all fun x => x.2.2.headD 0 == own)
  | _ => .regs 0 []

/-- Give a thread its result: one for an out port waits as a pending result of an exhausted window, with its place, since
its ring may be full (R180). -/
def Thread.receive (h : Thread) (o : GroupOut) (report : Option Bool) (place : Nat := 0) (via : Option Nat := none) :
    Thread :=
  let h := match o with
    | .regs d vs =>
      if isG d then h.setRegs d.toNat vs
      else { h with pend := h.pend ++ [⟨[d], .ready (vs.map (·.setWidth 64)), 0, false, place, via⟩] }
    | .b k v => { h with b := setBit h.b k v }
    | .ck n c => h.setCk n c
    | .push _ _ => h
  match report with
  | some r => { h with b := setBit h.b 6 r }
  | none => h

/-- Give a member its result: a w register of its beat is written at once (R131). -/
def Team.receive (T : Team) (g t : Nat) (o : GroupOut) (report : Option Bool) : Team :=
  let plain (o : GroupOut) : Team :=
    let at_ (h : Thread) : Nat × Option Nat := match o with
      | .regs d _ => match regCode d with
        | .outPort p => (T.pushPlace h p, T.ringVia p)
        | _ => (0, none)
      | _ => (0, none)
    { T with threads := SMap.modify t (fun h => h.receive o report (at_ h).1 (at_ h).2) T.threads }
  match o with
  | .regs d (v :: _) =>
    match regCode d, T.chain, (T.group? g).bind (·.beat) with
    | .window k _, some C, some b =>
      let mark (h : Thread) : Thread := { h with written := h.written ||| BitVec.ofNat 8 (2 ^ k) }
      let T := { T with chain := some (C.put b k (T.index t) v) }
      { T with threads := SMap.modify t (fun h => (mark h).receive (.regs 0 []) report) T.threads }
    | _, _, _ => plain o
  | o => plain o

/-- Complete an instance for its arrived members (R115). A DQPUSH leaves each member at the push, which the member of
lowest index makes for the group (R217); members whose values differ have issued it, which counts (R122), and trap
NONUNIFORM when they are tried again. -/
def Team.completeOp (T : Team) (g : Nat) (op : GroupOp) : Team :=
  let live := op.arrived
  let dropped := op.mask != BitVec.ofNat 128 (live.foldl (fun v m => v + 2 ^ m.1) 0)
  let lead := live.foldl (fun a m => min a m.1) 128
  live.foldl (fun T m =>
    let t := g * T.width + m.1
    let out := groupCompute live T.width m
    match out with
    | .push v same =>
      let f (h : Thread) : Thread :=
        if same then { h with wait := some (.push v (m.1 == lead)) }
        else { h with wait := none, count := h.count + 1,
                      trap := some ⟨Cause.nonuniform, 0, h.pc, (encode32 m.2.1).getD 0, some m.2.1⟩ }
      { T with threads := SMap.modify t f T.threads }
    | o =>
      let T : Team := { T with threads := SMap.modify t (·.advance 4) T.threads }
      T.receive g t o (if groupReport m.2.1 then some dropped else none)) T

/-- Every member of the mask has arrived or exited (R115). -/
def Team.opReady (T : Team) (g : Nat) (op : GroupOp) : Bool :=
  (List.range T.width).all fun i =>
    !op.mask.getLsbD i || op.arrived.any (fun m => m.1 == i) ||
      match T.thread? (g * T.width + i) with
      | some h => h.ended
      | none => true

/-- Complete every instance of a group that is ready. -/
def Team.settleOps (T : Team) (g : Nat) : Team :=
  match T.group? g with
  | some G =>
    let T := (G.ops.filter (T.opReady g)).foldl (fun T op => T.completeOp g op) T
    T.modGroup g fun G' => { G' with ops := G.ops.filter (fun op => !T.opReady g op) }
  | none => T

/-- Arrive at the instance for an instruction and mask, with the values offered; an instance in the thread's way, that
is one whose mask names the thread but which differs in instruction or mask, traps MEMBER_MASK (R116). -/
def arriveOp (team t : Nat) (i : Instr) (mask : BitVec 128) (vals : List Word) : M Unit := do
  let T ← getTeam team
  let g := T.groupIx t
  let ix := T.index t
  let G ← getGroup team t
  let key := groupKey i
  let mine (op : GroupOp) : Bool := op.key == key && op.mask == mask
  check (G.ops.all fun op => !op.mask.getLsbD ix || mine op) Cause.memberMask
  let ops :=
    if G.ops.any mine then G.ops.map fun o => if mine o then { o with arrived := o.arrived ++ [(ix, i, vals)] } else o
    else G.ops ++ [⟨key, mask, [(ix, i, vals)]⟩]
  modTeam team fun T => T.modGroup g fun G => { G with ops := ops }
  modThread team t fun h => { h with wait := some .groupOp, places := [] }
  modTeam team fun T => T.settleOps g

/-! ### Reconvergence (R113) -/

/-- Release a slot whose every member has arrived or ended; the released threads go past their RCV.WAIT. -/
def Team.settleSlot (T : Team) (g k : Nat) : Team :=
  match T.group? g with
  | some G =>
    match SMap.find? k G.rcv with
    | some sl =>
      let ok := (List.range T.width).all fun i =>
        !sl.mask.getLsbD i || sl.arrived.getLsbD i ||
          match T.thread? (g * T.width + i) with
          | some h => h.ended
          | none => true
      if ok && sl.arrived != 0 then
        let ids := ((List.range T.width).filter sl.arrived.getLsbD).map (fun i => g * T.width + i)
        let T := ids.foldl (fun T t => { T with threads := SMap.modify t (·.advance 4) T.threads }) T
        T.modGroup g fun G => { G with rcv := SMap.insert k { sl with arrived := 0 } G.rcv }
      else T
    | none => T
  | none => T

/-! ### Named barriers (R167–R173) -/

def Barrier.fresh : Barrier :=
  { phase := false, expected := 0, pending := 0, bytes := 0, engines := 0, participants := 0, arrived := 0,
    broken := false, marks := [], badAddr := 0 }

def Team.nb (T : Team) (k : Nat) : Barrier := SMap.getD T.nbs k .fresh

def Team.setNb (T : Team) (k : Nat) (B : Barrier) : Team := { T with nbs := SMap.insert k B T.nbs }

/-- A wait of NB.WAIT, NB.ARW or FTWAIT.NB on barrier k. -/
def Wait.onNb (k : Nat) : Option Wait → Bool
  | some (.barrier j _) => j == k
  | _ => false

/-- Change every thread of the team that waits on barrier k. -/
def Team.waiters (T : Team) (k : Nat) (f : Thread → Thread) (g : Front → Front) : Team :=
  { T with threads := T.threads.map fun e => if Wait.onNb k e.2.wait then (e.1, f e.2) else e,
           front := T.front.map fun h => if Wait.onNb k h.wait then g h else h }

/-- The front thread past its instruction. -/
def Front.advance (h : Front) (len : Nat) : Front :=
  { h with pc := h.pc + BitVec.ofNat 64 len, wait := none, pend := h.pend.map Pending.tick }

/-- Set a barrier's broken bit: threads waiting on it are let go to their instruction, where they trap
BARRIER_BROKEN with the faulting address `a?` of a copy. A break for another cause leaves the address that a copy's has
set, and gives zero where there is none (R169, R172, R177, R294). -/
def Team.breakNb (T : Team) (k : Nat) (a? : Option Word64) : Team :=
  let B := T.nb k
  let addr := a?.getD (if B.broken then B.badAddr else 0)
  let T := T.setNb k { B with broken := true, badAddr := addr }
  T.waiters k (fun h => { h with wait := some (.broken addr) }) (fun h => { h with wait := some (.broken addr) })

/-- After an arrival, a byte landing or an engine finishing: the phase completes when nothing is outstanding, and every
waiter is released (R168). -/
def Team.checkPhase (T : Team) (k : Nat) : Team :=
  let B := T.nb k
  if B.pending = B.expected ∧ B.bytes = 0 ∧ B.engines = 0 ∧ !B.broken then
    let T := T.setNb k { B with phase := !B.phase, pending := 0, arrived := 0 }
    T.waiters k (·.advance 4) (·.advance 4)
  else T

/-- ARRIVE of a group (R169). -/
def Team.arrive (T : Team) (k g : Nat) : Team :=
  let B := T.nb k
  (T.setNb k { B with pending := B.pending + 1, arrived := B.arrived ||| BitVec.ofNat 32 (2 ^ g),
                      participants := B.participants ||| BitVec.ofNat 32 (2 ^ g) }).checkPhase k

/-- Every live thread of group g is marked on barrier k (R170). -/
def Team.marksComplete (T : Team) (k g : Nat) : Bool :=
  (T.members g).all fun e => e.2.ended || (T.nb k).marks.contains (g, e.1)

def Team.clearMarks (T : Team) (k g : Nat) : Team :=
  let B := T.nb k
  T.setNb k { B with marks := B.marks.filter (fun m => m.1 != g) }

/-- A thread's exit may complete its group's marks (R170): the arrival counts, or, when the barrier is full, breaks
it. -/
def Team.exitMarks (T : Team) (g : Nat) : Team :=
  (List.range 16).foldl (fun T k =>
    if (T.nb k).marks.any (fun m => m.1 == g) && T.marksComplete k g then
      let T := T.clearMarks k g
      if (T.nb k).pending = (T.nb k).expected then T.breakNb k none else T.arrive k g
    else T) T

/-- A group that ends or is cancelled while it owes an arrival breaks each such barrier (R137, R172). DESIGN CHOICE (log
entry 56): the participant and arrived bits go by group index, so a chain group has those that the retired group of the
same index left in the barrier. -/
def Team.breakOwed (T : Team) (g : Nat) : Team :=
  (List.range 16).foldl (fun T k =>
    let B := T.nb k
    if B.participants.getLsbD g && !B.arrived.getLsbD g then T.breakNb k none else T) T

/-- Bytes landed by an engine registered on barrier k (R173). DESIGN CHOICE (log entry 57): a decrement that would take
bytes below zero leaves them at zero, beside the broken bit that the rule sets. -/
def Team.landBytes (T : Team) (k n : Nat) : Team :=
  let B := T.nb k
  if B.bytes < n then (T.setNb k { B with bytes := 0 }).breakNb k none
  else if B.broken then T.setNb k { B with bytes := B.bytes - n }
  else (T.setNb k { B with bytes := B.bytes - n }).checkPhase k

/-- An engine registered on barrier k finishes, stops or is abandoned (R173, R197). -/
def Team.engineDone (T : Team) (k : Nat) : Team :=
  let B := T.nb k
  (T.setNb k { B with engines := B.engines - 1 }).checkPhase k

/-- Register an engine on a barrier; a sixty-fourth traps BARRIER_MISUSE (R173). -/
def registerNb (team : Nat) (bar : Option Nat) : M Unit :=
  match bar with
  | none => pure ()
  | some k => do
    let T ← getTeam team
    let B := T.nb k
    check (decide (B.engines < 63)) Cause.barrierMisuse
    modTeam team fun T => T.setNb k { T.nb k with engines := B.engines + 1 }

/-! ### Decision queues (R216) -/

/-- Entries that a thread has not popped: cursors count modulo 2³² (R216). -/
def Group.unread (G : Group) (h : Thread) : Nat := (G.pushed - h.cursor).toNat

/-- Remove the entries that every live thread of the group has popped. -/
def Team.trimQueue (T : Team) (g : Nat) : Team :=
  match T.group? g with
  | some G =>
    let live := (T.members g).filter (fun e => !e.2.ended)
    let keep := live.foldl (fun a e => max a (G.unread e.2)) 0
    T.setGroup g { G with dq := G.dq.drop (G.dq.length - keep) }
  | none => T

/-! ### A thread's end -/

/-- A chain slot's group has retired or been cancelled (R127, R135). -/
def Chain.retire (C : Chain) (b : Nat) : Chain :=
  { C with slots := SMap.modify (b % 4) (fun sl => if sl.beat = b then { sl with retired := true } else sl) C.slots }

/-- The last thread of a group has ended. -/
def Team.endGroup (T : Team) (g : Nat) : Team :=
  match T.group? g with
  | some G =>
    let T := T.setGroup g { G with ended := true, dq := if G.beat.isSome then [] else G.dq }
    let T := match T.chain, G.beat with
      | some C, some b => { T with chain := some (C.retire b) }
      | _, _ => T
    T.breakOwed g
  | none => T

/-- A thread ends: it is a dropped lane from now on (R110, R113, R115, R170, R172, R216). EXIT has waited for its results;
DESIGN CHOICE (log entry 74): a cancelled thread (R135) ends without those that are still pending, an element for an out
port among them. -/
def Team.endThread (T : Team) (t : Nat) : Team :=
  let g := T.groupIx t
  let finish (h : Thread) : Thread := { h with ended := true, wait := none, places := [], trap := none, pend := [] }
  let T := { T with threads := SMap.modify t finish T.threads }
  let T := T.settleOps g
  let T := (List.range 8).foldl (fun T k => T.settleSlot g k) T
  let T := T.exitMarks g
  let T := T.trimQueue g
  if (T.members g).all (fun e => e.2.ended) then T.endGroup g else T

/-- SETTLE, one register at a time: the value that READW at distance 1 gives, or the register at which it waits
(R133). -/
def Team.settle (T : Team) (t : Nat) : Nat → Nat → Team × Option Nat
  | 0, _ => (T, none)
  | fuel + 1, k =>
    match T.thread? t, T.group? (T.groupIx t), T.chain with
    | some h, some G, some C =>
      match G.beat with
      | some b =>
        if h.written.getLsbD k then T.settle t fuel (k + 1)
        else
          match T.windowAt C b k 1 (T.index t) with
          | some v => ({ T with chain := some (C.put b k (T.index t) v) } : Team).settle t fuel (k + 1)
          | none => (T, some k)
      | none => (T, none)
    | _, _, _ => (T, none)

/-- EXIT of a thread: a chain thread settles first, and waits where it must (R110, R133). -/
def Team.exitThread (T : Team) (t k : Nat) : Team :=
  match T.settle t (8 - k) k with
  | (T, none) => T.endThread t
  | (T, some k) =>
    { T with threads := SMap.modify t (fun h => { h with wait := some (.settle k) }) T.threads }

/-- Cancel a group: the arrivals it owes break their barriers (R137, R172), and each of its threads that waits, be it for
the entry of its handler, ends without settling (R135). -/
def Team.cancelGroup (T : Team) (g : Nat) : Team :=
  let T := (T.modGroup g fun G => { G with cancelled := true }).breakOwed g
  (T.members g).foldl (fun T e =>
    if (e.2.wait.isSome || e.2.trap.isSome) && !e.2.ended then T.endThread e.1 else T) T

/-- Cancel the groups whose beat lies beyond the drain of the trip count in force (R135). -/
def Team.cancelBeyond (T : Team) : Team :=
  match T.chain with
  | some C =>
    (T.groups.filter (fun e => match e.2.beat with
      | some b => !e.2.ended && decide (C.trip + C.stages ≤ b + 1)
      | none => false)).foldl (fun T e => T.cancelGroup e.1) T
  | none => T

end Sys2Proof.Machine
end

