-- ==== Sys2Proof/Machine/Create.lean ====
section
/-!
DEFINITION. Creation values (R19, R20, R125–R126, R167, R185, R211, R229): threads, groups, chain groups, the front
context and teams, from their launch.
-/

namespace Sys2Proof.Machine

/-- A thread at its creation, with the watchdog limit of the launch's yield budget (R19, R122). -/
def Thread.create (pc : Word64) (yield : Nat) : Thread :=
  { pc := pc, rs := [], spill := 0, g := [], b := 0x80, q := [], ck := [], draw := 0, cursor := 0, tpc := 0, tcause := 0,
    tinst := 0, taddr := 0, tmask := 0, written := 0, stage := none, skipped0 := false, count := 0, limit := 64 * 2 ^ yield, pend := [],
    wait := none, trap := none, latch := [], places := [], remoteFail := none, parked := false, ended := false }

/-- The s registers that R20 loads. -/
def Team.sregs (T : Team) : SMap Word :=
  (List.range 63).foldl (fun m n => SMap.put m n (T.arg n) 0) []

/-- A group at its creation (R19, R20). -/
def Group.create (T : Team) (producer : Bool) (budget lane : Nat) (beat : Option Nat) : Group :=
  { producer := producer, budget := budget, lane := lane, beat := beat, s := T.sregs, fpctl := 0, nfmt := 0x2304,
    temp := 0x3F800000, dq := [], pushed := 0, rcv := [], ops := [], cancelled := false, ended := false }

/-- Lane offset of group g: a multiple of the width below 64 (R11, R93). DESIGN CHOICE (log entry 65): R11 leaves open
which multiple, and the model takes that of the group's index. -/
def laneOffset (width g : Nat) : Nat := if 64 ≤ width then 0 else g * width % 64

def LaunchRec.w (r : LaunchRec) : Nat := 16 * 2 ^ r.width.toNat
def LaunchRec.hasFront (r : LaunchRec) : Bool := r.flags.getLsbD 0
def LaunchRec.hasChain (r : LaunchRec) : Bool := r.flags.getLsbD 1
def LaunchRec.y (r : LaunchRec) : Nat := (r.yield.extractLsb' 0 4).toNat

/-- Add group g and its threads to a team. -/
def Team.addGroup (T : Team) (r : LaunchRec) (g : Nat) (producer : Bool) (beat : Option Nat) : Team :=
  let budget := if producer then r.pbudget.toNat else r.cbudget.toNat
  let T := T.setGroup g (Group.create T producer budget (laneOffset T.width g) beat)
  (List.range T.width).foldl (fun T i => T.setThread (g * T.width + i) (Thread.create T.entry r.y)) T

/-- The team's chain at creation: N from its trip register, values above 0xFFFFFFF0 read as that (R125). -/
def Chain.create (T : Team) (r : LaunchRec) : Chain :=
  { trip := min (T.arg (r.trip.extractLsb' 0 6).toNat).toNat 0xFFFFFFF0,
    stages := (r.stages.extractLsb' 0 2).toNat + 1, delta := (r.stages.extractLsb' 2 2).toNat, next := 0, slots := [],
    seeds := [] }

def Mx.create (claims : BitVec 2) : Mx :=
  { a0 := [], a1 := [], claims := claims, prog := 0, stop := none, abandon := none, lastBad := false, issued := 0,
    queue := [] }

def Rsh.create : Rsh :=
  { go := List.replicate 16 0, src := [], dst := [], entry := 0, row := 0, state := 0, abandon := none,
    stopAsked := false, nextEntry := 0, nextRow := 0, plan := none, flight := [], sleep := none,
    origin := { who := .front, beat := none, op := none } }

def Front.create (pc : Word64) : Front :=
  { pc := pc, f := [], b := 0x80, rs := [], spill := 0, pend := [], wait := none, remoteFail := none, latch := [],
    ended := false, parked := false }

/-- The address of the thread entry and of the front entry of a launch (R274, R335). -/
def State.entryOf (s : State) (L : Launch) : Word64 × Word64 :=
  match L.xlat.bind (fun x => SMap.find? x s.xlats) with
  | some x => (x.entry, x.front)
  | none => (L.body + L.record.entry.setWidth 64, L.body + L.record.front.setWidth 64)

/-- A team of a launch with every state at its creation value (R19): index, coordinates, argument words. -/
def Team.create (launch : Nat) (L : Launch) (entries : Word64 × Word64) (ix : Nat) (x y z : BitVec 16)
    (args : List Word) (argAddr : Word64) (argSize : Word) : Team :=
  let r := L.record
  let p := r.producers.toNat
  let c := if r.hasChain then 4 else r.consumers.toNat
  let counted := if r.hasChain then p else p + c
  let T : Team :=
    { ctx := L.ctx, launch := launch, ix := ix, gang := ix / max r.gang.toNat 1, x := x, y := y, z := z,
      status := .waiting, core := 0, base := 0, avoidCluster := none, relaunches := 0, width := r.w, producers := p,
      consumers := c, size := r.scratch.toNat, priority := L.priority, args := args, argAddr := argAddr,
      argSize := argSize, entry := entries.1, groups := [], threads := [],
      front := if r.hasFront then some (Front.create entries.2) else none, sp := [],
      nbs := if counted = 0 then [] else
        [(0, { Barrier.fresh with expected := counted, participants := BitVec.ofNat 32 (2 ^ counted - 1) })],
      ports := [], wing := none, windows := [], rseed := 0, replay := 0, bprio := 0,
      mx := Mx.create (r.flags.extractLsb' 2 2), rsh := Rsh.create, chain := none, revocable := false,
      porchSlot := none, porch := [], copies := [], nextCopy := 0, started := false, dying := false, fault := none, lastPaths := [],
      lastGroup := none, ages := [] }
  let T := (List.range p).foldl (fun T g => T.addGroup r g true none) T
  if r.hasChain then { T with chain := some (Chain.create T r) }
  else (List.range c).foldl (fun T j => T.addGroup r (p + j) false none) T

/-- Create the team again from its launch values, as a new team of the same admission position (R303). -/
def Team.recreate (s : State) (T : Team) : Team :=
  match SMap.find? T.launch s.launches with
  | some L =>
    { Team.create T.launch L (T.entry, (s.entryOf L).2) T.ix T.x T.y T.z T.args T.argAddr T.argSize with
      avoidCluster := some (T.core / 16), relaunches := T.relaunches + 1 }
  | none => T

/-- The next chain group may be created: its beat is within the bound, and the groups that its slot waits for have
retired (R126, R127). -/
def Team.chainDue (T : Team) : Bool :=
  match T.chain with
  | some C =>
    decide (C.next + 1 < C.trip + C.stages) &&
      (decide (C.next < 4) || (List.range (C.delta + 1)).all fun j =>
        match SMap.find? ((C.next - 4 + j) % 4) C.slots with
        | some sl => decide (sl.beat = C.next - 4 + j) && sl.retired
        | none => false)
  | none => false

/-- Create the group of the next beat (R126): its slot's presence bits and its written marks are clear (R132). -/
def Team.createBeat (T : Team) (r : LaunchRec) : Team :=
  match T.chain with
  | some C =>
    let b := C.next
    let sl : ChainSlot := { beat := b, vals := [], present := [], retired := false }
    let T := { T with chain := some { C with next := b + 1, slots := SMap.insert (b % 4) sl C.slots } }
    T.addGroup r (T.producers + b % 4) false (some b)
  | none => T

end Sys2Proof.Machine
end

