-- ==== Sys2Proof/Machine/Info.lean ====
section
/-!
DEFINITION. Which register fields, immediate and lookahead each instruction has, where it may stand, and what it waits
for: the one table behind the decode-time checks (R14, R25, R67, R75, R212, R213, R225) and the trap frame (R295, R296).
-/

namespace Sys2Proof.Machine

/-- The frame position of a field (R296). -/
inductive Slot where
  | a | b | d
  deriving DecidableEq, Repr

/-- A source, a destination, or both (R87). -/
inductive Use where
  | rd | wr | rw
  deriving DecidableEq, Repr

/-- What a field must name: any code of R25; a g register; an even pair; a pair of two local addresses (R174); a quad;
the ceil(W/32) registers of a mask (R72). -/
inductive Shape where
  | one | g | pair | pair2 | quad | mask
  deriving DecidableEq, Repr

/-- A register field of an instruction. -/
structure Fld where
  slot : Slot
  code : BitVec 8
  use : Use
  shape : Shape
  deriving DecidableEq, Repr

/-- What a size code of the M format asks of d (R64). -/
def sizeShape (s : BitVec 3) : Shape := if s = 5#3 then .pair else if s = 6#3 then .quad else .one

end Sys2Proof.Machine

namespace Sys2Proof

open Sys2Proof.Machine

/-- The register fields, sources in the order a, b, then any further (R26). The word 0x0000 is the no-operation and has
none (R59). -/
def Instr.flds : Instr → List Fld
  | .movCompact d s =>
    if d = 0 ∧ s = 0 then [] else [⟨.a, (s.setWidth 8), .rd, .one⟩, ⟨.d, (d.setWidth 8), .wr, .one⟩]
  | .iaddCompact d s => [⟨.a, (d.setWidth 8), .rw, .one⟩, ⟨.b, (s.setWidth 8), .rd, .one⟩]
  | .isubCompact d s => [⟨.a, (d.setWidth 8), .rw, .one⟩, ⟨.b, (s.setWidth 8), .rd, .one⟩]
  | .andCompact d s => [⟨.a, (d.setWidth 8), .rw, .one⟩, ⟨.b, (s.setWidth 8), .rd, .one⟩]
  | .orCompact d s => [⟨.a, (d.setWidth 8), .rw, .one⟩, ⟨.b, (s.setWidth 8), .rd, .one⟩]
  | .xorCompact d s => [⟨.a, (d.setWidth 8), .rw, .one⟩, ⟨.b, (s.setWidth 8), .rd, .one⟩]
  | .shlCompact d s => [⟨.a, (d.setWidth 8), .rw, .one⟩, ⟨.b, (s.setWidth 8), .rd, .one⟩]
  | .shrCompact d s => [⟨.a, (d.setWidth 8), .rw, .one⟩, ⟨.b, (s.setWidth 8), .rd, .one⟩]
  | .sarCompact d s => [⟨.a, (d.setWidth 8), .rw, .one⟩, ⟨.b, (s.setWidth 8), .rd, .one⟩]
  | .imulCompact d s => [⟨.a, (d.setWidth 8), .rw, .one⟩, ⟨.b, (s.setWidth 8), .rd, .one⟩]
  | .faddCompact d s => [⟨.a, (d.setWidth 8), .rw, .one⟩, ⟨.b, (s.setWidth 8), .rd, .one⟩]
  | .fsubCompact d s => [⟨.a, (d.setWidth 8), .rw, .one⟩, ⟨.b, (s.setWidth 8), .rd, .one⟩]
  | .fmulCompact d s => [⟨.a, (d.setWidth 8), .rw, .one⟩, ⟨.b, (s.setWidth 8), .rd, .one⟩]
  | .fmaxCompact d s => [⟨.a, (d.setWidth 8), .rw, .one⟩, ⟨.b, (s.setWidth 8), .rd, .one⟩]
  | .iaddiCompact d _ => [⟨.a, (d.setWidth 8), .rw, .one⟩]
  | .movi d _ => [⟨.d, (d.setWidth 8), .wr, .one⟩]
  | .iadd d a b => [⟨.a, a, .rd, .one⟩, ⟨.b, b, .rd, .one⟩, ⟨.d, d, .wr, .one⟩]
  | .isub d a b => [⟨.a, a, .rd, .one⟩, ⟨.b, b, .rd, .one⟩, ⟨.d, d, .wr, .one⟩]
  | .imul d a b _ => [⟨.a, a, .rd, .one⟩, ⟨.b, b, .rd, .one⟩, ⟨.d, d, .wr, .one⟩]
  | .imulhs d a b => [⟨.a, a, .rd, .one⟩, ⟨.b, b, .rd, .one⟩, ⟨.d, d, .wr, .one⟩]
  | .imad d a b x => [⟨.a, a, .rd, .one⟩, ⟨.b, b, .rd, .one⟩, ⟨.d, d, .rw, (if x then .pair else .one)⟩]
  | .and d a b => [⟨.a, a, .rd, .one⟩, ⟨.b, b, .rd, .one⟩, ⟨.d, d, .wr, .one⟩]
  | .or d a b => [⟨.a, a, .rd, .one⟩, ⟨.b, b, .rd, .one⟩, ⟨.d, d, .wr, .one⟩]
  | .xor d a b => [⟨.a, a, .rd, .one⟩, ⟨.b, b, .rd, .one⟩, ⟨.d, d, .wr, .one⟩]
  | .andn d a b => [⟨.a, a, .rd, .one⟩, ⟨.b, b, .rd, .one⟩, ⟨.d, d, .wr, .one⟩]
  | .shl d a b => [⟨.a, a, .rd, .one⟩, ⟨.b, b, .rd, .one⟩, ⟨.d, d, .wr, .one⟩]
  | .shr d a b => [⟨.a, a, .rd, .one⟩, ⟨.b, b, .rd, .one⟩, ⟨.d, d, .wr, .one⟩]
  | .sar d a b => [⟨.a, a, .rd, .one⟩, ⟨.b, b, .rd, .one⟩, ⟨.d, d, .wr, .one⟩]
  | .imin d a b _ => [⟨.a, a, .rd, .one⟩, ⟨.b, b, .rd, .one⟩, ⟨.d, d, .wr, .one⟩]
  | .imax d a b _ => [⟨.a, a, .rd, .one⟩, ⟨.b, b, .rd, .one⟩, ⟨.d, d, .wr, .one⟩]
  | .iadd64 d a b _ => [⟨.a, a, .rd, .pair⟩, ⟨.b, b, .rd, .pair⟩, ⟨.d, d, .wr, .pair⟩]
  | .perm d a b => [⟨.a, a, .rd, .one⟩, ⟨.b, b, .rd, .one⟩, ⟨.d, d, .rw, .one⟩]
  | .mov d a => [⟨.a, a, .rd, .one⟩, ⟨.d, d, .wr, .one⟩]
  | .not d a => [⟨.a, a, .rd, .one⟩, ⟨.d, d, .wr, .one⟩]
  | .neg d a => [⟨.a, a, .rd, .one⟩, ⟨.d, d, .wr, .one⟩]
  | .iabs d a => [⟨.a, a, .rd, .one⟩, ⟨.d, d, .wr, .one⟩]
  | .clz d a => [⟨.a, a, .rd, .one⟩, ⟨.d, d, .wr, .one⟩]
  | .popc d a => [⟨.a, a, .rd, .one⟩, ⟨.d, d, .wr, .one⟩]
  | .brev d a => [⟨.a, a, .rd, .one⟩, ⟨.d, d, .wr, .one⟩]
  | .sexb d a => [⟨.a, a, .rd, .one⟩, ⟨.d, d, .wr, .one⟩]
  | .sexh d a => [⟨.a, a, .rd, .one⟩, ⟨.d, d, .wr, .one⟩]
  | .zexb d a => [⟨.a, a, .rd, .one⟩, ⟨.d, d, .wr, .one⟩]
  | .zexh d a => [⟨.a, a, .rd, .one⟩, ⟨.d, d, .wr, .one⟩]
  | .laneid d => [⟨.d, d, .wr, .one⟩]
  | .tidx d => [⟨.d, d, .wr, .one⟩]
  | .teamix d => [⟨.d, d, .wr, .one⟩]
  | .clklo d => [⟨.d, d, .wr, .one⟩]
  | .clkhi d => [⟨.d, d, .wr, .one⟩]
  | .b2g d _ => [⟨.d, d, .wr, .one⟩]
  | .g2b _ a => [⟨.a, a, .rd, .one⟩]
  | .clz64 d a => [⟨.a, a, .rd, .pair⟩, ⟨.d, d, .wr, .one⟩]
  | .popc64 d a => [⟨.a, a, .rd, .pair⟩, ⟨.d, d, .wr, .one⟩]
  | .iaddi d a _ => [⟨.a, a, .rd, .one⟩, ⟨.d, d, .wr, .one⟩]
  | .andi d a _ => [⟨.a, a, .rd, .one⟩, ⟨.d, d, .wr, .one⟩]
  | .ori d a _ => [⟨.a, a, .rd, .one⟩, ⟨.d, d, .wr, .one⟩]
  | .xori d a _ => [⟨.a, a, .rd, .one⟩, ⟨.d, d, .wr, .one⟩]
  | .shli d a _ => [⟨.a, a, .rd, .one⟩, ⟨.d, d, .wr, .one⟩]
  | .shri d a _ => [⟨.a, a, .rd, .one⟩, ⟨.d, d, .wr, .one⟩]
  | .sari d a _ => [⟨.a, a, .rd, .one⟩, ⟨.d, d, .wr, .one⟩]
  | .rotri d a _ => [⟨.a, a, .rd, .one⟩, ⟨.d, d, .wr, .one⟩]
  | .movkl d _ => [⟨.d, d, .wr, .one⟩]
  | .movkh d _ => [⟨.d, d, .rw, .one⟩]
  | .icmp _ _ _ a b => [⟨.a, a, .rd, .one⟩, ⟨.b, b, .rd, .one⟩]
  | .icmpi _ _ _ a _ => [⟨.a, a, .rd, .one⟩]
  | .sel _ _ d a => [⟨.a, a, .rd, .one⟩, ⟨.d, d, .rw, .one⟩]
  | .shflIdx _ d c _ => [⟨.a, d, .rw, .one⟩, ⟨.b, c, .rd, .one⟩]
  | .shflUp _ d _ _ => [⟨.a, d, .rw, .one⟩]
  | .shflDown _ d _ _ => [⟨.a, d, .rw, .one⟩]
  | .shflXor _ d _ _ => [⟨.a, d, .rw, .one⟩]
  | .voteBallot _ d _ _ => [⟨.a, d, .wr, .mask⟩]
  | .voteMatch _ d a _ => [⟨.b, a, .rd, .one⟩, ⟨.a, d, .wr, .mask⟩]
  | .voteRadd _ d a _ => [⟨.b, a, .rd, .one⟩, ⟨.a, d, .wr, .one⟩]
  | .voteRmin _ d a _ => [⟨.b, a, .rd, .one⟩, ⟨.a, d, .wr, .one⟩]
  | .voteRmax _ d a _ => [⟨.b, a, .rd, .one⟩, ⟨.a, d, .wr, .one⟩]
  | .voteRfadd _ d a _ => [⟨.b, a, .rd, .one⟩, ⟨.a, d, .wr, .one⟩]
  | .fadd d a b _ => [⟨.a, a, .rd, .one⟩, ⟨.b, b, .rd, .one⟩, ⟨.d, d, .wr, .one⟩]
  | .fsub d a b _ => [⟨.a, a, .rd, .one⟩, ⟨.b, b, .rd, .one⟩, ⟨.d, d, .wr, .one⟩]
  | .fmul d a b _ => [⟨.a, a, .rd, .one⟩, ⟨.b, b, .rd, .one⟩, ⟨.d, d, .wr, .one⟩]
  | .ffma d a b _ => [⟨.a, a, .rd, .one⟩, ⟨.b, b, .rd, .one⟩, ⟨.d, d, .rw, .one⟩]
  | .fmin d a b _ => [⟨.a, a, .rd, .one⟩, ⟨.b, b, .rd, .one⟩, ⟨.d, d, .wr, .one⟩]
  | .fmax d a b _ => [⟨.a, a, .rd, .one⟩, ⟨.b, b, .rd, .one⟩, ⟨.d, d, .wr, .one⟩]
  | .fabs d a _ => [⟨.a, a, .rd, .one⟩, ⟨.d, d, .wr, .one⟩]
  | .fneg d a _ => [⟨.a, a, .rd, .one⟩, ⟨.d, d, .wr, .one⟩]
  | .frcp d a _ => [⟨.a, a, .rd, .one⟩, ⟨.d, d, .wr, .one⟩]
  | .frsq d a _ => [⟨.a, a, .rd, .one⟩, ⟨.d, d, .wr, .one⟩]
  | .fsqrt d a _ => [⟨.a, a, .rd, .one⟩, ⟨.d, d, .wr, .one⟩]
  | .fexp2 d a _ => [⟨.a, a, .rd, .one⟩, ⟨.d, d, .wr, .one⟩]
  | .flog2 d a _ => [⟨.a, a, .rd, .one⟩, ⟨.d, d, .wr, .one⟩]
  | .fsin d a _ => [⟨.a, a, .rd, .one⟩, ⟨.d, d, .wr, .one⟩]
  | .fcos d a _ => [⟨.a, a, .rd, .one⟩, ⟨.d, d, .wr, .one⟩]
  | .ftanh d a _ => [⟨.a, a, .rd, .one⟩, ⟨.d, d, .wr, .one⟩]
  | .ffloor d a _ => [⟨.a, a, .rd, .one⟩, ⟨.d, d, .wr, .one⟩]
  | .fceil d a _ => [⟨.a, a, .rd, .one⟩, ⟨.d, d, .wr, .one⟩]
  | .ftrunc d a _ => [⟨.a, a, .rd, .one⟩, ⟨.d, d, .wr, .one⟩]
  | .frint d a _ => [⟨.a, a, .rd, .one⟩, ⟨.d, d, .wr, .one⟩]
  | .fclass d a _ => [⟨.a, a, .rd, .one⟩, ⟨.d, d, .wr, .one⟩]
  | .fsat d a _ => [⟨.a, a, .rd, .one⟩, ⟨.d, d, .wr, .one⟩]
  | .fcmp _ _ _ a b => [⟨.a, a, .rd, .one⟩, ⟨.b, b, .rd, .one⟩]
  | .cvt d a _ _ _ i => [⟨.a, a, .rd, .one⟩, ⟨.d, d, (if i then .rw else .wr), .one⟩]
  | .cvif d a => [⟨.a, a, .rd, .one⟩, ⟨.d, d, .wr, .one⟩]
  | .cvnf d a => [⟨.a, a, .rd, .one⟩, ⟨.d, d, .wr, .one⟩]
  | .cvfi d a => [⟨.a, a, .rd, .one⟩, ⟨.d, d, .wr, .one⟩]
  | .cvfn d a => [⟨.a, a, .rd, .one⟩, ⟨.d, d, .wr, .one⟩]
  | .cvhf d a _ => [⟨.a, a, .rd, .one⟩, ⟨.d, d, .wr, .one⟩]
  | .cvbf d a => [⟨.a, a, .rd, .one⟩, ⟨.d, d, .wr, .one⟩]
  | .cv8af d a => [⟨.a, a, .rd, .one⟩, ⟨.d, d, .wr, .one⟩]
  | .cv8bf d a => [⟨.a, a, .rd, .one⟩, ⟨.d, d, .wr, .one⟩]
  | .dot4 d a b => [⟨.a, a, .rd, .one⟩, ⟨.b, b, .rd, .one⟩, ⟨.d, d, .rw, .one⟩]
  | .dot2 d a b => [⟨.a, a, .rd, .one⟩, ⟨.b, b, .rd, .one⟩, ⟨.d, d, .rw, .one⟩]
  | .idiv d a b => [⟨.a, a, .rd, .one⟩, ⟨.b, b, .rd, .one⟩, ⟨.d, d, .wr, .one⟩]
  | .idivu d a b => [⟨.a, a, .rd, .one⟩, ⟨.b, b, .rd, .one⟩, ⟨.d, d, .wr, .one⟩]
  | .scmp _ _ _ a b => [⟨.a, a, .rd, .one⟩, ⟨.b, b, .rd, .one⟩]
  | .blend _ _ d a => [⟨.a, a, .rd, .one⟩, ⟨.d, d, .rw, .one⟩]
  | .blendi _ _ d a => [⟨.a, a, .rd, .one⟩, ⟨.d, d, .rw, .one⟩]
  | .selq _ _ d a => [⟨.a, a, .rd, .one⟩, ⟨.d, d, .rw, .one⟩]
  | .qset _ a => [⟨.a, a, .rd, .one⟩]
  | .qget _ d => [⟨.a, d, .wr, .one⟩]
  | .pgrad _ _ d => [⟨.a, d, .wr, .one⟩]
  | .ld d a _ s _ => [⟨.a, a, .rd, .pair⟩, ⟨.d, d, .wr, (sizeShape s)⟩]
  | .st d a _ s _ => [⟨.a, a, .rd, .pair⟩, ⟨.d, d, .rd, (sizeShape s)⟩]
  | .ldl d a _ s _ => [⟨.a, a, .rd, .g⟩, ⟨.d, d, .wr, (sizeShape s)⟩]
  | .stl d a _ s _ => [⟨.a, a, .rd, .g⟩, ⟨.d, d, .rd, (sizeShape s)⟩]
  | .atomAdd d a _ _ => [⟨.a, a, .rd, .pair⟩, ⟨.d, d, .rw, .one⟩]
  | .atomAdd64 d a _ _ => [⟨.a, a, .rd, .pair⟩, ⟨.d, d, .rw, .pair⟩]
  | .atomMin d a _ _ => [⟨.a, a, .rd, .pair⟩, ⟨.d, d, .rw, .one⟩]
  | .atomMax d a _ _ => [⟨.a, a, .rd, .pair⟩, ⟨.d, d, .rw, .one⟩]
  | .atomAnd d a _ _ => [⟨.a, a, .rd, .pair⟩, ⟨.d, d, .rw, .one⟩]
  | .atomOr d a _ _ => [⟨.a, a, .rd, .pair⟩, ⟨.d, d, .rw, .one⟩]
  | .atomXchg d a _ _ => [⟨.a, a, .rd, .pair⟩, ⟨.d, d, .rw, .one⟩]
  | .atomCas d a _ _ => [⟨.a, a, .rd, .pair⟩, ⟨.d, d, .rw, .pair⟩]
  | .atomlAdd d a _ _ => [⟨.a, a, .rd, .g⟩, ⟨.d, d, .rw, .one⟩]
  | .atomlFadd d a _ _ => [⟨.a, a, .rd, .g⟩, ⟨.d, d, .rw, .one⟩]
  | .atomlMin d a _ _ => [⟨.a, a, .rd, .g⟩, ⟨.d, d, .rw, .one⟩]
  | .atomlMax d a _ _ => [⟨.a, a, .rd, .g⟩, ⟨.d, d, .rw, .one⟩]
  | .atomlXchg d a _ _ => [⟨.a, a, .rd, .g⟩, ⟨.d, d, .rw, .one⟩]
  | .atomlCas d a _ _ => [⟨.a, a, .rd, .g⟩, ⟨.d, d, .rw, .pair⟩]
  | .atomlFadd2 d a _ _ => [⟨.a, a, .rd, .g⟩, ⟨.d, d, .rw, .one⟩]
  | .atomlOr d a _ _ => [⟨.a, a, .rd, .g⟩, ⟨.d, d, .rw, .one⟩]
  | .nbExpect _ _ a => [⟨.a, a, .rd, .one⟩]
  | .nbArr _ _ d _ => [⟨.a, d, .wr, .one⟩]
  | .nbWait _ _ a => [⟨.a, a, .rd, .one⟩]
  | .nbTest _ _ a _ => [⟨.a, a, .rd, .one⟩]
  | .cpyG2l _ l c => [⟨.a, l, .rd, .g⟩, ⟨.b, c, .rd, .g⟩]
  | .cpyL2g _ l c => [⟨.a, l, .rd, .g⟩, ⟨.b, c, .rd, .g⟩]
  | .cpyL2l p c => [⟨.a, p, .rd, .pair2⟩, ⟨.b, c, .rd, .g⟩]
  | .cpyG2g p c => [⟨.a, p, .rd, .quad⟩, ⟨.b, c, .rd, .g⟩]
  | .cpyPfx p c => [⟨.a, p, .rd, .pair⟩, ⟨.b, c, .rd, .g⟩]
  | .strm _ d => [⟨.a, d, .rd, .one⟩]
  | .mxIssue a => [⟨.a, a, .rd, .g⟩]
  | .mxStore _ _ _ a => [⟨.a, a, .rd, .g⟩]
  | .mxLoad _ a => [⟨.a, a, .rd, .g⟩]
  | .mxProg d _ => [⟨.a, d, .wr, .g⟩]
  | .wjoin d a => [⟨.b, a, .rd, .g⟩, ⟨.a, d, .wr, .g⟩]
  | .wmap _ d a => [⟨.b, a, .rd, .g⟩, ⟨.a, d, .wr, .g⟩]
  | .wquery d => [⟨.a, d, .wr, .g⟩]
  | .rshPlan d a => [⟨.b, a, .rd, .one⟩, ⟨.a, d, .wr, .one⟩]
  | .rshGo a => [⟨.a, a, .rd, .one⟩]
  | .rshPoll d _ => [⟨.a, d, .wr, .one⟩]
  | .rshSave a => [⟨.a, a, .rd, .one⟩]
  | .rshResume a => [⟨.a, a, .rd, .one⟩]
  | .cka _ _ a => [⟨.a, a, .rd, .one⟩]
  | .ckt _ _ a b => [⟨.a, a, .rd, .one⟩, ⟨.b, b, .rd, .one⟩]
  | .jmpi p => [⟨.a, p, .rd, .pair⟩]
  | .succSw i _ => [⟨.a, i, .rd, .g⟩]
  | .calli p => [⟨.a, p, .rd, .pair⟩]
  | .srd d _ => [⟨.a, d, .wr, .one⟩]
  | .swr a _ => [⟨.a, a, .rd, .one⟩]
  | .movs a _ => [⟨.a, a, .rd, .one⟩]
  | .smov d _ => [⟨.a, d, .wr, .one⟩]
  | .dqpush _ a => [⟨.a, a, .rd, .one⟩]
  | .dqpop d => [⟨.a, d, .wr, .one⟩]
  | .ftwaitNb a _ => [⟨.a, a, .rd, .one⟩]
  | .ftwaitDq a _ => [⟨.a, a, .rd, .one⟩]
  | .ftwaitClk a => [⟨.a, a, .rd, .one⟩]
  | .ftlaunch d a => [⟨.b, a, .rd, .pair⟩, ⟨.a, d, .wr, .one⟩]
  | .chseed _ a => [⟨.a, a, .rd, .g⟩]
  | .tlbinvAll a => [⟨.a, a, .rd, .g⟩]
  | .tlbinvPage a => [⟨.a, a, .rd, .pair⟩]
  | .killctx d a => [⟨.b, a, .rd, .one⟩, ⟨.a, d, .wr, .one⟩]
  | _ => []

/-- The immediate that a trap frame captures, extended to 32 bits (R296). -/
def Instr.imm : Instr → Option Word
  | .iaddiCompact _ i => some (i.signExtend 32)
  | .movi _ i => some (i.signExtend 32)
  | .iaddi _ _ i => some (i.signExtend 32)
  | .andi _ _ i => some (i.signExtend 32)
  | .ori _ _ i => some (i.signExtend 32)
  | .xori _ _ i => some (i.signExtend 32)
  | .shli _ _ n => some ((BitVec.ofNat 9 (n.toNat + 0)).signExtend 32)
  | .shri _ _ n => some ((BitVec.ofNat 9 (n.toNat + 32)).signExtend 32)
  | .sari _ _ n => some ((BitVec.ofNat 9 (n.toNat + 64)).signExtend 32)
  | .rotri _ _ n => some ((BitVec.ofNat 9 (n.toNat + 96)).signExtend 32)
  | .movkl _ i => some (i.setWidth 32)
  | .movkh _ i => some (i.setWidth 32)
  | .icmpi _ _ _ _ i => some (i.signExtend 32)
  | .shflUp _ _ n _ => some (n.setWidth 32)
  | .shflDown _ _ n _ => some (n.setWidth 32)
  | .shflXor _ _ n _ => some (n.setWidth 32)
  | .nbInit _ _ n => some (n.setWidth 32)
  | .trap i => some (i.setWidth 32)
  | _ => none

/-- The lookahead count L (R67); a store ignores its field. -/
def Instr.lookahead : Instr → Nat
  | .fabs _ _ l => l.toNat
  | .fneg _ _ l => l.toNat
  | .frcp _ _ l => l.toNat
  | .frsq _ _ l => l.toNat
  | .fsqrt _ _ l => l.toNat
  | .fexp2 _ _ l => l.toNat
  | .flog2 _ _ l => l.toNat
  | .fsin _ _ l => l.toNat
  | .fcos _ _ l => l.toNat
  | .ftanh _ _ l => l.toNat
  | .ffloor _ _ l => l.toNat
  | .fceil _ _ l => l.toNat
  | .ftrunc _ _ l => l.toNat
  | .frint _ _ l => l.toNat
  | .fclass _ _ l => l.toNat
  | .fsat _ _ l => l.toNat
  | .ld _ _ l _ _ => l.toNat
  | .ldl _ _ l _ _ => l.toNat
  | .atomAdd _ _ l _ => l.toNat
  | .atomAdd64 _ _ l _ => l.toNat
  | .atomMin _ _ l _ => l.toNat
  | .atomMax _ _ l _ => l.toNat
  | .atomAnd _ _ l _ => l.toNat
  | .atomOr _ _ l _ => l.toNat
  | .atomXchg _ _ l _ => l.toNat
  | .atomCas _ _ l _ => l.toNat
  | .atomlAdd _ _ l _ => l.toNat
  | .atomlFadd _ _ l _ => l.toNat
  | .atomlMin _ _ l _ => l.toNat
  | .atomlMax _ _ l _ => l.toNat
  | .atomlXchg _ _ l _ => l.toNat
  | .atomlCas _ _ l _ => l.toNat
  | .atomlFadd2 _ _ l _ => l.toNat
  | .atomlOr _ _ l _ => l.toNat
  | _ => 0

/-- Whether front code executes the instruction (R213). -/
def Instr.frontOk : Instr → Bool
  | .faddCompact _ _ => false
  | .fsubCompact _ _ => false
  | .fmulCompact _ _ => false
  | .fmaxCompact _ _ => false
  | .laneid _ => false
  | .tidx _ => false
  | .shflIdx _ _ _ _ => false
  | .shflUp _ _ _ _ => false
  | .shflDown _ _ _ _ => false
  | .shflXor _ _ _ _ => false
  | .voteAny _ _ _ _ => false
  | .voteAll _ _ _ _ => false
  | .voteBallot _ _ _ _ => false
  | .voteMatch _ _ _ _ => false
  | .voteRadd _ _ _ _ => false
  | .voteRmin _ _ _ _ => false
  | .voteRmax _ _ _ _ => false
  | .voteRfadd _ _ _ _ => false
  | .fadd _ _ _ _ => false
  | .fsub _ _ _ _ => false
  | .fmul _ _ _ _ => false
  | .ffma _ _ _ _ => false
  | .fmin _ _ _ _ => false
  | .fmax _ _ _ _ => false
  | .fabs _ _ _ => false
  | .fneg _ _ _ => false
  | .frcp _ _ _ => false
  | .frsq _ _ _ => false
  | .fsqrt _ _ _ => false
  | .fexp2 _ _ _ => false
  | .flog2 _ _ _ => false
  | .fsin _ _ _ => false
  | .fcos _ _ _ => false
  | .ftanh _ _ _ => false
  | .ffloor _ _ _ => false
  | .fceil _ _ _ => false
  | .ftrunc _ _ _ => false
  | .frint _ _ _ => false
  | .fclass _ _ _ => false
  | .fsat _ _ _ => false
  | .fcmp _ _ _ _ _ => false
  | .cvt _ _ _ _ _ _ => false
  | .cvif _ _ => false
  | .cvnf _ _ => false
  | .cvfi _ _ => false
  | .cvfn _ _ => false
  | .cvhf _ _ _ => false
  | .cvbf _ _ => false
  | .cv8af _ _ => false
  | .cv8bf _ _ => false
  | .dot4 _ _ _ => false
  | .dot2 _ _ _ => false
  | .idiv _ _ _ => false
  | .idivu _ _ _ => false
  | .scmp _ _ _ _ _ => false
  | .pcombAnd _ _ _ _ => false
  | .pcombOr _ _ _ _ => false
  | .pcombNot _ _ => false
  | .pcombXor _ _ _ _ => false
  | .blend _ _ _ _ => false
  | .blendi _ _ _ _ => false
  | .selq _ _ _ _ => false
  | .coll _ _ => false
  | .qset _ _ => false
  | .qget _ _ => false
  | .qfromb _ _ => false
  | .pgrad _ _ _ => false
  | .qhard _ _ => false
  | .nbArr _ _ _ _ => false
  | .nbWait _ _ _ => false
  | .nbArw _ _ _ => false
  | .mxIssueS _ => false
  | .cka _ _ _ => false
  | .ckx _ _ _ _ => false
  | .ckt _ _ _ _ => false
  | .ckz _ => false
  | .rcvSet _ _ => false
  | .rcvWait _ => false
  | .stage _ _ => false
  | .chend => false
  | .rtt => false
  | .succRtt => false
  | .elect _ _ => false
  | .movs _ _ => false
  | .dqpop _ => false
  | .chseed _ _ => false
  | _ => true

/-- Whether thread code executes the instruction: FTWAIT and FTLAUNCH stand in front code only (R213). -/
def Instr.threadOk : Instr → Bool
  | .ftwaitNb _ _ => false
  | .ftwaitDq _ _ => false
  | .ftwaitMx => false
  | .ftwaitRsh => false
  | .ftwaitClk _ => false
  | .ftlaunch _ _ => false
  | _ => true

/-- The segment-form encodings that the TM-940 does not implement (R74). -/
def Instr.unimplemented : Instr → Bool
  | .clz64 _ _ => true
  | .popc64 _ _ => true
  | .idiv _ _ _ => true
  | .idivu _ _ _ => true
  | _ => false

/-- The special registers of R28, the read-only ones, and those that no front code reaches (R222, R223). -/
def sregKnown (i : Nat) : Bool :=
  decide (i ≤ 0x05) || (decide (0x08 ≤ i) && decide (i ≤ 0x0D)) || i == 0x10 || i == 0x11 ||
    (decide (0x18 ≤ i) && decide (i ≤ 0x1A)) || (decide (0x20 ≤ i) && decide (i ≤ 0x22)) || i == 0x28 ||
    (decide (0x30 ≤ i) && decide (i ≤ 0x33)) || i == 0x38 || (decide (0x40 ≤ i) && decide (i ≤ 0x4D))
def sregReadOnly (i : Nat) : Bool :=
  (decide (0x0A ≤ i) && decide (i ≤ 0x0D)) || i == 0x10 || i == 0x11 || (decide (0x20 ≤ i) && decide (i ≤ 0x22)) ||
    i == 0x28 || (decide (0x30 ≤ i) && decide (i ≤ 0x33)) || i == 0x47 || i == 0x4D
def sregNotFront (i : Nat) : Bool :=
  decide (i ≤ 0x02) || (decide (0x08 ≤ i) && decide (i ≤ 0x0D)) || i == 0x20 || i == 0x22 || i == 0x30 || i == 0x31

/-- The special-register index of an SRD or SWR is one that the executing code may name (R28, R222, R223). -/
def Instr.sregOk (front : Bool) : Instr → Bool
  | .srd _ i => sregKnown i.toNat && !(front && sregNotFront i.toNat)
  | .swr _ i => sregKnown i.toNat && !sregReadOnly i.toNat && !(front && sregNotFront i.toNat)
  | _ => true

/-- Instructions that trap PRIVILEGED in a context without privilege (R73, R225). -/
def Instr.privileged : Instr → Bool
  | .srd _ i => decide (0x40 ≤ i.toNat)
  | .swr _ i => decide (0x40 ≤ i.toNat)
  | .tlbinvAll _ => true
  | .tlbinvPage _ => true
  | .tlbinvHeap => true
  | .killctx _ _ => true
  | _ => false

/-- Instructions that wait for every pending result and so meet no LOOKAHEAD conflict (R67). -/
def Instr.exempt : Instr → Bool
  | .shflIdx _ _ _ _ => true
  | .shflUp _ _ _ _ => true
  | .shflDown _ _ _ _ => true
  | .shflXor _ _ _ _ => true
  | .voteAny _ _ _ _ => true
  | .voteAll _ _ _ _ => true
  | .voteBallot _ _ _ _ => true
  | .voteMatch _ _ _ _ => true
  | .voteRadd _ _ _ _ => true
  | .voteRmin _ _ _ _ => true
  | .voteRmax _ _ _ _ => true
  | .voteRfadd _ _ _ _ => true
  | .nbWait _ _ _ => true
  | .nbArw _ _ _ => true
  | .exit => true
  | .rcvWait _ => true
  | .yld _ _ => true
  | .succExit => true
  | .ftwaitNb _ _ => true
  | _ => false

/-- Instructions that first wait for the thread's pending results (R67, R110, R113, R115, R121, R166, R169, R219). DQPUSH
is a group operation in thread code only (R217). -/
def Instr.waits (front : Bool) : Instr → Bool
  | .shflIdx _ _ _ _ => true
  | .shflUp _ _ _ _ => true
  | .shflDown _ _ _ _ => true
  | .shflXor _ _ _ _ => true
  | .voteAny _ _ _ _ => true
  | .voteAll _ _ _ _ => true
  | .voteBallot _ _ _ _ => true
  | .voteMatch _ _ _ _ => true
  | .voteRadd _ _ _ _ => true
  | .voteRmin _ _ _ _ => true
  | .voteRmax _ _ _ _ => true
  | .voteRfadd _ _ _ _ => true
  | .fence _ _ => true
  | .nbArr _ _ _ _ => true
  | .nbWait _ _ _ => true
  | .nbArw _ _ _ => true
  | .ckx _ _ _ _ => true
  | .exit => true
  | .rcvWait _ => true
  | .yld _ _ => true
  | .elect _ _ => true
  | .ftwaitNb _ _ => true
  | .dqpush _ _ => !front
  | .succExit => true
  | _ => false

end Sys2Proof
end

