-- ==== Sys2Proof/Machine/Ops.lean ====
section
/-!
DEFINITION. The shared operations over threads and teams: delivering pending results (R67), TAKING AN EXCEPTION and
returning from one (R124, R294–R300), ending a team (R215, R300), containment and fencing (R302–R304), killing a context
(R305), completion words (R293), and the return stack (R106).
-/

namespace Sys2Proof.Machine

/-- Run the performance of a step outside any thread: on a trap, fault or wait, `none`. -/
def runM {α : Type} (m : M α) (s : State) : Except Stop (α × State) := m s

/-! ### Delivering pending results (R67, R155) -/

/-- The 32-bit or 64-bit values that a load of a size code writes, from its bytes: one per register of a thread, one
whole for a front register (R155, R212). -/
def loadVals (front : Bool) (size : BitVec 3) (bs : List Byte) : List Word64 :=
  let v := leNat bs
  match size.toNat with
  | 0 => [BitVec.ofNat 64 (v % 256)]
  | 1 => [((BitVec.ofNat 8 v).signExtend 32).setWidth 64]
  | 2 => [BitVec.ofNat 64 (v % 65536)]
  | 3 => [((BitVec.ofNat 16 v).signExtend 32).setWidth 64]
  | 4 => [BitVec.ofNat 64 (v % 2 ^ 32)]
  | 5 => if front then [BitVec.ofNat 64 v] else [BitVec.ofNat 64 (v % 2 ^ 32), BitVec.ofNat 64 (v / 2 ^ 32)]
  | _ => [0, 1, 2, 3].map fun j => BitVec.ofNat 64 (v / 2 ^ (32 * j) % 2 ^ 32)

/-- Write values to destination codes, in order. -/
def wrList (l : Lane) : List (BitVec 8) → List Word64 → M Unit
  | c :: cs, v :: vs => do
    match l.who with
    | .front => modFront l.team (·.setReg c.toNat v)
    | .thread _ => wr l c (v.setWidth 32)
    wrList l cs vs
  | _, _ => pure ()

def pendOf (l : Lane) : M (List Pending) :=
  match l.who with
  | .front => do pure (← getFront l.team).pend
  | .thread t => do pure (← getThread l.team t).pend

def setPend (l : Lane) (p : List Pending) : M Unit :=
  match l.who with
  | .front => modFront l.team fun f => { f with pend := p }
  | .thread t => modThread l.team t fun h => { h with pend := p }

/-- A result is written to its destination: an element for an out port in its place (R26), and into the scratchpad that
its window mapped when its instruction issued (R183, R184). -/
def landResult (l : Lane) (p : Pending) (vs : List Word64) : M Unit :=
  match p.dest.map regCode, vs with
  | [.outPort q], [v] => pushPort l q p.place (v.setWidth 32) p.via
  | _, _ => wrList l p.dest vs

/-- The place that a result for a destination takes among the elements of an out port, and where its ring lies. -/
def resultPlace (l : Lane) (dest : List (BitVec 8)) : M (Nat × Option Nat) :=
  match l.who, dest.map regCode with
  | .thread t, [.outPort q] => do
    let T ← getTeam l.team
    pure (T.pushPlace (← getThread l.team t) q, T.ringVia q)
  | _, _ => pure (0, none)

/-- Deliver the results that must have arrived: every one of them, or those whose window is over. A result not there
yet, or an out port with no room, is waited for (R67, R180), and so is an element that an earlier instruction has still to
push, which `owed` tells of (R254). -/
def deliverGo (l : Lane) (all owed : Bool) : List Pending → M (List Pending)
  | [] => pure []
  | p :: ps => do
    if all || p.left == 0 then
      match p.value with
      | .ready vs =>
        if owed && p.owed then hold
        else do
          landResult l p vs
          deliverGo l all owed ps
      | .remote _ => hold
    else
      let rest ← deliverGo l all (owed || p.owed) ps
      pure (p :: rest)

def deliver (l : Lane) (all : Bool) : M Unit := do
  let ps ← pendOf l
  if ps.isEmpty then pure ()
  else
    let rest ← deliverGo l all false ps
    setPend l rest

/-- A result that arrives after `n` instructions of its window (R67): at once when the window is empty. A destination
that cannot take a write traps at the instruction itself (R131, R180). `mem` says that a memory operation gives it. -/
def later (l : Lane) (dest : List (BitVec 8)) (v : PendValue) (n : Nat) (mem : Bool := true) : M Unit := do
  let (place, via) ← resultPlace l dest
  match v, n with
  | .ready vs, 0 =>
    fun s =>
      match wrList l dest vs s with
      | .error .retry => setPend l ((match pendOf l s with
          | .ok (ps, _) => ps
          | .error _ => []) ++ [⟨dest, v, 0, mem, place, via⟩]) s
      | r => r
  -- the instruction that opens the window counts as it completes, so its own tick is added here
  | _, _ => do
    dest.forM (destOk l)
    setPend l ((← pendOf l) ++ [⟨dest, v, n + 1, mem, place, via⟩])

/-! ### The return stack (R106, R212) -/

/-- Where a thread spills return-stack entry j: thread t below 64 (t + 1), the front thread below its highest. -/
def spillAddr (T : Team) (who : Who) (j : Nat) : Int :=
  let t := match who with
    | .thread t => t
    | .front => T.width * (T.producers + T.consumers)
  (T.size : Int) - 64 * (t + 1) + 8 * j

def stackOf (l : Lane) : M (List Word64 × Nat) :=
  match l.who with
  | .front => do let f ← getFront l.team; pure (f.rs, f.spill)
  | .thread t => do let h ← getThread l.team t; pure (h.rs, h.spill)

def setStack (l : Lane) (rs : List Word64) (spill : Nat) : M Unit :=
  match l.who with
  | .front => modFront l.team fun f => { f with rs := rs, spill := spill }
  | .thread t => modThread l.team t fun h => { h with rs := rs, spill := spill }

/-- A spill address below 0 or at or above S traps PROTECTION with that address. -/
def spillPlace (l : Lane) (j : Nat) : M Nat := do
  let T ← getTeam l.team
  let a := spillAddr T l.who j
  check (decide (0 ≤ a) && decide (a < T.size)) Cause.protection (BitVec.ofInt 64 a)
  pure a.toNat

/-- PUSH (R106): a spill is a local store like STL's (R252, R254). -/
def pushReturn (l : Lane) (v : Word64) : M Unit := do
  let (rs, spill) ← stackOf l
  check (rs.length + spill != 16) Cause.illegal
  if rs.length = 8 then
    let a ← spillPlace l spill
    rcFirst l.team ((← getTeam l.team).origin l.who)
    storeLocal l.team ⟨l.team, a, false⟩ (leBytes 8 (rs.headD 0).toNat)
    setStack l (rs.drop 1 ++ [v]) (spill + 1)
  else setStack l (rs ++ [v]) spill

/-- POP (R106). -/
def popReturn (l : Lane) : M Word64 := do
  let (rs, spill) ← stackOf l
  check (rs.length + spill != 0) Cause.illegal
  let v := rs.getLastD 0
  if 0 < spill then
    let a ← spillPlace l (spill - 1)
    let bs ← readLocal ⟨l.team, a, false⟩ a 8
    setStack l (BitVec.ofNat 64 (leNat bs) :: rs.dropLast) (spill - 1)
  else setStack l rs.dropLast spill
  pure v

/-! ### Fault records of events (R301) -/

/-- Core within its cluster, cluster, die (R301 type 2). -/
def coreCode (c : Nat) : Nat := c % 16 + c / 16 % 64 * 2 ^ 8 + c / 192 * 2 ^ 14

/-- The last sixteen bytes of most details: thread id and linear TEAMIX, then the core. -/
def whereBytes (T : Team) (who : Who) : List Byte :=
  let t := match who with
    | .thread t => t
    | .front => 0xFFFF
  leBytes 8 (t % 2 ^ 16 + T.ix % 2 ^ 32 * 2 ^ 16) ++ leBytes 8 (coreCode T.core)

def detail (b24 b25 : Nat) (tinst : Word) (pc addr : Word64) (tail : List Byte) : List Byte :=
  [BitVec.ofNat 8 b24, BitVec.ofNat 8 b25, 0, 0] ++ leBytes 4 tinst.toNat ++ leBytes 8 pc.toNat
    ++ leBytes 8 addr.toNat ++ tail

/-- A remote failure that no system FENCE has reported when its thread has ended (R166, R301). -/
def State.reportLost (s : State) (team : Nat) (who : Who) : State :=
  match s.team? team with
  | none => s
  | some T =>
    let lost (addr : Word64) : State :=
      s.report T.ctx { type := 3, detail := detail Cause.remoteAccess.toNat 0 0 0 addr (whereBytes T who),
                       launch := some T.launch }
    match who with
    | .front =>
      match T.front with
      | some f =>
        match f.ended, f.remoteFail with
        | true, some a => (lost a).modFront team fun f => { f with remoteFail := none }
        | _, _ => s
      | none => s
    | .thread t =>
      match T.thread? t with
      | some h =>
        match h.ended, h.remoteFail with
        | true, some a => (lost a).modThread team t fun h => { h with remoteFail := none }
        | _, _ => s
      | none => s

/-! ### Ending a team by a fault (R300) -/

/-- The team stops: every thread and the front thread stop issuing; its engines come to rest and TEAM_END follows, which
commits its porch and writes the record of the fault. -/
def State.endByFault (s : State) (team : Nat) (who : Who) (cause : BitVec 8) (word : Word) (pc addr : Word64) : State :=
  match s.team? team with
  | some T =>
    if T.dying || T.status == .ended then s
    else
      let agent := match who with
        | .thread _ => 0
        | .front => 1
      let r : Report :=
        { type := 2, detail := detail cause.toNat agent word pc addr (whereBytes T who), launch := some T.launch }
      s.setTeam team { T with dying := true, fault := some r }
  | none => s

/-! ### Leaving a wing (R184) -/

/-- Revoke the team's windows and every window of a peer that maps it. -/
def State.revokeWindows (s : State) (team : Nat) : State :=
  let revoke (e : Nat × Team) : Nat × Team :=
    let f (w : Nat × Window) : Nat × Window :=
      if e.1 = team ∨ w.2 = .mapped team then (w.1, Window.revoked) else w
    (e.1, { e.2 with windows := e.2.windows.map f })
  { s with teams := s.teams.map revoke }

/-- Elements still to be pushed into the scratchpad of a team that is no more go nowhere: what is left of them bars
registers only. -/
def State.dropInto (s : State) (team : Nat) : State :=
  let drop (p : Pending) : Pending := if p.via = some team then { p with value := .ready [], via := none } else p
  let purge (h : Thread) : Thread :=
    { h with pend := (h.pend.map drop).filter fun p => p.value != .ready [] || decide (0 < p.left) }
  { s with teams := s.teams.map fun (e : Nat × Team) =>
      (e.1, { e.2 with threads := e.2.threads.map fun (x : Nat × Thread) => (x.1, purge x.2) }) }

/-- The team leaves its wing: its windows and every window that maps it are revoked, and its member index is free. -/
def State.quitWing (s : State) (team : Nat) : State :=
  match s.team? team with
  | some T => if T.wing.isNone then s else (s.revokeWindows team).modTeam team fun T => { T with wing := none }
  | none => s

/-- The same of a team that is no more, or is created again: elements that are still on their way into its scratchpad have
none to go to (DESIGN CHOICE, log entry 59). -/
def State.leaveWing (s : State) (team : Nat) : State := (s.quitWing team).dropInto team

/-! ### Completion words (R293) -/

/-- System software has assigned vectors to a completion word, which has been written (R330). -/
def State.completionInterrupt (s : State) (ctx : Nat) (done : Word64) : State :=
  { s with msix := s.msix ++ (s.doneVectors.filter fun v => v.1 == ctx && v.2.1 == done).map (·.2.2) }

/-- A word of memory that `n` bytes at a physical address touch is uncorrectable. -/
def State.badIn (s : State) (pa n : Nat) : Bool := s.badMem.any fun a => decide (a < pa + n) && decide (pa < a + 4)

/-- A completion word has not been written: a type 6 record names the cause and the word's address (R301). -/
def State.completionLost (s : State) (ctx agent : Nat) (cause : BitVec 8) (done : Word64) : State :=
  s.report ctx { type := 6, detail := detail cause.toNat agent 0 0 done [], launch := none }

/-- A part of a completion word lies in a word that cannot be written. -/
def State.partBad (s : State) (p : Part) : Bool :=
  match p.target with
  | .phys pa => s.badIn pa p.len
  | .remote _ => false

/-- Store the bytes of a completion word part by part, since a misaligned one, of a descriptor that is refused for it, may
cross a page (R157, R317); what lies on this device is performed at once. -/
def State.storeCompletion (s : State) (ctx launch agent : Nat) : List Part → List Byte → State
  | [], _ => s
  | p :: ps, bs =>
    let mine := bs.take p.len
    let s := match p.target with
      | .phys pa => s.writePhys pa mine 0
      | .remote dev =>
        s.request ctx 0 agent launch 0 { who := .front, beat := none, op := none } dev (BitVec.ofNat 64 p.va) (.store mine)
    s.storeCompletion ctx launch agent ps (bs.drop p.len)

/-- Write a completion word as a system-scope store of a context: nothing is written, and a type 6 record names the
cause, when it cannot be performed. `agent` is 5 for a launch and 6 for a collective (R301). -/
def State.writeCompletion (s : State) (ctx launch : Nat) (agent : Nat) (done : Word64) (v : Nat) : State :=
  if done = 0 then s
  else
    match runM (checkGlobal ctx done.toNat 8 ⟨false, true, false⟩ accStore) s with
    | .ok (ps, s') =>
      if ps.any s'.partBad then s'.completionLost ctx agent Cause.uncorrectable done
      else
        let s' := s'.storeCompletion ctx launch agent ps (leBytes 8 v)
        if (ps.take 1).any Part.isRemote then s' else s'.completionInterrupt ctx done
    | .error (.trap c _) => s.completionLost ctx agent c done
    | .error (.page _ _) => s.completionLost ctx agent Cause.translation done
    | .error _ => s

/-! ### Killing a context (R305) -/

/-- Steps 1 to 4 of a kill: teams stop, engines and porches are dropped, launches report status 4, the id is fenced.
The pending stores of the context are dropped at the memory controllers. -/
def State.killContext (s : State) (ctx : Nat) : State :=
  let stopped (e : Nat × Team) : Nat × Team :=
    if e.2.ctx = ctx && e.2.status != .ended then
      (e.1, { e.2 with status := .ended, porch := [], porchSlot := none, copies := [],
                       mx := { e.2.mx with queue := [] }, rsh := { e.2.rsh with state := 0 } })
    else e
  let victims := (s.teams.filter (fun e => e.2.ctx == ctx && e.2.status != .ended)).map (·.1)
  let s := victims.foldl (fun s t => s.leaveWing t) s
  let s := { s with teams := s.teams.map stopped }
  let open_ := s.launches.filter (fun e => e.2.ctx == ctx && !e.2.complete)
  let s := open_.foldl (fun s e =>
    let clk := match e.2.t0 with
      | some t => s.clock - t
      | none => 0
    let s := s.writeCompletion ctx e.1 5 e.2.record.done (4 + clk % 2 ^ 56 * 256)
    { s with launches := SMap.modify e.1 (fun L => { L with complete := true }) s.launches }) s
  -- its members of collectives fail (R322)
  let s := (s.collectives.filter fun e => e.2.ctx == ctx).foldl (fun s e =>
    s.writeCompletion ctx 0 6 (BitVec.ofNat 64 (fieldN e.2.desc 48 8)) (4 + if e.2.nonfinite then 256 else 0)) s
  let x := s.ctx ctx
  { s.setCtx ctx { x with live := false } with
      stores := s.stores.filter (fun w => w.ctx != ctx),
      devQueue := s.devQueue.filter (fun e => e.ctx != ctx),
      collectives := s.collectives.filter (fun e => e.2.ctx != ctx),
      -- a context that is made under the same id later is another one (R336)
      xlats := s.xlats.filter (fun e => e.2.ctx != ctx),
      fencedCtxs := if s.fencedCtxs.contains ctx then s.fencedCtxs else s.fencedCtxs ++ [ctx] }

/-- A kill started by a context: KILLSTAT of the issuing context says so until kill-complete (R28, R305). DESIGN CHOICE (log
entry 84): [13:2] takes the new id, and [1] is cleared, as the kill starts. -/
def State.startKill (s : State) (issuer ctx : Nat) : State :=
  let x := s.ctx issuer
  let s := s.setCtx issuer
    { x with killBusy := true, killDone := false, killLast := BitVec.ofNat 12 ctx }
  let s := s.killContext ctx
  let y := s.ctx ctx
  s.setCtx ctx { y with killedBy := y.killedBy ++ [issuer] }

/-! ### Containment and fencing (R303, R304) -/

def State.report5 (s : State) (T : Team) (who : Who) (event : Nat) (cause : BitVec 8) (addr : Word64) : State :=
  s.report T.ctx { type := 5, detail := detail event cause.toNat 0 0 addr (whereBytes T who), launch := none }

/-- What met a failure: the team, its agent, the instruction word and the PC. -/
structure Met where
  team : Nat
  who : Who
  word : Word
  pc : Word64
  deriving DecidableEq, Repr

/-- Contain a team (R303): a revocable one is created again, at most three times; an irrevocable one has its context
killed. This holds also while the engines of a team that a fault has ended run on. A team that waits for its first start
has nothing that runs, and one that the fence of its core has just created again is contained already. -/
def State.contain (s : State) (m : Met) (cause : BitVec 8) (addr : Word64) : State :=
  match s.team? m.team with
  | some T =>
    if T.status == .ended || T.status == .waiting then s
    else if T.revocable then
      if T.relaunches < 3 then
        let s := (s.leaveWing m.team).report5 T m.who 1 cause addr
        s.setTeam m.team (T.recreate s)
      else s.endByFault m.team m.who cause m.word m.pc addr
    else s.killContext T.ctx
  | none => s

/-- Teams resident on a core. -/
def State.residents (s : State) (core : Nat) : List (Nat × Team) :=
  s.teams.filter (fun e => e.2.core == core && (e.2.status == .resident || e.2.status == .resting))

def State.coreFenced (s : State) (c : Nat) : Bool := (s.core c).fenced

/-- The context that gets the record of a fencing which no team met (log entry 36): the lowest live privileged one, else
the lowest live one. -/
def State.spareCtx (s : State) : Option Nat :=
  let live := s.ctxs.filter fun e => e.2.live
  ((live.find? fun e => e.2.privileged).or live.head?).map (·.1)

/-- The one record of a fencing (R304): for the team that met the failure or is resident there, else for the context that
such records go to. -/
def State.reportFence (s : State) (T : Option Team) (core : Nat) (who : Who) (event : Nat) (cause : BitVec 8)
    (addr : Word64) : State :=
  match T with
  | some T => s.report5 { T with core := core } who event cause addr
  | none =>
    match s.spareCtx with
    | some c =>
      s.report c { type := 5, launch := none,
                   detail := detail event cause.toNat 0 0 addr (leBytes 8 0xFFFF ++ leBytes 8 (coreCode core)) }
    | none => s

/-- The agent that a failure's records name for a team: the one that met it. DESIGN CHOICE (log entry 82): a team that is
contained because its core or cluster is fenced, and that met no failure itself, is named by thread 0. -/
def metBy (m : Option Met) (team : Nat) : Met :=
  match m with
  | some x => if x.team = team then x else ⟨team, .thread 0, 0, 0⟩
  | none => ⟨team, .thread 0, 0, 0⟩

/-- The team to name in the record of a fencing, and its agent: the one that met the failure, else one of those
resident. -/
def State.witness (s : State) (m : Option Met) (hit : List (Nat × Team)) : Option Team × Who :=
  ((m.bind fun x => s.team? x.team).or (hit.head?.map (·.2)), (m.map (·.who)).getD (.thread 0))

/-- Contain teams, of which one may have met the failure itself. -/
def State.containAll (s : State) (m : Option Met) (hit : List (Nat × Team)) (cause : BitVec 8) (addr : Word64) : State :=
  hit.foldl (fun s e => s.contain (metBy m e.1) cause addr) s

/-- Fence the cluster of a core (R304): no placement, and its teams are contained. -/
def State.fenceCluster (s : State) (m : Option Met) (core : Nat) (cause : BitVec 8) (addr : Word64) : State :=
  let cluster := core / 16
  if s.fencedClusters.contains cluster then s
  else
    let hit := s.teams.filter fun e =>
      (e.2.status == .resident || e.2.status == .resting) && e.2.core / 16 == cluster
    let w := s.witness m hit
    let s := { s with fencedClusters := s.fencedClusters ++ [cluster] }
    (s.reportFence w.1 core w.2 4 cause addr).containAll m hit cause addr

/-- Fence a core and, when it is the second of its cluster, the cluster (R271, R304); their teams are contained. -/
def State.fenceCore (s : State) (m : Option Met) (core : Nat) (cause : BitVec 8) (addr : Word64) : State :=
  if s.coreFenced core then s
  else
    let hit := s.residents core
    let w := s.witness m hit
    let s := (s.setCore core { s.core core with fenced := true }).reportFence w.1 core w.2 3 cause addr
    let second := (List.range 16).any fun j =>
      (core / 16 * 16 + j != core) && s.coreFenced (core / 16 * 16 + j)
    let s := s.containAll m hit cause addr
    if second then s.fenceCluster m core cause addr else s

/-- What a RECONSTRUCTION fault in a byte of a scratchpad does to its core (R270, R271, R304): the failing word's bank
is to be retired; in a degraded group an uncorrectable data word outside the retired bank fences the core, and an
uncorrectable parity word counts against its bank. -/
def State.failPlace (s : State) (m : Met) (l : Local) (addr : Word64) : State :=
  match s.team? m.team, s.team? l.team with
  | some T, some P =>
    let w := (P.base + l.off) / 4
    let c := s.core P.core
    match c.retiredBank? w with
    | none =>
      let c := if c.stale w then c else c.foundParity (parityKey w)
      (s.setCore P.core (c.askRetire (bankOf w))).report5 T m.who 2 Cause.reconstruction addr
    | some b =>
      let rebuilt := b == bankOf w
      let s := if rebuilt then s.setCore P.core (c.foundParity (parityKey w)) else s
      if !rebuilt || (rowMates w).any c.dataBad then s.fenceCore (some m) P.core Cause.reconstruction addr
      else s
  | _, _ => s

/-- A team consumes UNCORRECTABLE or RECONSTRUCTION, in a thread or in an engine (R303, R304); `place` is the scratchpad
word that could not be reconstructed. -/
def State.consume (s : State) (team : Nat) (who : Who) (cause : BitVec 8) (word : Word) (pc addr : Word64)
    (place : Option Local := none) : State :=
  let m : Met := ⟨team, who, word, pc⟩
  let s := match place with
    | some l => s.failPlace m l addr
    | none => s
  s.contain m cause addr

/-! ### Taking an exception (R295–R298) -/

/-- A field that a frame captures: its value, laid out in eight bytes (R296). A member mask of one or two registers is
captured as a register or a pair. -/
def captureFld (h : Thread) (budget width : Nat) (f : Fld) : Option (List Byte) :=
  let n := f.code.toNat
  let one := if n < budget ∧ n < 220 then some (leBytes 4 (h.reg n).toNat ++ leBytes 4 0) else none
  let two :=
    if n + 1 < budget ∧ n + 1 < 220 then some (leBytes 4 (h.reg n).toNat ++ leBytes 4 (h.reg (n + 1)).toNat) else none
  match f.shape with
  | .quad => none
  | .pair | .pair2 => two
  | .mask => if maskWords width = 1 then one else if maskWords width = 2 then two else none
  | .one | .g => one

/-- The field captured at a frame position: a and b whatever the instruction does with them, d where it reads it. -/
def captureAt (h : Thread) (budget width : Nat) (i : Option Instr) (slot : Slot) : Option (List Byte) :=
  match i with
  | some i =>
    (i.flds.find? (fun f => f.slot == slot && (slot != .d || f.use != .wr))).bind (captureFld h budget width)
  | none => none

/-- The frame slot's 32 bytes and TMASK[3:0] (R296). -/
def frameOf (h : Thread) (budget width : Nat) (i : Option Instr) : List Byte × Nat :=
  let z := List.replicate 8 0#8
  let a := captureAt h budget width i .a
  let b := captureAt h budget width i .b
  let d := captureAt h budget width i .d
  let m := i.bind Instr.imm
  (a.getD z ++ b.getD z ++ d.getD z ++ leBytes 4 (m.getD 0).toNat ++ leBytes 4 0,
    (if a.isSome then 1 else 0) + (if b.isSome then 2 else 0) + (if d.isSome then 4 else 0)
      + if m.isSome then 8 else 0)

/-- A destination of more than one register: a pair, a quad, or the mask of a group wider than 32 (R72, R295). -/
def Fld.wide (f : Fld) (width : Nat) : Bool :=
  match f.shape with
  | .pair | .pair2 | .quad => true
  | .mask => decide (1 < maskWords width)
  | .one | .g => false

/-- TMASK[16:4]: the instruction's own lookahead count, its destination's code, and whether that is a pair or quad
(R295). -/
def tmaskHigh (width : Nat) (i : Option Instr) : Nat :=
  match i with
  | none => 0
  | some i =>
    let dst := match i.flds.find? (fun f => f.use != .rd && isG f.code) with
      | some f => f.code.toNat * 2 ^ 8 + if f.wide width then 2 ^ 16 else 0
      | none => 0
    i.lookahead * 2 ^ 4 + dst

/-- Word n of the launch's trap table; 0 where the launch has none (R297). -/
def State.trapWord (s : State) (T : Team) (n : Nat) : Word :=
  match SMap.find? T.launch s.launches with
  | some L => L.ttab.getD n 0
  | none => 0

/-- The address that handler and entry offsets count from. -/
def State.bodyBase (s : State) (T : Team) : Word64 :=
  match SMap.find? T.launch s.launches with
  | some L => L.body
  | none => 0

/-- The team's launch has operand frames (R296, R297). -/
def State.framed (s : State) (T : Team) : Bool :=
  s.trapWord T 0 != 0xFFFFFFFF && (SMap.find? T.launch s.launches).any fun L => !L.ttab.isEmpty

/-- ENTER (R298), once the thread's pending results have arrived: the frame registers (R295), the captured operands
(R296), and the PC at the handler; or the team is ended or contained. -/
def State.enter (s : State) (team t : Nat) (r : TrapReq) : State :=
  match s.team? team with
  | none => s
  | some T =>
    match T.thread? t, T.group? (T.groupIx t) with
    | some h, some G =>
      if r.cause = Cause.reconstruction ∨ r.cause = Cause.uncorrectable then
        s.consume team (.thread t) r.cause r.word h.pc r.addr
      else if h.tcause.getLsbD 8 ∨ Cause.never r.cause then s.endByFault team (.thread t) r.cause r.word h.pc r.addr
      else
        let f := s.trapWord T 0
        let framed := s.framed T
        let (bytes, mask) := frameOf h G.budget T.width r.instr
        let slot := f.toNat + 32 * t
        let h := { h with tpc := r.tpc.setWidth 32, tcause := 0x100 ||| r.cause.setWidth 32, tinst := r.word,
                          taddr := r.addr,
                          tmask := BitVec.ofNat 32 (tmaskHigh T.width r.instr + if framed then mask else 0),
                          trap := none, wait := none }
        let s := s.setThread team t h
        if framed && decide (T.size < slot + 32) then s.endByFault team (.thread t) r.cause r.word h.pc r.addr
        else
          let s := if framed then s.writeLocal ⟨team, slot, false⟩ bytes else s
          let hd := s.trapWord T r.cause.toNat
          if hd = 0 then s.endByFault team (.thread t) r.cause r.word h.pc r.addr
          else
            let target := (s.bodyBase T + hd.setWidth 64).setWidth 32
            s.setThread team t { h with pc := h.pc.extractLsb' 32 32 ++ target }
    | _, _ => s

/-- The program counter of a lane. -/
def State.pcAt (s : State) (l : Lane) : Word64 :=
  match l.who with
  | .thread t => ((s.thread? l.team t).map (·.pc)).getD 0
  | .front => (((s.team? l.team).bind (·.front)).map (·.pc)).getD 0

/-- The frame of a thread's trap lies in words that its core admits no access to as yet (R270, R271, R296). -/
def State.frameHeld (s : State) (team t : Nat) : Bool :=
  match s.team? team with
  | some T =>
    let slot := (s.trapWord T 0).toNat + 32 * t
    s.framed T && decide (slot + 32 ≤ T.size) && s.localHeld ⟨team, slot, false⟩ 32
  | none => false

/-- Take a trap: when the thread's results have all arrived they are written and the handler is entered; else the trap
waits for TRAP_ENTRY (R67, R298). Consumption of an uncorrectable word waits for nothing (R303), be it met in the
delivery itself. -/
def State.takeTrap (s : State) (team t : Nat) (r : TrapReq) : State :=
  let s := s.modThread team t fun h => { h with wait := none, places := [] }
  if r.cause = Cause.reconstruction ∨ r.cause = Cause.uncorrectable then s.enter team t r
  else if !Cause.never r.cause && s.frameHeld team t then s.modThread team t fun h => { h with trap := some r }
  else
    match runM (deliver ⟨team, .thread t⟩ true) s with
    | .ok (_, s') => s'.enter team t r
    | .error (.trap cause addr) => s.enter team t { r with cause := cause, addr := addr }
    | .error (.lost l addr) => s.consume team (.thread t) Cause.reconstruction r.word (s.pcAt ⟨team, .thread t⟩) addr (some l)
    | .error _ => s.modThread team t fun h => { h with trap := some r }

/-- Return from exception (R124): the target RTT resumes at, with TCAUSE[8] cleared. -/
def rttThread (team t : Nat) : M Word64 := do
  let h ← getThread team t
  check (h.tcause.getLsbD 8) Cause.illegal
  modThread team t fun h => { h with tcause := h.tcause &&& 0xFF }
  pure (h.pc.extractLsb' 32 32 ++ h.tpc)

/-! ### Threads that issue again -/

/-- What the thread waits for, when it issues its instruction again. -/
def waitOf (ln : Lane) : M (Option Wait) :=
  match ln.who with
  | .front => do pure (← getFront ln.team).wait
  | .thread t => do pure (← getThread ln.team t).wait

/-- A thread that was let go from a barrier that broke traps, whatever has become of the barrier since (R172). -/
def letGo (ln : Lane) : M Unit := do
  match ← waitOf ln with
  | some (.broken x) => trap Cause.barrierBroken x
  | _ => pure ()

end Sys2Proof.Machine
end

