-- ==== Sys2Proof/Machine/Issue.lean ====
section
/-!
DEFINITION. One issue of an instruction to the threads of a bundle or to the front thread (R8, R285): the watchdog
(R122), the decode-time checks in their order (R75), pending results (R67), the instruction's own effect, and what
follows: the PC, the counts, a trap, a sleep on a fault record, or a wait.
-/

namespace Sys2Proof.Machine

open Host (Outcome)

/-- What the instruction leaves the PC at: the next instruction, or a target. -/
abbrev Next := Option Word64

/-! ### Register-field checks (R14, R25, R27, R72, R212) -/

/-- Registers a field names, for conflicts with a pending destination (R67). -/
def fldCodes (front : Bool) (width : Nat) (f : Fld) : List Nat :=
  let n := f.code.toNat
  if front then [n]
  else
    match f.shape with
    | .one | .g => [n]
    | .pair | .pair2 => [n, n + 1]
    | .quad => [n, n + 1, n + 2, n + 3]
    | .mask => (List.range (maskWords width)).map (n + ·)

/-- A field of thread code is one that R25 and R14 admit. -/
def fldOk (T : Team) (G : Group) (f : Fld) : Bool :=
  let n := f.code.toNat
  match f.shape with
  | .pair | .pair2 => decide (n % 2 = 0) && decide (n < 220) && decide (n + 1 < G.budget)
  | .quad => decide (n % 4 = 0) && decide (n < 220) && decide (n + 3 < G.budget)
  | .g => decide (n < 220) && decide (n < G.budget)
  | .mask =>
    let k := maskWords T.width
    decide (n % k = 0) && decide (n < 220) && decide (n + k - 1 < G.budget)
  | .one =>
    match regCode f.code with
    | .g m => decide (m < G.budget)
    | .inPort p => f.use == .rd && (T.ring? false p).isSome
    | .outPort p => f.use == .wr && (T.ring? true p).isSome
    | .window _ d => f.use != .rw && G.beat.isSome && (f.use == .rd || d == 0)

/-- A field of front code names f0–f63, and no quad (R27, R212). -/
def fldOkFront (f : Fld) : Bool := decide (f.code.toNat < 64) && f.shape != .quad

/-- The s register that a group operation's mask begins at (R114). -/
def maskStart : Instr → Option Nat
  | .shflIdx s _ _ _ | .shflUp s _ _ _ | .shflDown s _ _ _ | .shflXor s _ _ _ => some s.toNat
  | .voteAny s _ _ _ | .voteAll s _ _ _ | .voteBallot s _ _ _ | .voteMatch s _ _ _ => some s.toNat
  | .voteRadd s _ _ _ | .voteRmin s _ _ _ | .voteRmax s _ _ _ | .voteRfadd s _ _ _ => some s.toNat
  | .ckx s _ _ _ => some s.toNat
  | .rcvSet s _ => some s.toNat
  | .elect s _ => some s.toNat
  | _ => none

/-- Every register field of the instruction is one the executing thread may name. -/
def regsOk (T : Team) (l : Lane) (i : Instr) : Bool :=
  match l.who with
  | .front => i.flds.all fldOkFront
  | .thread t =>
    match T.group? (T.groupIx t) with
    | some G =>
      i.flds.all (fldOk T G) &&
        match maskStart i with
        | some sm => decide (sm % maskWords T.width = 0)
        | none => true
    | none => false

/-- An instruction of a window names a register of a pending destination (R67). -/
def conflicts (T : Team) (l : Lane) (i : Instr) (ps : List Pending) : Bool :=
  let front := match l.who with
    | .front => true
    | .thread _ => false
  ps.any fun p => decide (0 < p.left) &&
    i.flds.any fun f => (fldCodes front T.width f).any fun c => p.dest.any fun d => d.toNat == c

/-- What the descriptor of CPY.G2L or CPY.L2G at a scratchpad offset holds, where it can be read (R174, R175). -/
def State.boxSeen (s : State) (team at_ : Nat) : List Byte :=
  match s.team? team, readLocal ⟨team, at_, false⟩ at_ 64 s with
  | some T, .ok (d, _) => if at_ % 64 = 0 ∧ at_ + 64 ≤ T.size then d else []
  | _, _ => []

/-- The f registers that CPY.G2L or CPY.L2G of the front thread reads as coordinates (R213). -/
def State.coordRegs (s : State) (l : Lane) (i : Instr) : List Nat :=
  let regs (sc : BitVec 5) (c : BitVec 8) : List Nat :=
    match l.who, (s.team? l.team).bind (·.front) with
    | .front, some f =>
      let d := s.boxSeen l.team ((f.reg c.toNat).extractLsb' 0 18).toNat
      if d.isEmpty then [] else (List.range (fieldN d 8 1)).map (sc.toNat + ·)
    | _, _ => []
  match i with
  | .cpyG2l sc _ c | .cpyL2g sc _ c => regs sc c
  | _ => []

/-- A coordinate lies in a register of a pending destination (R67, R213). -/
def State.coordConflict (s : State) (l : Lane) (i : Instr) (ps : List Pending) : Bool :=
  ps.any fun p => decide (0 < p.left) && (s.coordRegs l i).any fun c => p.dest.any fun d => d.toNat == c

/-- The decode-time checks in the order of R75, items 2 to 6. DESIGN CHOICE (log entry 66): a CHSEED outside beat 0 whose
operand codes or lookahead break a rule is stopped by these checks first and by R134's ILLEGAL after them. -/
def decodeChecks (l : Lane) (i : Instr) : M Unit := do
  let s ← get
  let T ← getTeam l.team
  check (match l.who with
    | .front => i.frontOk
    | .thread _ => i.threadOk) Cause.illegal
  check (regsOk T l i && i.sregOk (match l.who with
    | .front => true
    | .thread _ => false)) Cause.illegalRegister
  check (!i.unimplemented) Cause.unimplemented
  check (!i.privileged || (s.ctx T.ctx).privileged) Cause.privileged
  let ps ← pendOf l
  check (i.exempt || !(conflicts T l i ps || s.coordConflict l i ps)) Cause.lookahead

/-! ### Completing and stopping -/

/-- The instruction has completed: PC, watchdog count and windows (R122, R67). -/
def complete (l : Lane) (len : Nat) (next : Next) : M Unit :=
  match l.who with
  | .thread t => modThread l.team t fun h =>
      let h := h.advance len
      match next with
      | some pc => { h with pc := pc }
      | none => h
  | .front => modFront l.team fun f =>
      { f with pc := next.getD (f.pc + BitVec.ofNat 64 len), wait := none, pend := f.pend.map Pending.tick }

/-- The instruction pushes onto a ring that lies in a wing window: a release of wing scope (R180, R258). -/
def pushesWindow (T : Team) (i : Instr) : Bool :=
  i.flds.any fun f => f.use == .wr &&
    match regCode f.code with
    | .outPort p => (T.ring? true p).any (·.window)
    | _ => false

/-- The release before such a push; a push into a revoked window traps before it (R180, R260). -/
def releaseFirst (l : Lane) (i : Instr) : M Unit := do
  let T ← getTeam l.team
  match l.who with
  | .thread _ =>
    if pushesWindow T i then do
      (i.flds.filter fun f => f.use == .wr).forM fun f => destOk l f.code
      drain l.team
    else pure ()
  | .front => pure ()

/-- The in ports that the fields of an instruction read, in the order of their reads (R26). -/
def portReads (i : Instr) : List Bool :=
  i.flds.filterMap fun f =>
    match f.use, regCode f.code with
    | .rd, .inPort p => some p
    | _, _ => none

/-- The out ports that the fields of an instruction write. -/
def portWrites (i : Instr) : List Bool :=
  i.flds.filterMap fun f =>
    match f.use, regCode f.code with
    | .wr, .outPort p => some p
    | _, _ => none

/-- A wait in which an instruction has taken its operands already, so that it takes none when it issues again. -/
def Wait.operandsTaken : Option Wait → Bool
  | some (.kill _) | some (.mx _) | some (.push _ _) | some (.leave _) => true
  | _ => false

/-- The barrier that an instruction names: k, or the value of s[k], which must be 0 to 15 (R169). -/
def barrier (ln : Lane) (k : BitVec 4) (indirect : Bool) : M Nat := do
  if indirect then
    let v ← rdS ln k.toNat
    check (decide (v.toNat ≤ 15)) Cause.barrierMisuse
    pure v.toNat
  else pure k.toNat

/-- The same for every instruction but NB.INIT: a broken barrier traps (R169). -/
def whole (ln : Lane) (k : BitVec 4) (indirect : Bool) : M Nat := do
  let k ← barrier ln k indirect
  let T ← getTeam ln.team
  check (!(T.nb k).broken) Cause.barrierBroken (T.nb k).badAddr
  pure k

/-- The checks of a named-barrier instruction that stand before its operand's read, or before the release of the push that
its result is, so that a broken barrier, or having been let go from one, traps whatever the port of the operand holds (R169,
R172). -/
def barrierFirst (l : Lane) : Instr → M Unit
  | .nbExpect k i _ | .nbTest k i _ _ | .nbArr k i _ _ => discard (whole l k i)
  | .nbWait k i _ => do
    letGo l
    discard (whole l k i)
  | _ => pure ()

/-- The check of a group operation's mask, which stands before its waits (R115). -/
def maskFirst (l : Lane) (i : Instr) : M Unit :=
  match l.who, i, maskStart i with
  | _, .rcvSet _ _, _ => pure ()
  | .thread t, _, some sm => do
    let T ← getTeam l.team
    let G ← getGroup l.team t
    check ((G.mask T.width sm).getLsbD (T.index t)) Cause.memberMask
  | _, _, _ => pure ()

/-- A register code of a chain's window will stop the instruction, whatever it waits for before that: a w register of its
own beat that it has written already, or a distance beyond the chain's (R131). -/
def State.windowStops (s : State) (l : Lane) (i : Instr) : Bool :=
  match l.who, s.team? l.team with
  | .thread t, some T =>
    match T.chain, T.thread? t with
    | some C, some h =>
      i.flds.any fun f =>
        match f.shape, regCode f.code with
        | .one, .window k d =>
          if f.use = .wr then h.written.getLsbD k
          else (d != 0 || !h.written.getLsbD k) && decide (C.delta < max d 1)
        | _, _ => false
    | _, _ => false
  | _, _ => false

/-- A wait of an instruction that a window code will stop: it leaves nothing behind, since that trap is to have no effect
(R131). -/
def unkept {α : Type} (m : M α) : M α := fun s =>
  match m s with
  | .error (.hold _) => .error .retry
  | r => r

/-- Something may keep the instruction between its decode-time checks and its own effect: results that are due, elements
that it reads of in ports, or the release before a push into a window. -/
def mayPause (l : Lane) (i : Instr) : M Bool := do
  let ps ← pendOf l
  pure (!ps.isEmpty || !(portReads i).isEmpty || pushesWindow (← getTeam l.team) i)

/-- What comes before an instruction's own effect: the decode-time checks (R75), a group operation's mask (R115), the results
that are due (R67), a barrier's state (R169), the release before a push (R180), and the elements that its reads of in ports
take (R26). DESIGN CHOICE (log entry 85): while it waits for the results or for the release it has no place in the line of an
in port. -/
def prepare (l : Lane) (i : Instr) : M Unit := do
  decodeChecks l i
  let pause ← mayPause l i
  if pause then maskFirst l i else pure ()
  deliver l (i.waits (match l.who with
    | .front => true
    | .thread _ => false))
  match l.who with
  | .front => pure ()
  | .thread t => do
    let h ← getThread l.team t
    if pause && !Wait.operandsTaken h.wait then barrierFirst l i else pure ()
    let stops := (← get).windowStops l i
    if stops then pure () else releaseFirst l i
    match portReads i with
    | [] => pure ()
    | p :: ps =>
      if Wait.operandsTaken h.wait then pure ()
      else
        let take := latchPorts l.team t (portWrites i) [] (p :: ps)
        if stops then unkept take else take

/-- A push of the lane onto an out port would have to wait, for room or for those before it. -/
def State.pushWaits (s : State) (l : Lane) (p : Bool) : Bool :=
  match runM (wr l (outCode p) 0) s with
  | .error .retry => true
  | _ => false

/-- The lane stands in line at an out port. -/
def State.inPushLine (s : State) (l : Lane) (p : Bool) : State :=
  match l.who, s.team? l.team with
  | .thread t, some T => s.modThread l.team t fun h => T.inLine h (.outPort p) [] [p]
  | _, _ => s

/-- A wait in the middle of an instruction that holds what the instruction read: it keeps no stream element for a read
that comes again. -/
def Wait.keepsValue : Option Wait → Bool
  | none | some .poll | some (.port _) | some (.outPort _) => false
  | _ => true

/-- The lane waits with the stream elements that it had taken before its own effect began. DESIGN CHOICE (log entry 73):
at any wait but one for a port it has no place in the line of an out port. -/
def State.keepLatch (s s' : State) (l : Lane) : State :=
  match l.who with
  | .thread t =>
    match s.thread? l.team t, s'.thread? l.team t with
    | some h, some h' =>
      if Wait.keepsValue h'.wait then s'
      else s'.modThread l.team t fun x => { x with latch := h.latch, places := [] }
    | _, _ => s'
  | .front => s'

/-- An instruction that waits keeps the stream elements that it has taken, and its place at an out port that has no room
for it (R26, R180), unless a window code is to stop it with no effect (R131). -/
def keepElements {α : Type} (l : Lane) (i : Instr) (m : M α) : M α := fun s =>
  match m s with
  | .error .retry =>
    match (portWrites i).find? (s.pushWaits l) with
    | some p => .error (.hold (s.inPushLine l p))
    | none => .error (if (portReads i).isEmpty || s.windowStops l i then .retry else .hold (s.keepLatch s l))
  | .error (.hold s') =>
    .error (if (portReads i).isEmpty then .hold s' else if s.windowStops l i then .retry else .hold (s.keepLatch s' l))
  | r => r

/-- The whole performance of one lane: what comes before, effect, completion. DESIGN CHOICE (log entry 76): an instruction
that waits, for a port or a window register say, takes the state of its group (FPCTL, NFMT, TEMP) as it is when it is
performed, not as it was when it began to wait (R86). -/
def perform (i : Instr) (len : Nat) (body : Lane → M Next) (l : Lane) : M Unit := do
  prepare l i
  let next ← keepElements l i (body l)
  complete l len next

/-- The frame word of an instruction (R295): a compact one in [15:0]. -/
def Issue.tinst (c : Issue) : Word := c.word

/-- A trap of one lane: the thread enters its handler; the front thread has none (R214). -/
def State.trapLane (s : State) (c : Issue) (i : Option Instr) (l : Lane) (cause : BitVec 8) (addr : Word64)
    (tpc : Option Word64) : State :=
  match l.who with
  | .thread t =>
    match s.thread? l.team t with
    | some h =>
      let s := s.modThread l.team t fun h => { h with count := h.count + 1 }
      s.takeTrap l.team t ⟨cause, addr, tpc.getD h.pc, c.tinst, i⟩
    | none => s
  | .front =>
    match (s.team? l.team).bind (·.front) with
    | some f =>
      if cause = Cause.uncorrectable then
        s.consume l.team .front cause c.tinst f.pc addr
      else s.endByFault l.team .front cause c.tinst f.pc addr
    | none => s

/-- A lane meets a scratchpad word that cannot be reconstructed (R272, R303): the instruction that it issued counts. -/
def State.loseLane (s : State) (c : Issue) (l : Lane) (place : Local) (addr : Word64) : State :=
  let s := match l.who with
    | .thread t => s.modThread l.team t fun h => { h with wait := none, places := [], count := h.count + 1 }
    | .front => s
  s.consume l.team l.who Cause.reconstruction c.tinst (s.pcAt l) addr (some place)

/-- Trap, keeping what the instruction has done (R204, R235). -/
def trapAfter {α : Type} (i : Instr) (l : Lane) (cause : BitVec 8) (addr : Word64) : M α := fun s =>
  match s.cur with
  | some c => .error (.done (s.trapLane c (some i) l cause addr none))
  | none => .error .missing

/-- The lane waits: at its instruction, unless the wait has a record of its own. -/
def State.markWait (s : State) (l : Lane) : State :=
  match l.who with
  | .thread t => s.modThread l.team t fun h => if h.wait.isNone && !h.ended then { h with wait := some .poll } else h
  | .front => s.modFront l.team fun f => if f.wait.isNone && !f.ended then { f with wait := some .poll } else f

/-- An instruction that a thread issued and that did not complete counts for the watchdog (R122). -/
def State.countIssue (s : State) (l : Lane) : State :=
  match l.who with
  | .thread t => s.modThread l.team t fun h => { h with count := h.count + 1 }
  | .front => s

/-- A lane waits on a fault record, or for one to be free (R248). -/
def State.setWait (s : State) (l : Lane) (w : Wait) : State :=
  match l.who with
  | .thread t => s.modThread l.team t fun h => { h with wait := some w, places := [] }
  | .front => s.modFront l.team fun f => { f with wait := some w }

/-- The TRANSLATION trap that a lane takes when its fault record is freed: TADDR, and TPC unless it is the lane's PC
(R248, R294). `i` is `none` for a fault of the fetch, whose TINST is zero (R295). -/
def State.pageTrap (s : State) (l : Lane) (i : Option Instr) (taddr : Word64) (tpc : Option Word64) : TrapReq :=
  let word := match s.cur with
    | some c => if i.isSome then c.word else 0
    | none => 0
  ⟨Cause.translation, taddr, tpc.getD (s.pcAt l), word, i⟩

/-- A TRANSLATION fault of a lane, without run-ahead: RECORD, then sleep; with no record free the lane waits for one and
then does both (R248). -/
def pageSleepAs (l : Lane) (addr : Word64) (access : BitVec 8) (req : TrapReq) (s : State) : State :=
  match s.team? l.team with
  | some T =>
    let s := s.countIssue l
    match s.recordFault T.ctx addr access with
    | some (s, r) => s.setWait l (.record r req)
    | none => s.setWait l (.recordFree addr access req)
  | none => s

/-- The same for a fault whose trap names the page's own address. -/
def pageSleep (i : Option Instr) (l : Lane) (addr : Word64) (access : BitVec 8) (s : State) : State :=
  pageSleepAs l addr access (s.pageTrap l i addr none) s

/-- A thread of a cancelled group that waits, be it for the entry of its handler, ends at once (R135). -/
def State.endIfCancelled (s : State) (l : Lane) : State :=
  match l.who with
  | .thread t =>
    match s.team? l.team with
    | some T =>
      match T.group? (T.groupIx t), T.thread? t with
      | some G, some h =>
        if G.cancelled && (h.wait.isSome || h.trap.isSome) && !h.ended then s.setTeam l.team (T.endThread t) else s
      | _, _ => s
    | none => s
  | .front => s

/-- The state after one lane's performance (R8, R161). -/
def afterLane (c : Issue) (i : Instr) (onPage : Lane → Word64 → BitVec 8 → State → State) (l : Lane) (s : State)
    (r : Except Stop (Unit × State)) : State :=
  match r with
  | .ok (_, s') => s'
  | .error (.trap cause addr) => (s.trapLane c (some i) l cause addr none).endIfCancelled l
  | .error (.trapAt cause addr tpc) => (s.trapLane c (some i) l cause addr (some tpc)).endIfCancelled l
  | .error (.lost place addr) => (s.loseLane c l place addr).endIfCancelled l
  | .error (.page addr access) => (onPage l addr access s).endIfCancelled l
  | .error (.pageAt addr access taddr) => (pageSleepAs l addr access (s.pageTrap l (some i) taddr none) s).endIfCancelled l
  | .error .retry => (s.markWait l).endIfCancelled l
  | .error (.hold s') => (s'.markWait l).endIfCancelled l
  | .error (.done s') => s'.endIfCancelled l
  | .error .missing => s

/-- The thread has reached its watchdog limit (R122). -/
def State.watchdogDue (s : State) (l : Lane) : Bool :=
  match l.who with
  | .thread t =>
    match s.thread? l.team t with
    | some h => decide (h.limit ≤ h.count)
    | none => false
  | .front => false

/-- WATCHDOG in place of the instruction that a lane would issue (R122, R298). -/
def State.watchdogTrap (s : State) (c : Issue) (l : Lane) : State :=
  match l.who with
  | .thread t => s.takeTrap l.team t ⟨Cause.watchdog, 0, s.pcAt l, c.tinst, none⟩
  | .front => s

/-- A team whose threads may still issue. -/
def State.running (s : State) (team : Nat) : Bool :=
  match s.team? team with
  | some T => (T.status == .resident || T.status == .resting) && !T.dying
  | none => false

/-- A lane that is still there to issue: its team runs and the lane has not ended. -/
def State.lanePresent (s : State) (l : Lane) : Bool :=
  s.running l.team &&
    match l.who with
    | .thread t => (s.thread? l.team t).any (fun h => !h.ended)
    | .front => ((s.team? l.team).bind (·.front)).any (fun f => !f.ended)

/-- One lane's turn in an issue. -/
def stepLane (c : Issue) (i : Instr) (onPage : Lane → Word64 → BitVec 8 → State → State) (body : Lane → M Next)
    (s : State) (l : Lane) : State :=
  if !s.lanePresent l then s
  else if s.watchdogDue l then s.watchdogTrap c l
  else afterLane c i onPage l s (perform i c.len body l s)

/-- A lane consumes a word that cannot be read (R303). -/
def consumesAt (i : Instr) (len : Nat) (body : Lane → M Next) (s : State) (l : Lane) : Bool :=
  match perform i len body l s with
  | .error (.trap cause _) => cause == Cause.uncorrectable
  | .error (.lost _ _) => true
  | _ => false

/-- A lane's performance that ended in state `s'` took a trap, beside what it had done: the thread waits for its handler, or
has gone to it. -/
def State.trappedTo (s s' : State) (l : Lane) : Bool :=
  match l.who with
  | .thread t =>
    (s'.thread? l.team t).any fun h => h.trap.isSome || (h.tcause.getLsbD 8 && (s.thread? l.team t).any (fun x => x.pc != h.pc))
  | .front => false

/-- A lane traps at an instruction (R307). -/
def trapsAt (i : Instr) (len : Nat) (body : Lane → M Next) (s : State) (l : Lane) : Bool :=
  s.lanePresent l && !s.watchdogDue l &&
    match perform i len body l s with
    | .error (.trap _ _) | .error (.trapAt _ _ _) => true
    | .error (.done s') => s.trappedTo s' l
    | _ => false

/-- The lanes of an issue, in increasing lane order (R8). -/
def Issue.lanes (c : Issue) : List Lane :=
  if c.front then [⟨c.team, .front⟩] else c.threads.map fun t => ⟨c.team, .thread t⟩

/-- Something unreadable exists, so that a consumption could decide over the other events of the clock (R307). -/
def State.anyBad (s : State) : Bool :=
  !s.badMem.isEmpty || s.cores.any fun e => !e.2.errs.isEmpty || !e.2.perrs.isEmpty

/-- The team is being ended by a fault, or has gone. -/
def State.stopped (s : State) (team : Nat) : Bool := !(s.team? team).any (fun T => !T.dying && T.status != .ended)

/-- Threads of which some end the team in this clock: those that complete or wait first, a trap of any other being discarded,
then of those that end it the one of lowest team-local id, whose cause is recorded (R307). -/
def endLast (step : State → Lane → State) (traps : State → Lane → Bool) (c : Issue) (s : State) : State :=
  let ends (l : Lane) : Bool := (step s l).stopped c.team
  let s' := (c.lanes.filter (fun l => !ends l)).foldl (fun s l => if traps s l then s else step s l) s
  let ids := sortBy (fun a b => decide (a ≤ b)) (c.threads.filter (fun t => ends ⟨c.team, .thread t⟩))
  match ids with
  | t :: _ => step s' ⟨c.team, .thread t⟩
  | [] => s'

/-- The lanes of an issue, each in its turn. Of several lanes, consumption of an uncorrectable word decides over every
other event of the clock, an end of the team over traps, and of several ends of the team the lowest thread's (R307). -/
def inOrder (step : State → Lane → State) (consumes : Lane → Bool) (traps : State → Lane → Bool) (c : Issue) (s : State) :
    State :=
  match (if s.anyBad then c.lanes.find? consumes else none) with
  | some l => step s l
  | none =>
    let s' := c.lanes.foldl step s
    if s'.stopped c.team && !s.stopped c.team then endLast step traps c s else s'

/-- Issue an instruction to the lanes of the issue in progress, each whole and in lane order. -/
def issueWith (i : Instr) (onPage : Lane → Word64 → BitVec 8 → State → State) (body : Lane → M Next) (s : State) :
    Outcome State Fault Refusal :=
  match s.cur with
  | none => .fault .noIssue
  | some c =>
    let step := stepLane c i onPage body
    match c.lanes with
    | [l] => .next (step s l)
    | _ => .next (inOrder step (fun l => s.lanePresent l && !s.watchdogDue l && consumesAt i c.len body s l)
        (trapsAt i c.len body) c s)

/-- Issue an instruction that touches no global memory in its lanes. -/
def issue (i : Instr) (body : Lane → M Next) (s : State) : Outcome State Fault Refusal :=
  issueWith i (pageSleep (some i)) body s

/-- An effect after which the PC goes to the next instruction. -/
def seq (m : M Unit) : M Next := do
  m
  pure none

/-- The values of operands over the lanes of an issue, each lane reading after those before it, and after the results
due to it and the stream elements it takes (R23, R26, R67). A lane whose decode-time checks stop it, or that waits, has
none. -/
def laneVals (i : Instr) (f : Lane → M (List Word64)) : List Lane → State → List (List Word64)
  | [], _ => []
  | l :: ls, s =>
    match (do prepare l i; f l : M (List Word64)) s with
    | .ok (v, s') => v :: laneVals i f ls s'
    | .error _ => laneVals i f ls s

/-- Whether an operand is uniform over the executing threads (R23). -/
def uniform (i : Instr) (s : State) (f : Lane → M (List Word64)) : Bool :=
  match s.cur with
  | none => true
  | some c =>
    match laneVals i f c.lanes s with
    | [] => true
    | v :: vs => vs.all (fun w => w == v)

def rdList (cs : List (BitVec 8)) (l : Lane) : M (List Word64) := cs.mapM fun c => do pure ((← rd l c).setWidth 64)

/-- The lane's thread id; front code never reaches an effect that asks for it (R213). -/
def theThread (l : Lane) : M Nat :=
  match l.who with
  | .thread t => pure t
  | .front => trap Cause.illegal

end Sys2Proof.Machine
end

