-- ==== Sys2Proof/Machine/Fetch.lean ====
section
/-!
DEFINITION. Fetching code (R57, R226, R245) from global memory, or from the code region of a translation (R337–R340).

A translation keeps its segments one after another, each its words and then its successor word, from four bytes past
its base (log entry 12); a STAGE whose continuation does not lie ahead of it within reach is followed by two branches, to
the stage's body and to the continuation. PCs, handler offsets and TPC are addresses in that layout.
-/

namespace Sys2Proof.Machine

/-! ### Translated bodies -/

/-- Offset in the body, and number of words, of segment k (R337). -/
def Xlat.seg (x : Xlat) (k : Nat) : Nat × Nat := (fieldN x.body (16 + 8 * k) 4, fieldN x.body (20 + 8 * k) 2)

/-- Word j of segment k; at j = its number of words, its successor word, and then the extension words. -/
def Xlat.word (x : Xlat) (k j : Nat) : Word := BitVec.ofNat 32 (fieldN x.body ((x.seg k).1 + 4 * j) 4)

/-- The stage number of a STAGE of segment k, and the segment where a skipped stage continues (R339). -/
def Xlat.stage? (x : Xlat) (k j : Nat) : Option (BitVec 2 × Nat) :=
  if j < (x.seg k).2 then
    match rawWord (x.word k j) with
    | some (.stage s t) => some (s, t.toNat)
    | _ => none
  else none

/-- The words of segment k after which two branches stand, in order. -/
def Xlat.farIn (x : Xlat) (k : Nat) : List Nat := (x.far.filter fun e => e.1 == k).map (·.2)

/-- Emitted words of segment k, its successor word among them. -/
def Xlat.emitted (x : Xlat) (k : Nat) : Nat := (x.seg k).2 + 2 * (x.farIn k).length + 1

/-- Bytes that the segments from k on, `n` of them, take in the code region. -/
def Xlat.size (x : Xlat) : Nat → Nat → Nat
  | 0, _ => 0
  | n + 1, k => 4 * x.emitted k + x.size n (k + 1)

/-- The address of a segment's first word. -/
def Xlat.addr (x : Xlat) (k : Nat) : Word64 := x.base + 4 + BitVec.ofNat 64 (x.size k 0)

/-- The segment and the emitted word of it at a byte offset of the code region. -/
def Xlat.find (x : Xlat) : Nat → Nat → Nat → Option (Nat × Nat)
  | 0, _, _ => none
  | n + 1, k, off =>
    let m := 4 * x.emitted k
    if off < m then some (k, off / 4) else x.find n (k + 1) (off - m)

/-- The word of a segment that its emitted word `i` comes from, and which of that word's emitted words it is: 0 itself, 1
and 2 the branches after it. `d` words have been inserted before. -/
def sourceWord (i : Nat) : List Nat → Nat → Nat × Nat
  | [], d => (i - d, 0)
  | f :: fs, d => if i ≤ f + d then (i - d, 0) else if i ≤ f + d + 2 then (f, i - d - f) else sourceWord i fs (d + 2)

/-- Segment, word and part of the code at an address. -/
def Xlat.at? (x : Xlat) (pc : Word64) : Option (Nat × Nat × Nat) :=
  let off := pc - (x.base + 4)
  if off.toNat < x.size x.segs 0 then
    (x.find x.segs 0 off.toNat).map fun e => (e.1, sourceWord e.2 (x.farIn e.1) 0)
  else none

/-- The words of segment k below `j` that are STAGEs whose continuation does not lie ahead within the reach of R128, before
those found so far; `after` emitted words of the segment stand behind word `j - 1`, and `later` gives the emitted words of
the segments behind. Also the emitted words of the segment. -/
def Xlat.farBelow (x : Xlat) (k : Nat) (later : List Nat) : Nat → Nat → List (Nat × Nat) → Nat × List (Nat × Nat)
  | 0, after, got => (after, got)
  | j + 1, after, got =>
    match x.stage? k j with
    | some (_, t) =>
      if k < t && decide (2 * (1 + after + (later.take (t - k - 1)).sum) < 65536) then x.farBelow k later j (after + 1) got
      else x.farBelow k later j (after + 3) ((k, j) :: got)
    | none => x.farBelow k later j (after + 1) got

/-- The same for the first segments of a body. -/
def Xlat.farStages (x : Xlat) : Nat → List Nat → List (Nat × Nat) → List (Nat × Nat)
  | 0, _, got => got
  | k + 1, later, got =>
    let r := x.farBelow k later (x.seg k).2 1 got
    x.farStages k (r.1 :: later) r.2

/-- The extension words of a successor, as far as its kind asks for them (R338). -/
def Xlat.succWords (x : Xlat) (k : Nat) : List Word :=
  let j := (x.seg k).2
  let w := x.word k j
  let n := match (w.extractLsb' 0 4).toNat with
    | 1 => 1
    | 2 => (w.extractLsb' 16 16).toNat
    | 3 => 1
    | _ => 0
  (List.range (n + 1)).map fun i => x.word k (j + i)

/-- The distance in halfwords from a branch to an address, if its field holds it (R105). -/
def branchTo (pc target : Word64) : Option (BitVec 21) :=
  let d := (target - pc).toInt / 2
  if -2 ^ 20 ≤ d ∧ d < 2 ^ 20 then some (BitVec.ofInt 21 d) else none

/-- An unconditional BRA. -/
def braWord (o : BitVec 21) : Word := (encode32 (.bra 7 true o)).getD 0

/-- The emitted word `p` of word j of segment k, whose address is `pc`: the segment's own, but a STAGE carries the distance
in halfwords to its continuation, or to the second of the two branches after it (R128, R340). -/
def Xlat.native (x : Xlat) (k j p : Nat) (pc : Word64) : Word :=
  let w := x.word k j
  match x.stage? k j, p with
  | some (s, t), 0 =>
    let skip : Nat := if x.far.contains (k, j) then 4 else (x.addr t - pc).toNat / 2
    (encode32 (.stage s (BitVec.ofNat 16 skip))).getD w
  | some _, 1 => braWord 4
  | some (_, t), _ => braWord ((branchTo pc (x.addr t)).getD 0)
  | none, _ => w

/-- The instruction that it is. A branch to a continuation that lies out of a BRA's reach goes there all the same (log entry
12). -/
def Xlat.instr (x : Xlat) (k j p : Nat) (pc : Word64) : Option Instr :=
  match x.stage? k j, p with
  | some (_, t), 2 =>
    if (branchTo pc (x.addr t)).isSome then decode32 (x.native k j p pc) else some (.succGoto (BitVec.ofNat 24 t))
  | _, _ => decode32 (x.native k j p pc)

/-- The halfword with which the code region of a translation is filled where it holds no emitted word (R340). -/
def fillHalf : Half := 0x0039

/-- A word of a segment: its skip field of STAGE admits every segment index (R339). -/
def decodeSegment (w : Word) : Option Instr :=
  match rawWord w with
  | some (.stage s k) => some (.stage s k)
  | _ => decode32 w

/-- The translation a team runs, if it runs one. -/
def State.xlatOf (s : State) (T : Team) : Option Xlat :=
  (SMap.find? T.launch s.launches).bind fun L => L.xlat.bind fun x => SMap.find? x s.xlats

/-- Wizin on a TM-940 emulates erratum `id` in the translated code that a lane runs; code outside the translation has
the corrected behaviour (R340, R342, R343). -/
def erratum (ln : Lane) (id : Nat) : M Bool := do
  let T ← getTeam ln.team
  let s ← get
  pure ((s.xlatOf T).any fun x => (x.at? (s.pcAt ln)).isSome && x.errata.contains id)

/-! ### Fetching -/

/-- What a team's core fetches at a physical halfword: what the team sees there, or what the core still holds from
before (R226). -/
def fetchPhys (team core ctx pa : Nat) : M Half := do
  let s ← get
  let mem := halfOf (readByte s.mem pa) (readByte s.mem (pa + 1))
  let now := halfOf (s.teamByte team pa) (s.teamByte team (pa + 1))
  if now ≠ mem then pure now
  else
    match s.fetched.find? (fun f => f.core == core && f.ctx == ctx && f.addr == pa) with
    | some f => pick f.half now
    | none =>
      modify fun s => { s with fetched := ⟨core, ctx, pa, now⟩ :: s.fetched }
      pure now

/-- A halfword of the code region of the translation that a team runs, if the address lies there (R340). -/
def Xlat.half? (x : Xlat) (va : Word64) : Option Half :=
  if (va - x.base).toNat < 4 then some fillHalf
  else
    (x.at? va).map fun kj =>
      let off := va - (x.base + 4)
      let w := x.native kj.1 kj.2.1 kj.2.2 (va - (off &&& 3))
      if off.getLsbD 1 then w.extractLsb' 16 16 else w.extractLsb' 0 16

/-- The place of a halfword of code outside a translation: on a page of this device with execute permission (R57,
R245). -/
def codePart (team : Nat) (va : Word64) : M Part := do
  let T ← getTeam team
  match ← checkGlobal T.ctx va.toNat 2 ⟨false, false, true⟩ accFetch with
  | p :: _ => if p.isRemote then trap Cause.protection va else pure p
  | [] => trap Cause.protection va

/-- The code at an address can be fetched (R109): what it holds is not looked at. -/
def checkCode (team : Nat) (va : Word64) : M Unit := do
  let T ← getTeam team
  if (((← get).xlatOf T).bind (·.half? va)).isSome then pure ()
  else
    let _ ← codePart team va

/-- One halfword of code at a virtual address (R57, R245, R340). -/
def fetchHalf (team : Nat) (va : Word64) : M Half := do
  let T ← getTeam team
  match ((← get).xlatOf T).bind (·.half? va) with
  | some h => pure h
  | none =>
    let p ← codePart team va
    checkWords none [p]
    match p.target with
    | .phys pa => fetchPhys team T.core T.ctx pa
    | .remote _ => trap Cause.protection va

/-- The instruction at an address: its word (a compact one in [15:0]), its length and its meaning; `none` is ILLEGAL
(R56, R62). -/
def fetchAt (team : Nat) (va : Word64) : M (Word × Nat × Option Instr) := do
  let T ← getTeam team
  let h ← fetchHalf team va
  let native : M (Word × Nat × Option Instr) := do
    if !h.getLsbD 0 then pure (h.setWidth 32, 2, decode16 h)
    else
      let h' ← fetchHalf team (va + 2)
      pure (h' ++ h, 4, decode32 (h' ++ h))
  match (← get).xlatOf T with
  | some x =>
    match x.at? va with
    | some (k, j, p) =>
      if (va - x.base).getLsbD 1 then native
      else if j = (x.seg k).2 then pure (x.word k j, 4, (decodeSucc (x.succWords k)).map (·.1))
      else pure (x.native k j p va, 4, x.instr k j p va)
    | none => native
  | none => native

end Sys2Proof.Machine
end

