-- ==== Sys2Proof/Machine/Flags.lean ====
section
/-!
DEFINITION. The conditions of the compares (R63, R94, R101) and of soft comparison at zero temperature (R141).  No
integer instruction sets a flag (R32), and there are no floating-point status flags (R36): a compare's b register is the
only flag the machine computes.
-/

namespace Sys2Proof.Machine

/-- The integer conditions EQ NE LT LE GT GE LTU LEU (R63). -/
def intCond (c : BitVec 3) (x y : Word) : Bool :=
  match c.toNat with
  | 0 => x == y
  | 1 => x != y
  | 2 => x.slt y
  | 3 => x.sle y
  | 4 => y.slt x
  | 5 => y.sle x
  | 6 => x.ult y
  | _ => x.ule y

/-- The floating-point conditions EQ NE LT LE GT GE UNORD ORD over binary32 patterns (R63, R101). -/
def fpCond (c : BitVec 3) (x y : Nat) : Bool :=
  let unord := fp32.isNan x || fp32.isNan y
  let o := (fp32.value x).cmp (fp32.value y)
  match c.toNat with
  | 0 => !unord && decide (o = 0)
  | 1 => unord || decide (o ≠ 0)
  | 2 => !unord && decide (o < 0)
  | 3 => !unord && decide (o ≤ 0)
  | 4 => !unord && decide (0 < o)
  | 5 => !unord && decide (0 ≤ o)
  | 6 => unord
  | _ => !unord

end Sys2Proof.Machine
end

