-- ==== Sys2Proof/Machine/Lanes.lean ====
section
/-!
DEFINITION. The shapes of lane instructions (R86): one, two or three sources and a destination, a compare (R94), a
conditional move (R95); and the rowan generator (R147–R149).
-/

namespace Sys2Proof.Machine

/-- The effect of one instruction on one lane. -/
abbrev Body := Lane → M Next

/-- How an instruction or an event ends. -/
abbrev Result := Host.Outcome State Fault Refusal

/-- d := f a. -/
def un (d a : BitVec 8) (f : Word → Word) : Body := fun ln => seq do
  let x ← rd ln a
  wr ln d (f x)

/-- d := f a b. -/
def bin (d a b : BitVec 8) (f : Word → Word → Word) : Body := fun ln => seq do
  let x ← rd ln a
  let y ← rd ln b
  wr ln d (f x y)

/-- d := f a b d. -/
def ter (d a b : BitVec 8) (f : Word → Word → Word → Word) : Body := fun ln => seq do
  let x ← rd ln a
  let y ← rd ln b
  let z ← rd ln d
  wr ln d (f x y z)

/-- d := f a d. -/
def upd (d a : BitVec 8) (f : Word → Word → Word) : Body := fun ln => seq do
  let x ← rd ln a
  let z ← rd ln d
  wr ln d (f x z)

/-- A compact form that reads d and s and writes d (R59). -/
def compact (d : BitVec 6) (s : BitVec 5) (f : Word → Word → Word) : Body :=
  bin (d.setWidth 8) (d.setWidth 8) (s.setWidth 8) f

/-- A 32-bit shift by a whole register value: an amount of 32 or more shifts everything out (R89). -/
def shlW (x n : Word) : Word := if n.toNat < 32 then x <<< n.toNat else 0
def shrW (x n : Word) : Word := if n.toNat < 32 then x >>> n.toNat else 0
def sarW (x n : Word) : Word := x.sshiftRight (min n.toNat 31)

/-- Write a compare's result to a b register, alone or anded with what it holds (R94, R101). -/
def setCond (e : BitVec 3) (and : Bool) (res : Bool) (ln : Lane) : M Unit := do
  let old ← rdB ln e
  wrB ln e (if and then old && res else res)

/-! ### The rowan generator (R147–R149) -/

/-- The hash of R147: 15 bits from a seed, a thread id and a counter. -/
def rowan (seed : Word64) (t : Nat) (n : Word) : Nat :=
  let x := seed ^^^ (BitVec.ofNat 32 t ++ n)
  let x := (x ^^^ (x >>> 30)) * 0xBF58476D1CE4E5B9
  let x := (x ^^^ (x >>> 27)) * 0x94D049BB133111EB
  let x := x ^^^ (x >>> 31)
  (x.extractLsb' 49 15).toNat

/-- The scratchpad address of a replay table's entry (R148). -/
def replayAddr (replay : Word) (t : Nat) (n : Word) : Nat :=
  let e := if replay.extractLsb' 18 14 = 0 then 16384 else (replay.extractLsb' 18 14).toNat
  2 * (replay.extractLsb' 1 17).toNat + 2 * (t * e + n.toNat % e)

/-- The draw of thread t of a team at counter n under the team's seed and replay register (R147, R148). -/
def drawAt (team t : Nat) (seed : Word64) (replay n : Word) : M Nat := do
  if !replay.getLsbD 0 then pure (rowan seed t n)
  else
    let T ← getTeam team
    let a := replayAddr replay t n
    check (decide (a + 2 ≤ T.size)) Cause.protection (BitVec.ofNat 64 a)
    let bs ← readLocal ⟨team, a, false⟩ a 2
    pure (leNat bs % 32768)

/-- DRAW15 of a thread: the next draw, and the counter advanced (R147). -/
def draw15 (team t : Nat) : M Nat := do
  let T ← getTeam team
  let h ← getThread team t
  let u ← drawAt team t T.rseed T.replay h.draw
  modThread team t fun h => { h with draw := h.draw + 1 }
  pure u

end Sys2Proof.Machine
end

