-- ==== Sys2Proof/Machine/Control.lean ====
section
/-!
DEFINITION. Control transfers (R105–R110), reconvergence (R111–R113), boolean operations (R120), yield (R121), stages
(R128–R130, R135), software traps (R123), return from exception (R124), and the successor words of segments (R338).
-/

namespace Sys2Proof.Machine

/-- The PC of a lane. -/
def pcOf (ln : Lane) : M Word64 :=
  match ln.who with
  | .front => do pure (← getFront ln.team).pc
  | .thread t => do pure (← getThread ln.team t).pc

/-- Go to a target. -/
def goTo (pc : Word64) : M Next := pure (some pc)

/-- After an arrival: the thread was released and is past its instruction, or it waits. -/
def restOrWait (team t : Nat) : M Next := do
  let h ← getThread team t
  if h.wait.isNone then endHere else holdHere

/-! ### The target of a transfer (R109) -/

/-- The check of the target of RET or RTT: even, translated, executable. -/
def checkTarget (ln : Lane) (pc : Word64) : M Unit := do
  check (!pc.getLsbD 0) Cause.misalignedPc pc
  checkCode ln.team pc

/-- The check of a JMPI's or CALLI's target: besides, the first halfword of a LAND word. A fault of the page that holds
its second halfword names the target as well. -/
def checkLanding (ln : Lane) (pc : Word64) : M Unit := do
  check (!pc.getLsbD 0) Cause.misalignedPc pc
  let (w, _, _) ← fun s =>
    match fetchAt ln.team pc s with
    | .error (.page addr access) => .error (.pageAt addr access pc)
    | .error (.trap cause addr) => .error (.trap cause (if cause = Cause.uncorrectable then addr else pc))
    | r => r
  check (w == 0x0000027D) Cause.landing pc

/-- PC + 2 × sext(offset) (R58). -/
def branchTarget (pc : Word64) (o : BitVec 21) : Word64 := pc + (o.signExtend 64 <<< 1)

/-! ### Ending a thread -/

/-- EXIT of a lane: a thread of a chain settles, and waits where it must (R110, R133); the front thread ends (R215). -/
def exitLane (ln : Lane) : M Next :=
  match ln.who with
  | .front => do
    modFront ln.team fun f => { f with ended := true, wait := none }
    modify fun s => s.reportLost ln.team .front
    endHere
  | .thread t => do
    modThread ln.team t fun h => { h with count := h.count + 1 }
    modTeam ln.team fun T => T.exitThread t 0
    modify fun s => s.reportLost ln.team (.thread t)
    let h ← getThread ln.team t
    if h.ended then endHere else holdHere

/-! ### Stages -/

/-- The chain and beat of a chain thread; any other thread traps ILLEGAL. -/
def chainOf (ln : Lane) : M (Chain × Nat) := do
  let T ← getTeam ln.team
  let t ← theThread ln
  let G ← getGroup ln.team t
  match T.chain, G.beat with
  | some C, some b => pure (C, b)
  | _, _ => trap Cause.illegal

/-! ### Return from exception (R124) -/

/-- Go on at the target of RTT: TCAUSE[8] is cleared before the target is checked (R75), so a target that fails traps into
the handler, with TPC that target. -/
def rttGo (ln : Lane) (i : Instr) : M Next := do
  let target ← rttThread ln.team (← theThread ln)
  fun s =>
    match checkTarget ln target s, s.cur with
    | .error (.trap cause _), some c => .error (.done (s.trapLane c (some i) ln cause target (some target)))
    | .error (.page addr access), _ =>
      .error (.done (pageSleepAs ln addr access (s.pageTrap ln (some i) target (some target)) s))
    | .error e, _ => .error e
    | .ok (_, s), _ => .ok (some target, s)

/-! ### Successor words (R338) -/

/-- The address of a segment in the translation that the lane's team runs; outside one, no segment exists. -/
def segmentAddr (ln : Lane) (T : BitVec 24) : M Word64 := do
  let tm ← getTeam ln.team
  match (← get).xlatOf tm with
  | some x => pure (x.addr T.toNat)
  | none => trap Cause.illegal

def goSegment (ln : Lane) (T : BitVec 24) : M Next := do goTo (← segmentAddr ln T)

/-! ### Instructions -/

/-- PC := the target where b_c equals the sense (R107). -/
def bodyBra (c : BitVec 3) (s : Bool) (o : BitVec 21) : Body :=
  fun ln => do
    let pc ← pcOf ln
    if (← rdB ln c) == s then goTo (branchTarget pc o) else pure none
@[inherit_doc bodyBra]
def execBra (c : BitVec 3) (s : Bool) (o : BitVec 21) (s_ : State) : Result := issue (.bra c s o) (bodyBra c s o) s_

/-- Where b_c equals the sense, push PC + 4 and go to the target (R107). -/
def bodyCall (c : BitVec 3) (s : Bool) (o : BitVec 21) : Body :=
  fun ln => do
    let pc ← pcOf ln
    if (← rdB ln c) == s then
      pushReturn ln (pc + 4)
      goTo (branchTarget pc o)
    else pure none
@[inherit_doc bodyCall]
def execCall (c : BitVec 3) (s : Bool) (o : BitVec 21) (s_ : State) : Result :=
  issue (.call c s o) (bodyCall c s o) s_

/-- PC := pair p, which must be a LAND (R108, R109). -/
def bodyJmpi (p : BitVec 8) : Body :=
  fun ln => do
    let dest ← rd64 ln p
    checkLanding ln dest
    goTo dest
@[inherit_doc bodyJmpi]
def execJmpi (p : BitVec 8) (s_ : State) : Result := issue (.jmpi p) (bodyJmpi p) s_

/-- Push PC + 4; PC := pair p, which must be a LAND (R108, R109). -/
def bodyCalli (p : BitVec 8) : Body :=
  fun ln => do
    let pc ← pcOf ln
    let dest ← rd64 ln p
    checkLanding ln dest
    pushReturn ln (pc + 4)
    goTo dest
@[inherit_doc bodyCalli]
def execCalli (p : BitVec 8) (s_ : State) : Result := issue (.calli p) (bodyCalli p) s_

/-- PC := the return address popped (R106, R108, R109). -/
def bodyRet : Body :=
  fun ln => do
    let dest ← popReturn ln
    checkTarget ln dest
    goTo dest
@[inherit_doc bodyRet]
def execRet (s_ : State) : Result := issue .ret bodyRet s_

/-- The thread ends, after its pending results; a chain thread settles first (R110, R133). -/
def bodyExit : Body := exitLane
@[inherit_doc bodyExit]
def execExit (s_ : State) : Result := issue .exit bodyExit s_

/-- No effect (R108). -/
def bodyLand : Body := fun _ => pure none
@[inherit_doc bodyLand]
def execLand (s_ : State) : Result := issue .land bodyLand s_

/-- Slot k takes the mask that s registers from s hold (R112, R114). -/
def bodyRcvSet (s : BitVec 4) (k : BitVec 3) : Body :=
  fun ln => seq do
    let T ← getTeam ln.team
    let t ← theThread ln
    let G ← getGroup ln.team t
    let m := G.mask T.width s.toNat
    check (m.getLsbD (T.index t)) Cause.memberMask
    let sl := SMap.getD G.rcv k.toNat ⟨0, 0⟩
    if sl.mask = m then pure ()
    else
      check (sl.arrived == 0) Cause.barrierMisuse
      modGroupOf ln.team t fun G => { G with rcv := SMap.insert k.toNat { sl with mask := m } G.rcv }
@[inherit_doc bodyRcvSet]
def execRcvSet (s : BitVec 4) (k : BitVec 3) (s_ : State) : Result := issue (.rcvSet s k) (bodyRcvSet s k) s_

/-- Arrive at slot k and wait until every member has arrived or ended (R113). -/
def bodyRcvWait (k : BitVec 3) : Body :=
  fun ln => do
    let T ← getTeam ln.team
    let t ← theThread ln
    let G ← getGroup ln.team t
    let sl := SMap.getD G.rcv k.toNat ⟨0, 0⟩
    check (sl.mask.getLsbD (T.index t)) Cause.memberMask
    let sl := { sl with arrived := sl.arrived ||| BitVec.ofNat 128 (2 ^ T.index t) }
    modGroupOf ln.team t fun G => { G with rcv := SMap.insert k.toNat sl G.rcv }
    modThread ln.team t fun h => { h with wait := some (.slot k.toNat) }
    modTeam ln.team fun T => T.settleSlot (T.groupIx t) k.toNat
    restOrWait ln.team t
@[inherit_doc bodyRcvWait]
def execRcvWait (k : BitVec 3) (s_ : State) : Result := issue (.rcvWait k) (bodyRcvWait k) s_

/-- After the pending results: registers from g(16n) on are dead and read zero, the watchdog starts again with limit 64 << D,
and a thread of a team that is to rest parks (R69, R121, R122, R288). On the front thread: no other effect (R213). -/
def bodyYld (dl : BitVec 4) (n : BitVec 4) : Body :=
  fun ln =>
    match ln.who with
    | .front => pure none
    | .thread t => do
      let T ← getTeam ln.team
      let budget := match SMap.find? T.launch (← get).launches with
        | some L => L.record.y
        | none => 15
      modThread ln.team t fun h =>
        { h.advance 4 with
            count := 0, limit := 64 * 2 ^ min dl.toNat budget, parked := T.status == .resting,
            g := h.g.filter (fun e => decide (e.1 < 16 * n.toNat)) }
      endHere
@[inherit_doc bodyYld]
def execYld (dl : BitVec 4) (n : BitVec 4) (s_ : State) : Result := issue (.yld dl n) (bodyYld dl n) s_

/-- The marker of stage s: it waits for stage 0 of the beat before, then runs or is skipped (R128–R130); a thread beyond the
drain, or of a group that was cancelled before the drain moved on, ends (R135). -/
def bodyStage (s : BitVec 2) (k : BitVec 16) : Body :=
  fun ln => do
    let (C, b) ← chainOf ln
    let t ← theThread ln
    let h ← getThread ln.team t
    let G ← getGroup ln.team t
    let st := s.toNat
    check (decide (st < C.stages) && (match h.stage with
      | some cur => decide (cur < st)
      | none => true)) Cause.illegal
    let T ← getTeam ln.team
    if st = 0 ∧ 0 < b ∧ !T.passed C (b - 1) then hold
    else if G.cancelled || decide (C.trip + C.stages < b + 2) then
      modTeam ln.team (·.endThread t)
      endHere
    else
      modThread ln.team t fun h =>
        { h with stage := some st, skipped0 := h.skipped0 || (st == 0 && !C.runs b 0) }
      if C.runs b st then pure none else goTo (h.pc + BitVec.ofNat 64 (2 * k.toNat))
@[inherit_doc bodyStage]
def execStage (s : BitVec 2) (k : BitVec 16) (s_ : State) : Result := issue (.stage s k) (bodyStage s k) s_

/-- In stage 0: the trip count becomes b + 1, and groups beyond the new drain are cancelled (R135). -/
def bodyChend : Body :=
  fun ln => seq do
    let (_, b) ← chainOf ln
    let h ← getThread ln.team (← theThread ln)
    check (h.stage == some 0) Cause.illegal
    modTeam ln.team fun T =>
      ({ T with chain := T.chain.map fun C => { C with trip := b + 1 } } : Team).cancelBeyond
@[inherit_doc bodyChend]
def execChend (s_ : State) : Result := issue .chend bodyChend s_

/-- USER_TRAP, saving PC + 4 (R123). -/
def bodyTrap (_i : BitVec 8) : Body :=
  fun ln => do
    let pc ← pcOf ln
    stop (.trapAt Cause.userTrap 0 (pc + 4))
@[inherit_doc bodyTrap]
def execTrap (i : BitVec 8) (s_ : State) : Result := issue (.trap i) (bodyTrap i) s_

/-- Return from the handler to TPC (R124). -/
def bodyRtt : Body := fun ln => rttGo ln .rtt
@[inherit_doc bodyRtt]
def execRtt (s_ : State) : Result := issue .rtt bodyRtt s_

/-- b_d := the operation of b_a and b_b (R120). -/
def bodyBop (d : BitVec 3) (a : BitVec 3) (b : BitVec 3) (o : BitVec 2) : Body :=
  fun ln => seq do
    let u ← rdB ln a
    let v ← rdB ln b
    wrB ln d (match o.toNat with
      | 0 => u && v
      | 1 => u || v
      | 2 => u != v
      | _ => u && !v)
@[inherit_doc bodyBop]
def execBop (d : BitVec 3) (a : BitVec 3) (b : BitVec 3) (o : BitVec 2) (s_ : State) : Result :=
  issue (.bop d a b o) (bodyBop d a b o) s_

/-- USER_TRAP, saving its own PC (R123). -/
def bodyBrk : Body := fun _ => trap Cause.userTrap
@[inherit_doc bodyBrk]
def execBrk (s_ : State) : Result := issue .brk bodyBrk s_

/-- On to segment t (R338). -/
def bodySuccGoto (t : BitVec 24) : Body := fun ln => goSegment ln t
@[inherit_doc bodySuccGoto]
def execSuccGoto (t : BitVec 24) (s_ : State) : Result := issue (.succGoto t) (bodySuccGoto t) s_

/-- On to segment t1 where b_c equals the sense, else to t2 (R338). -/
def bodySuccBr (c : BitVec 3) (sense : Bool) (t1 : BitVec 24) (t2 : BitVec 24) : Body :=
  fun ln => do goSegment ln (if (← rdB ln c) == sense then t1 else t2)
@[inherit_doc bodySuccBr]
def execSuccBr (c : BitVec 3) (sense : Bool) (t1 : BitVec 24) (t2 : BitVec 24) (s_ : State) : Result :=
  issue (.succBr c sense t1 t2) (bodySuccBr c sense t1 t2) s_

/-- On to the segment that g[i] selects, an index past the table selecting the last (R338). -/
def bodySuccSw (i : BitVec 8) (ts : List (BitVec 24)) : Body :=
  fun ln => do
    let j := (← rd ln i).toNat
    goSegment ln (ts.getD (min j (ts.length - 1)) 0)
@[inherit_doc bodySuccSw]
def execSuccSw (i : BitVec 8) (ts : List (BitVec 24)) (s_ : State) : Result :=
  issue (.succSw i ts) (bodySuccSw i ts) s_

/-- Push segment tr; on to segment t (R106, R338). -/
def bodySuccCall (t : BitVec 24) (tr : BitVec 24) : Body :=
  fun ln => do
    let dest ← segmentAddr ln t
    pushReturn ln (tr.setWidth 64)
    goTo dest
@[inherit_doc bodySuccCall]
def execSuccCall (t : BitVec 24) (tr : BitVec 24) (s_ : State) : Result :=
  issue (.succCall t tr) (bodySuccCall t tr) s_

/-- On to the segment popped; a value that is no segment index traps ILLEGAL with nothing popped (R338). -/
def bodySuccRet : Body :=
  fun ln => do
    let v ← popReturn ln
    let T ← getTeam ln.team
    match (← get).xlatOf T with
    | some x =>
      check (decide (v.toNat < x.segs)) Cause.illegal
      goTo (x.addr v.toNat)
    | none => trap Cause.illegal
@[inherit_doc bodySuccRet]
def execSuccRet (s_ : State) : Result := issue .succRet bodySuccRet s_

/-- The thread exits (R110, R338). -/
def bodySuccExit : Body := exitLane
@[inherit_doc bodySuccExit]
def execSuccExit (s_ : State) : Result := issue .succExit bodySuccExit s_

/-- Return from the handler, as RTT (R124, R338). -/
def bodySuccRtt : Body := fun ln => rttGo ln .succRtt
@[inherit_doc bodySuccRtt]
def execSuccRtt (s_ : State) : Result := issue .succRtt bodySuccRtt s_

end Sys2Proof.Machine
end

