-- ==== Sys2Proof/Machine/Barriers.lean ====
section
/-!
DEFINITION. The named-barrier instructions (R169–R172).
-/

namespace Sys2Proof.Machine

/-- A thread waits on barrier k. -/
def Team.anyWaits (T : Team) (k : Nat) : Bool :=
  T.threads.any (fun e => Wait.onNb k e.2.wait) || T.front.any (fun f => Wait.onNb k f.wait)

/-- ARRIVE by a thread, or by the group once every live thread of it is marked (R169, R170); a chain group may not
arrive at nb0 (R137). -/
def arriveNb (team t k : Nat) (group : Bool) : M Unit := do
  let T ← getTeam team
  let g := T.groupIx t
  check (!(k == 0 && (T.group? g).any (fun G => G.beat.isSome))) Cause.barrierMisuse
  let full := (T.nb k).pending == (T.nb k).expected
  if group then
    let B := T.nb k
    let T := T.setNb k { B with marks := if B.marks.contains (g, t) then B.marks else B.marks ++ [(g, t)] }
    if T.marksComplete k g then
      check (!full) Cause.barrierMisuse
      modTeam team fun _ => (T.clearMarks k g).arrive k g
    else modTeam team fun _ => T
  else
    check (!full) Cause.barrierMisuse
    modTeam team (·.arrive k g)

/-! ### Instructions -/

/-- Barrier k expects n arrivals and begins its phase again (R169). -/
def bodyNbInit (k : BitVec 4) (i : Bool) (n : BitVec 6) : Body :=
  fun ln => seq do
    let k ← barrier ln k i
    let T ← getTeam ln.team
    let B := T.nb k
    check (!T.anyWaits k && B.engines == 0) Cause.barrierMisuse
    modTeam ln.team fun T => T.setNb k
      { B with expected := n.toNat, pending := 0, bytes := 0, arrived := 0, broken := false, badAddr := 0,
               participants := if k = 0 then B.participants else 0 }
@[inherit_doc bodyNbInit]
def execNbInit (k : BitVec 4) (i : Bool) (n : BitVec 6) (s_ : State) : Result :=
  issue (.nbInit k i n) (bodyNbInit k i n) s_

/-- Barrier k awaits a more bytes (R169). -/
def bodyNbExpect (k : BitVec 4) (i : Bool) (a : BitVec 8) : Body :=
  fun ln => seq do
    let k ← whole ln k i
    let v ← rd ln a
    let T ← getTeam ln.team
    let B := T.nb k
    check (decide (v.toNat < 2 ^ 24) && decide (B.bytes + v.toNat < 2 ^ 24)) Cause.barrierMisuse
    modTeam ln.team fun T => T.setNb k { B with bytes := B.bytes + v.toNat }
@[inherit_doc bodyNbExpect]
def execNbExpect (k : BitVec 4) (i : Bool) (a : BitVec 8) (s_ : State) : Result :=
  issue (.nbExpect k i a) (bodyNbExpect k i a) s_

/-- d := the phase of barrier k; then an arrival, or with g a mark of the group's (R169, R170). -/
def bodyNbArr (k : BitVec 4) (i : Bool) (d : BitVec 8) (g : Bool) : Body :=
  fun ln => seq do
    let k ← whole ln k i
    let t ← theThread ln
    let T ← getTeam ln.team
    wr ln d (if (T.nb k).phase then 1 else 0)
    arriveNb ln.team t k g
@[inherit_doc bodyNbArr]
def execNbArr (k : BitVec 4) (i : Bool) (d : BitVec 8) (g : Bool) (s_ : State) : Result :=
  issue (.nbArr k i d g) (bodyNbArr k i d g) s_

/-- Wait until the phase of barrier k differs from bit 0 of a (R169). -/
def bodyNbWait (k : BitVec 4) (i : Bool) (a : BitVec 8) : Body :=
  fun ln => do
    letGo ln
    let k ← whole ln k i
    let t ← theThread ln
    let tok ← do pure ((← rd ln a).getLsbD 0)
    let T ← getTeam ln.team
    if (T.nb k).phase != tok then pure none
    else
      modThread ln.team t fun h => { h with wait := some (.barrier k tok) }
      holdHere
@[inherit_doc bodyNbWait]
def execNbWait (k : BitVec 4) (i : Bool) (a : BitVec 8) (s_ : State) : Result :=
  issue (.nbWait k i a) (bodyNbWait k i a) s_

/-- Arrive at barrier k, or with g mark the group, and wait for the phase to complete (R169, R170). -/
def bodyNbArw (k : BitVec 4) (i : Bool) (g : Bool) : Body :=
  fun ln => do
    letGo ln
    let k ← whole ln k i
    let t ← theThread ln
    let T ← getTeam ln.team
    modThread ln.team t fun h => { h with wait := some (.barrier k (T.nb k).phase) }
    arriveNb ln.team t k g
    restOrWait ln.team t
@[inherit_doc bodyNbArw]
def execNbArw (k : BitVec 4) (i : Bool) (g : Bool) (s_ : State) : Result := issue (.nbArw k i g) (bodyNbArw k i g) s_

/-- b_e := the phase of barrier k differs from bit 0 of a (R169). -/
def bodyNbTest (k : BitVec 4) (i : Bool) (a : BitVec 8) (e : BitVec 3) : Body :=
  fun ln => seq do
    let k ← whole ln k i
    let tok ← do pure ((← rd ln a).getLsbD 0)
    let T ← getTeam ln.team
    wrB ln e ((T.nb k).phase != tok)
@[inherit_doc bodyNbTest]
def execNbTest (k : BitVec 4) (i : Bool) (a : BitVec 8) (e : BitVec 3) (s_ : State) : Result :=
  issue (.nbTest k i a e) (bodyNbTest k i a e) s_

end Sys2Proof.Machine
end

