-- ==== Sys2Proof/Machine/Access.lean ====
section
/-!
DEFINITION. The address, the checks and the performance that loads, stores and atomics share (R155–R165).
-/

namespace Sys2Proof.Machine

/-- Bytes of a size code (R64, R155). -/
def sizeBytes (s : BitVec 3) : Nat :=
  match s.toNat with
  | 0 | 1 => 1
  | 2 | 3 => 2
  | 4 => 4
  | 5 => 8
  | _ => 16

def isFront (ln : Lane) : Bool :=
  match ln.who with
  | .front => true
  | .thread _ => false

/-- The registers a load of a size code writes: one, a pair, or a quad; one front register (R64, R155, R212). -/
def destCodes (ln : Lane) (d : BitVec 8) (s : BitVec 3) : List (BitVec 8) :=
  match s.toNat with
  | 5 => if isFront ln then [d] else [d, d + 1]
  | 6 => [d, d + 1, d + 2, d + 3]
  | _ => [d]

/-- The data a store of a size code writes, read at issue (R155). -/
def storeData (ln : Lane) (d : BitVec 8) (s : BitVec 3) : M (List Byte) :=
  match s.toNat with
  | 5 => do pure (leBytes 8 (← rd64 ln d).toNat)
  | 6 => do
    let vs ← rdMany ln.team (← theThread ln) d.toNat 4
    pure (vs.flatMap fun v => leBytes 4 v.toNat)
  | _ => do pure (leBytes (sizeBytes s) (← rd ln d).toNat)

/-- Natural alignment, where it is required (R156). -/
def aligned (ea n : Nat) : M Unit := check (ea % n = 0) Cause.misalignedData (BitVec.ofNat 64 ea)

/-- A page of strongly ordered kind (R254). -/
def Part.isSo (p : Part) : Bool := p.kind == 0

/-- CHECK of a global access by a lane (R151, R152, R161). -/
def checkAccess (ln : Lane) (ea n : Nat) (need : Need) (access : BitVec 8) : M (List Part) := do
  let T ← getTeam ln.team
  checkGlobal T.ctx ea n need access

/-- The thread's accesses before one to part `p` that every observer sees before it are not all performed (R254): before an
access to a strongly ordered page every store and remote request, before an RC store the RC ones. Stores to physical memory
keep their order on their way, and a request follows those to its bytes. -/
def State.mustWait (s : State) (t ctx : Nat) (o : Origin) (store : Bool) (p : Part) : Bool :=
  let before (kind x : BitVec 2) : Bool := kind == 0 || (store && kind == 1 && x == 1)
  match p.target with
  | .phys _ =>
    (p.isSo && !store && s.storeOf t o fun _ => true) || (s.remoteOf t o fun r => before p.kind r.kind) ||
      (s.pushPending t o.who && before p.kind 1)
  | .remote dev =>
    let kind : Unit → BitVec 2 := fun _ => Config.targetKind dev.toNat ctx (p.va / 65536)
    (s.storeOf t o fun w => before (kind ()) w.kind) ||
      (s.remoteOf t o fun r => before (kind ()) r.kind ||
        (r.dev == dev && decide (r.addr.toNat < p.va + p.len) && decide (p.va < r.addr.toNat + 16))) ||
      (s.pushPending t o.who && before (kind ()) 1)

/-- What an access waits for before it is issued: a remote one for the porch to commit (R258), each for the thread's
accesses that are ordered before it, one that reads for what stands before the stores it would read (R254), and each for
stores of a commit that stand before every later access. -/
def orderBefore (ln : Lane) (ps : List Part) (store : Bool) : M Unit := do
  if ps.any Part.isRemote then commitFirst ln.team else pure ()
  let T ← getTeam ln.team
  let s ← get
  if ps.any (s.mustWait ln.team T.ctx (T.origin ln.who) store) ||
      s.stores.any (fun w => w.team == ln.team && w.commit && w.sealed) then holdHere
  else if store then pure ()
  else readFirst ln.team (T.origin ln.who) ps

/-! ### Global loads -/

/-- Ask for the remote parts of a load and read the others. -/
def loadParts (ln : Lane) : List Part → M (List LoadPart)
  | [] => pure []
  | p :: ps => do
    let a ← match p.target with
      | .phys _ => do
        match p.badWord? (← get) (some ln.team) with
        | some a => pure (LoadPart.bad (BitVec.ofNat 64 a))
        | none => pure (LoadPart.bytes (← readParts ln.team [p]))
      | .remote dev => do
        let T ← getTeam ln.team
        pure (LoadPart.asked (← remoteAs 0 ln.team (T.origin ln.who) dev p.va (.load p.len)))
    let rest ← loadParts ln ps
    pure (a :: rest)

/-- The bytes of a load all of whose parts have come. -/
def partsReady : List LoadPart → Option (List Byte)
  | [] => some []
  | .bytes bs :: ps => (partsReady ps).map (bs ++ ·)
  | .bad _ :: ps => partsReady ps
  | .asked _ :: _ => none

/-- The first uncorrectable word that a load met (R161). -/
def partsBad (ps : List LoadPart) : Option Word64 :=
  ps.findSome? fun p => match p with
    | .bad a => some a
    | _ => none

/-- A load has its bytes: the result arrives after its window (R67, R155). -/
def loaded (ln : Lane) (d : BitVec 8) (s : BitVec 3) (l : Nat) (bs : List Byte) : M Unit :=
  later ln (destCodes ln d s) (.ready (loadVals (isFront ln) s bs)) l

def setWait (ln : Lane) (w : Option Wait) : M Unit :=
  match ln.who with
  | .front => modFront ln.team fun f => { f with wait := w }
  | .thread t => modThread ln.team t fun h => { h with wait := w }

/-- An acquire that reads a store which the team has not yet had performed waits for what a release of the team put before
its own (R255). -/
def acquireFirst (ln : Lane) (ps : List Part) : M Unit := do
  let s ← get
  let reads (p : Part) : Bool :=
    match p.target with
    | .phys pa => (List.range p.len).any fun i => s.ownByte ln.team (pa + i)
    | .remote _ => false
  if s.stores.any (fun w => w.team == ln.team && w.sealed) && ps.any reads then holdHere else pure ()

/-- A load has all of its parts: UNCORRECTABLE comes after what the remote parts met (R161). -/
def finishParts (parts : List LoadPart) (bs : List Byte) : M (List Byte) :=
  match partsBad parts with
  | some a => trap Cause.uncorrectable a
  | none => pure bs

/-- A load from a global address that has asked for its parts: the bytes, or the thread waits at the load for the answers
(R162). -/
def awaitParts (i : Instr) (ln : Lane) (ea : Nat) (parts : List LoadPart) : M (List Byte) := do
  match partsReady parts with
  | some bs => finishParts parts bs
  | none =>
    setWait ln (some (.load i ((encode32 i).getD 0) (BitVec.ofNat 64 ea) parts))
    holdHere

/-- A global load (R154–R162); `acquire` says that it is LD.A. A destination that cannot be written stops one of a remote page
before it commits the porch, and a source code that cannot be read a store (R131). -/
def loadGlobal (i : Instr) (ln : Lane) (ea : Nat) (d : BitVec 8) (s : BitVec 3) (l : Nat) (acquire : Bool) : M Next := do
  let ps ← checkAccess ln ea (sizeBytes s) ⟨true, false, false⟩ accLoad
  if ps.any Part.isRemote then (destCodes ln d s).forM (destOk ln) else pure ()
  orderBefore ln ps false
  if acquire then acquireFirst ln ps else pure ()
  let bs ← awaitParts i ln ea (← loadParts ln ps)
  seq (loaded ln d s l bs)

/-- A global store: a release commits the porch and follows everything issued before it (R159, R255). -/
def storeGlobal (ln : Lane) (ea : Nat) (d : BitVec 8) (s : BitVec 3) (release : Bool) : M Next := do
  let ps ← checkAccess ln ea (sizeBytes s) ⟨false, true, false⟩ accStore
  let bs ← storeData ln d s
  if release then
    pushFirst ln.team ln.who
    if ps.any Part.isRemote then drain ln.team
    else
      commitPorch ln.team
      modify fun st => st.seal ln.team
      if (← get).remotesPending ln.team then holdHere else pure ()
  else orderBefore ln ps true
  let T ← getTeam ln.team
  seq (writeParts ln.team (T.origin ln.who) ps bs)

/-! ### Local accesses -/

def loadHere (ln : Lane) (ea : Nat) (d : BitVec 8) (s : BitVec 3) (l : Nat) : M Next := do
  aligned ea (sizeBytes s)
  let bs ← loadLocal ln.team ea (sizeBytes s)
  seq (loaded ln d s l bs)

/-- A local store: a release of wing scope commits the porch and follows everything issued before it (R158, R255); any other
follows the thread's RC stores, a write through a window after the porch has committed (R252, R254, R302). -/
def storeHere (ln : Lane) (ea : Nat) (d : BitVec 8) (s : BitVec 3) (release : Bool) : M Next := do
  aligned ea (sizeBytes s)
  let p ← resolveLocal ln.team ea (sizeBytes s)
  let bs ← storeData ln d s
  if release then do
    pushFirst ln.team ln.who
    drain ln.team
  else
    if p.window then commitPorch ln.team else pure ()
    rcFirst ln.team ((← getTeam ln.team).origin ln.who)
  seq (storeLocal ln.team p bs)

/-! ### Atomics (R164, R165) -/

/-- The operations of R65. -/
inductive AtomOp where
  | add | add64 | min | max | and | or | xchg | cas | fadd | fadd2
  deriving DecidableEq, Repr

def AtomOp.bytes : AtomOp → Nat
  | .add64 => 8
  | _ => 4

/-- The op code of ATOM, as a remote request carries it (R65). -/
def AtomOp.code : AtomOp → BitVec 3
  | .add => 0
  | .add64 => 1
  | .min => 2
  | .max => 3
  | .and => 4
  | .or => 5
  | .xchg => 6
  | _ => 7

def AtomOp.ofCode (c : BitVec 3) : AtomOp :=
  match c.toNat with
  | 0 => .add
  | 1 => .add64
  | 2 => .min
  | 3 => .max
  | 4 => .and
  | 5 => .or
  | 6 => .xchg
  | _ => .cas

/-- Two bfloat16 sums (R164). -/
def addPairs (m x : Word) : Word :=
  let el (k : Nat) : BitVec 16 :=
    BitVec.ofNat 16 (bf16.op .plain .add (m.extractLsb' k 16).toNat (x.extractLsb' k 16).toNat 0)
  el 16 ++ el 0

/-- The new value of an atomic from the old one and the operand, the operand's upper half being g[d+1] of a pair (R164);
`none` when nothing is written. -/
def AtomOp.new (op : AtomOp) (m x : Word64) : Option Word64 :=
  let m' : Word := m.setWidth 32
  let x' : Word := x.setWidth 32
  let w (v : Word) : Option Word64 := some (v.setWidth 64)
  match op with
  | .add => w (m' + x')
  | .add64 => some (m + x)
  | .min => w (sminW m' x')
  | .max => w (smaxW m' x')
  | .and => w (m' &&& x')
  | .or => w (m' ||| x')
  | .xchg => w x'
  | .cas => if m' = x' then w (x.extractLsb' 32 32) else none
  | .fadd => w (add32 m' x')
  | .fadd2 => w (addPairs m' x')

/-- The operand of an atomic, read at issue. -/
def AtomOp.operand (op : AtomOp) (ln : Lane) (d : BitVec 8) : M Word64 :=
  match op with
  | .add64 | .cas => rd64 ln d
  | _ => do pure ((← rd ln d).setWidth 64)

/-- The registers and values an atomic delivers: the old value; a CAS leaves the second register of its pair as it is
(R164). -/
def AtomOp.result (op : AtomOp) (ln : Lane) (d : BitVec 8) (m x : Word64) : List (BitVec 8) × List Word64 :=
  let lo (v : Word64) : Word64 := (v.setWidth 32 : Word).setWidth 64
  match op with
  | .add64 => if isFront ln then ([d], [m]) else ([d, d + 1], [lo m, m >>> 32])
  | .cas =>
    if isFront ln then ([d], [x.extractLsb' 32 32 ++ m.extractLsb' 0 32]) else ([d, d + 1], [lo m, x >>> 32])
  | _ => ([d], [lo m])

/-- Before an atomic that the porch has no entry for: the porch commits, and the atomic waits until the commit has been
performed (R258). -/
def entryFirst (t : Nat) (ps : List Part) : M Unit := do
  let T ← getTeam t
  if T.revocable && decide (2048 ≤ T.porch.length) && !ps.any Part.isRemote then
    modify fun s => (s.commitPorch t).seal t
    holdHere
  else pure ()

/-- A global atomic (R164, R165). One that is performed at the porch takes an entry of its own, also when it writes nothing
(R258); one that is performed in memory comes after the team's earlier stores to its bytes. -/
def atomGlobal (op : AtomOp) (ln : Lane) (ea : Nat) (d : BitVec 8) (l : Nat) (scope : BitVec 2) : M Next := do
  let n := op.bytes
  aligned ea n
  let ps ← checkAccess ln ea n ⟨true, true, false⟩ accAtomic
  if scope ≠ 0 then commitFirst ln.team else entryFirst ln.team ps
  orderBefore ln ps false
  let x ← op.operand ln d
  let T ← getTeam ln.team
  match ps with
  | p :: _ =>
    match p.target with
    | .remote dev =>
      let id ← remoteAs 0 ln.team (T.origin ln.who) dev p.va (.atomic op.code x)
      seq (later ln (op.result ln d 0 0).1 (.remote id) l)
    | .phys pa =>
      let s ← get
      let overlap := s.stores.any fun w =>
        w.team == ln.team && decide (w.pa < pa + n) && decide (pa < w.pa + w.bytes.length)
      if !T.revocable && overlap then holdHere
      else
        checkWords (some ln.team) ps
        let m := BitVec.ofNat 64 (leNat (s.teamBytes ln.team pa n))
        let new := (op.new m x).map fun v => leBytes n v.toNat
        if T.revocable then modify fun s => s.storePart ln.team (T.origin ln.who) p.va pa p.kind (new.getD [])
        else modify fun s => (new.map fun bs => s.writePhys pa bs T.bprio).getD s
        let r := op.result ln d m x
        seq (later ln r.1 (.ready r.2) l)
  | [] => pure none

/-- A local atomic, performed at the target scratchpad (R165): one whose compare fails writes back what it read, and so
updates the parity all the same (R266). -/
def atomHere (op : AtomOp) (ln : Lane) (ea : Nat) (d : BitVec 8) (l : Nat) (wing : Bool) : M Next := do
  aligned ea 4
  let p ← resolveLocal ln.team ea 4
  if wing then commitFirst ln.team else pure ()
  let x ← op.operand ln d
  let m := BitVec.ofNat 64 (leNat (← readLocal p ea 4))
  match op.new m x with
  | some v => storeLocal ln.team p (leBytes 4 v.toNat)
  | none => touchLocal p 4
  let r := op.result ln d m x
  seq (later ln r.1 (.ready r.2) l)

/-- What a system fence reports: a refused or expired remote store or atomic since the last one (R166). -/
def reportRemote (ln : Lane) (b : BitVec 3) : M Unit :=
  match ln.who with
  | .thread t => do
    let h ← getThread ln.team t
    wrB ln b h.remoteFail.isSome
    match h.remoteFail with
    | some addr =>
      modThread ln.team t fun h =>
        let h := { h with remoteFail := none }
        if h.tcause.getLsbD 8 then h else { h with tcause := Cause.remoteAccess.setWidth 32, taddr := addr }
    | none => pure ()
  | .front => do
    let f ← getFront ln.team
    wrB ln b f.remoteFail.isSome
    modFront ln.team fun f => { f with remoteFail := none }

/-- FENCE (R166). -/
def bodyFence (s : BitVec 5) (b : BitVec 3) : Body := fun ln => seq do
  if 3 ≤ s.toNat then drain ln.team else pure ()
  if s = 5 then reportRemote ln b else wrB ln b false

end Sys2Proof.Machine
end

