-- ==== Sys2Proof/Machine/Engine.lean ====
section
/-!
DEFINITION. What the engines of a team share (R158, R173, R177, R250, R259): their reads and writes of global memory, of
scratchpads, and how a step of an engine ends in a page fault, in an abandonment or in a consumption (R303).
-/

namespace Sys2Proof.Machine

/-- Engines of a team run while the team is on a core, also when it is being pre-empted (R178). -/
def State.enginesRun (s : State) (team : Nat) : Bool :=
  match s.team? team with
  | some T => T.status == .resident || T.status == .resting
  | none => false

/-- An engine operation that a lane starts: what makes its accesses. It is not started before the thread has pushed what it
owes, since a push is an access that the engine's are to follow (R180, R259). -/
def newOp (ln : Lane) : M Origin := do
  pushFirst ln.team ln.who
  let T ← getTeam ln.team
  let s ← get
  set { s with nextSeq := s.nextSeq + 1 }
  pure { T.origin ln.who with op := some s.nextSeq }

/-- The accesses of an engine operation follow every access that its thread made before it (R259). -/
def afterFork (team : Nat) (o : Origin) : M Unit := do
  if (← get).forkPending team o then hold else pure ()

/-- The stores of an engine operation stand before every later store of its team. -/
def State.sealOrigin (s : State) (team : Nat) (o : Origin) : State :=
  match o.op with
  | some n => s.sealOp team n
  | none => s

/-- Whether every store of an engine operation has been performed, so that it may show its completion; those in the porch
then stand before every later store (R259). -/
def joined (team : Nat) (o : Origin) : M Bool := do
  if (← get).opPending team o then pure false
  else
    modify fun s => s.sealOrigin team o
    pure true

/-- The local parts of a read are read; those on remote pages are asked for. -/
def askParts (agent team : Nat) (o : Origin) : List Part → M (List LoadPart)
  | [] => pure []
  | p :: ps => do
    let a ← match p.target with
      | .phys _ => do
        readFirst team o [p]
        pure (LoadPart.bytes (← readParts team [p]))
      | .remote dev => do pure (LoadPart.asked (← remoteAs agent team o dev p.va (.load p.len)))
    let rest ← askParts agent team o ps
    pure (a :: rest)

/-- An engine's read of `n` bytes of global memory (R161, R250). -/
def engineRead (agent team : Nat) (o : Origin) (va n : Nat) : M (List LoadPart) := do
  let T ← getTeam team
  let ps ← checkGlobal T.ctx va n ⟨true, false, false⟩ accEngine
  checkWords (some team) ps
  askParts agent team o ps

/-- The parts of an engine's write: stores of the team (R159, R258); those to remote pages are requests to be answered.
`holes` are virtual addresses that the write leaves out. -/
def sendParts (agent team : Nat) (o : Origin) (holes : List Nat) : List Part → List Byte → M (List Nat)
  | [], _ => pure []
  | p :: ps, bs => do
    let mine ← match p.target with
      | .phys pa => do
        modify fun s => s.storePart team o p.va pa p.kind (bs.take p.len) (holes.map fun h => pa + h - p.va)
        pure []
      | .remote dev =>
        (runsBetween holes p.va (bs.take p.len)).mapM fun r => remoteAs agent team o dev r.1 (.store r.2)
    let rest ← sendParts agent team o holes ps (bs.drop p.len)
    pure (mine ++ rest)

/-- An engine's write of global memory. -/
def engineWrite (agent team : Nat) (o : Origin) (va : Nat) (bs : List Byte) (holes : List Nat := []) : M (List Nat) := do
  let T ← getTeam team
  let ps ← checkGlobal T.ctx va bs.length ⟨false, true, false⟩ accEngine
  sendParts agent team o holes ps bs

def engineStoreGo (agent team : Nat) (o : Origin) : List (Nat × List Byte) → M (List Nat)
  | [] => pure []
  | c :: cs => do
    let a ← engineWrite agent team o (c.1 % 2 ^ 64) c.2
    let rest ← engineStoreGo agent team o cs
    pure (a ++ rest)

/-- An engine's write, chunk by chunk: each takes a porch entry of its own (R258). -/
def engineStore (agent team : Nat) (o : Origin) (va : Nat) (bs : List Byte) : M (List Nat) :=
  engineStoreGo agent team o (pieces 16 (bs.length + 1) va bs)

/-- An engine's read in either space: local addresses where `here` (R190). -/
def engineGet (agent team : Nat) (o : Origin) (here : Bool) (a n : Nat) : M (List LoadPart) :=
  if here then do pure [LoadPart.bytes (← loadLocal team a n)] else engineRead agent team o (a % 2 ^ 64) n

/-- An engine's write in either space. -/
def enginePut (agent team : Nat) (o : Origin) (here : Bool) (a : Nat) (bs : List Byte) : M (List Nat) := do
  if here then
    let l ← resolveLocal team a bs.length
    storeLocal team l bs
    pure []
  else engineStore agent team o a bs

/-- Many reads, in order. -/
def engineGets (agent team : Nat) (o : Origin) (here : Bool) : List (Nat × Nat) → M (List LoadPart)
  | [] => pure []
  | (a, n) :: rs => do
    let p ← engineGet agent team o here a n
    let rest ← engineGets agent team o here rs
    pure (p ++ rest)

/-- A place of an engine's in a scratchpad: the team it lies in is there, on a core, and not relaunched since; the
engine waits for a peer that is off its core (R184). -/
def placeReady (at_ : Local × Nat) (named : Word64) : M Unit := do
  match (← get).team? at_.1.team with
  | some P =>
    check (P.relaunches == at_.2 && P.status != .ended) Cause.wingRevoked named
    if P.status = .resident ∨ P.status = .resting then pure () else hold
  | none => trap Cause.wingRevoked named

/-- A fault gives an engine operation up, once its stores have been performed, which then stand before what follows (R259);
consumption of a word waits for nothing (R303). -/
def State.engineFault (s : State) (team : Nat) (o : Origin) (cause : BitVec 8) (addr : Word64)
    (onFault : BitVec 8 → Word64 → Option Local → State → State) : State :=
  if cause = Cause.uncorrectable then onFault cause addr none s
  else
    match runM (joined team o) s with
    | .ok (true, s') => onFault cause addr none s'
    | _ => s

/-- A step of an engine operation has done what must wait for the porch of its team to commit: it has made remote requests,
or written through a window, before the commit has been performed (R159, R258, R259, R302). -/
def State.tooSoon (s s' : State) (team : Nat) : Bool :=
  let held (s : State) : Bool := (s.team? team).any (·.revocable)
  (held s && !held s') || (s'.nextRemote != s.nextRemote && (held s || s.committing team))

/-- A step of an engine operation, after the accesses that it follows (R259), and how it goes on from its performance. One
that makes the team's first access to a remote page, or writes through a window, commits the porch, and is made after that
(R258, R259, R302). -/
def engineStep (s : State) (team : Nat) (o : Origin) (m : M Unit) (onPage : Word64 → State → State)
    (onFault : BitVec 8 → Word64 → Option Local → State → State) : State :=
  match runM (do afterFork team o; m) s with
  | .ok (_, s') => if s.tooSoon s' team then s.commitPorch team else s'
  | .error (.page a _) => onPage a s
  | .error (.pageAt a _ _) => onPage a s
  | .error (.lost l a) => onFault Cause.reconstruction a (some l) s
  | .error (.trap c a) => s.engineFault team o c a onFault
  | .error (.trapAt c a _) => s.engineFault team o c a onFault
  | .error (.hold s') => if s.tooSoon s' team then s.commitPorch team else s'
  | .error (.done s') => s'
  | .error .retry => s
  | .error .missing => s

/-- A fault of an engine that has no completion object (R177, R301). -/
def State.report4 (s : State) (T : Team) (o : Origin) (agent : Nat) (cause : BitVec 8) (addr : Word64) : State :=
  s.report T.ctx
    { type := 4, detail := detail cause.toNat agent 0 0 addr (whereBytes T o.who), launch := some T.launch }

/-- The engine registered on a barrier is abandoned for a fault at an address (R173, R177). -/
def Team.abandonOn (T : Team) (k : Nat) (a? : Option Word64) : Team := (T.breakNb k a?).engineDone k

/-- CRC-32C (R201): polynomial 0x1EDC6F41, reflected, initial value and final XOR all ones. -/
def crcBit (c : Word) : Word := if c.getLsbD 0 then (c >>> 1) ^^^ 0x82F63B78 else c >>> 1

def crcByte (c : Word) (b : Byte) : Word :=
  crcBit (crcBit (crcBit (crcBit (crcBit (crcBit (crcBit (crcBit (c ^^^ b.setWidth 32))))))))

def crc32c (bs : List Byte) : Word := ~~~ (bs.foldl crcByte 0xFFFFFFFF)

/-- An engine's TRANSLATION fault at an address: RECORD, and what the engine sleeps on, a record or until one is free
(R177, R248, R250). -/
def State.enginePage (s : State) (ctx : Nat) (a : Word64) : State × Asleep :=
  match s.recordFault ctx a accEngine with
  | some (s, r) => (s, .on r)
  | none => (s, .free a)

/-- An answer has come for a part that was asked for. -/
def LoadPart.answer (id : Nat) (bs : List Byte) (p : LoadPart) : LoadPart := if p = .asked id then .bytes bs else p

end Sys2Proof.Machine
end

