-- ==== Sys2Proof/Machine/Copies.lean ====
section
/-!
DEFINITION. The copy engine (R174–R178): the five copy instructions and one transfer of a running copy.
-/

namespace Sys2Proof.Machine

/-! ### The tensor box descriptor (R175) -/

structure Box where
  base : Nat
  rank : Nat
  esize : Nat
  swizzle : Bool
  size : List Nat
  ext : List Nat
  stride : List Nat
  deriving DecidableEq, Repr

def Box.of (d : List Byte) : Box :=
  let rank := fieldN d 8 1
  { base := fieldN d 0 8, rank := rank, esize := 2 ^ fieldN d 9 1, swizzle := fieldN d 10 1 == 1,
    size := (List.range rank).map fun j => fieldN d (16 + 4 * j) 4,
    ext := (List.range rank).map fun j => fieldN d (36 + j) 1,
    stride := (List.range rank).map fun j => if j = 0 then 2 ^ fieldN d 9 1 else 16 * fieldN d (40 + 4 * j) 4 }

/-- Every field is one that the table admits; reserved fields are ignored (R7). -/
def boxValid (d : List Byte) : Bool :=
  let rank := fieldN d 8 1
  decide (1 ≤ rank) && decide (rank ≤ 5) && decide (fieldN d 9 1 ≤ 3) && decide (fieldN d 10 1 ≤ 1) &&
    (Box.of d).size.all (· != 0) && (Box.of d).ext.all (· != 0) && decide ((Box.of d).base % (Box.of d).esize = 0)

/-- Elements of the box, and its bytes. -/
def Box.count (b : Box) : Nat := b.ext.foldl (· * ·) 1
def Box.bytes (b : Box) : Nat := b.count * b.esize

/-- The box index of element number n, dimension 0 fastest. -/
def boxIndex : List Nat → Nat → List Nat
  | [], _ => []
  | x :: xs, n => n % x :: boxIndex xs (n / x)

/-- Coordinates of element n, and the same clamped into the tensor (R176). -/
def Box.coords (b : Box) (c : List Int) (n : Nat) : List Int :=
  ((boxIndex b.ext n).map Int.ofNat).zipWith (fun e x => x + (e : Int)) c
def Box.clamp (b : Box) (x : List Int) : List Nat := x.zipWith (fun x n => min (max x 0).toNat (n - 1)) b.size
def Box.inside (b : Box) (x : List Int) : Bool := (x.zipWith (fun x n => decide (0 ≤ x) && decide (x < (n : Int))) (b.size.map Int.ofNat)).all id

/-- Global virtual address of an element at clamped coordinates. -/
def Box.at (b : Box) (x : List Nat) : Nat := (b.base + (x.zipWith (· * ·) b.stride).foldl (· + ·) 0) % 2 ^ 64

/-- Byte offset of element n in the scratchpad image of the box. -/
def Box.off (b : Box) (n : Nat) : Nat :=
  let off := n * b.esize
  let row := n / b.ext.headD 1
  if b.swizzle then off ^^^ (row % 8 * 16) else off

/-! ### Issue -/

/-- The control word's barrier (R174). -/
def ctlBarrier (c : Word) : Option Nat := if c.getLsbD 22 then some (c.extractLsb' 18 4).toNat else none

/-- A local range that a copy reads or writes: within the scratchpad or one window; it is resolved at issue, and how
often its team had been relaunched goes with it (R176). -/
def localRange (team : Nat) (x : Word) (n : Nat) : M (Option (Local × Nat)) := do
  let s ← get
  match s.local? team x.toNat n with
  | .error c => trap c (x.setWidth 64)
  | .ok l => pure ((s.team? l.team).map fun P => (l, P.relaunches))

/-- Register on the barrier and start the copy. DESIGN CHOICE (log entry 61): BARRIER_MISUSE, which R176's list of checks
does not name, comes after all of them. -/
def startCopy (ln : Lane) (C : Origin → Copy) : M Unit := do
  let o ← newOp ln
  let C := C o
  registerNb ln.team C.barrier
  modTeam ln.team fun T => { T with copies := SMap.insert T.nextCopy C T.copies, nextCopy := T.nextCopy + 1 }

/-- The signed coordinates of a box: s registers, or in front code f registers (R176, R213). -/
def readCoords (ln : Lane) (sc rank : Nat) : M (List Int) :=
  (List.range rank).mapM fun j =>
    match ln.who with
    | .thread _ => do pure (← rdS ln (sc + j)).toInt
    | .front => do pure (← rd ln (BitVec.ofNat 8 (sc + j))).toInt

/-- CPY.G2L and CPY.L2G, with the checks in the order of R176. -/
def boxCopy (kind : CopyKind) (sc : BitVec 5) (l c : BitVec 8) : Body := fun ln => seq do
  let x ← rd ln l
  let ctl ← rd ln c
  let T ← getTeam ln.team
  let at_ := (ctl.extractLsb' 0 18).toNat
  let seen := (← get).boxSeen ln.team at_
  check (seen.isEmpty || decide (sc.toNat + fieldN seen 8 1 ≤ 64)) Cause.illegalRegister
  check (ctl.extractLsb' 23 9 == 0 && at_ % 64 == 0) Cause.operandFormat
  check (decide (at_ + 64 ≤ T.size)) Cause.protection (BitVec.ofNat 64 at_)
  let d ← readLocal ⟨ln.team, at_, false⟩ at_ 64
  let b := Box.of d
  check (boxValid d && (!b.swizzle || ((b.ext.headD 0 * b.esize) % 128 == 0 && x.toNat % 128 == 0))) Cause.operandFormat
  let place ← localRange ln.team x b.bytes
  let coord ← readCoords ln sc.toNat b.rank
  let g2l := kind == .g2l
  startCopy ln fun o =>
    { kind := kind, origin := o, desc := d, coord := coord, src := if g2l then 0 else x.setWidth 64,
      dst := if g2l then x.setWidth 64 else 0, srcAt := if g2l then none else place,
      dstAt := if g2l then place else none, total := b.bytes, done := 0, barrier := ctlBarrier ctl, sleep := none,
      parts := [], out := [] }

/-- The byte count of CPY.L2L and CPY.G2G (R174). -/
def byteCount (ctl : Word) : M Nat := do
  let n := (ctl.extractLsb' 0 18).toNat
  check (ctl.extractLsb' 23 9 == 0 && n != 0 && n % 16 == 0) Cause.operandFormat
  pure n

/-- CPY.L2L: the source range is checked before the destination range. -/
def localCopy (p c : BitVec 8) : Body := fun ln => seq do
  let pr ← match ln.who with
    | .front => do pure (← rd64 ln p)
    | .thread _ => rd64 ln p
  let ctl ← rd ln c
  let n ← byteCount ctl
  let dst : Word := pr.extractLsb' 0 32
  let src : Word := pr.extractLsb' 32 32
  let from_ ← localRange ln.team src n
  let to_ ← localRange ln.team dst n
  startCopy ln fun o =>
    { kind := .l2l, origin := o, desc := [], coord := [], src := src.setWidth 64, dst := dst.setWidth 64,
      srcAt := from_, dstAt := to_, total := n, done := 0, barrier := ctlBarrier ctl, sleep := none, parts := [],
      out := [] }

/-- CPY.G2G. -/
def globalCopy (p c : BitVec 8) : Body := fun ln => seq do
  let dst ← rd64 ln p
  let src ← rd64 ln (p + 2)
  let ctl ← rd ln c
  let n ← byteCount ctl
  startCopy ln fun o =>
    { kind := .g2g, origin := o, desc := [], coord := [], src := src, dst := dst, srcAt := none, dstAt := none,
      total := n, done := 0, barrier := ctlBarrier ctl, sleep := none, parts := [], out := [] }

/-- A tensor box is copied from global memory to a scratchpad (R174–R176). -/
def bodyCpyG2l (s : BitVec 5) (l : BitVec 8) (c : BitVec 8) : Body := boxCopy .g2l s l c
@[inherit_doc bodyCpyG2l]
def execCpyG2l (s : BitVec 5) (l : BitVec 8) (c : BitVec 8) (s_ : State) : Result :=
  issue (.cpyG2l s l c) (bodyCpyG2l s l c) s_

/-- A tensor box is copied from a scratchpad to global memory (R174–R176). -/
def bodyCpyL2g (s : BitVec 5) (l : BitVec 8) (c : BitVec 8) : Body := boxCopy .l2g s l c
@[inherit_doc bodyCpyL2g]
def execCpyL2g (s : BitVec 5) (l : BitVec 8) (c : BitVec 8) (s_ : State) : Result :=
  issue (.cpyL2g s l c) (bodyCpyL2g s l c) s_

/-- Bytes are copied between local addresses (R174, R176). -/
def bodyCpyL2l (p : BitVec 8) (c : BitVec 8) : Body := localCopy p c
@[inherit_doc bodyCpyL2l]
def execCpyL2l (p : BitVec 8) (c : BitVec 8) (s_ : State) : Result := issue (.cpyL2l p c) (bodyCpyL2l p c) s_

/-- Bytes are copied between global addresses (R174, R176); front code's quad traps at decode (R212). -/
def bodyCpyG2g (p : BitVec 8) (c : BitVec 8) : Body := globalCopy p c
@[inherit_doc bodyCpyG2g]
def execCpyG2g (p : BitVec 8) (c : BitVec 8) (s_ : State) : Result := issue (.cpyG2g p c) (bodyCpyG2g p c) s_

/-- A prefetch: its control word is checked, and it reads nothing and never faults (R174). DESIGN CHOICE (log entry 86): only
non-zero bits [31:27] trap OPERAND_FORMAT, and no byte count does. -/
def bodyCpyPfx (_p : BitVec 8) (c : BitVec 8) : Body := fun ln => seq do
  let ctl ← rd ln c
  check (ctl.extractLsb' 27 5 == 0) Cause.operandFormat
@[inherit_doc bodyCpyPfx]
def execCpyPfx (p : BitVec 8) (c : BitVec 8) (s_ : State) : Result := issue (.cpyPfx p c) (bodyCpyPfx p c) s_

/-! ### Transfers (R176) -/

/-- One side of a piece: a global address, or an offset in the copy's local side. -/
inductive Side where
  | global (va : Nat)
  | here (off : Nat)
  deriving DecidableEq, Repr

/-- A piece of a copy: bytes counted, and runs of bytes to move (source, destination, length); none when the elements
lie outside the tensor. -/
structure Piece where
  bytes : Nat
  moves : List (Side × Side × Nat)
  deriving DecidableEq, Repr

/-- How many more elements of the row after element n go into the same 16-byte chunk of global memory. -/
def runOn (b : Box) (c : List Int) (va : Nat) (n : Nat) : Nat → Nat → Nat
  | 0, k => k
  | fuel + 1, k =>
    let x := b.coords c (n + k)
    if (n + k) % b.ext.headD 1 ≠ 0 ∧ b.inside x ∧ b.at (b.clamp x) / 16 = va / 16 then runOn b c va n fuel (k + 1)
    else k

/-- The elements of a box that lie in an aligned 16-byte chunk of global memory: number and address (R176). -/
def Box.inChunk (b : Box) (c : List Int) (q : Nat) : List (Nat × Nat) :=
  let w := b.ext.headD 1
  (List.range (b.count / w)).flatMap fun r =>
    let x := b.coords c (r * w)
    let row := b.at (0 :: (b.clamp x).drop 1)
    let first := (BitVec.ofInt 64 ((16 * q : Int) - row)).toInt / b.esize
    (List.range (16 / b.esize)).filterMap fun (k : Nat) =>
      let x0 := first + (k : Int)
      let e := x0 - c.headD 0
      if 0 ≤ e ∧ e < w ∧ b.inside (x0 :: x.drop 1) then some (r * w + e.toNat, (row + x0.toNat * b.esize) % 2 ^ 64)
      else none

/-- The bytes of a chunk that elements write, with the place of each in the image of the box: of elements that overlap the
last one stands. -/
def Box.chunkBytes (b : Box) (es : List (Nat × Nat)) (q : Nat) : List (Nat × Nat) :=
  (List.range 16).filterMap fun j =>
    let a := 16 * q + j
    ((es.filter fun e => decide (e.2 ≤ a) && decide (a < e.2 + b.esize)).getLast?).map fun e => (a, b.off e.1 + (a - e.2))

/-- Bytes whose addresses and places both follow one another, as runs: address, place and length. -/
def joinBytes : List (Nat × Nat) → List (Nat × Nat × Nat)
  | [] => []
  | (a, o) :: rest =>
    match joinBytes rest with
    | (a', o', n) :: rs => if a' = a + 1 ∧ o' = o + 1 then (a, o, n + 1) :: rs else (a, o, 1) :: (a', o', n) :: rs
    | [] => [(a, o, 1)]

/-- How many of the bytes still to be counted lie in the aligned block of `unit` bytes of an address. -/
def Copy.inBlock (C : Copy) (unit a : Nat) : Nat := min (unit - a % unit) (C.total - C.done)

/-- The runs of consecutive elements that byte `i` and the `n - 1` after it, of a box image, belong to: element number,
first byte in it, and bytes of it. -/
def elementRuns (e : Nat) : Nat → Nat → Nat → List (Nat × Nat × Nat)
  | 0, _, _ => []
  | fuel + 1, i, n =>
    if n = 0 then []
    else
      let k := min n (e - i % e)
      (i / e, i % e, k) :: elementRuns e fuel (i + k) (n - k)

/-- The next piece of a copy: what falls into one aligned word of a local destination, so that each word of it holds its
old value or the copied one (R178); into one aligned 16-byte chunk of a global one (R258). A chunk in which several rows of
a box meet is written with the first of its elements, all of it at once, and the others then only count. -/
def Copy.piece (C : Copy) : Piece :=
  let b := Box.of C.desc
  let i := C.done
  match C.kind with
  | .l2l =>
    let n := C.inBlock 4 ((C.dstAt.map (·.1.off)).getD 0 + i)
    ⟨n, [(.here i, .here i, n)]⟩
  | .g2g =>
    let d := C.dst.toNat + i
    let n := C.inBlock 16 d
    ⟨n, [(.global ((C.src.toNat + i) % 2 ^ 64), .global (d % 2 ^ 64), n)]⟩
  | .g2l =>
    let off (n w : Nat) : Nat := b.off n + w
    let n := C.inBlock 4 ((C.dstAt.map (·.1.off)).getD 0 + off (i / b.esize) (i % b.esize))
    ⟨n, (elementRuns b.esize (n + 1) i n).map fun r =>
      (.global ((b.at (b.clamp (b.coords C.coord r.1)) + r.2.1) % 2 ^ 64), .here (off r.1 r.2.1), r.2.2)⟩
  | .l2g =>
    let n := i / b.esize
    let x := b.coords C.coord n
    if !b.inside x then ⟨b.esize, []⟩
    else
      let va := b.at (b.clamp x)
      let k := runOn b C.coord va n 16 1
      let es := b.inChunk C.coord (va / 16)
      if es.any (fun e => decide (e.1 < n)) then ⟨k * b.esize, []⟩
      else ⟨k * b.esize, (joinBytes (b.chunkBytes es (va / 16))).map fun r => (.here r.2.1, .global r.1, r.2.2)⟩

/-- How far the destination of a copy of consecutive bytes lies above its source, where that is in the same place. -/
def Copy.above (C : Copy) : Nat :=
  match C.kind, C.srcAt, C.dstAt with
  | .g2g, _, _ => (C.dst - C.src).toNat
  | .l2l, some s, some d => if s.1.team = d.1.team ∧ s.1.off < d.1.off then d.1.off - s.1.off else 0
  | _, _, _ => 0

/-- The bytes of a piece, copied in ascending order: a byte whose source the piece itself has written is that one. -/
def Copy.ascending (C : Copy) (bs : List Byte) : List Byte :=
  let d := C.above
  if d = 0 ∨ bs.length ≤ d then bs else (List.range bs.length).map fun j => bs.getD (j % d) 0

/-- Read the source of a piece: what lies on another device is asked for. -/
def readMoves (team : Nat) (C : Copy) : List (Side × Side × Nat) → M (List LoadPart)
  | [] => pure []
  | (src, _, n) :: ms => do
    let a ← match src with
      | .global va => engineRead 2 team C.origin va n
      | .here off =>
        match C.srcAt with
        | some l => do
          let named := C.src + BitVec.ofNat 64 off
          placeReady l named
          pure [LoadPart.bytes (← readLocal { l.1 with off := l.1.off + off } named.toNat n)]
        | none => pure []
    let rest ← readMoves team C ms
    pure (a ++ rest)

/-- The bytes of runs in rising order, from the first to the last, with zero between runs, and the addresses between them. -/
def spread : Nat → List (Side × Side × Nat) → List Byte → List Byte × List Nat
  | _, [], _ => ([], [])
  | a, (_, .global va, n) :: ms, bs =>
    let r := spread (va + n) ms (bs.drop n)
    (List.replicate (va - a) 0 ++ bs.take n ++ r.1, (List.range (va - a)).map (a + ·) ++ r.2)
  | a, (_, .here _, _) :: ms, bs => spread a ms bs

/-- Write the bytes of a piece: a global destination as one write, which leaves out what lies between its runs. -/
def writeMoves (team : Nat) (C : Copy) (ms : List (Side × Side × Nat)) (bs : List Byte) : M (List Nat) :=
  match ms with
  | [] => pure []
  | (_, .global va, _) :: _ => do
    let w := spread va ms bs
    engineWrite 2 team C.origin va w.1 w.2
  | (_, .here off, _) :: _ =>
    match C.dstAt with
    | some l => do
      placeReady l (C.dst + BitVec.ofNat 64 off)
      storeLocal team { l.1 with off := l.1.off + off } bs
      pure []
    | none => pure []

def modCopy (team id : Nat) (f : Copy → Copy) : M Unit :=
  modTeam team fun T => { T with copies := SMap.modify id f T.copies }

/-- Every byte of a copy has landed: once its stores have been performed it is finished (R168, R173, R259). -/
def finishCopy (team id : Nat) (C : Copy) : M Unit := do
  if ← joined team C.origin then
    modTeam team fun T =>
      let T := match C.barrier with
        | some k => T.engineDone k
        | none => T
      { T with copies := SMap.erase id T.copies }
  else pure ()

/-- A piece has landed: its bytes count, and the last one finishes the copy (R168, R173). -/
def landPiece (team id : Nat) (C : Copy) (n : Nat) : M Unit := do
  modTeam team fun T =>
    let T := match C.barrier with
      | some k => T.landBytes k n
      | none => T
    { T with copies := SMap.modify id (fun C => { C with done := C.done + n, parts := [], out := [] }) T.copies }
  if C.total ≤ C.done + n then finishCopy team id C else pure ()

/-- One piece of a copy: read, then written, then landed; it waits for other devices between these. -/
def copyPiece (team id : Nat) (C : Copy) : M Unit := do
  if C.total ≤ C.done then finishCopy team id C
  else
    let p := C.piece
    let parts ← if C.parts.isEmpty then readMoves team C p.moves else pure C.parts
    match partsReady parts with
    | none =>
      modCopy team id fun C => { C with parts := parts }
      holdHere
    | some bs =>
      let out ← writeMoves team C p.moves (C.ascending bs)
      if out.isEmpty then landPiece team id C p.bytes
      else modCopy team id fun C => { C with parts := parts, out := out }

/-- The copy is given up for a fault (R177): its barrier breaks, or a record is written; a word that could not be read
contains the team (R303). DESIGN CHOICE (log entry 82): TINST and PC are 0 in the record of a fourth consumption met by a
copy, as in State.mxAbandon. -/
def State.abandonCopy (s : State) (team id : Nat) (C : Copy) (cause : BitVec 8) (addr : Word64)
    (place : Option Local := none) : State :=
  match s.team? team with
  | none => s
  | some T =>
    let T' : Team := { T with copies := SMap.erase id T.copies }
    let s := match C.barrier with
      | some k => s.setTeam team (T'.abandonOn k (some addr))
      | none => (s.setTeam team T').report4 T C.origin 2 cause addr
    if cause = Cause.uncorrectable ∨ place.isSome then s.consume team C.origin.who cause 0 0 addr place else s

/-- One transfer of a running copy (R176–R178). A copy that sleeps on a fault record, or waits for another device,
does nothing. -/
def execCopyTransfer (team : Nat) (id : Nat) (s_ : State) : Result :=
  .next <|
    match (s_.team? team).bind (fun T => SMap.find? id T.copies) with
    | none => s_
    | some C =>
      if !s_.enginesRun team || C.sleep.isSome || !C.out.isEmpty then s_
      else
        engineStep s_ team C.origin (copyPiece team id C)
          (fun a s =>
            match s.team? team with
            | some T =>
              let r := s.enginePage T.ctx a
              r.1.modTeam team fun T =>
                { T with copies := SMap.modify id (fun C => { C with sleep := some r.2 }) T.copies }
            | none => s)
          (fun cause addr place s => s.abandonCopy team id C cause addr place)

end Sys2Proof.Machine
end

