-- ==== Sys2Proof/Machine/Wizin.lean ====
section
/-!
DEFINITION. Kernel images (R331), and Wizin: the checks of a portable body (R337–R339), errata
(R342, R343), and the translations it keeps (R336, R340).
-/

namespace Sys2Proof.Machine

/-! ### What the dispatcher reads (R274, R275) -/

/-- Refuse a launch record: the checks of admission all end so, and nothing else of the cause is kept. -/
def refuse {α : Type} : M α := trap Cause.illegal

/-- Refuse unless a condition holds. -/
def need (c : Bool) : M Unit := check c Cause.illegal

def sysReadGo (c : Nat) (need : Need) : List Part → M (List Byte)
  | [] => pure []
  | p :: ps => do
    let bs ← match p.target with
      | .phys pa => do
        let s ← get
        pure ((List.range p.len).map fun i => s.physByte (pa + i))
      | .remote _ => refuse
    let rest ← sysReadGo c need ps
    pure (bs ++ rest)

/-- A read of `n` bytes in a context that needs permissions; anything but a read from this device's memory stops it. -/
def sysReadAs (c : Nat) (need : Need) (va : Word64) (n : Nat) : M (List Byte) := do
  if n = 0 then pure []
  else
    let ps ← checkGlobal c va.toNat n need accLoad
    checkWords none ps
    sysReadGo c need ps

/-- A read by the dispatcher. -/
def sysRead (c : Nat) (va : Word64) (n : Nat) : M (List Byte) := sysReadAs c ⟨true, false, false⟩ va n

/-- A read of an image, which lies on pages with read and execute permission (R331). -/
def imageRead (c : Nat) (va : Word64) (n : Nat) : M (List Byte) := sysReadAs c ⟨true, false, true⟩ va n

/-! ### The image header (R331) -/

structure Image where
  flags : Nat
  hash : Word64
  noff : Nat
  nsize : Nat
  poff : Nat
  psize : Nat
  toff : Nat
  eoff : Nat
  ecount : Nat
  serial : Word64
  deriving DecidableEq, Repr

def Image.of (d : List Byte) : Image :=
  { flags := fieldN d 6 2, hash := BitVec.ofNat 64 (fieldN d 8 8), noff := fieldN d 16 4, nsize := fieldN d 20 4,
    poff := fieldN d 24 4, psize := fieldN d 28 4, toff := fieldN d 32 4, eoff := fieldN d 36 4,
    ecount := fieldN d 40 2, serial := BitVec.ofNat 64 (fieldN d 52 8) }

/-- The header names an image of this format and keeps the limits of its table; reserved bytes are ignored (R7). -/
def imageOk (d : List Byte) : Bool :=
  let i := Image.of d
  fieldN d 0 4 == 0x314B594C && fieldN d 4 2 == 1 && i.noff % 256 == 0 && i.nsize % 2 == 0 && i.poff % 4 == 0 &&
    i.psize % 4 == 0 && i.toff % 4 == 0 && i.eoff % 4 == 0 && decide (i.ecount ≤ 255)

/-! ### The checks of a portable body (R337–R339) -/

/-- Segments that an instruction of a segment, or its successor word, names. -/
def segmentTargets : Instr → List Nat
  | .stage _ k => [k.toNat]
  | .succGoto t => [t.toNat]
  | .succBr _ _ t u => [t.toNat, u.toNat]
  | .succSw _ ts => ts.map (·.toNat)
  | .succCall t r => [t.toNat, r.toNat]
  | _ => []

/-- Transfers whose place a successor word takes (R339). -/
def notInSegment : Instr → Bool
  | .bra _ _ _ | .call _ _ _ | .jmpi _ | .calli _ | .ret | .exit | .land | .rtt => true
  | _ => false

/-- A word that a segment may hold (R339). -/
def segmentWord (w : Word) : Option Instr :=
  if !w.getLsbD 0 then none
  else (decodeSegment w).filter fun i => !notInSegment i && (i.threadOk || i.frontOk)

/-- A successor word that a segment may end in (R338). -/
def segmentSucc (ws : List Word) : Option Instr :=
  ((decodeSucc ws).map (·.1)).filter fun i =>
    match i with
    | .succSw r _ => decide (r.toNat < 220)
    | _ => true

/-- The instructions of segment k, its successor last; `none` is a load error. -/
def Xlat.segInstrs (x : Xlat) (k : Nat) : Option (List Instr) := do
  let ws ← ((List.range (x.seg k).2).map (x.word k)).mapM segmentWord
  let sc ← segmentSucc (x.succWords k)
  pure (ws ++ [sc])

/-- Segment k's table entry is well formed and the segment lies within the body. -/
def Xlat.segFits (x : Xlat) (k : Nat) : Bool :=
  (x.seg k).1 % 4 == 0 && fieldN x.body (22 + 8 * k) 2 == 0 &&
    decide ((x.seg k).1 + 4 * (x.seg k).2 + 4 ≤ x.body.length) &&
    decide ((x.seg k).1 + 4 * ((x.seg k).2 + (x.succWords k).length) ≤ x.body.length)

/-- Segments reached from a list of them. -/
def reachGo (edges : List (List Nat)) : Nat → List Nat → List Nat → List Nat
  | 0, _, seen => seen
  | fuel + 1, todo, seen =>
    let fresh := (todo.flatMap fun k => edges.getD k []).eraseDups.filter fun k => !seen.contains k
    if fresh.isEmpty then seen else reachGo edges fuel fresh (seen ++ fresh)

def reach (edges : List (List Nat)) (start : List Nat) : List Nat :=
  reachGo edges (edges.length + 1) start.eraseDups start.eraseDups

/-- Word j of the portable trap table. -/
def ttWord (body : List Byte) (at_ j : Nat) : Nat := fieldN body (at_ + 4 * j) 4

def noSegment : Nat := 0xFFFFFFFF

/-- The segments that the portable trap table names. -/
def handlerSegs (body : List Byte) (at_ : Nat) : List Nat :=
  if at_ = 0 then [] else ((List.range 30).map fun j => ttWord body at_ (j + 1)).filter (· != noSegment)

/-- A portable body that may be translated (R337–R339). -/
def Xlat.bodyOk (x : Xlat) : Bool :=
  let n := fieldN x.body 0 4
  let front := fieldN x.body 8 4
  let tt := fieldN x.body 12 4
  decide (16 ≤ x.body.length) && decide (1 ≤ n) && decide (n < 2 ^ 24) && decide (16 + 8 * n ≤ x.body.length) &&
    decide (fieldN x.body 4 4 < n) && (front == noSegment || decide (front < n)) &&
    (tt == 0 || decide (tt + 128 ≤ x.body.length)) && (handlerSegs x.body tt).all (fun k => decide (k < n)) &&
    (List.range n).all x.segFits &&
    match (List.range n).mapM x.segInstrs with
    | none => false
    | some segs =>
      let edges := segs.map fun is => is.flatMap segmentTargets
      let handlers := reach edges (handlerSegs x.body tt)
      edges.all (fun ts => ts.all fun k => decide (k < n)) &&
        (List.range n).all fun k => !(segs.getD k []).contains .succRtt || handlers.contains k

/-- A list of relied-upon errata that Wizin can serve: ids once each, all known and emulable (R332, R342, R343). -/
def errataOk (es : List Nat) : Bool := es.all (fun e => e == 1 || e == 2) && decide (es.eraseDups.length = es.length)

/-- The native trap table of a translation (R337). -/
def Xlat.nativeTable (x : Xlat) : List Word :=
  let tt := fieldN x.body 12 4
  if tt = 0 then []
  else
    let handler (j : Nat) : Word :=
      let k := ttWord x.body tt (j + 1)
      if k = noSegment then 0 else (x.addr k - x.base).setWidth 32
    BitVec.ofNat 32 (ttWord x.body tt 0) :: (List.range 30).map handler ++ [0]

/-! ### The translation store (R336) -/

/-- Bytes of a translation's code region and trap table. -/
def Xlat.bytes (x : Xlat) : Nat := 4 + x.size x.segs 0 + 4 * x.ttab.length

/-- Bytes of the outputs that the store holds. -/
def State.storeUsed (s : State) : Nat :=
  (s.xlats.filter fun (e : Nat × Xlat) => e.2.stored).foldl (fun (v : Nat) (e : Nat × Xlat) => v + e.2.bytes) 0

/-- Discard the oldest outputs that no resident team is using until `n` more bytes fit. -/
def roomFor (n : Nat) : Nat → State → Option State
  | 0, _ => none
  | fuel + 1, s =>
    if s.storeUsed + n ≤ s.mgmt.xstsize.toNat * 0x100000 then some s
    else
      match List.find? (fun (e : Nat × Xlat) => e.2.stored && !s.xlatInUse e.1) s.xlats with
      | some e => roomFor n fuel (s.discardXlat e.1)
      | none => none

/-- The translation of an image, made now or reused (R336): its number. A load error, or no room, refuses. -/
def translation (ctx : Nat) (image : Word64) (h : Image) : M Nat := do
  let s ← get
  let hash := s.deviceHash
  let same (e : Nat × Xlat) : Bool :=
    e.2.stored && e.2.ctx == ctx && e.2.image == image && e.2.serial == h.serial && e.2.hash == hash
  match List.find? same s.xlats with
  | some e => pure e.1
  | none =>
    let body ← imageRead ctx (image + BitVec.ofNat 64 h.poff) h.psize
    let eb ← imageRead ctx (image + BitVec.ofNat 64 h.eoff) (4 * h.ecount)
    let errata := (List.range h.ecount).map fun j => fieldN eb (4 * j) 4
    let base : Word64 := 0xFF00000000000000 + BitVec.ofNat 64 (2 ^ 32 * s.nextXlat)
    let x : Xlat :=
      { ctx := ctx, image := image, serial := h.serial, hash := hash, base := base, body := body, entry := 0,
        front := 0, hasFront := fieldN body 8 4 != noSegment, segs := fieldN body 0 4, far := [], ttab := [],
        errata := errata, stored := true }
    need (x.bodyOk && errataOk errata)
    let x := { x with far := x.farStages x.segs [] [] }
    let x := { x with entry := x.addr (fieldN body 4 4), ttab := x.nativeTable,
                      front := if x.hasFront then x.addr (fieldN body 8 4) else 0 }
    let s ← get
    match roomFor x.bytes (s.xlats.length + 1) s with
    | some s =>
      set { s with xlats := SMap.insert s.nextXlat x s.xlats, nextXlat := s.nextXlat + 1 }
      pure s.nextXlat
    | none => refuse

end Sys2Proof.Machine
end

