-- ==== Sys2Proof/Machine/Launch.lean ====
section
/-!
DEFINITION. Launches: records and their checks (R274, R275), submission and admission (R276–R278), the choice of the body
(R334, R335), FTLAUNCH (R220), and completion (R291–R293).
-/

namespace Sys2Proof.Machine

/-! ### The launch record (R274) -/

def LaunchRec.of (d : List Byte) : LaunchRec :=
  let b (n : Nat) : Byte := d.getD n 0
  let h (n : Nat) : BitVec 16 := BitVec.ofNat 16 (fieldN d n 2)
  let w (n : Nat) : Word := BitVec.ofNat 32 (fieldN d n 4)
  let q (n : Nat) : Word64 := BitVec.ofNat 64 (fieldN d n 8)
  { image := q 0, entry := w 8, front := w 12, width := b 16, producers := b 17, consumers := b 18, flags := b 19,
    pbudget := h 20, cbudget := h 22, tx := h 24, ty := h 26, tz := h 28, scratch := w 32, trip := b 36, stages := b 37,
    gang := b 38, priority := b 39, yield := b 40, stagger := w 44, args := q 48, argsize := w 56, job := q 64,
    done := q 72 }

/-- What a team needs of its core (R15). -/
structure Need15 where
  threads : Nat
  words : Nat
  scratch : Nat
  claims : Nat
  deriving DecidableEq, Repr

/-- Consumer groups that count for room: four of a chain (R18). -/
def LaunchRec.groups (r : LaunchRec) : Nat := if r.hasChain then 4 else r.consumers.toNat

def LaunchRec.room (r : LaunchRec) : Need15 :=
  { threads := r.w * (r.producers.toNat + r.groups),
    words := r.w * (r.producers.toNat * r.pbudget.toNat + r.groups * r.cbudget.toNat), scratch := r.scratch.toNat,
    claims := (if r.flags.getLsbD 2 then 1 else 0) + if r.flags.getLsbD 3 then 1 else 0 }

/-- A register budget of R14. -/
def budgetOk (b : Nat) : Bool := b % 4 == 0 && decide (16 ≤ b) && decide (b ≤ 220)

/-- The record keeps its limits, the groups and the room of one team fit, and a job card goes with gangs of one (R274,
R275, R280). With a job card the team counts are not looked at (R279). -/
def recOk (r : LaunchRec) : Bool :=
  let p := r.producers.toNat
  let c := r.consumers.toNat
  let s := r.room
  decide (r.width.toNat ≤ 3) && decide (p ≤ 31) && (r.hasChain || (decide (1 ≤ c) && decide (c ≤ 32))) &&
    (if p = 0 then r.pbudget == 0 else budgetOk r.pbudget.toNat) && budgetOk r.cbudget.toNat &&
    (r.job != 0 || (r.tx != 0 && r.ty != 0 && r.tz != 0)) && r.scratch.toNat % 16 == 0 &&
    decide (r.scratch.toNat ≤ 262144) &&
    (!r.hasChain || (decide ((r.trip.extractLsb' 0 6).toNat ≤ 59) && r.stages.extractLsb' 2 2 != 0)) &&
    decide (1 ≤ r.gang.toNat) && decide (r.gang.toNat ≤ 16) && r.image.toNat % 256 == 0 && r.args.toNat % 4 == 0 &&
    r.argsize.toNat % 4 == 0 && decide (r.argsize.toNat ≤ 4096) && r.job.toNat % 32 == 0 && r.done.toNat % 8 == 0 &&
    decide (p + r.groups ≤ 32) && decide (s.threads ≤ 2048) && decide (s.words ≤ 131072) &&
    (r.job == 0 || r.gang == 1)

/-- Bytes as 32-bit words. -/
def words32 : List Byte → List Word
  | a :: b :: c :: d :: r => (d ++ c ++ b ++ a) :: words32 r
  | _ => []

/-! ### The body (R331, R334, R335) -/

/-- What a launch runs: where its code lies, the translation, its trap table, and the limit of its entries: the native
body's bytes, or the segments of a translation. -/
structure Body15 where
  base : Word64
  xlat : Option Nat
  ttab : List Word
  limit : Nat
  deriving DecidableEq, Repr

/-- The choice of the body; whatever keeps the image from running refuses the launch. The header is read once. -/
def chooseBody (ctx : Nat) (r : LaunchRec) : M Body15 := do
  let hd ← imageRead ctx r.image 128
  need (imageOk hd)
  let h := Image.of hd
  if h.flags % 2 = 1 ∧ h.hash = (← get).deviceHash then
    need (r.entry.toNat % 2 = 0 && decide (r.entry.toNat < h.nsize))
    need (!r.hasFront || (r.front.toNat % 2 == 0 && decide (r.front.toNat < h.nsize)))
    let tt ← if h.toff = 0 then pure [] else imageRead ctx (r.image + BitVec.ofNat 64 h.toff) 128
    pure { base := r.image + BitVec.ofNat 64 h.noff, xlat := none, ttab := words32 tt, limit := h.nsize }
  else if h.flags / 2 % 2 = 1 then
    let k ← translation ctx r.image h
    match SMap.find? k (← get).xlats with
    | some x =>
      need (!r.hasFront || x.hasFront)
      pure { base := x.base, xlat := some k, ttab := x.ttab, limit := x.segs }
    | none => refuse
  else refuse

/-- A job card (R279): its limits, and its entry as an offset or a segment (R335). -/
def readCard (ctx : Nat) (r : LaunchRec) (b : Body15) : M (Option Job) := do
  if r.job = 0 then pure none
  else
    let d ← sysRead ctx r.job 32
    let entry := fieldN d 0 4
    need (decide (entry < b.limit) && (b.xlat.isSome || entry % 2 == 0))
    need (fieldN d 4 4 % 4 == 0 && decide (4 ≤ fieldN d 4 4) && decide (fieldN d 4 4 ≤ 4096))
    need (fieldN d 8 8 % 4 == 0 && fieldN d 16 4 != 0)
    pure (some { entry := BitVec.ofNat 32 entry, rsize := fieldN d 4 4, array := BitVec.ofNat 64 (fieldN d 8 8),
                 count := fieldN d 16 4, dealt := 0, runs := [] })

/-! ### Teams of a launch -/

/-- The teams of a grid, in the order of their linear index x + X (y + Y z) (R16, R93). -/
def gridTeams (id : Nat) (L : Launch) (entries : Word64 × Word64) : List Team :=
  let r := L.record
  let nx := r.tx.toNat
  let ny := r.ty.toNat
  (List.range (nx * ny * r.tz.toNat)).map fun ix =>
    Team.create id L entries ix (BitVec.ofNat 16 (ix % nx)) (BitVec.ofNat 16 (ix / nx % ny))
      (BitVec.ofNat 16 (ix / nx / ny)) L.argWords r.args r.argsize

def State.addTeam (s : State) (T : Team) : State :=
  { s with teams := SMap.insert s.nextTeam T s.teams, nextTeam := s.nextTeam + 1 }

/-- Put the teams of a launch on the waiting list; those of a job are created by its cores (R277, R280). -/
def State.createTeams (s : State) (id : Nat) : State :=
  match SMap.find? id s.launches with
  | some L => if L.job.isSome then s else (gridTeams id L (s.entryOf L)).foldl State.addTeam s
  | none => s

/-! ### Admission -/

/-- A launch of the translation is still waiting for it. -/
def State.xlatPending (s : State) (k : Option Nat) : Bool :=
  k.isSome && s.launches.any fun (e : Nat × Launch) => e.2.pending && e.2.xlat == k

/-- Admit a record in a context at a priority, or refuse it (R275). A launch of a new translation waits for it, and so
does any other launch of that one (R334, R336). -/
def admitRec (ctx : Nat) (r : LaunchRec) (prio : Nat) : M Unit := do
  need (recOk r)
  let args ← sysRead ctx r.args r.argsize.toNat
  let made := (← get).nextXlat
  let b ← chooseBody ctx r
  let job ← readCard ctx r b
  let s ← get
  let id := s.nextLaunch
  let pending := s.nextXlat != made || s.xlatPending b.xlat
  let L : Launch :=
    { ctx := ctx, record := r, priority := prio, body := b.base, xlat := b.xlat, pending := pending, ttab := b.ttab,
      argWords := (words32 args).take 60, t0 := none, gangsStarted := 0, job := job, faulted := false, complete := false }
  let s : State := { s with launches := SMap.insert id L s.launches, nextLaunch := id + 1 }
  set (if pending then s else s.createTeams id)

/-- The state after a record was admitted, and whether it was: a refused one writes status 2 (R275, R293). -/
def State.admitted (s : State) (ctx : Nat) (r : LaunchRec) (prio : Nat) : State × Bool :=
  match runM (admitRec ctx r prio) s with
  | .ok (_, s') => (s', true)
  | .error _ => (s.writeCompletion ctx 0 5 r.done 2, false)

def LaunchRec.prio (r : LaunchRec) : Nat := (r.priority.extractLsb' 0 5).toNat

/-- The outcome of FTLAUNCH reaches the front thread that waits for it (R220). -/
def State.launchAnswer (s : State) (team : Nat) (dest : BitVec 8) (v : Word64) : State :=
  s.modFront team fun f => if f.wait = some .launch then (f.setReg dest.toNat v).advance 4 else f

/-- The next submission queue to serve, after the one served last (R277). -/
def State.nextQueue (s : State) : Option (Nat × Queue) :=
  (List.range 64).findSome? fun i =>
    let q := (s.lastQueue + 1 + i) % 64
    match SMap.find? q s.sqs with
    | some Q => if Q.enabled && Q.head != Q.tail then some (q, Q) else none
    | none => none

/-- An entry is taken from a queue: the address it holds, if its word can be read. -/
def Queue.entry? (Q : Queue) (s : State) : Option Word64 :=
  let pa := Q.base.toNat + 8 * (Q.head.toNat % Q.size)
  if s.rangeOk pa 8 && !s.badMem.any (fun a => decide (a < pa + 8) && decide (pa < a + 4)) then some (s.read64 pa)
  else none

def Queue.next (Q : Queue) : Queue := { Q with head := Q.head + 1, prios := Q.prios.drop 1, wants := none }

/-- The dispatcher reads and admits one record: those of the device launch queue first (R278), else the next of the
submission queues (R277). Entries of a context that is not live are dropped (R305). -/
def execLaunchAdmission (s_ : State) : Result :=
  .next <|
    if !s_.mgmt.ready || s_.mgmt.thermalHalt then s_
    else
      match s_.devQueue with
      | d :: ds =>
        let r := ({ s_ with devQueue := ds } : State).admitted d.ctx d.record (min d.record.prio d.prio)
        r.1.launchAnswer d.team d.dest (if r.2 then 0 else 1)
      | [] =>
        match s_.nextQueue with
        | none => s_
        | some (q, Q) =>
          let s : State := { s_ with sqs := SMap.insert q Q.next s_.sqs, lastQueue := q }
          match Q.entry? s_, (s_.ctx Q.ctx).live with
          | some va, true =>
            if va.toNat % 128 ≠ 0 then s
            else
              match runM (sysRead Q.ctx va 128) s with
              | .ok (d, s') => (s'.admitted Q.ctx (LaunchRec.of d) (LaunchRec.of d).prio).1
              | .error _ => s
          | _, _ => s

/-- The host writes a submission queue's doorbell through BAR0 (R276, R315); a device-side store is acted on where it is
performed. -/
def execLaunchDoorbell (q : Nat) (tail : BitVec 32) (s_ : State) : Result :=
  .next <|
    if s_.mgmt.ready && decide (q < 64) then
      s_.writePhys (s_.mgmt.doorbase.toNat + 8 * q) (leBytes 8 tail.toNat) 0
    else s_

/-- The translation a launch waits for is made, and its teams begin to wait for placement (R334). -/
def execWizinTranslate (launch : Nat) (s_ : State) : Result :=
  .next <|
    match SMap.find? launch s_.launches with
    | some L =>
      if L.pending && !L.complete then
        ({ s_ with launches := SMap.insert launch { L with pending := false } s_.launches } : State).createTeams launch
      else s_
    | none => s_

/-! ### FTLAUNCH (R220, R278) -/

/-- The record has been read: it goes to the device launch queue, and the front thread waits for its outcome, or the
queue is full. -/
def submitRecord (ln : Lane) (d : BitVec 8) (bs : List Byte) : M Next := do
  let s ← get
  if 256 ≤ s.devQueue.length then seq (wr ln d 2)
  else
    let T ← getTeam ln.team
    let e : DevLaunch :=
      { ctx := T.ctx, prio := T.priority, record := LaunchRec.of bs, team := ln.team, dest := d }
    set { s with devQueue := s.devQueue ++ [e] }
    setWait ln (some .launch)
    holdHere

/-- f[d] := 0 when the launch record at f[a] is admitted, 1 when it is refused, 2 when the queue is full. -/
def bodyFtlaunch (d a : BitVec 8) : Body := fun ln => do
  let ea := (← rd64 ln a).toNat
  aligned ea 128
  let ps ← checkAccess ln ea 128 ⟨true, false, false⟩ accLoad
  drain ln.team
  orderBefore ln ps false
  let bs ← awaitParts (.ftlaunch d a) ln ea (← loadParts ln ps)
  submitRecord ln d bs
@[inherit_doc bodyFtlaunch]
def execFtlaunch (d a : BitVec 8) (s_ : State) : Result :=
  issueWith (.ftlaunch d a) (pageSleep (some (.ftlaunch d a))) (bodyFtlaunch d a) s_

/-! ### Completion (R291–R293) -/

/-- The job of a launch has dealt and started every record. -/
def Job.over (j : Job) : Bool := j.dealt == j.count && j.runs.all (fun (e : Nat × Nat × Nat) => e.2.2 == 0)

/-- What a launch counts as outstanding: stores, remote requests (R258, R291), and records not yet written. -/
def State.outstanding (s : State) (id : Nat) : Bool :=
  s.stores.any (fun w => w.launch == id) ||
    s.remotes.any (fun (e : Nat × Remote) => e.2.launch == id && decide (e.2.agent < 5)) ||
    s.ctxs.any (fun (e : Nat × Context) => e.2.reports.any (fun r => r.launch == some id))

/-- Every team of a launch has ended, and nothing of it is outstanding. -/
def State.launchOver (s : State) (id : Nat) (L : Launch) : Bool :=
  !L.pending && !L.complete && L.job.all Job.over &&
    s.teams.all (fun (e : Nat × Team) => e.2.launch != id || e.2.status == .ended) && !s.outstanding id

/-- The value of the completion word: status, and CLOCK[55:0] (R293). -/
def State.doneWord (s : State) (L : Launch) (status : Nat) : Nat := status + (s.clock - L.t0.getD s.clock) % 2 ^ 56 * 256

/-- A launch that is over completes: status 3 when one of its teams ended by a fault, else 1. -/
def execLaunchComplete (launch : Nat) (s_ : State) : Result :=
  .next <|
    match SMap.find? launch s_.launches with
    | some L =>
      if s_.launchOver launch L then
        let s : State := { s_ with launches := SMap.insert launch { L with complete := true } s_.launches }
        s.writeCompletion L.ctx launch 5 L.record.done (s_.doneWord L (if L.faulted then 3 else 1))
      else s_
    | none => s_

end Sys2Proof.Machine
end

