-- ==== Sys2Proof/Machine/Streams.lean ====
section
/-!
DEFINITION. Binding stream ports and unbinding them (R179), and the wing instructions (R181–R184).
-/

namespace Sys2Proof.Machine

/-! ### Stream ports -/

/-- The register code of a port: in0, in1, out0, out1. -/
def portCode (p : BitVec 2) : BitVec 8 := 220 + p.setWidth 8

/-- A pending result still to be pushed: one that has been delivered leaves only its window. -/
def Pending.inFlight (q : Pending) : Bool := q.value != .ready []

/-- Pops or pushes of a port are in flight: an element latched for a thread, or a result on its way to an out port.
DESIGN CHOICE (log entry 73): a thread that waits in line at the port, with nothing popped or pushed, is not in flight;
after a rebinding it goes on at the new ring. -/
def Team.portBusy (T : Team) (p : BitVec 2) : Bool :=
  T.threads.any (fun e => e.2.pend.any (fun q => q.inFlight && q.dest.contains (portCode p)) ||
    (!p.getLsbD 1 && e.2.latch.any (fun l => l.1 == p.getLsbD 0)))

/-- Wait until the port is at rest. -/
def portRest (team : Nat) (p : BitVec 2) : M Unit := do
  let T ← getTeam team
  if T.portBusy p then hold else pure ()

/-- A ring descriptor that breaks no rule of the table. -/
def ringValid (d : List Byte) : Bool :=
  decide (fieldN d 0 4 % 4 = 0) && decide (fieldN d 4 4 % 8 = 0) && decide (1 ≤ fieldN d 8 2) &&
    decide (fieldN d 8 2 ≤ 4096) && decide (fieldN d 10 1 = 2) && decide (fieldN d 11 5 = 0)

/-- Bind a port to the ring described at g[D] (R179). DESIGN CHOICE (log entry 68): a descriptor outside the team's
scratchpad, which R179's list does not name, traps STREAM_MISUSE as a misaligned one does. -/
def bodyStrm (same : Bool) (p : BitVec 2) (d : BitVec 8) : Body := fun ln => seq do
  let x := (← rd ln d).toNat
  check same Cause.nonuniform
  portRest ln.team p
  let T ← getTeam ln.team
  check (x % 16 == 0 && decide (x + 16 ≤ T.size)) Cause.streamMisuse
  let r ← readLocal ⟨ln.team, x, false⟩ x 16
  check (ringValid r) Cause.streamMisuse
  let s ← get
  match s.local? ln.team (fieldN r 0 4) (4 * fieldN r 8 2), s.local? ln.team (fieldN r 4 4) 8 with
  | .ok a, .ok b =>
    check (a.window == b.window && a.team == b.team && (p.getLsbD 1 || !a.window)) Cause.streamMisuse
    let ring : Ring := ⟨BitVec.ofNat 32 (fieldN r 0 4), BitVec.ofNat 32 (fieldN r 4 4), fieldN r 8 2, a.window⟩
    modTeam ln.team fun T => { T with ports := SMap.insert p.toNat ring T.ports }
  | _, _ => trap Cause.streamMisuse
@[inherit_doc bodyStrm]
def execStrm (p : BitVec 2) (d : BitVec 8) (s_ : State) : Result :=
  issue (.strm p d) (bodyStrm (uniform (.strm p d) s_ (rdList [d])) p d) s_

/-- Unbind a port (R179). -/
def bodyStrmOff (p : BitVec 2) : Body := fun ln => seq do
  portRest ln.team p
  modTeam ln.team fun T => { T with ports := SMap.erase p.toNat T.ports }
@[inherit_doc bodyStrmOff]
def execStrmOff (p : BitVec 2) (s_ : State) : Result := issue (.strmOff p) (bodyStrmOff p) s_

/-! ### Wings -/

/-- Members of wing a of a context: member index and team (R182). -/
def State.members (s : State) (ctx a : Nat) : List (Nat × Nat) :=
  s.teams.filterMap fun e =>
    match e.2.wing with
    | some (b, m) => if e.2.ctx = ctx ∧ b = a ∧ e.2.status ≠ .ended then some (m, e.1) else none
    | none => none

/-- Join wing a; d receives the status of R182. -/
def bodyWjoin (same : Bool) (d : BitVec 8) (a : BitVec 8) : Body := fun ln => seq do
  let w := (← rd ln a).toNat
  check same Cause.nonuniform
  let T ← getTeam ln.team
  let s ← get
  let ms := s.members T.ctx w
  let join : Nat × Team :=
    match T.wing with
    | some (b, _) => if b = w then (0, T) else if ms.length = 16 then (1, T) else (2, T)
    | none =>
      if 255 < w then (3, T)
      else
        match leastFree (ms.map (·.1)) 16 0 with
        | some m => (0, { T with wing := some (w, m) })
        | none => (1, T)
  modTeam ln.team fun _ => join.2
  wr ln d (BitVec.ofNat 32 join.1)
@[inherit_doc bodyWjoin]
def execWjoin (d : BitVec 8) (a : BitVec 8) (s_ : State) : Result :=
  issue (.wjoin d a) (bodyWjoin (uniform (.wjoin d a) s_ (rdList [a])) d a) s_

/-- A copy in flight, issued before access number `n`, uses a window of the leaving team, or a window onto its scratchpad, or
writes into it from a peer (R184). -/
def State.windowCopies (s : State) (team n : Nat) : Bool :=
  s.teams.any fun e =>
    e.2.copies.any fun c => c.2.origin.op.all (· < n) &&
      [c.2.srcAt, c.2.dstAt].any fun p =>
        p.any fun l => l.1.window && (e.1 == team || l.1.team == team)

/-- An element that an instruction gave before the revocation is still to be pushed through such a window (R180, R260). -/
def State.windowPushes (s : State) (team : Nat) : Bool :=
  s.teams.any fun e => e.2.threads.any fun h => !h.2.ended && h.2.pend.any fun p =>
    p.inFlight && p.via.any fun q => e.1 == team || q == team

/-- Accesses in flight through windows of a team or into its scratchpad, issued before access number `n` (R184). -/
def State.windowsBusy (s : State) (team n : Nat) : Bool := s.windowCopies team n || s.windowPushes team

/-- Leave the wing: the windows are revoked and the member index is free at once, and the instruction waits for the accesses
in flight through those windows (R184, R260). -/
def bodyWleave : Body := fun ln => seq do
  match ← waitOf ln with
  | some (.leave n) => if (← get).windowsBusy ln.team n then holdHere else pure ()
  | _ =>
    let T ← getTeam ln.team
    if T.wing.isNone then pure ()
    else
      let n := (← get).nextSeq
      modify fun s => s.quitWing ln.team
      if (← get).windowsBusy ln.team n then do
        setWait ln (some (.leave n))
        holdHere
      else pure ()
@[inherit_doc bodyWleave]
def execWleave (s_ : State) : Result := issue .wleave bodyWleave s_

/-- Window w maps the scratchpad of member a; d receives the status of R183. -/
def bodyWmap (same : Bool) (w : BitVec 4) (d : BitVec 8) (a : BitVec 8) : Body := fun ln => seq do
  let m := (← rd ln a).toNat
  check same Cause.nonuniform
  let T ← getTeam ln.team
  let s ← get
  match T.wing with
  | none => wr ln d 2
  | some (b, _) =>
    match (s.members T.ctx b).find? (fun e => e.1 == m) with
    | none => wr ln d 1
    | some e =>
      modTeam ln.team fun T => { T with windows := SMap.insert w.toNat (.mapped e.2) T.windows }
      wr ln d 0
@[inherit_doc bodyWmap]
def execWmap (w : BitVec 4) (d : BitVec 8) (a : BitVec 8) (s_ : State) : Result :=
  issue (.wmap w d a) (bodyWmap (uniform (.wmap w d a) s_ (rdList [a])) w d a) s_

/-- d := the team's wing, member index and the member mask; zero for a team in no wing (R181). -/
def bodyWquery (d : BitVec 8) : Body := fun ln => seq do
  let T ← getTeam ln.team
  let s ← get
  match T.wing with
  | none => wr ln d 0
  | some (b, m) =>
    let mask := (s.members T.ctx b).foldl (fun v e => v + 2 ^ e.1) 0
    wr ln d (BitVec.ofNat 32 (b + m * 2 ^ 8 + 2 ^ 12 + mask * 2 ^ 16))
@[inherit_doc bodyWquery]
def execWquery (d : BitVec 8) (s_ : State) : Result := issue (.wquery d) (bodyWquery d) s_

end Sys2Proof.Machine
end

