-- ==== Sys2Proof/Machine/System.lean ====
section
/-!
DEFINITION. Special registers (R28–R31, R222, R223), uniform moves (R224), chain seeds (R134), instruction-cache and
translation invalidation (R226, R227), KILLCTX (R228), and the waits of the front thread (R219).
-/

namespace Sys2Proof.Machine

/-! ### Special registers -/

def lo32 (v : Word64) : Word := v.extractLsb' 0 32
def hi32 (v : Word64) : Word := v.extractLsb' 32 32

/-- SPMASK: which stages the group's beat runs (R129). -/
def spmask (C : Chain) (b : Nat) : Word :=
  BitVec.ofNat 32 ((List.range 4).foldl (fun v s => if C.runs b s then v + 2 ^ s else v) 0)

/-- A thread-owned register. -/
def Thread.sreg (h : Thread) (i : Nat) : Word :=
  match i with
  | 0x08 => h.tpc
  | 0x09 => h.tcause
  | 0x0A => h.tinst
  | 0x0B => lo32 h.taddr
  | 0x0C => hi32 h.taddr
  | _ => h.tmask

/-- A group-owned register of group g. -/
def Team.groupSreg (T : Team) (g : Nat) (G : Group) (i : Nat) : Word :=
  match i with
  | 0x00 => G.fpctl
  | 0x01 => G.nfmt
  | 0x02 => G.temp
  | 0x20 => BitVec.ofNat 32 (G.beat.getD 0)
  | 0x22 =>
    match T.chain, G.beat with
    | some C, some b => spmask C b
    | _, _ => 0
  | 0x30 => BitVec.ofNat 32 T.width
  | _ => BitVec.ofNat 32 (g + if G.producer then 0 else 2 ^ 8)

/-- A register of the team, its launch, core or context (R28). -/
def State.sharedSreg (s : State) (T : Team) (clock : Nat) (i : Nat) : Word :=
  let x := s.ctx T.ctx
  match i with
  | 0x03 => lo32 T.rseed
  | 0x04 => hi32 T.rseed
  | 0x05 => T.replay
  | 0x10 => BitVec.ofNat 32 clock
  | 0x11 => BitVec.ofNat 32 (clock / 2 ^ 32)
  | 0x18 => T.mx.prog
  | 0x19 => T.rsh.entry.setWidth 32
  | 0x1A => T.rsh.row.setWidth 32
  | 0x21 => BitVec.ofNat 32 (match T.chain with
    | some C => C.trip
    | none => 0)
  | 0x28 => (s.core T.core).spstat
  | 0x32 => T.y ++ T.x
  | 0x33 => T.z.setWidth 32
  | 0x38 => T.bprio.setWidth 32
  | 0x40 => lo32 x.heap.hb
  | 0x41 => hi32 x.heap.hb
  | 0x42 => lo32 x.heap.hl
  | 0x43 => hi32 x.heap.hl
  | 0x44 => lo32 x.heap.ho
  | 0x45 => hi32 x.heap.ho
  | 0x46 => x.heap.hkind.setWidth 32
  | 0x47 => BitVec.ofNat 32 T.ctx
  | 0x48 => lo32 x.ptbase
  | 0x49 => hi32 x.ptbase
  | 0x4A => lo32 x.frbase
  | 0x4B => hi32 x.frbase
  | 0x4C => x.killctl
  | _ =>
    BitVec.ofNat 32 ((if x.killBusy then 1 else 0) + (if x.killDone then 2 else 0) + x.killLast.toNat * 4)

/-- Read special register i (R28, R222); which indices exist and who may name them is checked at decode. -/
def readSreg (ln : Lane) (i : Nat) : M Word := do
  let T ← getTeam ln.team
  let clock ← clockOf ln.team
  match ln.who with
  | .front => do pure ((← get).sharedSreg T clock i)
  | .thread t =>
    if 0x08 ≤ i ∧ i ≤ 0x0D then do pure ((← getThread ln.team t).sreg i)
    else if sregNotFront i then do pure (T.groupSreg (T.groupIx t) (← getGroup ln.team t) i)
    else do pure ((← get).sharedSreg T clock i)

/-- d := special register i (R222). -/
def bodySrd (d : BitVec 8) (i : BitVec 8) : Body := fun ln => seq do
  let v ← readSreg ln i.toNat
  wr ln d v
@[inherit_doc bodySrd]
def execSrd (d : BitVec 8) (i : BitVec 8) (s_ : State) : Result := issue (.srd d i) (bodySrd d i) s_

/-- One half of a 64-bit register replaced (R24). -/
def setLo (v : Word64) (w : Word) : Word64 := hi32 v ++ w
def setHi (v : Word64) (w : Word) : Word64 := w ++ lo32 v

/-- TEMP holds no NaN and nothing negative but −0 (R140). -/
def tempOk (v : Word) : Bool := !fp32.isNan v.toNat && (!v.getLsbD 31 || v == 0x80000000)

/-- A change of the context, keeping what cores may still hold of the heap triple and of PTBASE (R31). -/
def Context.setHeap (x : Context) (h : Heap) : Context :=
  if h = x.heap then x else { x with heap := h, heldHeap := x.heldHeap ++ [x.heap] }
def Context.setPtbase (x : Context) (v : Word64) : Context :=
  if v = x.ptbase then x else { x with ptbase := v, heldPtbase := x.heldPtbase ++ [(x.ptbase, [])] }

/-- The context after SWR of a privileged register other than KILLCTL (R28, R31). -/
def Context.setSreg (x : Context) (i : Nat) (v : Word) : Context :=
  match i with
  | 0x40 => x.setHeap { x.heap with hb := setLo x.heap.hb v }
  | 0x41 => x.setHeap { x.heap with hb := setHi x.heap.hb v }
  | 0x42 => x.setHeap { x.heap with hl := setLo x.heap.hl v }
  | 0x43 => x.setHeap { x.heap with hl := setHi x.heap.hl v }
  | 0x44 => x.setHeap { x.heap with ho := setLo x.heap.ho v }
  | 0x45 => x.setHeap { x.heap with ho := setHi x.heap.ho v }
  | 0x46 => x.setHeap { x.heap with hkind := v.setWidth 6 }
  | 0x48 => x.setPtbase (setLo x.ptbase v)
  | 0x49 => x.setPtbase (setHi x.ptbase v)
  | 0x4A => { x with frbase := setLo x.frbase v }
  | 0x4B => { x with frbase := setHi x.frbase v }
  | _ => x

/-- A write to KILLCTL (R28, R31): ignored while a kill is in progress, or when it would kill the issuing context. Every
other write with [31] set begins the kill sequence, whose steps find nothing to stop where the target is not live. -/
def State.writeKillctl (s : State) (ctx : Nat) (v : Word) : State :=
  let x := s.ctx ctx
  let target := (v.extractLsb' 0 12).toNat
  if x.killBusy || (v.getLsbD 31 && target == ctx) then s
  else
    let s := s.setCtx ctx { x with killctl := v &&& 0x80000FFF }
    if v.getLsbD 31 then s.startKill ctx target else s

/-- The matrix unit has a command of the team queued or running (R187). -/
def Team.mxBusy (T : Team) : Bool := !T.mx.queue.isEmpty
/-- The team's re-shard operation is running (R229). -/
def Team.rshRunning (T : Team) : Bool := T.rsh.state == 1

/-- Write special register i, with the value checks and waits of R223. -/
def writeSreg (ln : Lane) (i : Nat) (v : Word) : M Unit := do
  let T ← getTeam ln.team
  match i with
  | 0x00 => do modGroupOf ln.team (← theThread ln) fun G => { G with fpctl := v &&& 0x7F }
  | 0x01 => do modGroupOf ln.team (← theThread ln) fun G => { G with nfmt := v &&& 0x3F3F }
  | 0x02 => do
    check (tempOk v) Cause.tempInvalid
    modGroupOf ln.team (← theThread ln) fun G => { G with temp := v }
  | 0x03 => modTeam ln.team fun T => { T with rseed := setLo T.rseed v }
  | 0x04 => modTeam ln.team fun T => { T with rseed := setHi T.rseed v }
  | 0x05 => modTeam ln.team fun T => { T with replay := v }
  | 0x08 => do modThread ln.team (← theThread ln) fun h => { h with tpc := v }
  | 0x09 => do modThread ln.team (← theThread ln) fun h => { h with tcause := v &&& 0x1FF }
  | 0x18 => if T.mxBusy then hold else modTeam ln.team fun T => { T with mx := { T.mx with prog := v } }
  | 0x19 =>
    if T.rshRunning then hold else modTeam ln.team fun T => { T with rsh := { T.rsh with entry := v.setWidth 16 } }
  | 0x1A => if T.rshRunning then hold else modTeam ln.team fun T => { T with rsh := { T.rsh with row := v.setWidth 16 } }
  | 0x38 => modTeam ln.team fun T => { T with bprio := v.setWidth 8 }
  | 0x46 => do
    check (v.extractLsb' 0 2 != 3#2) Cause.illegalRegister
    modify fun s => s.setCtx T.ctx ((s.ctx T.ctx).setSreg i v)
  | 0x4C => modify fun s => s.writeKillctl T.ctx v
  | _ => modify fun s => s.setCtx T.ctx ((s.ctx T.ctx).setSreg i v)

/-- Special register i := a; a value for a register that threads share must be uniform (R223). -/
def bodySwr (same : Bool) (a : BitVec 8) (i : BitVec 8) : Body := fun ln => seq do
  let v ← rd ln a
  check (same || i == 0x08 || i == 0x09) Cause.nonuniform
  writeSreg ln i.toNat v
@[inherit_doc bodySwr]
def execSwr (a : BitVec 8) (i : BitVec 8) (s_ : State) : Result :=
  issue (.swr a i) (bodySwr (uniform (.swr a i) s_ (rdList [a])) a i) s_

/-- s[s] := a, uniform over the executing threads (R23, R224). -/
def bodyMovs (same : Bool) (a : BitVec 8) (s : BitVec 6) : Body := fun ln => seq do
  let v ← rd ln a
  check same Cause.nonuniform
  modGroupOf ln.team (← theThread ln) fun G => G.setSreg s.toNat v
@[inherit_doc bodyMovs]
def execMovs (a : BitVec 8) (s : BitVec 6) (s_ : State) : Result :=
  issue (.movs a s) (bodyMovs (uniform (.movs a s) s_ (rdList [a])) a s) s_

/-- d := s[s]; in front code the value that the team was created with (R224). -/
def bodySmov (d : BitVec 8) (s : BitVec 6) : Body := fun ln => seq do
  let v ← rdS ln s.toNat
  wr ln d v
@[inherit_doc bodySmov]
def execSmov (d : BitVec 8) (s : BitVec 6) (s_ : State) : Result := issue (.smov d s) (bodySmov d s) s_

/-- Seed of w register k for this thread index := a, in beat 0 before its stage 1 (R134). -/
def bodyChseed (k : BitVec 3) (a : BitVec 8) : Body := fun ln => seq do
  let t ← theThread ln
  let T ← getTeam ln.team
  let G ← getGroup ln.team t
  let h ← getThread ln.team t
  match T.chain, G.beat with
  | some C, some b =>
    check (b == 0 && match h.stage with
      | none => true
      | some c => c == 0) Cause.illegal
    let v ← rd ln a
    let key := 128 * k.toNat + T.index t
    modTeam ln.team fun T => { T with chain := some { C with seeds := SMap.put C.seeds key v 0 } }
  | _, _ => trap Cause.illegal
@[inherit_doc bodyChseed]
def execChseed (k : BitVec 3) (a : BitVec 8) (s_ : State) : Result := issue (.chseed k a) (bodyChseed k a) s_

/-! ### Invalidation -/

/-- Wait until every store of the team has been performed, then drop what the core fetched for the context (R226). -/
def bodyIcinv : Body := fun ln => seq do
  drain ln.team
  let T ← getTeam ln.team
  modify fun s => { s with fetched := s.fetched.filter fun f => !(f.core == T.core && f.ctx == T.ctx) }
@[inherit_doc bodyIcinv]
def execIcinv (s_ : State) : Result := issue .icinv bodyIcinv s_

/-- A store of a context sits in a porch, and so is not performed (R253). -/
def State.porched (s : State) (ctx : Nat) : Bool :=
  s.teams.any fun e => e.2.ctx == ctx && e.2.status != .ended && !e.2.porch.isEmpty

/-- Every access issued under a context's translations has been performed; else wait (R227). DESIGN CHOICE (log entry 52): the
issuing team's own porch commits, which it would else wait for without end; those of other teams are waited for. -/
def settleAccesses (team ctx : Nat) : M Unit := do
  if (← getTeam team).ctx = ctx then commitPorch team else pure ()
  let s ← get
  if s.stores.any (fun w => w.ctx == ctx) || s.remotes.any (fun e => e.2.ctx == ctx && e.2.agent < 5) || s.porched ctx then
    holdHere
  else pure ()

/-- Every cached translation of context a[11:0] goes (R227). -/
def bodyTlbinvAll (a : BitVec 8) : Body := fun ln => seq do
  let c := ((← rd ln a).extractLsb' 0 12).toNat
  modify fun s =>
    { s with tlb := s.tlb.filter fun e => e.ctx != c }.setCtx c { s.ctx c with heldPtbase := [] }
  settleAccesses ln.team c
@[inherit_doc bodyTlbinvAll]
def execTlbinvAll (a : BitVec 8) (s_ : State) : Result := issue (.tlbinvAll a) (bodyTlbinvAll a) s_

/-- The pages that hold an address for a context: a 64 KiB one, and a 4 MiB one where some table that may be in use has
such a page there. -/
def State.pagesAt (s : State) (c va : Nat) : List (Nat × Bool) :=
  let x := s.ctx c
  let large (w : Walk) : Bool := match w with
    | .page _ l => l
    | _ => false
  let big := (s.cached c va).any (·.large) || (x.ptbase :: x.oldRoots va).any fun r => large (s.walk r va)
  (va / 2 ^ 16, false) :: if big then [(va / 2 ^ 22, true)] else []

/-- The issuing context's translation of the page that holds address a goes (R227). -/
def bodyTlbinvPage (a : BitVec 8) : Body := fun ln => seq do
  let va := (← rd64 ln a).toNat
  let T ← getTeam ln.team
  modify fun s =>
    let ps := s.pagesAt T.ctx va
    let x := s.ctx T.ctx
    let hit (e : TlbEntry) : Bool := e.ctx == T.ctx && (e.page == if e.large then va / 2 ^ 22 else va / 2 ^ 16)
    let old (h : Word64 × List (Nat × Bool)) : Word64 × List (Nat × Bool) :=
      (h.1, h.2 ++ ps.filter (fun p => !h.2.contains p))
    { s with tlb := s.tlb.filter fun e => !hit e }.setCtx T.ctx { x with heldPtbase := x.heldPtbase.map old }
  settleAccesses ln.team T.ctx
@[inherit_doc bodyTlbinvPage]
def execTlbinvPage (a : BitVec 8) (s_ : State) : Result := issue (.tlbinvPage a) (bodyTlbinvPage a) s_

/-- The issuing context's cached heap triple and HKIND go (R227). -/
def bodyTlbinvHeap : Body := fun ln => seq do
  let T ← getTeam ln.team
  modify fun s => s.setCtx T.ctx { s.ctx T.ctx with heldHeap := [] }
  settleAccesses ln.team T.ctx
@[inherit_doc bodyTlbinvHeap]
def execTlbinvHeap (s_ : State) : Result := issue .tlbinvHeap bodyTlbinvHeap s_

/-! ### KILLCTX (R228) -/

/-- Kill the context a[11:0]: d := 0 once the kill is complete, 1 when no such context lives, 2 for the issuing one. A
destination that cannot be written stops it before any effect (R131, R180). -/
def bodyKillctx (d : BitVec 8) (a : BitVec 8) : Body := fun ln => seq do
  destOk ln d
  commitPorch ln.team
  let T ← getTeam ln.team
  let s ← get
  match ← waitOf ln with
  | some (.kill c) => if (s.ctx c).killedBy.contains T.ctx then holdHere else wr ln d 0
  | _ =>
    if (s.ctx T.ctx).killBusy then holdHere
    else
      let id := ((← rd ln a).extractLsb' 0 12).toNat
      if id = T.ctx then wr ln d 2
      else if !(s.ctx id).live then wr ln d 1
      else
        set (s.startKill T.ctx id)
        setWait ln (some (.kill id))
        holdHere
@[inherit_doc bodyKillctx]
def execKillctx (d : BitVec 8) (a : BitVec 8) (s_ : State) : Result := issue (.killctx d a) (bodyKillctx d a) s_

/-! ### FTWAIT (R219) -/

/-- Wait until the phase of barrier k differs from bit 0 of a. -/
def bodyFtwaitNb (a : BitVec 8) (k : BitVec 5) : Body := fun ln => do
  letGo ln
  let T ← getTeam ln.team
  let k := k.toNat % 16
  check (!(T.nb k).broken) Cause.barrierBroken (T.nb k).badAddr
  let tok ← do pure ((← rd ln a).getLsbD 0)
  if (T.nb k).phase != tok then pure none
  else
    setWait ln (some (.barrier k tok))
    holdHere
@[inherit_doc bodyFtwaitNb]
def execFtwaitNb (a : BitVec 8) (k : BitVec 5) (s_ : State) : Result := issue (.ftwaitNb a k) (bodyFtwaitNb a k) s_

/-- Entries of group g's queue that some live thread has not popped (R216). -/
def Team.queueCount (T : Team) (g : Nat) : Nat :=
  match T.group? g with
  | some G => if G.ended then 0 else G.dq.length
  | none => 0

/-- Wait until the queue of group k holds no more than a entries. -/
def bodyFtwaitDq (a : BitVec 8) (k : BitVec 5) : Body := fun ln => seq do
  let T ← getTeam ln.team
  check (decide (k.toNat < T.producers + T.consumers)) Cause.illegalRegister
  let limit ← rd64 ln a
  if T.queueCount k.toNat ≤ limit.toNat then pure () else hold
@[inherit_doc bodyFtwaitDq]
def execFtwaitDq (a : BitVec 8) (k : BitVec 5) (s_ : State) : Result := issue (.ftwaitDq a k) (bodyFtwaitDq a k) s_

/-- Wait until no matrix command of the team is outstanding. -/
def bodyFtwaitMx : Body := fun ln => seq do
  if (← getTeam ln.team).mxBusy then hold else pure ()
@[inherit_doc bodyFtwaitMx]
def execFtwaitMx (s_ : State) : Result := issue .ftwaitMx bodyFtwaitMx s_

/-- Wait until the team's re-shard operation is not running. -/
def bodyFtwaitRsh : Body := fun ln => seq do
  if (← getTeam ln.team).rshRunning then hold else pure ()
@[inherit_doc bodyFtwaitRsh]
def execFtwaitRsh (s_ : State) : Result := issue .ftwaitRsh bodyFtwaitRsh s_

/-- Wait until CLOCK has reached a. -/
def bodyFtwaitClk (a : BitVec 8) : Body := fun ln => seq do
  let limit ← rd64 ln a
  if limit.toNat ≤ (← clockOf ln.team) then pure () else hold
@[inherit_doc bodyFtwaitClk]
def execFtwaitClk (a : BitVec 8) (s_ : State) : Result := issue (.ftwaitClk a) (bodyFtwaitClk a) s_

end Sys2Proof.Machine
end

