-- ==== Sys2Proof/Machine/Matrix.lean ====
section
/-!
DEFINITION. The matrix unit (R185–R205): the commands at issue, and their slices and transfers.
-/

namespace Sys2Proof.Machine

/-! ### Operands (R190–R192) -/

/-- An operand as its control word and the block describe it. -/
structure Opnd where
  code : Nat
  fmt : VFmt
  e : Nat
  col : Bool
  swz : Bool
  trailer : Bool
  here : Bool
  stride : Nat
  base : Nat
  sbase : Nat
  shift : Nat
  scaled : Bool
  deriving DecidableEq, Repr

/-- The destination or source format of a V-format code under an NFMT value (R66). -/
def fmtOf (nfmt : Word) (code : Nat) : VFmt :=
  match code with
  | 0 => .ieee fp16
  | 1 => .ieee bf16
  | 2 => .bin8 (slotOf nfmt false)
  | 3 => .bin8 (slotOf nfmt true)
  | 4 => .int 8 true
  | 5 => .int 8 false
  | 6 => .int 16 true
  | _ => .ieee fp32

/-- A format whose binary8 slot has a valid P (R40). -/
def VFmt.valid : VFmt → Bool
  | .bin8 S => S.valid
  | _ => true

def VFmt.bytes (F : VFmt) : Nat := F.width / 8

/-- The exact value of an element. -/
def VFmt.value (F : VFmt) (v : Nat) : FVal :=
  match F with
  | .ieee G => G.value v
  | .bin8 S => S.value v
  | .int n sgn => if sgn && decide (2 ^ (n - 1) ≤ v) then .fin true (2 ^ n - v) 0 else .fin false v 0

/-- The operand described by a control word, base, scale base, shift and scaled bit. -/
def Opnd.of (nfmt : Word) (ctl base sbase shift : Nat) (scaled : Bool) : Opnd :=
  let F := fmtOf nfmt (ctl % 16)
  { code := ctl % 16, fmt := F, e := F.bytes, col := ctl / 16 % 2 == 1, swz := ctl / 32 % 2 == 1,
    trailer := ctl / 64 % 2 == 1, here := ctl / 128 % 2 == 1, stride := ctl / 256, base := base, sbase := sbase,
    shift := shift, scaled := scaled }

/-- What R190 to R192 ask of one operand. -/
def Opnd.ok (o : Opnd) : Bool :=
  (decide (o.code ≤ 3) || o.code == 7) && o.fmt.valid && !(o.scaled && o.e != 1) && decide (o.shift ≤ 63) &&
    decide (o.base % o.e = 0) && decide (o.stride % o.e = 0) &&
    (!o.swz || (o.here && decide (o.base % 128 = 0) && decide (o.stride % 128 = 0))) && (!o.col || (o.here && o.swz))

/-- Logical bytes [lo, lo + n) of stored row j from a base, as the runs of bytes that hold them (R191). DESIGN CHOICE (log
entry 90): R196 does not say how many bytes one fetch of the matrix unit has; each run is one access, for R152's test of
its first and last byte and for the address of an abandon. -/
def Opnd.rowRuns (o : Opnd) (base j lo n : Nat) : List (Nat × Nat) :=
  let row := base + j * o.stride
  if o.swz then (pieces 16 (n + 1) lo (List.replicate n 0#8)).map fun c => (row + (c.1 ^^^ (j % 8 * 16)), c.2.length)
  else [(row + lo, n)]

/-- The stored byte runs of elements (i, k), i from i0 for cnt, k from k0 for n: i is the row of A or the column of B. -/
def Opnd.runs (o : Opnd) (base i0 cnt k0 n : Nat) : List (Nat × Nat) :=
  if o.col then (List.range n).flatMap fun x => o.rowRuns base (k0 + x) (i0 * o.e) (cnt * o.e)
  else (List.range cnt).flatMap fun i => o.rowRuns base (i0 + i) (k0 * o.e) (n * o.e)

/-- Byte offset of element (i, k) from the operand's own base (R191). -/
def Opnd.offset (o : Opnd) (i k : Nat) : Nat := if o.col then k * o.stride + i * o.e else i * o.stride + k * o.e

/-- The scale bytes of the same elements, row by row (R192); `skip` is the problem's distance from the operand base. -/
def Opnd.scaleRuns (o : Opnd) (skip i0 cnt k0 n : Nat) : List (Nat × Nat) :=
  if o.scaled then
    (List.range cnt).flatMap fun i => (List.range n).map fun x =>
      (o.sbase + (skip + o.offset (i0 + i) (k0 + x)) / 2 ^ o.shift, 1)
  else []

/-- The values of elements (i, k) of a fetched slice: `data` the bytes of `runs`, `sc` those of `scaleRuns`. -/
def Opnd.elem (o : Opnd) (data sc : List Byte) (cnt n i x : Nat) : FVal :=
  let at_ := if o.col then (x * cnt + i) * o.e else (i * n + x) * o.e
  let v := o.fmt.value (fieldN data at_ o.e)
  if o.scaled then scaleV v (blockScale (sc.getD (i * n + x) 0)) else v

/-! ### The parameter block (R189, R193) -/

structure Block where
  a : Opnd
  b : Opnd
  m : Nat
  n : Nat
  k : Nat
  flags : Nat
  barrier : Nat
  layout : Nat
  member : Nat
  astride : Nat
  bstride : Nat
  rsv : Nat
  deriving DecidableEq, Repr

def Block.of (nfmt : Word) (d : List Byte) : Block :=
  let fl := fieldN d 52 1
  { a := Opnd.of nfmt (fieldN d 16 4) (fieldN d 0 8) (fieldN d 24 8) (fieldN d 40 1) (fl / 16 % 2 == 1),
    b := Opnd.of nfmt (fieldN d 20 4) (fieldN d 8 8) (fieldN d 32 8) (fieldN d 41 1) (fl / 32 % 2 == 1),
    m := fieldN d 44 2, n := fieldN d 46 2, k := fieldN d 48 4, flags := fl, barrier := fieldN d 53 1,
    layout := fieldN d 54 1, member := fieldN d 55 1, astride := fieldN d 56 4, bstride := fieldN d 60 4,
    rsv := fieldN d 42 2 }

namespace Block

def acc (p : Block) : Bool := p.flags % 2 == 1
def accumulate (p : Block) : Bool := p.flags / 2 % 2 == 1
def mode (p : Block) : Nat := p.flags / 4 % 4
def bar (p : Block) : Option Nat := if p.flags / 64 % 2 = 1 then some (p.barrier % 16) else none
/-- Slice width of the class (R54). -/
def w (p : Block) : Nat := 32 / p.a.e
def slices (p : Block) : Nat := (p.k + p.w - 1) / p.w
def gr (p : Block) : Nat := p.layout % 4 + 1
def gc (p : Block) : Nat := p.layout / 4 % 4 + 1

/-- One problem: distances of its operands from their bases, its first row and column in the operands, its size, and
where its region starts. -/
structure Problem where
  skipA : Nat
  skipB : Nat
  i0 : Nat
  j0 : Nat
  m : Nat
  n : Nat
  row : Nat
  col : Nat
  deriving DecidableEq, Repr

def problems (p : Block) : List Problem :=
  match p.mode with
  | 0 => [⟨0, 0, 0, 0, p.m, p.n, 0, 0⟩]
  | 1 => (List.range p.layout).map fun r =>
      ⟨r * p.astride, r * p.bstride, 0, 0, p.m, p.n, 32 * (r / 4), 16 * (r % 4)⟩
  | _ =>
    let i := p.member / p.gc
    let j := p.member % p.gc
    [⟨0, 0, 128 * i, 64 * j, min 128 (p.m - 128 * i), min 64 (p.n - 64 * j), 0, 0⟩]

/-- M, N, the layout and the member within R193. -/
def shapeOk (p : Block) (wing : Option (Nat × Nat)) : Bool :=
  match p.mode with
  | 0 => decide (1 ≤ p.m) && decide (p.m ≤ 128) && decide (1 ≤ p.n) && decide (p.n ≤ 64) && p.layout == 0 && p.member == 0
  | 1 =>
    decide (1 ≤ p.m) && decide (p.m ≤ 32) && decide (1 ≤ p.n) && decide (p.n ≤ 16) && decide (1 ≤ p.layout) &&
      decide (p.layout ≤ 16) && p.member == 0
  | 2 =>
    decide (p.layout < 16) && decide (p.m ≤ 128 * p.gr) && decide (p.n ≤ 64 * p.gc) && decide (p.member < p.gr * p.gc) &&
      decide (128 * (p.member / p.gc) < p.m) && decide (64 * (p.member % p.gc) < p.n) &&
      match wing with
      | some (_, ix) => ix == p.member
      | none => false
  | _ => false

/-- Stored rows and row length of an operand checked against a trailer (R191): i is M or N. -/
def storedRows (p : Block) (o : Opnd) (i : Nat) : Nat × Nat := if o.col then (p.k, i) else (i, p.k)

/-- The operands whose trailers are checked, each with its stored rows and row length. DESIGN CHOICE (log entry 90): R202
does not say which comes first when both are checked; the trailer of A is read and checked before that of B. -/
def trailers (p : Block) : List (Opnd × Nat × Nat) :=
  (if p.a.trailer then [(p.a, p.storedRows p.a p.m)] else []) ++ if p.b.trailer then [(p.b, p.storedRows p.b p.n)] else []

/-- The checks of R195, item 2. DESIGN CHOICE (log entry 62): of bases and strides these look at abase, bbase and the
strides of the control words; astride and bstride may have any value. -/
def ok (p : Block) (T : Team) (d : List Byte) : Bool :=
  p.a.ok && p.b.ok && p.a.e == p.b.e && p.rsv == 0 && decide (p.flags < 128) && decide (p.barrier < 16) &&
    p.shapeOk T.wing && decide (1 ≤ p.k) && decide (p.k ≤ 1048576) && T.mx.claims.getLsbD (if p.acc then 1 else 0) &&
    (p.trailers.isEmpty || (p.mode == 0 && p.trailers.all fun t => decide (t.2.1 ≤ 128) && decide (t.2.2 ≤ 64))) &&
    (T.mx.stop != some (true, d) || (decide (T.mx.prog.toNat % p.w = 0) && decide (T.mx.prog.toNat < p.slices * p.w)))

end Block

/-! ### Issue -/

/-- Wait while eight commands of the team are outstanding (R187). -/
def mxRoom (team : Nat) : M Unit := do
  if (← getTeam team).mx.queue.length < 8 then pure () else hold

/-- Register on the barrier and join the team's queue. -/
def mxEnqueue (team : Nat) (c : MxCmd) : M Unit := do
  registerNb team c.barrier
  modTeam team fun T => { T with mx := { T.mx with queue := T.mx.queue ++ [c], issued := T.mx.issued + 1 } }

/-- A command of a lane with nothing done yet. -/
def mxCmd (ln : Lane) (kind : MxKind) (bar : Option Nat) (draws : List Nat) : M MxCmd := do
  pure { kind := kind, nfmt := ← nfmt ln, fpctl := ← fpctl ln, origin := ← newOp ln, draws := draws, barrier := bar,
         started := false, step := 0, sleep := none, parts := [], out := [] }

/-- MX.ISSUE of a block of 64 bytes (R195). -/
def mxIssueBlock (ln : Lane) (d : List Byte) : M Unit := do
  let p := Block.of (← nfmt ln) d
  check (p.ok (← getTeam ln.team) d) Cause.operandFormat
  mxEnqueue ln.team (← mxCmd ln (.issue d) p.bar [])

/-- Start a matrix multiplication whose block is at local address a (R195, R196). -/
def bodyMxIssue (same : Bool) (a : BitVec 8) : Body := fun ln => seq do
  let x := (← rd ln a).toNat
  check same Cause.nonuniform
  mxRoom ln.team
  let d ← readBlock ln.team x 64 64
  mxIssueBlock ln d
@[inherit_doc bodyMxIssue]
def execMxIssue (a : BitVec 8) (s_ : State) : Result :=
  issue (.mxIssue a) (bodyMxIssue (uniform (.mxIssue a) s_ (rdList [a])) a) s_

/-- Start a matrix multiplication whose block is in s(16e) … s(16e + 15) (R194). -/
def bodyMxIssueS (e : BitVec 2) : Body := fun ln => seq do
  mxRoom ln.team
  let ws ← (List.range 16).mapM fun j => rdS ln (16 * e.toNat + j)
  mxIssueBlock ln (ws.flatMap fun w => leBytes 4 w.toNat)
@[inherit_doc bodyMxIssueS]
def execMxIssueS (e : BitVec 2) (s_ : State) : Result := issue (.mxIssueS e) (bodyMxIssueS e) s_

/-- Zero accumulator n when the command's turn comes (R198); an unclaimed one traps (R186). -/
def bodyMxZero (n : Bool) : Body := fun ln => seq do
  mxRoom ln.team
  let T ← getTeam ln.team
  check (T.mx.claims.getLsbD (if n then 1 else 0)) Cause.operandFormat
  mxEnqueue ln.team (← mxCmd ln (.zero n) none [])
@[inherit_doc bodyMxZero]
def execMxZero (n : Bool) (s_ : State) : Result := issue (.mxZero n) (bodyMxZero n) s_

/-- The transfer descriptor (R199). -/
structure Tile where
  addr : Nat
  stride : Nat
  rows : Nat
  cols : Nat
  code : Nat
  flags : Nat
  barrier : Nat
  row0 : Nat
  col0 : Nat
  rsv : Nat
  deriving DecidableEq, Repr

def Tile.of (d : List Byte) : Tile :=
  { addr := fieldN d 0 8, stride := fieldN d 8 4, rows := fieldN d 12 2, cols := fieldN d 14 2, code := fieldN d 16 1,
    flags := fieldN d 17 1, barrier := fieldN d 18 1, row0 := fieldN d 19 1, col0 := fieldN d 20 1, rsv := fieldN d 21 11 }

namespace Tile

def here (t : Tile) : Bool := t.flags % 2 == 1
def trailer (t : Tile) : Bool := t.flags / 2 % 2 == 1
def bar (t : Tile) : Option Nat := if t.flags / 4 % 2 = 1 then some (t.barrier % 16) else none
def swz (t : Tile) : Bool := t.flags / 8 % 2 == 1
def trailerAt (t : Tile) : Nat := t.addr + t.rows * t.stride

/-- The checks of R199. -/
def ok (t : Tile) (nfmt : Word) (claimed : Bool) : Bool :=
  let F := fmtOf nfmt t.code
  decide (1 ≤ t.rows) && decide (t.rows ≤ 128) && decide (1 ≤ t.cols) && decide (t.cols ≤ 64) && decide (t.code ≤ 7) &&
    decide (t.flags < 16) && decide (t.barrier < 16) && decide (t.row0 + t.rows ≤ 128) && decide (t.col0 + t.cols ≤ 64) &&
    t.rsv == 0 && decide (t.stride % F.bytes = 0) && F.valid && claimed &&
    (!t.swz || (t.here && decide (t.addr % 128 = 0) && decide (t.stride % 128 = 0))) &&
    (!t.trailer || decide (t.trailerAt % 16 = 0))

/-- The tile as an operand stored row by row. -/
def opnd (t : Tile) (nfmt : Word) : Opnd :=
  let F := fmtOf nfmt t.code
  { code := t.code, fmt := F, e := F.bytes, col := false, swz := t.swz, trailer := t.trailer, here := t.here,
    stride := t.stride, base := t.addr, sbase := 0, shift := 0, scaled := false }

end Tile

/-- The next `n` draws of an issuing thread, its counter advanced (R46, R200). The front thread has no sequence: its
draws are free values. -/
def reserveDraws (ln : Lane) : Nat → M (List Nat)
  | 0 => pure []
  | n + 1 => do
    let u ← match ln.who with
      | .thread t => draw15 ln.team t
      | .front => do
        let s ← get
        set { s with picks := s.picks + 1 }
        pure ((Config.freeWord s.picks).toNat % 32768)
    let rest ← reserveDraws ln n
    pure (u :: rest)

/-- MX.STORE and MX.LOAD at issue (R199, R200). DESIGN CHOICE (log entry 61): R199 gives the BARRIER_MISUSE of R173 no
rank; it comes last, after OPERAND_FORMAT and the draws. -/
def mxTransfer (ln : Lane) (n : Bool) (x : Nat) (kind : List Byte → MxKind) (sr : Bool) : M Unit := do
  mxRoom ln.team
  let d ← readBlock ln.team x 32 32
  let t := Tile.of d
  let T ← getTeam ln.team
  check (t.ok (← nfmt ln) (T.mx.claims.getLsbD (if n then 1 else 0))) Cause.operandFormat
  let draws ← if sr then reserveDraws ln (t.rows * t.cols) else pure []
  mxEnqueue ln.team (← mxCmd ln (kind d) t.bar draws)

/-- Store a tile of accumulator n as the descriptor at local address a says (R199–R201). -/
def bodyMxStore (same : Bool) (q : BitVec 2) (p : BitVec 2) (n : Bool) (a : BitVec 8) : Body := fun ln => seq do
  let x := (← rd ln a).toNat
  check same Cause.nonuniform
  mxTransfer ln n x (fun d => .store n d q p) (q == 3)
@[inherit_doc bodyMxStore]
def execMxStore (q : BitVec 2) (p : BitVec 2) (n : Bool) (a : BitVec 8) (s_ : State) : Result :=
  issue (.mxStore q p n a) (bodyMxStore (uniform (.mxStore q p n a) s_ (rdList [a])) q p n a) s_

/-- Load a tile into accumulator n as the descriptor at local address a says (R199, R203). -/
def bodyMxLoad (same : Bool) (n : Bool) (a : BitVec 8) : Body := fun ln => seq do
  let x := (← rd ln a).toNat
  check same Cause.nonuniform
  mxTransfer ln n x (fun d => .load n d) false
@[inherit_doc bodyMxLoad]
def execMxLoad (n : Bool) (a : BitVec 8) (s_ : State) : Result :=
  issue (.mxLoad n a) (bodyMxLoad (uniform (.mxLoad n a) s_ (rdList [a])) n a) s_

/-- Wait until the commands issued before this instruction have ended (R204). -/
def mxWait (ln : Lane) : M Unit := do
  let T ← getTeam ln.team
  let n := match ← waitOf ln with
    | some (.mx n) => n
    | _ => T.mx.issued
  if n + T.mx.queue.length ≤ T.mx.issued then pure ()
  else
    setWait ln (some (.mx n))
    holdHere

/-- d := the team's matrix state, after the commands before have ended unless w is set; an abandon is reported once
(R204). -/
def bodyMxProg (d : BitVec 8) (w : Bool) : Body := fun ln => seq do
  if w then pure () else mxWait ln
  let T ← getTeam ln.team
  match T.mx.abandon with
  | some (cause, addr) =>
    modTeam ln.team fun T => { T with mx := { T.mx with abandon := none } }
    trapAfter (.mxProg d w) ln cause addr
  | none =>
    let stopped := match T.mx.stop with
      | some (true, _) => 2 ^ 25
      | _ => 0
    wr ln d (BitVec.ofNat 32 (T.mx.prog.toNat % 2 ^ 24 + (if T.mxBusy then 0 else 2 ^ 24) + stopped
      + if T.mx.lastBad then 2 ^ 26 else 0))
@[inherit_doc bodyMxProg]
def execMxProg (d : BitVec 8) (w : Bool) (s_ : State) : Result := issue (.mxProg d w) (bodyMxProg d w) s_

/-! ### Running commands -/

def Mx.tile (x : Mx) (n : Bool) : SMap Word := if n then x.a1 else x.a0
def Mx.setTile (x : Mx) (n : Bool) (v : SMap Word) : Mx := if n then { x with a1 := v } else { x with a0 := v }

/-- Element (r, c) of an accumulator; an element never written is +0 (R185). -/
def accAt (t : SMap Word) (r c : Nat) : Word := SMap.getD t (64 * r + c) 0
def setAcc (t : SMap Word) (r c : Nat) (v : Word) : SMap Word := SMap.put t (64 * r + c) v 0

def modMx (team : Nat) (f : Mx → Mx) : M Unit := modTeam team fun T => { T with mx := f T.mx }

/-- The command at the head of the queue changes. -/
def Mx.head (x : Mx) (f : MxCmd → MxCmd) : Mx :=
  match x.queue with
  | c :: cs => { x with queue := f c :: cs }
  | [] => x

/-- The head command ends: finished or stopped (R185, R187). -/
def Team.mxEnd (T : Team) (c : MxCmd) : Team :=
  let T : Team := { T with mx := { T.mx with queue := T.mx.queue.drop 1, lastBad := false } }
  match c.barrier with
  | some k => T.engineDone k
  | none => T

/-- The head command is abandoned (R197). -/
def Team.mxAbandon (T : Team) (c : MxCmd) (cause : BitVec 8) (addr : Word64) : Team :=
  let stop := match c.kind with
    | .issue d => some (false, d)
    | _ => T.mx.stop
  let T : Team := { T with mx := { T.mx with queue := T.mx.queue.drop 1, lastBad := true, stop := stop,
                                             abandon := some (cause, addr) } }
  match c.barrier with
  | some k => T.abandonOn k none
  | none => T

/-- Abandon in the state: the fault of a command that names no barrier is recorded (R301, log entry 63), and a word that
could not be read contains the team (R303). DESIGN CHOICE (log entry 82): R301 takes TINST and PC from the instruction that
trapped, and an engine's step is none; both are 0 in the type 2 record of a fourth consumption met by an engine. -/
def State.mxAbandon (s : State) (team : Nat) (c : MxCmd) (cause : BitVec 8) (addr : Word64)
    (place : Option Local := none) : State :=
  match s.team? team with
  | some T =>
    let s := s.setTeam team (T.mxAbandon c cause addr)
    let s := if c.barrier.isNone then s.report4 T c.origin 3 cause addr else s
    if cause = Cause.uncorrectable ∨ place.isSome then s.consume team c.origin.who cause 0 0 addr place else s
  | none => s

/-- The head command goes on from a TRANSLATION fault that has its record: MX.ISSUE stops (R197), a transfer sleeps on it
(R199). -/
def Team.mxRecorded (T : Team) (c : MxCmd) (rec_ : Nat) : Team :=
  match c.kind with
  | .issue d => ({ T with mx := { T.mx with stop := some (true, d) } } : Team).mxEnd c
  | _ => { T with mx := T.mx.head fun c => { c with sleep := some (.on rec_) } }

/-- A TRANSLATION fault of the head command; with no record free it waits for one (R248). -/
def State.mxPage (s : State) (team : Nat) (c : MxCmd) (addr : Word64) : State :=
  match s.team? team with
  | some T =>
    let r := s.enginePage T.ctx addr
    match r.2 with
    | .on k => r.1.modTeam team fun T => T.mxRecorded c k
    | .free a => r.1.modTeam team fun T => { T with mx := T.mx.head fun c => { c with sleep := some (.free a) } }
  | none => s

/-- One step of the head command, when it may move. -/
def mxStep (s : State) (team : Nat) (ready : MxCmd → Bool) (m : MxCmd → M Unit) : State :=
  match (s.team? team).bind (·.mx.queue.head?) with
  | none => s
  | some c =>
    if !s.enginesRun team || c.sleep.isSome || !c.out.isEmpty || !ready c then s
    else
      engineStep s team c.origin (m c) (fun a s => s.mxPage team c a) (fun cause a at_ s => s.mxAbandon team c cause a at_)

/-- Fetch for a step of the head command: what lies on other devices is asked for, and waited for. -/
def mxFetch (team : Nat) (c : MxCmd) (ask : M (List LoadPart)) : M (List Byte) := do
  let parts ← if c.parts.isEmpty then ask else pure c.parts
  match partsReady parts with
  | some bs => pure bs
  | none =>
    modMx team fun x => x.head fun c => { c with parts := parts }
    holdHere

/-- The format word of a trailer (R201). -/
def formatWord (F : VFmt) (code rows cols : Nat) : Nat :=
  let slot := match F with
    | .bin8 S => S.p * 2 ^ 4 + (if S.uns then 2 ^ 8 else 0) + if S.ext then 2 ^ 9 else 0
    | _ => 0
  code + slot + (rows - 1) * 2 ^ 16 + (cols - 1) * 2 ^ 24

/-- A trailer fits the tile bytes before it (R202). -/
def trailerFits (o : Opnd) (h l : Nat) (bs : List Byte) : Bool :=
  let n := h * l * o.e
  fieldN bs (n + 12) 4 == formatWord o.fmt o.code h l && BitVec.ofNat 32 (fieldN bs (n + 8) 4) == crc32c (bs.take n)

/-- Read the h stored rows of an operand and its trailer, and check them; a difference names the operand's address. -/
def checkTrailer (team : Nat) (c : MxCmd) (o : Opnd) (h l : Nat) : M Unit := do
  let rows := (List.range h).flatMap fun j => o.rowRuns o.base j 0 (l * o.e)
  let bs ← mxFetch team c (engineGets 3 team c.origin o.here (rows ++ [(o.base + h * o.stride, 16)]))
  check (trailerFits o h l bs) Cause.trailerMismatch (BitVec.ofNat 64 o.base)

/-- Put +0 into every element of a problem's region. -/
def zeroRegion (t : SMap Word) (p : Block.Problem) : SMap Word :=
  t.filter fun e => !(decide (p.row ≤ e.1 / 64) && decide (e.1 / 64 < p.row + p.m) && decide (p.col ≤ e.1 % 64) &&
    decide (e.1 % 64 < p.col + p.n))

/-- The start of an MX.ISSUE (R196): resume or begin afresh. -/
def mxBegin (x : Mx) (p : Block) (d : List Byte) : Mx :=
  let k0 : Word := if x.stop = some (true, d) then x.prog else 0
  let x := { x with stop := none, prog := k0 }
  if k0 = 0 ∧ !p.accumulate then x.setTile p.acc (p.problems.foldl zeroRegion (x.tile p.acc)) else x

/-- The next command starts: MX.ZERO is done at once (R198), an MX.ISSUE resumes or begins afresh. -/
def Team.mxStart (T : Team) (c : MxCmd) : Team :=
  match c.kind with
  | .zero n => ({ T with mx := T.mx.setTile n [] } : Team).mxEnd c
  | .issue d => { T with mx := (mxBegin T.mx (Block.of c.nfmt d) d).head fun c => { c with started := true } }
  | _ => { T with mx := T.mx.head fun c => { c with started := true } }

/-- The next trailer of a started MX.ISSUE is checked (R202). -/
def mxTrailer (team : Nat) (c : MxCmd) : M Unit := do
  match c.kind with
  | .issue d =>
    match (Block.of c.nfmt d).trailers[c.step]? with
    | some (o, h, l) =>
      checkTrailer team c o h l
      modMx team fun x => x.head fun c => { c with step := c.step + 1, parts := [] }
    | none => pure ()
  | _ => pure ()

/-- Whether the start of a command is not over. -/
def MxCmd.starting (c : MxCmd) : Bool :=
  !c.started ||
    match c.kind with
    | .issue d => decide (c.step < (Block.of c.nfmt d).trailers.length)
    | _ => false

/-- The next queued matrix command starts once the one before it has ended, and the trailers of an MX.ISSUE are checked
one by one before its first slice (R187, R196, R202). -/
def execMatrixCommandStart (team : Nat) (s_ : State) : Result :=
  .next <|
    match (s_.team? team).bind (·.mx.queue.head?) with
    | some c =>
      let s := if s_.enginesRun team && !c.started then s_.modTeam team (·.mxStart c) else s_
      mxStep s team (fun c => c.started && c.starting) (mxTrailer team)
    | none => s_

/-- The reads of slice j, A and its scales before B and its scales, problem by problem (R196). -/
def sliceRuns (p : Block) (j : Nat) : List (Bool × Nat × Nat) :=
  let k0 := j * p.w
  let n := min p.w (p.k - k0)
  p.problems.flatMap fun q =>
    ((p.a.runs (p.a.base + q.skipA) q.i0 q.m k0 n ++ p.a.scaleRuns q.skipA q.i0 q.m k0 n).map fun r => (p.a.here, r)) ++
      (p.b.runs (p.b.base + q.skipB) q.j0 q.n k0 n ++ p.b.scaleRuns q.skipB q.j0 q.n k0 n).map fun r => (p.b.here, r)

def fetchRuns (team : Nat) (o : Origin) : List (Bool × Nat × Nat) → M (List LoadPart)
  | [] => pure []
  | (here, a, n) :: rs => do
    let p ← engineGet 3 team o here a n
    let rest ← fetchRuns team o rs
    pure (p ++ rest)

/-- One problem's part of a slice: bytes of A, its scales, B, its scales, and what follows them. -/
def addProblem (p : Block) (n : Nat) (q : Block.Problem) (t : SMap Word) (bs : List Byte) : SMap Word × List Byte :=
  let na := q.m * n * p.a.e
  let sa := if p.a.scaled then q.m * n else 0
  let nb := q.n * n * p.b.e
  let sb := if p.b.scaled then q.n * n else 0
  let da := slice bs 0 na
  let ca := slice bs na sa
  let db := slice bs (na + sa) nb
  let cb := slice bs (na + sa + nb) sb
  let cell (t : SMap Word) (r c : Nat) : SMap Word :=
    let terms := (List.range n).map fun x => mulV (p.a.elem da ca q.m n r x) (p.b.elem db cb q.n n c x)
    setAcc t (q.row + r) (q.col + c) (sum32 (fp32.value (accAt t (q.row + r) (q.col + c)).toNat :: terms))
  ((List.range q.m).foldl (fun t r => (List.range q.n).foldl (fun t c => cell t r c) t) t,
    bs.drop (na + sa + nb + sb))

/-- One slice is fetched and added (R54, R196). -/
def mxSlice (team : Nat) (c : MxCmd) : M Unit := do
  match c.kind with
  | .issue d =>
    let p := Block.of c.nfmt d
    let T ← getTeam team
    let j := T.mx.prog.toNat / p.w
    let n := min p.w (p.k - j * p.w)
    let bs ← mxFetch team c (fetchRuns team c.origin (sliceRuns p j))
    let t := p.problems.foldl (fun r q => addProblem p n q r.1 r.2) (T.mx.tile p.acc, bs)
    modMx team fun x =>
      ({ x with prog := BitVec.ofNat 32 ((j + 1) * p.w) }.setTile p.acc t.1).head fun c => { c with parts := [] }
    if p.slices ≤ j + 1 then modTeam team fun T => T.mxEnd c else pure ()
  | _ => pure ()

/-- One K-slice of the running MX.ISSUE (R196, R197). -/
def execMxSlice (team : Nat) (s_ : State) : Result :=
  .next <| mxStep s_ team (fun c => c.started && !c.starting && match c.kind with
    | .issue _ => true
    | _ => false) (mxSlice team)

/-- The rounding of an MX.STORE for its element number i (R44, R46, R200). -/
def storeRnd (c : MxCmd) (q : BitVec 2) (i : Nat) : Rnd :=
  match q.toNat with
  | 0 => (FpMode.of c.fpctl).rnd
  | 1 => .rne
  | 2 => .rtz
  | _ => .sr (c.draws.getD i 0)

/-- The converted elements of a tile, row by row (R45, R200). -/
def storeElems (c : MxCmd) (t : Tile) (acc : SMap Word) (q pol : BitVec 2) : List Conv :=
  let F := fmtOf c.nfmt t.code
  let nan := match F with
    | .ieee G => G.nanBits
    | _ => 0
  (List.range (t.rows * t.cols)).map fun i =>
    convert F (storeRnd c q i) pol nan (fp32.value (accAt acc (t.row0 + i / t.cols) (t.col0 + i % t.cols)).toNat)

def Conv.bits : Conv → Nat
  | .ok v _ => v
  | .trap => 0

/-- The trailer of a stored tile (R201). -/
def tileTrailer (F : VFmt) (t : Tile) (vs : List Conv) : List Byte :=
  let xs := vs.map fun v => F.value v.bits
  let mags := xs.map fun
    | .nan => 0
    | x => fp32.ofV .rne 0 x % 2 ^ 31
  let wide := (xs.filter FVal.beyond32).map FVal.exponent
  let mag := if xs.any (fun x => x == .inf false || x == .inf true) || wide.isEmpty then mags.foldl max 0
    else (Config.beyondFp32 (wide.foldl max 0)).toNat
  let sat := (vs.filter fun v => match v with
    | .ok _ c => c
    | .trap => false).length
  let data := vs.flatMap fun v => leBytes F.bytes v.bits
  leBytes 4 mag ++ leBytes 4 sat ++ leBytes 4 (crc32c data).toNat
    ++ leBytes 4 (formatWord F t.code t.rows t.cols)

/-- Where element (r, j) of a tile lies (R200). -/
def Tile.elemAt (t : Tile) (e r j : Nat) : Nat :=
  let o := j * e
  t.addr + r * t.stride + if t.swz then o ^^^ (r % 8 * 16) else o

/-- Write runs of bytes, in order. -/
def putRuns (team : Nat) (o : Origin) (here : Bool) : List (Nat × Nat) → List Byte → M (List Nat)
  | [], _ => pure []
  | (a, n) :: rs, bs => do
    let ids ← enginePut 3 team o here a (bs.take n)
    let rest ← putRuns team o here rs (bs.drop n)
    pure (ids ++ rest)

/-- Bytes of a row or trailer have landed (R199). -/
def Team.mxLanded (T : Team) (c : MxCmd) (n : Nat) : Team :=
  let T := match c.barrier with
    | some k => T.landBytes k n
    | none => T
  { T with mx := T.mx.head fun c => { c with step := c.step + 1, parts := [], out := [] } }

/-- The last byte has landed: the command ends once its stores have been performed (R259). -/
def mxFinish (team : Nat) (c : MxCmd) : M Unit := do
  if ← joined team c.origin then modTeam team fun T => T.mxEnd c else pure ()

/-- Bytes that step `n` of a transfer lands, and whether it is the last: a row, or the trailer, which a store writes
last and a load checks first. -/
def MxCmd.landing (c : MxCmd) : Nat × Bool :=
  match c.kind with
  | .store _ d _ _ =>
    let t := Tile.of d
    if c.step < t.rows then (t.cols * (fmtOf c.nfmt t.code).bytes, !t.trailer && c.step + 1 == t.rows) else (16, true)
  | .load _ d =>
    let t := Tile.of d
    let row := t.cols * (fmtOf c.nfmt t.code).bytes
    if t.trailer then (if c.step = 0 then 16 else row, c.step == t.rows) else (row, c.step + 1 == t.rows)
  | _ => (0, false)

/-- Land a step whose writes are all done, or wait for those on other devices. -/
def mxLand (team : Nat) (c : MxCmd) (out : List Nat) : M Unit :=
  if out.isEmpty then do
    modTeam team fun T => T.mxLanded c c.landing.1
    if c.landing.2 then mxFinish team c else pure ()
  else modMx team fun x => x.head fun c => { c with out := out }

/-- Steps of a transfer: its rows and its trailer. -/
def Tile.steps (t : Tile) : Nat := t.rows + if t.trailer then 1 else 0

/-- One row, or the trailer, of an MX.STORE (R200, R201). -/
def mxStoreRow (team : Nat) (c : MxCmd) : M Unit := do
  match c.kind with
  | .store n d q pol =>
    let t := Tile.of d
    if t.steps ≤ c.step then mxFinish team c
    else
      let o := t.opnd c.nfmt
      let T ← getTeam team
      let vs := storeElems c t (T.mx.tile n) q pol
      match vs.findIdx? (· == .trap) with
      | some i => trap Cause.overflowTrap (BitVec.ofNat 64 (t.elemAt o.e (i / t.cols) (i % t.cols)))
      | none =>
        let out ← if c.step < t.rows then
            let bs := (slice' vs (c.step * t.cols) t.cols).flatMap fun v => leBytes o.e v.bits
            putRuns team c.origin t.here (o.rowRuns t.addr c.step 0 (t.cols * o.e)) bs
          else enginePut 3 team c.origin t.here t.trailerAt (tileTrailer o.fmt t vs)
        mxLand team c out
  | _ => pure ()
where
  /-- Consecutive elements of a list. -/
  slice' (l : List Conv) (at_ n : Nat) : List Conv := (l.drop at_).take n

/-- One row of the running MX.STORE (R200). -/
def execMxStoreTransfer (team : Nat) (s_ : State) : Result :=
  .next <| mxStep s_ team (fun c => c.started && match c.kind with
    | .store _ _ _ _ => true
    | _ => false) (mxStoreRow team)

/-- The binary32 value an element loads as: any NaN is the canonical one (R203). -/
def loadElem (F : VFmt) (v : Nat) : Word := BitVec.ofNat 32 (fp32Of (F.value v))

/-- One row, or the check of the trailer, of an MX.LOAD (R203). -/
def mxLoadRow (team : Nat) (c : MxCmd) : M Unit := do
  match c.kind with
  | .load n d =>
    let t := Tile.of d
    let o := t.opnd c.nfmt
    if t.steps ≤ c.step then mxFinish team c
    else if t.trailer && c.step == 0 then
      checkTrailer team c o t.rows t.cols
      mxLand team c []
    else
      let r := if t.trailer then c.step - 1 else c.step
      let bs ← mxFetch team c (engineGets 3 team c.origin t.here (o.rowRuns t.addr r 0 (t.cols * o.e)))
      modMx team fun x =>
        x.setTile n ((List.range t.cols).foldl
          (fun a j => setAcc a (t.row0 + r) (t.col0 + j) (loadElem o.fmt (fieldN bs (j * o.e) o.e))) (x.tile n))
      mxLand team c []
  | _ => pure ()

/-- One row of the running MX.LOAD (R203). -/
def execMxLoadTransfer (team : Nat) (s_ : State) : Result :=
  .next <| mxStep s_ team (fun c => c.started && match c.kind with
    | .load _ _ => true
    | _ => false) (mxLoadRow team)

end Sys2Proof.Machine
end

