-- ==== Sys2Proof/Machine/Reshard.lean ====
section
/-!
DEFINITION. The Frarrizer (R229–R236, R361): tensor layout records (R324, R325), the pull plan (R326, R327), the
re-shard instructions, and the rows of a running operation.
-/

namespace Sys2Proof.Machine

/-! ### Tensor layout records (R324, R325) -/

structure Layout where
  e : Nat
  rank : Nat
  meshRank : Nat
  devbase : Nat
  devstride : List Nat
  mesh : List Nat
  map : List Nat
  block : List Nat
  shape : List Nat
  base : Nat
  stride : List Nat
  high : Bool
  deriving DecidableEq, Repr

def Layout.of (d : List Byte) : Layout :=
  let f := fieldN d 0 1
  { e := 2 ^ (f % 4), rank := f / 4 % 8, meshRank := f / 32 % 4, devbase := fieldN d 1 3,
    devstride := [fieldN d 4 2, fieldN d 6 2, fieldN d 8 2], mesh := [fieldN d 10 2, fieldN d 12 2, fieldN d 14 2],
    map := [fieldN d 16 1, fieldN d 17 1, fieldN d 18 1, fieldN d 19 1],
    block := [fieldN d 20 2, fieldN d 22 2, fieldN d 24 2, fieldN d 26 2],
    shape := [fieldN d 28 4, fieldN d 32 4, fieldN d 36 4, fieldN d 40 4], base := fieldN d 44 8,
    stride := [0, fieldN d 52 4, fieldN d 56 4, fieldN d 60 4], high := f / 128 == 1 }

namespace Layout

def size (r : Layout) (j : Nat) : Nat := r.shape.getD j 1
def extent (r : Layout) (a : Nat) : Nat := r.mesh.getD a 1

/-- The mesh axis of a sharded dimension. -/
def axis? (r : Layout) (j : Nat) : Option Nat :=
  let m := r.map.getD j 0
  if j < r.rank ∧ m / 4 % 2 = 1 then some (m % 4) else none

/-- Block size of a sharded dimension on axis a. -/
def blockOf (r : Layout) (j a : Nat) : Nat :=
  let b := r.block.getD j 0
  if b = 0 then (r.size j + r.extent a - 1) / r.extent a else b

/-- The mesh coordinates. -/
def coords (r : Layout) : List (List Nat) :=
  (List.range (r.extent 0)).flatMap fun x => (List.range (r.extent 1)).flatMap fun y =>
    (List.range (r.extent 2)).map fun z => [x, y, z]

/-- The device that holds a mesh coordinate (R325). -/
def deviceAt (r : Layout) (m : List Nat) : Nat := r.devbase + (m.zipWith (· * ·) r.devstride).foldl (· + ·) 0

/-- The ids are within range and distinct: `seen` has a bit for each id met. -/
def idsOk : List Nat → Nat → Bool
  | [], _ => true
  | i :: is, seen => decide (i < 131072) && !seen.testBit i && idsOk is (seen ||| 2 ^ i)

/-- The record is valid (R324). -/
def ok (r : Layout) : Bool :=
  let axes := (List.range 4).filterMap r.axis?
  !r.high && decide (1 ≤ r.rank) && decide (r.rank ≤ 4) && decide (1 ≤ r.meshRank) && decide (r.meshRank ≤ 3) &&
    decide (r.devbase < 131072) && r.mesh.all (· != 0) && (r.mesh.drop r.meshRank).all (· == 1) && r.shape.all (· != 0)
    && (r.shape.drop r.rank).all (· == 1) && r.map.all (fun m => decide (m < 8)) && axes.all (fun a => decide (a < r.meshRank))
    && axes == axes.eraseDups && decide (r.extent 0 * r.extent 1 * r.extent 2 ≤ 131072)
    && idsOk (r.coords.map r.deviceAt) 0

/-- The mesh coordinate that a device holds. -/
def coordOf? (r : Layout) (dev : Nat) : Option (List Nat) := r.coords.find? fun m => r.deviceAt m == dev

/-- The local index of global index x of dimension j (R325). -/
def localIx (r : Layout) (j x : Nat) : Nat :=
  match r.axis? j with
  | some a => let b := r.blockOf j a; x / (b * r.extent a) * b + x % b
  | none => x

/-- Byte offset of a global element from the local base (R325). -/
def offsetOf (r : Layout) (xs : List Nat) : Nat :=
  (List.range 4).foldl (fun o j =>
    o + r.localIx j (xs.getD j 0) * if j = 0 then r.e else r.stride.getD j 0) 0

end Layout

/-! ### The pull plan (R326, R327) -/

/-- The pieces of one dimension that a device owns from x on: first index and length. A piece lies in one block of each
record and is no longer than `cut`. More than 65536 pieces are not counted. -/
def planPieces (src dst : Layout) (j cut : Nat) : Nat → Nat → List (Nat × Nat)
  | 0, _ => []
  | fuel + 1, x =>
    let n := dst.size j
    if n ≤ x then []
    else
      let blockEnd (r : Layout) : Nat := match r.axis? j with
        | some a => (x / r.blockOf j a + 1) * r.blockOf j a
        | none => n
      let e := min (min n (blockEnd dst)) (min (blockEnd src) (x + cut))
      let next := match dst.axis? j with
        | some a => if e = blockEnd dst then e + dst.blockOf j a * (dst.extent a - 1) else e
        | none => e
      (x, e - x) :: planPieces src dst j cut fuel next

/-- The longest pieces of dimension j for a plan of the given rank (R326). -/
def cutOf (rank j : Nat) : Nat :=
  if j = 0 then 65535
  else match rank with
    | 0 | 1 | 2 => 65535
    | 3 => 255
    | _ => 40

/-- The pieces of dimension j on the device at mesh coordinate m of the destination. -/
def piecesOf (src dst : Layout) (m : List Nat) (j : Nat) : List (Nat × Nat) :=
  let first := match dst.axis? j with
    | some a => m.getD a 0 * dst.blockOf j a
    | none => 0
  planPieces src dst j (cutOf (max src.rank dst.rank) j) 65536 first

/-- Link distance to a device: 0 to this one, else the hop count of its route (R308, R327). -/
def State.distance? (s : State) (dev : Nat) : Option Nat :=
  if dev = s.mgmt.devid.toNat then some 0
  else if 18 ≤ s.portTo (BitVec.ofNat 17 dev) then none
  else (s.route? (BitVec.ofNat 17 dev)).map fun r => r.2.toNat

/-- The nearer holder, then the lower id. -/
def nearer (a b : Nat × Nat) : Nat × Nat := if b.1 < a.1 ∨ (b.1 = a.1 ∧ b.2 < a.2) then b else a

/-- The source device of the entry whose first element is at xs (R327). -/
def State.sourceOf (s : State) (src : Layout) (xs : List Nat) : Option Nat :=
  let fits (m : List Nat) : Bool := (List.range 4).all fun j =>
    match src.axis? j with
    | some a => xs.getD j 0 / src.blockOf j a % src.extent a == m.getD a 0
    | none => true
  let cands := (src.coords.filter fits).filterMap fun m =>
    (s.distance? (src.deviceAt m)).map fun d => (d, src.deviceAt m)
  match cands with
  | [] => none
  | c :: cs => some (cs.foldl nearer c).2

/-- One entry of a plan as its 32 bytes (R231). -/
def entryBytes (dev so do_ : Nat) (ext : List Nat) : List Byte :=
  leBytes 4 dev ++ leBytes 4 0 ++ leBytes 8 so ++ leBytes 8 do_ ++ ext.flatMap (leBytes 2)

/-- The entries over four lists of pieces, dimension 3 outermost (R326); `none` when some entry has no eligible holder. -/
def State.planEntries (s : State) (src dst : Layout) (ps : List (List (Nat × Nat))) : Option (List (List Byte)) :=
  let boxes := (ps.getD 3 []).flatMap fun d => (ps.getD 2 []).flatMap fun c => (ps.getD 1 []).flatMap fun b =>
    (ps.getD 0 []).map fun a => [a, b, c, d]
  boxes.mapM fun box =>
    let xs := box.map (·.1)
    (s.sourceOf src xs).map fun dev => entryBytes dev (src.offsetOf xs) (dst.offsetOf xs) (box.map (·.2))

/-- The plan of this device, or `none` where R231 or R327 trap RESHARD_PLAN. -/
def State.planOf (s : State) (src dst : Layout) : Option (List (List Byte)) :=
  match dst.coordOf? s.mgmt.devid.toNat with
  | none => some []
  | some m =>
    let ps : List (List (Nat × Nat)) := (List.range 4).map (piecesOf src dst m)
    let n : Nat := ps.foldl (fun n p => n * p.length) 1
    if 65535 < n then none else s.planEntries src dst ps

/-! ### Instructions -/

/-- Read and check the two layout records (R231, R232). -/
def readLayouts (team src dst : Nat) : M (List Byte × List Byte) := do
  check (src % 64 = 0) Cause.misalignedData (BitVec.ofNat 64 src)
  check (dst % 64 = 0) Cause.misalignedData (BitVec.ofNat 64 dst)
  let a ← readBlock team src 64 64
  check (Layout.of a).ok Cause.reshardPlan
  let b ← readBlock team dst 64 64
  check (Layout.of b).ok Cause.reshardPlan
  check ((Layout.of a).shape == (Layout.of b).shape && (Layout.of a).e == (Layout.of b).e) Cause.reshardPlan
  pure (a, b)

/-- Form the pull plan that the request at local address a asks for; d := its entries (R231). DESIGN CHOICE (log entry
79): of several failures of the rule's list the request's own are met first, then the records' in their order. DESIGN
CHOICE (log entry 64): the buffer's range is checked over the entries that are stored, and so not at all where none is. -/
def bodyRshPlan (same : Bool) (d : BitVec 8) (a : BitVec 8) : Body := fun ln => seq do
  let x := (← rd ln a).toNat
  check same Cause.nonuniform
  let q ← readBlock ln.team x 16 16
  let buf := fieldN q 8 4
  let cap := fieldN q 12 2
  check (buf % 32 = 0) Cause.misalignedData (BitVec.ofNat 64 buf)
  check (fieldN q 14 2 == 0) Cause.reshardPlan
  let (src, dst) ← readLayouts ln.team (fieldN q 0 4) (fieldN q 4 4)
  match (← get).planOf (Layout.of src) (Layout.of dst) with
  | none => trap Cause.reshardPlan
  | some es =>
    if es.length ≤ cap then
      let T ← getTeam ln.team
      check (es.isEmpty || decide (buf + 32 * es.length ≤ T.size)) Cause.protection (BitVec.ofNat 64 buf)
      if es.isEmpty then pure ()
      else do
        rcFirst ln.team (T.origin ln.who)
        storeLocal ln.team ⟨ln.team, buf, false⟩ es.flatten
      wr ln d (BitVec.ofNat 32 es.length)
    else wr ln d (BitVec.ofNat 32 (2 ^ 31 + es.length))
@[inherit_doc bodyRshPlan]
def execRshPlan (d : BitVec 8) (a : BitVec 8) (s_ : State) : Result :=
  issue (.rshPlan d a) (bodyRshPlan (uniform (.rshPlan d a) s_ (rdList [a])) d a) s_

/-- The completion barrier of a go block (R232). -/
def goBarrier (g : List Byte) : Option Nat := if fieldN g 6 1 / 16 % 2 = 1 then some (fieldN g 6 1 % 16) else none

/-- The checks of a go block, its records and its plan's range (R232). -/
def checkGo (team : Nat) (g : List Byte) : M (List Byte × List Byte) := do
  let plan := fieldN g 0 4
  let count := fieldN g 4 2
  check (plan % 32 = 0) Cause.misalignedData (BitVec.ofNat 64 plan)
  check (count != 0 && decide (fieldN g 6 1 < 32) && fieldN g 7 1 == 0) Cause.reshardPlan
  let r ← readLayouts team (fieldN g 8 4) (fieldN g 12 4)
  let T ← getTeam team
  check (decide (plan + 32 * count ≤ T.size)) Cause.protection (BitVec.ofNat 64 plan)
  pure r

/-- The check that registering on a barrier makes, and nothing else of it. -/
def canRegister (team : Nat) (k : Option Nat) : M Unit := fun s =>
  match registerNb team k s with
  | .ok _ => .ok ((), s)
  | .error e => .error e

/-- Commit the porch, register on the barrier, and run from an entry and row (R232, R234, R258). -/
def rshStart (ln : Lane) (g : List Byte) (recs : List Byte × List Byte) (entry row : BitVec 16) : M Unit := do
  canRegister ln.team (goBarrier g)
  commitFirst ln.team
  registerNb ln.team (goBarrier g)
  let o ← newOp ln
  modTeam ln.team fun T =>
    { T with rsh := { T.rsh with go := g, src := recs.1, dst := recs.2, entry := entry, row := row, state := 1,
                                 stopAsked := false, nextEntry := entry, nextRow := row, plan := none, flight := [],
                                 sleep := none, origin := o } }

/-- Run the plan that the go block at local address a names, from RSPROG when it is the block that was stopped (R232). -/
def bodyRshGo (same : Bool) (a : BitVec 8) : Body := fun ln => seq do
  let x := (← rd ln a).toNat
  check same Cause.nonuniform
  let T ← getTeam ln.team
  if T.rshRunning then hold
  else
    let g ← readBlock ln.team x 16 16
    let recs ← checkGo ln.team g
    let again := T.rsh.state == 3 && T.rsh.go == g
    rshStart ln g recs (if again then T.rsh.entry else 0) (if again then T.rsh.row else 0)
@[inherit_doc bodyRshGo]
def execRshGo (a : BitVec 8) (s_ : State) : Result :=
  issue (.rshGo a) (bodyRshGo (uniform (.rshGo a) s_ (rdList [a])) a) s_

/-- d := the state of the team's operation, once it does not run unless w is set; an abandon is reported once (R235). -/
def bodyRshPoll (d : BitVec 8) (w : Bool) : Body := fun ln => seq do
  let T ← getTeam ln.team
  if !w && T.rshRunning then hold
  else
    match T.rsh.abandon with
    | some (cause, addr) =>
      modTeam ln.team fun T => { T with rsh := { T.rsh with abandon := none } }
      trapAfter (.rshPoll d w) ln cause addr
    | none => wr ln d (BitVec.ofNat 32 T.rsh.state)
@[inherit_doc bodyRshPoll]
def execRshPoll (d : BitVec 8) (w : Bool) (s_ : State) : Result := issue (.rshPoll d w) (bodyRshPoll d w) s_

/-- The save record (R234). -/
def Rsh.record (r : Rsh) : List Byte :=
  r.go ++ leBytes 2 r.entry.toNat ++ leBytes 2 r.row.toNat ++ leBytes 1 r.state ++ List.replicate 11 0#8

/-- Stop a running operation at a row boundary, then write the save record at local address a (R234). -/
def bodyRshSave (same : Bool) (a : BitVec 8) : Body := fun ln => seq do
  let x := (← rd ln a).toNat
  check same Cause.nonuniform
  check (x % 32 = 0) Cause.misalignedData (BitVec.ofNat 64 x)
  let T ← getTeam ln.team
  check (decide (x + 32 ≤ T.size)) Cause.protection (BitVec.ofNat 64 x)
  if T.rshRunning then
    modTeam ln.team fun T => { T with rsh := { T.rsh with stopAsked := true } }
    holdHere
  else
    rcFirst ln.team (T.origin ln.who)
    storeLocal ln.team ⟨ln.team, x, false⟩ T.rsh.record
    modTeam ln.team fun T =>
      { T with rsh := { T.rsh with state := if T.rsh.state = 2 ∨ T.rsh.state = 4 then T.rsh.state else 0 } }
@[inherit_doc bodyRshSave]
def execRshSave (a : BitVec 8) (s_ : State) : Result :=
  issue (.rshSave a) (bodyRshSave (uniform (.rshSave a) s_ (rdList [a])) a) s_

/-- Run on from the save record at local address a (R234). -/
def bodyRshResume (same : Bool) (a : BitVec 8) : Body := fun ln => seq do
  let x := (← rd ln a).toNat
  check same Cause.nonuniform
  let T ← getTeam ln.team
  if T.rshRunning then hold
  else
    let r ← readBlock ln.team x 32 32
    let g := slice r 0 16
    let recs ← checkGo ln.team g
    check (decide (fieldN r 16 2 ≤ fieldN g 4 2) && decide (fieldN r 20 1 ≤ 4) && fieldN r 21 11 == 0) Cause.reshardPlan
    rshStart ln g recs (BitVec.ofNat 16 (fieldN r 16 2)) (BitVec.ofNat 16 (fieldN r 18 2))
@[inherit_doc bodyRshResume]
def execRshResume (a : BitVec 8) (s_ : State) : Result :=
  issue (.rshResume a) (bodyRshResume (uniform (.rshResume a) s_ (rdList [a])) a) s_

/-! ### Rows of a running operation -/

/-- A plan entry (R231). -/
structure Entry where
  dev : Nat
  so : Nat
  dst : Nat
  ext : List Nat
  rsv : Nat
  deriving DecidableEq, Repr

def Entry.of (d : List Byte) : Entry :=
  { dev := fieldN d 0 4, so := fieldN d 8 8, dst := fieldN d 16 8,
    ext := [fieldN d 24 2, fieldN d 26 2, fieldN d 28 2, fieldN d 30 2], rsv := fieldN d 4 4 }

def Entry.e (x : Entry) (j : Nat) : Nat := x.ext.getD j 1
def Entry.rows (x : Entry) : Nat := x.e 1 * x.e 2 * x.e 3

/-- The local indices that an offset splits into, dimensions 3 down to 1, and what is left (R361). -/
def splitOffset (r : Layout) : Nat → Nat → List Nat → List Nat × Nat
  | 0, o, ls => (ls, o)
  | j + 1, o, ls =>
    let st := if j + 1 < r.rank then r.stride.getD (j + 1) 0 else 0
    let l := if st = 0 then 0 else o / st
    splitOffset r j (o - l * st) (l :: ls)

/-- An entry's box maps back through a record held at mesh coordinate m (R361). -/
def mapsBack (r : Layout) (m : List Nat) (o : Nat) (x : Entry) : Bool :=
  let (ls, rest) := splitOffset r 3 o []
  rest % r.e == 0 && (List.range 4).all fun j =>
    let l := if j = 0 then rest / r.e else ls.getD (j - 1) 0
    match r.axis? j with
    | some a =>
      let b := r.blockOf j a
      decide ((l / b * r.extent a + m.getD a 0) * b + l % b + x.e j ≤ r.size j) && decide (l % b + x.e j ≤ b)
    | none => decide ((if j < r.rank then l else 0) + x.e j ≤ r.size j)

/-- The entry is well formed (R233). -/
def entryOk (dev : Nat) (src dst : Layout) (x : Entry) : Bool :=
  x.ext.all (· != 0) && x.rsv == 0 && decide (x.dev < 131072) && decide (x.rows ≤ 65535) &&
    match src.coordOf? x.dev, dst.coordOf? dev with
    | some a, some b => mapsBack src a x.so x && mapsBack dst b x.dst x
    | _, _ => false

/-- Address of row r of an entry through a record (R231). -/
def rowAt (r : Layout) (o : Nat) (x : Entry) (row : Nat) : Nat :=
  let x1 := row % x.e 1
  let x2 := row / x.e 1 % x.e 2
  let x3 := row / (x.e 1 * x.e 2)
  (r.base + o + x1 * r.stride.getD 1 0 + x2 * r.stride.getD 2 0 + x3 * r.stride.getD 3 0) % 2 ^ 64

def modRsh (team : Nat) (f : Rsh → Rsh) : M Unit := modTeam team fun T => { T with rsh := f T.rsh }

/-- The operation leaves its barrier (R232–R234). -/
def Team.rshLeave (T : Team) (state : Nat) : Team :=
  let T : Team := { T with rsh := { T.rsh with state := state, stopAsked := false, plan := none, flight := [], sleep := none } }
  match goBarrier T.rsh.go with
  | some k => T.engineDone k
  | none => T

/-- The row to pull next, with its plan entry when that has been read. -/
def Team.rshMove (T : Team) (entry row : Nat) (plan : Option (List Byte)) : Team :=
  { T with rsh := { T.rsh with nextEntry := BitVec.ofNat 16 entry, nextRow := BitVec.ofNat 16 row, plan := plan } }

/-- Every word of a pulled row has been performed. -/
def State.rowLanded (s : State) (team : Nat) (f : RowFlight) : Bool :=
  !s.stores.any fun w => w.team == team && f.seqs.contains w.tag.seq

/-- RSPROG of a running operation is the first row that has not landed, the rows before it having landed (R232). -/
def State.rshSettle (s : State) (team : Nat) : State :=
  match s.team? team with
  | some T =>
    if T.rshRunning then
      let rest := T.rsh.flight.dropWhile (s.rowLanded team)
      let at_ := match rest with
        | f :: _ => (f.entry, f.row)
        | [] => (T.rsh.nextEntry, T.rsh.nextRow)
      s.setTeam team { T with rsh := { T.rsh with entry := at_.1, row := at_.2, flight := rest } }
    else s
  | none => s

/-- The rows pulled and not yet passed by RSPROG are given up: what is still on its way of one is not written, so that it
may be left partly written, and it is pulled again whole, as is every row after it (R232, R359). What has landed of the
operation stands before anything that the team stores later (R259). -/
def Rsh.cut (r : Rsh) : Rsh :=
  { r with nextEntry := r.entry, nextRow := r.row, flight := [],
           plan := if r.entry = r.nextEntry then r.plan else none }

/-- A store belongs to a row that has been pulled and not yet passed by RSPROG. -/
def Rsh.owes (r : Rsh) (seq : Nat) : Bool := r.flight.any fun f => f.seqs.contains seq

/-- A running operation comes to a row boundary, RSPROG being the first row that has not landed (R232, R234). -/
def State.rshCut (s : State) (team : Nat) : State :=
  let s := s.rshSettle team
  match s.team? team with
  | some T =>
    if T.rshRunning then
      let s : State := { s with stores := s.stores.filter fun w => !(w.team == team && T.rsh.owes w.tag.seq) }
      (s.sealOrigin team T.rsh.origin).modTeam team fun T => { T with rsh := T.rsh.cut }
    else s
  | none => s

/-- A running operation stops at a row boundary; every access of it comes before those that see the stop (R234, R259). -/
def State.rshStop (s : State) (team : Nat) : State := (s.rshCut team).modTeam team (·.rshLeave 3)

/-- The bytes of a row: read here when this device is the source, else the answer that came (R327, R236). -/
def pullRow (team : Nat) (x : Entry) (va n : Nat) (answer : RemoteAnswer) (dva : Word64) : M (List Byte) := do
  let s ← get
  if x.dev = s.mgmt.devid.toNat then
    let T ← getTeam team
    let ps ← checkGlobal T.ctx va n ⟨true, false, false⟩ accEngine
    check (!ps.any Part.isRemote) Cause.remoteAccess dva
    checkWords (some team) ps
    readFirst team T.rsh.origin ps
    readParts team ps
  else
    match answer with
    | .performed bs => pure ((List.range n).map fun i => bs.getD i 0)
    | _ => trap Cause.remoteAccess dva

/-- A row goes to its destination, word by word: local memory; a destination page that is remote is refused (log entry
29). -/
def landRow (team : Nat) (o : Origin) (dva : Nat) (bs : List Byte) : M Unit := do
  let T ← getTeam team
  let ps ← checkGlobal T.ctx dva bs.length ⟨false, true, false⟩ accEngine
  check (!ps.any Part.isRemote) Cause.remoteAccess (BitVec.ofNat 64 dva)
  let _ ← engineStore 4 team o dva bs
  pure ()

/-- The next row of a running operation is pulled, or an entry that counts as done is passed (R232). The operation is done
when every row has landed. -/
def rshRow (team : Nat) (answer : RemoteAnswer) : M Unit := do
  let T ← getTeam team
  let r := T.rsh
  if fieldN r.go 4 2 ≤ r.nextEntry.toNat then
    if r.flight.isEmpty then do
      if ← joined team r.origin then modTeam team (·.rshLeave 2) else pure ()
    else pure ()
  else
    let at_ := fieldN r.go 0 4 + 32 * r.nextEntry.toNat
    let src := Layout.of r.src
    let dst := Layout.of r.dst
    let d ← match r.plan with
      | some d => pure d
      | none => readLocal ⟨team, at_, false⟩ at_ 32
    let x := Entry.of d
    check (r.plan.isSome || entryOk (← get).mgmt.devid.toNat src dst x) Cause.reshardPlan (BitVec.ofNat 64 at_)
    if x.rows ≤ r.nextRow.toNat then modTeam team fun T => T.rshMove (r.nextEntry.toNat + 1) 0 none
    else
      let dva := rowAt dst x.dst x r.nextRow.toNat
      let bs ← pullRow team x (rowAt src x.so x r.nextRow.toNat) (x.e 0 * src.e) answer (BitVec.ofNat 64 dva)
      let first := (← get).nextSeq
      landRow team r.origin dva bs
      let seqs := List.range' first ((← get).nextSeq - first)
      modTeam team fun T =>
        let T : Team := { T with rsh := { T.rsh with flight := T.rsh.flight ++ [⟨r.nextEntry, r.nextRow, seqs⟩] } }
        if x.rows ≤ r.nextRow.toNat + 1 then T.rshMove (r.nextEntry.toNat + 1) 0 none
        else T.rshMove r.nextEntry.toNat (r.nextRow.toNat + 1) (some d)
    modify fun s => s.rshSettle team

/-- The destination address of the row under way, for an abandon record (R233). -/
def Rsh.rowAddr (r : Rsh) (s : State) (team : Nat) : Word64 :=
  let at_ := fieldN r.go 0 4 + 32 * r.nextEntry.toNat
  let d := r.plan.getD (match readLocal ⟨team, at_, false⟩ at_ 32 s with
    | .ok (d, _) => d
    | .error _ => [])
  let x := Entry.of d
  BitVec.ofNat 64 (rowAt (Layout.of r.dst) x.dst x r.nextRow.toNat)

/-- A running operation is abandoned (R233): the address is the row's destination, or that of a malformed entry. The fault
of one that names no barrier is recorded (R301, log entry 63). DESIGN CHOICE (log entry 82): TINST and PC are 0 in the
record of a consumption, as in State.mxAbandon. -/
def State.rshAbandon (s : State) (team : Nat) (cause : BitVec 8) (addr : Word64) (place : Option Local := none) : State :=
  match s.team? team with
  | some T =>
    let r := T.rsh
    let a := if cause = Cause.reshardPlan ∨ place.isSome then addr else r.rowAddr s team
    let s := (s.rshCut team).modTeam team fun T =>
      { T with rsh := { T.rsh with state := 4, stopAsked := false, plan := none, flight := [], sleep := none,
                                   abandon := some (cause, a) } }
    let s := match goBarrier r.go with
      | some k => s.modTeam team (·.abandonOn k none)
      | none => s.report4 T r.origin 4 cause a
    if cause = Cause.uncorrectable ∨ place.isSome then s.consume team r.origin.who cause 0 0 addr place else s
  | none => s

/-- A running operation may take a step: its team is on its core and is not to leave it, and no stop is asked for. -/
def Team.rshReady (T : Team) : Bool := T.status == .resident && T.rshRunning && !T.rsh.stopAsked && T.rsh.sleep.isNone

/-- One row is pulled and landed (R232, R233); `answer` is what the source device answers, when that is another one. -/
def execRshRowPull (team : Nat) (answer : RemoteAnswer) (s_ : State) : Result :=
  .next <|
    match s_.team? team with
    | none => s_
    | some T =>
      if !T.rshReady then s_
      else
        engineStep s_ team T.rsh.origin (rshRow team answer)
          (fun a s =>
            let r := s.enginePage T.ctx a
            match r.2 with
            | .on _ => r.1.rshStop team
            | .free _ => r.1.modTeam team fun T => { T with rsh := { T.rsh with sleep := some r.2 } })
          (fun cause a at_ s => s.rshAbandon team cause a at_)

/-- A running operation that is asked to stop does so at a row boundary (R234). -/
def execRshStopAtBoundary (team : Nat) (s_ : State) : Result :=
  .next <|
    match s_.team? team with
    | some T => if s_.enginesRun team && T.rshRunning && T.rsh.stopAsked then s_.rshStop team else s_
    | none => s_

end Sys2Proof.Machine
end

