-- ==== Sys2Proof/Machine/Placement.lean ====
section
/-!
DEFINITION. The dispatcher's placement of teams and gangs (R16, R281–R284), job records (R280), pre-emption and the saving
of a context (R288–R290).
-/

namespace Sys2Proof.Machine

/-! ### Room on a core (R15) -/

def State.roomOf (s : State) (T : Team) : Need15 :=
  match SMap.find? T.launch s.launches with
  | some L => L.record.room
  | none => ⟨0, 0, 0, 0⟩

/-- Physical bases are multiples of 16, or of 128 for a size that is one (R262). -/
def baseAlign (size : Nat) : Nat := if size % 128 = 0 then 128 else 16

def roundUp (n a : Nat) : Nat := (n + a - 1) / a * a

/-- The lowest base at which `size` bytes lie clear of the regions given (base, size). -/
def lowestBase (size : Nat) (rs : List (Nat × Nat)) : Option Nat :=
  let starts := sortBy (fun a b => decide (a ≤ b)) (0 :: rs.map fun r => roundUp (r.1 + r.2) (baseAlign size))
  starts.find? fun b => decide (b + size ≤ 262144) &&
    rs.all fun r => decide (b + size ≤ r.1) || decide (r.1 + r.2 ≤ b) || decide (r.2 = 0) || decide (size = 0)

/-- Where a team that needs `n` fits on a core, the teams `gone` being away: its scratchpad base (R15, R262, R304). -/
def State.fitsAt (s : State) (core : Nat) (gone : List Nat) (n : Need15) : Option Nat :=
  if s.coreFenced core || s.fencedClusters.contains (core / 16) then none
  else
    let ts := (s.residents core).filter fun (e : Nat × Team) => !gone.contains e.1
    let rooms := ts.map fun (e : Nat × Team) => s.roomOf e.2
    let sum (f : Need15 → Nat) : Nat := (rooms.map f).foldl (· + ·) (f n)
    if ts.length < 16 ∧ sum (·.threads) ≤ 2048 ∧ sum (·.words) ≤ 131072 ∧ sum (·.scratch) ≤ 262144 ∧ sum (·.claims) ≤ 2
    then lowestBase n.scratch (ts.map fun (e : Nat × Team) => (e.2.base, e.2.size))
    else none

/-! ### Porch slots (R239) -/

/-- The porch slots of a vault that no team holds. -/
def State.freeSlots (s : State) (vault : Nat) : List Nat :=
  ((List.range (32 * s.porchMiB)).map (256 * vault + ·)).filter fun k =>
    !s.teams.any fun (e : Nat × Team) => e.2.porchSlot == some k

/-- The team needs a new slot in a vault: one that has not committed, unless it holds one there. -/
def State.wantsSlot (s : State) (T : Team) (vault : Nat) : Bool :=
  if T.started then T.revocable && T.porchSlot.map (· / 256) != some vault else decide (0 < s.porchMiB)

/-! ### Units: what is placed and pre-empted whole (R16) -/

/-- The teams placed together with a team: its gang, or a relaunched team alone (R303). -/
def State.unitOf (s : State) (e : Nat × Team) : List (Nat × Team) :=
  if 0 < e.2.relaunches then [e]
  else s.teams.filter fun (x : Nat × Team) =>
    x.2.launch == e.2.launch && x.2.gang == e.2.gang && x.2.relaunches == 0 && x.2.status != .ended

def Team.isWaiting (T : Team) : Bool := (T.status == .waiting || T.status == .saved) && !T.dying

/-- Higher priority first, then the earlier admission (R281). -/
def before (a b : Nat × Team) : Bool :=
  decide (b.2.priority < a.2.priority) ||
    (a.2.priority == b.2.priority &&
      (decide (a.2.launch < b.2.launch) || (a.2.launch == b.2.launch && decide (a.2.ix ≤ b.2.ix))))

/-- The first start of a gang of a launch is not yet due (R283). -/
def State.staggered (s : State) (L : Launch) : Bool :=
  match L.t0 with
  | some t => decide (0 < L.gangsStarted) &&
      decide (s.clock < t + L.gangsStarted * max L.record.stagger.toNat s.mgmt.smin.toNat)
  | none => false

/-- The unit waits whole: every member waits, and a first start is due. -/
def State.unitDue (s : State) (u : List (Nat × Team)) : Bool :=
  u.all (fun (e : Nat × Team) => e.2.isWaiting) &&
    u.all fun (e : Nat × Team) => e.2.started || decide (0 < e.2.relaunches) ||
      match SMap.find? e.2.launch s.launches with
      | some L => !s.staggered L
      | none => false

/-- The units that wait, in the order in which the dispatcher serves them, each once. -/
def State.waitingUnits (s : State) : List (List (Nat × Team)) :=
  ((sortBy before (s.teams.filter fun (e : Nat × Team) => e.2.isWaiting)).map s.unitOf).eraseDups.filter s.unitDue

/-! ### Finding a place -/

/-- Distinct cores of a cluster for the members in turn, each the lowest on which it fits. -/
def State.assign (s : State) (gone : List Nat) (cluster : Nat) : List (Nat × Team) → List Nat → Option (List (Nat × Nat))
  | [], _ => some []
  | e :: es, used =>
    ((List.range 16).findSome? fun j =>
      let c := 16 * cluster + j
      if used.contains c then none else (s.fitsAt c gone (s.roomOf e.2)).map fun b => (c, b)).bind fun cb =>
        (s.assign gone cluster es (cb.1 :: used)).map (cb :: ·)

/-- A cluster takes a unit, the cores `keep` left alone: no member is to avoid it, the vault has the slots, and each member
has a core. -/
def State.placeIn (s : State) (gone keep : List Nat) (u : List (Nat × Team)) (cluster : Nat) : Option (List (Nat × Nat)) :=
  if u.any (fun (e : Nat × Team) => e.2.avoidCluster == some cluster) ||
      decide ((s.freeSlots cluster).length < (u.filter fun (e : Nat × Team) => s.wantsSlot e.2 cluster).length) then none
  else s.assign gone cluster u keep

/-- The lowest cluster that takes a unit: core and base of each member. -/
def State.placeOf (s : State) (gone : List Nat) (u : List (Nat × Team)) : Option (List (Nat × Nat)) :=
  (List.range 48).findSome? (s.placeIn gone [] u)

/-! ### Placing -/

/-- A team goes on a core: a first start is a creation, a resumption unparks its threads (R19, R281, R289, R302). -/
def State.placeTeam (s : State) (t : Nat) (core base : Nat) : State :=
  match s.team? t with
  | none => s
  | some T =>
    let slot := if s.wantsSlot T (core / 16) then (s.freeSlots (core / 16)).head? else T.porchSlot
    let revocable := if T.started then T.revocable else decide (0 < s.porchMiB)
    let go (h : Thread) : Thread := { h with parked := false }
    let threads := T.threads.map fun (e : Nat × Thread) => (e.1, go e.2)
    let front := T.front.map fun f => { f with parked := false }
    let T : Team := { T with status := .resident, core := core, base := base, avoidCluster := none, porchSlot := slot,
                             revocable := revocable }
    let T : Team := { T with started := true, threads := threads, front := front }
    (s.setTeam t T).setCore core ((s.core core).fill base T.size T.sp)

/-- A launch's gang has started: T₀ is the clock of gang 0 (R283). -/
def State.gangStarted (s : State) (id : Nat) : State :=
  let go (L : Launch) : Launch := { L with t0 := some (L.t0.getD s.clock), gangsStarted := L.gangsStarted + 1 }
  { s with launches := SMap.modify id go s.launches }

/-- Place a unit. -/
def State.placeUnit (s : State) (u : List (Nat × Team)) (at_ : List (Nat × Nat)) : State :=
  let first := u.any fun (e : Nat × Team) => !e.2.started && e.2.relaunches == 0
  let s := match first, u with
    | true, e :: _ => s.gangStarted e.2.launch
    | _, _ => s
  (u.zip at_).foldl (fun (s : State) (x : (Nat × Team) × (Nat × Nat)) => s.placeTeam x.1.1 x.2.1 x.2.2) s

/-- A job that a core may still create teams of: it has unstarted records, and the next start is due. -/
def State.jobDue (s : State) (L : Launch) : Option Job :=
  if L.pending || L.complete || !(s.ctx L.ctx).live || s.staggered L then none
  else L.job.filter fun j => decide (j.dealt < j.count) || j.runs.any fun (e : Nat × Nat × Nat) => decide (0 < e.2.2)

/-- A core whose unstarted records cannot be run any more, because it is fenced (log entry 41). -/
def Job.stranded (s : State) (j : Job) : Option (Nat × Nat × Nat) :=
  List.find? (fun (e : Nat × Nat × Nat) =>
    decide (0 < e.2.2) && (s.coreFenced e.1 || s.fencedClusters.contains (e.1 / 16))) j.runs

/-- The core may create the next team of a job, the teams `gone` being away: it holds a record or can take one, and it has
room and a porch slot. -/
def State.jobFitsAt (s : State) (gone : List Nat) (L : Launch) (j : Job) (core : Nat) : Bool :=
  (decide (0 < (SMap.getD j.runs core (0, 0)).2) || decide (j.dealt < j.count) || (j.stranded s).isSome) &&
    (s.porchMiB == 0 || !(s.freeSlots (core / 16)).isEmpty) && (s.fitsAt core gone L.record.room).isSome

/-- Some core may create the next team of a job. -/
def State.jobFits (s : State) (gone : List Nat) (L : Launch) (j : Job) : Bool :=
  (List.range 768).any (s.jobFitsAt gone L j)

/-- Launch `a`, of a priority, is placed before launch `b` (R281). -/
def Launch.before (a : Nat × Launch) (prio launch : Nat) : Bool :=
  decide (prio < a.2.priority) || (a.2.priority == prio && decide (a.1 < launch))

/-- Teams that are already on their way out. -/
def State.resting (s : State) : List Nat :=
  (s.teams.filter fun (e : Nat × Team) => e.2.status == .resting || e.2.dying).map fun (e : Nat × Team) => e.1

/-- Placing something, which leads to `s'`, keeps the room that is being made: each of the units `us`, and the next team of
each job that comes before, that fits once the teams at rest or dying are away still does so. DESIGN CHOICE (log entry
83): R281 lets a team pass one that fits nowhere, and R284 has the one that victims make room for placed within bounded
time; so nothing that comes later takes that room. -/
def State.keepsRoom (s s' : State) (us : List (List (Nat × Team))) (prio launch : Nat) : Bool :=
  us.all (fun u => (s.placeOf s.resting u).isNone || (s'.placeOf s'.resting u).isSome) &&
    s.launches.all fun e => !Launch.before e prio launch ||
      (s.jobDue e.2).all fun j => !s.jobFits s.resting e.2 j || s'.jobFits s'.resting e.2 j

/-- Placing a waiting unit keeps the room for what comes before it. -/
def State.unitKeepsRoom (s : State) (u : List (Nat × Team)) (at_ : List (Nat × Nat)) : Bool :=
  match u with
  | [] => true
  | e :: _ => s.keepsRoom (s.placeUnit u at_) (s.waitingUnits.takeWhile (· != u)) e.2.priority e.2.launch

/-- The cores on which what comes before a unit will fit once the teams at rest or dying are away. -/
def State.keptCores (s : State) (u : List (Nat × Team)) : List Nat :=
  match u with
  | [] => []
  | e :: _ =>
    (((s.waitingUnits.takeWhile (· != u)).flatMap fun v => ((s.placeOf s.resting v).getD []).map (·.1)) ++
      ((s.launches.filter fun x => Launch.before x e.2.priority e.2.launch).filterMap fun (x : Nat × Launch) =>
        (s.jobDue x.2).bind fun j => (List.range 768).find? (s.jobFitsAt s.resting x.2 j))).eraseDups

/-- The first answer over the choices of some of the cores `cs` to leave alone, none of them first. -/
def leaving {α : Type} (f : List Nat → Option α) : List Nat → List Nat → Option α
  | keep, [] => f keep
  | keep, c :: cs => (leaving f keep cs).or (leaving f (c :: keep) cs)

/-- Another place than its lowest for a unit: one that leaves alone some of the cores kept for what comes before it, and
with them the room that is being made. -/
def State.elsewhere (s : State) (u : List (Nat × Team)) : Option (List (Nat × Nat)) :=
  let kept := s.keptCores u
  (List.range 48).findSome? fun cl =>
    leaving (fun keep => (s.placeIn [] keep u cl).filter (s.unitKeepsRoom u)) [] (kept.filter fun c => c / 16 == cl)

/-- The place that a waiting unit takes: its lowest, or, where that is room being made for what comes before it, another
(R281, R284). -/
def State.unitPlace (s : State) (u : List (Nat × Team)) : Option (List (Nat × Nat)) :=
  (s.placeOf [] u).bind fun p => if s.unitKeepsRoom u p then some p else s.elsewhere u

/-- The first waiting unit that has a place, with that place; one that fits nowhere does not block those behind it
(R281), which leave it the room that is being made for it (R284). -/
def State.nextUnit (s : State) : Option (List (Nat × Team) × List (Nat × Nat)) :=
  s.waitingUnits.findSome? fun u => (s.unitPlace u).map fun p => (u, p)

/-- The team of record k of a job: its index is k, its arguments are the record (R279). -/
def State.jobTeam (s : State) (id : Nat) (L : Launch) (j : Job) (k : Nat) (rec_ : List Byte) : Team :=
  let entry := match L.xlat.bind (fun x => SMap.find? x s.xlats) with
    | some x => x.addr j.entry.toNat
    | none => L.body + j.entry.setWidth 64
  let addr := j.array + BitVec.ofNat 64 (j.rsize * k)
  Team.create id L (entry, (s.entryOf L).2) k (BitVec.ofNat 16 k) (BitVec.ofNat 16 (k / 65536)) 0
    ((words32 rec_).take 60) addr (BitVec.ofNat 32 j.rsize)

/-- The waiting units that come before a launch (R281). -/
def State.unitsBefore (s : State) (e : Nat × Launch) : List (List (Nat × Team)) :=
  s.waitingUnits.filter fun u => u.any fun x => !Launch.before e x.2.priority x.2.launch

/-- The core may create the next team of a job now, and that keeps the room for what comes before (R281, R284). -/
def State.jobCan (s : State) (id : Nat) (L : Launch) (j : Job) (core : Nat) : Bool :=
  s.jobFitsAt [] L j core && (s.fitsAt core [] L.record.room).any fun base =>
    s.keepsRoom (((s.addTeam (s.jobTeam id L j 0 [])).gangStarted id).placeTeam s.nextTeam core base)
      (s.unitsBefore (id, L)) L.priority id

/-- The next team of some job that comes before a priority and a launch can be created (R281). -/
def State.jobAhead (s : State) (prio launch : Nat) : Bool :=
  s.launches.any fun (e : Nat × Launch) => Launch.before e prio launch &&
    (s.jobDue e.2).any fun j => (List.range 768).any (s.jobCan e.1 e.2 j)

/-- Place it, unless the next team of a job comes first. -/
def State.placeNext (s : State) : State :=
  match s.nextUnit with
  | some (e :: u, p) => if s.jobAhead e.2.priority e.2.launch then s else s.placeUnit (e :: u) p
  | _ => s

/-- The dispatcher places a waiting team or gang (R281). -/
def execTeamPlacement (s_ : State) : Result := .next s_.placeNext

/-- The delay before the next gang of a launch is over: the dispatcher may place it (R283). -/
def execGangStaggerExpiry (launch : Nat) (s_ : State) : Result :=
  .next <|
    match SMap.find? launch s_.launches with
    | some L => if s_.staggered L then s_ else s_.placeNext
    | none => s_

/-! ### Job records (R280) -/

def modJob (s : State) (id : Nat) (f : Job → Job) : State :=
  { s with launches := SMap.modify id (fun L => { L with job := L.job.map f }) s.launches }

/-- Cores that hold a team of the launch, with the one that asks. -/
def State.jobCores (s : State) (id core : Nat) : Nat :=
  ((core :: (s.teams.filter fun (e : Nat × Team) =>
    e.2.launch == id && (e.2.status == .resident || e.2.status == .resting)).map fun (e : Nat × Team) => e.2.core)
    ).eraseDups.length

/-- Records of the next chunk. -/
def chunkSize (remaining cores : Nat) : Nat := max 1 ((remaining + 2 * cores - 1) / (2 * cores))

/-- A core that holds no unstarted record takes the next chunk of consecutive records. -/
def execJobChunkTake (launch : Nat) (core : Nat) (s_ : State) : Result :=
  .next <|
    match SMap.find? launch s_.launches with
    | some L =>
      match L.job with
      | some j =>
        if L.pending || L.complete || !(s_.ctx L.ctx).live || 0 < (SMap.getD j.runs core (0, 0)).2 ||
            s_.coreFenced core || s_.fencedClusters.contains (core / 16) || 768 ≤ core then s_
        else
          match j.stranded s_ with
          | some (c, run) => modJob s_ launch fun j => { j with runs := SMap.insert core run (SMap.erase c j.runs) }
          | none =>
            if j.dealt < j.count then
              let n := chunkSize (j.count - j.dealt) (s_.jobCores launch core)
              modJob s_ launch fun j => { j with dealt := j.dealt + n, runs := SMap.insert core (j.dealt, n) j.runs }
            else s_
      | none => s_
    | none => s_

/-- A waiting unit that can be placed comes before a launch, or the next team of another job does (R281). -/
def State.workAhead (s : State) (e : Nat × Launch) : Bool :=
  (match s.nextUnit with
    | some (x :: _, _) => !Launch.before e x.2.priority x.2.launch
    | _ => false) || s.jobAhead e.2.priority e.1

/-- A core creates the team for its next record when it has room and a porch slot, its start is due, and nothing comes
before it or needs that room (R280, R281, R283, R284). A record that cannot be read marks the launch as one that had a fault (log entry 42). -/
def execJobTeamCreate (launch : Nat) (core : Nat) (s_ : State) : Result :=
  .next <|
    match SMap.find? launch s_.launches with
    | some L =>
      match L.job, (s_.ctx L.ctx).live with
      | some j, true =>
        let run := SMap.getD j.runs core (0, 0)
        if run.2 = 0 || L.complete || s_.staggered L || (0 < s_.porchMiB && (s_.freeSlots (core / 16)).isEmpty) ||
            s_.workAhead (launch, L) then s_
        else
          match s_.fitsAt core [] L.record.room with
          | none => s_
          | some base =>
            let s := modJob s_ launch fun j => { j with runs := SMap.insert core (run.1 + 1, run.2 - 1) j.runs }
            match runM (sysRead L.ctx (j.array + BitVec.ofNat 64 (j.rsize * run.1)) j.rsize) s with
            | .ok (d, s) =>
              let s' := ((s.addTeam (s.jobTeam launch L j run.1 d)).gangStarted launch).placeTeam s.nextTeam core base
              if s_.keepsRoom s' (s_.unitsBefore (launch, L)) L.priority launch then s' else s_
            | .error _ => { s with launches := SMap.modify launch (fun L => { L with faulted := true }) s.launches }
      | _, _ => s_
    | none => s_

/-! ### Pre-emption (R288) -/

/-- Resident units of lower priority, lowest priority first and latest admission first. -/
def State.victimUnits (s : State) (prio : Nat) : List (List Nat) :=
  let ts := sortBy (fun a b => before b a) (s.teams.filter fun (e : Nat × Team) =>
    e.2.status == .resident && !e.2.dying && decide (e.2.priority < prio))
  (ts.map fun e => (s.unitOf e).map fun (x : Nat × Team) => x.1).eraseDups

/-- The first choice of units with `n` teams in all whose removal makes room. -/
def choose (ok : List Nat → Bool) : List (List Nat) → Nat → List Nat → Option (List Nat)
  | _, 0, got => if ok got then some got else none
  | [], _ + 1, _ => none
  | u :: us, n + 1, got =>
    (if u.length ≤ n + 1 then choose ok us (n + 1 - u.length) (got ++ u) else none).or (choose ok us (n + 1) got)

/-- The victims for waiting work of a priority, where `fits` says that it fits with teams away: the fewest teams of lower
priority, none while it fits with the teams already at rest or dying away. -/
def State.victimsFor (s : State) (prio : Nat) (fits : List Nat → Bool) : Option (List Nat) :=
  let gone := s.resting
  if fits gone then none
  else
    let us := s.victimUnits prio
    (List.range ((us.map List.length).foldl (· + ·) 0 + 1)).findSome? fun n =>
      if n = 0 then none else choose (fun got => fits (gone ++ got)) us n []

/-- The victims for the first waiting unit, or else for the next record of a job, that fits nowhere (R284, R288). -/
def State.victims (s : State) : Option (List Nat) :=
  (s.waitingUnits.findSome? fun u =>
    match u with
    | [] => none
    | e :: _ => s.victimsFor e.2.priority fun gone => (s.placeOf gone u).isSome).or
  (s.launches.findSome? fun (e : Nat × Launch) =>
    (s.jobDue e.2).bind fun j => s.victimsFor e.2.priority fun gone => s.jobFits gone e.2 j)

/-- A team begins to be brought to rest: its front thread, which is at an instruction boundary or in a wait, parks (R214,
R288). -/
def Team.rest (T : Team) : Team :=
  { T with status := .resting, front := T.front.map fun f => { f with parked := true } }

/-- Victims are chosen and begin to be brought to rest (R288). -/
def execPreemption (s_ : State) : Result :=
  .next <|
    match s_.victims with
    | some ts => ts.foldl (fun s t => s.modTeam t Team.rest) s_
    | none => s_

/-! ### Saving a context (R288, R289) -/

/-- A thread is at rest: ended, parked after a YLD, or in a wait. -/
def Thread.atRest (h : Thread) : Bool := h.ended || h.parked || h.wait.isSome || h.trap.isSome

def Pending.isRemote (p : Pending) : Bool :=
  match p.value with
  | .remote _ => true
  | .ready _ => false

/-- Every thread is at rest, every engine has come to rest, and nothing the team issued is outstanding. A running re-shard
operation stops at a row boundary as the context is saved (R234). -/
def State.canSave (s : State) (t : Nat) (T : Team) : Bool :=
  T.status == .resting && !T.dying && T.threads.all (fun (e : Nat × Thread) => e.2.atRest) && T.copies.isEmpty &&
    T.mx.queue.isEmpty && !s.stores.any (fun w => w.team == t && !(T.rshRunning && T.rsh.owes w.tag.seq)) && !s.remotes.any (fun (e : Nat × Remote) => e.2.team == t && decide (e.2.agent < 5)) &&
    !T.threads.any (fun (e : Nat × Thread) => e.2.pend.any Pending.isRemote) &&
    !T.front.any (fun f => f.pend.any Pending.isRemote)

/-- The context of a victim at rest is saved, and the team waits again at its admission position (R282, R289); a running
re-shard operation is cut at a row boundary, rows past RSPROG standing as far as they have landed (R234, R359). DESIGN
CHOICE (log entry 91): R272's table and R263 do not name the save among the readers of a scratchpad word; one that cannot
be read is consumed as R303 says, in the name of thread 0, with no word and PC 0. -/
def execContextSave (team : Nat) (s_ : State) : Result :=
  .next <|
    match s_.team? team with
    | none => s_
    | some T =>
      if !s_.canSave team T || (T.size != 0 && s_.localHeld ⟨team, 0, false⟩ T.size) then s_
      else
        match (if T.size = 0 then none else s_.unreadable? ⟨team, 0, false⟩ T.size) with
        | some w =>
          s_.consume team (.thread 0) Cause.reconstruction 0 0 (BitVec.ofNat 64 (4 * w - T.base))
            (some ⟨team, 4 * w - T.base, false⟩)
        | none => ((s_.rshCut team).serveLocal ⟨team, 0, false⟩ T.size).modTeam team fun T =>
            { T with status := .saved }

end Sys2Proof.Machine
end

