-- ==== Sys2Proof/Machine/Real.lean ====
section
/-!
DEFINITION. Correctly rounded real functions (R99, R142): exact arithmetic where the result is rational, and otherwise
fixed-point series whose error is far below the slack given, repeated at a higher precision until both ends of the
interval round alike (log entry 11).
-/

namespace Sys2Proof.Machine

/-- ⌊√n⌋ by binary search on the bits below `2^k`. -/
def isqrtGo (n : Nat) : Nat → Nat → Nat
  | 0, r => r
  | k + 1, r => if (r + 2 ^ k) * (r + 2 ^ k) ≤ n then isqrtGo n k (r + 2 ^ k) else isqrtGo n k r

def isqrt (n : Nat) : Nat := isqrtGo n (Nat.log2 n / 2 + 1) 0

/-- Σ y^j / j! for j ≥ k, from the term before, in units of 2^-p. -/
def expGo (p y : Nat) : Nat → Nat → Nat → Nat → Nat
  | 0, _, _, acc => acc
  | fuel + 1, k, term, acc =>
    let t := term * y / 2 ^ p / k
    expGo p y fuel (k + 1) t (acc + t)

/-- e^(y / 2^p) in units of 2^-p, for y / 2^p below 16. -/
def expFix (p y : Nat) : Nat := expGo p y (p / 2 + 64) 1 (2 ^ p) (2 ^ p)

/-- Σ z^(2j+1) / (2j+1). -/
def atanhGo (p z2 : Nat) : Nat → Nat → Nat → Nat → Nat
  | 0, _, _, acc => acc
  | fuel + 1, k, term, acc => atanhGo p z2 fuel (k + 2) (term * z2 / 2 ^ p) (acc + term / k)

/-- atanh (n / d) in units of 2^-p, for n / d at most 1/3. -/
def atanhFix (p n d : Nat) : Nat :=
  let z := n * 2 ^ p / d
  atanhGo p (z * z / 2 ^ p) (p / 3 + 8) 1 z 0

def ln2Fix (p : Nat) : Nat := 2 * atanhFix p 1 3

/-- arctan (1 / n) in units of 2^-p. -/
def atanGo (n2 : Nat) : Nat → Nat → Bool → Nat → Int → Int
  | 0, _, _, _, acc => acc
  | fuel + 1, k, minus, term, acc =>
    atanGo n2 fuel (k + 2) (!minus) (term / n2) (if minus then acc - (term / k : Nat) else acc + (term / k : Nat))

/-- π in units of 2^-p (Machin). -/
def piFix (p : Nat) : Nat :=
  let q := p + 16
  let a := atanGo 25 (q / 4 + 4) 1 false (2 ^ q / 5) 0
  let b := atanGo (239 * 239) (q / 15 + 4) 1 false (2 ^ q / 239) 0
  ((16 * a - 4 * b) / 2 ^ 16).toNat

/-- Alternating series Σ ± r^(k+2j) / (k+2j)!, from its first term. -/
def trigGo (p r2 : Nat) : Nat → Nat → Bool → Nat → Int → Int
  | 0, _, _, _, acc => acc
  | fuel + 1, k, minus, term, acc =>
    trigGo p r2 fuel (k + 2) (!minus) (term * r2 / 2 ^ p / ((k + 1) * (k + 2)))
      (if minus then acc - (term : Int) else acc + (term : Int))

def sinFix (p r : Nat) : Int := trigGo p (r * r / 2 ^ p) (p / 4 + 16) 1 false r 0
def cosFix (p r : Nat) : Int := trigGo p (r * r / 2 ^ p) (p / 4 + 16) 0 false (2 ^ p) 0

/-- An approximation in units of 2^-p, with an absolute error below `err` units. -/
structure Approx where
  v : Int
  p : Nat
  err : Nat
  deriving DecidableEq, Repr

/-- The rounding of an approximation to binary32, when both ends of its interval round to one pattern. -/
def Approx.settled (a : Approx) : Option Nat :=
  let f (v : Int) : Nat :=
    if v = 0 then 0 else fp32.round .rne (v < 0) v.natAbs (2 ^ a.p)
  let lo := f (a.v - a.err)
  let hi := f (a.v + a.err)
  if lo = hi then some lo else none

/-- The first precision at which an approximation settles. -/
def settle (f : Nat → Approx) : Nat → Nat → Nat
  | 0, p => let a := f p; if a.v = 0 then 0 else fp32.round .rne (a.v < 0) a.v.natAbs (2 ^ a.p)
  | fuel + 1, p =>
    match (f p).settled with
    | some b => b
    | none => settle f fuel (2 * p)

/-- 2^x for x = ± m · 2^e, |x| ≤ 256. -/
def exp2Approx (neg : Bool) (m : Nat) (e : Int) (p : Nat) : Approx :=
  let (n, d) := ratOf m e
  let x : Int := (if neg then -((n * 2 ^ p : Nat) : Int) else (n * 2 ^ p : Nat)) / d
  let k := x / 2 ^ p
  let f := (x % 2 ^ p).toNat
  let y := expFix p (f * ln2Fix p / 2 ^ p)
  match k with
  | .ofNat j => { v := (y * 2 ^ j : Nat), p := p, err := 2 ^ (j + 12) }
  | .negSucc j => { v := y, p := p + j + 1, err := 2 ^ 12 }

/-- log₂ of a positive m · 2^e. -/
def log2Approx (m : Nat) (e : Int) (p : Nat) : Approx :=
  let l := Nat.log2 m
  -- m / 2^l lies in [1, 2); above 3/2 it is halved, so that a value near 1 keeps its precision
  let big := decide (3 * 2 ^ l < 2 * m)
  let q : Int := e + l + (if big then 1 else 0)
  let den := 2 ^ l * (if big then 2 else 1)
  let lnm : Int := if den ≤ m then 2 * (atanhFix p (m - den) (m + den) : Int)
                   else - (2 * (atanhFix p (den - m) (m + den) : Int))
  { v := q * 2 ^ p + lnm * 2 ^ p / (ln2Fix p), p := p, err := 2 ^ 12 }

/-- sin (`cosine = false`) or cos of ± m · 2^e, reduced exactly enough for every finite binary32 argument. -/
def trigApprox (cosine : Bool) (neg : Bool) (m : Nat) (e : Int) (p : Nat) : Approx :=
  let P := p + e.toNat + 40
  let (n, d) := ratOf m e
  let x := n * 2 ^ P / d
  let half := piFix P / 2
  let k := x / half
  let r := x % half / 2 ^ (P - p)
  let quad := (k + if cosine then 1 else 0) % 4
  let v := if quad % 2 = 0 then sinFix p r else cosFix p r
  let v := if quad ≥ 2 then -v else v
  { v := if neg && !cosine then -v else v, p := p, err := 2 ^ 12 }

/-- tanh of ± m · 2^e, |x| below 16. -/
def tanhApprox (neg : Bool) (m : Nat) (e : Int) (p : Nat) : Approx :=
  let (n, d) := ratOf m e
  let E := expFix p (n * 2 ^ p / d)
  let E2 := E * E / 2 ^ p
  -- (e^2x − 1) / (e^2x + 1)
  let v : Int := ((E2 - 2 ^ p) * 2 ^ p / (E2 + 2 ^ p) : Nat)
  { v := if neg then -v else v, p := p, err := 2 ^ 40 }

/-- Precision the series start at, and how often it may double. -/
def startPrec : Nat := 96
def doublings : Nat := 4

/-- The code of 1 / (1 + e^(−z)) for z = ± n / d ≠ 0 (R142), at the first precision where it is settled. -/
def logisticGo (neg : Bool) (n d : Nat) : Nat → Nat → Nat
  | 0, _ => 0x4000
  | fuel + 1, p =>
    let y := n * 2 ^ p / d
    let E := expFix p y
    let f (E : Nat) : Nat :=
      let num := if neg then 2 ^ p else E
      (num * 65536 + (E + 2 ^ p)) / (2 * (E + 2 ^ p))
    let lo := f (E - 2 ^ 40)
    let hi := f (E + 2 ^ 40)
    if lo = hi then lo else logisticGo neg n d fuel (2 * p)

def logistic (neg : Bool) (n d : Nat) : Nat :=
  if 12 * d < n then (if neg then 0 else 0x8000) else logisticGo neg n d (doublings + 1) startPrec

/-! ### The FUN group (R99, R100) -/

inductive FunOp where
  | abs | neg | rcp | rsq | sqrt | exp2 | log2 | sin | cos | tanh | floor | ceil | trunc | rint | cls | sat
  deriving DecidableEq, Repr

/-- The class bit of a stored operand (R100). -/
def fclass (b : Nat) : Nat :=
  let n := fp32.neg b
  let m := fp32.mag b
  if fp32.infCode < m then (if m / 2 ^ 22 % 2 = 1 then 2 ^ 9 else 2 ^ 8)
  else if m = fp32.infCode then (if n then 2 ^ 0 else 2 ^ 7)
  else if m = 0 then (if n then 2 ^ 3 else 2 ^ 4)
  else if m < 2 ^ 23 then (if n then 2 ^ 2 else 2 ^ 5)
  else (if n then 2 ^ 1 else 2 ^ 6)

/-- The square root of m · 2^e as a fraction that rounds as the root does: one odd bit beyond the bits kept. -/
def sqrtRat (m : Nat) (e : Int) : Nat × Nat :=
  let (m, e) := if e % 2 = 0 then (m, e) else (2 * m, e - 1)
  let r := isqrt (m * 2 ^ 192)
  let odd := 2 * r + (if r * r = m * 2 ^ 192 then 0 else 1)
  let (a, b) := ratOf 1 (e / 2 - 97)
  (odd * a, b)

/-- An integer rounding of a finite value, its zero keeping the operand's sign. -/
def roundIntegral (rnd : Rnd) (neg : Bool) (m : Nat) (e : Int) : Nat :=
  let (n, d) := ratOf m e
  let v := (roundInt rnd neg n d).natAbs
  if v = 0 then fp32.signed neg 0 else fp32.round .rne neg v 1

/-- FUN of a finite non-zero operand. -/
def funFin (op : FunOp) (b : Nat) (neg : Bool) (m : Nat) (e : Int) : Nat :=
  match op with
  | .abs => fp32.mag b
  | .neg => fp32.signed (!neg) (fp32.mag b)
  | .rcp => let (n, d) := ratOf m e; fp32.round .rne neg d n
  | .rsq => if neg then fp32.nanBits else let (n, d) := sqrtRat m e; fp32.round .rne false d n
  | .sqrt => if neg then fp32.nanBits else let (n, d) := sqrtRat m e; fp32.round .rne false n d
  | .exp2 =>
    let (n, d) := ratOf m e
    if !neg && 128 * d ≤ n then fp32.infCode
    else if neg && 160 * d ≤ n then 0
    else settle (exp2Approx neg m e) doublings startPrec
  | .log2 => if neg then fp32.nanBits else settle (log2Approx m e) doublings startPrec
  | .sin => settle (trigApprox false neg m e) doublings startPrec
  | .cos => settle (trigApprox true neg m e) doublings startPrec
  | .tanh =>
    let (n, d) := ratOf m e
    if 16 * d ≤ n then fp32.signed neg 0x3F800000 else settle (tanhApprox neg m e) doublings startPrec
  | .floor => roundIntegral .rdn neg m e
  | .ceil => roundIntegral .rup neg m e
  | .trunc => roundIntegral .rtz neg m e
  | .rint => roundIntegral .rne neg m e
  | .cls => fclass b
  | .sat => if neg then 0 else let (n, d) := ratOf m e; if d ≤ n then 0x3F800000 else b

/-- FUN of a zero. -/
def funZero (op : FunOp) (neg : Bool) : Nat :=
  match op with
  | .abs => 0
  | .neg => fp32.signed (!neg) 0
  | .rcp | .rsq => fp32.signed neg fp32.infCode
  | .exp2 | .cos => 0x3F800000
  | .log2 => fp32.signed true fp32.infCode
  | .sqrt | .sin | .tanh | .floor | .ceil | .trunc | .rint => fp32.signed neg 0
  | .cls => if neg then 2 ^ 3 else 2 ^ 4
  | .sat => 0

/-- FUN of an infinity. -/
def funInf (op : FunOp) (neg : Bool) : Nat :=
  match op with
  | .abs => fp32.infCode
  | .neg => fp32.signed (!neg) fp32.infCode
  | .rcp => fp32.signed neg 0
  | .rsq => if neg then fp32.nanBits else 0
  | .sqrt | .log2 => if neg then fp32.nanBits else fp32.infCode
  | .exp2 => if neg then 0 else fp32.infCode
  | .sin | .cos => fp32.nanBits
  | .tanh => fp32.signed neg 0x3F800000
  | .floor | .ceil | .trunc | .rint => fp32.signed neg fp32.infCode
  | .cls => if neg then 2 ^ 0 else 2 ^ 7
  | .sat => if neg then 0 else 0x3F800000

/-- A function of the FUN group under DAZ, FTZ and legacy NaN (R48, R50, R99). -/
def funResult (M : FpMode) (op : FunOp) (b : Nat) : Nat :=
  if op = .cls then fclass b
  else
    let b := fp32.daz M.daz b
    match fp32.value b with
    | .nan =>
      let n := fp32.nanOf M.legacyNan [b]
      match op with
      | .abs => fp32.mag n
      | .neg => fp32.signed (!fp32.neg n) (fp32.mag n)
      | .sat => 0
      | _ => n
    | .inf neg => funInf op neg
    | .fin neg m e => if m = 0 then funZero op neg else fp32.ftz M.ftz (funFin op b neg m e)

end Sys2Proof.Machine
end

