-- ==== Sys2Proof/Machine/Convert.lean ====
section
/-!
DEFINITION. Conversions (R45, R47, R102, R103) and dot products (R52, R104).
-/

namespace Sys2Proof.Machine

/-! ### Parts -/

/-- The destination format of a V-format code (R66); a binary8 slot with an invalid P traps OPERAND_FORMAT. -/
def vfmt (ln : Lane) (f : BitVec 3) : M VFmt :=
  match f.toNat with
  | 0 => pure (.ieee fp16)
  | 1 => pure (.ieee bf16)
  | 2 => do pure (.bin8 (← slot8 ln false))
  | 3 => do pure (.bin8 (← slot8 ln true))
  | 4 => pure (.int 8 true)
  | 5 => pure (.int 8 false)
  | 6 => pure (.int 16 true)
  | _ => pure (.ieee fp32)

/-- Legacy convert rounding (R49): a float-to-integer RNE rounds ties away from zero. -/
def intRnd (md : FpMode) (r : Rnd) : Rnd := if md.legacyRound && r == .rne then .rna else r

/-- The rounding of a conversion (R44, R49); stochastic rounding takes a draw. -/
def cvtRnd (ln : Lane) (r : BitVec 2) (md : FpMode) (F : VFmt) : M Rnd := do
  let rnd ← match r.toNat with
    | 0 => pure md.rnd
    | 1 => pure Rnd.rne
    | 2 => pure Rnd.rtz
    | _ => do pure (.sr (← draw15 ln.team (← theThread ln)))
  match F with
  | .int _ _ => pure (intRnd md rnd)
  | _ => pure rnd

/-- The NaN of an IEEE destination: canonical, or under legacy NaN the source's payload, quieted, most significant bits
first (R50). -/
def narrowNan (md : FpMode) (F : Ieee) (b : Nat) : Nat :=
  if md.legacyNan && fp32.isNan b then
    F.signed (fp32.neg b) (F.infCode + fp32.quiet b % 2 ^ 23 / 2 ^ (23 - F.t))
  else F.nanBits

/-- The element that CVT forms from binary32 (R102). -/
def cvtResult (md : FpMode) (F : VFmt) (rnd : Rnd) (pol : BitVec 2) (a : Word) : Conv :=
  let b := fp32.daz md.daz a.toNat
  match F with
  | .ieee G =>
    match convert F rnd pol (narrowNan md G b) (fp32.value b) with
    | .ok v c => .ok (G.ftz md.ftz v) c
    | .trap => .trap
  | _ => convert F rnd pol 0 (fp32.value b)

/-- Where CVT puts its element: alone, extended, or shifted in from the top (R33, R102). -/
def placed (F : VFmt) (insert : Bool) (old : Word) (v : Nat) : Word :=
  if insert then (old >>> F.width) ||| BitVec.ofNat 32 (v * 2 ^ (32 - F.width))
  else
    match F with
    | .int w true => (BitVec.ofNat w v).signExtend 32
    | _ => BitVec.ofNat 32 v

/-- binary32 of an integer, rounded by FPCTL (R103). -/
def ofInt (md : FpMode) (neg : Bool) (n : Nat) : Word :=
  BitVec.ofNat 32 (fp32.ofV md.rnd fp32.nanBits (.fin neg n 0))

/-- A 32-bit integer of a binary32 value: rounded, clamped, NaN giving 0 (R103). -/
def toInt (md : FpMode) (sgn : Bool) (a : Word) : Word :=
  match convert (.int 32 sgn) (intRnd md md.rnd) 0 0 (fp32.value (fp32.daz md.daz a.toNat)) with
  | .ok v _ => BitVec.ofNat 32 v
  | .trap => 0

/-- binary32 of a 16-bit IEEE element, exact (R50, R103). DESIGN CHOICE (log entry 75): under legacy NaN the payload of the
narrower NaN fills the upper bits of the wider one's; the rules state the narrower case only. -/
def widen (md : FpMode) (F : Ieee) (h : BitVec 16) : Word :=
  let b := F.daz md.daz h.toNat
  let nan :=
    if md.legacyNan then fp32.signed (F.neg b) (fp32.infCode + F.quiet b % 2 ^ F.t * 2 ^ (23 - F.t)) else fp32.nanBits
  BitVec.ofNat 32 (fp32.ftz md.ftz (fp32.ofV .rne nan (F.value b)))

/-- `n` packed elements of `w` bits, element 0 first (R33). -/
def elems (w n : Nat) (v : Word) : List Nat := (List.range n).map fun j => v.toNat / 2 ^ (w * j) % 2 ^ w

/-- An accumulator plus the products of two element lists, one rounding (R52). -/
def dotSum (d : Word) (us vs : List FVal) : Word := sum32 (fp32.value d.toNat :: List.zipWith mulV us vs)

/-! ### Instructions -/

/-- d := a converted to format f under rounding r and overflow policy p, or shifted into d from the top when i is set
(R45, R47, R102). -/
def bodyCvt (d : BitVec 8) (a : BitVec 8) (f : BitVec 3) (r : BitVec 2) (p : BitVec 2) (i : Bool) : Body :=
  fun ln => seq do
    let md ← fpMode ln
    let F ← vfmt ln f
    let u ← rd ln a
    let old ← if i then rd ln d else pure 0
    let rnd ← cvtRnd ln r md F
    match cvtResult md F rnd p u with
    | .trap => trap Cause.overflowTrap
    | .ok v _ => wr ln d (placed F i old v)
@[inherit_doc bodyCvt]
def execCvt (d : BitVec 8) (a : BitVec 8) (f : BitVec 3) (r : BitVec 2) (p : BitVec 2) (i : Bool) (s_ : State) : Result :=
  issue (.cvt d a f r p i) (bodyCvt d a f r p i) s_

/-- d := binary32 of the signed integer a (R103). -/
def bodyCvif (d : BitVec 8) (a : BitVec 8) : Body :=
  fun ln => seq do
    let md ← fpMode ln
    let u ← rd ln a
    wr ln d (ofInt md u.msb (u.toInt.natAbs))
@[inherit_doc bodyCvif]
def execCvif (d : BitVec 8) (a : BitVec 8) (s_ : State) : Result := issue (.cvif d a) (bodyCvif d a) s_

/-- d := binary32 of the unsigned integer a (R103). -/
def bodyCvnf (d : BitVec 8) (a : BitVec 8) : Body :=
  fun ln => seq do
    let md ← fpMode ln
    let u ← rd ln a
    wr ln d (ofInt md false u.toNat)
@[inherit_doc bodyCvnf]
def execCvnf (d : BitVec 8) (a : BitVec 8) (s_ : State) : Result := issue (.cvnf d a) (bodyCvnf d a) s_

/-- d := the signed integer of DAZ(a), clamped (R103). -/
def bodyCvfi (d : BitVec 8) (a : BitVec 8) : Body :=
  fun ln => seq do
    let md ← fpMode ln
    let u ← rd ln a
    wr ln d (toInt md true u)
@[inherit_doc bodyCvfi]
def execCvfi (d : BitVec 8) (a : BitVec 8) (s_ : State) : Result := issue (.cvfi d a) (bodyCvfi d a) s_

/-- d := the unsigned integer of DAZ(a), clamped (R103). -/
def bodyCvfn (d : BitVec 8) (a : BitVec 8) : Body :=
  fun ln => seq do
    let md ← fpMode ln
    let u ← rd ln a
    wr ln d (toInt md false u)
@[inherit_doc bodyCvfn]
def execCvfn (d : BitVec 8) (a : BitVec 8) (s_ : State) : Result := issue (.cvfn d a) (bodyCvfn d a) s_

/-- d := binary32 of the binary16 in the lower half of a, or with x the upper half (R103). -/
def bodyCvhf (d : BitVec 8) (a : BitVec 8) (x : Bool) : Body :=
  fun ln => seq do
    let md ← fpMode ln
    let u ← rd ln a
    wr ln d (widen md fp16 (if x then u.extractLsb' 16 16 else u.extractLsb' 0 16))
@[inherit_doc bodyCvhf]
def execCvhf (d : BitVec 8) (a : BitVec 8) (x : Bool) (s_ : State) : Result := issue (.cvhf d a x) (bodyCvhf d a x) s_

/-- d := binary32 of the bfloat16 in a[15:0] (R103). -/
def bodyCvbf (d : BitVec 8) (a : BitVec 8) : Body :=
  fun ln => seq do
    let md ← fpMode ln
    let u ← rd ln a
    wr ln d (widen md bf16 (u.extractLsb' 0 16))
@[inherit_doc bodyCvbf]
def execCvbf (d : BitVec 8) (a : BitVec 8) (s_ : State) : Result := issue (.cvbf d a) (bodyCvbf d a) s_

/-- d := binary32 of the binary8 in a[7:0], by NFMT slot A (R103). -/
def bodyCv8af (d : BitVec 8) (a : BitVec 8) : Body :=
  fun ln => seq do
    let S ← slot8 ln false
    let u ← rd ln a
    wr ln d (BitVec.ofNat 32 (fp32Of (S.value (u.toNat % 256))))
@[inherit_doc bodyCv8af]
def execCv8af (d : BitVec 8) (a : BitVec 8) (s_ : State) : Result := issue (.cv8af d a) (bodyCv8af d a) s_

/-- d := binary32 of the binary8 in a[7:0], by NFMT slot B (R103). -/
def bodyCv8bf (d : BitVec 8) (a : BitVec 8) : Body :=
  fun ln => seq do
    let S ← slot8 ln true
    let u ← rd ln a
    wr ln d (BitVec.ofNat 32 (fp32Of (S.value (u.toNat % 256))))
@[inherit_doc bodyCv8bf]
def execCv8bf (d : BitVec 8) (a : BitVec 8) (s_ : State) : Result := issue (.cv8bf d a) (bodyCv8bf d a) s_

/-- d := d + four products of packed binary8 elements, rounded once (R52, R104). -/
def bodyDot4 (d : BitVec 8) (a : BitVec 8) (b : BitVec 8) : Body :=
  fun ln => seq do
    let A ← slot8 ln false
    let B ← slot8 ln true
    let u ← rd ln a
    let v ← rd ln b
    let w ← rd ln d
    wr ln d (dotSum w ((elems 8 4 u).map A.value) ((elems 8 4 v).map B.value))
@[inherit_doc bodyDot4]
def execDot4 (d : BitVec 8) (a : BitVec 8) (b : BitVec 8) (s_ : State) : Result :=
  issue (.dot4 d a b) (bodyDot4 d a b) s_

/-- d := d + two products of packed 16-bit elements, rounded once (R52, R104). -/
def bodyDot2 (d : BitVec 8) (a : BitVec 8) (b : BitVec 8) : Body :=
  fun ln => seq do
    let F := if (← fpctl ln).getLsbD 6 then bf16 else fp16
    let u ← rd ln a
    let v ← rd ln b
    let w ← rd ln d
    wr ln d (dotSum w ((elems 16 2 u).map F.value) ((elems 16 2 v).map F.value))
@[inherit_doc bodyDot2]
def execDot2 (d : BitVec 8) (a : BitVec 8) (b : BitVec 8) (s_ : State) : Result :=
  issue (.dot2 d a b) (bodyDot2 d a b) s_

end Sys2Proof.Machine
end

