-- ==== Sys2Proof/Machine/FloatOps.lean ====
section
/-!
DEFINITION. The floating-point instructions of lanes: arithmetic (R96–R98), the FUN group (R99, R100) and the compare
(R101).
-/

namespace Sys2Proof.Machine

/-! ### Shapes -/

/-- An operation on one register pattern: one binary32 element, or two packed elements of FPCTL[6]'s format (R98). -/
def fpWord (M : FpMode) (op : FpOp) (packed : Bool) (a b d : Word) : Word :=
  if packed then
    let F := if M.bf then bf16 else fp16
    let el (k : Nat) : BitVec 16 :=
      BitVec.ofNat 16 (F.op M op (a.extractLsb' k 16).toNat (b.extractLsb' k 16).toNat (d.extractLsb' k 16).toNat)
    el 16 ++ el 0
  else BitVec.ofNat 32 (fp32.op M op a.toNat b.toNat d.toNat)

/-- An operation of two operands. -/
def fpBin (op : FpOp) (packed : Bool) (d a b : BitVec 8) : Body := fun ln => seq do
  let M ← fpMode ln
  let u ← rd ln a
  let v ← rd ln b
  wr ln d (fpWord M op packed u v 0)

/-- A function of the FUN group, whose result opens a window (R67, R99). -/
def fun_ (op : FunOp) (d a : BitVec 8) (l : BitVec 4) : Body := fun ln => seq do
  let M ← fpMode ln
  let u ← rd ln a
  later ln [d] (.ready [BitVec.ofNat 64 (funResult M op u.toNat)]) l.toNat false

/-! ### Instructions -/

/-- The scalar FADD of d and s (R59, R96). -/
def bodyFaddCompact (d : BitVec 6) (s : BitVec 5) : Body :=
  fpBin .add false (d.setWidth 8) (d.setWidth 8) (s.setWidth 8)
@[inherit_doc bodyFaddCompact]
def execFaddCompact (d : BitVec 6) (s : BitVec 5) (s_ : State) : Result :=
  issue (.faddCompact d s) (bodyFaddCompact d s) s_

/-- The scalar FSUB of d and s (R59, R96). -/
def bodyFsubCompact (d : BitVec 6) (s : BitVec 5) : Body :=
  fpBin .sub false (d.setWidth 8) (d.setWidth 8) (s.setWidth 8)
@[inherit_doc bodyFsubCompact]
def execFsubCompact (d : BitVec 6) (s : BitVec 5) (s_ : State) : Result :=
  issue (.fsubCompact d s) (bodyFsubCompact d s) s_

/-- The scalar FMUL of d and s (R59, R96). -/
def bodyFmulCompact (d : BitVec 6) (s : BitVec 5) : Body :=
  fpBin .mul false (d.setWidth 8) (d.setWidth 8) (s.setWidth 8)
@[inherit_doc bodyFmulCompact]
def execFmulCompact (d : BitVec 6) (s : BitVec 5) (s_ : State) : Result :=
  issue (.fmulCompact d s) (bodyFmulCompact d s) s_

/-- The scalar FMAX of d and s (R59, R96). -/
def bodyFmaxCompact (d : BitVec 6) (s : BitVec 5) : Body :=
  fpBin .max false (d.setWidth 8) (d.setWidth 8) (s.setWidth 8)
@[inherit_doc bodyFmaxCompact]
def execFmaxCompact (d : BitVec 6) (s : BitVec 5) (s_ : State) : Result :=
  issue (.fmaxCompact d s) (bodyFmaxCompact d s) s_

/-- d := a + b, or with x in two packed elements (R96–R98). -/
def bodyFadd (d : BitVec 8) (a : BitVec 8) (b : BitVec 8) (x : Bool) : Body := fpBin .add x d a b
@[inherit_doc bodyFadd]
def execFadd (d : BitVec 8) (a : BitVec 8) (b : BitVec 8) (x : Bool) (s_ : State) : Result :=
  issue (.fadd d a b x) (bodyFadd d a b x) s_

/-- d := a − b, or with x in two packed elements (R96–R98). -/
def bodyFsub (d : BitVec 8) (a : BitVec 8) (b : BitVec 8) (x : Bool) : Body := fpBin .sub x d a b
@[inherit_doc bodyFsub]
def execFsub (d : BitVec 8) (a : BitVec 8) (b : BitVec 8) (x : Bool) (s_ : State) : Result :=
  issue (.fsub d a b x) (bodyFsub d a b x) s_

/-- d := a × b, or with x in two packed elements (R96–R98). -/
def bodyFmul (d : BitVec 8) (a : BitVec 8) (b : BitVec 8) (x : Bool) : Body := fpBin .mul x d a b
@[inherit_doc bodyFmul]
def execFmul (d : BitVec 8) (a : BitVec 8) (b : BitVec 8) (x : Bool) (s_ : State) : Result :=
  issue (.fmul d a b x) (bodyFmul d a b x) s_

/-- d := minimumNumber of a and b, or with x in two packed elements (R96–R98). -/
def bodyFmin (d : BitVec 8) (a : BitVec 8) (b : BitVec 8) (x : Bool) : Body := fpBin .min x d a b
@[inherit_doc bodyFmin]
def execFmin (d : BitVec 8) (a : BitVec 8) (b : BitVec 8) (x : Bool) (s_ : State) : Result :=
  issue (.fmin d a b x) (bodyFmin d a b x) s_

/-- d := maximumNumber of a and b, or with x in two packed elements (R96–R98). -/
def bodyFmax (d : BitVec 8) (a : BitVec 8) (b : BitVec 8) (x : Bool) : Body := fpBin .max x d a b
@[inherit_doc bodyFmax]
def execFmax (d : BitVec 8) (a : BitVec 8) (b : BitVec 8) (x : Bool) (s_ : State) : Result :=
  issue (.fmax d a b x) (bodyFmax d a b x) s_

/-- d := a × b + d with one rounding, or with x in two packed elements (R96, R98). -/
def bodyFfma (d : BitVec 8) (a : BitVec 8) (b : BitVec 8) (x : Bool) : Body :=
  fun ln => seq do
    let M ← fpMode ln
    let u ← rd ln a
    let v ← rd ln b
    let w ← rd ln d
    wr ln d (fpWord M .fma x u v w)
@[inherit_doc bodyFfma]
def execFfma (d : BitVec 8) (a : BitVec 8) (b : BitVec 8) (x : Bool) (s_ : State) : Result :=
  issue (.ffma d a b x) (bodyFfma d a b x) s_

/-- d := FABS of a after a window of l instructions (R67, R99). -/
def bodyFabs (d : BitVec 8) (a : BitVec 8) (l : BitVec 4) : Body := fun_ .abs d a l
@[inherit_doc bodyFabs]
def execFabs (d : BitVec 8) (a : BitVec 8) (l : BitVec 4) (s_ : State) : Result :=
  issue (.fabs d a l) (bodyFabs d a l) s_

/-- d := FNEG of a after a window of l instructions (R67, R99). -/
def bodyFneg (d : BitVec 8) (a : BitVec 8) (l : BitVec 4) : Body := fun_ .neg d a l
@[inherit_doc bodyFneg]
def execFneg (d : BitVec 8) (a : BitVec 8) (l : BitVec 4) (s_ : State) : Result :=
  issue (.fneg d a l) (bodyFneg d a l) s_

/-- d := FRCP of a after a window of l instructions (R67, R99). -/
def bodyFrcp (d : BitVec 8) (a : BitVec 8) (l : BitVec 4) : Body := fun_ .rcp d a l
@[inherit_doc bodyFrcp]
def execFrcp (d : BitVec 8) (a : BitVec 8) (l : BitVec 4) (s_ : State) : Result :=
  issue (.frcp d a l) (bodyFrcp d a l) s_

/-- d := FRSQ of a after a window of l instructions (R67, R99). -/
def bodyFrsq (d : BitVec 8) (a : BitVec 8) (l : BitVec 4) : Body := fun_ .rsq d a l
@[inherit_doc bodyFrsq]
def execFrsq (d : BitVec 8) (a : BitVec 8) (l : BitVec 4) (s_ : State) : Result :=
  issue (.frsq d a l) (bodyFrsq d a l) s_

/-- d := FSQRT of a after a window of l instructions (R67, R99). -/
def bodyFsqrt (d : BitVec 8) (a : BitVec 8) (l : BitVec 4) : Body := fun_ .sqrt d a l
@[inherit_doc bodyFsqrt]
def execFsqrt (d : BitVec 8) (a : BitVec 8) (l : BitVec 4) (s_ : State) : Result :=
  issue (.fsqrt d a l) (bodyFsqrt d a l) s_

/-- d := FEXP2 of a after a window of l instructions (R67, R99). -/
def bodyFexp2 (d : BitVec 8) (a : BitVec 8) (l : BitVec 4) : Body := fun_ .exp2 d a l
@[inherit_doc bodyFexp2]
def execFexp2 (d : BitVec 8) (a : BitVec 8) (l : BitVec 4) (s_ : State) : Result :=
  issue (.fexp2 d a l) (bodyFexp2 d a l) s_

/-- d := FLOG2 of a after a window of l instructions (R67, R99). -/
def bodyFlog2 (d : BitVec 8) (a : BitVec 8) (l : BitVec 4) : Body := fun_ .log2 d a l
@[inherit_doc bodyFlog2]
def execFlog2 (d : BitVec 8) (a : BitVec 8) (l : BitVec 4) (s_ : State) : Result :=
  issue (.flog2 d a l) (bodyFlog2 d a l) s_

/-- d := FSIN of a after a window of l instructions (R67, R99). -/
def bodyFsin (d : BitVec 8) (a : BitVec 8) (l : BitVec 4) : Body := fun_ .sin d a l
@[inherit_doc bodyFsin]
def execFsin (d : BitVec 8) (a : BitVec 8) (l : BitVec 4) (s_ : State) : Result :=
  issue (.fsin d a l) (bodyFsin d a l) s_

/-- d := FCOS of a after a window of l instructions (R67, R99). -/
def bodyFcos (d : BitVec 8) (a : BitVec 8) (l : BitVec 4) : Body := fun_ .cos d a l
@[inherit_doc bodyFcos]
def execFcos (d : BitVec 8) (a : BitVec 8) (l : BitVec 4) (s_ : State) : Result :=
  issue (.fcos d a l) (bodyFcos d a l) s_

/-- d := FTANH of a after a window of l instructions (R67, R99). -/
def bodyFtanh (d : BitVec 8) (a : BitVec 8) (l : BitVec 4) : Body := fun_ .tanh d a l
@[inherit_doc bodyFtanh]
def execFtanh (d : BitVec 8) (a : BitVec 8) (l : BitVec 4) (s_ : State) : Result :=
  issue (.ftanh d a l) (bodyFtanh d a l) s_

/-- d := FFLOOR of a after a window of l instructions (R67, R99). -/
def bodyFfloor (d : BitVec 8) (a : BitVec 8) (l : BitVec 4) : Body := fun_ .floor d a l
@[inherit_doc bodyFfloor]
def execFfloor (d : BitVec 8) (a : BitVec 8) (l : BitVec 4) (s_ : State) : Result :=
  issue (.ffloor d a l) (bodyFfloor d a l) s_

/-- d := FCEIL of a after a window of l instructions (R67, R99). -/
def bodyFceil (d : BitVec 8) (a : BitVec 8) (l : BitVec 4) : Body := fun_ .ceil d a l
@[inherit_doc bodyFceil]
def execFceil (d : BitVec 8) (a : BitVec 8) (l : BitVec 4) (s_ : State) : Result :=
  issue (.fceil d a l) (bodyFceil d a l) s_

/-- d := FTRUNC of a after a window of l instructions (R67, R99). -/
def bodyFtrunc (d : BitVec 8) (a : BitVec 8) (l : BitVec 4) : Body := fun_ .trunc d a l
@[inherit_doc bodyFtrunc]
def execFtrunc (d : BitVec 8) (a : BitVec 8) (l : BitVec 4) (s_ : State) : Result :=
  issue (.ftrunc d a l) (bodyFtrunc d a l) s_

/-- d := FRINT of a after a window of l instructions (R67, R99). -/
def bodyFrint (d : BitVec 8) (a : BitVec 8) (l : BitVec 4) : Body := fun_ .rint d a l
@[inherit_doc bodyFrint]
def execFrint (d : BitVec 8) (a : BitVec 8) (l : BitVec 4) (s_ : State) : Result :=
  issue (.frint d a l) (bodyFrint d a l) s_

/-- d := FCLASS of a after a window of l instructions (R67, R100). -/
def bodyFclass (d : BitVec 8) (a : BitVec 8) (l : BitVec 4) : Body := fun_ .cls d a l
@[inherit_doc bodyFclass]
def execFclass (d : BitVec 8) (a : BitVec 8) (l : BitVec 4) (s_ : State) : Result :=
  issue (.fclass d a l) (bodyFclass d a l) s_

/-- d := FSAT of a after a window of l instructions (R67, R99, and R343 where a translation emulates erratum 2). -/
def bodyFsat (d : BitVec 8) (a : BitVec 8) (l : BitVec 4) : Body :=
  fun ln => seq do
    let M ← fpMode ln
    let old ← erratum ln 2
    let u ← rd ln a
    let v := if old && fp32.isNan u.toNat then fp32.nanOf M.legacyNan [u.toNat] else funResult M .sat u.toNat
    later ln [d] (.ready [BitVec.ofNat 64 v]) l.toNat false
@[inherit_doc bodyFsat]
def execFsat (d : BitVec 8) (a : BitVec 8) (l : BitVec 4) (s_ : State) : Result :=
  issue (.fsat d a l) (bodyFsat d a l) s_

/-- b_e := the condition of DAZ(a) and DAZ(b), anded with b_e when n is set (R101). -/
def bodyFcmp (e : BitVec 3) (c : BitVec 3) (n : Bool) (a : BitVec 8) (b : BitVec 8) : Body :=
  fun ln => seq do
    let M ← fpMode ln
    let u ← rd ln a
    let v ← rd ln b
    setCond e n (fpCond c (fp32.daz M.daz u.toNat) (fp32.daz M.daz v.toNat)) ln
@[inherit_doc bodyFcmp]
def execFcmp (e : BitVec 3) (c : BitVec 3) (n : Bool) (a : BitVec 8) (b : BitVec 8) (s_ : State) : Result :=
  issue (.fcmp e c n a b) (bodyFcmp e c n a b) s_

end Sys2Proof.Machine
end

