-- ==== Sys2Proof/Machine/GroupOps.lean ====
section
/-!
DEFINITION. Group operations (R114–R119), decision queues (R216–R218) and checksums (R206–R210).
-/

namespace Sys2Proof.Machine

/-- The values of register fields, as a member offers them. -/
def rdVals (cs : List (BitVec 8)) (ln : Lane) : M (List Word) := cs.mapM (rd ln)

/-- A b register as a member offers it. -/
def rdFlag (f : BitVec 3) (ln : Lane) : M (List Word) := do pure [if ← rdB ln f then 1 else 0]

/-- The shared body of group operations: the mask, the sources, arrival, and the wait for the rest (R115). DESIGN CHOICE (log
entry 77): a window register written already (CHAIN_REWRITE, R131) is met before an instance in the thread's way
(MEMBER_MASK, R116); the spec ranks neither first. -/
def groupOp (s : BitVec 4) (i : Instr) (vals : Lane → M (List Word)) : Body := fun ln => do
  let T ← getTeam ln.team
  let t ← theThread ln
  let G ← getGroup ln.team t
  let m := G.mask T.width s.toNat
  check (m.getLsbD (T.index t)) Cause.memberMask
  let vs ← vals ln
  (i.flds.filter fun f => f.use == .wr && f.shape == .one).forM fun f => destOk ln f.code
  arriveOp ln.team t i m vs
  restOrWait ln.team t

/-- The member that makes its group's push. -/
def Thread.leadsPush (h : Thread) : Bool :=
  match h.wait with
  | some (.push _ true) => true
  | _ => false

/-- A later group will be created in the chain slot of group index g (R126, R217). -/
def Team.slotComesAgain (T : Team) (g : Nat) : Bool :=
  match T.chain with
  | some C => decide (T.producers ≤ g) &&
      decide (C.next + (g - T.producers + 4 - C.next % 4) % 4 + 1 < C.trip + C.stages)
  | none => false

/-- Append to a group's queue, waiting while it is full or its chain slot is empty; a push that no group will receive
is discarded (R217). -/
def pushQueue (team g : Nat) (v : Word) : M Unit := do
  let T ← getTeam team
  match (T.group? g).filter (fun G => !G.ended) with
  | some G =>
    if 16 ≤ G.dq.length then hold
    else modTeam team fun T => T.setGroup g { G with dq := G.dq ++ [v], pushed := G.pushed + 1 }
  | none => if T.slotComesAgain g then hold else pure ()

/-! ### Checksums -/

/-- CKA's new accumulator (R207). -/
def ckAdd (int : Bool) (old : Word64) (v : Word) : Word64 :=
  let s := old.extractLsb' 0 32
  let c := old.extractLsb' 32 32
  if int then (s + v).setWidth 64
  else
    let y := sub32 v c
    let u := add32 s y
    sub32 (sub32 u s) y ++ u

/-- The value that a member offers to CKX (R208). -/
def Thread.ckValue (h : Thread) (n : Nat) (int : Bool) : Word :=
  let k := h.ckFor n int
  if int then k.extractLsb' 0 32 else sub32 (k.extractLsb' 0 32) (k.extractLsb' 32 32)

/-- CKT's test (R209). DESIGN CHOICE (log entry 58): a difference of infinities that R209 leaves without a value fails the
test. -/
def ckNear (int : Bool) (k : Word64) (e tol : Word) : Bool :=
  let s := k.extractLsb' 0 32
  let c := k.extractLsb' 32 32
  if int then decide (min (s - e).toNat (e - s).toNat ≤ tol.toNat)
  else
    let v (w : Word) := fp32.value w.toNat
    match ((Acc.empty.add (v s)).add (v c).negate).add (v e).negate |>.value, v tol with
    | .nan, _ => false
    | _, .nan => false
    | .inf _, t => decide (0 ≤ t.cmp (.inf false))
    | .fin _ m x, t => decide (0 ≤ t.cmp (.fin false m x))

/-! ### Instructions -/

/-- Each live member receives the d that member g[c] of the member, modulo the width offered (R115, R117). -/
def bodyShflIdx (s : BitVec 4) (d : BitVec 8) (c : BitVec 8) (r : Bool) : Body :=
  groupOp s (.shflIdx s d c r) (rdVals [d, c])
@[inherit_doc bodyShflIdx]
def execShflIdx (s : BitVec 4) (d : BitVec 8) (c : BitVec 8) (r : Bool) (s_ : State) : Result :=
  issue (.shflIdx s d c r) (bodyShflIdx s d c r) s_

/-- Each live member receives the d that member i − n offered (R115, R117). -/
def bodyShflUp (s : BitVec 4) (d : BitVec 8) (n : BitVec 8) (r : Bool) : Body :=
  groupOp s (.shflUp s d n r) (rdVals [d])
@[inherit_doc bodyShflUp]
def execShflUp (s : BitVec 4) (d : BitVec 8) (n : BitVec 8) (r : Bool) (s_ : State) : Result :=
  issue (.shflUp s d n r) (bodyShflUp s d n r) s_

/-- Each live member receives the d that member i + n offered (R115, R117). -/
def bodyShflDown (s : BitVec 4) (d : BitVec 8) (n : BitVec 8) (r : Bool) : Body :=
  groupOp s (.shflDown s d n r) (rdVals [d])
@[inherit_doc bodyShflDown]
def execShflDown (s : BitVec 4) (d : BitVec 8) (n : BitVec 8) (r : Bool) (s_ : State) : Result :=
  issue (.shflDown s d n r) (bodyShflDown s d n r) s_

/-- Each live member receives the d that member i XOR n offered (R115, R117). -/
def bodyShflXor (s : BitVec 4) (d : BitVec 8) (n : BitVec 8) (r : Bool) : Body :=
  groupOp s (.shflXor s d n r) (rdVals [d])
@[inherit_doc bodyShflXor]
def execShflXor (s : BitVec 4) (d : BitVec 8) (n : BitVec 8) (r : Bool) (s_ : State) : Result :=
  issue (.shflXor s d n r) (bodyShflXor s d n r) s_

/-- b_d := some live member has b_f (R118). -/
def bodyVoteAny (s : BitVec 4) (d : BitVec 3) (f : BitVec 3) (r : Bool) : Body :=
  groupOp s (.voteAny s d f r) (rdFlag f)
@[inherit_doc bodyVoteAny]
def execVoteAny (s : BitVec 4) (d : BitVec 3) (f : BitVec 3) (r : Bool) (s_ : State) : Result :=
  issue (.voteAny s d f r) (bodyVoteAny s d f r) s_

/-- b_d := every live member has b_f (R118). -/
def bodyVoteAll (s : BitVec 4) (d : BitVec 3) (f : BitVec 3) (r : Bool) : Body :=
  groupOp s (.voteAll s d f r) (rdFlag f)
@[inherit_doc bodyVoteAll]
def execVoteAll (s : BitVec 4) (d : BitVec 3) (f : BitVec 3) (r : Bool) (s_ : State) : Result :=
  issue (.voteAll s d f r) (bodyVoteAll s d f r) s_

/-- The registers from d := the set of live members that have b_f (R118). -/
def bodyVoteBallot (s : BitVec 4) (d : BitVec 8) (f : BitVec 3) (r : Bool) : Body :=
  groupOp s (.voteBallot s d f r) (rdFlag f)
@[inherit_doc bodyVoteBallot]
def execVoteBallot (s : BitVec 4) (d : BitVec 8) (f : BitVec 3) (r : Bool) (s_ : State) : Result :=
  issue (.voteBallot s d f r) (bodyVoteBallot s d f r) s_

/-- The registers from d := the set of live members whose a equals the member's own (R118). -/
def bodyVoteMatch (s : BitVec 4) (d : BitVec 8) (a : BitVec 8) (r : Bool) : Body :=
  groupOp s (.voteMatch s d a r) (rdVals [a])
@[inherit_doc bodyVoteMatch]
def execVoteMatch (s : BitVec 4) (d : BitVec 8) (a : BitVec 8) (r : Bool) (s_ : State) : Result :=
  issue (.voteMatch s d a r) (bodyVoteMatch s d a r) s_

/-- d := the sum of the live members' a (R118). -/
def bodyVoteRadd (s : BitVec 4) (d : BitVec 8) (a : BitVec 8) (r : Bool) : Body :=
  groupOp s (.voteRadd s d a r) (rdVals [a])
@[inherit_doc bodyVoteRadd]
def execVoteRadd (s : BitVec 4) (d : BitVec 8) (a : BitVec 8) (r : Bool) (s_ : State) : Result :=
  issue (.voteRadd s d a r) (bodyVoteRadd s d a r) s_

/-- d := the signed minimum of the live members' a (R118). -/
def bodyVoteRmin (s : BitVec 4) (d : BitVec 8) (a : BitVec 8) (r : Bool) : Body :=
  groupOp s (.voteRmin s d a r) (rdVals [a])
@[inherit_doc bodyVoteRmin]
def execVoteRmin (s : BitVec 4) (d : BitVec 8) (a : BitVec 8) (r : Bool) (s_ : State) : Result :=
  issue (.voteRmin s d a r) (bodyVoteRmin s d a r) s_

/-- d := the signed maximum of the live members' a (R118). -/
def bodyVoteRmax (s : BitVec 4) (d : BitVec 8) (a : BitVec 8) (r : Bool) : Body :=
  groupOp s (.voteRmax s d a r) (rdVals [a])
@[inherit_doc bodyVoteRmax]
def execVoteRmax (s : BitVec 4) (d : BitVec 8) (a : BitVec 8) (r : Bool) (s_ : State) : Result :=
  issue (.voteRmax s d a r) (bodyVoteRmax s d a r) s_

/-- d := the binary32 sum of the live members' a over the tree of R53 (R118). -/
def bodyVoteRfadd (s : BitVec 4) (d : BitVec 8) (a : BitVec 8) (r : Bool) : Body :=
  groupOp s (.voteRfadd s d a r) (rdVals [a])
@[inherit_doc bodyVoteRfadd]
def execVoteRfadd (s : BitVec 4) (d : BitVec 8) (a : BitVec 8) (r : Bool) (s_ : State) : Result :=
  issue (.voteRfadd s d a r) (bodyVoteRfadd s d a r) s_

/-- b_d := the member is the live one of lowest index (R119). -/
def bodyElect (s : BitVec 4) (d : BitVec 3) : Body := groupOp s (.elect s d) (fun _ => pure [])
@[inherit_doc bodyElect]
def execElect (s : BitVec 4) (d : BitVec 3) (s_ : State) : Result := issue (.elect s d) (bodyElect s d) s_

/-- Each live member's ck_n := the members' values reduced over the tree of R53 (R208). -/
def bodyCkx (s : BitVec 4) (n : BitVec 2) (m : Bool) (r : Bool) : Body :=
  groupOp s (.ckx s n m r) (fun ln => do pure [(← getThread ln.team (← theThread ln)).ckValue n.toNat m])
@[inherit_doc bodyCkx]
def execCkx (s : BitVec 4) (n : BitVec 2) (m : Bool) (r : Bool) (s_ : State) : Result :=
  issue (.ckx s n m r) (bodyCkx s n m r) s_

/-- Push a to group g's queue: from the front thread, or once for the issuing group as a group operation (R217). -/
def bodyDqpush (g : BitVec 5) (a : BitVec 8) : Body :=
  fun ln => do
    let T ← getTeam ln.team
    check (decide (g.toNat < T.producers + T.consumers)) Cause.illegalRegister
    match ln.who with
    | .front => seq do pushQueue ln.team g.toNat (← rd ln a)
    | .thread t =>
      let h ← getThread ln.team t
      match h.wait with
      | some (.push v true) => seq (pushQueue ln.team g.toNat v)
      | some (.push _ false) =>
        if (T.members (T.groupIx t)).any (fun e => e.2.leadsPush) then hold else pure none
      | _ =>
        let v ← rd ln a
        arriveOp ln.team t (.dqpush g a) (BitVec.ofNat 128 (2 ^ T.width - 1)) [v]
        restOrWait ln.team t
@[inherit_doc bodyDqpush]
def execDqpush (g : BitVec 5) (a : BitVec 8) (s_ : State) : Result := issue (.dqpush g a) (bodyDqpush g a) s_

/-- d := the entry at the thread's cursor, which moves on (R218). -/
def bodyDqpop (d : BitVec 8) : Body :=
  fun ln => seq do
    let t ← theThread ln
    let h ← getThread ln.team t
    let G ← getGroup ln.team t
    if G.unread h = 0 then hold
    else
      wr ln d (G.dq.getD (G.dq.length - G.unread h) 0)
      modThread ln.team t fun h => { h with cursor := h.cursor + 1 }
      modTeam ln.team fun T => T.trimQueue (T.groupIx t)
@[inherit_doc bodyDqpop]
def execDqpop (d : BitVec 8) (s_ : State) : Result := issue (.dqpop d) (bodyDqpop d) s_

/-- ck_n := ck_n with a added, by compensated summation or modulo 2³² (R206, R207). -/
def bodyCka (n : BitVec 2) (m : Bool) (a : BitVec 8) : Body :=
  fun ln => seq do
    let t ← theThread ln
    let v ← rd ln a
    modThread ln.team t fun h => h.setCk n.toNat ⟨ckAdd m (h.ckFor n.toNat m) v, some m⟩
@[inherit_doc bodyCka]
def execCka (n : BitVec 2) (m : Bool) (a : BitVec 8) (s_ : State) : Result := issue (.cka n m a) (bodyCka n m a) s_

/-- INVARIANT unless ck_n is within b of a (R209). -/
def bodyCkt (n : BitVec 2) (m : Bool) (a : BitVec 8) (b : BitVec 8) : Body :=
  fun ln => seq do
    let h ← getThread ln.team (← theThread ln)
    let e ← rd ln a
    let tol ← rd ln b
    check (ckNear m (h.ckFor n.toNat m) e tol) Cause.invariant
@[inherit_doc bodyCkt]
def execCkt (n : BitVec 2) (m : Bool) (a : BitVec 8) (b : BitVec 8) (s_ : State) : Result :=
  issue (.ckt n m a b) (bodyCkt n m a b) s_

/-- ck_n := zero with mode none (R210). -/
def bodyCkz (n : BitVec 2) : Body :=
  fun ln => seq do
    modThread ln.team (← theThread ln) fun h => h.setCk n.toNat Ck.zero
@[inherit_doc bodyCkz]
def execCkz (n : BitVec 2) (s_ : State) : Result := issue (.ckz n) (bodyCkz n) s_

end Sys2Proof.Machine
end

