-- ==== Sys2Proof/Machine/Integer.lean ====
section
/-!
DEFINITION. The integer, address and move instructions of lanes (R59, R89–R95), and the encodings that a
TM-940 does not implement (R74).
-/

namespace Sys2Proof.Machine

/-! ### Functions of words -/

/-- The high word of the unsigned and of the signed product (R89). -/
def mulHU (a b : Word) : Word := (a.setWidth 64 * b.setWidth 64).extractLsb' 32 32
def mulHS (a b : Word) : Word := (a.signExtend 64 * b.signExtend 64).extractLsb' 32 32
def uminW (a b : Word) : Word := if b.ult a then b else a
def umaxW (a b : Word) : Word := if a.ult b then b else a
def iabsW (a : Word) : Word := if a.getLsbD 31 then -a else a
/-- Leading zero bits, 0 to 32. -/
def clzW (a : Word) : Word := if a = 0 then 32 else BitVec.ofNat 32 (31 - Nat.log2 a.toNat)
def popcW (a : Word) : Word := BitVec.ofNat 32 (((List.range 32).filter a.getLsbD).length)
def brevW (a : Word) : Word :=
  BitVec.ofNat 32 ((List.range 32).foldl (fun v j => v + if a.getLsbD (31 - j) then 2 ^ j else 0) 0)

/-- One byte of PERM's result (R90). -/
def permByte (src : Word64) (sel : Word) (j : Nat) : Byte :=
  let b := src.extractLsb' (8 * (sel.extractLsb' (4 * j) 3).toNat) 8
  if sel.getLsbD (4 * j + 3) then (if b.getLsbD 7 then 0xFF else 0x00) else b

def permW (a b sel : Word) : Word :=
  let src : Word64 := b ++ a
  permByte src sel 3 ++ permByte src sel 2 ++ permByte src sel 1 ++ permByte src sel 0

/-- A shift: by the whole value of b, or in a translation that emulates erratum 1 by b[4:0] (R89, R343). -/
def shift (f : Word → Word → Word) (d a b : BitVec 8) : Body := fun ln => seq do
  let old ← erratum ln 1
  let x ← rd ln a
  let n ← rd ln b
  wr ln d (f x (if old then n &&& 31 else n))

/-- TEAMIX of R93: x + X (y + Y z) over the launch's team counts; the record number of a job-card launch. -/
def linearIx (team : Nat) : M Nat := do
  let T ← getTeam team
  match SMap.find? T.launch (← get).launches with
  | some L =>
    let r := L.record
    if L.job.isSome then pure (T.x.toNat + 65536 * (T.y.toNat + T.z.toNat))
    else pure (T.x.toNat + r.tx.toNat * (T.y.toNat + r.ty.toNat * T.z.toNat))
  | none => pure T.ix

/-! ### Instructions -/

/-- d := s; the word 0x0000 has no effect (R59). -/
def bodyMovCompact (d : BitVec 6) (s : BitVec 5) : Body :=
  if d = 0 ∧ s = 0 then fun _ => pure none else un (d.setWidth 8) (s.setWidth 8) id
@[inherit_doc bodyMovCompact]
def execMovCompact (d : BitVec 6) (s : BitVec 5) (s_ : State) : Result :=
  issue (.movCompact d s) (bodyMovCompact d s) s_

/-- d := d + s (R59). -/
def bodyIaddCompact (d : BitVec 6) (s : BitVec 5) : Body := compact d s (· + ·)
@[inherit_doc bodyIaddCompact]
def execIaddCompact (d : BitVec 6) (s : BitVec 5) (s_ : State) : Result :=
  issue (.iaddCompact d s) (bodyIaddCompact d s) s_

/-- d := d − s (R59). -/
def bodyIsubCompact (d : BitVec 6) (s : BitVec 5) : Body := compact d s (· - ·)
@[inherit_doc bodyIsubCompact]
def execIsubCompact (d : BitVec 6) (s : BitVec 5) (s_ : State) : Result :=
  issue (.isubCompact d s) (bodyIsubCompact d s) s_

/-- d := d AND s (R59). -/
def bodyAndCompact (d : BitVec 6) (s : BitVec 5) : Body := compact d s (· &&& ·)
@[inherit_doc bodyAndCompact]
def execAndCompact (d : BitVec 6) (s : BitVec 5) (s_ : State) : Result :=
  issue (.andCompact d s) (bodyAndCompact d s) s_

/-- d := d OR s (R59). -/
def bodyOrCompact (d : BitVec 6) (s : BitVec 5) : Body := compact d s (· ||| ·)
@[inherit_doc bodyOrCompact]
def execOrCompact (d : BitVec 6) (s : BitVec 5) (s_ : State) : Result := issue (.orCompact d s) (bodyOrCompact d s) s_

/-- d := d XOR s (R59). -/
def bodyXorCompact (d : BitVec 6) (s : BitVec 5) : Body := compact d s (· ^^^ ·)
@[inherit_doc bodyXorCompact]
def execXorCompact (d : BitVec 6) (s : BitVec 5) (s_ : State) : Result :=
  issue (.xorCompact d s) (bodyXorCompact d s) s_

/-- d := d shifted left by s (R59, R89). -/
def bodyShlCompact (d : BitVec 6) (s : BitVec 5) : Body := compact d s shlW
@[inherit_doc bodyShlCompact]
def execShlCompact (d : BitVec 6) (s : BitVec 5) (s_ : State) : Result :=
  issue (.shlCompact d s) (bodyShlCompact d s) s_

/-- d := d shifted right by s, zero-filled (R59, R89). -/
def bodyShrCompact (d : BitVec 6) (s : BitVec 5) : Body := compact d s shrW
@[inherit_doc bodyShrCompact]
def execShrCompact (d : BitVec 6) (s : BitVec 5) (s_ : State) : Result :=
  issue (.shrCompact d s) (bodyShrCompact d s) s_

/-- d := d shifted right by s, sign-filled (R59, R89). -/
def bodySarCompact (d : BitVec 6) (s : BitVec 5) : Body := compact d s sarW
@[inherit_doc bodySarCompact]
def execSarCompact (d : BitVec 6) (s : BitVec 5) (s_ : State) : Result :=
  issue (.sarCompact d s) (bodySarCompact d s) s_

/-- d := low word of d × s (R59). -/
def bodyImulCompact (d : BitVec 6) (s : BitVec 5) : Body := compact d s (· * ·)
@[inherit_doc bodyImulCompact]
def execImulCompact (d : BitVec 6) (s : BitVec 5) (s_ : State) : Result :=
  issue (.imulCompact d s) (bodyImulCompact d s) s_

/-- d := d + sext(i) (R59). -/
def bodyIaddiCompact (d : BitVec 6) (i : BitVec 5) : Body := un (d.setWidth 8) (d.setWidth 8) (· + i.signExtend 32)
@[inherit_doc bodyIaddiCompact]
def execIaddiCompact (d : BitVec 6) (i : BitVec 5) (s_ : State) : Result :=
  issue (.iaddiCompact d i) (bodyIaddiCompact d i) s_

/-- d := sext(i) (R59). -/
def bodyMovi (d : BitVec 6) (i : BitVec 5) : Body := fun ln => seq (wr ln (d.setWidth 8) (i.signExtend 32))
@[inherit_doc bodyMovi]
def execMovi (d : BitVec 6) (i : BitVec 5) (s_ : State) : Result := issue (.movi d i) (bodyMovi d i) s_

/-- d := a + b (R89). -/
def bodyIadd (d : BitVec 8) (a : BitVec 8) (b : BitVec 8) : Body := bin d a b (· + ·)
@[inherit_doc bodyIadd]
def execIadd (d : BitVec 8) (a : BitVec 8) (b : BitVec 8) (s_ : State) : Result :=
  issue (.iadd d a b) (bodyIadd d a b) s_

/-- d := a − b (R89). -/
def bodyIsub (d : BitVec 8) (a : BitVec 8) (b : BitVec 8) : Body := bin d a b (· - ·)
@[inherit_doc bodyIsub]
def execIsub (d : BitVec 8) (a : BitVec 8) (b : BitVec 8) (s_ : State) : Result :=
  issue (.isub d a b) (bodyIsub d a b) s_

/-- d := the low word of a × b, or with x the high word of the unsigned product (R89). -/
def bodyImul (d : BitVec 8) (a : BitVec 8) (b : BitVec 8) (x : Bool) : Body :=
  bin d a b (if x then mulHU else (· * ·))
@[inherit_doc bodyImul]
def execImul (d : BitVec 8) (a : BitVec 8) (b : BitVec 8) (x : Bool) (s_ : State) : Result :=
  issue (.imul d a b x) (bodyImul d a b x) s_

/-- d := the high word of the signed product (R89). -/
def bodyImulhs (d : BitVec 8) (a : BitVec 8) (b : BitVec 8) : Body := bin d a b mulHS
@[inherit_doc bodyImulhs]
def execImulhs (d : BitVec 8) (a : BitVec 8) (b : BitVec 8) (s_ : State) : Result :=
  issue (.imulhs d a b) (bodyImulhs d a b) s_

/-- d := d + the low word of a × b, or with x pair d := pair d + the signed product (R89). -/
def bodyImad (d : BitVec 8) (a : BitVec 8) (b : BitVec 8) (x : Bool) : Body :=
  if x then fun ln => seq do
    let u ← rd ln a
    let v ← rd ln b
    let w ← rd64 ln d
    wr64 ln d (w + u.signExtend 64 * v.signExtend 64)
  else ter d a b (fun u v w => w + u * v)
@[inherit_doc bodyImad]
def execImad (d : BitVec 8) (a : BitVec 8) (b : BitVec 8) (x : Bool) (s_ : State) : Result :=
  issue (.imad d a b x) (bodyImad d a b x) s_

/-- d := a AND b (R89). -/
def bodyAnd (d : BitVec 8) (a : BitVec 8) (b : BitVec 8) : Body := bin d a b (· &&& ·)
@[inherit_doc bodyAnd]
def execAnd (d : BitVec 8) (a : BitVec 8) (b : BitVec 8) (s_ : State) : Result :=
  issue (.and d a b) (bodyAnd d a b) s_

/-- d := a OR b (R89). -/
def bodyOr (d : BitVec 8) (a : BitVec 8) (b : BitVec 8) : Body := bin d a b (· ||| ·)
@[inherit_doc bodyOr]
def execOr (d : BitVec 8) (a : BitVec 8) (b : BitVec 8) (s_ : State) : Result := issue (.or d a b) (bodyOr d a b) s_

/-- d := a XOR b (R89). -/
def bodyXor (d : BitVec 8) (a : BitVec 8) (b : BitVec 8) : Body := bin d a b (· ^^^ ·)
@[inherit_doc bodyXor]
def execXor (d : BitVec 8) (a : BitVec 8) (b : BitVec 8) (s_ : State) : Result :=
  issue (.xor d a b) (bodyXor d a b) s_

/-- d := a AND NOT b (R89). -/
def bodyAndn (d : BitVec 8) (a : BitVec 8) (b : BitVec 8) : Body := bin d a b (fun u v => u &&& ~~~v)
@[inherit_doc bodyAndn]
def execAndn (d : BitVec 8) (a : BitVec 8) (b : BitVec 8) (s_ : State) : Result :=
  issue (.andn d a b) (bodyAndn d a b) s_

/-- d := a shifted left by the whole value of b (R89), or by b[4:0] under erratum 1 (R343). -/
def bodyShl (d : BitVec 8) (a : BitVec 8) (b : BitVec 8) : Body := shift shlW d a b
@[inherit_doc bodyShl]
def execShl (d : BitVec 8) (a : BitVec 8) (b : BitVec 8) (s_ : State) : Result :=
  issue (.shl d a b) (bodyShl d a b) s_

/-- d := a shifted right by the whole value of b, zero-filled (R89), or by b[4:0] under erratum 1 (R343). -/
def bodyShr (d : BitVec 8) (a : BitVec 8) (b : BitVec 8) : Body := shift shrW d a b
@[inherit_doc bodyShr]
def execShr (d : BitVec 8) (a : BitVec 8) (b : BitVec 8) (s_ : State) : Result :=
  issue (.shr d a b) (bodyShr d a b) s_

/-- d := a shifted right by the whole value of b, sign-filled (R89), or by b[4:0] under erratum 1 (R343). -/
def bodySar (d : BitVec 8) (a : BitVec 8) (b : BitVec 8) : Body := shift sarW d a b
@[inherit_doc bodySar]
def execSar (d : BitVec 8) (a : BitVec 8) (b : BitVec 8) (s_ : State) : Result :=
  issue (.sar d a b) (bodySar d a b) s_

/-- d := the smaller of a and b, signed or with x unsigned (R89). -/
def bodyImin (d : BitVec 8) (a : BitVec 8) (b : BitVec 8) (x : Bool) : Body := bin d a b (if x then uminW else sminW)
@[inherit_doc bodyImin]
def execImin (d : BitVec 8) (a : BitVec 8) (b : BitVec 8) (x : Bool) (s_ : State) : Result :=
  issue (.imin d a b x) (bodyImin d a b x) s_

/-- d := the larger of a and b, signed or with x unsigned (R89). -/
def bodyImax (d : BitVec 8) (a : BitVec 8) (b : BitVec 8) (x : Bool) : Body := bin d a b (if x then umaxW else smaxW)
@[inherit_doc bodyImax]
def execImax (d : BitVec 8) (a : BitVec 8) (b : BitVec 8) (x : Bool) (s_ : State) : Result :=
  issue (.imax d a b x) (bodyImax d a b x) s_

/-- pair d := pair a + pair b, or with x pair a − pair b (R89). -/
def bodyIadd64 (d : BitVec 8) (a : BitVec 8) (b : BitVec 8) (x : Bool) : Body :=
  fun ln => seq do
    let u ← rd64 ln a
    let v ← rd64 ln b
    wr64 ln d (if x then u - v else u + v)
@[inherit_doc bodyIadd64]
def execIadd64 (d : BitVec 8) (a : BitVec 8) (b : BitVec 8) (x : Bool) (s_ : State) : Result :=
  issue (.iadd64 d a b x) (bodyIadd64 d a b x) s_

/-- Each result byte is a byte of b:a, or its sign spread, as the old d selects (R90). -/
def bodyPerm (d : BitVec 8) (a : BitVec 8) (b : BitVec 8) : Body := ter d a b permW
@[inherit_doc bodyPerm]
def execPerm (d : BitVec 8) (a : BitVec 8) (b : BitVec 8) (s_ : State) : Result :=
  issue (.perm d a b) (bodyPerm d a b) s_

/-- d := a (R93). -/
def bodyMov (d : BitVec 8) (a : BitVec 8) : Body := un d a id
@[inherit_doc bodyMov]
def execMov (d : BitVec 8) (a : BitVec 8) (s_ : State) : Result := issue (.mov d a) (bodyMov d a) s_

/-- d := NOT a (R93). -/
def bodyNot (d : BitVec 8) (a : BitVec 8) : Body := un d a (~~~ ·)
@[inherit_doc bodyNot]
def execNot (d : BitVec 8) (a : BitVec 8) (s_ : State) : Result := issue (.not d a) (bodyNot d a) s_

/-- d := 0 − a (R93). -/
def bodyNeg (d : BitVec 8) (a : BitVec 8) : Body := un d a (- ·)
@[inherit_doc bodyNeg]
def execNeg (d : BitVec 8) (a : BitVec 8) (s_ : State) : Result := issue (.neg d a) (bodyNeg d a) s_

/-- d := the absolute value of a; 0x80000000 gives itself (R93). -/
def bodyIabs (d : BitVec 8) (a : BitVec 8) : Body := un d a iabsW
@[inherit_doc bodyIabs]
def execIabs (d : BitVec 8) (a : BitVec 8) (s_ : State) : Result := issue (.iabs d a) (bodyIabs d a) s_

/-- d := leading zero bits of a (R93). -/
def bodyClz (d : BitVec 8) (a : BitVec 8) : Body := un d a clzW
@[inherit_doc bodyClz]
def execClz (d : BitVec 8) (a : BitVec 8) (s_ : State) : Result := issue (.clz d a) (bodyClz d a) s_

/-- d := set bits of a (R93). -/
def bodyPopc (d : BitVec 8) (a : BitVec 8) : Body := un d a popcW
@[inherit_doc bodyPopc]
def execPopc (d : BitVec 8) (a : BitVec 8) (s_ : State) : Result := issue (.popc d a) (bodyPopc d a) s_

/-- d := a with its bits reversed (R93). -/
def bodyBrev (d : BitVec 8) (a : BitVec 8) : Body := un d a brevW
@[inherit_doc bodyBrev]
def execBrev (d : BitVec 8) (a : BitVec 8) (s_ : State) : Result := issue (.brev d a) (bodyBrev d a) s_

/-- d := a[7:0] sign-extended (R93). -/
def bodySexb (d : BitVec 8) (a : BitVec 8) : Body := un d a (fun v => (v.setWidth 8).signExtend 32)
@[inherit_doc bodySexb]
def execSexb (d : BitVec 8) (a : BitVec 8) (s_ : State) : Result := issue (.sexb d a) (bodySexb d a) s_

/-- d := a[15:0] sign-extended (R93). -/
def bodySexh (d : BitVec 8) (a : BitVec 8) : Body := un d a (fun v => (v.setWidth 16).signExtend 32)
@[inherit_doc bodySexh]
def execSexh (d : BitVec 8) (a : BitVec 8) (s_ : State) : Result := issue (.sexh d a) (bodySexh d a) s_

/-- d := a[7:0] zero-extended (R93). -/
def bodyZexb (d : BitVec 8) (a : BitVec 8) : Body := un d a (fun v => (v.setWidth 8).setWidth 32)
@[inherit_doc bodyZexb]
def execZexb (d : BitVec 8) (a : BitVec 8) (s_ : State) : Result := issue (.zexb d a) (bodyZexb d a) s_

/-- d := a[15:0] zero-extended (R93). -/
def bodyZexh (d : BitVec 8) (a : BitVec 8) : Body := un d a (fun v => (v.setWidth 16).setWidth 32)
@[inherit_doc bodyZexh]
def execZexh (d : BitVec 8) (a : BitVec 8) (s_ : State) : Result := issue (.zexh d a) (bodyZexh d a) s_

/-- d := the thread's lane (R11, R93). -/
def bodyLaneid (d : BitVec 8) : Body :=
  fun ln => seq do
    let G ← getGroup ln.team (← theThread ln)
    let T ← getTeam ln.team
    wr ln d (BitVec.ofNat 32 ((G.lane + T.index (← theThread ln)) % 64))
@[inherit_doc bodyLaneid]
def execLaneid (d : BitVec 8) (s_ : State) : Result := issue (.laneid d) (bodyLaneid d) s_

/-- d := the team-local thread id (R12, R93). -/
def bodyTidx (d : BitVec 8) : Body := fun ln => seq do wr ln d (BitVec.ofNat 32 (← theThread ln))
@[inherit_doc bodyTidx]
def execTidx (d : BitVec 8) (s_ : State) : Result := issue (.tidx d) (bodyTidx d) s_

/-- d := the linear team index, modulo 2³² (R16, R93). -/
def bodyTeamix (d : BitVec 8) : Body := fun ln => seq do wr ln d (BitVec.ofNat 32 (← linearIx ln.team))
@[inherit_doc bodyTeamix]
def execTeamix (d : BitVec 8) (s_ : State) : Result := issue (.teamix d) (bodyTeamix d) s_

/-- d := CLOCK[31:0] (R30, R93). -/
def bodyClklo (d : BitVec 8) : Body := fun ln => seq do wr ln d (BitVec.ofNat 32 (← clockOf ln.team))
@[inherit_doc bodyClklo]
def execClklo (d : BitVec 8) (s_ : State) : Result := issue (.clklo d) (bodyClklo d) s_

/-- d := CLOCK[63:32] (R30, R93). -/
def bodyClkhi (d : BitVec 8) : Body := fun ln => seq do wr ln d (BitVec.ofNat 32 ((← clockOf ln.team) / 2 ^ 32))
@[inherit_doc bodyClkhi]
def execClkhi (d : BitVec 8) (s_ : State) : Result := issue (.clkhi d) (bodyClkhi d) s_

/-- d := 1 if b_k, else 0 (R93). -/
def bodyB2g (d : BitVec 8) (k : BitVec 3) : Body := fun ln => seq do wr ln d (if ← rdB ln k then 1 else 0)
@[inherit_doc bodyB2g]
def execB2g (d : BitVec 8) (k : BitVec 3) (s_ : State) : Result := issue (.b2g d k) (bodyB2g d k) s_

/-- b_k := (a ≠ 0) (R93). -/
def bodyG2b (k : BitVec 3) (a : BitVec 8) : Body := fun ln => seq do wrB ln k ((← rd ln a) != 0)
@[inherit_doc bodyG2b]
def execG2b (k : BitVec 3) (a : BitVec 8) (s_ : State) : Result := issue (.g2b k a) (bodyG2b k a) s_

/-- An encoding of the segment form that the TM-940 does not implement: UNIMPLEMENTED (R74). -/
def bodyClz64 (_d : BitVec 8) (_a : BitVec 8) : Body := fun _ => trap Cause.unimplemented
@[inherit_doc bodyClz64]
def execClz64 (d : BitVec 8) (a : BitVec 8) (s_ : State) : Result := issue (.clz64 d a) (bodyClz64 d a) s_

/-- An encoding of the segment form that the TM-940 does not implement: UNIMPLEMENTED (R74). -/
def bodyPopc64 (_d : BitVec 8) (_a : BitVec 8) : Body := fun _ => trap Cause.unimplemented
@[inherit_doc bodyPopc64]
def execPopc64 (d : BitVec 8) (a : BitVec 8) (s_ : State) : Result := issue (.popc64 d a) (bodyPopc64 d a) s_

/-- d := a + sext(i) (R91). -/
def bodyIaddi (d : BitVec 8) (a : BitVec 8) (i : BitVec 9) : Body := un d a (· + i.signExtend 32)
@[inherit_doc bodyIaddi]
def execIaddi (d : BitVec 8) (a : BitVec 8) (i : BitVec 9) (s_ : State) : Result :=
  issue (.iaddi d a i) (bodyIaddi d a i) s_

/-- d := a AND sext(i) (R91). -/
def bodyAndi (d : BitVec 8) (a : BitVec 8) (i : BitVec 9) : Body := un d a (· &&& i.signExtend 32)
@[inherit_doc bodyAndi]
def execAndi (d : BitVec 8) (a : BitVec 8) (i : BitVec 9) (s_ : State) : Result :=
  issue (.andi d a i) (bodyAndi d a i) s_

/-- d := a OR sext(i) (R91). -/
def bodyOri (d : BitVec 8) (a : BitVec 8) (i : BitVec 9) : Body := un d a (· ||| i.signExtend 32)
@[inherit_doc bodyOri]
def execOri (d : BitVec 8) (a : BitVec 8) (i : BitVec 9) (s_ : State) : Result :=
  issue (.ori d a i) (bodyOri d a i) s_

/-- d := a XOR sext(i) (R91). -/
def bodyXori (d : BitVec 8) (a : BitVec 8) (i : BitVec 9) : Body := un d a (· ^^^ i.signExtend 32)
@[inherit_doc bodyXori]
def execXori (d : BitVec 8) (a : BitVec 8) (i : BitVec 9) (s_ : State) : Result :=
  issue (.xori d a i) (bodyXori d a i) s_

/-- d := a shifted left by n (R91). -/
def bodyShli (d : BitVec 8) (a : BitVec 8) (n : BitVec 5) : Body := un d a (· <<< n.toNat)
@[inherit_doc bodyShli]
def execShli (d : BitVec 8) (a : BitVec 8) (n : BitVec 5) (s_ : State) : Result :=
  issue (.shli d a n) (bodyShli d a n) s_

/-- d := a shifted right by n, zero-filled (R91). -/
def bodyShri (d : BitVec 8) (a : BitVec 8) (n : BitVec 5) : Body := un d a (· >>> n.toNat)
@[inherit_doc bodyShri]
def execShri (d : BitVec 8) (a : BitVec 8) (n : BitVec 5) (s_ : State) : Result :=
  issue (.shri d a n) (bodyShri d a n) s_

/-- d := a shifted right by n, sign-filled (R91). -/
def bodySari (d : BitVec 8) (a : BitVec 8) (n : BitVec 5) : Body := un d a (·.sshiftRight n.toNat)
@[inherit_doc bodySari]
def execSari (d : BitVec 8) (a : BitVec 8) (n : BitVec 5) (s_ : State) : Result :=
  issue (.sari d a n) (bodySari d a n) s_

/-- d := a rotated right by n (R91). -/
def bodyRotri (d : BitVec 8) (a : BitVec 8) (n : BitVec 5) : Body := un d a (·.rotateRight n.toNat)
@[inherit_doc bodyRotri]
def execRotri (d : BitVec 8) (a : BitVec 8) (n : BitVec 5) (s_ : State) : Result :=
  issue (.rotri d a n) (bodyRotri d a n) s_

/-- d := zext(i) (R92). -/
def bodyMovkl (d : BitVec 8) (i : BitVec 16) : Body := fun ln => seq (wr ln d (i.setWidth 32))
@[inherit_doc bodyMovkl]
def execMovkl (d : BitVec 8) (i : BitVec 16) (s_ : State) : Result := issue (.movkl d i) (bodyMovkl d i) s_

/-- d[31:16] := i, d[15:0] kept (R92). -/
def bodyMovkh (d : BitVec 8) (i : BitVec 16) : Body := fun ln => seq do wr ln d (i ++ (← rd ln d).setWidth 16)
@[inherit_doc bodyMovkh]
def execMovkh (d : BitVec 8) (i : BitVec 16) (s_ : State) : Result := issue (.movkh d i) (bodyMovkh d i) s_

/-- b_e := the condition of a and b, anded with b_e when n is set (R94). -/
def bodyIcmp (e : BitVec 3) (c : BitVec 3) (n : Bool) (a : BitVec 8) (b : BitVec 8) : Body :=
  fun ln => seq do
    let u ← rd ln a
    let v ← rd ln b
    setCond e n (intCond c u v) ln
@[inherit_doc bodyIcmp]
def execIcmp (e : BitVec 3) (c : BitVec 3) (n : Bool) (a : BitVec 8) (b : BitVec 8) (s_ : State) : Result :=
  issue (.icmp e c n a b) (bodyIcmp e c n a b) s_

/-- b_e := the condition of a and sext(i), anded with b_e when n is set (R94). -/
def bodyIcmpi (e : BitVec 3) (c : BitVec 3) (n : Bool) (a : BitVec 8) (i : BitVec 8) : Body :=
  fun ln => seq do
    let u ← rd ln a
    setCond e n (intCond c u (i.signExtend 32)) ln
@[inherit_doc bodyIcmpi]
def execIcmpi (e : BitVec 3) (c : BitVec 3) (n : Bool) (a : BitVec 8) (i : BitVec 8) (s_ : State) : Result :=
  issue (.icmpi e c n a i) (bodyIcmpi e c n a i) s_

/-- d := a where b_c equals the sense (R95). -/
def bodySel (c : BitVec 3) (s : Bool) (d : BitVec 8) (a : BitVec 8) : Body :=
  fun ln => seq do
    let take ← rdB ln c
    let u ← rd ln a
    let w ← rd ln d
    wr ln d (if take == s then u else w)
@[inherit_doc bodySel]
def execSel (c : BitVec 3) (s : Bool) (d : BitVec 8) (a : BitVec 8) (s_ : State) : Result :=
  issue (.sel c s d a) (bodySel c s d a) s_

/-- An encoding of the segment form that the TM-940 does not implement: UNIMPLEMENTED (R74). -/
def bodyIdiv (_d : BitVec 8) (_a : BitVec 8) (_b : BitVec 8) : Body := fun _ => trap Cause.unimplemented
@[inherit_doc bodyIdiv]
def execIdiv (d : BitVec 8) (a : BitVec 8) (b : BitVec 8) (s_ : State) : Result :=
  issue (.idiv d a b) (bodyIdiv d a b) s_

/-- An encoding of the segment form that the TM-940 does not implement: UNIMPLEMENTED (R74). -/
def bodyIdivu (_d : BitVec 8) (_a : BitVec 8) (_b : BitVec 8) : Body := fun _ => trap Cause.unimplemented
@[inherit_doc bodyIdivu]
def execIdivu (d : BitVec 8) (a : BitVec 8) (b : BitVec 8) (s_ : State) : Result :=
  issue (.idivu d a b) (bodyIdivu d a b) s_

end Sys2Proof.Machine
end

