-- ==== Sys2Proof/Machine/Prob.lean ====
section
/-!
DEFINITION. Probability predicates (R139–R146).
-/

namespace Sys2Proof.Machine

/-! ### Parts -/

/-- The code of a non-negative rational n / d of one, rounded to nearest-even and clamped (R42). -/
def pCode (n d : Nat) : Nat := min (roundInt .rne false (n * 32768) d).toNat 0x8000

/-- SCMP's code (R141, R142). Kinds 0 to 3 are LT, LE, GT, GE, which R63 numbers 2 to 5. -/
def softCode (k : BitVec 2) (x y temp : Word) : Nat :=
  let vx := fp32.value x.toNat
  let vy := fp32.value y.toNat
  if fp32.isNan x.toNat || fp32.isNan y.toNat then 0
  else
    match fp32.value temp.toNat with
    | .fin _ m e =>
      if m = 0 then (if fpCond (BitVec.ofNat 3 (k.toNat + 2)) x.toNat y.toNat then 0x8000 else 0)
      else if vx.cmp vy = 0 then 0x4000
      else
        -- z has the sign of y − x for LT and LE, of x − y for GT and GE
        let neg := decide (0 < vx.cmp vy) == decide (k.toNat < 2)
        match vx, vy with
        | .fin n1 m1 e1, .fin n2 m2 e2 =>
          let (v, ez) := addFin n1 m1 e1 (!n2) m2 e2
          let (n, d) := ratOf v.natAbs (ez - e)
          logistic neg n (d * m)
        | _, _ => if neg then 0 else 0x8000
    | _ => 0x4000

/-- The three combinations: independent product rule, lower and upper bound, on codes, as multiples of 2^-30 (R143). -/
structure Comb where
  indep : Nat → Nat → Nat
  lower : Nat → Nat → Nat
  upper : Nat → Nat → Nat

def andP : Comb :=
  { indep := fun p q => p * q, lower := fun p q => 32768 * (p + q - 32768), upper := fun p q => 32768 * min p q }

def orP : Comb :=
  { indep := fun p q => 32768 * (p + q) - p * q, lower := fun p q => 32768 * max p q,
    upper := fun p q => 32768 * min 32768 (p + q) }

def xorP : Comb :=
  { indep := fun p q => 32768 * (p + q) - 2 * p * q, lower := fun p q => 32768 * (max p q - min p q),
    upper := fun p q => 32768 * min (p + q) (65536 - p - q) }

/-- PCOMB on two operands: `none` is the trap of STRICT on dependent operands (R143). Modes: 0 INDEP, 1 LOWER, 2 UPPER,
3 STRICT. -/
def combine (C : Comb) (A B : BitVec 25) (m : BitVec 2) : Option (BitVec 25) :=
  let dep := (qLineage A &&& qLineage B) != 0
  let f := if !dep || m == 0 || m == 3 then C.indep else if m == 1 then C.lower else C.upper
  if dep && m == 3 then none
  else
    some (qMake (pCode (f (qCode A) (qCode B)) (2 ^ 30)) (qLineage A ||| qLineage B)
      (qIndep A || qIndep B || (dep && m == 0)))

def pcomb (C : Comb) (d a b : BitVec 3) (m : BitVec 2) : Body := fun ln => seq do
  let t ← theThread ln
  let A ← rdQ ln.team t a
  let B ← rdQ ln.team t b
  match combine C A B m with
  | some Q => wrQ ln.team t d Q
  | none => trap Cause.dependentPredicate

/-- BLEND for a weight w / 32768 of a (R144): at weight 1 or 0 one operand's bits, unchanged. -/
def blend32 (w : Nat) (a d : Word) : Word :=
  if w = 0x8000 then a
  else if w = 0 then d
  else
    sum32 [mulV (.fin false w (-15)) (fp32.value a.toNat), mulV (.fin false (32768 - w) (-15)) (fp32.value d.toNat)]

/-- BLENDI for a weight w / 32768 of a (R144). -/
def blendInt (w : Nat) (a d : Word) : Word :=
  let v : Int := w * a.toInt + (32768 - w : Nat) * d.toInt
  BitVec.ofInt 32 (roundInt .rne (v < 0) v.natAbs 32768)

def blendWith (c : BitVec 3) (s : Bool) (d a : BitVec 8) (f : Nat → Word → Word → Word) : Body := fun ln => seq do
  let Q ← rdQ ln.team (← theThread ln) c
  let u ← rd ln a
  let w ← rd ln d
  wr ln d (f (if s then qCode Q else 0x8000 - qCode Q) u w)

/-- PGRAD's value (R146): σ is − for LT and LE. -/
def gradient (neg : Bool) (c : Nat) (temp : Word) : Word :=
  let z := BitVec.ofNat 32 (fp32.signed neg 0)
  match fp32.value temp.toNat with
  | .fin _ m e =>
    if m = 0 then 0
    else if c * (32768 - c) = 0 then z
    else
      let (n, d) := ratOf 1 (-30 - e)
      BitVec.ofNat 32 (fp32.round .rne neg (c * (32768 - c) * n) (d * m))
  | _ => z

/-! ### Instructions -/

/-- q_q := the soft comparison of a and b at TEMP, with lineage 1 << l (R141, R142). -/
def bodyScmp (q : BitVec 3) (k : BitVec 2) (l : BitVec 3) (a : BitVec 8) (b : BitVec 8) : Body :=
  fun ln => seq do
    let t ← theThread ln
    let temp ← do pure (← getGroup ln.team t).temp
    let u ← rd ln a
    let v ← rd ln b
    wrQ ln.team t q (qMake (softCode k u v temp) (BitVec.ofNat 8 (2 ^ l.toNat)) false)
@[inherit_doc bodyScmp]
def execScmp (q : BitVec 3) (k : BitVec 2) (l : BitVec 3) (a : BitVec 8) (b : BitVec 8) (s_ : State) : Result :=
  issue (.scmp q k l a b) (bodyScmp q k l a b) s_

/-- q_d := the conjunction of q_a and q_b under mode m; STRICT traps on shared lineage (R143). -/
def bodyPcombAnd (d : BitVec 3) (a : BitVec 3) (b : BitVec 3) (m : BitVec 2) : Body := pcomb andP d a b m
@[inherit_doc bodyPcombAnd]
def execPcombAnd (d : BitVec 3) (a : BitVec 3) (b : BitVec 3) (m : BitVec 2) (s_ : State) : Result :=
  issue (.pcombAnd d a b m) (bodyPcombAnd d a b m) s_

/-- q_d := the disjunction of q_a and q_b under mode m; STRICT traps on shared lineage (R143). -/
def bodyPcombOr (d : BitVec 3) (a : BitVec 3) (b : BitVec 3) (m : BitVec 2) : Body := pcomb orP d a b m
@[inherit_doc bodyPcombOr]
def execPcombOr (d : BitVec 3) (a : BitVec 3) (b : BitVec 3) (m : BitVec 2) (s_ : State) : Result :=
  issue (.pcombOr d a b m) (bodyPcombOr d a b m) s_

/-- q_d := the exclusive or of q_a and q_b under mode m; STRICT traps on shared lineage (R143). -/
def bodyPcombXor (d : BitVec 3) (a : BitVec 3) (b : BitVec 3) (m : BitVec 2) : Body := pcomb xorP d a b m
@[inherit_doc bodyPcombXor]
def execPcombXor (d : BitVec 3) (a : BitVec 3) (b : BitVec 3) (m : BitVec 2) (s_ : State) : Result :=
  issue (.pcombXor d a b m) (bodyPcombXor d a b m) s_

/-- q_d := the complement of q_a, its lineage and independence kept (R143). -/
def bodyPcombNot (d : BitVec 3) (a : BitVec 3) : Body :=
  fun ln => seq do
    let t ← theThread ln
    let A ← rdQ ln.team t a
    wrQ ln.team t d (qMake (0x8000 - qCode A) (qLineage A) (qIndep A))
@[inherit_doc bodyPcombNot]
def execPcombNot (d : BitVec 3) (a : BitVec 3) (s_ : State) : Result := issue (.pcombNot d a) (bodyPcombNot d a) s_

/-- d := the binary32 blend of a and d by the probability of q_c (R144). -/
def bodyBlend (c : BitVec 3) (s : Bool) (d : BitVec 8) (a : BitVec 8) : Body := blendWith c s d a blend32
@[inherit_doc bodyBlend]
def execBlend (c : BitVec 3) (s : Bool) (d : BitVec 8) (a : BitVec 8) (s_ : State) : Result :=
  issue (.blend c s d a) (bodyBlend c s d a) s_

/-- d := the signed integer blend of a and d by the probability of q_c (R144). -/
def bodyBlendi (c : BitVec 3) (s : Bool) (d : BitVec 8) (a : BitVec 8) : Body := blendWith c s d a blendInt
@[inherit_doc bodyBlendi]
def execBlendi (c : BitVec 3) (s : Bool) (d : BitVec 8) (a : BitVec 8) (s_ : State) : Result :=
  issue (.blendi c s d a) (bodyBlendi c s d a) s_

/-- d := a where a draw against q_c collapses to the sense; the draw is taken always (R144). -/
def bodySelq (c : BitVec 3) (s : Bool) (d : BitVec 8) (a : BitVec 8) : Body :=
  fun ln => seq do
    let t ← theThread ln
    let Q ← rdQ ln.team t c
    let u ← rd ln a
    let w ← rd ln d
    let n ← draw15 ln.team t
    wr ln d (if decide (n < qCode Q) == s then u else w)
@[inherit_doc bodySelq]
def execSelq (c : BitVec 3) (s : Bool) (d : BitVec 8) (a : BitVec 8) (s_ : State) : Result :=
  issue (.selq c s d a) (bodySelq c s d a) s_

/-- b_d := a draw falls below the code of q_q (R146). -/
def bodyColl (q : BitVec 3) (d : BitVec 3) : Body :=
  fun ln => seq do
    let t ← theThread ln
    let Q ← rdQ ln.team t q
    let n ← draw15 ln.team t
    wrB ln d (decide (n < qCode Q))
@[inherit_doc bodyColl]
def execColl (q : BitVec 3) (d : BitVec 3) (s_ : State) : Result := issue (.coll q d) (bodyColl q d) s_

/-- q_q := the fields of a, its code saturated (R21, R146). -/
def bodyQset (q : BitVec 3) (a : BitVec 8) : Body :=
  fun ln => seq do
    let t ← theThread ln
    let u ← rd ln a
    wrQ ln.team t q (qMake (u.extractLsb' 0 16).toNat (u.extractLsb' 16 8) (u.getLsbD 24))
@[inherit_doc bodyQset]
def execQset (q : BitVec 3) (a : BitVec 8) (s_ : State) : Result := issue (.qset q a) (bodyQset q a) s_

/-- d := the fields of q_q (R146). -/
def bodyQget (q : BitVec 3) (d : BitVec 8) : Body :=
  fun ln => seq do
    let Q ← rdQ ln.team (← theThread ln) q
    wr ln d (Q.setWidth 32)
@[inherit_doc bodyQget]
def execQget (q : BitVec 3) (d : BitVec 8) (s_ : State) : Result := issue (.qget q d) (bodyQget q d) s_

/-- q_q := 1 or 0 as b_b says, with no lineage (R146). -/
def bodyQfromb (q : BitVec 3) (b : BitVec 3) : Body :=
  fun ln => seq do
    let t ← theThread ln
    wrQ ln.team t q (qMake (if ← rdB ln b then 0x8000 else 0) 0 false)
@[inherit_doc bodyQfromb]
def execQfromb (q : BitVec 3) (b : BitVec 3) (s_ : State) : Result := issue (.qfromb q b) (bodyQfromb q b) s_

/-- d := the gradient of the soft comparison of kind k at q_q (R146). -/
def bodyPgrad (q : BitVec 3) (k : BitVec 2) (d : BitVec 8) : Body :=
  fun ln => seq do
    let t ← theThread ln
    let temp ← do pure (← getGroup ln.team t).temp
    let Q ← rdQ ln.team t q
    wr ln d (gradient (decide (k.toNat < 2)) (qCode Q) temp)
@[inherit_doc bodyPgrad]
def execPgrad (q : BitVec 3) (k : BitVec 2) (d : BitVec 8) (s_ : State) : Result :=
  issue (.pgrad q k d) (bodyPgrad q k d) s_

/-- b_d := the code of q_q is at least one half (R146). -/
def bodyQhard (q : BitVec 3) (d : BitVec 3) : Body :=
  fun ln => seq do
    let Q ← rdQ ln.team (← theThread ln) q
    wrB ln d (decide (0x4000 ≤ qCode Q))
@[inherit_doc bodyQhard]
def execQhard (q : BitVec 3) (d : BitVec 3) (s_ : State) : Result := issue (.qhard q d) (bodyQhard q d) s_

end Sys2Proof.Machine
end

