-- ==== Sys2Proof/Machine/RunAhead.lean ====
section
/-!
DEFINITION. Run-ahead after a TRANSLATION fault (R249): a simulation on a copy of the machine, of which only the pages
it records are kept.
-/

namespace Sys2Proof.Machine

/-- The instructions that run-ahead executes beside the data accesses: all but those that R249 stops at. The issuing thread
runs alone, so that what its group must have the same is the same. -/
def laneBody : Instr → Option Body
  | .movCompact d s => some (bodyMovCompact d s)
  | .iaddCompact d s => some (bodyIaddCompact d s)
  | .isubCompact d s => some (bodyIsubCompact d s)
  | .andCompact d s => some (bodyAndCompact d s)
  | .orCompact d s => some (bodyOrCompact d s)
  | .xorCompact d s => some (bodyXorCompact d s)
  | .shlCompact d s => some (bodyShlCompact d s)
  | .shrCompact d s => some (bodyShrCompact d s)
  | .sarCompact d s => some (bodySarCompact d s)
  | .imulCompact d s => some (bodyImulCompact d s)
  | .iaddiCompact d i => some (bodyIaddiCompact d i)
  | .movi d i => some (bodyMovi d i)
  | .iadd d a b => some (bodyIadd d a b)
  | .isub d a b => some (bodyIsub d a b)
  | .imul d a b x => some (bodyImul d a b x)
  | .imulhs d a b => some (bodyImulhs d a b)
  | .imad d a b x => some (bodyImad d a b x)
  | .and d a b => some (bodyAnd d a b)
  | .or d a b => some (bodyOr d a b)
  | .xor d a b => some (bodyXor d a b)
  | .andn d a b => some (bodyAndn d a b)
  | .shl d a b => some (bodyShl d a b)
  | .shr d a b => some (bodyShr d a b)
  | .sar d a b => some (bodySar d a b)
  | .imin d a b x => some (bodyImin d a b x)
  | .imax d a b x => some (bodyImax d a b x)
  | .iadd64 d a b x => some (bodyIadd64 d a b x)
  | .perm d a b => some (bodyPerm d a b)
  | .mov d a => some (bodyMov d a)
  | .not d a => some (bodyNot d a)
  | .neg d a => some (bodyNeg d a)
  | .iabs d a => some (bodyIabs d a)
  | .clz d a => some (bodyClz d a)
  | .popc d a => some (bodyPopc d a)
  | .brev d a => some (bodyBrev d a)
  | .sexb d a => some (bodySexb d a)
  | .sexh d a => some (bodySexh d a)
  | .zexb d a => some (bodyZexb d a)
  | .zexh d a => some (bodyZexh d a)
  | .laneid d => some (bodyLaneid d)
  | .tidx d => some (bodyTidx d)
  | .teamix d => some (bodyTeamix d)
  | .clklo d => some (bodyClklo d)
  | .clkhi d => some (bodyClkhi d)
  | .b2g d k => some (bodyB2g d k)
  | .g2b k a => some (bodyG2b k a)
  | .clz64 d a => some (bodyClz64 d a)
  | .popc64 d a => some (bodyPopc64 d a)
  | .iaddi d a i => some (bodyIaddi d a i)
  | .andi d a i => some (bodyAndi d a i)
  | .ori d a i => some (bodyOri d a i)
  | .xori d a i => some (bodyXori d a i)
  | .shli d a n => some (bodyShli d a n)
  | .shri d a n => some (bodyShri d a n)
  | .sari d a n => some (bodySari d a n)
  | .rotri d a n => some (bodyRotri d a n)
  | .movkl d i => some (bodyMovkl d i)
  | .movkh d i => some (bodyMovkh d i)
  | .icmp e c n a b => some (bodyIcmp e c n a b)
  | .icmpi e c n a i => some (bodyIcmpi e c n a i)
  | .sel c s d a => some (bodySel c s d a)
  | .idiv d a b => some (bodyIdiv d a b)
  | .idivu d a b => some (bodyIdivu d a b)
  | .faddCompact d s => some (bodyFaddCompact d s)
  | .fsubCompact d s => some (bodyFsubCompact d s)
  | .fmulCompact d s => some (bodyFmulCompact d s)
  | .fmaxCompact d s => some (bodyFmaxCompact d s)
  | .fadd d a b x => some (bodyFadd d a b x)
  | .fsub d a b x => some (bodyFsub d a b x)
  | .fmul d a b x => some (bodyFmul d a b x)
  | .fmin d a b x => some (bodyFmin d a b x)
  | .fmax d a b x => some (bodyFmax d a b x)
  | .ffma d a b x => some (bodyFfma d a b x)
  | .fabs d a l => some (bodyFabs d a l)
  | .fneg d a l => some (bodyFneg d a l)
  | .frcp d a l => some (bodyFrcp d a l)
  | .frsq d a l => some (bodyFrsq d a l)
  | .fsqrt d a l => some (bodyFsqrt d a l)
  | .fexp2 d a l => some (bodyFexp2 d a l)
  | .flog2 d a l => some (bodyFlog2 d a l)
  | .fsin d a l => some (bodyFsin d a l)
  | .fcos d a l => some (bodyFcos d a l)
  | .ftanh d a l => some (bodyFtanh d a l)
  | .ffloor d a l => some (bodyFfloor d a l)
  | .fceil d a l => some (bodyFceil d a l)
  | .ftrunc d a l => some (bodyFtrunc d a l)
  | .frint d a l => some (bodyFrint d a l)
  | .fclass d a l => some (bodyFclass d a l)
  | .fsat d a l => some (bodyFsat d a l)
  | .fcmp e c n a b => some (bodyFcmp e c n a b)
  | .cvt d a f r p i => some (bodyCvt d a f r p i)
  | .cvif d a => some (bodyCvif d a)
  | .cvnf d a => some (bodyCvnf d a)
  | .cvfi d a => some (bodyCvfi d a)
  | .cvfn d a => some (bodyCvfn d a)
  | .cvhf d a x => some (bodyCvhf d a x)
  | .cvbf d a => some (bodyCvbf d a)
  | .cv8af d a => some (bodyCv8af d a)
  | .cv8bf d a => some (bodyCv8bf d a)
  | .dot4 d a b => some (bodyDot4 d a b)
  | .dot2 d a b => some (bodyDot2 d a b)
  | .scmp q k l a b => some (bodyScmp q k l a b)
  | .pcombAnd d a b m => some (bodyPcombAnd d a b m)
  | .pcombOr d a b m => some (bodyPcombOr d a b m)
  | .pcombXor d a b m => some (bodyPcombXor d a b m)
  | .pcombNot d a => some (bodyPcombNot d a)
  | .blend c s d a => some (bodyBlend c s d a)
  | .blendi c s d a => some (bodyBlendi c s d a)
  | .qset q a => some (bodyQset q a)
  | .qget q d => some (bodyQget q d)
  | .qfromb q b => some (bodyQfromb q b)
  | .pgrad q k d => some (bodyPgrad q k d)
  | .qhard q d => some (bodyQhard q d)
  | .bra c s o => some (bodyBra c s o)
  | .call c s o => some (bodyCall c s o)
  | .jmpi p => some (bodyJmpi p)
  | .calli p => some (bodyCalli p)
  | .ret => some bodyRet
  | .land => some bodyLand
  | .rcvSet s k => some (bodyRcvSet s k)
  | .stage s k => some (bodyStage s k)
  | .chend => some bodyChend
  | .bop d a b o => some (bodyBop d a b o)
  | .succGoto t => some (bodySuccGoto t)
  | .succBr c sense t1 t2 => some (bodySuccBr c sense t1 t2)
  | .succSw i ts => some (bodySuccSw i ts)
  | .succCall t tr => some (bodySuccCall t tr)
  | .succRet => some bodySuccRet
  | .cka n m a => some (bodyCka n m a)
  | .ckt n m a b => some (bodyCkt n m a b)
  | .ckz n => some (bodyCkz n)
  | .fence s b => some (bodyFence s b)
  | .nbInit k i n => some (bodyNbInit k i n)
  | .nbExpect k i a => some (bodyNbExpect k i a)
  | .nbArr k i d g => some (bodyNbArr k i d g)
  | .nbTest k i a e => some (bodyNbTest k i a e)
  | .strm p d => some (bodyStrm true p d)
  | .strmOff p => some (bodyStrmOff p)
  | .wjoin d a => some (bodyWjoin true d a)
  | .wmap w d a => some (bodyWmap true w d a)
  | .wquery d => some (bodyWquery d)
  | .wleave => some bodyWleave
  | .mxProg d w => some (bodyMxProg d w)
  | .rshPoll d w => some (bodyRshPoll d w)
  | _ => none

/-- Keys of what may be unknown: register codes, then b, q and ck registers. -/
def bKey (k : BitVec 3) : Nat := 300 + k.toNat
def qKey (k : BitVec 3) : Nat := 310 + k.toNat
def ckKey (n : BitVec 2) : Nat := 320 + n.toNat

/-- The b, q and ck registers an instruction reads. -/
def flagSources : Instr → List Nat
  | .sel c _ _ _ => [bKey c]
  | .icmp e _ n _ _ | .icmpi e _ n _ _ | .fcmp e _ n _ _ => if n then [bKey e] else []
  | .b2g _ k => [bKey k]
  | .qfromb _ b => [bKey b]
  | .bop _ a b _ => [bKey a, bKey b]
  | .bra c _ _ | .call c _ _ => [bKey c]
  | .succBr c _ _ _ => [bKey c]
  | .pcombAnd _ a b _ | .pcombOr _ a b _ | .pcombXor _ a b _ => [qKey a, qKey b]
  | .pcombNot _ a => [qKey a]
  | .blend c _ _ _ | .blendi c _ _ _ => [qKey c]
  | .qget q _ | .pgrad q _ _ | .qhard q _ => [qKey q]
  | .cka n _ _ | .ckt n _ _ _ => [ckKey n]
  | _ => []

/-- A b register that an instruction writes; a write of b7 is discarded (R94). -/
def bDest (k : BitVec 3) : List Nat := if k = 7#3 then [] else [bKey k]

/-- The b, q and ck registers an instruction writes. -/
def flagDests : Instr → List Nat
  | .icmp e _ _ _ _ | .icmpi e _ _ _ _ | .fcmp e _ _ _ _ => bDest e
  | .g2b k _ => bDest k
  | .qhard _ d => bDest d
  | .bop d _ _ _ => bDest d
  | .scmp q _ _ _ _ => [qKey q]
  | .pcombAnd d _ _ _ | .pcombOr d _ _ _ | .pcombXor d _ _ _ => [qKey d]
  | .pcombNot d _ => [qKey d]
  | .qset q _ | .qfromb q _ => [qKey q]
  | .cka n _ _ | .ckz n => [ckKey n]
  | .fence _ b => bDest b
  | .nbTest _ _ _ e => bDest e
  | _ => []

def readKeys (width : Nat) (i : Instr) : List Nat :=
  (i.flds.filter (fun f => f.use != .wr)).flatMap (fldCodes false width) ++ flagSources i

def writeKeys (width : Nat) (i : Instr) : List Nat :=
  (i.flds.filter (fun f => f.use != .rd)).flatMap (fldCodes false width) ++ flagDests i

/-- An instruction whose next PC depends on what it reads, or that reads memory at an address it reads. -/
def isTransfer : Instr → Bool
  | .strm _ _ => true
  | .bra _ _ _ | .call _ _ _ | .jmpi _ | .calli _ | .ret | .succBr _ _ _ _ | .succSw _ _ | .succRet => true
  | _ => false

/-- Where run-ahead stops for a stream access, a draw or a write of a w register. -/
def stopsAhead (i : Instr) : Bool :=
  (i.flds.any fun f => match regCode f.code with
    | .inPort _ => true
    | .outPort _ => true
    | .window _ _ => f.use != .rd
    | .g _ => false) ||
    match i with
    | .cvt _ _ _ r _ _ => r == 3
    | _ => false

/-- A data access: its address register, whether local, its bytes, needs and access bit, and the registers it would
write. -/
structure Access where
  addr : BitVec 8
  isLocal : Bool
  n : Nat
  need : Need
  bit : BitVec 8
  dest : List (BitVec 8)
  window : Nat
  natural : Bool
  deriving DecidableEq, Repr

def quadCodes (d : BitVec 8) (s : BitVec 3) : List (BitVec 8) :=
  if s = 5 then [d, d + 1] else if s = 6 then [d, d + 1, d + 2, d + 3] else [d]

def accessOf : Instr → Option Access
  | .ld d a l s o => some ⟨a, false, sizeBytes s, ⟨true, false, false⟩, accLoad, quadCodes d s, l.toNat, o == 1⟩
  | .st _ a _ s o => some ⟨a, false, sizeBytes s, ⟨false, true, false⟩, accStore, [], 0, o == 1⟩
  | .ldl d a l s _ => some ⟨a, true, sizeBytes s, ⟨true, false, false⟩, 0, quadCodes d s, l.toNat, true⟩
  | .stl _ a _ s _ => some ⟨a, true, sizeBytes s, ⟨false, true, false⟩, 0, [], 0, true⟩
  | .atomAdd d a l _ | .atomMin d a l _ | .atomMax d a l _ | .atomAnd d a l _ | .atomOr d a l _ | .atomXchg d a l _ =>
    some ⟨a, false, 4, ⟨true, true, false⟩, accAtomic, [d], l.toNat, true⟩
  | .atomCas d a l _ => some ⟨a, false, 4, ⟨true, true, false⟩, accAtomic, [d], l.toNat, true⟩
  | .atomAdd64 d a l _ => some ⟨a, false, 8, ⟨true, true, false⟩, accAtomic, [d, d + 1], l.toNat, true⟩
  | .atomlAdd d a l _ | .atomlFadd d a l _ | .atomlMin d a l _ | .atomlMax d a l _ | .atomlXchg d a l _
  | .atomlFadd2 d a l _ | .atomlOr d a l _ => some ⟨a, true, 4, ⟨true, true, false⟩, 0, [d], l.toNat, true⟩
  | .atomlCas d a l _ => some ⟨a, true, 4, ⟨true, true, false⟩, 0, [d], l.toNat, true⟩
  | _ => none

/-- Run-ahead in progress: the machine with the pages recorded so far, the copy it simulates on, what is unknown, how many
instructions it has gone past, how many of them an earlier part of the same run-ahead did, and the page for which it
finds no free record. -/
structure Ahead where
  real : State
  sim : State
  unk : List Nat
  done : Nat
  past : Nat
  wants : Option (Word64 × BitVec 8)

/-- RECORD of a page that run-ahead finds: `none` while no record is free. A page found before has been recorded. -/
def Ahead.record (a : Ahead) (ctx : Nat) (va : Word64) (bit : BitVec 8) : Option Ahead :=
  if a.done < a.past then some a else (a.real.recordFault ctx va bit).map fun r => { a with real := r.1 }

/-- The simulation is past an instruction. -/
def Ahead.next (a : Ahead) (sim : State) (unk : List Nat) : Ahead := { a with sim := sim, unk := unk, done := a.done + 1 }

/-- Every w register that the instruction reads is there: a read that would wait, or trap, stops the run (R131, R249). -/
def windowsThere (ln : Lane) (i : Instr) : M Unit :=
  i.flds.forM fun f =>
    match ln.who, f.shape, regCode f.code with
    | .thread t, .one, .window k d => if f.use = .wr then pure () else discard (readWindow ln.team t k d)
    | _, _, _ => pure ()

/-- An access opens the window of its unknown result (R67). -/
def openWindow (ln : Lane) (x : Access) : M Unit := later ln x.dest (.ready (x.dest.map fun _ => 0)) x.window

/-- The check of an access whose address is known; nothing is read or written. -/
def tryAccess (ln : Lane) (x : Access) (i : Instr) (len : Nat) : M Unit := do
  decodeChecks ln i
  deliver ln false
  windowsThere ln i
  let ea ← if x.isLocal then do pure (← rd ln x.addr).toNat else do pure (← rd64 ln x.addr).toNat
  if x.natural then aligned ea x.n else pure ()
  if x.isLocal then
    let _ ← resolveLocal ln.team ea x.n
  else
    let _ ← checkAccess ln ea x.n x.need x.bit
  openWindow ln x
  complete ln len none

/-- The simulation goes past an instruction whose result is unknown, be it an access that faults. -/
def passUnknown (ln : Lane) (i : Instr) (len : Nat) : M Unit := do
  decodeChecks ln i
  deliver ln false
  windowsThere ln i
  match accessOf i with
  | some x => openWindow ln x
  | none => pure ()
  complete ln len none

/-- One instruction of run-ahead: `none` when it stops; it does not go past one whose page has to wait for a record. DESIGN
CHOICE (log entry 87): one whose own fetch, or whose target, faults TRANSLATION stops it, and no page of code is recorded. -/
def aheadStep (ln : Lane) (a : Ahead) : Option Ahead :=
  match (do let pc ← pcOf ln; fetchAt ln.team pc) a.sim, a.sim.team? ln.team with
  | .ok ((_, len, some i), sim), some T =>
    let read := readKeys T.width i
    let wrote := writeKeys T.width i
    let known := !read.any a.unk.contains
    match accessOf i with
    | some x =>
      if stopsAhead i || (fldCodes false T.width ⟨.a, x.addr, .rd, if x.isLocal then .g else .pair⟩).any a.unk.contains
      then none
      else
        match tryAccess ln x i len sim with
        | .ok (_, sim') => some (a.next sim' (a.unk ++ x.dest.map (·.toNat)))
        | .error (.page va bit) =>
          match a.record T.ctx va bit, passUnknown ln i len sim with
          | some a, .ok (_, sim') => some (a.next sim' (a.unk ++ x.dest.map (·.toNat)))
          | none, .ok _ => some { a with wants := some (va, bit) }
          | _, .error _ => none
        | .error _ => none
    | none =>
      match laneBody i with
      | none => none
      | some body =>
        if stopsAhead i then none
        else if known then
          match perform i len body ln sim with
          | .ok (_, sim') => some (a.next sim' (a.unk.filter fun k => !wrote.contains k))
          | .error _ => none
        else if isTransfer i then none
        else
          match passUnknown ln i len sim with
          | .ok (_, sim') => some (a.next sim' (a.unk ++ wrote))
          | .error _ => none
  | _, _ => none

def aheadGo (ln : Lane) : Nat → Ahead → Ahead
  | 0, a => a
  | n + 1, a =>
    match aheadStep ln a with
    | some b => if b.wants.isSome then b else aheadGo ln n b
    | none => a

/-- The group of a thread is at a chain presence wait: one of its threads waits in its settle, or at an instruction that
reads a w register whose value is not present (R131, R133, R249). -/
def State.atPresenceWait (s : State) (team t : Nat) : Bool :=
  match s.team? team with
  | some T =>
    (T.members (T.groupIx t)).any fun e =>
      !e.2.ended &&
        match e.2.wait with
        | some (.settle _) => true
        | some .poll =>
          match fetchAt team e.2.pc s with
          | .ok ((_, _, some i), _) =>
            ((i.flds.filter (fun f => f.use != .wr)).flatMap (fldCodes false T.width)).any fun c =>
              match regCode (BitVec.ofNat 8 c) with
              | .window k d =>
                match readWindow team e.1 k d s with
                | .error .retry => true
                | _ => false
              | _ => false
          | _ => false
        | _ => false
  | none => false

/-- What is unknown after the access that faults: its own destination; a CAS leaves the second register of its pair as it is
(R164, R249). -/
def aheadUnknown (i : Instr) : List Nat := ((accessOf i).map fun x => x.dest.map (·.toNat)).getD []

/-- Run-ahead after an instruction at which the lane faults, past as many instructions as `past` says it has gone past
already (R249). The front thread does not run ahead, and no thread of a group that is at a chain presence wait does. -/
def State.runAhead (s : State) (i : Instr) (len : Nat) (ln : Lane) (past : Nat) : Ahead :=
  let still : Ahead := { real := s, sim := s, unk := [], done := 0, past := 0, wants := none }
  match ln.who with
  | .front => still
  | .thread t =>
    if s.atPresenceWait ln.team t then still
    else
      match passUnknown ln i len s with
      | .ok (_, sim) => aheadGo ln 256 { still with sim := sim, unk := aheadUnknown i, past := past }
      | .error _ => still

/-- The TRANSLATION trap of a thread whose record has been freed: on its core at once, else when it is resumed (R248). -/
def State.faultTrap (s : State) (team t : Nat) (req : TrapReq) : State :=
  let s := s.modThread team t fun h => { h with wait := none, trap := some req }
  if s.lanePresent ⟨team, .thread t⟩ then (s.takeTrap team t req).endIfCancelled ⟨team, .thread t⟩ else s

/-- The lane runs ahead, its own fault recorded, and then sleeps on that record, or takes its trap where the record has been
freed meanwhile; or it waits for a record for a page that it has found (R248, R249). Log entry 45. -/
def State.aheadThenSleep (s : State) (i : Instr) (len : Nat) (ln : Lane) (past : Nat) (rec_ : Option Nat)
    (req : TrapReq) : State :=
  let a := s.runAhead i len ln past
  match a.wants, rec_, ln.who with
  | some (va, bit), _, _ => a.real.setWait ln (.ahead a.done va bit rec_ req)
  | none, some r, _ => a.real.setWait ln (.record r req)
  | none, none, .thread t => a.real.faultTrap ln.team t req
  | none, none, .front => a.real

/-- The machine after a lane's data access faulted TRANSLATION: its page recorded, those run-ahead finds recorded, and
the lane asleep; or waiting for a free record, with which it does so (R248, R249). -/
def dataPage (i : Instr) (len : Nat) (ln : Lane) (va : Word64) (bit : BitVec 8) (s : State) : State :=
  match s.team? ln.team with
  | some T =>
    let s := s.countIssue ln
    let req := s.pageTrap ln (some i) va none
    match s.recordFault T.ctx va bit with
    | some (s, r) => s.aheadThenSleep i len ln 0 (some r) req
    | none => s.setWait ln (.recordFree va bit req)
  | none => s

/-- Issue an instruction that accesses global memory. -/
def issueMem (i : Instr) (body : Body) (s : State) : Result := issueWith i (dataPage i 4) body s

end Sys2Proof.Machine
end

