-- ==== Sys2Proof/Machine/Events.lean ====
section
/-!
DEFINITION. What the device does to threads and teams between instructions: arriving results (R155), stream elements
(R180), the watchdog (R122), trap entry (R298), the end of a team (R215, R300), chain groups (R126, R133), fault records
(R248, R301), stores reaching memory (R291), FTWAIT.CLK (R219), path ageing (R286), parity (R265, R270, R271) and kills
(R305).
-/

namespace Sys2Proof.Machine

/-- The thread or front thread of a team that is on its core and still issues. -/
def State.present (s : State) (l : Lane) : Bool := s.lanePresent l

/-! ### Results and streams -/

/-- Results that are there are written; what they leave of their window still bars its registers (R67). An element that an
out port has no room for stays, and those of later instructions stay behind it (R254). -/
def arriveGo (l : Lane) (pushes : Bool) : List Pending → M (List Pending)
  | [] => pure []
  | p :: ps => do
    match p.value with
    | .ready vs =>
      if p.dest.any isOutPort != pushes then
        let rest ← arriveGo l pushes ps
        pure (p :: rest)
      else fun s =>
        match landResult l p vs s with
        | .ok (_, s) => (do
            let rest ← arriveGo l pushes ps
            pure (if p.left = 0 then rest else { p with value := .ready [] } :: rest) : M (List Pending)) s
        | .error .retry => .ok (p :: ps, s)
        | .error e => .error e
    | .remote _ =>
      if pushes && p.owed then pure (p :: ps)
      else
        let rest ← arriveGo l pushes ps
        pure (p :: rest)

def arrive (l : Lane) (pushes : Bool) : M Unit := do
  let ps ← pendOf l
  let rest ← arriveGo l pushes ps
  setPend l rest

/-- Run something for a thread outside its instructions: what cannot be done is not done. -/
def State.quietly (s : State) (m : M Unit) : State :=
  match runM m s with
  | .ok (_, s') => s'
  | .error _ => s

/-- Pending results of a thread arrive and are written to their destinations (R155). -/
def execLoadResultReturn (team : Nat) (who : Who) (s_ : State) : Result :=
  .next (if s_.present ⟨team, who⟩ then s_.quietly (arrive ⟨team, who⟩ false) else s_)

/-- A thread of a team that a fault has ended has issued instructions whose elements are still to be pushed. -/
def State.leavesPushes (s : State) (l : Lane) : Bool :=
  match l.who, s.team? l.team with
  | .thread t, some T =>
    T.dying && (T.status == .resident || T.status == .resting) && (T.thread? t).any (fun h => !h.ended)
  | _, _ => false

/-- Elements that a thread has written to out ports are pushed, once there is room (R180), also when its team has been
ended by a fault since (R260). -/
def execStreamPush (team : Nat) (who : Who) (s_ : State) : Result :=
  .next (if s_.present ⟨team, who⟩ || s_.leavesPushes ⟨team, who⟩ then s_.quietly (arrive ⟨team, who⟩ true) else s_)

/-- How many elements of an in port the instruction at a thread's PC reads. -/
def State.portNeed (s : State) (team : Nat) (h : Thread) (p : Bool) : Nat :=
  match runM (fetchAt team h.pc) s with
  | .ok ((_, _, some i), _) => ((portReads i).filter (· == p)).length
  | _ => 0

/-- The thread that stands first in line at an in port takes an element from its ring, and leaves the line when its
instruction has all it reads of the port (R26, R180). -/
def execStreamPop (team : Nat) (who : Who) (port : Bool) (s_ : State) : Result :=
  .next <|
    match who, s_.team? team with
    | .thread t, some T =>
      match T.ring? false port, (T.thread? t).bind (·.ticket? port) with
      | some r, some k =>
        if s_.present ⟨team, who⟩ && !(T.line port).any (fun j => decide (j < k)) && !s_.rcPending team (T.origin who) &&
            (s_.thread? team t).any (fun h => h.wait == some (.port port)) then
          s_.quietly do
            let v ← ringPop team r
            modThread team t fun h => { h with latch := h.latch ++ [(port, v)] }
            let h ← getThread team t
            if (← get).portNeed team h port ≤ h.latched port then
              modThread team t fun h =>
                { h with wait := some .poll, places := h.places.filter (fun e => e.1 != portIx false port) }
            else pure ()
        else s_
      | _, _ => s_
    | _, _ => s_

/-! ### Watchdog and traps -/

/-- The instruction word at a thread's PC, where it can be fetched. -/
def State.wordAt (s : State) (team : Nat) (pc : Word64) : Word :=
  match runM (fetchAt team pc) s with
  | .ok ((w, _, _), _) => w
  | .error _ => 0

/-- A thread that would issue beyond its limit ends its team, once its pending results have arrived (R122, R298, R300). -/
def execWatchdog (team : Nat) (t : Nat) (s_ : State) : Result :=
  .next <|
    match s_.thread? team t with
    | some h =>
      if s_.present ⟨team, .thread t⟩ && h.wait.isNone && h.trap.isNone && !h.parked && s_.watchdogDue ⟨team, .thread t⟩
      then s_.takeTrap team t ⟨Cause.watchdog, 0, h.pc, s_.wordAt team h.pc, none⟩
      else s_
    | none => s_

/-- A trap that waited for its thread's results enters the handler, or ends the team (R298, R300). -/
def execTrapEntry (team : Nat) (t : Nat) (s_ : State) : Result :=
  .next <|
    match s_.thread? team t with
    | some h =>
      match h.trap with
      | some r => if s_.present ⟨team, .thread t⟩ then s_.takeTrap team t r else s_
      | none => s_
    | none => s_

/-! ### The end of a team (R215, R300) -/

/-- Every group has ended, none is still to be created, and the front thread has executed EXIT. -/
def Team.exited (T : Team) : Bool :=
  T.groups.all (fun (e : Nat × Group) => e.2.ended) && T.front.all (·.ended) &&
    T.chain.all fun C => decide (C.trip + C.stages ≤ C.next + 1)

/-- The engines of a team that exited have finished. -/
def Team.enginesDone (T : Team) : Bool := T.copies.isEmpty && T.mx.queue.isEmpty && !T.rshRunning

/-- The engines of a team that a fault ended have finished, or stand still at a page fault or because the core is fenced
(R271, R288, R300). -/
def State.enginesStill (s : State) (T : Team) : Bool :=
  (T.copies.all (fun (e : Nat × Copy) => e.2.sleep.isSome) && T.mx.queue.head?.all (·.sleep.isSome)) || s.coreFenced T.core

/-- Report the remote failures that no FENCE of an ended thread has reported (R166, R301). -/
def State.sweepLost (s : State) (team : Nat) (T : Team) : State :=
  (T.threads.foldl (fun s (e : Nat × Thread) => s.reportLost team (.thread e.1)) s).reportLost team .front

/-- The first element that a thread owes can be pushed, now or once something that does not wait for room has come. -/
def State.canPush (s : State) (l : Lane) (h : Thread) : Bool :=
  (h.pend.find? Pending.owed).any fun p =>
    match p.value with
    | .remote _ => true
    | .ready vs =>
      match s.team? l.team, runM (landResult l p vs) s with
      | some T, .error _ => s.rcStoring l.team (T.origin l.who)
      | some _, .ok _ => true
      | none, _ => false

/-- An element for a ring in a peer's scratchpad that a thread's instruction gave before its team ended, and that has not
been pushed (R184, R260). DESIGN CHOICE (log entry 59): one that finds its ring full when everything else of the team has
come to rest is not waited for. -/
def State.pushesOwed (s : State) (team : Nat) (T : Team) : Bool :=
  T.threads.any fun (e : Nat × Thread) => !e.2.ended && e.2.pend.any (fun p => p.owed && p.via.isSome) &&
    s.canPush ⟨team, .thread e.1⟩ e.2

/-- The same of an element of another team for a ring in this one's scratchpad. -/
def State.pushesInto (s : State) (team : Nat) : Bool :=
  s.teams.any fun (e : Nat × Team) => e.1 != team && e.2.threads.any fun h =>
    !h.2.ended && h.2.pend.any (fun p => p.owed && p.via == some team) && s.canPush ⟨e.1, .thread h.1⟩ h.2

/-- Accesses of other teams are in flight into the scratchpad of a team that ends (R184). -/
def State.peersBusy (s : State) (team : Nat) : Bool :=
  ({ s with teams := SMap.erase team s.teams } : State).windowCopies team s.nextSeq || s.pushesInto team

/-- The record of the fault that ended a team is written, and its launch knows of it (R293, R301). -/
def State.reportEnd (s : State) (T : Team) : State :=
  match T.fault with
  | some r =>
    let s := s.report T.ctx r
    { s with launches := SMap.modify T.launch (fun L => { L with faulted := true }) s.launches }
  | none => s

/-- The team ends: it leaves its wing, its porch commits (R184, R258), its engines are at rest, and the record of a fault
that ended it is written (R300, R301). -/
def State.endTeam (s : State) (team : Nat) : State :=
  match s.team? team with
  | none => s
  | some T =>
    let halt (h : Thread) : Thread := { h with ended := true, wait := none, places := [], trap := none, pend := [] }
    let threads := T.threads.map fun (e : Nat × Thread) => (e.1, halt e.2)
    let front := T.front.map fun f => { f with ended := true, wait := none }
    let T' : Team := { T with threads := threads, front := front, copies := [], mx := { T.mx with queue := [] } }
    let T' : Team := { T' with rsh := { T.rsh with state := if T.rsh.state = 1 then 3 else T.rsh.state, flight := [] } }
    let s := ((s.setTeam team T').sweepLost team T').leaveWing team
    ((s.commitPorch team).reportEnd T).modTeam team fun T =>
      { T with status := .ended, dying := false, fault := none, porchSlot := none }

/-- A team that a fault ended, and whose engines are at rest: it leaves its wing and its porch commits; once the commit has
been performed it is reported ended (R184, R258, R300). -/
def State.endDying (s : State) (team : Nat) (T : Team) : State :=
  if T.revocable && !T.porch.isEmpty then (s.leaveWing team).commitPorch team
  else if s.committing team then s
  else s.endTeam team

/-- A team that has exited, or that a fault has ended, leaves its wing once its engines are at rest, and ends when the accesses
that its peers had in flight into its scratchpad have completed (R184, R215, R300). -/
def execTeamEnd (team : Nat) (s_ : State) : Result :=
  .next <|
    match s_.team? team with
    | none => s_
    | some T =>
      let onCore := T.status == .resident || T.status == .resting
      let rest := if T.dying then s_.enginesStill T && !s_.pushesOwed team T else onCore && T.exited && T.enginesDone
      if !rest then s_
      else if (s_.quitWing team).peersBusy team then s_.quitWing team
      else if T.dying then s_.endDying team T
      else s_.endTeam team

/-! ### Chains -/

/-- The next chain group is created (R126, R127). -/
def execChainGroupCreate (team : Nat) (s_ : State) : Result :=
  .next <|
    match s_.team? team with
    | none => s_
    | some T =>
      match SMap.find? T.launch s_.launches with
      | some L =>
        if T.status == .resident && !T.dying && T.chainDue then s_.modTeam team (·.createBeat L.record) else s_
      | none => s_

/-- A thread that settles goes on, if the value it waits for is there (R133). -/
def execChainSettle (team : Nat) (t : Nat) (s_ : State) : Result :=
  .next <|
    match s_.thread? team t with
    | some h =>
      match h.wait with
      | some (.settle k) =>
        if s_.present ⟨team, .thread t⟩ then (s_.modTeam team (·.exitThread t k)).reportLost team (.thread t) else s_
      | _ => s_
    | none => s_

/-! ### Fault records -/

/-- A thread asleep on the record takes its trap; one that has still to run ahead will do so after that (R248, R249). -/
def State.wakeThread (s : State) (team t : Nat) (rec_ : Nat) : State :=
  match s.thread? team t with
  | some h =>
    match h.wait with
    | some (.record j req) =>
      if j = rec_ then s.faultTrap team t req else s
    | some (.ahead n addr access j req) =>
      if j = some rec_ then s.setWait ⟨team, .thread t⟩ (.ahead n addr access none req) else s
    | _ => s
  | none => s

/-- A front thread asleep on the record traps, which ends its team (R214, R248). -/
def State.wakeFront (s : State) (team : Nat) (rec_ : Nat) : State :=
  match (s.team? team).bind (·.front) with
  | some f =>
    match f.wait with
    | some (.record j req) =>
      if j = rec_ then
        (s.modFront team fun f => { f with wait := none }).endByFault team .front req.cause req.word req.tpc req.addr
      else s
    | _ => s
  | none => s

/-- Everything of a team that sleeps on the record is woken; engines try their access again (R177, R250). -/
def State.wakeTeam (s : State) (team : Nat) (T : Team) (rec_ : Nat) : State :=
  let s := T.threads.foldl (fun s (e : Nat × Thread) => s.wakeThread team e.1 rec_) s
  let s := s.wakeFront team rec_
  s.modTeam team fun T =>
    let wake (C : Copy) : Copy := if C.sleep = some (.on rec_) then { C with sleep := none } else C
    let wakeMx (c : MxCmd) : MxCmd := if c.sleep = some (.on rec_) then { c with sleep := none } else c
    { T with copies := T.copies.map fun (e : Nat × Copy) => (e.1, wake e.2),
             mx := { T.mx with queue := T.mx.queue.map wakeMx } }

/-- System software has freed a record: every agent asleep on it is woken (R248). -/
def execFaultRecordWake (ctx : Nat) (rec_ : Nat) (s_ : State) : Result :=
  .next <|
    if s_.recordState ctx rec_ = 0 then
      (s_.teams.filter fun (e : Nat × Team) => e.2.ctx == ctx).foldl
        (fun s (e : Nat × Team) => s.wakeTeam e.1 e.2 rec_) s_
    else s_

/-- A lane that waited for a free record has its fault recorded; a data access then runs ahead, or runs on; and the lane
sleeps (R248, R249). -/
def State.recordWaiting (s : State) (ctx : Nat) (l : Lane) (w : Option Wait) : Option State :=
  match w with
  | some (.recordFree addr access req) =>
    (s.recordFault ctx addr access).map fun r =>
      match req.instr.filter fun i => (accessOf i).isSome with
      | some i => r.1.aheadThenSleep i 4 l 0 (some r.2) req
      | none => r.1.setWait l (.record r.2 req)
  | some (.ahead n addr access rec_ req) =>
    match req.instr, s.recordFault ctx addr access with
    | some i, some r => some (r.1.aheadThenSleep i 4 l (n + 1) rec_ req)
    | _, _ => none
  | _ => none

/-- The same for an engine of a team (R250): a copy or a transfer of the matrix unit sleeps on its record, MX.ISSUE and a
re-shard operation stop. -/
def State.recordEngine (s : State) (team : Nat) (T : Team) : Option State :=
  (T.copies.findSome? fun (e : Nat × Copy) =>
    match e.2.sleep with
    | some (.free a) => (s.recordFault T.ctx a accEngine).map fun (r : State × Nat) => r.1.modTeam team fun T =>
        { T with copies := SMap.modify e.1 (fun C => { C with sleep := some (.on r.2) }) T.copies }
    | _ => none).or <|
  (match T.mx.queue.head? with
    | some c =>
      match c.sleep with
      | some (.free a) =>
        (s.recordFault T.ctx a accEngine).map fun (r : State × Nat) => r.1.modTeam team (·.mxRecorded c r.2)
      | _ => none
    | none => none).or <|
  match T.rsh.sleep with
  | some (.free a) => (s.recordFault T.ctx a accEngine).map fun (r : State × Nat) => r.1.rshStop team
  | _ => none

/-- The first thread, front thread or engine of a context that waits for a fault record, once it has one. -/
def State.recordWaiter (s : State) (ctx : Nat) : Option State :=
  s.teams.findSome? fun (e : Nat × Team) =>
    let T := e.2
    if T.ctx != ctx || T.dying || T.status == .ended then none
    else
      (T.threads.findSome? fun (h : Nat × Thread) =>
        s.recordWaiting ctx ⟨e.1, .thread h.1⟩ h.2.wait).or <|
      (T.front.bind fun f => s.recordWaiting ctx ⟨e.1, .front⟩ f.wait).or (s.recordEngine e.1 T)

/-- A fault record is taken: by the oldest record of types 2 to 6 that waits, in the lowest free one (R301), or by a
TRANSLATION fault that found none free (R248). -/
def State.takeFaultRecord (s : State) (ctx : Nat) : Option State :=
  match (s.ctx ctx).reports, s.freeRecord ctx with
  | r :: rs, some i => some ((s.setCtx ctx { s.ctx ctx with reports := rs }).takeRecord ctx i 0 0 r.type 0 r.detail)
  | _, _ => s.recordWaiter ctx

/-! ### Stores, waits on CLOCK, paths -/

/-- The k-th pending store of a team is performed and acknowledged, if nothing orders it after an older one (R254, R291); with
it a row of a re-shard operation may have landed (R232). -/
def execStoreAcknowledgement (team : Nat) (k : Nat) (s_ : State) : Result :=
  .next <|
    let mine := s_.stores.filter fun w => w.team == team
    match mine[k]? with
    | some w =>
      if (mine.take k).all (s_.mayPass w) then
        -- the k-th of the team's stores leaves the queue
        let at_ := ((s_.stores.zipIdx.filter fun x => x.1.team == team).map (·.2)).getD k 0
        (({ s_ with stores := s_.stores.eraseIdx at_ } : State).performStore w).rshSettle team
      else s_
    | none => s_

/-- CLOCK has reached what the front thread waits for at FTWAIT.CLK (R219). -/
def execClockWaitExpiry (team : Nat) (s_ : State) : Result :=
  .next <|
    match (s_.team? team).bind (·.front) with
    | some f =>
      match runM (do pure ((← fetchAt team f.pc).2.2, ← clockOf team)) s_ with
      | .ok ((some (.ftwaitClk a), clock), _) =>
        if s_.present ⟨team, .front⟩ && f.wait == some .poll && decide ((f.reg a.toNat).toNat ≤ clock) then
          s_.modFront team (·.advance 4)
        else s_
      | _ => s_
    | none => s_

/-- A thread has an instruction to issue: it is in no wait that something else ends (R285). -/
def Thread.ready (h : Thread) : Bool :=
  !h.ended && !h.parked && h.trap.isNone &&
    match h.wait with
    | none => true
    | some .poll => true
    | some (.broken _) => true
    | some (.kill _) => true
    | some (.mx _) => true
    | some (.leave _) => true
    | some (.push _ _) => true
    | some (.port _) => true
    | some (.outPort _) => true
    | _ => false

/-- The ready threads of a group at one PC (R286). -/
def Team.path (T : Team) (g : Nat) (pc : Word64) : List Nat :=
  ((T.members g).filter fun (e : Nat × Thread) => e.2.ready && e.2.pc == pc).map fun (e : Nat × Thread) => e.1

/-- Clocks for which a thread has been ready without issuing. -/
def Team.threadAge (T : Team) (clock t : Nat) : Nat :=
  match SMap.find? t T.ages with
  | some c => clock - c
  | none => 0

/-- Clocks for which a path has been ready without issuing: those of the thread that has waited longest (R286). -/
def Team.ageOf (T : Team) (clock g : Nat) (pc : Word64) : Nat :=
  (T.path g pc).foldl (fun n t => max n (T.threadAge clock t)) 0

/-- The paths of a team that are ready, each once. -/
def Team.paths (T : Team) : List (Nat × Word64) :=
  ((T.threads.filter fun (e : Nat × Thread) => e.2.ready).map fun (e : Nat × Thread) => (T.groupIx e.1, e.2.pc)).eraseDups

/-- The ageing counts at a clock: a thread counts on while it stays ready, and one that becomes ready begins (R286). -/
def Team.age (T : Team) (clock : Nat) (ready : Nat × Thread → Bool) : Team :=
  { T with ages := (T.threads.filter ready).map fun (e : Nat × Thread) => (e.1, clock - T.threadAge clock e.1) }

/-- The ageing counts of the threads that a bundle issues restart (R286). -/
def Team.issued (T : Team) (ts : List Nat) : Team :=
  { T with ages := T.ages.filter fun (a : Nat × Nat) => !ts.contains a.1 }

/-- A path that has been ready for 1024 clocks without issuing is served next (R286). -/
def execPathAgeing (team : Nat) (group : Nat) (pc : Word64) (s_ : State) : Result :=
  .next <|
    match s_.team? team with
    | none => s_
    | some T =>
      if s_.running team && !(T.path group pc).isEmpty && decide (1024 ≤ T.ageOf s_.clock group pc) then
        { s_ with agenda := .bundle team (T.path group pc) :: s_.agenda }
      else s_

/-! ### Parity -/

/-- Fence a core whose failure no team met (R271). -/
def State.fenceBare (s : State) (core : Nat) : State := s.fenceCore none core Cause.reconstruction 0

/-- The oldest parity update of a core lands; the fourth bad parity word of a bank fences the core (R265, R271). -/
def execParityUpdateLand (core : Nat) (s_ : State) : Result :=
  .next <|
    let s := if (s_.core core).queue.isEmpty then s_ else s_.setCore core (s_.core core).land
    if (s.core core).parityFailed then s.fenceBare core else s

/-- A bank that is to be retired is retired once no row of its group is stale; in a degraded group another bank's failure
fences the core (R270, R271). -/
def execBankRetire (core : Nat) (bank : Nat) (s_ : State) : Result :=
  .next <|
    let c := s_.core core
    if !c.toRetire.contains bank then s_
    else
      let rest := c.toRetire.filter (· != bank)
      match SMap.find? (bank / 4) c.retired with
      | some b =>
        let s := s_.setCore core { c with toRetire := rest }
        if b = bank then s else s.fenceBare core
      | none =>
        if c.queue.any (fun u => u.1 == bank / 4) then s_
        else s_.setCore core { c with toRetire := rest, retired := SMap.insert (bank / 4) bank c.retired }

/-! ### Kills -/

/-- Every request of a killed context has been answered: kill-complete (R305). -/
def execKillComplete (ctx : Nat) (s_ : State) : Result :=
  .next <|
    let x := s_.ctx ctx
    if s_.stores.any (fun w => w.ctx == ctx) || s_.remotes.any (fun (e : Nat × Remote) => e.2.ctx == ctx) then s_
    else
      x.killedBy.foldl (fun s i => s.setCtx i { s.ctx i with killBusy := false, killDone := true })
        (s_.setCtx ctx { x with killedBy := [] })

end Sys2Proof.Machine
end

