-- ==== Sys2Proof/Machine/Fabric.lean ====
section
/-!
DEFINITION. The Zhebor fabric (R308–R313): what an answer to a remote request does to the agent that sent it, requests of
other devices, budgets, pauses and port failures.
-/

namespace Sys2Proof.Machine

/-! ### Answers to this device's requests (R162, R166, R309) -/

/-- Bytes of an answer, as many as were asked for. -/
def padTo (n : Nat) (bs : List Byte) : List Byte := (List.range n).map fun i => bs.getD i 0

/-- A load, or the record of an FTLAUNCH, has all its bytes: the instruction goes on. -/
def finishLoad (l : Lane) (i : Instr) (bs : List Byte) : M Unit :=
  match i with
  | .ld d _ n s _ => do
    loaded l d s n.toNat bs
    complete l 4 none
  | .ftlaunch d _ => do
    let next ← submitRecord l d bs
    complete l 4 next
  | _ => pure ()

/-- Run the end of an instruction that was waiting: what it does before it waits again is kept. -/
def State.goOn (s : State) (m : M Unit) : State :=
  match runM m s with
  | .ok (_, s') => s'
  | .error (.hold s') => s'
  | .error _ => s

/-- What a lane waits for. -/
def State.waitAt (s : State) (l : Lane) : Option Wait :=
  match l.who with
  | .front => ((s.team? l.team).bind (·.front)).bind (·.wait)
  | .thread t => (s.thread? l.team t).bind (·.wait)

def State.setWaitAt (s : State) (l : Lane) (w : Option Wait) : State :=
  match l.who with
  | .front => s.modFront l.team fun f => { f with wait := w }
  | .thread t => s.modThread l.team t fun h => { h with wait := w }

/-- A thread's load traps at itself, REMOTE_ACCESS or UNCORRECTABLE (R161, R162); a front thread's ends its team, or it
consumes the word (R214, R303). -/
def State.loadFails (s : State) (l : Lane) (i : Instr) (word : Word) (cause : BitVec 8) (addr : Word64) : State :=
  match l.who with
  | .thread t =>
    match s.thread? l.team t with
    | some h => (s.countIssue l).takeTrap l.team t ⟨cause, addr, h.pc, word, some i⟩
    | none => s
  | .front =>
    match (s.team? l.team).bind (·.front) with
    | some f =>
      if cause = Cause.uncorrectable then s.consume l.team .front cause word f.pc addr
      else s.endByFault l.team .front cause word f.pc addr
    | none => s

/-- The answer to a part of a load. -/
def State.answerLoad (s : State) (id : Nat) (r : Remote) (n : Nat) (a : RemoteAnswer) : State :=
  let l : Lane := ⟨r.team, r.origin.who⟩
  match s.waitAt l with
  | some (.load i word addr parts) =>
    if !parts.contains (.asked id) then s
    else
      match a with
      | .performed bs =>
        let parts := parts.map (LoadPart.answer id (padTo n bs))
        match partsReady parts, partsBad parts with
        | some _, some bad => s.loadFails l i word Cause.uncorrectable bad
        | some bs, none => (s.setWaitAt l none).goOn (finishLoad l i bs)
        | none, _ => s.setWaitAt l (some (.load i word addr parts))
      | _ => s.loadFails l i word Cause.remoteAccess addr
  | _ => s

/-- The first failure of a remote store or atomic is kept for the thread's FENCE (R166), or reported when the thread has
ended (R301). -/
def State.noteFailure (s : State) (l : Lane) (addr : Word64) : State :=
  let keep (o : Option Word64) : Option Word64 := some (o.getD addr)
  (match l.who with
    | .front => s.modFront l.team fun f => { f with remoteFail := keep f.remoteFail }
    | .thread t => s.modThread l.team t fun h => { h with remoteFail := keep h.remoteFail }).reportLost l.team l.who

/-- A pending atomic result is there. -/
def Pending.answered (id : Nat) (vals : List (BitVec 8) → List Word64) (p : Pending) : Pending :=
  if p.value = .remote id then { p with value := .ready (vals p.dest) } else p

/-- The values that an atomic delivers, zeros when it failed (R162, R164). -/
def atomVals (front : Bool) (op : BitVec 3) (x : Word64) (a : RemoteAnswer) (dest : List (BitVec 8)) : List Word64 :=
  let o := AtomOp.ofCode op
  match a with
  | .performed bs => (o.result ⟨0, if front then .front else .thread 0⟩ 0 (BitVec.ofNat 64 (leNat (padTo o.bytes bs))) x).2
  | _ => dest.map fun _ => 0

/-- The answer to an atomic. -/
def State.answerAtomic (s : State) (id : Nat) (r : Remote) (op : BitVec 3) (x : Word64) (a : RemoteAnswer) : State :=
  match r.origin.who with
  | .front => s.modFront r.team fun f => { f with pend := f.pend.map (Pending.answered id (atomVals true op x a)) }
  | .thread t =>
    s.modThread r.team t fun h => { h with pend := h.pend.map (Pending.answered id (atomVals false op x a)) }

/-- The answer reaches a copy: a part of its source, or a write of its destination. -/
def State.answerCopy (s : State) (id : Nat) (r : Remote) (n : Nat) (a : RemoteAnswer) : State :=
  match s.team? r.team with
  | none => s
  | some T =>
    let hit (e : Nat × Copy) : Bool := e.2.parts.contains (.asked id) || e.2.out.contains id
    match List.find? hit T.copies with
    | none => s
    | some (k, C) =>
      match a with
      | .performed bs =>
        let C' : Copy := { C with parts := C.parts.map (LoadPart.answer id (padTo n bs)) }
        let C' : Copy := { C' with out := C.out.filter (· != id) }
        let s := s.setTeam r.team { T with copies := SMap.insert k C' T.copies }
        if C.out.contains id && C'.out.isEmpty then s.goOn (landPiece r.team k C' C'.piece.bytes) else s
      | _ => (s.sealOrigin r.team C.origin).abandonCopy r.team k C Cause.remoteAccess r.addr

/-- The answer reaches the matrix command at the head of the team's queue. -/
def State.answerMx (s : State) (id : Nat) (r : Remote) (n : Nat) (a : RemoteAnswer) : State :=
  match (s.team? r.team).bind (·.mx.queue.head?) with
  | none => s
  | some c =>
    if !c.parts.contains (.asked id) && !c.out.contains id then s
    else
      match a with
      | .performed bs =>
        let c' : MxCmd := { c with parts := c.parts.map (LoadPart.answer id (padTo n bs)) }
        let c' : MxCmd := { c' with out := c.out.filter (· != id) }
        let s := s.modTeam r.team fun T => { T with mx := T.mx.head fun _ => c' }
        if c.out.contains id && c'.out.isEmpty then
          s.goOn (mxLand r.team c' [])
        else s
      | _ => (s.sealOrigin r.team c.origin).mxAbandon r.team c Cause.remoteAccess r.addr

def RemoteAnswer.ok : RemoteAnswer → Bool
  | .performed _ => true
  | _ => false

/-- An answer of a request reaches its agent; a request of a killed context only ends (R305). -/
def State.answerRemote (s : State) (id : Nat) (a : RemoteAnswer) : State :=
  match SMap.find? id s.remotes with
  | none => s
  | some r =>
    let s : State := { s with remotes := SMap.erase id s.remotes }
    let n := match r.op with
      | .load n => n
      | _ => 0
    if r.agent = 5 ∨ r.agent = 6 then
      if RemoteAnswer.ok a then s.completionInterrupt r.ctx r.addr
      else s.completionLost r.ctx r.agent Cause.remoteAccess r.addr
    else if !(s.ctx r.ctx).live then s
    else if r.agent = 2 then s.answerCopy id r n a
    else if r.agent = 3 then s.answerMx id r n a
    else
      let l : Lane := ⟨r.team, r.origin.who⟩
      match r.op with
      | .load n => s.answerLoad id r n a
      | .store _ => if RemoteAnswer.ok a then s else s.noteFailure l r.addr
      | .atomic op x =>
        let s := s.answerAtomic id r op x a
        if RemoteAnswer.ok a then s else s.noteFailure l r.addr

/-- An acknowledgement, a refusal or an expiry reaches the initiator (R309); a request that has not left the device has no
answer. -/
def execRemoteAnswer (id : Nat) (answer : RemoteAnswer) (s_ : State) : Result :=
  .next (if (SMap.find? id s_.remotes).any (·.sent) then s_.answerRemote id answer else s_)

/-- What holding a request from a clock on has cost its budget, in units of 64 clocks rounded up (R310). -/
def State.heldFor (s : State) (since : Nat) : Nat := (s.clock - since + 63) / 64

/-- A budget that holding a request has used up. -/
def State.spent (s : State) (budget : BitVec 24) (since : Nat) : Bool := decide (budget.toNat ≤ s.heldFor since)

/-- The answer goes back to the initiating device; a refusal is counted in INFAULT (R349). -/
def State.answer (s : State) (dev : Nat) (a : RemoteAnswer) : State :=
  let s : State := { s with answers := s.answers ++ [(dev, a)] }
  match a with
  | .refused => { s with mgmt := { s.mgmt with infault := s.mgmt.infault + 1 } }
  | _ => s

/-- A request held here, of this device or of another, runs out of its budget, is discarded and answered as expired
(R310). -/
def execRequestBudgetExpiry (id : Nat) (s_ : State) : Result :=
  .next <|
    match SMap.find? id s_.remotes, SMap.find? id s_.inbound with
    | some r, _ => if !r.sent && s_.spent r.budget r.since then s_.answerRemote id .expired else s_
    | none, some q =>
      if s_.spent q.req.budget q.since then
        ({ s_ with inbound := SMap.erase id s_.inbound } : State).answer q.req.dev.toNat .expired
      else s_
    | none, none => s_

/-! ### Requests of other devices (R312, R313) -/

/-- Bytes that a request's parts read, from memory or the management registers. -/
def partsBytes (s : State) (ps : List Part) : List Byte :=
  ps.flatMap fun p => match p.target with
    | .phys pa => (List.range p.len).map fun i => s.physByte (pa + i)
    | .remote _ => []

/-- Write bytes to the parts of a request, in order. -/
def writePartsNow : List Part → List Byte → State → State
  | [], _, s => s
  | p :: ps, bs, s =>
    writePartsNow ps (bs.drop p.len) (match p.target with
      | .phys pa => s.writePhys pa (bs.take p.len) 0
      | .remote _ => s)

/-- Bytes, and permissions and access bit, of a request. -/
def opSize : InboundOp → Nat
  | .load n => n
  | .store bs => bs.length
  | .atomic op _ => (AtomOp.ofCode op).bytes

def opNeeds : InboundOp → Need
  | .load _ => ⟨true, false, false⟩
  | .store _ => ⟨false, true, false⟩
  | .atomic _ _ => ⟨true, true, false⟩

def opBit : InboundOp → BitVec 8
  | .load _ => accLoad
  | .store _ => accStore
  | .atomic _ _ => accAtomic

/-- The HBM stack that holds a physical address (R238). -/
def hbmStack (pa : Nat) : Nat := pa / 4096 % 8

/-- Clocks for which one alert holds a bank at most (R242). -/
def alertHold : Nat := 512

/-- A part lies in a bank of HBM that refresh management holds (R238, R242, log entry 60). -/
def State.bankHeld (s : State) (p : Part) : Bool :=
  match p.target with
  | .phys pa =>
    decide (pa < hbmEnd) && s.heldBanks.any fun b =>
      b.1 == hbmStack pa && b.2.1 == Config.bankAt pa && decide (s.clock < b.2.2 + alertHold)
  | .remote _ => false

/-- One inbound access: the bytes it reads. While a bank that it needs is held it waits, with nothing done. -/
def serveRequest (req : InboundRequest) : M (List Byte) := do
  let n := opSize req.op
  match req.op with
  | .atomic _ _ => aligned req.addr.toNat n
  | _ => pure ()
  let ps ← checkGlobal req.ctx.toNat req.addr.toNat n (opNeeds req.op) (opBit req.op)
  check (!ps.any Part.isRemote) Cause.remoteAccess
  if ps.any (← get).bankHeld then hold else pure ()
  if (opNeeds req.op).r then checkWords none ps else pure ()
  match req.op with
  | .load _ => do pure (partsBytes (← get) ps)
  | .store bs => do
    modify (writePartsNow ps bs)
    pure []
  | .atomic op x => do
    let o := AtomOp.ofCode op
    let old := partsBytes (← get) ps
    match o.new (BitVec.ofNat 64 (leNat old)) x with
    | some v => modify (writePartsNow ps (leBytes o.bytes v.toNat))
    | none => pure ()
    pure old

/-- A TRANSLATION fault of a request is recorded without a sleeper, and the request is refused (R313); while no record is
free it waits for one (R248). -/
def State.refuseRecorded (s : State) (req : InboundRequest) (a : Word64) : Except (Option Word64) State :=
  match s.recordFault req.ctx.toNat a (opBit req.op) with
  | some r => .ok (r.1.answer req.dev.toNat .refused)
  | none => .error (some a)

/-- A request of another device is performed or refused (R312, R313), or has to wait: for its bank, or for a fault record
to be free for the fault `wants?` that it has met. -/
def State.tryInbound (s : State) (req : InboundRequest) (wants? : Option Word64) : Except (Option Word64) State :=
  let dev := req.dev.toNat
  if !(s.ctx req.ctx.toNat).live || s.fencedCtxs.contains req.ctx.toNat then .ok (s.answer dev .refused)
  else
    match wants? with
    | some a => s.refuseRecorded req a
    | none =>
      match runM (serveRequest req) s with
      | .ok (bs, s) => .ok (s.answer dev (.performed bs))
      | .error (.page a _) => s.refuseRecorded req a
      | .error .retry => .error none
      | .error _ => .ok (s.answer dev .refused)

/-- A request arrives from another device; before ready the links are idle (R345). It follows the requests of the same
device that wait here (R312), and one that comes with no budget left is discarded (R310). -/
def execInboundRemoteRequest (req : InboundRequest) (s_ : State) : Result :=
  .next <|
    let wait (w : Option Word64) : State :=
      { s_ with inbound := SMap.insert s_.nextRemote { req := req, since := s_.clock, wants := w } s_.inbound,
                nextRemote := s_.nextRemote + 1 }
    if !s_.mgmt.ready then s_
    else if req.budget = 0 then s_.answer req.dev.toNat .expired
    else if s_.inbound.any (fun (e : Nat × Inbound) => e.2.req.dev == req.dev) then wait none
    else
      match s_.tryInbound req none with
      | .ok s => s
      | .error w => wait w

/-- The requests that wait here are tried again, in the order in which they came; one behind another of its device that
still waits goes on waiting, and one whose budget is used up is discarded (R310). -/
def State.serveInbound (s : State) : State :=
  s.inbound.foldl (fun s (e : Nat × Inbound) =>
    let req := e.2.req
    let gone : State := { s with inbound := SMap.erase e.1 s.inbound }
    if s.inbound.any fun (x : Nat × Inbound) => decide (x.1 < e.1) && x.2.req.dev == req.dev then s
    else if s.spent req.budget e.2.since then gone.answer req.dev.toNat .expired
    else
      match gone.tryInbound req e.2.wants with
      | .ok s => s
      | .error w => { s with inbound := SMap.modify e.1 (fun q => { q with wants := w }) s.inbound }) s

/-- A fault record is taken by what waits for one; a request of another device that found none free tries again (R248,
R301, R313). -/
def execFaultRecordTake (ctx : Nat) (s_ : State) : Result := .next ((s_.takeFaultRecord ctx).getD s_.serveInbound)

/-! ### Links -/

def State.modPort (s : State) (p : Nat) (f : Port → Port) : State :=
  if p < 18 then { s with ports := SMap.insert p (f (SMap.getD s.ports p .fresh)) s.ports } else s

/-- The receiver of a port's pushes sends pause, and the port holds them (R311). -/
def execLinkPause (port : Nat) (s_ : State) : Result := .next (s_.modPort port fun p => { p with paused := true })

/-- The receiver sends resume: the port sends the requests that it holds, at the cost of the time for which it held them;
one whose budget is used up is discarded (R310, R311). -/
def execLinkResume (port : Nat) (s_ : State) : Result :=
  .next <|
    let s := s_.modPort port fun p => { p with paused := false }
    (s_.remotes.filter fun (e : Nat × Remote) => e.2.port == port && !e.2.sent && decide (port < 18)).foldl
      (fun s (e : Nat × Remote) =>
        if s.spent e.2.budget e.2.since then s.answerRemote e.1 .expired
        else
          let left := e.2.budget - BitVec.ofNat 24 (s.heldFor e.2.since)
          { s with remotes := SMap.modify e.1 (fun r => { r with sent := true, budget := left }) s.remotes }) s

/-- A port fails: each request it holds is answered as expired, and no later one uses it (R308). -/
def execPortFailure (port : Nat) (s_ : State) : Result :=
  .next <|
    if 18 ≤ port then s_
    else
      let s := s_.modPort port fun p => { p with failed := true }
      (s_.remotes.filter fun (e : Nat × Remote) => e.2.port == port && !e.2.sent).foldl
        (fun s (e : Nat × Remote) => s.answerRemote e.1 .expired) s

/-- A flit that failed its check is sent again by the link, and nothing comes of it (R308). -/
def execLinkRetransmission (_port : Nat) (s_ : State) : Result := .next s_

end Sys2Proof.Machine
end

