-- ==== Sys2Proof/Machine/Collective.lean ====
section
/-!
DEFINITION. The collective engine (R316–R323): publication and checks of descriptors, chunks, and completion.
-/

namespace Sys2Proof.Machine

/-! ### The descriptor (R317) -/

structure Coll where
  op : Nat
  type : Nat
  flags : Nat
  tag : Nat
  count : Nat
  size : Nat
  devbase : Nat
  devstride : Nat
  root : Nat
  send : Nat
  recv : Nat
  done : Word64
  rsv : Nat
  deriving DecidableEq, Repr

def Coll.of (d : List Byte) : Coll :=
  { op := fieldN d 0 1, type := fieldN d 1 1, flags := fieldN d 2 1, tag := fieldN d 4 4, count := fieldN d 8 4,
    size := fieldN d 12 4, devbase := fieldN d 16 4, devstride := fieldN d 20 4, root := fieldN d 24 4,
    send := fieldN d 32 8, recv := fieldN d 40 8, done := BitVec.ofNat 64 (fieldN d 48 8),
    rsv := fieldN d 3 1 + fieldN d 28 4 + fieldN d 56 8 }

namespace Coll

/-- Bytes of an element. -/
def e (c : Coll) : Nat := if c.type = 1 ∨ c.type = 2 then 2 else 4
def skips (c : Coll) : Bool := c.flags % 2 == 1
/-- 0 sum, 1 maximum, 2 minimum. -/
def red (c : Coll) : Nat := c.flags / 2 % 4

/-- Bytes of one block, and of the receive buffer (R318). -/
def block (c : Coll) : Nat := c.count * c.e
def total (c : Coll) : Nat := if c.op = 2 then c.size * c.block else c.block

/-- This device's member index. -/
def member? (c : Coll) (dev : Nat) : Option Nat :=
  if dev < c.devbase then none
  else if c.devstride = 0 then (if dev = c.devbase ∧ 0 < c.size then some 0 else none)
  else if (dev - c.devbase) % c.devstride = 0 ∧ (dev - c.devbase) / c.devstride < c.size then
    some ((dev - c.devbase) / c.devstride)
  else none

/-- The descriptor keeps the limits of its table, every member is a device, this one is among them, and the root is a
member (R317). R7 does not name this structure, and its table has the reserved bytes zero. -/
def ok (c : Coll) (dev : Nat) : Bool :=
  decide (c.op ≤ 3) && decide (c.type ≤ 3) && decide (c.flags < 8) && decide (c.red ≤ 2) && decide (1 ≤ c.count) &&
    decide (1 ≤ c.size) && decide (c.size ≤ 131072) && decide (c.devbase + (c.size - 1) * c.devstride ≤ 131071) &&
    (c.member? dev).isSome && decide (c.root < c.size) && c.send % c.e == 0 && c.recv % c.e == 0 && c.done.toNat % 8 == 0 &&
    c.rsv == 0

end Coll

/-! ### Publication (R316, R317) -/

/-- The completion word of a collective (R322). -/
def State.collectiveWord (s : State) (ctx : Nat) (c : Coll) (status : Nat) (nonfinite : Bool) : State :=
  s.writeCompletion ctx 0 6 c.done (status + if nonfinite then 256 else 0)

/-- A descriptor has been read: it becomes the collective of its number in the order of the doorbell stores, or is refused
with status 3 (R317, R321). -/
def State.addCollective (s : State) (ctx : Nat) (d : List Byte) (number : Nat) (prio : BitVec 8) : State :=
  let c := Coll.of d
  let twin := s.collectives.any fun (e : Nat × Collective) => e.2.ctx == ctx && (Coll.of e.2.desc).tag == c.tag
  if !c.ok s.mgmt.devid.toNat || twin then s.collectiveWord ctx c 3 false
  else
    let x : Collective :=
      { ctx := ctx, desc := d, priority := prio, chunk := 0, nonfinite := false, failed := false, out := [], wants := none }
    { s with collectives := SMap.insert number x s.collectives }

/-- Take the entry at a queue's head; one that is misaligned, cannot be read, or belongs to a context that is not live is
dropped. A TRANSLATION fault of its read is recorded; while no record is free the queue waits for one, which is then used
whatever has become of the page (R248, R250). -/
def State.takeCollective (s : State) (q : Nat) (Q : Queue) : State :=
  let s' : State := { s with cqs := SMap.insert q Q.next s.cqs }
  let recorded (a : Word64) : State :=
    match s'.recordFault Q.ctx a accEngine with
    | some r => r.1
    | none => { s with cqs := SMap.insert q { Q with wants := some a } s.cqs }
  match Q.entry? s, (s.ctx Q.ctx).live with
  | some va, true =>
    if va.toNat % 64 ≠ 0 then s'
    else
      match Q.wants with
      | some a => recorded a
      | none =>
        let n := Q.prios.headD (s.nextCollective, 0)
        match runM (sysRead Q.ctx va 64) s' with
        | .ok (d, s') => s'.addCollective Q.ctx d n.1 n.2
        | .error (.page a _) => recorded a
        | .error _ => s'
  | _, _ => s'

/-- A queue has a published entry, and waits for no fault record. -/
def State.queueMoves (s : State) (Q : Queue) : Bool :=
  Q.enabled && Q.head != Q.tail &&
    Q.wants.all fun a => !(s.ctx Q.ctx).live || (s.recordFault Q.ctx a accEngine).isSome

/-- The collective queue whose head was published first (R321). -/
def State.nextPublished (s : State) : Option (Nat × Queue) :=
  let number (e : Nat × Queue) : Nat := (e.2.prios.headD (0, 0)).1
  (sortBy (fun a b => decide (number a ≤ number b)) (s.cqs.filter fun e => s.queueMoves e.2)).head?

/-- Take published entries, in the order of the doorbell stores that published them. -/
def State.takeEntries (s : State) : Nat → State
  | 0 => s
  | n + 1 =>
    match s.nextPublished with
    | some (q, Q) => (s.takeCollective q Q).takeEntries n
    | none => s

/-- Entries that are published and not yet taken. -/
def State.published (s : State) : Nat := (s.cqs.map fun e => (e.2.tail - e.2.head).toNat).foldl (· + ·) 0

/-- The engine acts on every write that has reached a doorbell word: it takes what is published (R315, R316). -/
def State.takePublished (s : State) : State := s.takeEntries (s.published + s.cqs.length)

/-- The host writes a collective queue's doorbell through BAR0, and the engine takes up what it publishes (R315); a store
of a device to it is taken up where it is performed. -/
def execCollectiveDoorbell (q : Nat) (tail : BitVec 32) (s_ : State) : Result :=
  .next <|
    if s_.mgmt.ready && decide (q < 16) then
      (s_.writePhys (s_.mgmt.doorbase.toNat + 8 * (64 + q)) (leBytes 8 tail.toNat) 0).takePublished
    else s_

/-! ### Arithmetic (R319, R320) -/

/-- The format of a floating-point type. -/
def Coll.fmt (c : Coll) : Ieee := if c.type = 1 then bf16 else if c.type = 2 then fp16 else fp32

/-- An element as the engine holds it: binary32, or 32 bits. -/
def Coll.load (c : Coll) (bs : List Byte) (i : Nat) : Word :=
  let v := fieldN bs (i * c.e) c.e
  if c.type = 3 then BitVec.ofNat 32 v else BitVec.ofNat 32 (fp32.ofV .rne fp32.nanBits (c.fmt.value v))

/-- NaN or infinity; an integer is neither. -/
def Coll.wild (c : Coll) (v : Word) : Bool := c.type != 3 && decide (fp32.infCode ≤ fp32.mag v.toNat)

def Coll.combine (c : Coll) (a b : Word) : Word :=
  if c.type = 3 then (if c.red = 0 then a + b else if c.red = 1 then (if a.slt b then b else a) else if b.slt a then b else a)
  else if c.red = 0 then add32 a b
  else BitVec.ofNat 32 (fp32.minMax (c.red == 1) false a.toNat b.toNat)

/-- The final value, rounded once to the type. -/
def Coll.store (c : Coll) (v : Word) : List Byte :=
  if c.type = 3 then leBytes 4 v.toNat
  else leBytes c.e (c.fmt.ofV .rne c.fmt.nanBits (fp32.value v.toNat))

/-- Fold contributions in order: the value, and whether any contribution or partial value was NaN or infinite. -/
def Coll.reduceAll (c : Coll) : List Word → Word × Bool
  | [] => (0, false)
  | v :: vs => vs.foldl (fun r x => let y := c.combine r.1 x; (y, r.2 || c.wild x || c.wild y)) (v, c.wild v)

/-! ### Chunks (R321) -/

/-- The runs of receive bytes [lo, lo + n) that an all-gather takes from member k. -/
def Coll.gatherRun (c : Coll) (lo n k : Nat) : Nat × Nat :=
  let a := max lo (k * c.block)
  let b := min (lo + n) ((k + 1) * c.block)
  (a - k * c.block, b - a)

/-- Bytes of this device's send buffer that go into a chunk: where they start and how many. -/
def Coll.ownRun (c : Coll) (r lo n : Nat) : Nat × Nat :=
  match c.op with
  | 0 => (lo, n)
  | 1 => (r * c.block + lo, n)
  | 2 => c.gatherRun lo n r
  | _ => if r = c.root then (lo, n) else (0, 0)

/-- The runs of this device's send buffer that other members take for a chunk: of a reduce-scatter, the other blocks. They
are part of its contribution to the non-finite flag (R320). -/
def Coll.otherRuns (c : Coll) (r lo n : Nat) : List (Nat × Nat) :=
  if c.op = 1 then ((List.range c.size).filter (· != r)).map fun k => (k * c.block + lo, n) else []

/-- Write receive bytes, page run by page run. -/
def collWriteGo (ctx : Nat) : List (Nat × Nat) → List Byte → M Unit
  | [], _ => pure ()
  | (va, n) :: rs, bs => do
    let ps ← checkGlobal ctx va n ⟨false, true, false⟩ accEngine
    match ps with
    | p :: _ =>
      match p.target with
      | .phys pa => modify fun s => s.writePhys pa (bs.take n) 0
      | .remote _ => trap Cause.remoteAccess
    | [] => pure ()
    collWriteGo ctx rs (bs.drop n)

def collWrite (ctx va : Nat) (bs : List Byte) : M Unit :=
  collWriteGo ctx (pageRuns (bs.length / 65536 + 2) va bs.length) bs

/-- The members' bytes of a chunk in the order they are added: the list gives the order, this device's own at its place in
it, or first; `none` while a member that contributes is missing. -/
def Coll.contributions (c : Coll) (r : Nat) (own : List Byte) (peers : List PeerContribution) :
    Option (List (Nat × List Byte)) :=
  let peers := if peers.any (·.member == r) then peers else ⟨r, false, [], false⟩ :: peers
  let all := peers.map fun p => (p.member, if p.member = r then own else p.bytes)
  let want := if c.op = 3 then [c.root] else List.range c.size
  if want.all fun k => all.any (fun x => x.1 == k) then some (all.filter fun x => want.contains x.1) else none

/-- The receive bytes of a chunk and its non-finite flag. -/
def Coll.result (c : Coll) (lo n : Nat) (xs : List (Nat × List Byte)) : List Byte × Bool :=
  if c.op = 0 ∨ c.op = 1 then
    let els := (List.range (n / c.e)).map fun i => c.reduceAll (xs.map fun x => c.load x.2 i)
    let bytes := els.flatMap fun v => c.store v.1
    let final := (List.range (n / c.e)).any fun i => c.wild (c.load bytes i)
    (bytes, els.any (·.2) || final)
  else
    let run (k : Nat) : List Byte :=
      let m := if c.op = 2 then (c.gatherRun lo n k).2 else n
      let bs := ((xs.find? (fun x => x.1 == k)).map (·.2)).getD []
      (List.range m).map fun i => bs.getD i 0
    let bytes := if c.op = 2 then (List.range c.size).flatMap run else run c.root
    (bytes, (List.range (bytes.length / c.e)).any fun i => c.wild (c.load bytes i))

/-- One chunk: read, combined, and written, or kept when the final flag may still skip the writing (R320). -/
def chunkStep (id : Nat) (x : Collective) (c : Coll) (r : Nat) (peers : List PeerContribution) : M Unit := do
  let lo := x.chunk * 65536
  let n := min 65536 (c.total - lo)
  let run := c.ownRun r lo n
  let own ← collRead x.ctx (c.send + run.1) run.2
  let others ← (c.otherRuns r lo n).mapM fun o => collRead x.ctx (c.send + o.1) o.2
  let wild := others.any fun bs => (List.range (n / c.e)).any fun i => c.wild (c.load bs i)
  match c.contributions r own peers with
  | none => hold
  | some xs =>
    let res := c.result lo n xs
    if c.skips then pure () else collWrite x.ctx (c.recv + lo) res.1
    let nf := x.nonfinite || res.2 || wild || (c.type != 3 && peers.any (·.nonfinite))
    let x : Collective := { x with chunk := x.chunk + 1, nonfinite := nf, out := if c.skips then x.out ++ res.1 else [] }
    modify fun s => { s with collectives := SMap.insert id x s.collectives }
where
  /-- A read of the send buffer by the engine. -/
  collRead (ctx va n : Nat) : M (List Byte) := collReadGo ctx (pageRuns (n / 65536 + 2) va n)
  /-- Its page runs in turn. -/
  collReadGo (ctx : Nat) : List (Nat × Nat) → M (List Byte)
    | [] => pure []
    | (va, n) :: rs => do
      let ps ← checkGlobal ctx va n ⟨true, false, false⟩ accEngine
      checkWords none ps
      let bs ← match ps with
        | p :: _ =>
          match p.target with
          | .phys _ => do pure (partsBytes (← get) (ps.take 1))
          | .remote _ => trap Cause.remoteAccess
        | [] => pure []
      let rest ← collReadGo ctx rs
      pure (bs ++ rest)

def State.failCollective (s : State) (id : Nat) : State :=
  { s with collectives := SMap.modify id (fun x => { x with failed := true }) s.collectives }

/-- Chunks of receive data that a collective has. -/
def Coll.chunks (c : Coll) : Nat := (c.total + 65535) / 65536

/-- A TRANSLATION fault of a collective is recorded, and fails it; while no record is free it waits for one (R248, R250). -/
def State.collectiveFault (s : State) (id : Nat) (x : Collective) (a : Word64) : State :=
  match s.recordFault x.ctx a accEngine with
  | some r => r.1.failCollective id
  | none => { s with collectives := SMap.insert id { x with wants := some a } s.collectives }

/-- The next chunk of a collective is moved with what its members contribute: `none` when it cannot move as yet. A member
that failed, also after the last chunk, or a fault of this device's own buffers, fails the collective (R322). -/
def State.chunkNow (s : State) (id : Nat) (peers : List PeerContribution) : Option State :=
  (SMap.find? id s.collectives).bind fun x =>
    let c := Coll.of x.desc
    (c.member? s.mgmt.devid.toNat).bind fun r =>
      if x.failed then none
      else if peers.any (·.failed) then some (s.failCollective id)
      else if c.chunks ≤ x.chunk then none
      else
        match x.wants with
        | some a => (s.recordFault x.ctx a accEngine).map fun r => r.1.failCollective id
        | none =>
          match runM (chunkStep id x c r peers) s with
          | .ok (_, s) => some s
          | .error (.page a _) => some (s.collectiveFault id x a)
          | .error .retry => none
          | .error _ => some (s.failCollective id)

/-- Collective `a` comes before `b`: of higher priority, or of the same and published by an earlier doorbell store (R321). -/
def Collective.ahead (a b : Nat × Collective) : Bool :=
  decide (b.2.priority < a.2.priority) || (a.2.priority == b.2.priority && decide (a.1 < b.1))

/-- The engine moves the next chunk of a collective (R318–R321), unless one that comes before it has a chunk that waits for
no peer. -/
def execCollectiveChunk (id : Nat) (peers : List PeerContribution) (s_ : State) : Result :=
  .next <|
    match SMap.find? id s_.collectives with
    | none => s_
    | some x =>
      if s_.collectives.any fun (e : Nat × Collective) =>
          Collective.ahead e (id, x) && (s_.chunkNow e.1 []).isSome then s_
      else (s_.chunkNow id peers).getD s_

/-- The last writes of a collective that may skip, with its status, or the address at which they fault TRANSLATION while no
record is free: they wait for one (R248, R250). -/
def State.flushCollective (s : State) (x : Collective) (c : Coll) : Except Word64 (State × Nat) :=
  let recorded (a : Word64) : Except Word64 (State × Nat) :=
    match s.recordFault x.ctx a accEngine with
    | some r => .ok (r.1, 4)
    | none => .error a
  if x.failed then .ok (s, 4)
  else if !c.skips then .ok (s, 1)
  else if x.nonfinite then .ok (s, 2)
  else
    match x.wants with
    | some a => recorded a
    | none =>
      match runM (collWrite x.ctx c.recv x.out) s with
      | .ok (_, s) => .ok (s, 1)
      | .error (.page a _) => recorded a
      | .error _ => .ok (s, 4)

/-- A collective whose chunks have all moved, or that has failed, writes its completion word (R320, R322). -/
def execCollectiveComplete (id : Nat) (s_ : State) : Result :=
  .next <|
    match SMap.find? id s_.collectives with
    | none => s_
    | some x =>
      let c := Coll.of x.desc
      if x.failed || c.chunks ≤ x.chunk then
        match ({ s_ with collectives := SMap.erase id s_.collectives } : State).flushCollective x c with
        | .ok r => r.1.collectiveWord x.ctx c r.2 x.nonfinite
        | .error a => { s_ with collectives := SMap.insert id { x with wants := some a } s_.collectives }
      else s_

end Sys2Proof.Machine
end

