-- ==== Sys2Proof/Machine/Manage.lean ====
section
/-!
DEFINITION. The host (R328, R329), the management registers (R349), boot (R345), attestation (R346), power and temperature
(R347, R348), HBM errors and row activation (R242, R251).
-/

namespace Sys2Proof.Machine

/-! ### Host copy engines and BAR4 (R328, R329) -/

/-- Every byte of a physical range is one that an access may reach: HBM, or the loft outside the porch regions. -/
def State.spanOk (s : State) (pa n : Nat) : Bool :=
  s.rangeOk pa n && (decide (pa + n ≤ hbmEnd) || decide (s.porchMiB = 0) ||
    decide ((pa - loftBase) / vaultSize = (pa + n - 1 - loftBase) / vaultSize))

/-- A host copy engine performs one descriptor (R329): host to device, or device to host; one that breaks the table, or
reads a word that cannot be read, completes with an error and moves nothing. -/
def execHostCopyDescriptor (d : HostDescriptor) (s_ : State) : Result :=
  .next <|
    if !s_.mgmt.ready then s_
    else
      let pa := fieldN d.raw 8 8
      let n := fieldN d.raw 16 4
      let dir := fieldN d.raw 20 1
      let bad := dir == 1 && s_.badMem.any fun a => decide (a < pa + n) && decide (pa < a + 4)
      if n = 0 || 1 < dir || fieldN d.raw 21 11 != 0 || !s_.spanOk pa n || bad then { s_ with hostCompletions := s_.hostCompletions ++ [false] }
      else
        let s : State := { s_ with hostCompletions := s_.hostCompletions ++ [true] }
        if dir = 0 then s.writePhys pa ((List.range n).map fun i => d.hostBytes.getD i 0) 0
        else { s with hostReads := s.hostReads ++ readBytes s.mem pa n }

/-- A host access through BAR4 (R328): before ready, and outside the regions, reads give zero and writes are discarded. -/
def execHostApertureAccess (a : HostAccess) (s_ : State) : Result :=
  .next <|
    let ok (pa : Nat) : Bool := s_.mgmt.ready && s_.physOk pa
    match a with
    | .read off n =>
      let pa := s_.mgmt.aperture.toNat + off % 2 ^ 36
      { s_ with hostReads := s_.hostReads ++
          (List.range n).map fun i => if ok (pa + i) then readByte s_.mem (pa + i) else 0 }
    | .write off bs =>
      let pa := s_.mgmt.aperture.toNat + off % 2 ^ 36
      if s_.mgmt.ready && s_.spanOk pa bs.length then s_.writePhys pa bs 0
      else bs.zipIdx.foldl (fun s (x : Byte × Nat) => if ok (pa + x.2) then s.writePhys (pa + x.2) [x.1] 0 else s) s_

/-- One of the two PCI Express links fails; the device goes on with the other (R328). -/
def execHostLinkFailure (link : Bool) (s_ : State) : Result :=
  .next { s_ with pcieFailed := s_.pcieFailed.set (if link then 1 else 0) true }

/-! ### HBM (R242, R251) -/

/-- The three filter bits of a row identity. -/
def lindenBits (rho : Word) : List Nat :=
  [0, 1, 2].map fun i => (crc32c (leBytes 4 rho.toNat ++ [BitVec.ofNat 8 i])).toNat % 65536

/-- One entry of the corrected-error log, written cyclically (R349). DESIGN CHOICE (log entry 81): an entry whose place lies
in no region of R238 is not written, and CELOGCNT counts it. -/
def State.logError (s : State) (stack : Nat) (rho : Word) : State :=
  let pa := s.mgmt.celog.toNat + 16 * (s.mgmt.celogcnt.toNat % 4096)
  let entry := leBytes 4 rho.toNat ++ [BitVec.ofNat 8 stack, 0, 0, 0] ++ leBytes 8 s.clock
  let s := if s.rangeOk pa 16 then { s with mem := writeBytes s.mem pa entry } else s
  s.modMgmt fun m => { m with celogcnt := m.celogcnt + 1 }

/-- A corrected error of a row: a repeat by the filter is counted, another one is logged (R251). -/
def execCorrectedError (stack : BitVec 3) (rho : BitVec 32) (s_ : State) : Result :=
  .next <|
    let k := stack.toNat
    let seen := SMap.getD s_.mgmt.linden k []
    let bits := lindenBits rho
    if bits.all seen.contains then
      s_.modMgmt fun m => { m with cerepeat := if m.cerepeat = 0xFFFFFFFF then m.cerepeat else m.cerepeat + 1 }
    else
      let seen := seen ++ (bits.eraseDups.filter fun b => !seen.contains b)
      (s_.modMgmt fun m => { m with linden := SMap.insert k seen m.linden }).logError k rho

/-- The banks that are held but one. -/
def State.heldBut (s : State) (stack bank : Nat) : List (Nat × Nat × Nat) :=
  s.heldBanks.filter fun b => !(b.1 == stack && b.2.1 == bank)

/-- A row's activation count reaches the threshold: refresh management holds its bank from this clock on; no data changes
(R242). -/
def execRowActivationAlert (stack : Nat) (bank : Nat) (s_ : State) : Result :=
  .next { s_ with heldBanks := s_.heldBut stack bank ++ [(stack, bank, s_.clock)] }

/-- The refresh-management commands are done, and the bank is free again: the requests held for it go on (R242). -/
def execRefreshManagementComplete (stack : Nat) (bank : Nat) (s_ : State) : Result :=
  .next ({ s_ with heldBanks := s_.heldBut stack bank } : State).serveInbound

/-- A bank that an alert has held for as long as it may is free again (R242). -/
def State.freeBanks (s : State) : State :=
  let held := s.heldBanks.filter fun b => decide (s.clock < b.2.2 + alertHold)
  if held = s.heldBanks then s else ({ s with heldBanks := held } : State).serveInbound

/-! ### Power and temperature (R347, R348) -/

/-- Bundles of a period, 1 to 4. -/
def clampK (k : Nat) : Nat := max 1 (min 4 k)

/-- The estimate of the coming interval: above the limit each core forms only k of its 4 bundles a period (R347). -/
def execPowerEstimate (watts : Nat) (ks : List (BitVec 3)) (s_ : State) : Result :=
  .next <|
    if s_.mgmt.powerLimit < watts then
      ks.zipIdx.foldl (fun s (x : BitVec 3 × Nat) =>
        s.setCore x.2 { s.core x.2 with k := clampK x.1.toNat }) s_
    else { s_ with cores := s_.cores.map fun (e : Nat × Core) => (e.1, { e.2 with k := 4 }) }

/-- The bundles a core forms in a period: one while its die is hot (R348). -/
def State.bundles (s : State) (core : Nat) : Nat := if s.mgmt.hot.contains (core / 192) then 1 else (s.core core).k

def Mgmt.setTemp (m : Mgmt) (die : Nat) (temp : BitVec 8) : Mgmt := { m with dietemp := SMap.put m.dietemp die temp 0 }

/-- A die is hotter than 95 °C: its cores run at k = 1. Above 105 °C every live context is killed, MSTATUS[2] is set, MSI-X
vector 0 is sent, and no launch is admitted until the next reset (R348). -/
def State.heat (s : State) (die : Nat) (temp : BitVec 8) : State :=
  let s := s.modMgmt fun m =>
    let m := m.setTemp die temp
    { m with hot := if m.hot.contains die then m.hot else m.hot ++ [die] }
  if 105 < temp.toNat then
    let live := (s.ctxs.filter fun (e : Nat × Context) => e.2.live).map fun (e : Nat × Context) => e.1
    let s := live.foldl State.killContext (s.modMgmt fun m => { m with thermalHalt := true })
    { s with msix := s.msix ++ [0] }
  else s

/-- A die above 95 °C is throttled (R348). -/
def execTemperatureThrottle (die : Nat) (temp : BitVec 8) (s_ : State) : Result :=
  .next (if die < 5 ∧ 95 < temp.toNat then s_.heat die temp else s_)

/-- A die is back at 95 °C or below (R348). -/
def execTemperatureThrottleEnd (die : Nat) (temp : BitVec 8) (s_ : State) : Result :=
  .next <|
    if die < 5 ∧ temp.toNat ≤ 95 then
      s_.modMgmt fun m =>
        let m := m.setTemp die temp
        { m with hot := m.hot.filter (· != die) }
    else s_

/-- A die above 105 °C: the thermal trip (R348). -/
def execThermalTrip (die : Nat) (temp : BitVec 8) (s_ : State) : Result :=
  .next (if die < 5 ∧ 105 < temp.toNat then s_.heat die temp else s_)

/-! ### Boot (R345) -/

/-- The step at which the boot sequence meets a firmware image that it refuses: 2, its signature does not verify under a
key whose digest is the fused one; 3, its version is below the fused minimum. -/
def Firmware.fault (f : Firmware) : Option Nat :=
  if !f.signed || f.key != f.fusedKey then some 2 else if f.version < f.fusedVersion then some 3 else none

/-- The first step that fails: one that refuses the firmware image, or one that fails of itself. -/
def bootFault (f : Firmware) (failed : Option (BitVec 3)) : Option Nat :=
  match f.fault, failed with
  | some a, some b => some (min a b.toNat)
  | some a, none => some a
  | none, some b => some b.toNat
  | none, none => none

/-- Dies whose sensors read above 95 °C. -/
def Mgmt.hotDies (m : Mgmt) : List Nat := (List.range 5).filter fun j => decide (95 < (SMap.getD m.dietemp j 0).toNat)

/-- A die reads above 105 °C. -/
def Mgmt.trips (m : Mgmt) : Bool := (List.range 5).any fun j => decide (105 < (SMap.getD m.dietemp j 0).toNat)

/-- A reset (R345): the fuses, the flash, the identity of the part and HBM stay (log entry 43); vaults are cleared by step
4, so a failure before that leaves them; everything else is as State.reset has it. `failed` names a step that fails of
itself. -/
def execResetBoot (failed : Option (BitVec 3)) (s_ : State) : Result :=
  .next <|
    let fault := bootFault s_.firmware failed
    let cleared := fault.all fun k => decide (4 < k)
    let keep (a : Nat) : Bool := !cleared || decide (a < hbmEnd)
    let m : Mgmt := { Mgmt.fresh with genid := s_.mgmt.genid, ucodeid := s_.mgmt.ucodeid, errata := s_.mgmt.errata }
    let m : Mgmt := { m with dietemp := s_.mgmt.dietemp, hot := s_.mgmt.hotDies, window := s_.mgmt.window,
                             ready := fault.isNone, bootFailed := fault.isSome, thermalHalt := s_.mgmt.trips }
    let s : State := { State.reset with mgmt := m, mem := s_.mem.filter (fun c => keep c.1), badMem := s_.badMem.filter keep }
    let s : State := { s with attest := { State.reset.attest with leaf := s_.attest.leaf }, agenda := s_.agenda }
    { s with picks := s_.picks, msix := s_.msix ++ (if m.thermalHalt then [0] else []), answers := s_.answers,
             hostReads := s_.hostReads, firmware := s_.firmware, doneVectors := s_.doneVectors,
             hostCompletions := s_.hostCompletions, pcieFailed := s_.pcieFailed }

/-! ### Attestation (R346) -/

/-- A command (R346). -/
def execAttestation (s_ : State) : Result := .next s_.attestNow

/-- The signature of the quote is placed in ATTSIG, and ATTSTAT reads done; its bytes are free values (log entry 13). -/
def execAttestationComplete (s_ : State) : Result :=
  .next <|
    if s_.attest.busy then
      let q := s_.attest.quote
      let sig := (List.range 4096).foldl (fun (m : SMap Byte) i =>
        SMap.put m i (Config.signatureByte q.nonce q.hash q.digest q.devid q.leaf i) 0) []
      { s_ with attest := { s_.attest with busy := false, done := true, sig := sig } }
    else s_

/-! ### Management registers (R349) -/

def execLindenClear (v : BitVec 32) (s_ : State) : Result := .next (s_.clearLinden (v.setWidth 64))

def execSpretire (v : BitVec 32) (s_ : State) : Result := .next (s_.retireBank (v.setWidth 64))

def execRoute (v : BitVec 64) (s_ : State) : Result := .next (s_.setRoute v)

def execCtxctl (x : BitVec 12) (v : BitVec 64) (s_ : State) : Result := .next (s_.ctxWrite x.toNat v)

def execTranslationStoreConfig (base : BitVec 64) (size : BitVec 64) (s_ : State) : Result :=
  .next (s_.setStore base size)

def execManagementRegisterWrite (off : BitVec 16) (v : BitVec 64) (s_ : State) : Result :=
  .next (s_.mgmtWrite off.toNat v)

end Sys2Proof.Machine
end

