-- ==== Sys2Proof/Machine/MemOps.lean ====
section
/-!
DEFINITION. LD, ST, LDL and STL (R154–R162), ATOM and ATOML (R163–R165), FENCE (R166).
-/

namespace Sys2Proof.Machine

/-- Load from a global address; the result arrives after l instructions (R154–R162). -/
def execLd (d : BitVec 8) (a : BitVec 8) (l : BitVec 4) (s : BitVec 3) (o : BitVec 2) (s_ : State) : Result :=
  issueMem (.ld d a l s o) (fun ln => do
      let ea ← rd64 ln a
      if o == 1 then aligned ea.toNat (sizeBytes s) else pure ()
      loadGlobal (.ld d a l s o) ln ea.toNat d s l.toNat (o == 1)) s_

/-- Store to a global address; with order 1 a release of device scope (R154–R159). -/
def execSt (d : BitVec 8) (a : BitVec 8) (l : BitVec 4) (s : BitVec 3) (o : BitVec 2) (s_ : State) : Result :=
  issueMem (.st d a l s o) (fun ln => do
      let ea ← rd64 ln a
      if o == 1 then aligned ea.toNat (sizeBytes s) else pure ()
      storeGlobal ln ea.toNat d s (o == 1)) s_

/-- Load from a local address (R153–R156). -/
def execLdl (d : BitVec 8) (a : BitVec 8) (l : BitVec 4) (s : BitVec 3) (o : BitVec 2) (s_ : State) : Result :=
  issueMem (.ldl d a l s o) (fun ln => do loadHere ln (← rd ln a).toNat d s l.toNat) s_

/-- Store to a local address; with order 1 a release of wing scope (R153–R158). -/
def execStl (d : BitVec 8) (a : BitVec 8) (l : BitVec 4) (s : BitVec 3) (o : BitVec 2) (s_ : State) : Result :=
  issueMem (.stl d a l s o) (fun ln => do storeHere ln (← rd ln a).toNat d s (o == 1)) s_

/-- Global atomic: the new value is m + d, and d receives the old one (R164, R165). -/
def execAtomAdd (d : BitVec 8) (a : BitVec 8) (l : BitVec 4) (s : BitVec 2) (s_ : State) : Result :=
  issueMem (.atomAdd d a l s) (fun ln => do atomGlobal .add ln (← rd64 ln a).toNat d l.toNat s) s_

/-- Global atomic: the new value is m + pair d, and d receives the old one (R164, R165). -/
def execAtomAdd64 (d : BitVec 8) (a : BitVec 8) (l : BitVec 4) (s : BitVec 2) (s_ : State) : Result :=
  issueMem (.atomAdd64 d a l s) (fun ln => do atomGlobal .add64 ln (← rd64 ln a).toNat d l.toNat s) s_

/-- Global atomic: the new value is signed minimum of m and d, and d receives the old one (R164, R165). -/
def execAtomMin (d : BitVec 8) (a : BitVec 8) (l : BitVec 4) (s : BitVec 2) (s_ : State) : Result :=
  issueMem (.atomMin d a l s) (fun ln => do atomGlobal .min ln (← rd64 ln a).toNat d l.toNat s) s_

/-- Global atomic: the new value is signed maximum of m and d, and d receives the old one (R164, R165). -/
def execAtomMax (d : BitVec 8) (a : BitVec 8) (l : BitVec 4) (s : BitVec 2) (s_ : State) : Result :=
  issueMem (.atomMax d a l s) (fun ln => do atomGlobal .max ln (← rd64 ln a).toNat d l.toNat s) s_

/-- Global atomic: the new value is m AND d, and d receives the old one (R164, R165). -/
def execAtomAnd (d : BitVec 8) (a : BitVec 8) (l : BitVec 4) (s : BitVec 2) (s_ : State) : Result :=
  issueMem (.atomAnd d a l s) (fun ln => do atomGlobal .and ln (← rd64 ln a).toNat d l.toNat s) s_

/-- Global atomic: the new value is m OR d, and d receives the old one (R164, R165). -/
def execAtomOr (d : BitVec 8) (a : BitVec 8) (l : BitVec 4) (s : BitVec 2) (s_ : State) : Result :=
  issueMem (.atomOr d a l s) (fun ln => do atomGlobal .or ln (← rd64 ln a).toNat d l.toNat s) s_

/-- Global atomic: the new value is d, and d receives the old one (R164, R165). -/
def execAtomXchg (d : BitVec 8) (a : BitVec 8) (l : BitVec 4) (s : BitVec 2) (s_ : State) : Result :=
  issueMem (.atomXchg d a l s) (fun ln => do atomGlobal .xchg ln (← rd64 ln a).toNat d l.toNat s) s_

/-- Global atomic: the new value is g[d+1] where m = g[d], and d receives the old one (R164, R165). -/
def execAtomCas (d : BitVec 8) (a : BitVec 8) (l : BitVec 4) (s : BitVec 2) (s_ : State) : Result :=
  issueMem (.atomCas d a l s) (fun ln => do atomGlobal .cas ln (← rd64 ln a).toNat d l.toNat s) s_

/-- Local atomic: the new value is m + d, and d receives the old one (R164, R165). -/
def execAtomlAdd (d : BitVec 8) (a : BitVec 8) (l : BitVec 4) (s : Bool) (s_ : State) : Result :=
  issueMem (.atomlAdd d a l s) (fun ln => do atomHere .add ln (← rd ln a).toNat d l.toNat s) s_

/-- Local atomic: the new value is binary32 m + d, and d receives the old one (R164, R165). -/
def execAtomlFadd (d : BitVec 8) (a : BitVec 8) (l : BitVec 4) (s : Bool) (s_ : State) : Result :=
  issueMem (.atomlFadd d a l s) (fun ln => do atomHere .fadd ln (← rd ln a).toNat d l.toNat s) s_

/-- Local atomic: the new value is signed minimum of m and d, and d receives the old one (R164, R165). -/
def execAtomlMin (d : BitVec 8) (a : BitVec 8) (l : BitVec 4) (s : Bool) (s_ : State) : Result :=
  issueMem (.atomlMin d a l s) (fun ln => do atomHere .min ln (← rd ln a).toNat d l.toNat s) s_

/-- Local atomic: the new value is signed maximum of m and d, and d receives the old one (R164, R165). -/
def execAtomlMax (d : BitVec 8) (a : BitVec 8) (l : BitVec 4) (s : Bool) (s_ : State) : Result :=
  issueMem (.atomlMax d a l s) (fun ln => do atomHere .max ln (← rd ln a).toNat d l.toNat s) s_

/-- Local atomic: the new value is d, and d receives the old one (R164, R165). -/
def execAtomlXchg (d : BitVec 8) (a : BitVec 8) (l : BitVec 4) (s : Bool) (s_ : State) : Result :=
  issueMem (.atomlXchg d a l s) (fun ln => do atomHere .xchg ln (← rd ln a).toNat d l.toNat s) s_

/-- Local atomic: the new value is g[d+1] where m = g[d], and d receives the old one (R164, R165). -/
def execAtomlCas (d : BitVec 8) (a : BitVec 8) (l : BitVec 4) (s : Bool) (s_ : State) : Result :=
  issueMem (.atomlCas d a l s) (fun ln => do atomHere .cas ln (← rd ln a).toNat d l.toNat s) s_

/-- Local atomic: the new value is two bfloat16 sums, and d receives the old one (R164, R165). -/
def execAtomlFadd2 (d : BitVec 8) (a : BitVec 8) (l : BitVec 4) (s : Bool) (s_ : State) : Result :=
  issueMem (.atomlFadd2 d a l s) (fun ln => do atomHere .fadd2 ln (← rd ln a).toNat d l.toNat s) s_

/-- Local atomic: the new value is m OR d, and d receives the old one (R164, R165). -/
def execAtomlOr (d : BitVec 8) (a : BitVec 8) (l : BitVec 4) (s : Bool) (s_ : State) : Result :=
  issueMem (.atomlOr d a l s) (fun ln => do atomHere .or ln (← rd ln a).toNat d l.toNat s) s_

/-- Order every earlier access of the thread before every later one within scope s; a system fence reports remote failures
in b_b (R166). -/
def execFence (s : BitVec 5) (b : BitVec 3) (s_ : State) : Result :=
  issueMem (.fence s b) (bodyFence s b) s_

end Sys2Proof.Machine
end

