-- ==== Sys2Proof/Machine/Dispatch.lean ====
section
/-!
DEFINITION. The one dispatch from an instruction or a device step to its meaning.
-/

namespace Sys2Proof.Machine

/-- What an instruction or a device step does to the machine. -/
def exec (i : Instr) (s : State) : Host.Outcome State Fault Refusal :=
  match i with
  | .movCompact d sv => Sys2Proof.Machine.execMovCompact d sv s
  | .iaddCompact d sv => Sys2Proof.Machine.execIaddCompact d sv s
  | .isubCompact d sv => Sys2Proof.Machine.execIsubCompact d sv s
  | .andCompact d sv => Sys2Proof.Machine.execAndCompact d sv s
  | .orCompact d sv => Sys2Proof.Machine.execOrCompact d sv s
  | .xorCompact d sv => Sys2Proof.Machine.execXorCompact d sv s
  | .shlCompact d sv => Sys2Proof.Machine.execShlCompact d sv s
  | .shrCompact d sv => Sys2Proof.Machine.execShrCompact d sv s
  | .sarCompact d sv => Sys2Proof.Machine.execSarCompact d sv s
  | .imulCompact d sv => Sys2Proof.Machine.execImulCompact d sv s
  | .faddCompact d sv => Sys2Proof.Machine.execFaddCompact d sv s
  | .fsubCompact d sv => Sys2Proof.Machine.execFsubCompact d sv s
  | .fmulCompact d sv => Sys2Proof.Machine.execFmulCompact d sv s
  | .fmaxCompact d sv => Sys2Proof.Machine.execFmaxCompact d sv s
  | .iaddiCompact d iv => Sys2Proof.Machine.execIaddiCompact d iv s
  | .movi d iv => Sys2Proof.Machine.execMovi d iv s
  | .iadd d a b => Sys2Proof.Machine.execIadd d a b s
  | .isub d a b => Sys2Proof.Machine.execIsub d a b s
  | .imul d a b x => Sys2Proof.Machine.execImul d a b x s
  | .imulhs d a b => Sys2Proof.Machine.execImulhs d a b s
  | .imad d a b x => Sys2Proof.Machine.execImad d a b x s
  | .and d a b => Sys2Proof.Machine.execAnd d a b s
  | .or d a b => Sys2Proof.Machine.execOr d a b s
  | .xor d a b => Sys2Proof.Machine.execXor d a b s
  | .andn d a b => Sys2Proof.Machine.execAndn d a b s
  | .shl d a b => Sys2Proof.Machine.execShl d a b s
  | .shr d a b => Sys2Proof.Machine.execShr d a b s
  | .sar d a b => Sys2Proof.Machine.execSar d a b s
  | .imin d a b x => Sys2Proof.Machine.execImin d a b x s
  | .imax d a b x => Sys2Proof.Machine.execImax d a b x s
  | .iadd64 d a b x => Sys2Proof.Machine.execIadd64 d a b x s
  | .perm d a b => Sys2Proof.Machine.execPerm d a b s
  | .mov d a => Sys2Proof.Machine.execMov d a s
  | .not d a => Sys2Proof.Machine.execNot d a s
  | .neg d a => Sys2Proof.Machine.execNeg d a s
  | .iabs d a => Sys2Proof.Machine.execIabs d a s
  | .clz d a => Sys2Proof.Machine.execClz d a s
  | .popc d a => Sys2Proof.Machine.execPopc d a s
  | .brev d a => Sys2Proof.Machine.execBrev d a s
  | .sexb d a => Sys2Proof.Machine.execSexb d a s
  | .sexh d a => Sys2Proof.Machine.execSexh d a s
  | .zexb d a => Sys2Proof.Machine.execZexb d a s
  | .zexh d a => Sys2Proof.Machine.execZexh d a s
  | .laneid d => Sys2Proof.Machine.execLaneid d s
  | .tidx d => Sys2Proof.Machine.execTidx d s
  | .teamix d => Sys2Proof.Machine.execTeamix d s
  | .clklo d => Sys2Proof.Machine.execClklo d s
  | .clkhi d => Sys2Proof.Machine.execClkhi d s
  | .b2g d k => Sys2Proof.Machine.execB2g d k s
  | .g2b k a => Sys2Proof.Machine.execG2b k a s
  | .clz64 d a => Sys2Proof.Machine.execClz64 d a s
  | .popc64 d a => Sys2Proof.Machine.execPopc64 d a s
  | .iaddi d a iv => Sys2Proof.Machine.execIaddi d a iv s
  | .andi d a iv => Sys2Proof.Machine.execAndi d a iv s
  | .ori d a iv => Sys2Proof.Machine.execOri d a iv s
  | .xori d a iv => Sys2Proof.Machine.execXori d a iv s
  | .shli d a n => Sys2Proof.Machine.execShli d a n s
  | .shri d a n => Sys2Proof.Machine.execShri d a n s
  | .sari d a n => Sys2Proof.Machine.execSari d a n s
  | .rotri d a n => Sys2Proof.Machine.execRotri d a n s
  | .movkl d iv => Sys2Proof.Machine.execMovkl d iv s
  | .movkh d iv => Sys2Proof.Machine.execMovkh d iv s
  | .icmp e c n a b => Sys2Proof.Machine.execIcmp e c n a b s
  | .icmpi e c n a iv => Sys2Proof.Machine.execIcmpi e c n a iv s
  | .sel c sv d a => Sys2Proof.Machine.execSel c sv d a s
  | .shflIdx sv d c r => Sys2Proof.Machine.execShflIdx sv d c r s
  | .shflUp sv d n r => Sys2Proof.Machine.execShflUp sv d n r s
  | .shflDown sv d n r => Sys2Proof.Machine.execShflDown sv d n r s
  | .shflXor sv d n r => Sys2Proof.Machine.execShflXor sv d n r s
  | .voteAny sv d f r => Sys2Proof.Machine.execVoteAny sv d f r s
  | .voteAll sv d f r => Sys2Proof.Machine.execVoteAll sv d f r s
  | .voteBallot sv d f r => Sys2Proof.Machine.execVoteBallot sv d f r s
  | .voteMatch sv d a r => Sys2Proof.Machine.execVoteMatch sv d a r s
  | .voteRadd sv d a r => Sys2Proof.Machine.execVoteRadd sv d a r s
  | .voteRmin sv d a r => Sys2Proof.Machine.execVoteRmin sv d a r s
  | .voteRmax sv d a r => Sys2Proof.Machine.execVoteRmax sv d a r s
  | .voteRfadd sv d a r => Sys2Proof.Machine.execVoteRfadd sv d a r s
  | .fadd d a b x => Sys2Proof.Machine.execFadd d a b x s
  | .fsub d a b x => Sys2Proof.Machine.execFsub d a b x s
  | .fmul d a b x => Sys2Proof.Machine.execFmul d a b x s
  | .ffma d a b x => Sys2Proof.Machine.execFfma d a b x s
  | .fmin d a b x => Sys2Proof.Machine.execFmin d a b x s
  | .fmax d a b x => Sys2Proof.Machine.execFmax d a b x s
  | .fabs d a l => Sys2Proof.Machine.execFabs d a l s
  | .fneg d a l => Sys2Proof.Machine.execFneg d a l s
  | .frcp d a l => Sys2Proof.Machine.execFrcp d a l s
  | .frsq d a l => Sys2Proof.Machine.execFrsq d a l s
  | .fsqrt d a l => Sys2Proof.Machine.execFsqrt d a l s
  | .fexp2 d a l => Sys2Proof.Machine.execFexp2 d a l s
  | .flog2 d a l => Sys2Proof.Machine.execFlog2 d a l s
  | .fsin d a l => Sys2Proof.Machine.execFsin d a l s
  | .fcos d a l => Sys2Proof.Machine.execFcos d a l s
  | .ftanh d a l => Sys2Proof.Machine.execFtanh d a l s
  | .ffloor d a l => Sys2Proof.Machine.execFfloor d a l s
  | .fceil d a l => Sys2Proof.Machine.execFceil d a l s
  | .ftrunc d a l => Sys2Proof.Machine.execFtrunc d a l s
  | .frint d a l => Sys2Proof.Machine.execFrint d a l s
  | .fclass d a l => Sys2Proof.Machine.execFclass d a l s
  | .fsat d a l => Sys2Proof.Machine.execFsat d a l s
  | .fcmp e c n a b => Sys2Proof.Machine.execFcmp e c n a b s
  | .cvt d a f r p iv => Sys2Proof.Machine.execCvt d a f r p iv s
  | .cvif d a => Sys2Proof.Machine.execCvif d a s
  | .cvnf d a => Sys2Proof.Machine.execCvnf d a s
  | .cvfi d a => Sys2Proof.Machine.execCvfi d a s
  | .cvfn d a => Sys2Proof.Machine.execCvfn d a s
  | .cvhf d a x => Sys2Proof.Machine.execCvhf d a x s
  | .cvbf d a => Sys2Proof.Machine.execCvbf d a s
  | .cv8af d a => Sys2Proof.Machine.execCv8af d a s
  | .cv8bf d a => Sys2Proof.Machine.execCv8bf d a s
  | .dot4 d a b => Sys2Proof.Machine.execDot4 d a b s
  | .dot2 d a b => Sys2Proof.Machine.execDot2 d a b s
  | .idiv d a b => Sys2Proof.Machine.execIdiv d a b s
  | .idivu d a b => Sys2Proof.Machine.execIdivu d a b s
  | .scmp q k l a b => Sys2Proof.Machine.execScmp q k l a b s
  | .pcombAnd d a b m => Sys2Proof.Machine.execPcombAnd d a b m s
  | .pcombOr d a b m => Sys2Proof.Machine.execPcombOr d a b m s
  | .pcombNot d a => Sys2Proof.Machine.execPcombNot d a s
  | .pcombXor d a b m => Sys2Proof.Machine.execPcombXor d a b m s
  | .blend c sv d a => Sys2Proof.Machine.execBlend c sv d a s
  | .blendi c sv d a => Sys2Proof.Machine.execBlendi c sv d a s
  | .selq c sv d a => Sys2Proof.Machine.execSelq c sv d a s
  | .coll q d => Sys2Proof.Machine.execColl q d s
  | .qset q a => Sys2Proof.Machine.execQset q a s
  | .qget q d => Sys2Proof.Machine.execQget q d s
  | .qfromb q b => Sys2Proof.Machine.execQfromb q b s
  | .pgrad q k d => Sys2Proof.Machine.execPgrad q k d s
  | .qhard q d => Sys2Proof.Machine.execQhard q d s
  | .ld d a l sv o => Sys2Proof.Machine.execLd d a l sv o s
  | .st d a l sv o => Sys2Proof.Machine.execSt d a l sv o s
  | .ldl d a l sv o => Sys2Proof.Machine.execLdl d a l sv o s
  | .stl d a l sv o => Sys2Proof.Machine.execStl d a l sv o s
  | .atomAdd d a l sv => Sys2Proof.Machine.execAtomAdd d a l sv s
  | .atomAdd64 d a l sv => Sys2Proof.Machine.execAtomAdd64 d a l sv s
  | .atomMin d a l sv => Sys2Proof.Machine.execAtomMin d a l sv s
  | .atomMax d a l sv => Sys2Proof.Machine.execAtomMax d a l sv s
  | .atomAnd d a l sv => Sys2Proof.Machine.execAtomAnd d a l sv s
  | .atomOr d a l sv => Sys2Proof.Machine.execAtomOr d a l sv s
  | .atomXchg d a l sv => Sys2Proof.Machine.execAtomXchg d a l sv s
  | .atomCas d a l sv => Sys2Proof.Machine.execAtomCas d a l sv s
  | .atomlAdd d a l sv => Sys2Proof.Machine.execAtomlAdd d a l sv s
  | .atomlFadd d a l sv => Sys2Proof.Machine.execAtomlFadd d a l sv s
  | .atomlMin d a l sv => Sys2Proof.Machine.execAtomlMin d a l sv s
  | .atomlMax d a l sv => Sys2Proof.Machine.execAtomlMax d a l sv s
  | .atomlXchg d a l sv => Sys2Proof.Machine.execAtomlXchg d a l sv s
  | .atomlCas d a l sv => Sys2Proof.Machine.execAtomlCas d a l sv s
  | .atomlFadd2 d a l sv => Sys2Proof.Machine.execAtomlFadd2 d a l sv s
  | .atomlOr d a l sv => Sys2Proof.Machine.execAtomlOr d a l sv s
  | .fence sv b => Sys2Proof.Machine.execFence sv b s
  | .nbInit k iv n => Sys2Proof.Machine.execNbInit k iv n s
  | .nbExpect k iv a => Sys2Proof.Machine.execNbExpect k iv a s
  | .nbArr k iv d g => Sys2Proof.Machine.execNbArr k iv d g s
  | .nbWait k iv a => Sys2Proof.Machine.execNbWait k iv a s
  | .nbArw k iv g => Sys2Proof.Machine.execNbArw k iv g s
  | .nbTest k iv a e => Sys2Proof.Machine.execNbTest k iv a e s
  | .cpyG2l sv l c => Sys2Proof.Machine.execCpyG2l sv l c s
  | .cpyL2g sv l c => Sys2Proof.Machine.execCpyL2g sv l c s
  | .cpyL2l p c => Sys2Proof.Machine.execCpyL2l p c s
  | .cpyG2g p c => Sys2Proof.Machine.execCpyG2g p c s
  | .cpyPfx p c => Sys2Proof.Machine.execCpyPfx p c s
  | .strm p d => Sys2Proof.Machine.execStrm p d s
  | .strmOff p => Sys2Proof.Machine.execStrmOff p s
  | .mxIssue a => Sys2Proof.Machine.execMxIssue a s
  | .mxIssueS e => Sys2Proof.Machine.execMxIssueS e s
  | .mxZero n => Sys2Proof.Machine.execMxZero n s
  | .mxStore q p n a => Sys2Proof.Machine.execMxStore q p n a s
  | .mxLoad n a => Sys2Proof.Machine.execMxLoad n a s
  | .mxProg d w => Sys2Proof.Machine.execMxProg d w s
  | .wjoin d a => Sys2Proof.Machine.execWjoin d a s
  | .wmap w d a => Sys2Proof.Machine.execWmap w d a s
  | .wquery d => Sys2Proof.Machine.execWquery d s
  | .rshPlan d a => Sys2Proof.Machine.execRshPlan d a s
  | .rshGo a => Sys2Proof.Machine.execRshGo a s
  | .rshPoll d w => Sys2Proof.Machine.execRshPoll d w s
  | .rshSave a => Sys2Proof.Machine.execRshSave a s
  | .rshResume a => Sys2Proof.Machine.execRshResume a s
  | .cka n m a => Sys2Proof.Machine.execCka n m a s
  | .ckx sv n m r => Sys2Proof.Machine.execCkx sv n m r s
  | .ckt n m a b => Sys2Proof.Machine.execCkt n m a b s
  | .ckz n => Sys2Proof.Machine.execCkz n s
  | .bra c sv o => Sys2Proof.Machine.execBra c sv o s
  | .call c sv o => Sys2Proof.Machine.execCall c sv o s
  | .jmpi p => Sys2Proof.Machine.execJmpi p s
  | .calli p => Sys2Proof.Machine.execCalli p s
  | .ret => Sys2Proof.Machine.execRet s
  | .exit => Sys2Proof.Machine.execExit s
  | .rcvSet sv k => Sys2Proof.Machine.execRcvSet sv k s
  | .rcvWait k => Sys2Proof.Machine.execRcvWait k s
  | .yld dl n => Sys2Proof.Machine.execYld dl n s
  | .stage sv k => Sys2Proof.Machine.execStage sv k s
  | .chend => Sys2Proof.Machine.execChend s
  | .trap iv => Sys2Proof.Machine.execTrap iv s
  | .rtt => Sys2Proof.Machine.execRtt s
  | .elect sv d => Sys2Proof.Machine.execElect sv d s
  | .bop d a b o => Sys2Proof.Machine.execBop d a b o s
  | .brk => Sys2Proof.Machine.execBrk s
  | .srd d iv => Sys2Proof.Machine.execSrd d iv s
  | .swr a iv => Sys2Proof.Machine.execSwr a iv s
  | .movs a sv => Sys2Proof.Machine.execMovs a sv s
  | .smov d sv => Sys2Proof.Machine.execSmov d sv s
  | .dqpush g a => Sys2Proof.Machine.execDqpush g a s
  | .dqpop d => Sys2Proof.Machine.execDqpop d s
  | .ftwaitNb a k => Sys2Proof.Machine.execFtwaitNb a k s
  | .ftwaitDq a k => Sys2Proof.Machine.execFtwaitDq a k s
  | .ftwaitClk a => Sys2Proof.Machine.execFtwaitClk a s
  | .ftlaunch d a => Sys2Proof.Machine.execFtlaunch d a s
  | .chseed k a => Sys2Proof.Machine.execChseed k a s
  | .tlbinvAll a => Sys2Proof.Machine.execTlbinvAll a s
  | .tlbinvPage a => Sys2Proof.Machine.execTlbinvPage a s
  | .killctx d a => Sys2Proof.Machine.execKillctx d a s
  | .succGoto t => Sys2Proof.Machine.execSuccGoto t s
  | .succBr c sense t1 t2 => Sys2Proof.Machine.execSuccBr c sense t1 t2 s
  | .succSw iv ts => Sys2Proof.Machine.execSuccSw iv ts s
  | .succCall t tr => Sys2Proof.Machine.execSuccCall t tr s
  | .faultRecordWake ctx rec => Sys2Proof.Machine.execFaultRecordWake ctx rec s
  | .trapEntry team t => Sys2Proof.Machine.execTrapEntry team t s
  | .chainSettle team t => Sys2Proof.Machine.execChainSettle team t s
  | .streamPush team who => Sys2Proof.Machine.execStreamPush team who s
  | .chainGroupCreate team => Sys2Proof.Machine.execChainGroupCreate team s
  | .copyTransfer team id => Sys2Proof.Machine.execCopyTransfer team id s
  | .matrixCommandStart team => Sys2Proof.Machine.execMatrixCommandStart team s
  | .mxSlice team => Sys2Proof.Machine.execMxSlice team s
  | .mxStoreTransfer team => Sys2Proof.Machine.execMxStoreTransfer team s
  | .mxLoadTransfer team => Sys2Proof.Machine.execMxLoadTransfer team s
  | .rshStopAtBoundary team => Sys2Proof.Machine.execRshStopAtBoundary team s
  | .rshRowPull team answer => Sys2Proof.Machine.execRshRowPull team answer s
  | .storeAcknowledgement team k => Sys2Proof.Machine.execStoreAcknowledgement team k s
  | .clockWaitExpiry team => Sys2Proof.Machine.execClockWaitExpiry team s
  | .teamEnd team => Sys2Proof.Machine.execTeamEnd team s
  | .contextSave team => Sys2Proof.Machine.execContextSave team s
  | .wizinTranslate launch => Sys2Proof.Machine.execWizinTranslate launch s
  | .jobTeamCreate launch core => Sys2Proof.Machine.execJobTeamCreate launch core s
  | .jobChunkTake launch core => Sys2Proof.Machine.execJobChunkTake launch core s
  | .launchComplete launch => Sys2Proof.Machine.execLaunchComplete launch s
  | .parityUpdateLand core => Sys2Proof.Machine.execParityUpdateLand core s
  | .bankRetire core bank => Sys2Proof.Machine.execBankRetire core bank s
  | .requestBudgetExpiry id => Sys2Proof.Machine.execRequestBudgetExpiry id s
  | .killComplete ctx => Sys2Proof.Machine.execKillComplete ctx s
  | .faultRecordTake ctx => Sys2Proof.Machine.execFaultRecordTake ctx s
  | .collectiveDoorbell q tail => Sys2Proof.Machine.execCollectiveDoorbell q tail s
  | .collectiveComplete id => Sys2Proof.Machine.execCollectiveComplete id s
  | .collectiveChunk id peers => Sys2Proof.Machine.execCollectiveChunk id peers s
  | .refreshManagementComplete stack bank => Sys2Proof.Machine.execRefreshManagementComplete stack bank s
  | .resetBoot failed => Sys2Proof.Machine.execResetBoot failed s
  | .ftwaitMx => Sys2Proof.Machine.execFtwaitMx s
  | .ftwaitRsh => Sys2Proof.Machine.execFtwaitRsh s
  | .icinv => Sys2Proof.Machine.execIcinv s
  | .tlbinvHeap => Sys2Proof.Machine.execTlbinvHeap s
  | .wleave => Sys2Proof.Machine.execWleave s
  | .land => Sys2Proof.Machine.execLand s
  | .succRet => Sys2Proof.Machine.execSuccRet s
  | .succExit => Sys2Proof.Machine.execSuccExit s
  | .succRtt => Sys2Proof.Machine.execSuccRtt s
  | .loadResultReturn team who => Sys2Proof.Machine.execLoadResultReturn team who s
  | .streamPop team who port => Sys2Proof.Machine.execStreamPop team who port s
  | .watchdog team t => Sys2Proof.Machine.execWatchdog team t s
  | .launchDoorbell q tail => Sys2Proof.Machine.execLaunchDoorbell q tail s
  | .launchAdmission => Sys2Proof.Machine.execLaunchAdmission s
  | .teamPlacement => Sys2Proof.Machine.execTeamPlacement s
  | .gangStaggerExpiry launch => Sys2Proof.Machine.execGangStaggerExpiry launch s
  | .pathAgeing team group pc => Sys2Proof.Machine.execPathAgeing team group pc s
  | .preemption => Sys2Proof.Machine.execPreemption s
  | .remoteAnswer id answer => Sys2Proof.Machine.execRemoteAnswer id answer s
  | .inboundRemoteRequest req => Sys2Proof.Machine.execInboundRemoteRequest req s
  | .linkPause port => Sys2Proof.Machine.execLinkPause port s
  | .linkResume port => Sys2Proof.Machine.execLinkResume port s
  | .portFailure port => Sys2Proof.Machine.execPortFailure port s
  | .hostCopyDescriptor d => Sys2Proof.Machine.execHostCopyDescriptor d s
  | .hostApertureAccess a => Sys2Proof.Machine.execHostApertureAccess a s
  | .correctedError stack rho => Sys2Proof.Machine.execCorrectedError stack rho s
  | .rowActivationAlert stack bank => Sys2Proof.Machine.execRowActivationAlert stack bank s
  | .powerEstimate watts ks => Sys2Proof.Machine.execPowerEstimate watts ks s
  | .temperatureThrottle die temp => Sys2Proof.Machine.execTemperatureThrottle die temp s
  | .thermalTrip die temp => Sys2Proof.Machine.execThermalTrip die temp s
  | .attestation => Sys2Proof.Machine.execAttestation s
  | .lindenClear v => Sys2Proof.Machine.execLindenClear v s
  | .spretire v => Sys2Proof.Machine.execSpretire v s
  | .route v => Sys2Proof.Machine.execRoute v s
  | .ctxctl x v => Sys2Proof.Machine.execCtxctl x v s
  | .translationStoreConfig base size => Sys2Proof.Machine.execTranslationStoreConfig base size s
  | .managementRegisterWrite off v => Sys2Proof.Machine.execManagementRegisterWrite off v s
  | .hostLinkFailure link => Sys2Proof.Machine.execHostLinkFailure link s
  | .linkRetransmission port => Sys2Proof.Machine.execLinkRetransmission port s
  | .temperatureThrottleEnd die temp => Sys2Proof.Machine.execTemperatureThrottleEnd die temp s
  | .attestationComplete => Sys2Proof.Machine.execAttestationComplete s

end Sys2Proof.Machine
end

