-- ==== Sys2Proof/Machine/Schedule.lean ====
section
/-!
DEFINITION. Which agent moves next, and one turn of it.  The order among independent agents is not promised (R8, R285,
R287): `State.agenda` names agents that move first, and when it is empty the machine takes a default order (log entry 6).
Forming a bundle and issuing it follow R57, R62, R285 and R286.
-/

namespace Sys2Proof.Machine

open Host (Outcome)

/-! ### Issuing -/

/-- A step that no word encodes: one that the device, the fabric, the host or the environment takes. -/
def isStep (i : Instr) : Bool := (encode16 i).isNone && (encodeSucc i).isEmpty

/-- The lane that a thread sits on (R11, R285). -/
def Team.laneOf (T : Team) (t : Nat) : Nat :=
  (match T.group? (T.groupIx t) with
    | some G => G.lane + T.index t
    | none => T.index t) % 64

/-- Of threads, the first on each lane. -/
def Team.onePerLane (T : Team) : List Nat → List Nat → List Nat
  | [], _ => []
  | t :: ts, used =>
    if used.contains (T.laneOf t) then T.onePerLane ts used else t :: T.onePerLane ts (T.laneOf t :: used)

/-- The bundle that a set of threads forms (R285): those that have an instruction to issue, all at one PC, on each
lane the one that has waited longest, in lane order (R287). -/
def State.bundle (s : State) (team : Nat) (ts : List Nat) : List Nat :=
  match s.team? team with
  | none => []
  | some T =>
    let ok := ts.filter fun t => s.running team && (T.thread? t).any Thread.ready
    match ok.head?.bind T.thread? with
    | none => []
    | some h =>
      sortBy (fun a b => decide (T.laneOf a ≤ T.laneOf b))
        (T.onePerLane (sortBy (fun a b => decide (T.threadAge s.clock b ≤ T.threadAge s.clock a))
          (ok.filter fun t => (T.thread? t).any (fun h' => h'.pc == h.pc))) [])

/-- The front thread of a team has an instruction to issue. -/
def Front.ready (f : Front) : Bool :=
  !f.ended && !f.parked &&
    match f.wait with
    | none => true
    | some .poll => true
    | some (.broken _) => true
    | some (.kill _) => true
    | some (.mx _) => true
    | some (.leave _) => true
    | some (.push _ _) => true
    | _ => false

/-- A fetch, or a word without a meaning, stops a lane: the watchdog comes first (R122), then the cause (R57, R62). -/
def stopLane (c : Issue) (e : Stop) (s : State) (l : Lane) : State :=
  if !s.lanePresent l then s
  else if s.watchdogDue l then s.watchdogTrap c l
  else
    match e with
    | .trap cause addr => (s.trapLane c none l cause addr none).endIfCancelled l
    | .page addr access => (pageSleep none l addr access s).endIfCancelled l
    | _ => (s.markWait l).endIfCancelled l

/-- A stop of the fetch consumes an uncorrectable word (R303). -/
def Stop.consumes : Stop → Bool
  | .trap cause _ => cause == Cause.uncorrectable
  | .lost _ _ => true
  | _ => false

/-- A stop of the fetch is a trap. -/
def Stop.isTrap : Stop → Bool
  | .trap _ _ => true
  | _ => false

/-- Fetch at a PC and issue what is there to the lanes of `c` (R8, R57, R62, R285). -/
def issueAt (c : Issue) (pc : Word64) (s : State) : Outcome State Fault Refusal :=
  let stopAll (c : Issue) (e : Stop) (s : State) : State :=
    inOrder (stopLane c e) (fun l => s.lanePresent l && !s.watchdogDue l && e.consumes)
      (fun s l => s.lanePresent l && !s.watchdogDue l && e.isTrap) c s
  match runM (fetchAt c.team pc) s with
  | .error e => .next (stopAll c e s)
  | .ok ((word, len, none), s') =>
    let c : Issue := { c with word := word, len := len }
    .next (stopAll c (.trap Cause.illegal 0) { s' with cur := some c })
  | .ok ((word, len, some i), s') => exec i { s' with cur := some { c with word := word, len := len } }

/-- A bundle of a team issues; the path that it leaves is the one that issued last (R286). -/
def issueBundle (team : Nat) (ts : List Nat) (s : State) : Outcome State Fault Refusal :=
  match s.bundle team ts with
  | [] => .next s
  | t :: rest =>
    let pc := ((s.thread? team t).map (·.pc)).getD 0
    issueAt ⟨team, t :: rest, false, 0, 0⟩ pc (s.modTeam team (·.issued (t :: rest)))

/-- The front thread of a team issues. -/
def issueFront (team : Nat) (s : State) : Outcome State Fault Refusal :=
  match (s.team? team).bind (·.front) with
  | some f => if s.running team && f.ready then issueAt ⟨team, [], true, 0, 0⟩ f.pc s else .next s
  | none => .next s

/-! ### Errors (R267, R304) -/

/-- A further error in a word: two single errors are a double one, and nothing mends a worse one. -/
def WordErr.also (e : WordErr) : Option WordErr → WordErr
  | none => e
  | some .single => if e = .single then .double else e
  | some x => x

/-- An error strikes a data word or a parity word of a core's scratchpad. -/
def State.strike (s : State) (core word : Nat) (parity : Bool) (e : WordErr) : State :=
  let c := s.core core
  if 768 ≤ core then s
  else if parity then
    if word < 16384 then s.setCore core { c with perrs := SMap.insert word (e.also (SMap.find? word c.perrs)) c.perrs }
    else s
  else if word < 65536 then s.setCore core { c with errs := SMap.insert word (e.also (SMap.find? word c.errs)) c.errs }
  else s

/-- Put a number into a rising list. -/
def insertNat (n : Nat) (l : List Nat) : List Nat := if l.contains n then l else insertBy (fun a b => decide (a ≤ b)) n l

/-- A word of memory becomes uncorrectable. One in the porch region of a vault fences the cluster below the vault (R239,
R304). -/
def State.strikeMem (s : State) (pa : Nat) : State :=
  let w := pa / 4 * 4
  if s.physOk w then { s with badMem := insertNat w s.badMem }
  else
    let v := (w - loftBase) / vaultSize
    if loftBase ≤ w ∧ v < 48 then s.fenceCluster none (16 * v) Cause.uncorrectable (BitVec.ofNat 64 w)
    else s

/-! ### One turn -/

/-- One turn of an agent. An entry that names an instruction word of a program, which only a bundle or a front thread
issues, passes. -/
def takeTurn (t : Turn) (s : State) : Outcome State Fault Refusal :=
  match t with
  | .bundle team ts => issueBundle team ts s
  | .front team => issueFront team s
  | .event i => if isStep i then exec i s else .next s
  | .scratchError core word parity e => .next (s.strike core word parity e)
  | .memoryError pa => .next (s.strikeMem pa)

/-! ### The default order (log entry 6) -/

/-- Two states that differ in nothing but time and the choices made. -/
def State.same (a b : State) : Bool :=
  let flat (s : State) : State :=
    { s with clock := 0, picks := 0, cur := none, tlb := [], fetched := [],
             teams := s.teams.map fun (e : Nat × Team) => (e.1, { e.2 with ages := [], lastPaths := [], lastGroup := none }) }
  decide (flat a = flat b)

/-- A turn would do something. -/
def State.moves (s : State) (t : Turn) : Bool :=
  match takeTurn t s with
  | .next s' => !s.same s'
  | _ => false

/-- Fault records that something of a team sleeps on. -/
def Team.sleptOn (T : Team) : List Nat :=
  let rec? (w : Option Wait) : List Nat := match w with
    | some (.record r _) => [r]
    | some (.ahead _ _ _ r _) => r.toList
    | _ => []
  let on (a : Option Asleep) : List Nat := match a with
    | some (.on r) => [r]
    | _ => []
  (T.threads.flatMap fun (e : Nat × Thread) => rec? e.2.wait) ++
    (match T.front with
      | some f => rec? f.wait
      | none => []) ++
    (T.copies.flatMap fun (e : Nat × Copy) => on e.2.sleep) ++ T.mx.queue.flatMap fun c => on c.sleep

/-- The row that a re-shard operation pulls next comes from this device, or the step needs no row (R232). -/
def State.rowHere (s : State) (team : Nat) (T : Team) : Bool :=
  let at_ := fieldN T.rsh.go 0 4 + 32 * T.rsh.nextEntry.toNat
  let d := T.rsh.plan.getD (match readLocal ⟨team, at_, false⟩ at_ 32 s with
    | .ok (d, _) => d
    | .error _ => [])
  decide (fieldN T.rsh.go 4 2 ≤ T.rsh.nextEntry.toNat) || d.isEmpty || (Entry.of d).dev == s.mgmt.devid.toNat ||
    !entryOk s.mgmt.devid.toNat (Layout.of T.rsh.src) (Layout.of T.rsh.dst) (Entry.of d) ||
    decide ((Entry.of d).rows ≤ T.rsh.nextRow.toNat)

/-- Steps of a team's threads. -/
def Team.threadSteps (T : Team) (t : Nat) : List Instr :=
  let of (p : Thread → Bool) (f : Nat → Instr) : List Instr :=
    (T.threads.filter fun (h : Nat × Thread) => p h.2).map fun (h : Nat × Thread) => f h.1
  [T.sleptOn.map (Instr.faultRecordWake T.ctx), of (fun h => h.trap.isSome) (Instr.trapEntry t),
    of (fun h => h.wait.any fun w => match w with
      | .settle _ => true
      | _ => false) (Instr.chainSettle t),
    of (fun h => !h.pend.isEmpty && (h.wait.isSome || T.dying)) (fun h => Instr.streamPush t (.thread h))].flatten

/-- Steps of a team's engines and of the team as a whole. -/
def State.teamSteps (s : State) (e : Nat × Team) : List Instr :=
  let t := e.1
  let T := e.2
  [T.threadSteps t, [.chainGroupCreate t], T.copies.map fun (c : Nat × Copy) => .copyTransfer t c.1,
    if T.mx.queue.isEmpty then [] else [.matrixCommandStart t, .mxSlice t, .mxStoreTransfer t, .mxLoadTransfer t],
    if T.rshRunning then .rshStopAtBoundary t :: if s.rowHere t T then [.rshRowPull t .refused] else [] else [],
    if s.storesPending t then [.storeAcknowledgement t 0] else [],
    if T.front.any (fun f => f.wait.isSome) then [.clockWaitExpiry t] else [], [.teamEnd t],
    if T.status == .resting then [.contextSave t] else []].flatten

/-- The first core that holds no unstarted record of a job and can create its next team. -/
def State.freeCore (s : State) (id : Nat) (L : Launch) (j : Job) : Option Nat :=
  (List.range 768).find? fun c => (SMap.getD j.runs c (0, 0)).2 == 0 && s.jobCan id L j c

/-- Steps of a launch. -/
def State.launchSteps (s : State) (e : Nat × Launch) : List Instr :=
  (if e.2.pending then [.wizinTranslate e.1] else []) ++
    (match e.2.job with
      | some j =>
        (j.runs.filter fun (r : Nat × Nat × Nat) => decide (0 < r.2.2)).map (fun r => Instr.jobTeamCreate e.1 r.1) ++
          (match s.freeCore e.1 e.2 j with
            | some c => [.jobChunkTake e.1 c]
            | none => [])
      | none => []) ++
    [.launchComplete e.1]

/-- Steps of a core's parity unit. -/
def Core.steps (e : Nat × Core) : List Instr :=
  (if e.2.queue.isEmpty then [] else [.parityUpdateLand e.1]) ++
    e.2.toRetire.map (Instr.bankRetire e.1)

/-- Steps of the dispatcher. -/
def dispatcherSteps : List Instr := [.launchAdmission, .teamPlacement, .preemption]

/-- Steps that the device may take, in the order in which the default order tries them. What comes from outside the
device (answers, requests, accesses, errors, temperatures) is not among them. -/
def State.steps (s : State) : List Instr :=
  if !s.mgmt.ready then (if s.mgmt.bootFailed then [] else [.resetBoot none])
  else
    [s.teams.flatMap s.teamSteps, s.launches.flatMap s.launchSteps, s.cores.flatMap Core.steps,
      (s.remotes.filter fun (e : Nat × Remote) => !e.2.sent).map fun (e : Nat × Remote) => .requestBudgetExpiry e.1,
      s.inbound.map fun (e : Nat × Inbound) => .requestBudgetExpiry e.1,
      s.ctxs.flatMap fun (e : Nat × Context) => [.killComplete e.1, .faultRecordTake e.1],
      s.collectives.flatMap fun (e : Nat × Collective) => [.collectiveComplete e.1, .collectiveChunk e.1 []],
      if s.attest.busy then [.attestationComplete] else [],
      s.heldBanks.map fun b => .refreshManagementComplete b.1 b.2.1,
      dispatcherSteps].flatten

/-- Memory operations of a path that are outstanding: loads and atomics whose results are still to be delivered, and stores
not yet performed. -/
def State.pathLoad (s : State) (team : Nat) (T : Team) (p : Nat × Word64) : Nat :=
  let ts := T.path p.1 p.2
  let mine (o : Origin) : Bool := o.op.isNone && ts.any fun t => o.who == .thread t
  (ts.map fun t => ((T.thread? t).map fun h => (h.pend.filter (·.mem)).length).getD 0).foldl (· + ·) 0 +
    (s.stores.filter fun w => w.team == team && mine w.tag.origin).length +
    (s.remotes.filter fun (e : Nat × Remote) =>
      e.2.team == team && e.2.agent == 0 && e.2.op.writes && mine e.2.origin).length

/-- The path of a team to serve (R286): within a group the one that issued last while it is ready, else the one with the
fewest outstanding memory operations, and of those the one of the lowest PC. The group that issued last goes on while its
path stays ready; otherwise the groups' paths are chosen among in the same way. -/
def State.choosePath (s : State) (team : Nat) (T : Team) (ok : Nat × Word64 → Bool) : Option (Nat × Word64) :=
  let ps := T.paths.filter ok
  let kept (g : Nat) : Option (Nat × Word64) :=
    (SMap.find? g T.lastPaths).bind fun pc => if ps.contains (g, pc) then some (g, pc) else none
  (T.lastGroup.bind kept).or <|
    best ((ps.map (·.1)).eraseDups.filterMap fun g => (kept g).or (best (ps.filter fun p => p.1 == g)))
where
  /-- The least path. -/
  best (ps : List (Nat × Word64)) : Option (Nat × Word64) :=
    (sortBy (fun a b => decide (s.pathLoad team T a < s.pathLoad team T b) ||
      (s.pathLoad team T a == s.pathLoad team T b && decide (a.2.toNat ≤ b.2.toNat))) ps).head?

/-- A path that is in no wait, or whose wait is over. -/
def State.pathMoves (s : State) (team : Nat) (T : Team) (p : Nat × Word64) : Bool :=
  (T.path p.1 p.2).any (fun t => (T.thread? t).any (fun h => h.wait.isNone)) ||
    s.moves (.bundle team (T.path p.1 p.2))

/-- The path that has waited longest among those not served for 1024 clocks (R286). -/
def State.agedPath (s : State) : Option Turn :=
  let all := s.teams.flatMap fun (e : Nat × Team) =>
    if s.running e.1 then
      (e.2.paths.filter fun p => decide (1024 ≤ e.2.ageOf s.clock p.1 p.2) && s.pathMoves e.1 e.2 p).map fun p => (e, p)
    else []
  ((sortBy (fun a b => decide (b.1.2.ageOf s.clock b.2.1 b.2.2 ≤ a.1.2.ageOf s.clock a.2.1 a.2.2)) all).head?).map
    fun x => .bundle x.1.1 (x.1.2.path x.2.1 x.2.2)

/-- The bundle that a core issues: of the team of highest priority, teams of one priority in rotation (R286). -/
def State.coreTurn (s : State) (core : Nat) : Option Turn :=
  let ts := (s.residents core).filterMap fun (e : Nat × Team) =>
    if s.running e.1 then (s.choosePath e.1 e.2 (s.pathMoves e.1 e.2)).map fun p => (e, p) else none
  let turn := (s.core core).turn
  let key (x : (Nat × Team) × (Nat × Word64)) : Nat :=
    if (SMap.find? x.1.2.priority turn).all (fun t => decide (t < x.1.1)) then 0 else 1
  ((sortBy (fun a b => decide (b.1.2.priority < a.1.2.priority) ||
      (a.1.2.priority == b.1.2.priority && decide (key a ≤ key b))) ts).head?).map
    fun x => .bundle x.1.1 (x.1.2.path x.2.1 x.2.2)

/-- The bundle of the next core, cores taking turns. -/
def State.nextBundle (s : State) : Option Turn :=
  let cores := (s.teams.map fun (e : Nat × Team) => e.2.core).eraseDups
  let n := s.clock % max 1 cores.length
  (cores.drop n ++ cores.take n).findSome? s.coreTurn

/-- A front thread that can move, in rotation. -/
def State.nextFront (s : State) : Option Turn :=
  let ts := (s.teams.filter fun (e : Nat × Team) => e.2.front.any Front.ready).map fun (e : Nat × Team) => Turn.front e.1
  let n := s.clock / 4 % max 1 ts.length
  (ts.drop n ++ ts.take n).find? fun t => s.moves t

/-- The first of some steps that would do something. -/
def State.firstOf (s : State) (is : List Instr) : Option Turn := (is.map Turn.event).find? fun t => s.moves t

/-- The turn that the default order takes: every fourth clock a front thread's, if one can move; then a step of the
device, then an aged path's, then a bundle, and then a front thread's. So that no kind of turn keeps another from coming
(R284, R287), one clock of each 64 has an aged path or a bundle first, one tries the steps of the device from another one
on, in rotation, and one has the dispatcher's steps first. -/
def State.nextTurn (s : State) : Option Turn :=
  let lanes := s.agedPath.or s.nextBundle
  let own := (s.firstOf s.steps).or lanes
  match s.clock % 64 with
  | 1 => (lanes.or own).or s.nextFront
  | 21 =>
    let n := s.clock / 64 % max 1 s.steps.length
    ((s.firstOf (s.steps.drop n)).or own).or s.nextFront
  | 41 => ((s.firstOf dispatcherSteps).or own).or s.nextFront
  | n => if n % 4 = 3 then s.nextFront.or own else own.or s.nextFront

/-- The head of the agenda, or the default turn, and the rest of the agenda. -/
def State.chosen (s : State) : Option Turn × State :=
  match s.agenda with
  | t :: ts => (some t, { s with agenda := ts })
  | [] => (s.nextTurn, s)

/-- The paths a bundle leaves behind, and the team that its core served (R286). -/
def State.served (s : State) (t : Option Turn) : State :=
  match t with
  | some (.bundle team (t :: ts)) =>
    match s.team? team with
    | some T =>
      let last := (t :: ts).foldl (fun m t => SMap.insert (T.groupIx t) (s.pcAt ⟨team, .thread t⟩) m) T.lastPaths
      (s.setTeam team { T with lastPaths := last, lastGroup := some (T.groupIx t) }).setCore T.core
        { s.core T.core with turn := SMap.insert T.priority team (s.core T.core).turn }
    | none => s
  | _ => s

/-- A thread is ready and, where it waits, its wait is over (R285, R286). -/
def State.readyNow (s : State) (team : Nat) (e : Nat × Thread) : Bool :=
  s.running team && e.2.ready && (e.2.wait.isNone || s.moves (.bundle team [e.1]))

/-- The end of a clock (log entry 7): the ageing counts, CLOCK, and no issue in progress. -/
def State.tick (s : State) : State :=
  { s with clock := s.clock + 1, cur := none,
           teams := s.teams.map fun (e : Nat × Team) => (e.1, e.2.age s.clock (s.readyNow e.1)) }

/-- A core whose banks the step has asked to retire holds their groups' accesses from now on (R270), and a second failure
in a degraded group, or the fourth bad word of a parity bank, fences it (R271). -/
def State.settleCore (s : State) (core : Nat) : State :=
  let s := s.setCore core (s.core core).hold
  if (s.core core).failsAgain || (s.core core).parityFailed then s.fenceBare core else s

/-- What the device does of itself at the end of a clock: banks to be retired, banks held for long enough, and collective
queues that a write has published. -/
def State.settle (s : State) : State :=
  let due (c : Core) : Bool := !c.asked.isEmpty || (!c.fenced && (c.failsAgain || c.parityFailed))
  let s := ((s.cores.filter fun e => due e.2).map (·.1)).foldl State.settleCore s
  s.freeBanks.takePublished

/-- What stands around a turn in one step. -/
def finishTurn (t : Option Turn) : Outcome State Fault Refusal → Outcome State Fault Refusal
  | .next s => .next (s.served t).settle.tick
  | r => r

/-- A turn, or a clock in which nothing moves. -/
def runTurn (s : State) : Outcome State Fault Refusal :=
  match s.chosen with
  | (some t, s') => finishTurn (some t) (takeTurn t s')
  | (none, s') => finishTurn none (.next s')

end Sys2Proof.Machine
end

