-- ==== Sys2Proof/Machine/Step.lean ====
section
/-!
DEFINITION. One step of the machine, and the machine with a given instruction where the next step fetches it (log
entry 5).
-/

namespace Sys2Proof.Machine

open Host (Outcome)

/-- One step: the next agent moves (R8, R285–R287). -/
def step (s : State) : Outcome State Fault Refusal := runTurn s

/-! ### Placing one instruction -/

/-- The virtual address of the placed code, and the physical addresses of its page and of the five tables that lead to it
(R243). -/
def placedVa : Nat := 0
def placedPage : Nat := 0x20000
def placedRoot : Nat := 0x10000

/-- Page tables for one readable, writable and executable page. -/
def placedTables (m : List Host.Cell) : List Host.Cell :=
  let m := writeBytes m 0x10000 (leBytes 8 0x11001)
  let m := writeBytes m 0x11000 (leBytes 8 0x12001)
  let m := writeBytes m 0x12000 (leBytes 8 0x13001)
  let m := writeBytes m 0x13000 (leBytes 8 0x14001)
  writeBytes m 0x14000 (leBytes 8 (placedPage + 0x5D))

/-- The launch record of the placed instruction: one team of one group of width 16, with the largest register budget. -/
def placedRecord (front : Bool) : LaunchRec :=
  { image := 0, entry := 0, front := 0, width := 0, producers := 0, consumers := 1, flags := if front then 1 else 0,
    pbudget := 0, cbudget := 220, tx := 1, ty := 1, tz := 1, scratch := 4096, trip := 0, stages := 0, gang := 1,
    priority := 0, yield := 15, stagger := 0, args := 0, argsize := 0, job := 0, done := 0 }

/-- A portable body of one segment without words, whose successor is the word given, followed by two words of zeros
(R337, R338). -/
def placedBody (w : Nat) : List Byte :=
  leBytes 4 1 ++ leBytes 4 0 ++ leBytes 4 0xFFFFFFFF ++ leBytes 4 0 ++ leBytes 4 24 ++ leBytes 4 0 ++ leBytes 4 w
    ++ leBytes 8 0

/-- A successor word, which only a translated segment holds. -/
def isSucc : Instr → Bool
  | .succGoto _ | .succBr _ _ _ _ | .succSw _ _ | .succCall _ _ | .succRet | .succExit | .succRtt => true
  | _ => false

/-- The translation that holds a successor word. -/
def placedXlat (w : Nat) : Xlat :=
  let base : Word64 := 0xFF00000000000000
  { ctx := 1, image := 0, serial := 0, hash := 0, base := base, body := placedBody w, entry := base + 4, front := 0,
    hasFront := false, segs := 1, far := [], ttab := [], errata := [], stored := true }

/-- The machine with an instruction placed, in a translation or in memory, for a thread or for the front thread: a
privileged context, a launch, and its team on core 0, which moves next. -/
def State.placed (s : State) (succ front : Bool) (w : Nat) : State :=
  let x : Context := { Context.fresh with live := true, privileged := true, ptbase := BitVec.ofNat 64 placedRoot }
  let L : Launch :=
    { ctx := 1, record := placedRecord front, priority := 0, body := BitVec.ofNat 64 placedVa,
      xlat := if succ then some s.nextXlat else none, pending := false, ttab := [], argWords := [], t0 := some s.clock,
      gangsStarted := 1, job := none, faulted := false, complete := false }
  let pc : Word64 := if succ then (placedXlat w).entry else BitVec.ofNat 64 placedVa
  let T : Team := { Team.create s.nextLaunch L (pc, pc) 0 0 0 0 [] 0 0 with status := .resident, started := true }
  { s with
    ctxs := SMap.insert 1 x s.ctxs, launches := SMap.insert s.nextLaunch L s.launches, nextLaunch := s.nextLaunch + 1,
    teams := SMap.insert s.nextTeam T s.teams, nextTeam := s.nextTeam + 1,
    xlats := if succ then SMap.insert s.nextXlat (placedXlat w) s.xlats else s.xlats,
    nextXlat := if succ then s.nextXlat + 1 else s.nextXlat,
    mem := if succ then s.mem else writeBytes (placedTables s.mem) placedPage (leBytes 4 w),
    agenda := (if front then Turn.front s.nextTeam else .bundle s.nextTeam [0]) :: s.agenda }

/-- The machine with the instruction of a table word where the next step fetches it. -/
def State.withFetchWord (s : State) (nbits w : Nat) : State :=
  let w := w % 2 ^ (min nbits 32)
  match decodeTableWord nbits w with
  | some i => s.placed (isSucc i) (!i.threadOk) w
  | none => s.placed false false w

end Sys2Proof.Machine
end

