-- ==== Sys2Proof/Safety.lean ====
section
/-!
DEFINITION. The terms in which claims speak of the machine: the canonical form that every step keeps, who may issue an
instruction, and what follows when it completes.
-/

namespace Sys2Proof.Machine

/-- The memory of the device is in its canonical form: equal contents are equal data. -/
def State.MemOk (s : State) : Prop := memWf s.mem = true

/-- Every register field of an instruction names a g register. -/
def gOnly (i : Instr) : Bool := i.flds.all fun f => isG f.code

/-- Thread t of the team of issue `c` is alone in it, present, and below its watchdog limit (R122). -/
structure At (s : State) (c : Issue) (t : Nat) (T : Team) (G : Group) (h : Thread) : Prop where
  cur : s.cur = some c
  lanes : c.front = false ∧ c.threads = [t]
  team : s.team? c.team = some T
  runs : (T.status = .resident ∨ T.status = .resting) ∧ T.dying = false
  thread : T.thread? t = some h
  group : T.group? (T.groupIx t) = some G
  live : h.ended = false
  below : h.count < h.limit

/-- It issues instruction `i`, with no result pending (R67), and may name the registers that `i` names (R14, R25). -/
structure Sole (s : State) (i : Instr) (c : Issue) (t : Nat) (T : Team) (G : Group) (h : Thread) : Prop
    extends At s c t T G h where
  quiet : h.pend = []
  regs : regsOk T ⟨c.team, .thread t⟩ i = true

/-- The same, where the registers that `i` names are g registers. -/
structure Solo (s : State) (i : Instr) (c : Issue) (t : Nat) (T : Team) (G : Group) (h : Thread) : Prop
    extends Sole s i c t T G h where
  plain : gOnly i = true

/-- The front thread of the team of issue `c` issues instruction `i`: it is there, with no result pending, and may name
the registers that `i` names (R27, R212). -/
structure FrontSolo (s : State) (i : Instr) (c : Issue) (T : Team) (f : Front) : Prop where
  cur : s.cur = some c
  lanes : c.front = true
  team : s.team? c.team = some T
  runs : (T.status = .resident ∨ T.status = .resting) ∧ T.dying = false
  front : T.front = some f
  live : f.ended = false
  quiet : f.pend = []
  regs : regsOk T ⟨c.team, .front⟩ i = true

/-- Thread t has had `f` done to it, and is past its instruction; nothing else has changed. -/
def State.after (s : State) (c : Issue) (t : Nat) (f : Thread → Thread) : State :=
  s.modThread c.team t fun h => (f h).advance c.len

/-- The front thread has had `f` done to it, and is past its instruction; nothing else has changed. -/
def State.afterFront (s : State) (c : Issue) (f : Front → Front) : State :=
  s.modFront c.team fun x => (f x).advance c.len

/-- The value of a g register that a field names, and a g register that a field names written. -/
def Thread.val (h : Thread) (a : BitVec 8) : Word := h.reg a.toNat
def Thread.put (h : Thread) (d : BitVec 8) (v : Word) : Thread := h.setReg d.toNat v

/-- The value of a register pair, and a pair written (R5). -/
def Thread.pair (h : Thread) (a : BitVec 8) : Word64 := h.reg (a.toNat + 1) ++ h.reg a.toNat
def Thread.putPair (h : Thread) (d : BitVec 8) (v : Word64) : Thread :=
  (h.setReg d.toNat (v.setWidth 32)).setReg (d.toNat + 1) (v.extractLsb' 32 32)

/-- The instruction, issued by any thread alone, does `f` to that thread and goes on; nothing else changes. -/
def Does (i : Instr) (f : Thread → Thread) : Prop :=
  ∀ s c t T G h, Solo s i c t T G h → exec i s = .next (s.after c t f)

/-- The same where what is done depends on the thread's own group, team and machine, under a premise on them. -/
def DoesIf (i : Instr) (p : State → Team → Group → Thread → Prop) (f : State → Nat → Team → Group → Thread → Thread) :
    Prop :=
  ∀ s c t T G h, Solo s i c t T G h → p s T G h → exec i s = .next (s.after c t fun _ => f s t T G h)

/-- The thread has gone on to another address. -/
def Thread.goTo (h : Thread) (n : Nat) (pc : Word64) : Thread := { h.advance n with pc := pc }

/-- The instruction, issued by any thread alone, does `f` to that thread and sends it to the address that `f` gives. -/
def DoesTo (i : Instr) (p : State → Team → Group → Thread → Prop) (f : Thread → Thread × Word64) : Prop :=
  ∀ s c t T G h, Solo s i c t T G h → p s T G h →
    exec i s = .next (s.modThread c.team t fun h => (f h).1.goTo c.len (f h).2)

/-! ### Terms of the statements -/

/-- Wizin emulates erratum `id` in the translated code that the thread runs; code outside the translation has the
corrected behaviour (R340, R342). -/
def emulates (s : State) (T : Team) (h : Thread) (id : Nat) : Bool :=
  (s.xlatOf T).any fun x => (x.at? h.pc).isSome && x.errata.contains id

/-- The shift amounts of a shift that no erratum 1 shortens (R343). -/
def plainShifts (s : State) (T : Team) (_ : Group) (h : Thread) : Prop := emulates s T h 1 = false

/-- The same where Wizin emulates erratum 1 (R342). -/
def shortShifts (s : State) (T : Team) (_ : Group) (h : Thread) : Prop := emulates s T h 1 = true

/-- A condition of R63 on two words. -/
def condHolds (c : BitVec 3) (x y : Word) : Prop :=
  match c.toNat with
  | 0 => x = y
  | 1 => x ≠ y
  | 2 => x.toInt < y.toInt
  | 3 => x.toInt ≤ y.toInt
  | 4 => y.toInt < x.toInt
  | 5 => y.toInt ≤ x.toInt
  | 6 => x.toNat < y.toNat
  | _ => x.toNat ≤ y.toNat

/-- Thread t traps at instruction `i` with a cause, an address and, where it is not the thread's own PC, a saved PC (R294);
one of a cancelled group whose trap must wait ends instead (R135). -/
def State.trapped (s : State) (c : Issue) (i : Instr) (t : Nat) (cause : BitVec 8) (addr : Word64)
    (tpc : Option Word64) : State :=
  (s.trapLane c (some i) ⟨c.team, .thread t⟩ cause addr tpc).endIfCancelled ⟨c.team, .thread t⟩

/-- The instruction, issued by any thread alone, traps with the cause and address given (R294). -/
def Traps (i : Instr) (p : State → Team → Group → Thread → Prop) (cause : BitVec 8) (addr : Thread → Word64) : Prop :=
  ∀ s c t T G h, Solo s i c t T G h → p s T G h →
    exec i s = .next (s.trapped c i t cause (addr h) none)

/-- The floating-point mode of a group (R28). -/
def Group.mode (G : Group) : FpMode := .of G.fpctl

/-- The thread with a result of a FUN on its way to register d: there after `l` instructions more (R67).
The instruction that opens the window passes one more itself. -/
def Thread.expect (h : Thread) (d : BitVec 8) (l : BitVec 4) (v : Word) : Thread :=
  if l = 0 then h.put d v else { h with pend := h.pend ++ [⟨[d], .ready [v.setWidth 64], l.toNat + 1, false, 0, none⟩] }

/-- The destination format that a V-format code names under NFMT, if its slot is valid (R40, R66). -/
def vformat (nfmt : Word) (f : BitVec 3) : Option VFmt :=
  match f.toNat with
  | 0 => some (.ieee fp16)
  | 1 => some (.ieee bf16)
  | 2 => if (slotOf nfmt false).valid then some (.bin8 (slotOf nfmt false)) else none
  | 3 => if (slotOf nfmt true).valid then some (.bin8 (slotOf nfmt true)) else none
  | 4 => some (.int 8 true)
  | 5 => some (.int 8 false)
  | 6 => some (.int 16 true)
  | _ => some (.ieee fp32)

/-- The rounding that CVT's field r asks for: FPCTL's, RNE, RTZ, or stochastic with a draw (R44), with FPCTL[5]'s tie rule
for integer destinations (R49). -/
def cvtRound (M : FpMode) (F : VFmt) (r : BitVec 2) (draw : Nat) : Rnd :=
  let k : Rnd := match r.toNat with
    | 0 => M.rnd
    | 1 => .rne
    | 2 => .rtz
    | _ => .sr draw
  match F with
  | .int _ _ => if M.legacyRound && k == .rne then .rna else k
  | _ => k

/-- A q register read and written. -/
def Thread.qval (h : Thread) (k : BitVec 3) : BitVec 25 := SMap.getD h.q k.toNat 0
def Thread.putQ (h : Thread) (k : BitVec 3) (v : BitVec 25) : Thread := { h with q := SMap.put h.q k.toNat v 0 }

/-- The draw of R147 of thread t, from the team's seed. -/
def Team.rowan (T : Team) (t : Nat) (h : Thread) : Nat := Machine.rowan T.rseed t h.draw

/-- The thread with values written to registers in turn. -/
def Thread.putAll (h : Thread) : List (BitVec 8) → List Word64 → Thread
  | d :: ds, v :: vs => (h.put d (v.setWidth 32)).putAll ds vs
  | _, _ => h

/-- The thread with the values of a load or atomic on their way to registers, there after `l` instructions more (R67). -/
def Thread.expectAll (h : Thread) (ds : List (BitVec 8)) (l : BitVec 4) (vs : List Word64) : Thread :=
  if l = 0 then h.putAll ds vs else { h with pend := h.pend ++ [⟨ds, .ready vs, l.toNat + 1, true, 0, none⟩] }

/-- The registers that a load of a size code writes: one, a pair or a quad (R64). -/
def loadDest (d : BitVec 8) (size : BitVec 3) : List (BitVec 8) :=
  match size.toNat with
  | 5 => [d, d + 1]
  | 6 => [d, d + 1, d + 2, d + 3]
  | _ => [d]

/-- The bytes that a store of a size code writes (R155). -/
def Thread.data (h : Thread) (d : BitVec 8) (size : BitVec 3) : List Byte :=
  match size.toNat with
  | 5 => leBytes 8 (h.pair d).toNat
  | 6 => [0, 1, 2, 3].flatMap fun j => leBytes 4 (h.reg (d.toNat + j)).toNat
  | _ => leBytes (sizeBytes size) (h.val d).toNat

/-- The team's core has no wrong word, asks for no bank's retirement and is not fenced, so that it admits every access to
its scratchpad at once and serves it as it stands (R267, R270, R271). -/
structure CoreSound (s : State) (T : Team) : Prop where
  errs : (s.core T.core).errs = []
  perrs : (s.core T.core).perrs = []
  asked : (s.core T.core).toRetire = []
  open_ : (s.core T.core).fenced = false

/-- A local access of `n` bytes at `x` is aligned, lies in the team's own scratchpad, and is served (R153, R156, R272). -/
structure OwnLocal (s : State) (T : Team) (x n : Nat) : Prop where
  aligned : x % n = 0
  inside : x + n ≤ T.size
  own : x < winBase
  sound : CoreSound s T

/-- A global access of `n` bytes at `x` in a context is mapped to physical address `pa` by the context's heap triple, which
no core holds an older copy of, and meets no unreadable word (R152, R238). -/
structure HeapAt (s : State) (ctx x n pa : Nat) : Prop where
  settled : (s.ctx ctx).heldHeap = []
  canon : canonical x = true
  lo : (s.ctx ctx).heap.hb.toNat ≤ x
  hi : x + n ≤ min ((s.ctx ctx).heap.hb.toNat + (s.ctx ctx).heap.hl.toNat) (2 ^ 64)
  phys : pa = (x + (s.ctx ctx).heap.ho.toNat) % 2 ^ 64
  exists_ : s.rangeOk pa n = true
  sound : s.badMem = []

/-- Such an access of team k, with nothing of the team outstanding before it. -/
structure InHeap (s : State) (k : Nat) (T : Team) (x n pa : Nat) : Prop extends HeapAt s T.ctx x n pa where
  quiet : s.storesPending k = false ∧ s.remotesPending k = false

/-- Where the heap triple of a context takes an address (R152). -/
def State.heapPa (s : State) (ctx x : Nat) : Nat := (x + (s.ctx ctx).heap.ho.toNat) % 2 ^ 64

/-- The 64 KiB page runs of `n` bytes at `x`, in which the collective engine moves its data (R321). -/
def runsOf (x n : Nat) : List (Nat × Nat) := pageRuns (n / 65536 + 2) x n

/-- Each page run of `n` bytes at `x` lies in the context's heap window. -/
def HeapSpan (s : State) (ctx x n : Nat) : Prop := ∀ r ∈ runsOf x n, HeapAt s ctx r.1 r.2 (s.heapPa ctx r.1)

/-- The bytes of such a span, and memory with bytes written to one. -/
def State.spanBytes (s : State) (ctx x n : Nat) : List Byte :=
  (runsOf x n).flatMap fun r => (List.range r.2).map fun i => s.physByte (s.heapPa ctx r.1 + i)
def State.spanWrite (s : State) (ctx x : Nat) (bs : List Byte) : List Host.Cell :=
  ((runsOf x bs.length).foldl (fun (m : List Host.Cell × List Byte) r =>
    (writeBytes m.1 (s.heapPa ctx r.1) (m.2.take r.2), m.2.drop r.2)) (s.mem, bs)).1

/-- A span that an engine writes holds memory only, no doorbell and no register. -/
def PlainSpan (s : State) (ctx x n : Nat) : Prop :=
  HeapSpan s ctx x n ∧ ∀ r ∈ runsOf x n, s.doorbellWords (s.heapPa ctx r.1) r.2 = [] ∧
    s.inRegisters (s.heapPa ctx r.1) r.2 = false

/-- The barrier that an instruction names: its field, or what s[k] holds, from 0 to 15 (R169). -/
def namesNb (G : Group) (k : BitVec 4) (indirect : Bool) (n : Nat) : Prop :=
  n = (if indirect then (G.sreg k.toNat).toNat else k.toNat) ∧ n ≤ 15

/-- The thread was not let go from a barrier that broke (R172). -/
def notLetGo : Option Wait → Bool
  | some (.broken _) => false
  | _ => true

/-- A local access of `n` bytes at `x` by team k resolves to `p`, in a team that has been relaunched `r` times (R153,
R176). -/
def Resolves (s : State) (k : Nat) (x : Word) (n : Nat) (p : Local) (r : Nat) : Prop :=
  s.local? k x.toNat n = .ok p ∧ ∃ P, s.team? p.team = some P ∧ P.relaunches = r

/-- The team with one engine more on a barrier (R173). -/
def Team.enlist (T : Team) (b : Option Nat) : Team :=
  match b with
  | some k => T.setNb k { T.nb k with engines := (T.nb k).engines + 1 }
  | none => T

/-- The team with a copy started (R174, R176). -/
def Team.start (T : Team) (C : Copy) : Team :=
  let T := T.enlist C.barrier
  { T with copies := SMap.insert T.nextCopy C T.copies, nextCopy := T.nextCopy + 1 }

/-- The barrier that a control word names takes one engine more (R173). -/
def mayEnlist (T : Team) (b : Option Nat) : Prop := ∀ k, b = some k → (T.nb k).engines < 63

/-- The front thread, issuing the instruction, is left as `f` of itself says, and goes on; nothing else changes. -/
def FrontDoes (i : Instr) (p : State → Team → Front → Prop) (f : State → Team → Front → Front) : Prop :=
  ∀ s c T x, FrontSolo s i c T x → p s T x → exec i s = .next (s.afterFront c fun _ => f s T x)

/-- A structure of `n` bytes that an instruction reads at issue lies at `x` in the team's scratchpad, aligned, inside, and
readable (R195, R199, R231). -/
structure BlockAt (s : State) (T : Team) (x n align : Nat) : Prop where
  aligned : x % align = 0
  inside : x + n ≤ T.size
  own : x < winBase
  sound : CoreSound s T

/-- What makes the accesses of an engine operation that a thread or the front thread starts, and the state once that has
its place among the accesses of its team (R259). -/
def newOrigin (s : State) (T : Team) (who : Who) : Origin := { T.origin who with op := some s.nextSeq }
def State.opened (s : State) : State := { s with nextSeq := s.nextSeq + 1 }

/-- A matrix command of a thread as it joins the queue (R187, R200). -/
def mxCommand (G : Group) (o : Origin) (kind : MxKind) (bar : Option Nat) (draws : List Nat) : MxCmd :=
  { kind := kind, nfmt := G.nfmt, fpctl := G.fpctl, origin := o, draws := draws, barrier := bar, started := false,
    step := 0, sleep := none, parts := [], out := [] }

/-- The team with a matrix command more in its queue, registered on its barrier (R187). -/
def Team.mxJoin (T : Team) (C : MxCmd) : Team :=
  let T := T.enlist C.barrier
  { T with mx := { T.mx with queue := T.mx.queue ++ [C], issued := T.mx.issued + 1 } }

/-- Two layout records of a re-shard lie at `src` and `dst`, valid and of one shape and element size (R231, R324). -/
structure LayoutsAt (s : State) (T : Team) (src dst : Nat) : Prop where
  atSrc : BlockAt s T src 64 64
  atDst : BlockAt s T dst 64 64
  srcOk : (Layout.of (readBytes T.sp src 64)).ok = true
  dstOk : (Layout.of (readBytes T.sp dst 64)).ok = true
  shape : (Layout.of (readBytes T.sp src 64)).shape = (Layout.of (readBytes T.sp dst 64)).shape
  elem : (Layout.of (readBytes T.sp src 64)).e = (Layout.of (readBytes T.sp dst 64)).e

/-- A go block that passes the checks of R232, with its layout records. -/
structure GoOk (s : State) (T : Team) (g : List Byte) : Prop where
  planAligned : fieldN g 0 4 % 32 = 0
  count : fieldN g 4 2 ≠ 0
  barrier : fieldN g 6 1 < 32
  zero : fieldN g 7 1 = 0
  layouts : LayoutsAt s T (fieldN g 8 4) (fieldN g 12 4)
  planInside : fieldN g 0 4 + 32 * fieldN g 4 2 ≤ T.size

/-- The team's re-shard operation running from an entry and row (R232, R234). -/
def Team.rshRun (T : Team) (g : List Byte) (o : Origin) (entry row : BitVec 16) : Team :=
  let T := T.enlist (goBarrier g)
  { T with rsh := { T.rsh with go := g, src := readBytes T.sp (fieldN g 8 4) 64, dst := readBytes T.sp (fieldN g 12 4) 64,
                               entry := entry, row := row, state := 1, stopAsked := false, nextEntry := entry,
                               nextRow := row, plan := none, flight := [], sleep := none, origin := o } }

/-- A special register that the thread may name and its context may reach (R28, R73). -/
def sregReach (s : State) (T : Team) (i : BitVec 8) : Prop :=
  sregKnown i.toNat = true ∧ (0x40 ≤ i.toNat → (s.ctx T.ctx).privileged = true)

/-- The group of the thread changed. -/
def State.modGroupAt (s : State) (c : Issue) (t : Nat) (T : Team) (f : Group → Group) : State :=
  s.modTeam c.team fun T' => T'.modGroup (T.groupIx t) f

/-- The value of lane j in a reduction: what a live lane offered, and the identity for any other (R53, R118). -/
def laneValue (all : List (Nat × Instr × List Word)) (z : Word) (j : Nat) : Word :=
  ((all.find? fun y => y.1 == j).map fun y => y.2.2.headD 0).getD z

/-- Node j of level k of the tree of R53: the lower-indexed of two adjacent partial results is operand a. -/
def laneTree (f : Word → Word → Word) (lane : Nat → Word) : Nat → Nat → Word
  | 0, j => lane j
  | k + 1, j => f (laneTree f lane k (2 * j)) (laneTree f lane k (2 * j + 1))

/-- The group operations of R117–R119 and R208 with the values that a thread offers. -/
def groupOffers (h : Thread) : Instr → Option (BitVec 4 × List Word)
  | .shflIdx m d c _ => some (m, [h.val d, h.val c])
  | .shflUp m d _ _ | .shflDown m d _ _ | .shflXor m d _ _ => some (m, [h.val d])
  | .voteAny m _ f _ | .voteAll m _ f _ | .voteBallot m _ f _ => some (m, [if h.b.getLsbD f.toNat then 1 else 0])
  | .voteMatch m _ a _ | .voteRadd m _ a _ | .voteRmin m _ a _ | .voteRmax m _ a _ | .voteRfadd m _ a _ =>
    some (m, [h.val a])
  | .elect m _ => some (m, [])
  | .ckx m n int _ => some (m, [h.ckValue n.toNat int])
  | _ => none

/-- A team is on its core, and nothing has begun to end it. -/
structure OnCore (s : State) (k : Nat) (T : Team) : Prop where
  team : s.team? k = some T
  resident : T.status = .resident
  goes : T.dying = false

/-- The team after `n` bytes of copy `id` have landed, which count on its barrier (R168), and after the copy has finished
(R173). -/
def Team.landed (T : Team) (id : Nat) (C : Copy) (n : Nat) : Team :=
  let T := match C.barrier with
    | some k => T.landBytes k n
    | none => T
  { T with copies := SMap.modify id (fun C => { C with done := C.done + n, parts := [], out := [] }) T.copies }
def Team.copied (T : Team) (id : Nat) (C : Copy) : Team :=
  let T := match C.barrier with
    | some k => T.engineDone k
    | none => T
  { T with copies := SMap.erase id T.copies }

/-- An engine operation of team k changes the team at its end: at once if all its stores have been performed, before which
no later store is then performed (R259). -/
def State.finishes (s : State) (k : Nat) (o : Origin) (f : Team → Team) : State :=
  if s.opPending k o then s else (s.sealOrigin k o).modTeam k f

/-- A matrix command at the head of a team's queue that has been started and waits for nothing. -/
structure MxRuns (s : State) (k : Nat) (T : Team) (C : MxCmd) : Prop where
  on : OnCore s k T
  head : T.mx.queue.head? = some C
  started : C.started = true
  awake : C.sleep = none ∧ C.parts = [] ∧ C.out = []

/-- A command of a launch or collective queue waits at its head in a context that lives, and can be read. -/
structure QueueHolds (s : State) (Q : Queue) (va : Word64) : Prop where
  enabled : Q.enabled = true
  some_ : Q.head ≠ Q.tail
  entry : Q.entry? s = some va
  live : (s.ctx Q.ctx).live = true

/-- An instruction that writes one register with a value of registers read in order: those registers, the one written, and
the value (R59, R89–R93). -/
def laneRule : Instr → Option (List (BitVec 8) × BitVec 8 × (List Word → Word))
  | .mov d a => some ([a], d, fun v => v.getD 0 0)
  | .not d a => some ([a], d, fun v => ~~~ v.getD 0 0)
  | .neg d a => some ([a], d, fun v => 0 - v.getD 0 0)
  | .iadd d a b => some ([a, b], d, fun v => v.getD 0 0 + v.getD 1 0)
  | .isub d a b => some ([a, b], d, fun v => v.getD 0 0 - v.getD 1 0)
  | .imul d a b false => some ([a, b], d, fun v => v.getD 0 0 * v.getD 1 0)
  | .and d a b => some ([a, b], d, fun v => v.getD 0 0 &&& v.getD 1 0)
  | .or d a b => some ([a, b], d, fun v => v.getD 0 0 ||| v.getD 1 0)
  | .xor d a b => some ([a, b], d, fun v => v.getD 0 0 ^^^ v.getD 1 0)
  | .iaddi d a i => some ([a], d, fun v => v.getD 0 0 + BitVec.ofInt 32 i.toInt)
  | .andi d a i => some ([a], d, fun v => v.getD 0 0 &&& BitVec.ofInt 32 i.toInt)
  | .ori d a i => some ([a], d, fun v => v.getD 0 0 ||| BitVec.ofInt 32 i.toInt)
  | .xori d a i => some ([a], d, fun v => v.getD 0 0 ^^^ BitVec.ofInt 32 i.toInt)
  | _ => none

/-- The stream elements that an instruction's reads of in ports take before its own effect (R26). -/
def takes (team t : Nat) (i : Instr) : M Unit :=
  match portReads i with
  | [] => pure ()
  | p :: ps => latchPorts team t (portWrites i) [] (p :: ps)

/-- Fields read one after another by a lane. -/
def readFields (l : Lane) (as : List (BitVec 8)) : M (List Word) := as.mapM (rd l)

/-- A ring of 32-bit elements lies in a team's own scratchpad, whose words can all be read (R180). -/
structure OwnRing (s : State) (T : Team) (r : Ring) : Prop where
  own : r.window = false ∧ r.control.toNat < winBase ∧ r.base.toNat + 4 * r.count < winBase
  control : r.control.toNat + 8 ≤ T.size
  elements : r.base.toNat + 4 * r.count ≤ T.size
  some_ : 0 < r.count
  sound : CoreSound s T

/-- A word of a team's scratchpad. -/
def Team.localWord (T : Team) (x : Nat) : Word := BitVec.ofNat 32 (leNat (readBytes T.sp x 4))

end Sys2Proof.Machine
end

