-- ==== Sys2Proof/Certificates/Slice0/Obligations.lean ====
section
/-!
DEFINITION. The statements about this machine for the provers.
-/

open Sys2Proof Sys2Proof.Machine

/-! ### Integer instructions -/

/-- R89: IADD, ISUB, AND, OR, XOR, ANDN, IMIN, IMAX, and IMUL's low word. Each writes one register and nothing else. -/
def Obligations.IntegerBinary : Prop :=
  ∀ d a b : BitVec 8,
    Does (.iadd d a b) (fun h => h.put d (h.val a + h.val b)) ∧
    Does (.isub d a b) (fun h => h.put d (h.val a - h.val b)) ∧
    Does (.imul d a b false) (fun h => h.put d (h.val a * h.val b)) ∧
    Does (.and d a b) (fun h => h.put d (h.val a &&& h.val b)) ∧
    Does (.or d a b) (fun h => h.put d (h.val a ||| h.val b)) ∧
    Does (.xor d a b) (fun h => h.put d (h.val a ^^^ h.val b)) ∧
    Does (.andn d a b) (fun h => h.put d (h.val a &&& ~~~ h.val b)) ∧
    Does (.imin d a b false) (fun h => h.put d (if (h.val a).toInt ≤ (h.val b).toInt then h.val a else h.val b)) ∧
    Does (.imin d a b true) (fun h => h.put d (if (h.val a).toNat ≤ (h.val b).toNat then h.val a else h.val b)) ∧
    Does (.imax d a b false) (fun h => h.put d (if (h.val a).toInt ≤ (h.val b).toInt then h.val b else h.val a)) ∧
    Does (.imax d a b true) (fun h => h.put d (if (h.val a).toNat ≤ (h.val b).toNat then h.val b else h.val a))

/-- R89: the high words of the unsigned and signed products, the multiply-accumulates, and sums and differences of
pairs, as exact integers reduced to the width written. R89: SHL, SHR and SAR by the whole value of b: an amount of 32
or more shifts every bit out, and SAR then leaves copies of the sign. R91: the immediate shifts and rotation. R343:
under erratum 1 SHL, SHR and SAR shift by b[4:0]. -/
def Obligations.WideProductsAndShifts : Prop :=
  (∀ d a b : BitVec 8,
    Does (.imul d a b true)
      (fun h => h.put d (BitVec.ofNat 32 ((h.val a).toNat * (h.val b).toNat / 2 ^ 32))) ∧
    Does (.imulhs d a b)
      (fun h => h.put d (BitVec.ofInt 32 ((h.val a).toInt * (h.val b).toInt / 2 ^ 32))) ∧
    Does (.imad d a b false)
      (fun h => h.put d (BitVec.ofInt 32 ((h.val d).toInt + (h.val a).toInt * (h.val b).toInt))) ∧
    Does (.imad d a b true)
      (fun h => h.putPair d (BitVec.ofInt 64 ((h.pair d).toInt + (h.val a).toInt * (h.val b).toInt))) ∧
    Does (.iadd64 d a b false) (fun h => h.putPair d (h.pair a + h.pair b)) ∧
    Does (.iadd64 d a b true) (fun h => h.putPair d (h.pair a - h.pair b))) ∧
  (∀ d a b : BitVec 8,
    DoesIf (.shl d a b) plainShifts (fun _ _ _ _ h =>
      h.put d (BitVec.ofNat 32 ((h.val a).toNat * 2 ^ (h.val b).toNat))) ∧
    DoesIf (.shr d a b) plainShifts (fun _ _ _ _ h =>
      h.put d (BitVec.ofNat 32 ((h.val a).toNat / 2 ^ (h.val b).toNat))) ∧
    DoesIf (.sar d a b) plainShifts (fun _ _ _ _ h =>
      h.put d (BitVec.ofInt 32 ((h.val a).toInt / 2 ^ (h.val b).toNat))) ∧
    DoesIf (.shl d a b) shortShifts (fun _ _ _ _ h =>
      h.put d (BitVec.ofNat 32 ((h.val a).toNat * 2 ^ ((h.val b).toNat % 32)))) ∧
    DoesIf (.shr d a b) shortShifts (fun _ _ _ _ h =>
      h.put d (BitVec.ofNat 32 ((h.val a).toNat / 2 ^ ((h.val b).toNat % 32)))) ∧
    DoesIf (.sar d a b) shortShifts (fun _ _ _ _ h =>
      h.put d (BitVec.ofInt 32 ((h.val a).toInt / 2 ^ ((h.val b).toNat % 32)))) ∧
    ∀ n : BitVec 5,
      Does (.shli d a n) (fun h => h.put d (BitVec.ofNat 32 ((h.val a).toNat * 2 ^ n.toNat))) ∧
      Does (.shri d a n) (fun h => h.put d (BitVec.ofNat 32 ((h.val a).toNat / 2 ^ n.toNat))) ∧
      Does (.sari d a n) (fun h => h.put d (BitVec.ofInt 32 ((h.val a).toInt / 2 ^ n.toNat))) ∧
      Does (.rotri d a n) (fun h => h.put d (BitVec.ofNat 32
        ((h.val a).toNat / 2 ^ n.toNat + (h.val a).toNat * 2 ^ (32 - n.toNat)))))

/-- R59: the fourteen two-operand compact forms but the floating-point ones, and the two with an immediate, on d and s
of 16-bit words. R91 and R92: the sign-extended immediates of arithmetic and logic, and the two halves of a constant. -/
def Obligations.ImmediateAndCompactForms : Prop :=
  (∀ (d : BitVec 6) (e i : BitVec 5),
    let D := d.setWidth 8
    let E := e.setWidth 8
    Does (.movCompact d e) (fun h => h.put D (h.val E)) ∧
    Does (.iaddCompact d e) (fun h => h.put D (h.val D + h.val E)) ∧
    Does (.isubCompact d e) (fun h => h.put D (h.val D - h.val E)) ∧
    Does (.andCompact d e) (fun h => h.put D (h.val D &&& h.val E)) ∧
    Does (.orCompact d e) (fun h => h.put D (h.val D ||| h.val E)) ∧
    Does (.xorCompact d e) (fun h => h.put D (h.val D ^^^ h.val E)) ∧
    Does (.shlCompact d e) (fun h => h.put D (BitVec.ofNat 32 ((h.val D).toNat * 2 ^ (h.val E).toNat))) ∧
    Does (.shrCompact d e) (fun h => h.put D (BitVec.ofNat 32 ((h.val D).toNat / 2 ^ (h.val E).toNat))) ∧
    Does (.sarCompact d e) (fun h => h.put D (BitVec.ofInt 32 ((h.val D).toInt / 2 ^ (h.val E).toNat))) ∧
    Does (.imulCompact d e) (fun h => h.put D (h.val D * h.val E)) ∧
    Does (.iaddiCompact d i) (fun h => h.put D (h.val D + BitVec.ofInt 32 i.toInt)) ∧
    Does (.movi d i) (fun h => h.put D (BitVec.ofInt 32 i.toInt))) ∧
  (∀ (d a : BitVec 8) (i : BitVec 9) (k : BitVec 16),
    Does (.iaddi d a i) (fun h => h.put d (h.val a + BitVec.ofInt 32 i.toInt)) ∧
    Does (.andi d a i) (fun h => h.put d (h.val a &&& BitVec.ofInt 32 i.toInt)) ∧
    Does (.ori d a i) (fun h => h.put d (h.val a ||| BitVec.ofInt 32 i.toInt)) ∧
    Does (.xori d a i) (fun h => h.put d (h.val a ^^^ BitVec.ofInt 32 i.toInt)) ∧
    Does (.movkl d k) (fun h => h.put d (BitVec.ofNat 32 k.toNat)) ∧
    Does (.movkh d k) (fun h => h.put d (BitVec.ofNat 32 (k.toNat * 2 ^ 16 + (h.val d).toNat % 2 ^ 16))))

/-- R93: the moves, complements, counts and extensions of one register. R11, R12, R16, R30 and R93: what a thread
reads of where it is and of its launch's clock, and the moves between a b register and a g register. The model's
choices it rests on: log entry 7. -/
def Obligations.IntegerUnaryAndIdentity : Prop :=
  (∀ d a : BitVec 8,
    Does (.mov d a) (fun h => h.put d (h.val a)) ∧
    Does (.not d a) (fun h => h.put d (~~~ h.val a)) ∧
    Does (.neg d a) (fun h => h.put d (0 - h.val a)) ∧
    Does (.iabs d a) (fun h => h.put d (BitVec.ofNat 32 (h.val a).toInt.natAbs)) ∧
    Does (.clz d a) (fun h => h.put d (BitVec.ofNat 32
      (((List.range 32).map fun j => (h.val a).getLsbD (31 - j)).takeWhile (fun x => !x)).length)) ∧
    Does (.popc d a) (fun h => h.put d (BitVec.ofNat 32 (((List.range 32).filter (h.val a).getLsbD).length))) ∧
    (∀ r : Word, DoesIf (.brev d a) (fun _ _ _ h => ∀ j < 32, r.getLsbD j = (h.val a).getLsbD (31 - j))
      (fun _ _ _ _ h => h.put d r)) ∧
    Does (.sexb d a) (fun h => h.put d (BitVec.ofInt 32 ((h.val a).setWidth 8).toInt)) ∧
    Does (.sexh d a) (fun h => h.put d (BitVec.ofInt 32 ((h.val a).setWidth 16).toInt)) ∧
    Does (.zexb d a) (fun h => h.put d (BitVec.ofNat 32 ((h.val a).toNat % 2 ^ 8))) ∧
    Does (.zexh d a) (fun h => h.put d (BitVec.ofNat 32 ((h.val a).toNat % 2 ^ 16)))) ∧
  (∀ (d a : BitVec 8) (k : BitVec 3),
    DoesIf (.laneid d) (fun _ _ _ _ => True)
      (fun _ t T G h => h.put d (BitVec.ofNat 32 ((G.lane + t % T.width) % 64))) ∧
    DoesIf (.tidx d) (fun _ _ _ _ => True) (fun _ t _ _ h => h.put d (BitVec.ofNat 32 t)) ∧
    (∀ L : Launch,
      DoesIf (.teamix d) (fun s T _ _ => SMap.find? T.launch s.launches = some L ∧ L.job = none)
        (fun _ _ T _ h => h.put d (BitVec.ofNat 32
          (T.x.toNat + L.record.tx.toNat * (T.y.toNat + L.record.ty.toNat * T.z.toNat)))) ∧
      DoesIf (.teamix d) (fun s T _ _ => SMap.find? T.launch s.launches = some L ∧ L.job.isSome = true ∧ T.z = 0)
        (fun _ _ T _ h => h.put d (BitVec.ofNat 32 (T.x.toNat + 2 ^ 16 * T.y.toNat))) ∧
      ∀ t0 : Nat,
        DoesIf (.clklo d) (fun s T _ _ => SMap.find? T.launch s.launches = some L ∧ L.t0 = some t0)
          (fun s _ _ _ h => h.put d (BitVec.ofNat 32 (s.clock - t0))) ∧
        DoesIf (.clkhi d) (fun s T _ _ => SMap.find? T.launch s.launches = some L ∧ L.t0 = some t0)
          (fun s _ _ _ h => h.put d (BitVec.ofNat 32 ((s.clock - t0) / 2 ^ 32)))) ∧
    Does (.b2g d k) (fun h => h.put d (if h.b.getLsbD k.toNat then 1 else 0)) ∧
    Does (.g2b k a) (fun h => { h with b := setBit h.b k (h.val a != 0) }))

/-- R63, R94 and R95: ICMP and ICMPI write a b register with the condition, anded with what it held when the bit says
so; b7 keeps its 1; SEL moves where the b register has the sense. R90: PERM's four bytes. -/
def Obligations.CompareSelectPermute : Prop :=
  ∀ (d a b : BitVec 8) (e c : BitVec 3) (i : BitVec 8) (sense : Bool),
    (∀ r : Bool,
      DoesIf (.icmp e c false a b) (fun _ _ _ h => r = true ↔ condHolds c (h.val a) (h.val b))
        (fun _ _ _ _ h => { h with b := setBit h.b e r }) ∧
      DoesIf (.icmp e c true a b) (fun _ _ _ h => r = true ↔ condHolds c (h.val a) (h.val b))
        (fun _ _ _ _ h => { h with b := setBit h.b e (h.b.getLsbD e.toNat && r) }) ∧
      DoesIf (.icmpi e c false a i) (fun _ _ _ h => r = true ↔ condHolds c (h.val a) (BitVec.ofInt 32 i.toInt))
        (fun _ _ _ _ h => { h with b := setBit h.b e r }) ∧
      DoesIf (.icmpi e c true a i) (fun _ _ _ h => r = true ↔ condHolds c (h.val a) (BitVec.ofInt 32 i.toInt))
        (fun _ _ _ _ h => { h with b := setBit h.b e (h.b.getLsbD e.toNat && r) })) ∧
    Does (.sel c sense d a) (fun h => h.put d (if h.b.getLsbD c.toNat = sense then h.val a else h.val d)) ∧
    DoesIf (.perm d a b) (fun _ _ _ _ => True) (fun _ _ _ _ h =>
      let byte (j : Nat) : Byte :=
        let v := (h.val b ++ h.val a).extractLsb' (8 * ((h.val d).toNat / 16 ^ j % 8)) 8
        if (h.val d).getLsbD (4 * j + 3) then (if v.msb then 0xFF else 0x00) else v
      h.put d (byte 3 ++ byte 2 ++ byte 1 ++ byte 0))

/-! ### Floating-point instructions -/

/-- R96–R98 and R101: the binary32 and packed forms under the group's FPCTL, the compact forms, and FCMP. A NaN
operand of FADD gives the canonical NaN 0x7FC00000 while legacy NaN is off (R35, R36). A difference of equal values is
+0, or −0 under RDN; a sum of equal zeros is that zero; a product with a zero has the sign of the product; of two
zeros −0 is the smaller. 1.5 + 2.25 is 3.75 in every mode, and 1 + 2⁻²⁴ is 1, or the next value up under RUP (R34,
R45). -/
def Obligations.FloatArithmetic : Prop :=
  ∀ (d a b : BitVec 8) (x : Bool) (D : BitVec 6) (E : BitVec 5) (k c : BitVec 3),
    DoesIf (.fadd d a b x) (fun _ _ _ _ => True) (fun _ _ _ G h => h.put d (fpWord G.mode .add x (h.val a) (h.val b) 0)) ∧
    DoesIf (.fsub d a b x) (fun _ _ _ _ => True) (fun _ _ _ G h => h.put d (fpWord G.mode .sub x (h.val a) (h.val b) 0)) ∧
    DoesIf (.fmul d a b x) (fun _ _ _ _ => True) (fun _ _ _ G h => h.put d (fpWord G.mode .mul x (h.val a) (h.val b) 0)) ∧
    DoesIf (.fmin d a b x) (fun _ _ _ _ => True) (fun _ _ _ G h => h.put d (fpWord G.mode .min x (h.val a) (h.val b) 0)) ∧
    DoesIf (.fmax d a b x) (fun _ _ _ _ => True) (fun _ _ _ G h => h.put d (fpWord G.mode .max x (h.val a) (h.val b) 0)) ∧
    DoesIf (.ffma d a b x) (fun _ _ _ _ => True)
      (fun _ _ _ G h => h.put d (fpWord G.mode .fma x (h.val a) (h.val b) (h.val d))) ∧
    DoesIf (.faddCompact D E) (fun _ _ _ _ => True) (fun _ _ _ G h =>
      h.put (D.setWidth 8) (fpWord G.mode .add false (h.val (D.setWidth 8)) (h.val (E.setWidth 8)) 0)) ∧
    DoesIf (.fsubCompact D E) (fun _ _ _ _ => True) (fun _ _ _ G h =>
      h.put (D.setWidth 8) (fpWord G.mode .sub false (h.val (D.setWidth 8)) (h.val (E.setWidth 8)) 0)) ∧
    DoesIf (.fmulCompact D E) (fun _ _ _ _ => True) (fun _ _ _ G h =>
      h.put (D.setWidth 8) (fpWord G.mode .mul false (h.val (D.setWidth 8)) (h.val (E.setWidth 8)) 0)) ∧
    DoesIf (.fmaxCompact D E) (fun _ _ _ _ => True) (fun _ _ _ G h =>
      h.put (D.setWidth 8) (fpWord G.mode .max false (h.val (D.setWidth 8)) (h.val (E.setWidth 8)) 0)) ∧
    DoesIf (.fcmp k c x a b) (fun _ _ _ _ => True) (fun _ _ _ G h =>
      let r := fpCond c (fp32.daz G.mode.daz (h.val a).toNat) (fp32.daz G.mode.daz (h.val b).toNat)
      { h with b := setBit h.b k (if x then h.b.getLsbD k.toNat && r else r) }) ∧
    DoesIf (.fadd d a b false) (fun _ _ G h => G.mode.legacyNan = false ∧ fp32.isNan (h.val a).toNat = true)
      (fun _ _ _ _ h => h.put d 0x7FC00000) ∧
    (let field (v : Word) : Nat := v.toNat / 2 ^ 23 % 2 ^ 8
     let zero (v : Word) : Prop := v = 0 ∨ v = 0x80000000
     let down (G : Group) : Prop := G.fpctl.extractLsb' 0 2 = 2
     let up (G : Group) : Prop := G.fpctl.extractLsb' 0 2 = 3
     DoesIf (.fsub d a b false) (fun _ _ G h => h.val a = h.val b ∧ field (h.val a) < 255 ∧ ¬ down G)
       (fun _ _ _ _ h => h.put d 0) ∧
     DoesIf (.fsub d a b false) (fun _ _ G h => h.val a = h.val b ∧ field (h.val a) < 255 ∧ down G)
       (fun _ _ _ _ h => h.put d 0x80000000) ∧
     DoesIf (.fadd d a b false) (fun _ _ _ h => h.val a = h.val b ∧ zero (h.val a))
       (fun _ _ _ _ h => h.put d (h.val a)) ∧
     DoesIf (.fmul d a b false) (fun _ _ _ h => zero (h.val a) ∧ field (h.val b) < 255)
       (fun _ _ _ _ h => h.put d ((h.val a ^^^ h.val b) &&& 0x80000000)) ∧
     DoesIf (.fadd d a b false) (fun _ _ _ h => h.val a = 0x3FC00000 ∧ h.val b = 0x40100000)
       (fun _ _ _ _ h => h.put d 0x40700000) ∧
     DoesIf (.fadd d a b false) (fun _ _ G h => h.val a = 0x3F800000 ∧ h.val b = 0x33800000 ∧ ¬ up G)
       (fun _ _ _ _ h => h.put d 0x3F800000) ∧
     DoesIf (.fadd d a b false) (fun _ _ G h => h.val a = 0x3F800000 ∧ h.val b = 0x33800000 ∧ up G)
       (fun _ _ _ _ h => h.put d 0x3F800001) ∧
     DoesIf (.fmin d a b false) (fun _ _ _ h => zero (h.val a) ∧ h.val b = h.val a ^^^ 0x80000000)
       (fun _ _ _ _ h => h.put d 0x80000000) ∧
     DoesIf (.fmax d a b false) (fun _ _ _ h => zero (h.val a) ∧ h.val b = h.val a ^^^ 0x80000000)
       (fun _ _ _ _ h => h.put d 0))

/-- R67, R99 and R100: each function of the FUN group gives its result after the window of l instructions, at once
when the window is empty; FSAT where no translation emulates erratum 2, and where one does (R343). FABS clears and
FNEG inverts the sign of a value that is no NaN and that FPCTL does not flush, and FCLASS sets the one bit of the
operand's class (R34, R100). The model's choices it rests on: log entries 8 and 11. -/
def Obligations.FloatFunctions : Prop :=
  ∀ (d a : BitVec 8) (l : BitVec 4),
    let gives (i : Instr) (op : FunOp) : Prop :=
      DoesIf i (fun _ _ _ _ => True) (fun _ _ _ G h =>
        h.expect d l (BitVec.ofNat 32 (funResult G.mode op (h.val a).toNat)))
    gives (.fabs d a l) .abs ∧ gives (.fneg d a l) .neg ∧ gives (.frcp d a l) .rcp ∧ gives (.frsq d a l) .rsq ∧
    gives (.fsqrt d a l) .sqrt ∧ gives (.fexp2 d a l) .exp2 ∧ gives (.flog2 d a l) .log2 ∧ gives (.fsin d a l) .sin ∧
    gives (.fcos d a l) .cos ∧ gives (.ftanh d a l) .tanh ∧ gives (.ffloor d a l) .floor ∧ gives (.fceil d a l) .ceil ∧
    gives (.ftrunc d a l) .trunc ∧ gives (.frint d a l) .rint ∧ gives (.fclass d a l) .cls ∧
    DoesIf (.fsat d a l) (fun s T _ h => emulates s T h 2 = false)
      (fun _ _ _ G h => h.expect d l (BitVec.ofNat 32 (funResult G.mode .sat (h.val a).toNat))) ∧
    DoesIf (.fsat d a l)
      (fun s T G h => emulates s T h 2 = true ∧ fp32.isNan (h.val a).toNat = true ∧
        G.mode.legacyNan = false)
      (fun _ _ _ _ h => h.expect d l 0x7FC00000) ∧
    (let field (v : Word) : Nat := v.toNat / 2 ^ 23 % 2 ^ 8
     let tail (v : Word) : Nat := v.toNat % 2 ^ 23
     let kept (_ : State) (_ : Team) (G : Group) (h : Thread) : Prop :=
       ¬ (field (h.val a) = 255 ∧ tail (h.val a) ≠ 0) ∧
         (field (h.val a) = 0 → tail (h.val a) = 0 ∨ (G.mode.daz = false ∧ G.mode.ftz = false))
     DoesIf (.fabs d a l) kept (fun _ _ _ _ h => h.expect d l (h.val a &&& 0x7FFFFFFF)) ∧
     DoesIf (.fneg d a l) kept (fun _ _ _ _ h => h.expect d l (h.val a ^^^ 0x80000000)) ∧
     DoesIf (.fclass d a l) (fun _ _ _ _ => True) (fun _ _ _ _ h =>
       let v := h.val a
       h.expect d l (BitVec.ofNat 32 (2 ^ (
         if field v = 255 then (if tail v = 0 then (if v.msb then 0 else 7) else if v.getLsbD 22 then 9 else 8)
         else if field v = 0 then (if tail v = 0 then (if v.msb then 3 else 4) else if v.msb then 2 else 5)
         else if v.msb then 1 else 6)))))

/-- R45, R47, R102 and R103: CVT to the format its code names, under the rounding and overflow policy of its fields,
alone or shifted in from the top; a stochastic one takes a draw; an overflow under TRAP traps; an invalid binary8 slot
traps OPERAND_FORMAT (R40). R103, R104 and R52: the fixed conversions and the dot products; a binary8 value that
binary32 does not hold gives a free word. The model's choices it rests on: log entries 55 and 75. -/
def Obligations.Conversions : Prop :=
  (∀ (d a : BitVec 8) (f : BitVec 3) (r p : BitVec 2) (ins : Bool) (F : VFmt) (v : Nat) (clamped : Bool),
    DoesIf (.cvt d a f r p ins)
      (fun _ _ G h => r ≠ 3 ∧ vformat G.nfmt f = some F ∧
        cvtResult G.mode F (cvtRound G.mode F r 0) p (h.val a) = .ok v clamped)
      (fun _ _ _ _ h => h.put d (placed F ins (if ins then h.val d else 0) v)) ∧
    (∀ t : Nat,
      DoesIf (.cvt d a f 3 p ins)
        (fun s T G h => s.cur.map (·.threads) = some [t] ∧ T.replay.getLsbD 0 = false ∧ vformat G.nfmt f = some F ∧
          cvtResult G.mode F (cvtRound G.mode F 3 (T.rowan t h)) p (h.val a) = .ok v clamped)
        (fun _ _ _ _ h => { h with draw := h.draw + 1 }.put d (placed F ins (if ins then h.val d else 0) v))) ∧
    Traps (.cvt d a f r p ins)
      (fun _ _ G h => r ≠ 3 ∧ vformat G.nfmt f = some F ∧
        cvtResult G.mode F (cvtRound G.mode F r 0) p (h.val a) = .trap) Cause.overflowTrap (fun _ => 0) ∧
    Traps (.cvt d a f r p ins) (fun _ _ G _ => vformat G.nfmt f = none) Cause.operandFormat (fun _ => 0)) ∧
  (∀ (d a b : BitVec 8) (x : Bool),
    DoesIf (.cvif d a) (fun _ _ _ _ => True) (fun _ _ _ G h =>
      h.put d (ofInt G.mode (h.val a).msb (h.val a).toInt.natAbs)) ∧
    DoesIf (.cvnf d a) (fun _ _ _ _ => True) (fun _ _ _ G h => h.put d (ofInt G.mode false (h.val a).toNat)) ∧
    DoesIf (.cvfi d a) (fun _ _ _ _ => True) (fun _ _ _ G h => h.put d (toInt G.mode true (h.val a))) ∧
    DoesIf (.cvfn d a) (fun _ _ _ _ => True) (fun _ _ _ G h => h.put d (toInt G.mode false (h.val a))) ∧
    DoesIf (.cvhf d a x) (fun _ _ _ _ => True) (fun _ _ _ G h =>
      h.put d (widen G.mode fp16 ((h.val a).extractLsb' (if x then 16 else 0) 16))) ∧
    DoesIf (.cvbf d a) (fun _ _ _ _ => True) (fun _ _ _ G h =>
      h.put d (widen G.mode bf16 ((h.val a).extractLsb' 0 16))) ∧
    DoesIf (.cv8af d a) (fun _ _ G h => (slotOf G.nfmt false).valid = true ∧
      ((slotOf G.nfmt false).value ((h.val a).toNat % 2 ^ 8)).beyond32 = false)
      (fun _ _ _ G h => h.put d (BitVec.ofNat 32 (fp32.ofV .rne fp32.nanBits ((slotOf G.nfmt false).value ((h.val a).toNat % 2 ^ 8))))) ∧
    (∀ e : Nat, DoesIf (.cv8af d a) (fun _ _ G h => (slotOf G.nfmt false).valid = true ∧ 128 ≤ e ∧
      (slotOf G.nfmt false).value ((h.val a).toNat % 2 ^ 8) = .fin false 1 e)
      (fun _ _ _ _ h => h.put d (Config.beyondFp32 e))) ∧
    DoesIf (.cv8bf d a) (fun _ _ G h => (slotOf G.nfmt true).valid = true ∧
      ((slotOf G.nfmt true).value ((h.val a).toNat % 2 ^ 8)).beyond32 = false)
      (fun _ _ _ G h => h.put d (BitVec.ofNat 32 (fp32.ofV .rne fp32.nanBits ((slotOf G.nfmt true).value ((h.val a).toNat % 2 ^ 8))))) ∧
    (∀ e : Nat, DoesIf (.cv8bf d a) (fun _ _ G h => (slotOf G.nfmt true).valid = true ∧ 128 ≤ e ∧
      (slotOf G.nfmt true).value ((h.val a).toNat % 2 ^ 8) = .fin false 1 e)
      (fun _ _ _ _ h => h.put d (Config.beyondFp32 e))) ∧
    DoesIf (.dot4 d a b) (fun _ _ G _ => (slotOf G.nfmt false).valid = true ∧ (slotOf G.nfmt true).valid = true)
      (fun _ _ _ G h => h.put d (dotSum (h.val d)
        ((elems 8 4 (h.val a)).map (slotOf G.nfmt false).value) ((elems 8 4 (h.val b)).map (slotOf G.nfmt true).value))) ∧
    DoesIf (.dot2 d a b) (fun _ _ _ _ => True) (fun _ _ _ G h =>
      let F := if G.fpctl.getLsbD 6 then bf16 else fp16
      h.put d (dotSum (h.val d) ((elems 16 2 (h.val a)).map F.value) ((elems 16 2 (h.val b)).map F.value))) ∧
    Traps (.cv8af d a) (fun _ _ G _ => (slotOf G.nfmt false).valid = false) Cause.operandFormat (fun _ => 0) ∧
    Traps (.cv8bf d a) (fun _ _ G _ => (slotOf G.nfmt true).valid = false) Cause.operandFormat (fun _ => 0))

/-! ### Probability predicates, draws and checksums -/

/-- R21, R141–R143 and R146: soft comparisons, combinations of predicates, and the moves between q registers and
others. R144, R146 and R147: SELQ and COLL collapse against a fresh draw from the team's seed, and count it; BLEND and
BLENDI mix by the code and take no draw. The model's choices it rests on: log entry 11. -/
def Obligations.ProbabilityPredicates : Prop :=
  (∀ (d a b : BitVec 8) (q x y k : BitVec 3) (n m : BitVec 2) (Q : BitVec 25),
    DoesIf (.scmp q n k a b) (fun _ _ _ _ => True) (fun _ _ _ G h =>
      h.putQ q (qMake (softCode n (h.val a) (h.val b) G.temp) (BitVec.ofNat 8 (2 ^ k.toNat)) false)) ∧
    DoesIf (.pcombAnd q x y m) (fun _ _ _ h => combine andP (h.qval x) (h.qval y) m = some Q)
      (fun _ _ _ _ h => h.putQ q Q) ∧
    DoesIf (.pcombOr q x y m) (fun _ _ _ h => combine orP (h.qval x) (h.qval y) m = some Q)
      (fun _ _ _ _ h => h.putQ q Q) ∧
    DoesIf (.pcombXor q x y m) (fun _ _ _ h => combine xorP (h.qval x) (h.qval y) m = some Q)
      (fun _ _ _ _ h => h.putQ q Q) ∧
    Traps (.pcombAnd q x y 3) (fun _ _ _ h => qLineage (h.qval x) &&& qLineage (h.qval y) ≠ 0)
      Cause.dependentPredicate (fun _ => 0) ∧
    Traps (.pcombOr q x y 3) (fun _ _ _ h => qLineage (h.qval x) &&& qLineage (h.qval y) ≠ 0)
      Cause.dependentPredicate (fun _ => 0) ∧
    Traps (.pcombXor q x y 3) (fun _ _ _ h => qLineage (h.qval x) &&& qLineage (h.qval y) ≠ 0)
      Cause.dependentPredicate (fun _ => 0) ∧
    Does (.pcombNot q x) (fun h =>
      h.putQ q (qMake (0x8000 - qCode (h.qval x)) (qLineage (h.qval x)) (qIndep (h.qval x)))) ∧
    Does (.qset q a) (fun h =>
      h.putQ q (qMake ((h.val a).toNat % 2 ^ 16) ((h.val a).extractLsb' 16 8) ((h.val a).getLsbD 24))) ∧
    Does (.qget q d) (fun h => h.put d ((h.qval q).setWidth 32)) ∧
    Does (.qfromb q x) (fun h => h.putQ q (qMake (if h.b.getLsbD x.toNat then 0x8000 else 0) 0 false)) ∧
    DoesIf (.pgrad q n d) (fun _ _ _ _ => True) (fun _ _ _ G h =>
      h.put d (gradient (decide (n.toNat < 2)) (qCode (h.qval q)) G.temp)) ∧
    Does (.qhard q k) (fun h => { h with b := setBit h.b k (decide (0x4000 ≤ qCode (h.qval q))) })) ∧
  (∀ (d a : BitVec 8) (q k : BitVec 3) (sense : Bool) (t : Nat),
    let drawn (s : State) (T : Team) : Prop := s.cur.map (·.threads) = some [t] ∧ T.replay.getLsbD 0 = false
    DoesIf (.selq q sense d a) (fun s T _ _ => drawn s T) (fun _ _ T _ h =>
      ({ h with draw := h.draw + 1 } : Thread).put d
        (if decide (T.rowan t h < qCode (h.qval q)) = sense then h.val a else h.val d)) ∧
    DoesIf (.coll q k) (fun s T _ _ => drawn s T) (fun _ _ T _ h =>
      { h with draw := h.draw + 1, b := setBit h.b k (decide (T.rowan t h < qCode (h.qval q))) }) ∧
    Does (.blend q sense d a) (fun h =>
      h.put d (blend32 (if sense then qCode (h.qval q) else 0x8000 - qCode (h.qval q)) (h.val a) (h.val d))) ∧
    Does (.blendi q sense d a) (fun h =>
      h.put d (blendInt (if sense then qCode (h.qval q) else 0x8000 - qCode (h.qval q)) (h.val a) (h.val d))))

/-- R206, R207, R209 and R210: CKA adds into a checksum, one that the other mode last wrote reading as zero; CKZ
clears it; CKT passes when the checksum is near enough and traps INVARIANT otherwise; that a difference of infinities,
or one that is no value, fails the test is the model's choice (log entry 58), and no rule's. The model's choices it
rests on: log entry 58. -/
def Obligations.Checksums : Prop :=
  ∀ (n : BitVec 2) (int : Bool) (a b : BitVec 8),
    Does (.cka n true a) (fun h => h.setCk n.toNat
      ⟨((h.ckFor n.toNat true).extractLsb' 0 32 + h.val a).setWidth 64, some true⟩) ∧
    Does (.cka n false a) (fun h => h.setCk n.toNat ⟨ckAdd false (h.ckFor n.toNat false) (h.val a), some false⟩) ∧
    Does (.ckz n) (fun h => h.setCk n.toNat ⟨0, none⟩) ∧
    DoesIf (.ckt n int a b) (fun _ _ _ h => ckNear int (h.ckFor n.toNat int) (h.val a) (h.val b) = true)
      (fun _ _ _ _ h => h) ∧
    Traps (.ckt n int a b) (fun _ _ _ h => ckNear int (h.ckFor n.toNat int) (h.val a) (h.val b) = false)
      Cause.invariant (fun _ => 0) ∧
    Traps (.ckt n true a b) (fun _ _ _ h =>
      2 ^ 31 ≤ (((h.ckFor n.toNat true).extractLsb' 0 32) - h.val a).toNat ∧
      (h.val b).toNat < 2 ^ 32 - (((h.ckFor n.toNat true).extractLsb' 0 32) - h.val a).toNat)
      Cause.invariant (fun _ => 0)

/-! ### Control -/

/-- R58, R107 and R108: BRA goes to PC plus twice its offset where its b register has the sense, and on otherwise;
LAND does nothing. -/
def Obligations.Branches : Prop :=
  ∀ (c : BitVec 3) (sense : Bool) (o : BitVec 21),
    DoesTo (.bra c sense o) (fun _ _ _ h => h.b.getLsbD c.toNat = sense)
      (fun h => (h, h.pc + BitVec.ofInt 64 (2 * o.toInt))) ∧
    DoesIf (.bra c sense o) (fun _ _ _ h => h.b.getLsbD c.toNat ≠ sense) (fun _ _ _ _ h => h) ∧
    Does .land (fun h => h)

/-- R106–R109: CALL pushes PC + 4, into the eight registers or with the oldest spilled to the scratchpad; the
seventeenth nested call traps ILLEGAL. JMPI and CALLI go to a LAND, and trap MISALIGNED_PC or LANDING at the target
otherwise, CALLI without a push. R106, R108 and R109: RET pops the newest return address and goes there, if it is even
and executable; while older ones are spilled, the newest of those comes back from the scratchpad; an odd address traps
MISALIGNED_PC with the stack as it was; with an empty stack it traps ILLEGAL. -/
def Obligations.CallsAndReturns : Prop :=
  (∀ (b : BitVec 3) (sense : Bool) (o : BitVec 21) (p : BitVec 8),
    DoesTo (.call b sense o) (fun _ _ _ h => h.b.getLsbD b.toNat = sense ∧ h.rs.length < 8 ∧ h.spill = 0)
      (fun h => ({ h with rs := h.rs ++ [h.pc + 4] }, h.pc + BitVec.ofInt 64 (2 * o.toInt))) ∧
    DoesIf (.call b sense o) (fun _ _ _ h => h.b.getLsbD b.toNat ≠ sense) (fun _ _ _ _ h => h) ∧
    Traps (.call b sense o) (fun _ _ _ h => h.b.getLsbD b.toNat = sense ∧ h.rs.length + h.spill = 16)
      Cause.illegal (fun _ => 0) ∧
    (∀ s c t T G h a s', Solo s (.call b sense o) c t T G h → h.b.getLsbD b.toNat = sense → h.rs.length = 8 →
      h.spill < 8 → s.rcPending c.team (T.origin (.thread t)) = false → (T.size : Int) - 64 * (t + 1) + 8 * h.spill = (a : Nat) → a < T.size →
      storeLocal c.team ⟨c.team, a, false⟩ (leBytes 8 (h.rs.headD 0).toNat) s = .ok ((), s') →
      exec (.call b sense o) s = .next (s'.modThread c.team t fun h' =>
        ({ h' with rs := h.rs.drop 1 ++ [h.pc + 4], spill := h.spill + 1 } : Thread).goTo c.len
          (h.pc + BitVec.ofInt 64 (2 * o.toInt)))) ∧
    (∀ s c t T G h n j s', Solo s (.jmpi p) c t T G h → (h.pair p).getLsbD 0 = false →
      fetchAt c.team (h.pair p) s = .ok ((0x0000027D, n, j), s') →
      exec (.jmpi p) s = .next (s'.modThread c.team t fun h' => h'.goTo c.len (h.pair p))) ∧
    (∀ s c t T G h n j s', Solo s (.calli p) c t T G h → (h.pair p).getLsbD 0 = false →
      fetchAt c.team (h.pair p) s = .ok ((0x0000027D, n, j), s') →
      s'.thread? c.team t = some h → h.rs.length < 8 → h.spill = 0 →
      exec (.calli p) s = .next (s'.modThread c.team t fun h' =>
        ({ h' with rs := h.rs ++ [h.pc + 4] } : Thread).goTo c.len (h.pair p))) ∧
    Traps (.jmpi p) (fun _ _ _ h => (h.pair p).getLsbD 0 = true) Cause.misalignedPc (fun h => h.pair p) ∧
    Traps (.calli p) (fun _ _ _ h => (h.pair p).getLsbD 0 = true) Cause.misalignedPc (fun h => h.pair p) ∧
    (∀ s c t T G h w n j s', Solo s (.jmpi p) c t T G h → (h.pair p).getLsbD 0 = false →
      fetchAt c.team (h.pair p) s = .ok ((w, n, j), s') → w ≠ 0x0000027D →
      exec (.jmpi p) s = .next (s.trapped c (.jmpi p) t Cause.landing (h.pair p) none)) ∧
    (∀ s c t T G h w n j s', Solo s (.calli p) c t T G h → (h.pair p).getLsbD 0 = false →
      fetchAt c.team (h.pair p) s = .ok ((w, n, j), s') → w ≠ 0x0000027D →
      exec (.calli p) s = .next (s.trapped c (.calli p) t Cause.landing (h.pair p) none))) ∧
  ((∀ s c t T G h v s', Solo s .ret c t T G h → h.rs.getLast? = some v → h.spill = 0 → v.getLsbD 0 = false →
    checkCode c.team v (s.modThread c.team t fun h => { h with rs := h.rs.dropLast, spill := 0 }) = .ok ((), s') →
    exec .ret s = .next (s'.modThread c.team t fun h => h.goTo c.len v)) ∧
  (∀ s c t T G h v a s', Solo s .ret c t T G h → CoreSound s T → h.rs.getLast? = some v → 0 < h.spill →
    v.getLsbD 0 = false → (T.size : Int) - 64 * (t + 1) + 8 * (h.spill - 1 : Nat) = (a : Nat) → a < T.size →
    checkCode c.team v (s.modThread c.team t fun h =>
      { h with rs := BitVec.ofNat 64 (leNat (readBytes T.sp a 8)) :: h.rs.dropLast, spill := h.spill - 1 }) = .ok ((), s') →
    exec .ret s = .next (s'.modThread c.team t fun h => h.goTo c.len v)) ∧
  (∀ v, Traps .ret (fun _ _ _ h => h.rs.getLast? = some v ∧ h.spill = 0 ∧ v.getLsbD 0 = true) Cause.misalignedPc
    (fun _ => v)) ∧
  Traps .ret (fun _ _ _ h => h.rs = [] ∧ h.spill = 0) Cause.illegal (fun _ => 0))

/-- R110 and R215: a thread outside a chain that exits is ended, and what its group's operations, slots, barriers and
queue were waiting for is settled; SUCC.EXIT is the same. The front thread's EXIT ends it. R69, R121, R122 and R288:
YLD drops the registers from g(16n) on, starts the watchdog again with 64 instructions doubled as often as its field
and the launch admit, and parks the thread of a team that is to rest. The model's choices it rests on: log entry 49. -/
def Obligations.ExitsAndYield : Prop :=
  (∀ (s : State) (c : Issue),
    (∀ t T G h, (Solo s .exit c t T G h → T.chain = none → h.remoteFail = none →
        exec .exit s = .next ((s.modThread c.team t fun h => { h with count := h.count + 1 }).modTeam c.team
          (·.endThread t))) ∧
      (Solo s .succExit c t T G h → T.chain = none → h.remoteFail = none →
        exec .succExit s = .next ((s.modThread c.team t fun h => { h with count := h.count + 1 }).modTeam c.team
          (·.endThread t))) ∧
      (T.thread? t = some h → ∃ h', (T.endThread t).thread? t = some h' ∧ h'.ended = true)) ∧
    ∀ T f, FrontSolo s .exit c T f → f.remoteFail = none →
      exec .exit s = .next (s.modFront c.team fun f => { f with ended := true, wait := none })) ∧
  (∀ (dl n : BitVec 4) s c t T G h L, Solo s (.yld dl n) c t T G h → SMap.find? T.launch s.launches = some L →
    (G.cancelled = false ∨ h.trap = none) →
    exec (.yld dl n) s = .next (s.modThread c.team t fun h =>
      { h.advance 4 with
          count := 0, limit := 64 * 2 ^ min dl.toNat L.record.y, parked := T.status == .resting,
          g := h.g.filter (fun e => decide (e.1 < 16 * n.toNat)) }))

/-- R120: BOP computes bd := ba op bb per thread, with op AND, OR, XOR or ANDN; a write to b7 is discarded; its word
has the fields of the rule, and all other bits zero; the rule's example. -/
def Obligations.BooleanOperations : Prop :=
  ∀ (z x y : BitVec 3),
    let bit (h : Thread) (k : BitVec 3) : Bool := h.b.getLsbD k.toNat
    let put (h : Thread) (v : Bool) : Thread :=
      if z = 7 then h else { h with b := setBit h.b z v }
    Does (.bop z x y 0) (fun h => put h (bit h x && bit h y)) ∧
    Does (.bop z x y 1) (fun h => put h (bit h x || bit h y)) ∧
    Does (.bop z x y 2) (fun h => put h (bit h x != bit h y)) ∧
    Does (.bop z x y 3) (fun h => put h (bit h x && !bit h y)) ∧
    (∀ v k, z ≠ 7 → (setBit v z true).getLsbD z.toNat = true ∧ (setBit v z false).getLsbD z.toNat = false ∧
      (k ≠ z.toNat → (setBit v z true).getLsbD k = v.getLsbD k ∧ (setBit v z false).getLsbD k = v.getLsbD k)) ∧
    (∀ op : BitVec 2,
      decode32 (1#1 ++ (0#3 ++ op ++ y) ++ (0#2 ++ x ++ z) ++ 0#5 ++ 5#3 ++ 0x3E#6 ++ 1#1) = some (.bop z x y op)) ∧
    decode32 0x858882FD = some (.bop 1 2 3 1)

/-- R123: TRAP and BRK raise USER_TRAP in the issuing thread; TRAP saves the address after it, and BRK its own; their
words, with every other field zero, and the rule's example; and the handler finds the word in TINST. -/
def Obligations.SoftwareTraps : Prop :=
  (∀ (k : BitVec 8) s c t T G h,
    (Solo s (.trap k) c t T G h → exec (.trap k) s =
      .next (s.trapped c (.trap k) t Cause.userTrap 0 (some (h.pc + 4)))) ∧
    (Solo s .brk c t T G h → exec .brk s =
      .next (s.trapped c .brk t Cause.userTrap 0 none))) ∧
  (∀ k : BitVec 8, decode32 (0x8000017D ||| (k.setWidth 32 <<< 23)) = some (.trap k)) ∧
  decode32 0x8000037D = some .brk ∧ decode32 0x8280017D = some (.trap 5) ∧
  ∀ (s : State) (c : Issue) (i : Instr) (t : Nat) (T : Team) (G : Group) (h : Thread) (tpc : Option Word64),
    s.team? c.team = some T → T.thread? t = some h → T.group? (T.groupIx t) = some G → h.pend = [] →
    h.tcause.getLsbD 8 = false → s.trapWord T 0 = 0xFFFFFFFF → s.trapWord T Cause.userTrap.toNat ≠ 0 →
    ∃ h', (s.trapLane c (some i) ⟨c.team, .thread t⟩ Cause.userTrap 0 tpc).thread? c.team t = some h' ∧
      h'.tinst = c.word ∧ h'.tpc = (tpc.getD h.pc).setWidth 32 ∧ h'.tcause = 0x100 ||| Cause.userTrap.setWidth 32

/-- R295–R298: entering a handler saves the PC's low word, the cause with the frame marked valid, the instruction
word, the fault address and the operand mask, and goes to the handler that the launch's trap table gives, in the PC's
upper half. Here the launch has no operand frames. R75 and R124: RTT and its successor form clear the valid bit and
return to the saved address in the PC's upper half, if code can be fetched there; an odd one traps MISALIGNED_PC with
that address as its own saved PC, the valid bit being clear already. With no valid frame they trap ILLEGAL. The
model's choices it rests on: log entries 15 and 20. -/
def Obligations.TrapEntryAndReturn : Prop :=
  (∀ (s : State) (c : Issue) (i : Instr) (t : Nat) (T : Team) (G : Group) (h : Thread) (cause : BitVec 8) (addr : Word64)
    (tpc : Option Word64),
    s.team? c.team = some T → T.thread? t = some h → T.group? (T.groupIx t) = some G → h.pend = [] →
    cause ≠ Cause.reconstruction → cause ≠ Cause.uncorrectable → Cause.never cause = false →
    h.tcause.getLsbD 8 = false → s.trapWord T 0 = 0xFFFFFFFF → s.trapWord T cause.toNat ≠ 0 →
    s.trapLane c (some i) ⟨c.team, .thread t⟩ cause addr tpc = s.modThread c.team t fun h =>
      { h with
          count := h.count + 1, tpc := (tpc.getD h.pc).setWidth 32, tcause := 0x100 ||| cause.setWidth 32,
          tinst := c.word, taddr := addr, tmask := BitVec.ofNat 32 (tmaskHigh T.width (some i)), trap := none, wait := none,
          places := [],
          pc := h.pc.extractLsb' 32 32 ++
            (s.bodyBase T + (s.trapWord T cause.toNat).setWidth 64).setWidth 32 }) ∧
  (∀ i : Instr, i = .rtt ∨ i = .succRtt →
    (∀ s c t T G h, Solo s i c t T G h → h.tcause.getLsbD 8 = true →
      let target := h.pc.extractLsb' 32 32 ++ h.tpc
      let s1 := s.modThread c.team t fun h => { h with tcause := h.tcause &&& 0xFF }
      (∀ s2, h.tpc.getLsbD 0 = false → checkCode c.team target s1 = .ok ((), s2) →
        exec i s = .next (s2.modThread c.team t fun h => h.goTo c.len target)) ∧
      (h.tpc.getLsbD 0 = true → exec i s = .next (s1.trapped c i t Cause.misalignedPc target (some target)))) ∧
    Traps i (fun _ _ _ h => h.tcause.getLsbD 8 = false) Cause.illegal (fun _ => 0))

/-! ### Memory -/

/-- R153–R156, R158, R252 and R254: LDL reads bytes of the team's scratchpad, and STL writes them, once no RC store
that the thread made before waits to be performed; a release waits for nothing when nothing of the team is
outstanding. A misaligned address traps MISALIGNED_DATA, and one beyond the scratchpad PROTECTION, with that address.
The model's choices it rests on: log entries 8, 9 and 36. -/
def Obligations.LocalMemory : Prop :=
  ∀ (d a : BitVec 8) (l : BitVec 4) (size : BitVec 3) (o : BitVec 2),
    DoesIf (.ldl d a l size o) (fun s T _ h => OwnLocal s T (h.val a).toNat (sizeBytes size))
      (fun _ _ T _ h => h.expectAll (loadDest d size) l
        (loadVals false size (readBytes T.sp (h.val a).toNat (sizeBytes size)))) ∧
    (∀ s c t T G h, Solo s (.stl d a l size o) c t T G h → OwnLocal s T (h.val a).toNat (sizeBytes size) →
      (o = 1 → T.revocable = false ∧ s.storesPending c.team = false ∧ s.remotesPending c.team = false) →
      (o ≠ 1 → s.rcPending c.team (T.origin (.thread t)) = false) →
      exec (.stl d a l size o) s =
        .next ((s.writeLocal ⟨c.team, (h.val a).toNat, false⟩ (h.data d size)).after c t fun h => h)) ∧
    (∀ s c t T G h, Solo s (.stl d a l size o) c t T G h → OwnLocal s T (h.val a).toNat (sizeBytes size) →
      o ≠ 1 → s.rcPending c.team (T.origin (.thread t)) = true → G.cancelled = false →
      exec (.stl d a l size o) s = .next (s.markWait ⟨c.team, .thread t⟩)) ∧
    Traps (.ldl d a l size o) (fun _ _ _ h => (h.val a).toNat % sizeBytes size ≠ 0) Cause.misalignedData
      (fun h => (h.val a).setWidth 64) ∧
    Traps (.stl d a l size o) (fun _ _ _ h => (h.val a).toNat % sizeBytes size ≠ 0) Cause.misalignedData
      (fun h => (h.val a).setWidth 64) ∧
    Traps (.ldl d a l size o)
      (fun _ T _ h => (h.val a).toNat % sizeBytes size = 0 ∧ (h.val a).toNat < winBase ∧
        T.size < (h.val a).toNat + sizeBytes size)
      Cause.protection (fun h => (h.val a).setWidth 64) ∧
    Traps (.stl d a l size o)
      (fun _ T _ h => (h.val a).toNat % sizeBytes size = 0 ∧ (h.val a).toNat < winBase ∧
        T.size < (h.val a).toNat + sizeBytes size)
      Cause.protection (fun h => (h.val a).setWidth 64)

/-- R164–R166 and R266: each local atomic writes the new value to its word and gives the old one; a compare that fails
writes back what it read, as the one access with one queued update of R266. The model's choices it rests on: log entry
8. -/
def Obligations.LocalAtomics : Prop :=
  ∀ (d a : BitVec 8) (l : BitVec 4) (w : Bool),
    let ready (s : State) (T : Team) (h : Thread) : Prop :=
      OwnLocal s T (h.val a).toNat 4 ∧
        (w = true → T.revocable = false ∧ ∀ k, s.cur.map (·.team) = some k → s.committing k = false)
    let old (T : Team) (h : Thread) : Word := BitVec.ofNat 32 (leNat (readBytes T.sp (h.val a).toNat 4))
    let swaps (i : Instr) (f : Word → Word → Word) : Prop :=
      ∀ s c t T G h, Solo s i c t T G h → ready s T h →
        exec i s = .next ((s.writeLocal ⟨c.team, (h.val a).toNat, false⟩
          (leBytes 4 (f (old T h) (h.val d)).toNat)).after c t fun h => h.expectAll [d] l [(old T h).setWidth 64])
    swaps (.atomlAdd d a l w) (fun m x => m + x) ∧
    swaps (.atomlFadd d a l w) add32 ∧
    swaps (.atomlMin d a l w) (fun m x => if x.toInt < m.toInt then x else m) ∧
    swaps (.atomlMax d a l w) (fun m x => if m.toInt < x.toInt then x else m) ∧
    swaps (.atomlXchg d a l w) (fun _ x => x) ∧
    swaps (.atomlFadd2 d a l w) addPairs ∧
    swaps (.atomlOr d a l w) (fun m x => m ||| x) ∧
    (∀ s c t T G h, Solo s (.atomlCas d a l w) c t T G h → ready s T h → old T h = h.val d →
      exec (.atomlCas d a l w) s = .next ((s.writeLocal ⟨c.team, (h.val a).toNat, false⟩
        (leBytes 4 (h.reg (d.toNat + 1)).toNat)).after c t fun h =>
          h.expectAll [d, d + 1] l [(old T h).setWidth 64, (h.reg (d.toNat + 1)).setWidth 64])) ∧
    (∀ s c t T G h, Solo s (.atomlCas d a l w) c t T G h → ready s T h → old T h ≠ h.val d →
      exec (.atomlCas d a l w) s = .next ((s.writeLocal ⟨c.team, (h.val a).toNat, false⟩
        (readBytes T.sp (h.val a).toNat 4)).after c t fun h =>
          h.expectAll [d, d + 1] l [(old T h).setWidth 64, (h.reg (d.toNat + 1)).setWidth 64]))

/-- R151, R152, R154–R159 and R258: through the heap triple, LD reads the bytes that the team sees at the address, and
ST puts its bytes in the team's porch, or on their way when the team is irrevocable; a release first commits the porch
and orders every later store after it. The model's choices it rests on: log entries 8, 9, 46, 52, 67, 71 and 78. -/
def Obligations.GlobalMemory : Prop :=
  ∀ (d a : BitVec 8) (l : BitVec 4) (size : BitVec 3) (o : BitVec 2) (pa : Nat),
    let n := sizeBytes size
    DoesIf (.ld d a l size o)
      (fun s T _ h => ∃ k, s.cur.map (·.team) = some k ∧ InHeap s k T (h.pair a).toNat n pa ∧
        (o = 1 → (h.pair a).toNat % n = 0))
      (fun s _ _ _ h => h.expectAll (loadDest d size) l
        (loadVals false size (match s.cur with
          | some c => s.teamBytes c.team pa n
          | none => []))) ∧
    (∀ s c t T G h, Solo s (.st d a l size o) c t T G h → InHeap s c.team T (h.pair a).toNat n pa →
      let kind := (s.ctx T.ctx).heap.hkind.extractLsb' 0 2
      (o ≠ 1 → exec (.st d a l size o) s =
        .next ((s.storePart c.team (T.origin (.thread t)) (h.pair a).toNat pa kind
          (h.data d size)).after c t fun h => h)) ∧
      (o = 1 → (h.pair a).toNat % n = 0 → exec (.st d a l size o) s =
        .next ((((s.commitPorch c.team).seal c.team).storePart c.team (T.origin (.thread t)) (h.pair a).toNat pa kind
          (h.data d size)).after c t fun h => h))) ∧
    Traps (.ld d a l size 1) (fun _ _ _ h => (h.pair a).toNat % n ≠ 0) Cause.misalignedData (fun h => h.pair a) ∧
    Traps (.st d a l size 1) (fun _ _ _ h => (h.pair a).toNat % n ≠ 0) Cause.misalignedData (fun h => h.pair a)

/-- R164, R165 and R258: each global atomic of an irrevocable team is performed at once: the new value is written and
the old one delivered; a compare that fails writes nothing. One of team scope in a revocable team is performed at the
porch: the new value takes an entry of its own, and a compare that fails takes one that writes nothing; with no entry
free the porch commits and the atomic waits. One of wider scope in a revocable team waits in the same way. The model's
choices it rests on: log entries 8, 9 and 52. -/
def Obligations.GlobalAtomics : Prop :=
  ∀ (d a : BitVec 8) (l : BitVec 4) (sc : BitVec 2) (pa : Nat),
    let ready (s : State) (k : Nat) (T : Team) (h : Thread) (n : Nat) : Prop :=
      InHeap s k T (h.pair a).toNat n pa ∧ (h.pair a).toNat % n = 0 ∧ T.revocable = false
    let old (s : State) (k : Nat) : Word := BitVec.ofNat 32 (leNat (s.teamBytes k pa 4))
    let swaps (i : Instr) (f : Word → Word → Word) : Prop :=
      ∀ s c t T G h, Solo s i c t T G h → ready s c.team T h 4 →
        exec i s = .next ((s.writePhys pa (leBytes 4 (f (old s c.team) (h.val d)).toNat) T.bprio).after c t fun h =>
          h.expectAll [d] l [(old s c.team).setWidth 64])
    let porched (i : Instr) (f : Word → Word → Word) : Prop :=
      ∀ s c t T G h, Solo s i c t T G h → InHeap s c.team T (h.pair a).toNat 4 pa → (h.pair a).toNat % 4 = 0 →
        T.revocable = true →
        (T.porch.length < 2048 →
          exec i s = .next ((s.storePart c.team (T.origin (.thread t)) (h.pair a).toNat pa
            ((s.ctx T.ctx).heap.hkind.extractLsb' 0 2) (leBytes 4 (f (old s c.team) (h.val d)).toNat)).after c t fun h =>
              h.expectAll [d] l [(old s c.team).setWidth 64])) ∧
        (2048 ≤ T.porch.length → G.cancelled = false →
          exec i s = .next (((s.commitPorch c.team).seal c.team).markWait ⟨c.team, .thread t⟩))
    let commits (i : Instr) (n : Nat) : Prop :=
      ∀ s c t T G h, Solo s i c t T G h → InHeap s c.team T (h.pair a).toNat n pa → (h.pair a).toNat % n = 0 →
        T.revocable = true → sc ≠ 0 → G.cancelled = false →
        exec i s = .next ((s.commitPorch c.team).markWait ⟨c.team, .thread t⟩)
    (∀ i, (i = .atomAdd d a l sc ∨ i = .atomMin d a l sc ∨ i = .atomMax d a l sc ∨ i = .atomAnd d a l sc ∨
      i = .atomOr d a l sc ∨ i = .atomXchg d a l sc ∨ i = .atomCas d a l sc) → commits i 4) ∧
    commits (.atomAdd64 d a l sc) 8 ∧
    porched (.atomAdd d a l 0) (fun m x => m + x) ∧
    porched (.atomMin d a l 0) (fun m x => if x.toInt < m.toInt then x else m) ∧
    porched (.atomMax d a l 0) (fun m x => if m.toInt < x.toInt then x else m) ∧
    porched (.atomAnd d a l 0) (fun m x => m &&& x) ∧
    porched (.atomOr d a l 0) (fun m x => m ||| x) ∧
    porched (.atomXchg d a l 0) (fun _ x => x) ∧
    (∀ s c t T G h, Solo s (.atomCas d a l 0) c t T G h → InHeap s c.team T (h.pair a).toNat 4 pa →
      (h.pair a).toNat % 4 = 0 → T.revocable = true → T.porch.length < 2048 →
      exec (.atomCas d a l 0) s = .next ((s.storePart c.team (T.origin (.thread t)) (h.pair a).toNat pa
        ((s.ctx T.ctx).heap.hkind.extractLsb' 0 2)
        (if old s c.team = h.val d then leBytes 4 (h.reg (d.toNat + 1)).toNat else [])).after c t fun h =>
          h.expectAll [d, d + 1] l [(old s c.team).setWidth 64, (h.reg (d.toNat + 1)).setWidth 64])) ∧
    (∀ s c t T G h, Solo s (.atomAdd64 d a l 0) c t T G h → InHeap s c.team T (h.pair a).toNat 8 pa →
      (h.pair a).toNat % 8 = 0 → T.revocable = true → T.porch.length < 2048 →
      let m : Word64 := BitVec.ofNat 64 (leNat (s.teamBytes c.team pa 8))
      exec (.atomAdd64 d a l 0) s = .next ((s.storePart c.team (T.origin (.thread t)) (h.pair a).toNat pa
        ((s.ctx T.ctx).heap.hkind.extractLsb' 0 2) (leBytes 8 (m + h.pair d).toNat)).after c t fun h =>
          h.expectAll [d, d + 1] l [m &&& 0xFFFFFFFF, m >>> 32])) ∧
    swaps (.atomAdd d a l sc) (fun m x => m + x) ∧
    swaps (.atomMin d a l sc) (fun m x => if x.toInt < m.toInt then x else m) ∧
    swaps (.atomMax d a l sc) (fun m x => if m.toInt < x.toInt then x else m) ∧
    swaps (.atomAnd d a l sc) (fun m x => m &&& x) ∧
    swaps (.atomOr d a l sc) (fun m x => m ||| x) ∧
    swaps (.atomXchg d a l sc) (fun _ x => x) ∧
    (∀ s c t T G h, Solo s (.atomAdd64 d a l sc) c t T G h → ready s c.team T h 8 →
      let m : Word64 := BitVec.ofNat 64 (leNat (s.teamBytes c.team pa 8))
      exec (.atomAdd64 d a l sc) s = .next ((s.writePhys pa (leBytes 8 (m + h.pair d).toNat) T.bprio).after c t fun h =>
        h.expectAll [d, d + 1] l [m &&& 0xFFFFFFFF, m >>> 32])) ∧
    (∀ s c t T G h, Solo s (.atomCas d a l sc) c t T G h → ready s c.team T h 4 → old s c.team = h.val d →
      exec (.atomCas d a l sc) s = .next ((s.writePhys pa (leBytes 4 (h.reg (d.toNat + 1)).toNat) T.bprio).after c t
        fun h => h.expectAll [d, d + 1] l [(old s c.team).setWidth 64, (h.reg (d.toNat + 1)).setWidth 64])) ∧
    (∀ s c t T G h, Solo s (.atomCas d a l sc) c t T G h → ready s c.team T h 4 → old s c.team ≠ h.val d →
      exec (.atomCas d a l sc) s = .next (s.after c t fun h =>
        h.expectAll [d, d + 1] l [(old s c.team).setWidth 64, (h.reg (d.toNat + 1)).setWidth 64]))

/-- R166 and R258: FENCE of thread or group scope changes only its b register; one of wing scope or wider commits the
porch of a revocable team, waits while a store or a remote request of the team is outstanding, and completes when
nothing is; one of system scope reports a remote store or atomic that failed since the last. The model's choices it
rests on: log entries 9 and 52. -/
def Obligations.Fences : Prop :=
  ∀ (sc : BitVec 5) (b : BitVec 3),
    DoesIf (.fence sc b) (fun _ _ _ _ => sc.toNat < 3) (fun _ _ _ _ h => { h with b := setBit h.b b false }) ∧
    (∀ s c t T G h, Solo s (.fence sc b) c t T G h → 3 ≤ sc.toNat →
      (G.cancelled = false →
        (s.commitPorch c.team).storesPending c.team = true ∨ (s.commitPorch c.team).remotesPending c.team = true →
        exec (.fence sc b) s = .next ((s.commitPorch c.team).markWait ⟨c.team, .thread t⟩)) ∧
      (T.revocable = true → (∃ e ∈ T.porch, e.bytes ≠ []) → G.cancelled = false →
        exec (.fence sc b) s = .next ((s.commitPorch c.team).markWait ⟨c.team, .thread t⟩)) ∧
      (T.revocable = true → T.porch = [] → s.storesPending c.team = false → s.remotesPending c.team = false →
        (sc ≠ 5 ∨ h.remoteFail = none) →
        exec (.fence sc b) s = .next ((s.commitPorch c.team).after c t fun h => { h with b := setBit h.b b false }))) ∧
    (∀ s c t T G h, Solo s (.fence sc b) c t T G h → 3 ≤ sc.toNat → T.revocable = false →
      s.storesPending c.team = false → s.remotesPending c.team = false →
      (sc ≠ 5 ∨ h.remoteFail = none →
        exec (.fence sc b) s = .next (s.after c t fun h => { h with b := setBit h.b b false })) ∧
      (∀ addr, sc = 5 → h.remoteFail = some addr → h.tcause.getLsbD 8 = false →
        exec (.fence sc b) s = .next (s.after c t fun h =>
          { h with b := setBit h.b b true, remoteFail := none,
                   tcause := Cause.remoteAccess.setWidth 32, taddr := addr })) ∧
      (∀ addr, sc = 5 → h.remoteFail = some addr → h.tcause.getLsbD 8 = true →
        exec (.fence sc b) s = .next (s.after c t fun h => { h with b := setBit h.b b true, remoteFail := none })))

/-! ### Barriers, copies, streams and wings -/

/-- R168–R170: NB.INIT begins a phase; NB.EXPECT adds bytes; NB.ARR reads the phase and arrives, or marks its group;
NB.WAIT passes when the phase has changed and waits otherwise; NB.TEST says which; NB.ARW arrives and waits, and goes
on at once when it is the last. Every one but NB.INIT traps BARRIER_BROKEN on a broken barrier. The model's choices it
rests on: log entries 18, 56 and 57. -/
def Obligations.NamedBarriers : Prop :=
  ∀ (k : BitVec 4) (ind : Bool) (m : BitVec 6) (a d : BitVec 8) (e : BitVec 3) (n : Nat) (s : State) (c : Issue) (t : Nat)
    (T : Team) (G : Group) (h : Thread), namesNb G k ind n →
    let B := T.nb n
    (Solo s (.nbInit k ind m) c t T G h → T.anyWaits n = false → B.engines = 0 →
      exec (.nbInit k ind m) s = .next ((s.modTeam c.team (·.setNb n
        { B with expected := m.toNat, pending := 0, bytes := 0, arrived := 0, broken := false, badAddr := 0,
                 participants := if n = 0 then B.participants else 0 })).after c t fun h => h)) ∧
    (Solo s (.nbExpect k ind a) c t T G h → B.broken = false → B.bytes + (h.val a).toNat < 2 ^ 24 →
      exec (.nbExpect k ind a) s = .next ((s.modTeam c.team (·.setNb n { B with bytes := B.bytes + (h.val a).toNat })).after
        c t fun h => h)) ∧
    (Solo s (.nbArr k ind d false) c t T G h → B.broken = false → B.pending ≠ B.expected → (n = 0 → G.beat = none) →
      exec (.nbArr k ind d false) s = .next (((s.modThread c.team t (·.put d (if B.phase then 1 else 0))).modTeam c.team
        (·.arrive n (T.groupIx t))).after c t fun h => h)) ∧
    (Solo s (.nbArr k ind d true) c t T G h → B.broken = false → (n = 0 → G.beat = none) →
      (T.groupIx t, t) ∉ B.marks →
      (T.setNb n { B with marks := B.marks ++ [(T.groupIx t, t)] }).marksComplete n (T.groupIx t) = false →
      exec (.nbArr k ind d true) s = .next (((s.modTeam c.team (·.setNb n
        { B with marks := B.marks ++ [(T.groupIx t, t)] }))).after c t (·.put d (if B.phase then 1 else 0)))) ∧
    (Solo s (.nbWait k ind a) c t T G h → notLetGo h.wait = true → B.broken = false → B.phase ≠ (h.val a).getLsbD 0 →
      exec (.nbWait k ind a) s = .next (s.after c t fun h => h)) ∧
    (Solo s (.nbWait k ind a) c t T G h → notLetGo h.wait = true → B.broken = false → B.phase = (h.val a).getLsbD 0 →
      G.cancelled = false →
      exec (.nbWait k ind a) s = .next (s.modThread c.team t fun h => { h with wait := some (.barrier n B.phase) })) ∧
    (Solo s (.nbTest k ind a e) c t T G h → B.broken = false →
      exec (.nbTest k ind a e) s = .next (s.after c t fun h =>
        { h with b := setBit h.b e (B.phase != (h.val a).getLsbD 0) })) ∧
    (Solo s (.nbArw k ind false) c t T G h → notLetGo h.wait = true → B.broken = false → B.pending ≠ B.expected →
      (n = 0 → G.beat = none) →
      G.cancelled = false →
      exec (.nbArw k ind false) s = .next ((s.modThread c.team t fun h =>
        { h with wait := some (.barrier n B.phase) }).modTeam c.team (·.arrive n (T.groupIx t)))) ∧
    (Solo s (.nbArw k ind false) c t T G h → notLetGo h.wait = true → B.broken = false → B.pending + 1 = B.expected →
      B.bytes = 0 → B.engines = 0 →
      (n = 0 → G.beat = none) → G.cancelled = false →
      ∃ s' h', exec (.nbArw k ind false) s = .next s' ∧ s'.thread? c.team t = some h' ∧ h'.pc = h.pc + 4 ∧
        h'.wait = none ∧ (s'.team? c.team).map (fun T' => (T'.nb n).phase) = some (!B.phase)) ∧
    (∀ i, i = .nbExpect k ind a ∨ i = .nbArr k ind d false ∨ i = .nbArr k ind d true ∨ i = .nbWait k ind a ∨
        i = .nbTest k ind a e ∨ i = .nbArw k ind false ∨ i = .nbArw k ind true →
      Solo s i c t T G h → notLetGo h.wait = true → B.broken = true →
      exec i s = .next (s.trapped c i t Cause.barrierBroken B.badAddr none)) ∧
    (∀ i x, i = .nbWait k ind a ∨ i = .nbArw k ind false ∨ i = .nbArw k ind true → Solo s i c t T G h →
      h.wait = some (.broken x) →
      exec i s = .next (s.trapped c i t Cause.barrierBroken x none))

/-- R174–R176: a copy instruction starts a copy, registered on the barrier its control word names, and goes on;
CPY.L2L takes the upper word of its pair as the source and the lower as the destination; CPY.PFX changes nothing. A
byte count that is no multiple of 16 traps OPERAND_FORMAT. The model's choices it rests on: log entries 28, 30, 61 and
86. -/
def Obligations.CopyStarts : Prop :=
  ∀ (p r : BitVec 8) (sc : BitVec 5) (s : State) (c : Issue) (t : Nat) (T : Team) (G : Group) (h : Thread) (ctl : Word),
    h.val r = ctl →
    let n := (ctl.extractLsb' 0 18).toNat
    let bar := if ctl.getLsbD 22 then some (ctl.extractLsb' 18 4).toNat else none
    let o := newOrigin s T (.thread t)
    (∀ pl ql rl ql', Solo s (.cpyL2l p r) c t T G h → ctl.extractLsb' 23 9 = 0 → n ≠ 0 → n % 16 = 0 →
      Resolves s c.team (h.reg (p.toNat + 1)) n pl rl → Resolves s c.team (h.reg p.toNat) n ql ql' → mayEnlist T bar →
      exec (.cpyL2l p r) s = .next ((s.opened.modTeam c.team (·.start
        { kind := .l2l, origin := o, desc := [], coord := [], src := (h.reg (p.toNat + 1)).setWidth 64,
          dst := (h.reg p.toNat).setWidth 64, srcAt := some (pl, rl), dstAt := some (ql, ql'), total := n, done := 0,
          barrier := bar, sleep := none, parts := [], out := [] })).after c t fun h => h)) ∧
    (Solo s (.cpyG2g p r) c t T G h → ctl.extractLsb' 23 9 = 0 → n ≠ 0 → n % 16 = 0 → mayEnlist T bar →
      exec (.cpyG2g p r) s = .next ((s.opened.modTeam c.team (·.start
        { kind := .g2g, origin := o, desc := [], coord := [], src := h.pair (p + 2), dst := h.pair p,
          srcAt := none, dstAt := none, total := n, done := 0, barrier := bar, sleep := none, parts := [],
          out := [] })).after c t fun h => h)) ∧
    (∀ pl rl, Resolves s c.team (h.val p) (Box.of (readBytes T.sp n 64)).bytes pl rl →
      let desc := readBytes T.sp n 64
      let b := Box.of desc
      ctl.extractLsb' 23 9 = 0 → n % 64 = 0 → n + 64 ≤ T.size →
      CoreSound s T → boxValid desc = true →
      (b.swizzle = true → b.ext.headD 0 * b.esize % 128 = 0 ∧ (h.val p).toNat % 128 = 0) →
      sc.toNat + fieldN desc 8 1 ≤ 64 → mayEnlist T bar →
      (Solo s (.cpyG2l sc p r) c t T G h →
        exec (.cpyG2l sc p r) s = .next ((s.opened.modTeam c.team (·.start
          { kind := .g2l, origin := o, desc := desc,
            coord := (List.range b.rank).map (fun j => (G.sreg (sc.toNat + j)).toInt), src := 0,
            dst := (h.val p).setWidth 64, srcAt := none, dstAt := some (pl, rl), total := b.bytes, done := 0,
            barrier := bar, sleep := none, parts := [], out := [] })).after c t fun h => h)) ∧
      (Solo s (.cpyL2g sc p r) c t T G h →
        exec (.cpyL2g sc p r) s = .next ((s.opened.modTeam c.team (·.start
          { kind := .l2g, origin := o, desc := desc,
            coord := (List.range b.rank).map (fun j => (G.sreg (sc.toNat + j)).toInt), src := (h.val p).setWidth 64,
            dst := 0, srcAt := some (pl, rl), dstAt := none, total := b.bytes, done := 0, barrier := bar, sleep := none,
            parts := [], out := [] })).after c t fun h => h))) ∧
    (Solo s (.cpyPfx p r) c t T G h → ctl.extractLsb' 27 5 = 0 →
      exec (.cpyPfx p r) s = .next (s.after c t fun h => h)) ∧
    (∀ i, i = .cpyL2l p r ∨ i = .cpyG2g p r → Solo s i c t T G h → n % 16 ≠ 0 →
      exec i s = .next (s.trapped c i t Cause.operandFormat 0 none))

/-- R179: STRM binds a port to the ring that a valid descriptor in the scratchpad describes, STRM.OFF unbinds it, each
once the port is at rest. STREAM_MISUSE is the trap of a descriptor that is misaligned or outside the scratchpad, that
breaks a rule of the table, whose elements or control pair lie outside what the team may address, or in different
scratchpads, and of an in port's in a window. R181–R184: WJOIN takes the least free member index of wing a, and its
status says why not otherwise; WQUERY reports the membership; WMAP maps a member's scratchpad; WLEAVE revokes the
team's windows and those onto it and frees the member index at once, and is over when the accesses in flight through
them are. The model's choices it rests on: log entries 34, 47, 59 and 68. -/
def Obligations.StreamsAndWings : Prop :=
  (∀ (p : BitVec 2) (d : BitVec 8) (s : State) (c : Issue) (t : Nat) (T : Team) (G : Group) (h : Thread),
    let x := (h.val d).toNat
    let r := readBytes T.sp x 16
    T.portBusy p = false →
    (∀ A B, Solo s (.strm p d) c t T G h → x % 16 = 0 → x + 16 ≤ T.size →
      CoreSound s T → ringValid r = true →
      s.local? c.team (fieldN r 0 4) (4 * fieldN r 8 2) = .ok A → s.local? c.team (fieldN r 4 4) 8 = .ok B →
      A.window = B.window → A.team = B.team → (p.getLsbD 1 = true ∨ A.window = false) →
      let R : Ring := ⟨BitVec.ofNat 32 (fieldN r 0 4), BitVec.ofNat 32 (fieldN r 4 4), fieldN r 8 2, A.window⟩
      exec (.strm p d) s = .next
        ((s.modTeam c.team fun T => { T with ports := SMap.insert p.toNat R T.ports }).after c t fun h => h)) ∧
    (Solo s (.strmOff p) c t T G h →
      exec (.strmOff p) s = .next ((s.modTeam c.team fun T => { T with ports := SMap.erase p.toNat T.ports }).after c t
        fun h => h)) ∧
    (Solo s (.strm p d) c t T G h → (x % 16 ≠ 0 ∨ T.size < x + 16) →
      exec (.strm p d) s = .next (s.trapped c (.strm p d) t Cause.streamMisuse 0 none)) ∧
    (Solo s (.strm p d) c t T G h → x % 16 = 0 → x + 16 ≤ T.size → CoreSound s T →
      (ringValid r = false ∨ (∃ e, s.local? c.team (fieldN r 0 4) (4 * fieldN r 8 2) = .error e) ∨
        (∃ e, s.local? c.team (fieldN r 4 4) 8 = .error e) ∨
        ∃ A B, s.local? c.team (fieldN r 0 4) (4 * fieldN r 8 2) = .ok A ∧ s.local? c.team (fieldN r 4 4) 8 = .ok B ∧
          (A.window ≠ B.window ∨ A.team ≠ B.team ∨ p.getLsbD 1 = false ∧ A.window = true)) →
      exec (.strm p d) s = .next (s.trapped c (.strm p d) t Cause.streamMisuse 0 none))) ∧
  (∀ (d a : BitVec 8) (w : BitVec 4) (s : State) (c : Issue) (t : Nat) (T : Team) (G : Group) (h : Thread),
    let v := (h.val a).toNat
    let used := (s.members T.ctx v).map (·.1)
    (∀ m, Solo s (.wjoin d a) c t T G h → T.wing = none → v ≤ 255 → leastFree used 16 0 = some m →
      exec (.wjoin d a) s = .next ((s.modTeam c.team fun T => { T with wing := some (v, m) }).after c t (·.put d 0))) ∧
    (Solo s (.wjoin d a) c t T G h → T.wing = none → v ≤ 255 → leastFree used 16 0 = none →
      exec (.wjoin d a) s = .next (s.after c t (·.put d 1))) ∧
    (Solo s (.wjoin d a) c t T G h → T.wing = none → 255 < v → exec (.wjoin d a) s = .next (s.after c t (·.put d 3))) ∧
    (∀ m, Solo s (.wjoin d a) c t T G h → T.wing = some (v, m) →
      exec (.wjoin d a) s = .next (s.after c t (·.put d 0))) ∧
    (∀ b m, Solo s (.wjoin d a) c t T G h → T.wing = some (b, m) → b ≠ v → used.length < 16 →
      exec (.wjoin d a) s = .next (s.after c t (·.put d 2))) ∧
    (Solo s (.wquery d) c t T G h → T.wing = none → exec (.wquery d) s = .next (s.after c t (·.put d 0))) ∧
    (∀ b m, Solo s (.wquery d) c t T G h → T.wing = some (b, m) →
      exec (.wquery d) s = .next (s.after c t (·.put d (BitVec.ofNat 32
        (b + m * 2 ^ 8 + 2 ^ 12 + ((s.members T.ctx b).map (fun e => 2 ^ e.1)).sum * 2 ^ 16))))) ∧
    (Solo s (.wmap w d a) c t T G h → T.wing = none → exec (.wmap w d a) s = .next (s.after c t (·.put d 2))) ∧
    (∀ b m, Solo s (.wmap w d a) c t T G h → T.wing = some (b, m) → v ∉ (s.members T.ctx b).map (·.1) →
      exec (.wmap w d a) s = .next (s.after c t (·.put d 1))) ∧
    (∀ b m e, Solo s (.wmap w d a) c t T G h → T.wing = some (b, m) →
      (s.members T.ctx b).find? (fun e => e.1 == v) = some e →
      exec (.wmap w d a) s = .next ((s.modTeam c.team fun T =>
        { T with windows := SMap.insert w.toNat (.mapped e.2) T.windows }).after c t (·.put d 0))) ∧
    (let gone := s.quitWing c.team
     Solo s .wleave c t T G h → (∀ n, h.wait ≠ some (.leave n)) →
      (T.wing = none → exec .wleave s = .next (s.after c t fun h => h)) ∧
      (T.wing.isSome = true →
        (gone.windowsBusy c.team s.nextSeq = false → exec .wleave s = .next (gone.after c t fun h => h)) ∧
        (gone.windowsBusy c.team s.nextSeq = true → G.cancelled = false →
          exec .wleave s = .next (gone.modThread c.team t fun h => { h with wait := some (.leave s.nextSeq) })) ∧
        (∃ T', gone.team? c.team = some T' ∧ T'.wing = none ∧ ∀ e ∈ T'.windows, e.2 = .revoked) ∧
        ∀ j U, gone.team? j = some U → ∀ e ∈ U.windows, e.2 ≠ .mapped c.team)) ∧
    (∀ n, Solo s .wleave c t T G h → h.wait = some (.leave n) →
      (s.windowsBusy c.team n = false → exec .wleave s = .next (s.after c t fun h => h)) ∧
      (s.windowsBusy c.team n = true → G.cancelled = false →
        exec .wleave s = .next (s.markWait ⟨c.team, .thread t⟩))))

/-! ### Matrix commands and re-sharding at issue -/

/-- R185–R188, R194–R200 and R203: each matrix instruction joins the team's queue of at most eight commands with the
modes and, for a stochastic store, the draws of its issue, and goes on; a block or descriptor that breaks a rule traps
OPERAND_FORMAT. R204: MX.PROG reads PROG, whether the queue is empty, the stop and the last failure, at once when
asked not to wait, and else when the commands issued before it have ended; an abandon is taken once, as a trap. The
model's choices it rests on: log entries 22, 28, 31, 61 and 62. -/
def Obligations.MatrixIssue : Prop :=
  ∀ (a d : BitVec 8) (e q p : BitVec 2) (n w : Bool) (s : State) (c : Issue) (t : Nat) (T : Team) (G : Group) (h : Thread),
    let x := (h.val a).toNat
    let room := T.mx.queue.length < 8
    let claimed := T.mx.claims.getLsbD (if n then 1 else 0) = true
    let block := readBytes T.sp x 64
    let sblock := ((List.range 16).map fun j => G.sreg (16 * e.toNat + j)).flatMap fun v => leBytes 4 v.toNat
    let desc := readBytes T.sp x 32
    let tile := Tile.of desc
    let o := newOrigin s T (.thread t)
    (Solo s (.mxIssue a) c t T G h → room → BlockAt s T x 64 64 → (Block.of G.nfmt block).ok T block = true →
      mayEnlist T (Block.of G.nfmt block).bar →
      exec (.mxIssue a) s = .next ((s.opened.modTeam c.team (·.mxJoin
        (mxCommand G o (.issue block) (Block.of G.nfmt block).bar []))).after c t fun h => h)) ∧
    (Solo s (.mxIssue a) c t T G h → room → BlockAt s T x 64 64 → (Block.of G.nfmt block).ok T block = false →
      exec (.mxIssue a) s = .next (s.trapped c (.mxIssue a) t Cause.operandFormat 0 none)) ∧
    (Solo s (.mxIssueS e) c t T G h → room → (Block.of G.nfmt sblock).ok T sblock = true →
      mayEnlist T (Block.of G.nfmt sblock).bar →
      exec (.mxIssueS e) s = .next ((s.opened.modTeam c.team (·.mxJoin
        (mxCommand G o (.issue sblock) (Block.of G.nfmt sblock).bar []))).after c t fun h => h)) ∧
    (Solo s (.mxZero n) c t T G h → room → claimed →
      exec (.mxZero n) s = .next ((s.opened.modTeam c.team (·.mxJoin (mxCommand G o (.zero n) none []))).after c t fun h => h)) ∧
    (Solo s (.mxZero n) c t T G h → room → ¬ claimed →
      exec (.mxZero n) s = .next (s.trapped c (.mxZero n) t Cause.operandFormat 0 none)) ∧
    (Solo s (.mxLoad n a) c t T G h → room → BlockAt s T x 32 32 →
      tile.ok G.nfmt (T.mx.claims.getLsbD (if n then 1 else 0)) = true → mayEnlist T tile.bar →
      exec (.mxLoad n a) s = .next ((s.opened.modTeam c.team (·.mxJoin (mxCommand G o (.load n desc) tile.bar []))).after c t
        fun h => h)) ∧
    (Solo s (.mxStore q p n a) c t T G h → q ≠ 3 → room → BlockAt s T x 32 32 →
      tile.ok G.nfmt (T.mx.claims.getLsbD (if n then 1 else 0)) = true → mayEnlist T tile.bar →
      exec (.mxStore q p n a) s = .next ((s.opened.modTeam c.team (·.mxJoin
        (mxCommand G o (.store n desc q p) tile.bar []))).after c t fun h => h)) ∧
    (Solo s (.mxStore 3 p n a) c t T G h → room → BlockAt s T x 32 32 → T.replay.getLsbD 0 = false →
      tile.ok G.nfmt (T.mx.claims.getLsbD (if n then 1 else 0)) = true → mayEnlist T tile.bar →
      exec (.mxStore 3 p n a) s = .next ((s.opened.modTeam c.team (·.mxJoin
        (mxCommand G o (.store n desc 3 p) tile.bar ((List.range (tile.rows * tile.cols)).map fun j =>
          rowan T.rseed t (h.draw + BitVec.ofNat 32 j))))).after c t fun h =>
            { h with draw := h.draw + BitVec.ofNat 32 (tile.rows * tile.cols) })) ∧
    (Solo s (.mxLoad n a) c t T G h → room → BlockAt s T x 32 32 →
      tile.ok G.nfmt (T.mx.claims.getLsbD (if n then 1 else 0)) = false →
      exec (.mxLoad n a) s = .next (s.trapped c (.mxLoad n a) t Cause.operandFormat 0 none)) ∧
    (Solo s (.mxStore q p n a) c t T G h → room → BlockAt s T x 32 32 →
      tile.ok G.nfmt (T.mx.claims.getLsbD (if n then 1 else 0)) = false →
      exec (.mxStore q p n a) s = .next (s.trapped c (.mxStore q p n a) t Cause.operandFormat 0 none)) ∧
    (Solo s (.mxProg d false) c t T G h → h.wait = none → T.mx.queue ≠ [] → G.cancelled = false →
      exec (.mxProg d false) s = .next (s.modThread c.team t fun h => { h with wait := some (.mx T.mx.issued) })) ∧
    (Solo s (.mxProg d w) c t T G h → w = true ∨ T.mx.queue = [] → (∀ k, h.wait = some (.mx k) → k ≤ T.mx.issued) →
      T.mx.abandon = none →
      exec (.mxProg d w) s = .next (s.after c t (·.put d (BitVec.ofNat 32
        (T.mx.prog.toNat % 2 ^ 24 + (if T.mx.queue = [] then 2 ^ 24 else 0) +
          (match T.mx.stop with
            | some (true, _) => 2 ^ 25
            | _ => 0) + if T.mx.lastBad then 2 ^ 26 else 0))))) ∧
    ∀ cause addr, Solo s (.mxProg d true) c t T G h → T.mx.abandon = some (cause, addr) →
      exec (.mxProg d true) s = .next ((s.modTeam c.team fun T => { T with mx := { T.mx with abandon := none } }).trapped
        c (.mxProg d true) t cause addr none)

/-- R229–R235: RSH.PLAN writes the plan that its request asks for and gives its length, or gives the length with bit
31 set when the buffer is too small; RSH.GO starts the operation at its first entry, or where the same block stopped;
RSH.POLL reads the state; RSH.SAVE writes the save record of an operation that does not run; RSH.RESUME starts from
one. The model's choices it rests on: log entries 28, 32, 64 and 79. -/
def Obligations.ReshardIssue : Prop :=
  ∀ (a d : BitVec 8) (w : Bool) (s : State) (c : Issue) (t : Nat) (T : Team) (G : Group) (h : Thread),
    let x := (h.val a).toNat
    let req := readBytes T.sp x 16
    let src := Layout.of (readBytes T.sp (fieldN req 0 4) 64)
    let dst := Layout.of (readBytes T.sp (fieldN req 4 4) 64)
    let rest := T.rsh.state ≠ 1
    let o := newOrigin s T (.thread t)
    let settled := T.revocable = false ∧ s.committing c.team = false
    (∀ es, Solo s (.rshPlan d a) c t T G h → BlockAt s T x 16 16 → fieldN req 8 4 % 32 = 0 → fieldN req 14 2 = 0 →
      LayoutsAt s T (fieldN req 0 4) (fieldN req 4 4) → s.planOf src dst = some es →
      (es.length ≤ fieldN req 12 2 → es ≠ [] → fieldN req 8 4 + 32 * es.length ≤ T.size →
        s.rcPending c.team (T.origin (.thread t)) = false →
        exec (.rshPlan d a) s = .next ((s.writeLocal ⟨c.team, fieldN req 8 4, false⟩ es.flatten).after c t
          (·.put d (BitVec.ofNat 32 es.length)))) ∧
      (es = [] → exec (.rshPlan d a) s = .next (s.after c t (·.put d 0))) ∧
      (fieldN req 12 2 < es.length →
        exec (.rshPlan d a) s = .next (s.after c t (·.put d (BitVec.ofNat 32 (2 ^ 31 + es.length)))))) ∧
    (Solo s (.rshGo a) c t T G h → rest → settled → BlockAt s T x 16 16 → GoOk s T req →
      mayEnlist T (goBarrier req) → (T.rsh.state = 3 → T.rsh.go ≠ req) →
      exec (.rshGo a) s = .next ((s.opened.modTeam c.team (·.rshRun req o 0 0)).after c t fun h => h)) ∧
    (Solo s (.rshGo a) c t T G h → settled → BlockAt s T x 16 16 → GoOk s T req →
      mayEnlist T (goBarrier req) → T.rsh.state = 3 → T.rsh.go = req →
      exec (.rshGo a) s = .next ((s.opened.modTeam c.team (·.rshRun req o T.rsh.entry T.rsh.row)).after c t
        fun h => h)) ∧
    (Solo s (.rshPoll d w) c t T G h → w = true ∨ rest → T.rsh.abandon = none →
      exec (.rshPoll d w) s = .next (s.after c t (·.put d (BitVec.ofNat 32 T.rsh.state)))) ∧
    (∀ cause addr, Solo s (.rshPoll d w) c t T G h → w = true ∨ rest → T.rsh.abandon = some (cause, addr) →
      exec (.rshPoll d w) s = .next ((s.modTeam c.team fun T =>
        { T with rsh := { T.rsh with abandon := none } }).trapped c (.rshPoll d w) t cause addr none)) ∧
    (Solo s (.rshSave a) c t T G h → rest → s.rcPending c.team (T.origin (.thread t)) = false → x % 32 = 0 → x + 32 ≤ T.size → CoreSound s T →
      exec (.rshSave a) s = .next (((s.writeLocal ⟨c.team, x, false⟩ (T.rsh.go ++ leBytes 2 T.rsh.entry.toNat ++
        leBytes 2 T.rsh.row.toNat ++ leBytes 1 T.rsh.state ++ List.replicate 11 0)).modTeam c.team fun T =>
          { T with rsh := { T.rsh with state := if T.rsh.state = 2 ∨ T.rsh.state = 4 then T.rsh.state else 0 } }).after
            c t fun h => h)) ∧
    (let r := readBytes T.sp x 32
     let g := slice r 0 16
     Solo s (.rshResume a) c t T G h → rest → settled → BlockAt s T x 32 32 → GoOk s T g →
      mayEnlist T (goBarrier g) → fieldN r 16 2 ≤ fieldN g 4 2 → fieldN r 20 1 ≤ 4 → fieldN r 21 11 = 0 →
      exec (.rshResume a) s = .next ((s.opened.modTeam c.team (·.rshRun g o (BitVec.ofNat 16 (fieldN r 16 2))
        (BitVec.ofNat 16 (fieldN r 18 2)))).after c t fun h => h))

/-! ### Special registers and the system instructions -/

/-- R28, R222–R224: SRD reads, SWR writes and MOVS and SMOV move: the thread's frame registers, the group's modes, the
team's seeds, replay and priority, and the shared registers, those of an engine once it is at rest; bits that a
register does not have are not kept; a TEMP that is a NaN or negative traps TEMP_INVALID. The model's choices it rests
on: log entry 7. -/
def Obligations.SpecialRegisters : Prop :=
  ∀ (a d i : BitVec 8) (k : BitVec 6) (s : State) (c : Issue) (t : Nat) (T : Team) (G : Group) (h : Thread),
    let v := h.val a
    (Solo s (.srd d i) c t T G h → sregReach s T i →
      (0x08 ≤ i.toNat → i.toNat ≤ 0x0D → exec (.srd d i) s = .next (s.after c t (·.put d (h.sreg i.toNat)))) ∧
      (sregNotFront i.toNat = true → ¬ (0x08 ≤ i.toNat ∧ i.toNat ≤ 0x0D) →
        exec (.srd d i) s = .next (s.after c t (·.put d (T.groupSreg (T.groupIx t) G i.toNat)))) ∧
      (sregNotFront i.toNat = false → ∀ L t0, SMap.find? T.launch s.launches = some L → L.t0 = some t0 →
        exec (.srd d i) s = .next (s.after c t (·.put d (s.sharedSreg T (s.clock - t0) i.toNat))))) ∧
    (Solo s (.swr a 0x00) c t T G h → exec (.swr a 0x00) s =
      .next ((s.modGroupAt c t T fun G => { G with fpctl := v &&& 0x7F }).after c t fun h => h)) ∧
    (Solo s (.swr a 0x01) c t T G h → exec (.swr a 0x01) s =
      .next ((s.modGroupAt c t T fun G => { G with nfmt := v &&& 0x3F3F }).after c t fun h => h)) ∧
    (Solo s (.swr a 0x02) c t T G h → fp32.isNan v.toNat = false → v.getLsbD 31 = false ∨ v = 0x80000000 →
      exec (.swr a 0x02) s = .next ((s.modGroupAt c t T fun G => { G with temp := v }).after c t fun h => h)) ∧
    (Solo s (.swr a 0x02) c t T G h → fp32.isNan v.toNat = true ∨ (v.getLsbD 31 = true ∧ v ≠ 0x80000000) →
      exec (.swr a 0x02) s = .next (s.trapped c (.swr a 0x02) t Cause.tempInvalid 0 none)) ∧
    (Solo s (.swr a 0x03) c t T G h → exec (.swr a 0x03) s =
      .next ((s.modTeam c.team fun T => { T with rseed := T.rseed.extractLsb' 32 32 ++ v }).after c t fun h => h)) ∧
    (Solo s (.swr a 0x04) c t T G h → exec (.swr a 0x04) s =
      .next ((s.modTeam c.team fun T => { T with rseed := v ++ T.rseed.extractLsb' 0 32 }).after c t fun h => h)) ∧
    (Solo s (.swr a 0x05) c t T G h → exec (.swr a 0x05) s =
      .next ((s.modTeam c.team fun T => { T with replay := v }).after c t fun h => h)) ∧
    (Solo s (.swr a 0x08) c t T G h → exec (.swr a 0x08) s = .next (s.after c t fun h => { h with tpc := v })) ∧
    (Solo s (.swr a 0x09) c t T G h →
      exec (.swr a 0x09) s = .next (s.after c t fun h => { h with tcause := v &&& 0x1FF })) ∧
    (Solo s (.swr a 0x18) c t T G h → T.mx.queue = [] → exec (.swr a 0x18) s =
      .next ((s.modTeam c.team fun T => { T with mx := { T.mx with prog := v } }).after c t fun h => h)) ∧
    (Solo s (.swr a 0x19) c t T G h → T.rsh.state ≠ 1 → exec (.swr a 0x19) s =
      .next ((s.modTeam c.team fun T => { T with rsh := { T.rsh with entry := v.setWidth 16 } }).after c t fun h => h)) ∧
    (Solo s (.swr a 0x1A) c t T G h → T.rsh.state ≠ 1 → exec (.swr a 0x1A) s =
      .next ((s.modTeam c.team fun T => { T with rsh := { T.rsh with row := v.setWidth 16 } }).after c t fun h => h)) ∧
    (∀ i, (i = 0x19 ∨ i = 0x1A) ∧ T.rsh.state = 1 ∨ i = 0x18 ∧ T.mx.queue ≠ [] → Solo s (.swr a i) c t T G h →
      G.cancelled = false → exec (.swr a i) s = .next (s.markWait ⟨c.team, .thread t⟩)) ∧
    (Solo s (.swr a 0x38) c t T G h → exec (.swr a 0x38) s =
      .next ((s.modTeam c.team fun T => { T with bprio := v.setWidth 8 }).after c t fun h => h)) ∧
    (Solo s (.movs a k) c t T G h → exec (.movs a k) s =
      .next ((s.modGroupAt c t T (·.setSreg k.toNat v)).after c t fun h => h)) ∧
    (Solo s (.smov d k) c t T G h → exec (.smov d k) s = .next (s.after c t (·.put d (G.sreg k.toNat))))

/-- R28, R31, R73 and R225: a privileged special register is written in a privileged context: the heap triple and
PTBASE keep their former values for cores that still hold them, and a heap kind of 3 traps ILLEGAL_REGISTER; KILLCTL
with bit 31 starts the kill of a live context other than its own, and is ignored while a kill is in progress or where
it would kill its own. In any other context SRD and SWR of one trap PRIVILEGED, and so do TLBINV and KILLCTX. The
model's choices it rests on: log entries 10, 47 and 84. -/
def Obligations.Privilege : Prop :=
  ∀ (a d i : BitVec 8) (s : State) (c : Issue) (t : Nat) (T : Team) (G : Group) (h : Thread),
    let v := h.val a
    let x := s.ctx T.ctx
    (Solo s (.swr a 0x40) c t T G h → x.privileged = true → (v : Word) ≠ x.heap.hb.extractLsb' 0 32 →
      exec (.swr a 0x40) s = .next ((s.setCtx T.ctx
        { x with heap := { x.heap with hb := x.heap.hb.extractLsb' 32 32 ++ v }, heldHeap := x.heldHeap ++ [x.heap] }).after
          c t fun h => h)) ∧
    (Solo s (.swr a 0x48) c t T G h → x.privileged = true → (v : Word) ≠ x.ptbase.extractLsb' 0 32 →
      exec (.swr a 0x48) s = .next ((s.setCtx T.ctx
        { x with ptbase := x.ptbase.extractLsb' 32 32 ++ v, heldPtbase := x.heldPtbase ++ [(x.ptbase, [])] }).after
          c t fun h => h)) ∧
    (∀ hp : Heap, x.privileged = true → hp ≠ x.heap →
      let s' := s.setCtx T.ctx { x with heap := hp, heldHeap := x.heldHeap ++ [x.heap] }
      let sets (i : BitVec 8) (hp' : Heap) : Prop :=
        Solo s (.swr a i) c t T G h → hp = hp' → exec (.swr a i) s = .next (s'.after c t fun h => h)
      sets 0x41 { x.heap with hb := v ++ x.heap.hb.extractLsb' 0 32 } ∧
      sets 0x42 { x.heap with hl := x.heap.hl.extractLsb' 32 32 ++ v } ∧
      sets 0x43 { x.heap with hl := v ++ x.heap.hl.extractLsb' 0 32 } ∧
      sets 0x44 { x.heap with ho := x.heap.ho.extractLsb' 32 32 ++ v } ∧
      sets 0x45 { x.heap with ho := v ++ x.heap.ho.extractLsb' 0 32 } ∧
      (v.extractLsb' 0 2 ≠ 3 → sets 0x46 { x.heap with hkind := v.setWidth 6 })) ∧
    (Solo s (.swr a 0x46) c t T G h → x.privileged = true → v.extractLsb' 0 2 = 3 →
      exec (.swr a 0x46) s = .next (s.trapped c (.swr a 0x46) t Cause.illegalRegister 0 none)) ∧
    (Solo s (.swr a 0x49) c t T G h → x.privileged = true → (v : Word) ≠ x.ptbase.extractLsb' 32 32 →
      exec (.swr a 0x49) s = .next ((s.setCtx T.ctx
        { x with ptbase := v ++ x.ptbase.extractLsb' 0 32, heldPtbase := x.heldPtbase ++ [(x.ptbase, [])] }).after
          c t fun h => h)) ∧
    (Solo s (.swr a 0x4A) c t T G h → x.privileged = true →
      exec (.swr a 0x4A) s = .next ((s.setCtx T.ctx { x with frbase := x.frbase.extractLsb' 32 32 ++ v }).after c t
        fun h => h)) ∧
    (Solo s (.swr a 0x4B) c t T G h → x.privileged = true →
      exec (.swr a 0x4B) s = .next ((s.setCtx T.ctx { x with frbase := v ++ x.frbase.extractLsb' 0 32 }).after c t
        fun h => h)) ∧
    (Solo s (.swr a 0x4C) c t T G h → x.privileged = true → x.killBusy = false → v.getLsbD 31 = false →
      exec (.swr a 0x4C) s = .next ((s.setCtx T.ctx { x with killctl := v &&& 0x80000FFF }).after c t fun h => h)) ∧
    (let k := v.toNat % 2 ^ 12
     let s' := (s.setCtx T.ctx { x with killctl := v &&& 0x80000FFF }).startKill T.ctx k
     Solo s (.swr a 0x4C) c t T G h → x.privileged = true → x.killBusy = false → v.getLsbD 31 = true → k ≠ T.ctx →
      exec (.swr a 0x4C) s = .next (s'.after c t fun h => h) ∧ (s'.ctx k).live = false ∧
        (s'.ctx k).killedBy = (s.ctx k).killedBy ++ [T.ctx] ∧ (s'.ctx T.ctx).killBusy = true) ∧
    (Solo s (.swr a 0x4C) c t T G h → x.privileged = true →
      (x.killBusy = true ∨ (v.getLsbD 31 = true ∧ v.toNat % 2 ^ 12 = T.ctx)) →
      exec (.swr a 0x4C) s = .next (s.after c t fun h => h)) ∧
    (∀ j, (j = .srd d i ∨ j = .swr a i) → 0x40 ≤ i.toNat → sregKnown i.toNat = true →
      (j = .swr a i → sregReadOnly i.toNat = false) → Solo s j c t T G h → x.privileged = false →
      exec j s = .next (s.trapped c j t Cause.privileged 0 none)) ∧
    (∀ j, (j = .tlbinvAll a ∨ j = .tlbinvPage a ∨ j = .tlbinvHeap ∨ j = .killctx d a) → Solo s j c t T G h →
      x.privileged = false →
      exec j s = .next (s.trapped c j t Cause.privileged 0 none))

/-- R226 and R227: with nothing outstanding, ICINV drops what the core has fetched for the context, and TLBINV what is
cached of a context's translations, of one page, or of the heap triple. R228 and R305: KILLCTX gives 2 for its own
context and 1 for one that does not live; for another it starts the kill and waits, and gives 0 once the kill is
complete. The model's choices it rests on: log entries 10, 47 and 52. -/
def Obligations.InvalidationAndKills : Prop :=
  (∀ (a : BitVec 8) (s : State) (c : Issue) (t : Nat) (T : Team) (G : Group) (h : Thread),
    let x := s.ctx T.ctx
    let calm (k : Nat) : Prop := T.revocable = false ∧ s.stores.any (fun w => w.ctx == k) = false ∧
      s.remotes.any (fun e => e.2.ctx == k && e.2.agent < 5) = false ∧ s.porched k = false
    (Solo s .icinv c t T G h → T.revocable = false → s.storesPending c.team = false → s.remotesPending c.team = false →
      exec .icinv s = .next ({ s with fetched := s.fetched.filter fun f =>
        !(f.core == T.core && f.ctx == T.ctx) }.after c t fun h => h)) ∧
    (let k := (h.val a).toNat % 2 ^ 12
     Solo s (.tlbinvAll a) c t T G h → x.privileged = true → calm k →
      exec (.tlbinvAll a) s = .next (({ s with tlb := s.tlb.filter fun e => e.ctx != k }.setCtx k
        { s.ctx k with heldPtbase := [] }).after c t fun h => h)) ∧
    (let va := (h.pair a).toNat
     Solo s (.tlbinvPage a) c t T G h → x.privileged = true → calm T.ctx → x.heldPtbase = [] →
      exec (.tlbinvPage a) s = .next (({ s with tlb := s.tlb.filter fun e =>
        !(e.ctx == T.ctx && (e.page == if e.large then va / 2 ^ 22 else va / 2 ^ 16)) }.setCtx T.ctx x).after c t
          fun h => h)) ∧
    (Solo s .tlbinvHeap c t T G h → x.privileged = true → calm T.ctx →
      exec .tlbinvHeap s = .next ((s.setCtx T.ctx { x with heldHeap := [] }).after c t fun h => h))) ∧
  (∀ (d a : BitVec 8) (s : State) (c : Issue) (t : Nat) (T : Team) (G : Group) (h : Thread),
    let k := (h.val a).toNat % 2 ^ 12
    Solo s (.killctx d a) c t T G h → (s.ctx T.ctx).privileged = true → (s.ctx T.ctx).live = true →
      T.revocable = false →
    (h.wait = none → (s.ctx T.ctx).killBusy = false → k = T.ctx →
      exec (.killctx d a) s = .next (s.after c t (·.put d 2))) ∧
    (h.wait = none → (s.ctx T.ctx).killBusy = false → k ≠ T.ctx → (s.ctx k).live = false →
      exec (.killctx d a) s = .next (s.after c t (·.put d 1))) ∧
    (h.wait = none → (s.ctx T.ctx).killBusy = false → k ≠ T.ctx → (s.ctx k).live = true → G.cancelled = false →
      ∃ s', exec (.killctx d a) s = .next s' ∧ (s'.ctx k).live = false ∧
        (s'.ctx k).killedBy = (s.ctx k).killedBy ++ [T.ctx] ∧
        (s'.ctx T.ctx).killBusy = true) ∧
    (∀ x, h.wait = some (.kill x) → T.ctx ∉ (s.ctx x).killedBy →
      exec (.killctx d a) s = .next (s.after c t (·.put d 0))))

/-! ### The front thread -/

/-- R219: each FTWAIT passes once what it waits for has come about: a phase, room in a decision queue, no matrix
command, no re-shard running, a clock. R220 and R278: FTLAUNCH reads the record and puts it into the device launch
queue, with at most the team's priority, and the front thread waits for its outcome; with 256 records waiting it gives
2 and goes on. Admission gives the outcome: 0 when the record is admitted, 1 when it is refused. The model's choices
it rests on: log entries 7 and 24. -/
def Obligations.FrontThread : Prop :=
  (∀ (a : BitVec 8) (k : BitVec 5),
    FrontDoes (.ftwaitNb a k) (fun _ T x => notLetGo x.wait = true ∧ (T.nb (k.toNat % 16)).broken = false ∧
      (T.nb (k.toNat % 16)).phase ≠ (x.reg a.toNat).getLsbD 0) (fun _ _ x => x) ∧
    FrontDoes (.ftwaitDq a k) (fun _ T x => k.toNat < T.producers + T.consumers ∧
      ∃ G, T.group? k.toNat = some G ∧ G.ended = false ∧ G.dq.length ≤ (x.reg a.toNat).toNat) (fun _ _ x => x) ∧
    FrontDoes .ftwaitMx (fun _ T _ => T.mx.queue = []) (fun _ _ x => x) ∧
    FrontDoes .ftwaitRsh (fun _ T _ => T.rsh.state ≠ 1) (fun _ _ x => x) ∧
    FrontDoes (.ftwaitClk a) (fun s T x => ∃ L t0, SMap.find? T.launch s.launches = some L ∧ L.t0 = some t0 ∧
      (x.reg a.toNat).toNat ≤ s.clock - t0) (fun _ _ x => x)) ∧
  (∀ (d a : BitVec 8) (s : State) (c : Issue) (T : Team) (x : Front) (pa : Nat),
    (FrontSolo s (.ftlaunch d a) c T x → InHeap s c.team T (x.reg a.toNat).toNat 128 pa →
      (x.reg a.toNat).toNat % 128 = 0 →
      T.revocable = false →
      (s.devQueue.length < 256 →
        let e : DevLaunch := ⟨T.ctx, T.priority, LaunchRec.of (s.teamBytes c.team pa 128), c.team, d⟩
        let s' : State := { s with devQueue := s.devQueue ++ [e] }
        exec (.ftlaunch d a) s = .next (s'.modFront c.team fun f => { f with wait := some .launch })) ∧
      (256 ≤ s.devQueue.length → exec (.ftlaunch d a) s = .next (s.afterFront c (·.setReg d.toNat 2)))) ∧
    ∀ (e : DevLaunch) (es : List DevLaunch), s.devQueue = e :: es → s.mgmt.ready = true → s.mgmt.thermalHalt = false →
      let r := ({ s with devQueue := es } : State).admitted e.ctx e.record (min e.record.prio e.prio)
      exec .launchAdmission s = .next (r.1.modFront e.team fun f =>
        if f.wait = some .launch then (f.setReg e.dest.toNat (if r.2 then 0 else 1)).advance 4 else f))

/-- R216–R218: DQPUSH puts a value at the end of a group's queue of at most sixteen: the front thread's at once, a
group's when its lowest member makes the push for all; DQPOP takes the entry at the thread's cursor, which counts
modulo 2³². R128–R130, R134 and R135: a stage that its beat runs is entered, one that it does not is skipped by its
distance, and one of a beat beyond the drain ends the thread; in stage 0 CHEND makes the present beat the last and
cancels what lies beyond; CHSEED sets a seed in beat 0 before stage 1, and traps ILLEGAL elsewhere. A thread outside a
chain traps ILLEGAL at all three. The model's choices it rests on: log entries 6, 66 and 74. -/
def Obligations.ChainsAndQueues : Prop :=
  (∀ (g : BitVec 5) (a d : BitVec 8) (s : State) (c : Issue),
    (∀ T x Q, FrontSolo s (.dqpush g a) c T x → g.toNat < T.producers + T.consumers → T.group? g.toNat = some Q →
      Q.ended = false → Q.dq.length < 16 →
      exec (.dqpush g a) s = .next ((s.modTeam c.team (·.setGroup g.toNat
        { Q with dq := Q.dq ++ [(x.reg a.toNat).setWidth 32], pushed := Q.pushed + 1 })).afterFront c fun f => f)) ∧
    (∀ t T G h Q v, Solo s (.dqpush g a) c t T G h → g.toNat < T.producers + T.consumers → T.group? g.toNat = some Q →
      Q.ended = false → Q.dq.length < 16 → h.wait = some (.push v true) →
      exec (.dqpush g a) s = .next ((s.modTeam c.team (·.setGroup g.toNat
        { Q with dq := Q.dq ++ [v], pushed := Q.pushed + 1 })).after c t fun h => h)) ∧
    (∀ t T G h, Solo s (.dqpop d) c t T G h → h.cursor ≠ G.pushed →
      exec (.dqpop d) s = .next (((s.modThread c.team t fun h =>
        { h.put d (G.dq.getD (G.dq.length - (G.pushed - h.cursor).toNat) 0) with cursor := h.cursor + 1 }).modTeam c.team
          (·.trimQueue (T.groupIx t))).after c t fun h => h))) ∧
  (∀ (st : BitVec 2) (skip : BitVec 16) (k : BitVec 3) (a : BitVec 8) (s : State) (c : Issue) (t : Nat) (T : Team) (G : Group)
    (h : Thread),
    (∀ i, i = .stage st skip ∨ i = .chend ∨ i = .chseed k a → Solo s i c t T G h → T.chain = none ∨ G.beat = none →
      exec i s = .next (s.trapped c i t Cause.illegal 0 none)) ∧
    ∀ (C : Chain) (b : Nat), T.chain = some C → G.beat = some b →
    let next := st.toNat < C.stages ∧ (∀ cur, h.stage = some cur → cur < st.toNat) ∧
      (st.toNat = 0 → b = 0 ∨ T.passed C (b - 1) = true)
    let entered (h : Thread) : Thread :=
      { h with stage := some st.toNat, skipped0 := h.skipped0 || (st == 0 && !C.runs b 0) }
    (Solo s (.stage st skip) c t T G h → next → G.cancelled = false → b + 2 ≤ C.trip + C.stages →
      C.runs b st.toNat = true →
      exec (.stage st skip) s = .next (s.after c t entered)) ∧
    (Solo s (.stage st skip) c t T G h → next → G.cancelled = false → b + 2 ≤ C.trip + C.stages →
      C.runs b st.toNat = false →
      exec (.stage st skip) s = .next (s.modThread c.team t fun h =>
        (entered h).goTo c.len (h.pc + BitVec.ofNat 64 (2 * skip.toNat)))) ∧
    (Solo s (.stage st skip) c t T G h → next → G.cancelled = true ∨ C.trip + C.stages < b + 2 →
      exec (.stage st skip) s = .next (s.modTeam c.team (·.endThread t))) ∧
    (Solo s .chend c t T G h → h.stage = some 0 →
      exec .chend s = .next ((s.modTeam c.team fun T =>
        ({ T with chain := T.chain.map fun C => { C with trip := b + 1 } } : Team).cancelBeyond).after c t fun h => h)) ∧
    (Solo s .chend c t T G h → h.stage ≠ some 0 →
      exec .chend s = .next (s.trapped c .chend t Cause.illegal 0 none)) ∧
    (Solo s (.chseed k a) c t T G h → b = 0 → (h.stage = none ∨ h.stage = some 0) →
      let C' : Chain := { C with seeds := SMap.put C.seeds (128 * k.toNat + T.index t) (h.val a) 0 }
      exec (.chseed k a) s = .next ((s.modTeam c.team fun T => { T with chain := some C' }).after c t fun h => h)) ∧
    (Solo s (.chseed k a) c t T G h → b ≠ 0 ∨ (∃ cur, h.stage = some cur ∧ cur ≠ 0) →
      exec (.chseed k a) s = .next (s.trapped c (.chseed k a) t Cause.illegal 0 none)))

/-! ### Chains, reconvergence, group operations and successors -/

/-- R111–R114: RCV.SET gives a slot the mask that its s registers hold, if the thread is in it and no thread waits at
the slot with another; RCV.WAIT arrives, and the slot releases its threads when every member has arrived or ended: a
thread alone in the mask goes on at once. -/
def Obligations.Reconvergence : Prop :=
  ∀ (e : BitVec 4) (k : BitVec 3) (s : State) (c : Issue) (t : Nat) (T : Team) (G : Group) (h : Thread),
    let m := G.mask T.width e.toNat
    let sl := SMap.getD G.rcv k.toNat ⟨0, 0⟩
    (Solo s (.rcvSet e k) c t T G h → m.getLsbD (T.index t) = true → sl.mask ≠ m → sl.arrived = 0 →
      exec (.rcvSet e k) s = .next ((s.modGroupAt c t T fun G =>
        { G with rcv := SMap.insert k.toNat { sl with mask := m } G.rcv }).after c t fun h => h)) ∧
    (Solo s (.rcvSet e k) c t T G h → m.getLsbD (T.index t) = true → sl.mask = m →
      exec (.rcvSet e k) s = .next (s.after c t fun h => h)) ∧
    (Solo s (.rcvSet e k) c t T G h → m.getLsbD (T.index t) = false →
      exec (.rcvSet e k) s = .next (s.trapped c (.rcvSet e k) t Cause.memberMask 0 none)) ∧
    (Solo s (.rcvSet e k) c t T G h → m.getLsbD (T.index t) = true → sl.mask ≠ m → sl.arrived ≠ 0 →
      exec (.rcvSet e k) s = .next (s.trapped c (.rcvSet e k) t Cause.barrierMisuse 0 none)) ∧
    (Solo s (.rcvWait k) c t T G h → sl.mask.getLsbD (T.index t) = true → G.cancelled = false →
      let sl' : RcvSlot := { sl with arrived := sl.arrived ||| BitVec.ofNat 128 (2 ^ T.index t) }
      exec (.rcvWait k) s = .next (((s.modGroupAt c t T fun G => { G with rcv := SMap.insert k.toNat sl' G.rcv }).modThread
        c.team t fun h => { h with wait := some (.slot k.toNat) }).modTeam c.team (·.settleSlot (T.groupIx t) k.toNat))) ∧
    (Solo s (.rcvWait k) c t T G h → sl.mask = BitVec.ofNat 128 (2 ^ T.index t) → sl.arrived = 0 →
      T.index t < 128 → T.index t < T.width → G.cancelled = false →
      ∃ s' h', exec (.rcvWait k) s = .next s' ∧ s'.thread? c.team t = some h' ∧ h'.pc = h.pc + 4 ∧ h'.wait = none)

/-- R53, R114–R119 and R208: a member of the mask arrives with its values, and waits while another live member has not
arrived; when every other member has arrived or ended, the operation completes: each arrived member goes on past its
instruction with what the operation computes for it of all the arrived values, and b6 reports dropped lanes where
asked: SHFL gives the value of the source lane, or the own one where it is not live; VOTE whether some or all offered
true, the set of those that did or whose value is the own one, or the reduction over the tree of R53; ELECT whether no
lower lane is live. A thread outside its mask traps MEMBER_MASK. The model's choices it rests on: log entries 16, 58
and 77. -/
def Obligations.GroupOperations : Prop :=
  ∀ (i : Instr) (s : State) (c : Issue) (t : Nat) (T : Team) (G : Group) (h : Thread) (m : BitVec 4) (vs : List Word),
    groupOffers h i = some (m, vs) → Solo s i c t T G h →
    let mask := G.mask T.width m.toNat
    let ix := T.index t
    let g := T.groupIx t
    let gone (j : Nat) : Prop := ∃ h', T.thread? (g * T.width + j) = some h' ∧ h'.ended = true
    (mask.getLsbD ix = true → G.ops = [] → T.width ≤ 128 → ix < T.width → (G.cancelled = false ∨ h.trap = none) →
      (∀ j < T.width, j ≠ ix → mask.getLsbD j = true → gone j) → c.len = 4 →
      exec i s = .next (s.after c t fun h => h.receive (groupCompute [(ix, i, vs)] T.width (ix, i, vs))
        (if groupReport i then some (mask != BitVec.ofNat 128 (2 ^ ix)) else none))) ∧
    (mask.getLsbD ix = true → G.ops = [] → G.cancelled = false →
      (∃ j h', j < T.width ∧ j ≠ ix ∧ mask.getLsbD j = true ∧ T.thread? (g * T.width + j) = some h' ∧
        h'.ended = false) →
      exec i s = .next ((s.modGroupAt c t T fun G => { G with ops := [⟨groupKey i, mask, [(ix, i, vs)]⟩] }).modThread
        c.team t fun h => { h with wait := some .groupOp })) ∧
    (∀ arr : List (Nat × Instr × List Word), mask.getLsbD ix = true → G.ops = [⟨groupKey i, mask, arr⟩] →
      T.width ≤ 128 → ix < T.width → (G.cancelled = false ∨ h.trap = none) →
      ((arr.map (·.1)) ++ [ix]).Nodup → (∀ x ∈ arr, x.1 < T.width ∧ groupKey x.2.1 = groupKey i ∧ gOnly x.2.1 = true) →
      (∀ j < T.width, mask.getLsbD j = true → j = ix ∨ (∃ x ∈ arr, x.1 = j) ∨ gone j) →
      let all := arr ++ [(ix, i, vs)]
      let report := mask != BitVec.ofNat 128 (all.foldl (fun v x => v + 2 ^ x.1) 0)
      ∃ s', exec i s = .next s' ∧ ∀ x ∈ all, ∀ h', T.thread? (g * T.width + x.1) = some h' →
        s'.thread? c.team (g * T.width + x.1) = some ((h'.advance 4).receive (groupCompute all T.width x)
          (if groupReport x.2.1 then some report else none))) ∧
    (mask.getLsbD ix = false →
      exec i s = .next (s.trapped c i t Cause.memberMask 0 none)) ∧
    (∀ (all : List (Nat × Instr × List Word)) (W j k : Nat) (v w : Word) (d r : BitVec 8) (e f : BitVec 3) (q : BitVec 2)
        (x : Bool), (all.map (·.1)).Nodup → (∀ y ∈ all, y.1 < W) → W ≤ 128 →
      let val (y : Nat × Instr × List Word) : Word := y.2.2.headD 0
      let takes (op : Instr) (vs : List Word) (src : Int) : Prop :=
        (∀ y ∈ all, src = y.1 → groupCompute all W (j, op, v :: vs) = .regs d [val y]) ∧
        ((∀ y ∈ all, src ≠ y.1) → groupCompute all W (j, op, v :: vs) = .regs d [v])
      let bits (op : Instr) (p : Nat × Instr × List Word → Prop) : Prop :=
        ∃ ws, groupCompute all W (j, op, [v]) = .regs d ws ∧ ws.length = (W + 31) / 32 ∧
          ∀ n < 32 * ws.length, (ws.getD (n / 32) 0).getLsbD (n % 32) = true ↔ ∃ y ∈ all, y.1 = n ∧ p y
      let tree (op : Instr) (f : Word → Word → Word) (z : Word) : Prop :=
        W = 2 ^ k → groupCompute all W (j, op, [v]) = .regs d [laneTree f (laneValue all z) k 0]
      takes (.shflIdx m d r x) [w] (w.toNat % W : Nat) ∧ takes (.shflUp m d r x) [] (j - r.toNat) ∧
      takes (.shflDown m d r x) [] (j + r.toNat) ∧ takes (.shflXor m d r x) [] ((j ^^^ r.toNat : Nat) : Int) ∧
      (∃ b, groupCompute all W (j, .voteAny m e f x, [v]) = .b e b ∧ (b = true ↔ ∃ y ∈ all, val y ≠ 0)) ∧
      (∃ b, groupCompute all W (j, .voteAll m e f x, [v]) = .b e b ∧ (b = true ↔ ∀ y ∈ all, val y ≠ 0)) ∧
      (∃ b, groupCompute all W (j, .elect m e, []) = .b e b ∧ (b = true ↔ ∀ y ∈ all, j ≤ y.1)) ∧
      bits (.voteBallot m d f x) (fun y => val y ≠ 0) ∧ bits (.voteMatch m d r x) (fun y => val y = v) ∧
      tree (.voteRadd m d r x) (fun a b => a + b) 0 ∧
      tree (.voteRmin m d r x) (fun a b => if b.toInt < a.toInt then b else a) 0x7FFFFFFF ∧
      tree (.voteRmax m d r x) (fun a b => if a.toInt < b.toInt then b else a) 0x80000000 ∧
      tree (.voteRfadd m d r x) add32 0x80000000 ∧
      (W = 2 ^ k →
        groupCompute all W (j, .ckx m q true x, [v]) =
          .ck q.toNat ⟨(laneTree (fun a b => a + b) (laneValue all 0) k 0).setWidth 64, some true⟩ ∧
        groupCompute all W (j, .ckx m q false x, [v]) =
          .ck q.toNat ⟨(laneTree add32 (laneValue all 0x80000000) k 0).setWidth 64, some false⟩))

/-- R106, R110 and R338: the successor words of a translated segment: to a segment, to one of two by a b register, to
the one that a register selects, to a segment with another to return to, and back; a popped value that is no segment
traps ILLEGAL. The model's choices it rests on: log entry 12. -/
def Obligations.Successors : Prop :=
  ∀ (t1 t2 : BitVec 24) (b : BitVec 3) (sense : Bool) (r : BitVec 8) (ts : List (BitVec 24)) (x : Xlat),
    let runs (s : State) (T : Team) (_ : Group) (_ : Thread) : Prop := s.xlatOf T = some x
    DoesTo (.succGoto t1) runs (fun h => (h, x.addr t1.toNat)) ∧
    DoesTo (.succBr b sense t1 t2) runs
      (fun h => (h, x.addr (if h.b.getLsbD b.toNat = sense then t1 else t2).toNat)) ∧
    DoesTo (.succSw r ts) runs (fun h => (h, x.addr (ts.getD (min (h.val r).toNat (ts.length - 1)) 0).toNat)) ∧
    DoesTo (.succCall t1 t2) (fun s T G h => runs s T G h ∧ h.rs.length < 8 ∧ h.spill = 0)
      (fun h => ({ h with rs := h.rs ++ [t2.setWidth 64] }, x.addr t1.toNat)) ∧
    (∀ v, DoesTo .succRet
      (fun s T G h => runs s T G h ∧ h.rs.getLast? = some v ∧ h.spill = 0 ∧ v.toNat < x.segs)
      (fun h => ({ h with rs := h.rs.dropLast }, x.addr v.toNat))) ∧
    (∀ v, Traps .succRet (fun s T G h => runs s T G h ∧ h.rs.getLast? = some v ∧ h.spill = 0 ∧ x.segs ≤ v.toNat)
      Cause.illegal (fun _ => 0))

/-! ### Engines -/

/-- R173, R176–R178 and R259: a transfer of a copy between a team's own local addresses moves its next bytes, those
that lie in one aligned word of the destination, in ascending order; they count on its barrier, and the last of them
finish the copy, once what it stored has been performed. It follows every access that its thread made before. One that
meets a fault that no word's error caused gives the copy up: its barrier breaks with the address, or a record is
written. One whose access to a remote page comes before the team's porch has committed commits it and waits. A copy
that sleeps does nothing. The model's choices it rests on: log entries 9, 21, 30 and 36. -/
def Obligations.CopyTransfers : Prop :=
  ∀ (s : State) (k id : Nat) (T : Team) (C : Copy), OnCore s k T → SMap.find? id T.copies = some C →
    C.out = [] →
    (s.forkPending k C.origin = false → C.sleep = none →
      (∀ a b, C.kind = .l2l → C.parts = [] → C.done < C.total → C.srcAt = some (⟨k, a, false⟩, T.relaunches) →
        C.dstAt = some (⟨k, b, false⟩, T.relaunches) → CoreSound s T →
        let n := min (4 - (b + C.done) % 4) (C.total - C.done)
        let s1 := (s.writeLocal ⟨k, b + C.done, false⟩ (C.ascending (readBytes T.sp (a + C.done) n))).modTeam k
          (·.landed id C n)
        exec (.copyTransfer k id) s =
          .next (if C.total ≤ C.done + n then s1.finishes k C.origin (·.copied id C) else s1)) ∧
      (C.total ≤ C.done → exec (.copyTransfer k id) s = .next (s.finishes k C.origin (·.copied id C))) ∧
      (∀ cause addr, runM (copyPiece k id C) s = .error (.trap cause addr) → cause ≠ Cause.reconstruction →
        cause ≠ Cause.uncorrectable → s.opPending k C.origin = false →
        let gone (T : Team) : Team := { T with copies := SMap.erase id T.copies }
        let s1 := s.sealOrigin k C.origin
        exec (.copyTransfer k id) s = .next (match C.barrier with
          | some j => s1.modTeam k fun T => (gone T).abandonOn j (some addr)
          | none => (s1.modTeam k gone).report4 T C.origin 2 cause addr)) ∧
      (∀ s1, runM (copyPiece k id C) s = .ok ((), s1) ∨ runM (copyPiece k id C) s = .error (.hold s1) →
        s.tooSoon s1 k = true → exec (.copyTransfer k id) s = .next (s.commitPorch k))) ∧
    (s.forkPending k C.origin = true → exec (.copyTransfer k id) s = .next s) ∧
    (C.sleep.isSome = true → exec (.copyTransfer k id) s = .next s)

/-- R187, R196–R203 and R259: an MX.ZERO is done as it starts, an MX.ISSUE resumes or begins afresh, and a transfer is
marked as started; one K-slice of an MX.ISSUE is fetched, added to the accumulator and counted in PROG; one row of an
MX.STORE is converted and written, and one of an MX.LOAD is read into the accumulator; a transfer ends once its bytes
have landed and what it stored has been performed. A step whose access to a remote page comes before the team's porch
has committed commits it and waits (R258). The model's choices it rests on: log entries 9, 31, 55, 63 and 90. -/
def Obligations.MatrixSteps : Prop :=
  ∀ (s : State) (k : Nat) (T : Team) (C : MxCmd),
    let ends (last : Bool) (s : State) : State := if last then s.finishes k C.origin (·.mxEnd C) else s
    let early (m : M Unit) : Prop :=
      ∃ s1, (runM m s = .ok ((), s1) ∨ runM m s = .error (.hold s1)) ∧ s.tooSoon s1 k = true
    (∀ n, OnCore s k T → T.mx.queue = [C] → C.started = false → C.kind = .zero n →
      exec (.matrixCommandStart k) s = .next (s.modTeam k fun T => ({ T with mx := T.mx.setTile n [] } : Team).mxEnd C)) ∧
    (∀ d, OnCore s k T → T.mx.queue.head? = some C → C.started = false → C.kind = .issue d →
      (Block.of C.nfmt d).trailers = [] →
      exec (.matrixCommandStart k) s = .next (s.modTeam k fun T =>
        { T with mx := (mxBegin T.mx (Block.of C.nfmt d) d).head fun C => { C with started := true } })) ∧
    (OnCore s k T → T.mx.queue.head? = some C → C.started = false → C.sleep = none →
      ((∃ n d q p, C.kind = .store n d q p) ∨ ∃ n d, C.kind = .load n d) →
      exec (.matrixCommandStart k) s = .next (s.modTeam k fun T =>
        { T with mx := T.mx.head fun C => { C with started := true } })) ∧
    (MxRuns s k T C → s.forkPending k C.origin = false →
      (∀ d parts bs s1, C.kind = .issue d → C.starting = false →
        let p := Block.of C.nfmt d
        let j := T.mx.prog.toNat / p.w
        let n := min p.w (p.k - j * p.w)
        runM (fetchRuns k C.origin (sliceRuns p j)) s = .ok (parts, s1) → s.tooSoon s1 k = false →
        partsReady parts = some bs →
        let t := (p.problems.foldl (fun r q => addProblem p n q r.1 r.2) (T.mx.tile p.acc, bs)).1
        let go (x : Mx) : Mx := { x with prog := BitVec.ofNat 32 ((j + 1) * p.w) }.setTile p.acc t
        let s2 := s1.modTeam k fun T => { T with mx := (go T.mx).head fun C => { C with parts := [] } }
        exec (.mxSlice k) s = .next (if p.slices ≤ j + 1 then s2.modTeam k (·.mxEnd C) else s2)) ∧
      (∀ n d q pol s1, C.kind = .store n d q pol → C.step < (Tile.of d).rows →
        let t := Tile.of d
        let o := t.opnd C.nfmt
        let vs := storeElems C t (T.mx.tile n) q pol
        .trap ∉ vs →
        runM (putRuns k C.origin t.here (o.rowRuns t.addr C.step 0 (t.cols * o.e))
          (((vs.drop (C.step * t.cols)).take t.cols).flatMap fun v => leBytes o.e v.bits)) s = .ok ([], s1) →
        s.tooSoon s1 k = false →
        exec (.mxStoreTransfer k) s = .next (ends (!t.trailer && C.step + 1 == t.rows) (s1.modTeam k fun T =>
          T.mxLanded C (t.cols * (fmtOf C.nfmt t.code).bytes)))) ∧
      (∀ n d q pol, C.kind = .store n d q pol → (Tile.of d).steps ≤ C.step →
        exec (.mxStoreTransfer k) s = .next (ends true s)) ∧
      (∀ n d parts bs s1, C.kind = .load n d → (Tile.of d).trailer = false → C.step < (Tile.of d).rows →
        let t := Tile.of d
        let o := t.opnd C.nfmt
        runM (engineGets 3 k C.origin t.here (o.rowRuns t.addr C.step 0 (t.cols * o.e))) s = .ok (parts, s1) →
        s.tooSoon s1 k = false → partsReady parts = some bs →
        let put (a : SMap Word) (j : Nat) : SMap Word :=
          setAcc a (t.row0 + C.step) (t.col0 + j) (loadElem o.fmt (fieldN bs (j * o.e) o.e))
        let row (x : Mx) : Mx := x.setTile n ((List.range t.cols).foldl put (x.tile n))
        exec (.mxLoadTransfer k) s = .next (ends (C.step + 1 == t.rows)
          ((s1.modTeam k fun T => { T with mx := row T.mx }).modTeam k fun T =>
            T.mxLanded C (t.cols * (fmtOf C.nfmt t.code).bytes)))) ∧
      (∀ d, C.kind = .issue d → C.starting = false → early (mxSlice k C) →
        exec (.mxSlice k) s = .next (s.commitPorch k)) ∧
      (∀ n d q pol, C.kind = .store n d q pol → early (mxStoreRow k C) →
        exec (.mxStoreTransfer k) s = .next (s.commitPorch k)) ∧
      (∀ n d, C.kind = .load n d → early (mxLoadRow k C) → exec (.mxLoadTransfer k) s = .next (s.commitPorch k)))

/-- R232–R234 and R259: a running re-shard operation pulls one row and stores it, and RSPROG is the first row that has
not landed; past the last entry, and with every row landed, the operation is done; one that is asked to stop does so
between rows: the rows past RSPROG are given up, and its block can start it there again. The model's choices it rests
on: log entries 9, 29, 32 and 63. -/
def Obligations.ReshardSteps : Prop :=
  ∀ (s : State) (k : Nat) (T : Team) (ans : RemoteAnswer), OnCore s k T → T.rsh.state = 1 →
    let R := T.rsh
    (R.stopAsked = false → R.sleep = none → s.forkPending k R.origin = false →
      (fieldN R.go 4 2 ≤ R.nextEntry.toNat → R.flight = [] →
        exec (.rshRowPull k ans) s = .next ((s.finishes k R.origin (·.rshLeave 2)).rshSettle k)) ∧
      (fieldN R.go 4 2 ≤ R.nextEntry.toNat → R.flight ≠ [] → exec (.rshRowPull k ans) s = .next (s.rshSettle k)) ∧
      ∀ d, R.nextEntry.toNat < fieldN R.go 4 2 → R.plan = some d →
        let x := Entry.of d
        let src := Layout.of R.src
        let dva := rowAt (Layout.of R.dst) x.dst x R.nextRow.toNat
        (x.rows ≤ R.nextRow.toNat →
          exec (.rshRowPull k ans) s = .next ((s.modTeam k (·.rshMove (R.nextEntry.toNat + 1) 0 none)).rshSettle k)) ∧
        ∀ bs s1 s2, R.nextRow.toNat < x.rows →
          runM (pullRow k x (rowAt src x.so x R.nextRow.toNat) (x.e 0 * src.e) ans (BitVec.ofNat 64 dva)) s = .ok (bs, s1) →
          runM (landRow k R.origin dva bs) s1 = .ok ((), s2) →
          s.tooSoon s2 k = false →
          let f : RowFlight := ⟨R.nextEntry, R.nextRow, List.range' s1.nextSeq (s2.nextSeq - s1.nextSeq)⟩
          exec (.rshRowPull k ans) s = .next ((s2.modTeam k fun T =>
            let T : Team := { T with rsh := { T.rsh with flight := T.rsh.flight ++ [f] } }
            if x.rows ≤ R.nextRow.toNat + 1 then T.rshMove (R.nextEntry.toNat + 1) 0 none
            else T.rshMove R.nextEntry.toNat (R.nextRow.toNat + 1) (some d)).rshSettle k)) ∧
    (∀ f fs, R.flight = f :: fs → s.rowLanded k f = false →
      s.rshSettle k = s.modTeam k fun T => { T with rsh := { T.rsh with entry := f.entry, row := f.row } }) ∧
    (R.stopAsked = true → exec (.rshStopAtBoundary k) s = .next ((s.rshCut k).modTeam k (·.rshLeave 3))) ∧
    ∃ T', (s.rshCut k).team? k = some T' ∧ T'.rsh.flight = [] ∧ T'.rsh.nextEntry = T'.rsh.entry ∧
      T'.rsh.nextRow = T'.rsh.row ∧ ∀ w ∈ (s.rshCut k).stores, w.team = k →
        ∀ f ∈ R.flight, w.tag.seq ∉ f.seqs

/-! ### Between instructions -/

/-- R67, R155, R180 and R254: a result that is there is written to its register, which stays barred while its window
runs; an element for an out port is pushed in its place, once there is room and no RC store of its thread waits; the
thread that stands first in line at an in port takes the element at the head of the ring, and leaves the line when its
instruction has all that it reads of the port. The model's choices it rests on: log entries 8, 34, 44 and 73. -/
def Obligations.Arrivals : Prop :=
  ∀ (s : State) (k t : Nat) (T : Team) (h : Thread) (v : Word64) (n e : Nat) (m : Bool) (u : Option Nat),
    OnCore s k T → T.thread? t = some h → h.ended = false →
    (∀ d : BitVec 8, d.toNat < 220 → h.pend = [⟨[d], .ready [v], n, m, e, u⟩] →
      exec (.loadResultReturn k (.thread t)) s = .next (s.modThread k t fun h =>
        { h.put d (v.setWidth 32) with pend := if n = 0 then [] else [⟨[d], .ready [], n, m, e, u⟩] })) ∧
    (∀ p r s1, h.pend = [⟨[outCode p], .ready [v], 0, m, e, u⟩] → (∀ j ∈ T.pushLine p, e ≤ j) →
      T.ring? true p = some r → s.rcStoring k (T.origin (.thread t)) = false →
      ringPush k r (v.setWidth 32) u s = .ok ((), s1) → (s1.thread? k t).map (·.pend) = some h.pend →
      exec (.streamPush k (.thread t)) s = .next (s1.modThread k t fun h => { h with pend := [] })) ∧
    (∀ p r w s1 h1, h.wait = some (.port p) → h.ticket? p = some n → (∀ j ∈ T.line p, n ≤ j) →
      T.ring? false p = some r → s.rcPending k (T.origin (.thread t)) = false →
      ringPop k r s = .ok (w, s1) →
      let s2 := s1.modThread k t fun h => { h with latch := h.latch ++ [(p, w)] }
      s2.thread? k t = some h1 →
      exec (.streamPop k (.thread t) p) s = .next (if s2.portNeed k h1 p ≤ h1.latched p then
        s2.modThread k t fun h =>
          { h with wait := some .poll, places := h.places.filter fun e => e.1 != portIx false p } else s2))

/-- R122, R219, R286 and R298: a thread at its limit ends its team with WATCHDOG, once its results have arrived; a
trap that waited for its thread's results is taken; a path with a thread that has been ready for 1024 clocks is served
next; the front thread passes its wait on the clock. R126, R127, R133, R215 and R300: the next chain group is created
when it is due; a thread that settles leaves; a team all of whose threads have ended, and whose engines are at rest,
leaves its wing, and ends when no access of a peer into its scratchpad is in flight (R184). R258 and R300: a team that
a fault has ended, whose engines are at rest and which owes no element, leaves its wing and commits its porch, and
ends when the commit has been performed. The model's choices it rests on: log entries 6, 7, 36, 45, 49 and 59. -/
def Obligations.ThreadAndTeamEvents : Prop :=
  (∀ (s : State) (k t g : Nat) (pc : Word64) (T : Team) (h : Thread), OnCore s k T →
    (T.thread? t = some h → h.ended = false → h.wait = none → h.trap = none → h.parked = false → h.limit ≤ h.count →
      exec (.watchdog k t) s = .next (s.takeTrap k t ⟨Cause.watchdog, 0, h.pc, s.wordAt k h.pc, none⟩) ∧
      (∀ G, T.group? (T.groupIx t) = some G → h.pend = [] →
        ∃ s' T' r, exec (.watchdog k t) s = .next s' ∧ s'.team? k = some T' ∧ T'.dying = true ∧ T'.fault = some r ∧
          r.type = 2 ∧ r.detail = detail Cause.watchdog.toNat 0 (s.wordAt k h.pc) h.pc 0 (whereBytes T (.thread t))) ∧
      (∀ p, h.pend = [p] → p.isRemote = true → ∃ s' h', exec (.watchdog k t) s = .next s' ∧
        s'.thread? k t = some h' ∧ h'.trap = some ⟨Cause.watchdog, 0, h.pc, s.wordAt k h.pc, none⟩ ∧ h'.pend = [p])) ∧
    (∀ r, T.thread? t = some h → h.ended = false → h.trap = some r →
      exec (.trapEntry k t) s = .next (s.takeTrap k t r)) ∧
    (T.path g pc ≠ [] → 1024 ≤ T.ageOf s.clock g pc →
      exec (.pathAgeing k g pc) s = .next { s with agenda := .bundle k (T.path g pc) :: s.agenda }) ∧
    (∀ f a w n s1 L t0, T.front = some f → f.ended = false → f.wait = some .poll →
      fetchAt k f.pc s = .ok ((w, n, some (.ftwaitClk a)), s1) → s1.team? k = some T → s1.launches = s.launches →
      s1.clock = s.clock → SMap.find? T.launch s.launches = some L → L.t0 = some t0 →
      (f.reg a.toNat).toNat ≤ s.clock - t0 →
      exec (.clockWaitExpiry k) s = .next (s.modFront k (·.advance 4)))) ∧
  ((∀ (s : State) (k : Nat) (T : Team), s.team? k = some T → T.dying = true → s.enginesStill T = true →
    s.pushesOwed k T = false →
    ((s.quitWing k).peersBusy k = true → exec (.teamEnd k) s = .next (s.quitWing k)) ∧
    ((s.quitWing k).peersBusy k = false →
    (T.revocable = true → T.porch ≠ [] → exec (.teamEnd k) s = .next ((s.leaveWing k).commitPorch k)) ∧
    (T.revocable = false → s.committing k = true → exec (.teamEnd k) s = .next s) ∧
    (T.revocable = false → T.porch = [] → s.committing k = false →
      ∃ s' T', exec (.teamEnd k) s = .next s' ∧ s'.team? k = some T' ∧ T'.status = .ended ∧ T'.dying = false ∧
        T'.fault = none ∧ T'.porchSlot = none ∧ T'.wing = none))) ∧
  ∀ (s : State) (k t : Nat) (T : Team) (h : Thread), OnCore s k T →
    (∀ L, SMap.find? T.launch s.launches = some L → T.chainDue = true →
      exec (.chainGroupCreate k) s = .next (s.modTeam k (·.createBeat L.record))) ∧
    (∀ n, T.thread? t = some h → h.ended = false → h.wait = some (.settle n) →
      exec (.chainSettle k t) s = .next ((s.modTeam k (·.exitThread t n)).reportLost k (.thread t))) ∧
    (T.exited = true → T.copies = [] → T.mx.queue = [] → T.rsh.state ≠ 1 → (s.quitWing k).peersBusy k = true →
      exec (.teamEnd k) s = .next (s.quitWing k)) ∧
    (T.exited = true → T.copies = [] → T.mx.queue = [] → T.rsh.state ≠ 1 → (s.quitWing k).peersBusy k = false →
      (T.revocable = false → T.porch = []) →
      ∃ s' T', exec (.teamEnd k) s = .next s' ∧ s'.team? k = some T' ∧ T'.status = .ended ∧ T'.porch = [] ∧
        T'.porchSlot = none ∧ T'.wing = none) ∧
    (T.exited = false → exec (.teamEnd k) s = .next s))

/-- R248, R268–R271, R291, R301 and R305: an agent asleep on a record that has been freed wakes and traps; a waiting
record of types 2 to 6 goes to the lowest free place, and a fetch that faulted while none was free then has its record
and sleeps; a kill is complete when nothing of its context is outstanding; the oldest store of a team is written; a
parity update is added into its parity word; a bank that is to be retired is. The model's choices it rests on: log
entries 9, 36, 45 and 89. -/
def Obligations.Records : Prop :=
  ∀ (s : State) (k x r b : Nat) (T : Team) (h : Thread),
    (∀ t req, s.recordState x r = 0 → s.teams = [(k, T)] → T.ctx = x → T.threads = [(t, h)] → T.front = none →
      T.copies = [] → T.mx.queue = [] → T.status = .saved → h.wait = some (.record r req) →
      ∃ s' h', exec (.faultRecordWake x r) s = .next s' ∧ s'.thread? k t = some h' ∧ h'.wait = none ∧
        h'.trap = some req) ∧
    (∀ R Rs i, (s.ctx x).reports = R :: Rs → s.freeRecord x = some i →
      exec (.faultRecordTake x) s = .next ((s.setCtx x { s.ctx x with reports := Rs }).takeRecord x i 0 0 R.type 0
        R.detail)) ∧
    ((∀ w ∈ s.stores, w.ctx ≠ x) → (∀ e ∈ s.remotes, e.2.ctx ≠ x) →
      ∃ s', exec (.killComplete x) s = .next s' ∧ (s'.ctx x).killedBy = [] ∧
        ∀ i ∈ (s.ctx x).killedBy, (s'.ctx i).killBusy = false ∧ (s'.ctx i).killDone = true) ∧
    (∀ t a acc req s1, (s.ctx x).reports = [] → s.teams = [(k, T)] → T.ctx = x → T.dying = false → T.status ≠ .ended →
      T.threads = [(t, h)] → h.wait = some (.recordFree a acc req) → req.instr = none →
      s.recordFault x a acc = some (s1, r) →
      exec (.faultRecordTake x) s = .next (s1.setWait ⟨k, .thread t⟩ (.record r req))) ∧
    (∀ w ws, s.stores = w :: ws → w.team = k →
      exec (.storeAcknowledgement k 0) s =
        .next ((({ s with stores := ws } : State).performStore w).rshSettle k)) ∧
    (∀ w : PendStore, w.tag.holes = [] → w.bytes ≠ [] → s.performStore w = s.writePhys w.pa w.bytes w.tag.bprio) ∧
    (∀ g row u q, (s.core x).queue = (g, row, u) :: q → SMap.find? (8 * row + g) (s.core x).perrs = none →
      8 * row + g ∉ (s.core x).recompute → (s.core x).parityFailed = false →
      exec (.parityUpdateLand x) s = .next (s.setCore x (({ s.core x with queue := q } : Core).addParity (8 * row + g) u))) ∧
    (b ∈ (s.core x).toRetire → SMap.find? (b / 4) (s.core x).retired = none → (∀ e ∈ (s.core x).queue, e.1 ≠ b / 4) →
      exec (.bankRetire x b) s = .next (s.setCore x { s.core x with
        toRetire := (s.core x).toRetire.filter (· != b),
        retired := SMap.insert (b / 4) b (s.core x).retired }))

/-! ### Launches and placement -/

/-- R274–R278, R291–R293, R315 and R334: the host's doorbell write sets the tail of a queue; the dispatcher takes the
next record of the next queue, and admits it, or writes status 2 to its completion word: one of a gang of none or more
than 16, a width code above 3, a scratchpad of no multiple of 16 bytes or an image that is not aligned to 256; the
teams of a launch that waited for its translation begin to wait for a core; and a launch whose teams have all ended,
with nothing outstanding, writes its completion word. R279 and R280: a core that holds no unstarted record takes the
next chunk, the remaining records over twice the cores, rounded up; it creates a team for its next record, whose
arguments are the record, unless other waiting work comes first or needs the room. The model's choices it rests on:
log entries 25, 26, 27, 41, 42, 70, 83 and 88. -/
def Obligations.LaunchesAndJobs : Prop :=
  (∀ (s : State) (id q : Nat) (v : BitVec 32) (L : Launch),
    (s.mgmt.ready = true → q < 64 →
      exec (.launchDoorbell q v) s = .next (s.writePhys (s.mgmt.doorbase.toNat + 8 * q) (leBytes 8 v.toNat) 0)) ∧
    (∀ Q va d s1, s.mgmt.ready = true → s.mgmt.thermalHalt = false → s.devQueue = [] → s.nextQueue = some (q, Q) →
      QueueHolds s Q va → va.toNat % 128 = 0 →
      let s0 : State := { s with sqs := SMap.insert q Q.next s.sqs, lastQueue := q }
      runM (sysRead Q.ctx va 128) s0 = .ok (d, s1) →
      let r := LaunchRec.of d
      exec .launchAdmission s = .next (s1.admitted Q.ctx r r.prio).1 ∧
      (r.gang = 0 ∨ 16 < r.gang.toNat ∨ 3 < r.width.toNat ∨ r.scratch.toNat % 16 ≠ 0 ∨ r.image.toNat % 256 ≠ 0 →
        (r.done = 0 → exec .launchAdmission s = .next s1) ∧
        ∀ pa, r.done ≠ 0 → HeapAt s1 Q.ctx r.done.toNat 8 pa → s1.doorbellWords pa 8 = [] →
          s1.inRegisters pa 8 = false → s1.doneVectors = [] →
          exec .launchAdmission s = .next { s1 with mem := writeBytes s1.mem pa (leBytes 8 2) })) ∧
    (SMap.find? id s.launches = some L → L.pending = true → L.complete = false →
      exec (.wizinTranslate id) s =
        .next (({ s with launches := SMap.insert id { L with pending := false } s.launches } : State).createTeams id)) ∧
    (SMap.find? id s.launches = some L → L.pending = false → L.complete = false → L.job = none →
      (∀ e ∈ s.teams, e.2.launch = id → e.2.status = .ended) → s.outstanding id = false →
      exec (.launchComplete id) s =
        .next (({ s with launches := SMap.insert id { L with complete := true } s.launches } : State).writeCompletion
          L.ctx id 5 L.record.done
          ((if L.faulted then 3 else 1) + (s.clock - L.t0.getD s.clock) % 2 ^ 56 * 256))) ∧
    (∀ T n, SMap.find? id s.launches = some L → (n, T) ∈ s.teams → T.launch = id → T.status ≠ .ended →
      exec (.launchComplete id) s = .next s)) ∧
  (∀ (s : State) (id x : Nat) (L : Launch) (j : Job), SMap.find? id s.launches = some L → L.job = some j →
    L.complete = false → (s.ctx L.ctx).live = true →
    (L.pending = false → (SMap.getD j.runs x (0, 0)).2 = 0 → (s.core x).fenced = false → x < 768 →
      s.fencedClusters = [] → j.stranded s = none → j.dealt < j.count →
      let n := max 1 ((j.count - j.dealt + 2 * s.jobCores id x - 1) / (2 * s.jobCores id x))
      exec (.jobChunkTake id x) s = .next (modJob s id fun j =>
        { j with dealt := j.dealt + n, runs := SMap.insert x (j.dealt, n) j.runs })) ∧
    (∀ a n base d s1, SMap.getD j.runs x (0, 0) = (a, n + 1) → s.staggered L = false → s.porchMiB = 0 →
      s.workAhead (id, L) = false →
      s.fitsAt x [] L.record.room = some base →
      let s0 := modJob s id fun j => { j with runs := SMap.insert x (a + 1, n) j.runs }
      runM (sysRead L.ctx (j.array + BitVec.ofNat 64 (j.rsize * a)) j.rsize) s0 = .ok (d, s1) →
      let s' := ((s1.addTeam (s1.jobTeam id L j a d)).gangStarted id).placeTeam s1.nextTeam x base
      exec (.jobTeamCreate id x) s =
        .next (if s.keepsRoom s' (s.unitsBefore (id, L)) L.priority id then s' else s)))

/-- R16, R281–R284 and R288: of the waiting units in their order the first that fits somewhere is placed, unless the
next team of a job comes before it; one that fits nowhere blocks none behind it, but where room is being made for it
none behind takes that, and one whose lowest place is such room takes another; where none can be placed nothing is;
the end of a stagger delay lets the next gang be placed; victims begin to be brought to rest, their front threads
parked; a team at rest is saved and waits again, its running re-shard operation stopped at a row boundary. The model's
choices it rests on: log entries 6, 23, 83 and 91. -/
def Obligations.Placement : Prop :=
  ∀ (s : State) (id k : Nat) (T : Team) (L : Launch),
    let placed (i : Instr) : Prop :=
      (∀ us e r vs at_, s.waitingUnits = us ++ (e :: r) :: vs → (∀ u ∈ us, s.placeOf [] u = none) →
        s.placeOf [] (e :: r) = some at_ → s.jobAhead e.2.priority e.2.launch = false →
        (s.resting = [] ∧ ∀ x ∈ s.launches, Launch.before x e.2.priority e.2.launch = true → ∀ j, s.jobDue x.2 = some j →
          s.jobFits [] x.2 j = false) ∨ s.unitKeepsRoom (e :: r) at_ = true →
        exec i s = .next (s.placeUnit (e :: r) at_)) ∧
      (∀ us e r vs p at_, s.waitingUnits = us ++ (e :: r) :: vs → (∀ u ∈ us, s.placeOf [] u = none) →
        s.placeOf [] (e :: r) = some p → s.unitKeepsRoom (e :: r) p = false → s.elsewhere (e :: r) = some at_ →
        s.jobAhead e.2.priority e.2.launch = false →
        exec i s = .next (s.placeUnit (e :: r) at_) ∧ s.unitKeepsRoom (e :: r) at_ = true) ∧
      ((∀ u ∈ s.waitingUnits, ∀ keep, ∀ cl < 48, ∀ at_, s.placeIn [] keep u cl = some at_ → s.unitKeepsRoom u at_ = false) →
        exec i s = .next s)
    placed .teamPlacement ∧
    (SMap.find? id s.launches = some L → s.staggered L = false → placed (.gangStaggerExpiry id)) ∧
    (SMap.find? id s.launches = some L → s.staggered L = true → exec (.gangStaggerExpiry id) s = .next s) ∧
    (s.victims = some [k] →
      exec .preemption s = .next (s.modTeam k fun T =>
        { T with status := .resting, front := T.front.map fun f => { f with parked := true } })) ∧
    (s.victims = none → exec .preemption s = .next s) ∧
    (s.team? k = some T → T.status = .resting → s.canSave k T = true → CoreSound s T →
      exec (.contextSave k) s = .next ((s.rshCut k).modTeam k fun T => { T with status := .saved }) ∧
        (T.rsh.state ≠ 1 → s.rshCut k = s)) ∧
    (s.team? k = some T → s.canSave k T = false → exec (.contextSave k) s = .next s)

/-! ### The fabric, collectives and the host -/

/-- R162, R166, R305 and R308–R313: an answer reaches the load, atomic, copy or matrix command that asked: a load with
all its bytes finishes, an atomic's value is there, a copy has its piece or lands it, and one that was refused traps,
is kept for the next FENCE, or gives its engine operation up; a request held here expires when its budget is used up,
and not before; one of another device is performed, refused, discarded or waits; pause, resume, retransmission and
failure change only their port and what it holds. The model's choices it rests on: log entries 9, 33, 38, 39, 45, 60
and 71. -/
def Obligations.Fabric : Prop :=
  ∀ (s : State) (id p : Nat) (r : Remote) (R : InboundRequest) (T : Team),
    let s0 : State := { s with remotes := SMap.erase id s.remotes }
    (SMap.find? id s.remotes = some r → (s.ctx r.ctx).live = true → s.team? r.team = some T →
      (∀ t h, r.agent = 0 → r.origin.who = .thread t → T.thread? t = some h → h.ended = false →
        let failed (s : State) : State := s.modThread r.team t fun h => { h with remoteFail := some (h.remoteFail.getD r.addr) }
        (∀ bs, r.op = .store bs →
          (r.sent = true → exec (.remoteAnswer id (.performed [])) s = .next s0) ∧
          (r.sent = true → exec (.remoteAnswer id .refused) s = .next (failed s0)) ∧
          (r.sent = false → r.budget.toNat ≤ (s.clock - r.since + 63) / 64 →
            exec (.requestBudgetExpiry id) s = .next (failed s0))) ∧
        (∀ n d a l size o word addr parts, r.sent = true → r.op = .load n →
          h.wait = some (.load (.ld d a l size o) word addr parts) → .asked id ∈ parts →
          (∀ bs all, partsReady (parts.map (LoadPart.answer id (padTo n bs))) = some all →
            partsBad (parts.map (LoadPart.answer id (padTo n bs))) = none → (∀ e ∈ loadDest d size, e.toNat < 220) →
            exec (.remoteAnswer id (.performed bs)) s = .next (s0.modThread r.team t fun h =>
              (({ h with wait := none } : Thread).expectAll (loadDest d size) l (loadVals false size all)).advance 4)) ∧
          exec (.remoteAnswer id .refused) s = .next ((s0.countIssue ⟨r.team, .thread t⟩).takeTrap r.team t
            ⟨Cause.remoteAccess, addr, h.pc, word, some (.ld d a l size o)⟩)) ∧
        (∀ op x d n m e u, r.sent = true → r.op = .atomic op x → op ≠ 1 → op ≠ 7 →
          h.pend = [⟨[d], .remote id, n, m, e, u⟩] →
          let answered (v : Word) : State :=
            s0.modThread r.team t fun h => { h with pend := [⟨[d], .ready [v.setWidth 64], n, m, e, u⟩] }
          (∀ bs, exec (.remoteAnswer id (.performed bs)) s =
            .next (answered (BitVec.ofNat 32 (leNat (padTo 4 bs))))) ∧
          exec (.remoteAnswer id .refused) s = .next (failed (answered 0)))) ∧
      (∀ k C, r.sent = true → r.agent = 2 → T.copies = [(k, C)] →
        (∀ n bs, r.op = .load n → C.parts = [.asked id] → C.out = [] →
          exec (.remoteAnswer id (.performed bs)) s = .next (s0.setTeam r.team
            { T with copies := [(k, { C with parts := [.bytes (padTo n bs)] })] })) ∧
        (∀ bs ws, r.op = .store bs → C.parts = [.bytes ws] → C.out = [id] →
          let C' : Copy := { C with out := [] }
          let s1 := (s0.setTeam r.team { T with copies := [(k, C')] }).modTeam r.team (·.landed k C' C.piece.bytes)
          exec (.remoteAnswer id (.performed [])) s =
            .next (if C.total ≤ C.done + C.piece.bytes then s1.finishes r.team C.origin (·.copied k C') else s1)) ∧
        (.asked id ∈ C.parts ∨ id ∈ C.out →
          let gone (T : Team) : Team := { T with copies := [] }
          let s1 := s0.sealOrigin r.team C.origin
          exec (.remoteAnswer id .refused) s = .next (match C.barrier with
            | some j => s1.modTeam r.team fun T => (gone T).abandonOn j (some r.addr)
            | none => (s1.modTeam r.team gone).report4 T C.origin 2 Cause.remoteAccess r.addr))) ∧
      (∀ C, r.sent = true → r.agent = 3 → T.mx.queue = [C] →
        (∀ n bs, r.op = .load n → C.parts = [.asked id] → C.out = [] →
          exec (.remoteAnswer id (.performed bs)) s = .next (s0.modTeam r.team fun T =>
            { T with mx := { T.mx with queue := [{ C with parts := [.bytes (padTo n bs)] }] } })) ∧
        (.asked id ∈ C.parts ∨ id ∈ C.out →
          let s1 := (s0.sealOrigin r.team C.origin).modTeam r.team fun T => T.mxAbandon C Cause.remoteAccess r.addr
          exec (.remoteAnswer id .refused) s =
            .next (if C.barrier = none then s1.report4 T C.origin 3 Cause.remoteAccess r.addr else s1)))) ∧
    (SMap.find? id s.remotes = some r → r.sent = false → ∀ ans, exec (.remoteAnswer id ans) s = .next s) ∧
    (SMap.find? id s.remotes = some r → r.sent = true ∨ (s.clock - r.since + 63) / 64 < r.budget.toNat →
      exec (.requestBudgetExpiry id) s = .next s) ∧
    (s.mgmt.ready = false → exec (.inboundRemoteRequest R) s = .next s) ∧
    (s.mgmt.ready = true →
      let answers (s : State) (a : RemoteAnswer) : State := { s with answers := s.answers ++ [(R.dev.toNat, a)] }
      let refuses (s : State) : State :=
        { (answers s .refused) with mgmt := { s.mgmt with infault := s.mgmt.infault + 1 } }
      let waits (w : Option Word64) : State :=
        { s with inbound := SMap.insert s.nextRemote ⟨R, s.clock, w⟩ s.inbound, nextRemote := s.nextRemote + 1 }
      (R.budget = 0 → exec (.inboundRemoteRequest R) s = .next (answers s .expired)) ∧
      (∀ e q, R.budget ≠ 0 → (e, q) ∈ s.inbound → q.req.dev = R.dev →
        exec (.inboundRemoteRequest R) s = .next (waits none)) ∧
      (R.budget ≠ 0 → (∀ e ∈ s.inbound, e.2.req.dev ≠ R.dev) →
        ((s.ctx R.ctx.toNat).live = false → exec (.inboundRemoteRequest R) s = .next (refuses s)) ∧
        ((s.ctx R.ctx.toNat).live = true → R.ctx.toNat ∉ s.fencedCtxs →
          (∀ bs s1, runM (serveRequest R) s = .ok (bs, s1) →
            exec (.inboundRemoteRequest R) s = .next (answers s1 (.performed bs))) ∧
          (∀ cause a, runM (serveRequest R) s = .error (.trap cause a) →
            exec (.inboundRemoteRequest R) s = .next (refuses s)) ∧
          (∀ a bit, runM (serveRequest R) s = .error (.page a bit) →
            (∀ s1 n, s.recordFault R.ctx.toNat a (opBit R.op) = some (s1, n) →
              exec (.inboundRemoteRequest R) s = .next (refuses s1)) ∧
            (s.recordFault R.ctx.toNat a (opBit R.op) = none →
              exec (.inboundRemoteRequest R) s = .next (waits (some a)))) ∧
          (runM (serveRequest R) s = .error .retry → exec (.inboundRemoteRequest R) s = .next (waits none))))) ∧
    (p < 18 →
      let f (P : Port) : State := { s with ports := SMap.insert p P s.ports }
      let P := SMap.getD s.ports p .fresh
      exec (.linkPause p) s = .next (f { P with paused := true }) ∧
      exec (.linkRetransmission p) s = .next s ∧
      ((∀ e ∈ s.remotes, e.2.port = p → e.2.sent = true) →
        exec (.linkResume p) s = .next (f { P with paused := false }) ∧
        exec (.portFailure p) s = .next (f { P with failed := true })) ∧
      (s.remotes = [(id, r)] → r.port = p → r.sent = false →
        let held := (s.clock - r.since + 63) / 64
        held < r.budget.toNat →
          let r' : Remote := { r with sent := true, budget := r.budget - BitVec.ofNat 24 held }
          exec (.linkResume p) s = .next { (f { P with paused := false }) with remotes := [(id, r')] }))

/-- R316–R322: the host's doorbell write publishes a collective queue; a chunk is moved in its turn: this device's
part of the send buffer is read, the members' elements are reduced one after another, with one rounding to the type,
or put together, and what results is written unless a non-finite value may yet skip it, which every contribution and
every value formed can mark; a member that failed, also after the last chunk, or a buffer that cannot be reached,
fails it, once its fault has its record; its completion word says success, skipped or failed, and bit 8 a non-finite
value. The model's choices it rests on: log entries 25, 28, 33, 40 and 45. -/
def Obligations.Collectives : Prop :=
  ∀ (s : State) (id q : Nat) (v : BitVec 32) (x : Collective) (ps : List PeerContribution),
    let c := Coll.of x.desc
    (s.mgmt.ready = true → q < 16 →
      exec (.collectiveDoorbell q v) s =
        .next (s.writePhys (s.mgmt.doorbase.toNat + 8 * (64 + q)) (leBytes 8 v.toNat) 0).takePublished) ∧
    (SMap.find? id s.collectives = some x →
      (∀ e ∈ s.collectives, Collective.ahead e (id, x) = true → (s.chunkNow e.1 []).isSome = true →
        exec (.collectiveChunk id ps) s = .next s) ∧
      ((∀ e ∈ s.collectives, Collective.ahead e (id, x) = true → s.chunkNow e.1 [] = none) →
        ∀ m, c.member? s.mgmt.devid.toNat = some m → x.failed = false →
          (∀ p, p ∈ ps → p.failed = true → exec (.collectiveChunk id ps) s = .next (s.failCollective id)) ∧
          (x.chunk < c.chunks → (∀ p ∈ ps, p.failed = false) → ∀ a, x.wants = some a →
            exec (.collectiveChunk id ps) s =
              .next (((s.recordFault x.ctx a accEngine).map fun r => r.1.failCollective id).getD s)) ∧
          (x.chunk < c.chunks → (∀ p ∈ ps, p.failed = false) → x.wants = none →
            (∀ a bit, runM (chunkStep id x c m ps) s = .error (.page a bit) →
              exec (.collectiveChunk id ps) s = .next (match s.recordFault x.ctx a accEngine with
                | some r => r.1.failCollective id
                | none => { s with collectives := SMap.insert id { x with wants := some a } s.collectives })) ∧
            (∀ cause a, runM (chunkStep id x c m ps) s = .error (.trap cause a) →
              exec (.collectiveChunk id ps) s = .next (s.failCollective id)) ∧
            ∀ xs,
              let lo := x.chunk * 65536
              let n := min 65536 (c.total - lo)
              let at_ (o : Nat × Nat) : List Byte := s.spanBytes x.ctx (c.send + o.1) o.2
              let res := c.result lo n xs
              let wild (bs : List Byte) : Prop := ∃ i < n / c.e, c.wild (c.load bs i) = true
              HeapSpan s x.ctx (c.send + (c.ownRun m lo n).1) (c.ownRun m lo n).2 →
              (∀ o ∈ c.otherRuns m lo n, HeapSpan s x.ctx (c.send + o.1) o.2) →
              c.contributions m (at_ (c.ownRun m lo n)) ps = some xs →
              (c.skips = false → PlainSpan s x.ctx (c.recv + lo) res.1.length) →
              let out := if c.skips then x.out ++ res.1 else []
              let x' (marked : Bool) : Collective := { x with chunk := x.chunk + 1, nonfinite := marked, out := out }
              ∃ marked, exec (.collectiveChunk id ps) s = .next { s with
                  mem := if c.skips then s.mem else s.spanWrite x.ctx (c.recv + lo) res.1,
                  collectives := SMap.insert id (x' marked) s.collectives } ∧
                (marked = true ↔ x.nonfinite = true ∨ res.2 = true ∨ (∃ o ∈ c.otherRuns m lo n, wild (at_ o)) ∨
                  (c.type ≠ 3 ∧ ∃ p ∈ ps, p.nonfinite = true))))) ∧
    (∀ lo n y ys, c.op < 2 →
      let partial_ (k i : Nat) : Word := (ys.take k).foldl (fun w z => c.combine w (c.load z.2 i)) (c.load y.2 i)
      let res := c.result lo n (y :: ys)
      res.1 = ((List.range (n / c.e)).flatMap fun i => c.store (partial_ ys.length i)) ∧
      (res.2 = true ↔ ∃ i < n / c.e, (∃ z ∈ y :: ys, c.wild (c.load z.2 i) = true) ∨
        (∃ k ≤ ys.length, c.wild (partial_ k i) = true) ∨ c.wild (c.load res.1 i) = true)) ∧
    (∀ lo n xs bs, c.op = 3 → xs.find? (fun y => y.1 == c.root) = some (c.root, bs) → bs.length = n →
      (c.result lo n xs).1 = bs) ∧
    (∀ lo n xs, c.op = 2 → (c.result lo n xs).1 = (List.range c.size).flatMap fun k =>
      padTo (c.gatherRun lo n k).2 (((xs.find? fun y => y.1 == k).map (·.2)).getD [])) ∧
    (c.type = 3 → ∀ w, c.wild w = false) ∧
    (let word (s : State) (status : Nat) : State :=
       s.writeCompletion x.ctx 0 6 c.done (status + if x.nonfinite then 256 else 0)
     let s0 : State := { s with collectives := SMap.erase id s.collectives }
     SMap.find? id s.collectives = some x →
      (x.failed = true → exec (.collectiveComplete id) s = .next (word s0 4)) ∧
      (x.failed = false → c.chunks ≤ x.chunk →
        (c.skips = false → exec (.collectiveComplete id) s = .next (word s0 1)) ∧
        (c.skips = true → x.nonfinite = true → exec (.collectiveComplete id) s = .next (word s0 2)) ∧
        (c.skips = true → x.nonfinite = false → x.wants = none → PlainSpan s x.ctx c.recv x.out.length →
          exec (.collectiveComplete id) s = .next (word { s0 with mem := s.spanWrite x.ctx c.recv x.out } 1)) ∧
        (c.skips = true → x.nonfinite = false → ∀ a, x.wants = some a →
          (∀ r, s0.recordFault x.ctx a accEngine = some r → exec (.collectiveComplete id) s = .next (word r.1 4)))) ∧
      (x.failed = false → x.chunk < c.chunks → exec (.collectiveComplete id) s = .next s))

/-- R328, R329 and R345: a copy descriptor of the host moves bytes to or from memory and completes, one that breaks
its table completes with an error; an access through BAR4 reads and writes memory at the aperture, and before ready
reads zero and writes nothing; a PCI Express link that fails changes nothing else. The model's choices it rests on:
log entries 28 and 48. -/
def Obligations.HostAccesses : Prop :=
  ∀ (s : State) (D : HostDescriptor) (off n : Nat) (bs : List Byte) (b : Bool),
    let pa := fieldN D.raw 8 8
    let m := fieldN D.raw 16 4
    (s.mgmt.ready = true → m ≠ 0 → s.spanOk pa m = true → fieldN D.raw 20 1 = 0 → fieldN D.raw 21 11 = 0 →
      exec (.hostCopyDescriptor D) s = .next (({ s with hostCompletions := s.hostCompletions ++ [true] } : State).writePhys
        pa ((List.range m).map fun i => D.hostBytes.getD i 0) 0)) ∧
    (s.mgmt.ready = true → m ≠ 0 → s.spanOk pa m = true → fieldN D.raw 20 1 = 1 → fieldN D.raw 21 11 = 0 →
      s.badMem = [] →
      exec (.hostCopyDescriptor D) s = .next { s with hostCompletions := s.hostCompletions ++ [true],
                                                      hostReads := s.hostReads ++ readBytes s.mem pa m }) ∧
    (s.mgmt.ready = true → m = 0 ∨ 1 < fieldN D.raw 20 1 ∨ fieldN D.raw 21 11 ≠ 0 ∨ s.spanOk pa m = false →
      exec (.hostCopyDescriptor D) s = .next { s with hostCompletions := s.hostCompletions ++ [false] }) ∧
    (let va := s.mgmt.aperture.toNat + off % 2 ^ 36
     s.mgmt.ready = true → s.spanOk va bs.length = true →
      exec (.hostApertureAccess (.write off bs)) s = .next (s.writePhys va bs 0)) ∧
    (let va := s.mgmt.aperture.toNat + off % 2 ^ 36
     s.mgmt.ready = true → (∀ i < n, s.physOk (va + i) = true) →
      exec (.hostApertureAccess (.read off n)) s =
        .next { s with hostReads := s.hostReads ++ (List.range n).map fun i => readByte s.mem (va + i) }) ∧
    (s.mgmt.ready = false →
      exec (.hostApertureAccess (.read off n)) s =
        .next { s with hostReads := s.hostReads ++ (List.range n).map fun _ => 0 } ∧
      exec (.hostApertureAccess (.write off bs)) s = .next s ∧ exec (.hostCopyDescriptor D) s = .next s) ∧
    exec (.hostLinkFailure b) s =
      .next { s with pcieFailed := s.pcieFailed.set (if b then 1 else 0) true }

/-! ### Management -/

/-- R238, R242, R251, R347 and R348: an alerted bank is held until its refresh management completes, at most for 512
clocks, and then what waited for it is tried again; a corrected error of a row that the filter knows is counted and
any other is logged; above the power limit a core forms only the bundles the estimate leaves it; above 95 °C a die is
throttled, and above 105 °C it is throttled too, every context is killed and MSI-X vector 0 sent. The model's choices
it rests on: log entries 37, 60 and 81. -/
def Obligations.Conditions : Prop :=
  ∀ (s : State) (k b : Nat) (e : BitVec 3) (rho : BitVec 32) (w x : Nat) (ks : BitVec 3) (temp : BitVec 8),
    let others := s.heldBanks.filter fun h => !(h.1 == k && h.2.1 == b)
    exec (.rowActivationAlert k b) s = .next { s with heldBanks := others ++ [(k, b, s.clock)] } ∧
    exec (.refreshManagementComplete k b) s = .next ({ s with heldBanks := others } : State).serveInbound ∧
    (s.inbound = [] → exec (.refreshManagementComplete k b) s = .next { s with heldBanks := others }) ∧
    (∀ pa va n kind, s.bankHeld ⟨va, n, .phys pa, kind⟩ = true ↔ pa < hbmEnd ∧
      ∃ t, (pa / 4096 % 8, Config.bankAt pa, t) ∈ s.heldBanks ∧ s.clock < t + 512) ∧
    ((∀ h ∈ s.freeBanks.heldBanks, s.clock < h.2.2 + 512)) ∧
    ((∀ i ∈ lindenBits rho, i ∈ SMap.getD s.mgmt.linden e.toNat []) → s.mgmt.cerepeat ≠ 0xFFFFFFFF →
      exec (.correctedError e rho) s = .next { s with mgmt := { s.mgmt with cerepeat := s.mgmt.cerepeat + 1 } }) ∧
    ((∃ i ∈ lindenBits rho, i ∉ SMap.getD s.mgmt.linden e.toNat []) →
      ∃ s', exec (.correctedError e rho) s = .next s' ∧ s'.mgmt.celogcnt = s.mgmt.celogcnt + 1 ∧
        s'.mgmt.cerepeat = s.mgmt.cerepeat ∧
        ∀ i, i ∈ SMap.getD s'.mgmt.linden e.toNat [] ↔ i ∈ SMap.getD s.mgmt.linden e.toNat [] ∨ i ∈ lindenBits rho) ∧
    (max 300 (min 1500 s.mgmt.powerlim.toNat) < w →
      exec (.powerEstimate w [ks]) s = .next (s.setCore 0 { s.core 0 with k := max 1 (min 4 ks.toNat) })) ∧
    (w ≤ max 300 (min 1500 s.mgmt.powerlim.toNat) →
      exec (.powerEstimate w [ks]) s = .next { s with cores := s.cores.map fun e => (e.1, { e.2 with k := 4 }) }) ∧
    (x < 5 → 95 < temp.toNat → temp.toNat ≤ 105 → ∃ s', exec (.temperatureThrottle x temp) s = .next s' ∧
      x ∈ s'.mgmt.hot ∧ SMap.getD s'.mgmt.dietemp x 0 = temp ∧ ∀ y, y / 192 = x → s'.bundles y = 1) ∧
    (x < 5 → temp.toNat ≤ 95 → ∃ s', exec (.temperatureThrottleEnd x temp) s = .next s' ∧ x ∉ s'.mgmt.hot) ∧
    (x < 5 → 105 < temp.toNat → SMap.sorted s.ctxs = true → (∀ L ∈ s.launches, L.2.complete = true) →
      s.collectives = [] →
      ∃ s', exec (.thermalTrip x temp) s = .next s' ∧ exec (.temperatureThrottle x temp) s = .next s' ∧
        s'.mgmt.thermalHalt = true ∧ x ∈ s'.mgmt.hot ∧ SMap.getD s'.mgmt.dietemp x 0 = temp ∧ s'.msix = s.msix ++ [0] ∧
        ∀ y, (s'.ctx y).live = false)

/-- R225, R270, R333, R336, R345, R346 and R349: attestation takes a leaf and what is to be signed, and then signs;
with every leaf used, or before ready, it does nothing; the write-only registers clear, retire and route; CTXCTL makes
a context or configures one, whose privilege it leaves (R225); the translation store drops what no resident team uses,
but that what a launch still has to run stays with it outside the store is the model's choice (log entry 27); each
management register takes the bits it has, a read-only one takes none and a write-only one reads zero; and a reset
leaves what boot leaves, or fails when its firmware image is refused. The model's choices it rests on: log entries 3,
13, 27, 43, 46, 48 and 80. -/
def Obligations.Management : Prop :=
  ∀ (s : State) (v : BitVec 32) (u z : BitVec 64) (x : BitVec 12),
    let quote : Quote := ⟨s.attest.nonce, s.deviceHash, s.firmware.digest, s.mgmt.devid, s.attest.leaf⟩
    let attests (i : Instr) : Prop :=
      (s.mgmt.ready = true → s.attest.busy = false → s.attest.leaf < 2 ^ 20 → exec i s = .next { s with
        attest := { s.attest with busy := true, done := false, leaf := s.attest.leaf + 1, quote := quote } }) ∧
      (s.mgmt.ready = false ∨ s.attest.busy = true ∨ 2 ^ 20 ≤ s.attest.leaf → exec i s = .next s)
    let writes (off : BitVec 16) (s' : State) : Prop := exec (.managementRegisterWrite off u) s = .next s'
    let sets (f : Mgmt → Mgmt) : State := { s with mgmt := f s.mgmt }
    attests .attestation ∧ (u.getLsbD 0 = true → attests (.managementRegisterWrite 0x120 u)) ∧
    (s.attest.busy = false → 2 ^ 20 ≤ s.attest.leaf → (s.mgmtRead 0x128).extractLsb' 0 2 = 3) ∧
    (s.attest.busy = true → ∃ sig, exec .attestationComplete s =
      .next { s with attest := { s.attest with busy := false, done := true, sig := sig } } ∧
        ∀ i < 4096, SMap.getD sig i 0 =
        Config.signatureByte s.attest.quote.nonce s.attest.quote.hash s.attest.quote.digest s.attest.quote.devid
          s.attest.quote.leaf i) ∧
    (v.getLsbD 0 = true →
      exec (.lindenClear v) s = .next { s with mgmt := { s.mgmt with linden := [], cerepeat := 0 } }) ∧
    (v.getLsbD 0 = false → exec (.lindenClear v) s = .next s) ∧
    (let y := (v.extractLsb' 0 10).toNat
     let b := (v.extractLsb' 10 5).toNat
     (y < 768 → SMap.find? (b / 4) (s.core y).retired = none →
       (∀ a ∈ (s.core y).toRetire ++ (s.core y).asked, a / 4 ≠ b / 4) →
       exec (.spretire v) s = .next (s.setCore y ((s.core y).askRetire b))) ∧
     ((SMap.find? (b / 4) (s.core y).retired).isSome = true → exec (.spretire v) s = .next s)) ∧
    ((u.extractLsb' 17 5).toNat ≤ 17 →
      exec (.route u) s = .next { s with mgmt := { s.mgmt with
        routes := SMap.insert (u.extractLsb' 0 17).toNat (u.extractLsb' 17 5, u.extractLsb' 22 8) s.mgmt.routes } }) ∧
    (u.getLsbD 0 = true → ∃ s', exec (.ctxctl x u) s = .next s' ∧ (s'.ctx x.toNat).live = true ∧
      (s'.ctx x.toNat).privileged = (if (s.ctx x.toNat).live then (s.ctx x.toNat).privileged else u.getLsbD 1) ∧
      (s'.ctx x.toNat).vector = u.extractLsb' 2 11 ∧ s'.mgmt.contextMade = true) ∧
    (u.getLsbD 0 = false → (s.ctx x.toNat).live = true → exec (.ctxctl x u) s = .next s) ∧
    (u.getLsbD 0 = false → (s.ctx x.toNat).live = false → ∃ s', exec (.ctxctl x u) s = .next s' ∧
      (s'.ctx x.toNat).live = false ∧ (s'.ctx x.toNat).privileged = u.getLsbD 1 ∧
      (s'.ctx x.toNat).vector = u.extractLsb' 2 11) ∧
    (let b := u &&& 0x00007FFFFFFF0000
     s.mgmt.xstbase ≠ b → SMap.sorted s.xlats = true →
      exec (.translationStoreConfig u z) s = .next { s with
        mgmt := { s.mgmt with xstbase := b, xstsize := z.setWidth 16 },
        xlats := s.xlats.filterMap fun e =>
          if s.xlatInUse e.1 then some e
          else if s.xlatNeeded e.1 then some (e.1, { e.2 with stored := false }) else none }) ∧
    writes 0x050 (sets fun m => { m with ramthresh := u.setWidth 16 }) ∧
    writes 0x058 (sets fun m => { m with smin := u.setWidth 32 }) ∧
    writes 0x060 (sets fun m => { m with rbudget := u.setWidth 24 }) ∧
    writes 0x068 (sets fun m => { m with doorbase := u &&& 0x00007FFFFFFFFC00 }) ∧
    writes 0x070 (sets fun m => { m with aperture := u &&& 0x00007FF000000000 }) ∧
    writes 0x088 (sets fun m => { m with powerlim := u.setWidth 16 }) ∧
    writes 0x0A8 (sets fun m => { m with celog := u &&& 0x00007FFFFFFF0000 }) ∧
    (s.mgmt.contextMade = true → writes 0x008 s) ∧
    (s.mgmt.contextMade = false → writes 0x008 (sets fun m => { m with devid := u.setWidth 17 })) ∧
    ((∀ e ∈ s.teams, e.2.status ≠ .resident ∧ e.2.status ≠ .resting) →
      writes 0x048 (sets fun m => { m with porch := u.setWidth 4 })) ∧
    (∀ e ∈ s.teams, e.2.status = .resident → writes 0x048 s) ∧
    (∀ k < 4, ∃ n, writes (BitVec.ofNat 16 (0x100 + 8 * k)) { s with attest := { s.attest with nonce := n } } ∧
      n.extractLsb' (64 * k) 64 = u ∧
      ∀ j < 4, j ≠ k → n.extractLsb' (64 * j) 64 = s.attest.nonce.extractLsb' (64 * j) 64) ∧
    (∀ q < 64, writes (BitVec.ofNat 16 (0x1200 + 16 * q)) (s.modSq q fun Q => { Q with base := u &&& 0x00007FFFFFFFFFF8 }) ∧
      writes (BitVec.ofNat 16 (0x1208 + 16 * q)) (s.modSq q fun Q => { Q with cfg := u &&& 0x1FFFF })) ∧
    (∀ q < 16, writes (BitVec.ofNat 16 (0x1600 + 16 * q)) (s.modCq q fun Q => { Q with base := u &&& 0x00007FFFFFFFFFF8 }) ∧
      writes (BitVec.ofNat 16 (0x1608 + 16 * q)) (s.modCq q fun Q => { Q with cfg := u &&& 0x1FFFF })) ∧
    (∀ off ∈ [0x000, 0x010, 0x018, 0x020, 0x028, 0x030, 0x038, 0x040, 0x090, 0x0A0, 0x0B0, 0x0B8, 0x0C8, 0x128],
      writes off s) ∧
    (∀ off : BitVec 16, 0x200 ≤ off.toNat → off.toNat < 0x1200 → writes off s) ∧
    (∀ off ∈ [0x098, 0x0C0, 0x0D0, 0x120], s.mgmtRead off = 0) ∧
    (s.firmware.fault = none →
      ∃ s', exec (.resetBoot none) s = .next s' ∧ s'.mgmt.ready = true ∧ s'.ctxs = [] ∧ s'.teams = [] ∧
        s'.launches = [] ∧
        s'.mgmt.thermalHalt = s.mgmt.trips ∧ s'.msix = s.msix ++ (if s.mgmt.trips then [0] else []) ∧
        ∀ a < hbmEnd, readByte s'.mem a = readByte s.mem a) ∧
    ∀ n, n ≠ none ∨ s.firmware.signed = false ∨ s.firmware.key ≠ s.firmware.fusedKey ∨
        s.firmware.version < s.firmware.fusedVersion →
      ∃ s', exec (.resetBoot n) s = .next s' ∧ s'.mgmt.ready = false ∧ s'.mgmt.bootFailed = true

/-! ### The whole machine -/

/-- R8, R56, R57 and R285: when a thread alone, or a front thread, moves next and the code at its PC holds instruction
i, a step is that issue of i, in the state with the agenda's entry taken and the word of the issue noted, and then the
end of the clock: what the device does of itself, which is nothing while no bank is held or to be retired and no
collective is published, and then the paths' ages and CLOCK advance, and no issue is in progress. R56, R57, R243–R245,
R338 and R340: code is fetched as halfwords: a clear bit 0 makes a compact instruction of two bytes, a set one a word
of four. A halfword outside a translation lies where the page tables of the team's context put its page, which must
allow execution; in a translation's code region a segment's word, or its successor, is fetched from the translation,
whose layout, with what stands for a STAGE in it, is the model's choice where R340 leaves it open (log entry 12). The
model's choices it rests on: log entries 6, 7 and 12. -/
def Obligations.StepRunsTheDecodedInstruction : Prop :=
  (∀ (s : State) (k t : Nat) (as : List Turn) (T : Team) (i : Instr) (w : Word) (n : Nat) (s1 : State),
    s.team? k = some T → T.status = .resident → T.dying = false →
    (∀ h, s.agenda = .bundle k [t] :: as → T.thread? t = some h → h.ready = true →
      let s0 := ({ s with agenda := as } : State).modTeam k (·.issued [t])
      fetchAt k h.pc s0 = .ok ((w, n, some i), s1) →
      step s = finishTurn (some (.bundle k [t])) (exec i { s1 with cur := some ⟨k, [t], false, w, n⟩ })) ∧
    (∀ f, s.agenda = .front k :: as → T.front = some f → f.ready = true →
      fetchAt k f.pc { s with agenda := as } = .ok ((w, n, some i), s1) →
      step s = finishTurn (some (.front k)) (exec i { s1 with cur := some ⟨k, [], true, w, n⟩ })) ∧
    (∀ tn s', finishTurn tn (.next s') = .next (s'.served tn).settle.tick ∧ (s'.served tn).mem = s'.mem ∧
      (s'.served tn).clock = s'.clock) ∧
    (∀ u : State, u.tick.clock = u.clock + 1 ∧ u.tick.cur = none ∧ u.tick.mem = u.mem) ∧
    (∀ u : State, u.heldBanks = [] → (∀ e ∈ u.cqs, e.2.head = e.2.tail) →
      (∀ e ∈ u.cores, e.2.asked = [] ∧ e.2.toRetire = [] ∧ e.2.parityBad = []) → u.settle = u)) ∧
  (∀ (s : State) (k : Nat) (T : Team) (pc : Word64) (w : Word) (i : Instr), s.team? k = some T →
    (∀ s1 s2, fetchHalf k pc s = .ok (w.extractLsb' 0 16, s1) → w.getLsbD 0 = true → s1.xlatOf T = none →
      fetchHalf k (pc + 2) s1 = .ok (w.extractLsb' 16 16, s2) →
      decode32 w = some i → fetchAt k pc s = .ok ((w, 4, some i), s2)) ∧
    (∀ hw s1, fetchHalf k pc s = .ok (hw, s1) → hw.getLsbD 0 = false → s1.xlatOf T = none → decode16 hw = some i →
      fetchAt k pc s = .ok ((hw.setWidth 32, 2, some i), s1)) ∧
    (let x := s.ctx T.ctx
     ∀ e large p pa, s.xlatOf T = none → x.heldHeap = [] → x.heldPtbase = [] → x.heap.hl = 0 →
      canonical pc.toNat = true → pc.toNat % 2 = 0 → s.cached T.ctx pc.toNat = none →
      s.walk x.ptbase pc.toNat = .page e large →
        usePage s x.privileged ⟨false, false, true⟩ pc.toNat 2 e large = some p →
      p.target = .phys pa → s.badMem = [] → s.fetched = [] →
      ∃ s', fetchHalf k pc s = .ok (halfOf (s.teamByte k pa) (s.teamByte k (pa + 1)), s') ∧ s'.mem = s.mem ∧
        s'.teams = s.teams) ∧
    ∀ x n j p, s.xlatOf T = some x → x.at? pc = some (n, j, p) → (pc - x.base).getLsbD 1 = false →
      (j ≠ (x.seg n).2 → fetchAt k pc s = .ok ((x.native n j p pc, 4, x.instr n j p pc), s) ∧
        (x.stage? n j = none → x.native n j p pc = x.word n j)) ∧
      (j = (x.seg n).2 → fetchAt k pc s = .ok ((x.word n j, 4, (decodeSucc (x.succWords n)).map (·.1)), s)))

/-- R56 and R59–R74: decoding the halfwords of any well-formed instruction of the instruction set gives it back, with
all of its operands, whatever follows it. R338: decoding the words of any successor with its extension words gives it
back, whatever follows it. The model's choices it rests on: log entry 14. -/
def Obligations.DecodingInvertsEncoding : Prop :=
  (∀ (i : Instr) (rest : List Half), i.wf = true → isStep i = false → isSucc i = false →
    decodeHalves (encode i ++ rest) = .ok (i, rest)) ∧
  (∀ (i : Instr) (rest : List Word), isSucc i = true →
    (∀ r ts, i = .succSw r ts → 1 ≤ ts.length ∧ ts.length < 2 ^ 16) →
    decodeSucc (encodeSucc i ++ rest) = some (i, rest))

/-- R62 and R59–R74: words written out from the encoding tables decode to what they stand for, and words that they
leave unassigned to nothing. The model's choices it rests on: log entry 14. -/
def Obligations.SampleWords : Prop :=
  decode32 (0#1 ++ 5#8 ++ 4#8 ++ 3#8 ++ 0x00#6 ++ 1#1) = some (.iadd 3 4 5) ∧
    decode32 (0#1 ++ 1#8 ++ 4#8 ++ 3#8 ++ 0x10#6 ++ 1#1) = some (.not 3 4) ∧
    decode32 (0#1 ++ 2#4 ++ 3#4 ++ 4#8 ++ 3#8 ++ 0x26#6 ++ 1#1) = some (.frsq 3 4 2) ∧
    decode32 (0x1FF#9 ++ 4#8 ++ 3#8 ++ 0x11#6 ++ 1#1) = some (.iaddi 3 4 0x1FF) ∧
    decode32 (1#1 ++ 0xBEEF#16 ++ 3#8 ++ 0x16#6 ++ 1#1) = some (.movkh 3 0xBEEF) ∧
    decode32 (0#2 ++ 0x80#8 ++ 4#8 ++ 1#1 ++ 6#3 ++ 2#3 ++ 0x18#6 ++ 1#1) = some (.icmpi 2 6 true 4 0x80) ∧
    decode32 (0#5 ++ 4#8 ++ 3#8 ++ 1#1 ++ 2#3 ++ 0x19#6 ++ 1#1) = some (.sel 2 true 3 4) ∧
    decode32 (0x21020461) = some (.ld 8 4 2 4 0) ∧
    decode32 (2#2 ++ 7#3 ++ 5#4 ++ 4#8 ++ 6#8 ++ 0x34#6 ++ 1#1) = some (.atomCas 6 4 5 2) ∧
    decode32 (1#1 ++ 1#2 ++ 2#2 ++ 4#4 ++ 4#8 ++ 3#8 ++ 0x28#6 ++ 1#1) = some (.cvt 3 4 4 2 1 true) ∧
    decode32 (0x1FFFFF#21 ++ 1#1 ++ 7#3 ++ 0x3C#6 ++ 1#1) = some (.bra 7 true 0x1FFFFF) ∧
    decode32 (1#1 ++ 2#8 ++ 9#8 ++ 3#5 ++ 1#3 ++ 0x1A#6 ++ 1#1) = some (.shflUp 3 9 2 true) ∧
    decode32 (0#1 ++ 2#8 ++ 8#8 ++ 3#5 ++ 2#3 ++ 0x1B#6 ++ 1#1) = some (.voteBallot 3 8 2 false) ∧
    decode32 (0#1 ++ 0#8 ++ 5#8 ++ 5#5 ++ 0#3 ++ 0x36#6 ++ 1#1) = some (.fence 5 5) ∧
    decode32 (4#8 ++ 3#8 ++ 5#3 ++ 3#3 ++ 2#3 ++ 0x2C#6 ++ 1#1) = some (.scmp 2 3 5 3 4) ∧
    decode32 (0#12 ++ 3#2 ++ 1#2 ++ 5#3 ++ 4#3 ++ 3#3 ++ 0x2D#6 ++ 1#1) = some (.pcombOr 3 4 5 3) ∧
    decode32 (0x020183FD) = some (.yld 3 4) ∧
    decode32 (0x0000027D) = some (.land) ∧
    decode32 (0#1 ++ 0x48#8 ++ 3#8 ++ 0#5 ++ 0#3 ++ 0x3F#6 ++ 1#1) = some (.srd 3 0x48) ∧
    decode16 0x5122 = some (.iaddCompact 9 10) ∧
    decode16 0x0000 = some (.movCompact 0 0) ∧
    decode32 (0#1 ++ 5#8 ++ 4#8 ++ 3#8 ++ 0x1C#6 ++ 1#1) = none ∧
    decode32 (1#1 ++ 5#8 ++ 4#8 ++ 3#8 ++ 0x00#6 ++ 1#1) = none

/-- R152, R238, R293 and R315: whatever a step does, device memory keeps its one form, in which equal contents are
equal data. The model's choices it rests on: log entry 1. -/
def Obligations.MemoryKeepsItsForm : Prop :=
  ∀ s s' : State, s.MemOk → step s = .next s' → s'.MemOk

/-- R8 and R285: no step of the device stops: it answers a next state in every state, whatever moves next. The model's
choices it rests on: log entries 53 and 54. -/
def Obligations.EveryStepGoesOn : Prop := ∀ s : State, ∃ s', step s = .next s'

/-- R345, R349: after reset nothing runs: the device is idle and not ready, no context lives, no launch is known,
every queue is empty, the registers of R349 hold their reset values, and memory, listing nothing, is in its form (log
entries 1 and 3). R18, R19 and R302: what the creation of a group gives its threads. The model's choices it rests on:
log entries 1, 2, 3, 4, 46 and 65. -/
def Obligations.ResetAndCreation : Prop :=
  (let s := State.reset
  s.MemOk ∧ s.mgmt.ready = false ∧ (∀ x, (s.ctx x).live = false) ∧ s.teams = [] ∧ s.launches = [] ∧ s.devQueue = [] ∧
    s.mgmtRead 0x000 = 0 ∧ s.mgmtRead 0x048 = 4 ∧ s.mgmtRead 0x050 = 32768 ∧ s.mgmtRead 0x058 = 256 ∧
    s.mgmtRead 0x060 = 0x4000 ∧ s.mgmtRead 0x088 = 1500 ∧ s.cur = none) ∧
  (∀ (e : Word64) (y : Nat),
    let h := Thread.create e y
    (∀ n, h.reg n = 0) ∧ h.b = 0x80 ∧ (∀ k, h.qval k = 0) ∧ h.pc = e ∧ h.count = 0 ∧ h.tcause = 0 ∧ h.rs = [] ∧
      h.spill = 0 ∧ h.pend = [] ∧ h.wait = none ∧ h.ended = false)

/-- R20: when a group is created its s registers hold the first 60 words of the launch's argument block, zero past its
size, the block's address, low and high, and its size; s63 is zero; every group of a team the same. -/
def Obligations.GroupArguments : Prop :=
  let loaded (G : Group) (args : List Word) (addr : Word64) (size : Word) : Prop :=
    (∀ n < 60, G.sreg n = args.getD n 0) ∧ G.sreg 60 = addr.extractLsb' 0 32 ∧ G.sreg 61 = addr.extractLsb' 32 32 ∧
      G.sreg 62 = size ∧ G.sreg 63 = 0
  (∀ T producer budget lane beat, loaded (Group.create T producer budget lane beat) T.args T.argAddr T.argSize) ∧
    ∀ id L entries ix x y z args addr size g G,
      (Team.create id L entries ix x y z args addr size).group? g = some G → loaded G args addr size

/-- R5, R14 and R25: what a result equation of the form `s.after c t f` leaves unchanged: memory, every other thread's
state, the team's scratchpad, barriers, ports and queues, its groups' modes and shared registers, and every other
team. R19, R25: writing one g register leaves every other, and the b, q, ck and frame registers, as they were. -/
def Obligations.FrameOfResults : Prop :=
  (∀ (s : State) (c : Issue) (t : Nat) (f : Thread → Thread),
    let s' := s.after c t f
    (∀ a, readByte s'.mem a = readByte s.mem a) ∧ s'.stores = s.stores ∧ s'.ctxs = s.ctxs ∧ s'.launches = s.launches ∧
      s'.cores = s.cores ∧ s'.mgmt = s.mgmt ∧
      (∀ k, k ≠ c.team → s'.team? k = s.team? k) ∧
      ∀ T, s.team? c.team = some T → ∃ T', s'.team? c.team = some T' ∧ T'.sp = T.sp ∧ T'.groups = T.groups ∧
        T'.nbs = T.nbs ∧
        T'.front = T.front ∧ T'.mx = T.mx ∧ T'.rsh = T.rsh ∧ T'.copies = T.copies ∧ T'.ports = T.ports ∧
        T'.porch = T.porch ∧ (∀ j, j ≠ t → T'.thread? j = T.thread? j) ∧
        T'.thread? t = (T.thread? t).map fun h => (f h).advance c.len) ∧
  (∀ (h : Thread) (d : BitVec 8) (v : Word), SMap.sorted h.g = true →
    let h' := h.put d v
    h'.val d = v ∧ (∀ n, n ≠ d.toNat → h'.reg n = h.reg n) ∧ h'.b = h.b ∧ h'.q = h.q ∧ h'.ck = h.ck ∧ h'.pc = h.pc ∧
      h'.rs = h.rs ∧
      h'.pend = h.pend ∧ h'.tpc = h.tpc ∧ h'.tcause = h.tcause ∧ h'.taddr = h.taddr ∧ h'.tinst = h.tinst ∧
        h'.tmask = h.tmask)

/-- R155, R158 and R159: what a store leaves unchanged: STL, every byte of the scratchpad outside its own and all of
memory; ST, every byte of memory, as the team sees it, outside its own, and the scratchpad; the stored bytes read as
the data. The model's choices it rests on: log entry 9. -/
def Obligations.FrameOfStores : Prop :=
  ∀ (d a : BitVec 8) (l : BitVec 4) (size : BitVec 3) (o : BitVec 2) (s s' : State) (c : Issue) (t : Nat) (T : Team)
    (G : Group) (h : Thread) (pa : Nat), o ≠ 1 →
    let n := sizeBytes size
    (Solo s (.stl d a l size o) c t T G h → OwnLocal s T (h.val a).toNat n →
      s.rcPending c.team (T.origin (.thread t)) = false → exec (.stl d a l size o) s = .next s' →
      let x := (h.val a).toNat
      s'.mem = s.mem ∧ s'.stores = s.stores ∧ ∃ T', s'.team? c.team = some T' ∧
        (∀ y, y < x ∨ x + n ≤ y → readByte T'.sp y = readByte T.sp y) ∧
        (memWf T.sp = true → readBytes T'.sp x n = h.data d size) ∧ T'.groups = T.groups ∧ T'.nbs = T.nbs ∧
        T'.porch = T.porch) ∧
    (Solo s (.st d a l size o) c t T G h → InHeap s c.team T (h.pair a).toNat n pa →
      exec (.st d a l size o) s = .next s' →
      s'.mem = s.mem ∧ (∀ y, y < pa ∨ pa + n ≤ y → s'.teamByte c.team y = s.teamByte c.team y) ∧
        ((T.revocable = false → T.porch = []) → s'.teamBytes c.team pa n = h.data d size) ∧
        ∃ T', s'.team? c.team = some T' ∧ T'.sp = T.sp ∧ T'.groups = T.groups ∧ T'.nbs = T.nbs)

/-! ### Operands, lanes and checks -/

/-- R25, R26, R131 and R180: an instruction that writes one register with a value of others takes its stream elements,
reads its fields in order and then writes, whatever its fields name. A field names a g register; in0 or in1, for which
the thread, first in line, takes the element at the head of the ring, or waits in line while there is none or another
stands before it; out0 or out1, whose write puts an element at the tail, or waits in line while the ring is full or
what comes before it has not been pushed, or an RC store of the thread waits; or a window register: a beat's at its
distance from 1 to 3, the seed before beat 0, or the own one, which is written once and then read: an instruction that
will write it again keeps no element and no place at a port while it waits. The model's choices it rests on: log
entries 34, 73, 77 and 85. -/
def Obligations.OperandForms : Prop :=
  (∀ i as d f s c t T G h vs s0 s1 s2, laneRule i = some (as, d, f) → Sole s i c t T G h → pushesWindow T i = false →
    Wait.operandsTaken h.wait = false → takes c.team t i s = .ok ((), s0) →
    readFields ⟨c.team, .thread t⟩ as s0 = .ok (vs, s1) → wr ⟨c.team, .thread t⟩ d (f vs) s1 = .ok ((), s2) →
    exec i s = .next (s2.modThread c.team t (·.advance c.len))) ∧
  (∀ d a s c t T G h, Sole s (.mov d a) c t T G h → pushesWindow T (.mov d a) = false → G.cancelled = false →
    Wait.operandsTaken h.wait = false →
    (∀ w e, regCode a = .window w e → rd ⟨c.team, .thread t⟩ a s = .error .retry →
      (∀ q, regCode d = .outPort q → s.pushWaits ⟨c.team, .thread t⟩ q = false) →
      exec (.mov d a) s = .next (s.modThread c.team t fun h => { h with wait := some (h.wait.getD .poll) })) ∧
    (∀ p R, regCode a = .inPort p → h.latch = [] → h.ticket? p = none → T.ring? false p = some R → OwnRing s T R →
      T.line p ≠ [] ∨ T.localWord R.control.toNat = T.localWord (R.control.toNat + 4) ∨
        s.rcStoring c.team (T.origin (.thread t)) = true →
      (s.windowStops ⟨c.team, .thread t⟩ (.mov d a) = false →
        exec (.mov d a) s = .next (s.modThread c.team t fun h => T.inLine h (.port p) [p] (portWrites (.mov d a)))) ∧
      (s.windowStops ⟨c.team, .thread t⟩ (.mov d a) = true →
        exec (.mov d a) s = .next (s.markWait ⟨c.team, .thread t⟩))) ∧
    (∀ C w, T.chain = some C → regCode d = .window w 0 → h.written.getLsbD w = true →
      s.windowStops ⟨c.team, .thread t⟩ (.mov d a) = true) ∧
    (∀ p R, regCode d = .outPort p → a.toNat < 220 → T.ring? true p = some R → OwnRing s T R →
      (∃ j ∈ T.pushLine p, j < T.pushPlace h p) ∨
        R.count ≤ (T.localWord (R.control.toNat + 4) - T.localWord R.control.toNat).toNat ∨
        s.rcStoring c.team (T.origin (.thread t)) = true →
      exec (.mov d a) s = .next (s.modThread c.team t fun x => T.inLine x (.outPort p) [] [p]))) ∧
  ∀ (s : State) (k t : Nat) (T : Team) (G : Group) (h : Thread) (r : BitVec 8) (p : Bool) (v : Word) (R : Ring),
    s.team? k = some T → T.thread? t = some h → T.group? (T.groupIx t) = some G →
    let l : Lane := ⟨k, .thread t⟩
    let port (n : Nat) : BitVec 8 := BitVec.ofNat 8 (n + if p then 1 else 0)
    let head := T.localWord R.control.toNat
    let tail := T.localWord (R.control.toNat + 4)
    (r.toNat < 220 → rd l r s = .ok (h.val r, s) ∧ wr l r v s = .ok ((), s.modThread k t (·.put r v))) ∧
    (∀ ls, takeLatch p h.latch = some (v, ls) →
      rd l (port 220) s = .ok (v, s.modThread k t fun h => { h with latch := ls })) ∧
    (∀ outs, (T.inLine h (.port p) [p] outs).wait = some (.port p) ∧
      (T.inLine h (.port p) [p] outs).ticket? p = some ((h.ticket? p).getD ((T.line p).foldl max 0 + 1))) ∧
    ((T.inLine h (.outPort p) [] [p]).wait = some (.outPort p) ∧
      (T.inLine h (.outPort p) [] [p]).pushTicket? p = some ((h.pushTicket? p).getD ((T.pushLine p).foldl max 0 + 1))) ∧
    (T.line p = [] ∨ (∃ n, h.ticket? p = some n ∧ ∀ j ∈ T.line p, n ≤ j) →
      T.ring? false p = some R → OwnRing s T R → head ≠ tail → s.rcPending k (T.origin (.thread t)) = false →
      ∀ ins outs, latchPort k t p ins outs s = .ok ((), (s.writeLocal ⟨k, R.control.toNat, false⟩ (leBytes 4 (head + 1).toNat)).modThread k t
        fun h => { h with latch := h.latch ++ [(p, T.localWord (R.base.toNat + 4 * (head.toNat % R.count)))] })) ∧
    (T.ring? true p = some R → OwnRing s T R → (∀ j ∈ T.pushLine p, T.pushPlace h p ≤ j) →
      (tail - head).toNat < R.count → s.rcPending k (T.origin (.thread t)) = false →
      wr l (port 222) v s = .ok ((), (s.writeLocal ⟨k, R.base.toNat + 4 * (tail.toNat % R.count), false⟩
        (leBytes 4 v.toNat)).writeLocal ⟨k, R.control.toNat + 4, false⟩ (leBytes 4 (tail + 1).toNat))) ∧
    (T.ring? true p = some R → OwnRing s T R → R.count ≤ (tail - head).toNat → wr l (port 222) v s = .error .retry) ∧
    (T.ring? true p = some R → (∃ j ∈ T.pushLine p, j < T.pushPlace h p) → wr l (port 222) v s = .error .retry) ∧
    ∀ C b (w : BitVec 3) e, T.chain = some C → G.beat = some b → regCode r = .window w.toNat e →
      let reads (n : Nat) : Prop :=
        (∀ x, T.windowAt C b w.toNat n (T.index t) = some x → rd l r s = .ok (x, s)) ∧
        (T.windowAt C b w.toNat n (T.index t) = none → rd l r s = .error .retry)
      (e = 0 →
        (h.written.getLsbD w.toNat = false → wr l r v s = .ok ((), (s.modTeam k fun T =>
          { T with chain := some (C.put b w.toNat (T.index t) v) }).modThread k t fun h =>
            { h with written := h.written ||| BitVec.ofNat 8 (2 ^ w.toNat) })) ∧
        (h.written.getLsbD w.toNat = true → wr l r v s = .error (.trap Cause.chainRewrite 0)) ∧
        (h.written.getLsbD w.toNat = false → 1 ≤ C.delta → reads 1) ∧
        (∀ sl, h.written.getLsbD w.toNat = true → SMap.find? (b % 4) C.slots = some sl →
          rd l r s = .ok (SMap.getD sl.vals (128 * w.toNat + T.index t) 0, s))) ∧
      (1 ≤ e → e ≤ C.delta → reads e) ∧
      (∀ n sl, n ≤ b → SMap.find? ((b - n) % 4) C.slots = some sl → sl.beat = b - n →
        128 * w.toNat + T.index t ∈ sl.present → T.windowAt C b w.toNat n (T.index t) =
          some (SMap.getD sl.vals (128 * w.toNat + T.index t) 0)) ∧
      (∀ n, b < n → b = 0 ∨ T.passed C 0 = true →
        T.windowAt C b w.toNat n (T.index t) = some (SMap.getD C.seeds (128 * w.toNat + T.index t) 0))

/-- R27, R212 and R213: in front code a field names an f register; a 32-bit value is its low half, and is written with
zeros above; a pair is one whole register; a branch goes on as in thread code. An instruction that front code may not
execute ends the team with ILLEGAL. -/
def Obligations.FrontForms : Prop :=
  ∀ (d a b : BitVec 8) (e c : BitVec 3) (sense : Bool) (o : BitVec 21) (i : BitVec 9) (k : BitVec 16),
    let low (x : Front) (r : BitVec 8) : Word := (x.reg r.toNat).setWidth 32
    let put (x : Front) (r : BitVec 8) (v : Word) : Front := x.setReg r.toNat (v.setWidth 64)
    let yes (_ : State) (_ : Team) (_ : Front) : Prop := True
    FrontDoes (.mov d a) yes (fun _ _ x => put x d (low x a)) ∧
    FrontDoes (.iadd d a b) yes (fun _ _ x => put x d (low x a + low x b)) ∧
    FrontDoes (.isub d a b) yes (fun _ _ x => put x d (low x a - low x b)) ∧
    FrontDoes (.and d a b) yes (fun _ _ x => put x d (low x a &&& low x b)) ∧
    FrontDoes (.iaddi d a i) yes (fun _ _ x => put x d (low x a + BitVec.ofInt 32 i.toInt)) ∧
    FrontDoes (.movkl d k) yes (fun _ _ x => put x d (BitVec.ofNat 32 k.toNat)) ∧
    FrontDoes (.iadd64 d a b false) yes (fun _ _ x => x.setReg d.toNat (x.reg a.toNat + x.reg b.toNat)) ∧
    FrontDoes (.sel c sense d a) (fun _ _ x => x.b.getLsbD c.toNat = sense) (fun _ _ x => put x d (low x a)) ∧
    FrontDoes (.icmp e 0 false a b) yes (fun _ _ x => { x with b := setBit x.b e (low x a == low x b) }) ∧
    FrontDoes (.bra c sense o) (fun _ _ x => x.b.getLsbD c.toNat ≠ sense) (fun _ _ x => x) ∧
    (∀ s n T x, FrontSolo s (.bra c sense o) n T x → x.b.getLsbD c.toNat = sense →
      exec (.bra c sense o) s = .next (s.modFront n.team fun x =>
        { x.advance n.len with pc := x.pc + BitVec.ofInt 64 (2 * o.toInt) })) ∧
    ∀ j s n T x, FrontSolo s j n T x → isStep j = false → j.frontOk = false →
      exec j s = .next (s.endByFault n.team .front Cause.illegal n.word x.pc 0)

/-- R8, R285 and R307: the lanes of a bundle execute in increasing lane order, each whole: for an instruction that
writes one g register, every thread of the bundle does so from its own registers and goes on. The model's choices it
rests on: log entry 17. -/
def Obligations.Bundles : Prop :=
  ∀ (i : Instr) (as : List (BitVec 8)) (d : BitVec 8) (f : List Word → Word) (s : State) (c : Issue) (T : Team),
    laneRule i = some (as, d, f) → gOnly i = true → s.cur = some c → c.front = false → c.threads.Nodup →
    s.team? c.team = some T → (T.status = .resident ∨ T.status = .resting) → T.dying = false →
    (∀ t ∈ c.threads, ∃ h G, T.thread? t = some h ∧ T.group? (T.groupIx t) = some G ∧ h.ended = false ∧
      h.count < h.limit ∧ h.pend = [] ∧ regsOk T ⟨c.team, .thread t⟩ i = true) →
    exec i s = .next (c.threads.foldl (fun s t => s.after c t fun h => h.put d (f (as.map h.val))) s)

/-- R62, R67, R75 and R122: before its effect an instruction is checked in R75's order, and the first cause is the one
that is taken: ILLEGAL in code that may not hold it, ILLEGAL_REGISTER for a field or a special register that the
thread may not name, UNIMPLEMENTED, PRIVILEGED, and LOOKAHEAD for a register that a result on its way will write. R74:
the four encodings of the segment form that a TM-940 does not implement trap UNIMPLEMENTED, whatever their registers
hold. The model's choices it rests on: log entries 44, 49 and 66. -/
def Obligations.ChecksBeforeEffects : Prop :=
  (∀ (i : Instr) (s : State) (c : Issue) (t : Nat) (T : Team) (G : Group) (h : Thread), isStep i = false →
    At s c t T G h →
    let l : Lane := ⟨c.team, .thread t⟩
    let traps (cause : BitVec 8) : Prop := exec i s = .next (s.trapped c i t cause 0 none)
    let named := i.threadOk = true ∧ regsOk T l i = true ∧ i.sregOk false = true
    (i.threadOk = false → traps Cause.illegal) ∧
    (i.threadOk = true → regsOk T l i = false ∨ i.sregOk false = false → traps Cause.illegalRegister) ∧
    (named → i.unimplemented = true → traps Cause.unimplemented) ∧
    (named → i.unimplemented = false → i.privileged = true → (s.ctx T.ctx).privileged = false →
      traps Cause.privileged) ∧
    (named → i.unimplemented = false → (i.privileged = true → (s.ctx T.ctx).privileged = true) → i.exempt = false →
      conflicts T l i h.pend = true → traps Cause.lookahead)) ∧
  (∀ d a b : BitVec 8,
    Traps (.clz64 d a) (fun _ _ _ _ => True) Cause.unimplemented (fun _ => 0) ∧
    Traps (.popc64 d a) (fun _ _ _ _ => True) Cause.unimplemented (fun _ => 0) ∧
    Traps (.idiv d a b) (fun _ _ _ _ => True) Cause.unimplemented (fun _ => 0) ∧
    Traps (.idivu d a b) (fun _ _ _ _ => True) Cause.unimplemented (fun _ => 0))
end

