-- ==== Sys2Proof/Laws/Memory.lean ====
section
/-!
SUPPORT. Sparse maps and memory: what a read gives after a write, and that every operation keeps the canonical form.
-/

namespace Sys2Proof.Machine

section maps

variable {α : Type}

@[simp] theorem SMap.find?_insert_self (k : Nat) (v : α) (m : SMap α) : SMap.find? k (SMap.insert k v m) = some v := by
  induction m with
  | nil => simp [SMap.insert, SMap.find?]
  | cons e m ih =>
    obtain ⟨j, w⟩ := e
    unfold SMap.insert
    split
    · simp [SMap.find?]
    · split
      · simp [SMap.find?]
      · next h1 h2 => simp [SMap.find?, Ne.symm h2, ih]

theorem SMap.find?_insert_other {j k : Nat} (h : j ≠ k) (v : α) (m : SMap α) :
    SMap.find? j (SMap.insert k v m) = SMap.find? j m := by
  induction m with
  | nil => simp [SMap.insert, SMap.find?, Ne.symm h]
  | cons e m ih =>
    obtain ⟨i, w⟩ := e
    unfold SMap.insert
    split
    · simp [SMap.find?, Ne.symm h]
    · split
      · next h2 => subst h2; simp [SMap.find?, Ne.symm h]
      · simp [SMap.find?, ih]

theorem SMap.find?_modify (j k : Nat) (f : α → α) (m : SMap α) :
    SMap.find? j (SMap.modify k f m) = if j = k then (SMap.find? j m).map f else SMap.find? j m := by
  induction m with
  | nil => simp [SMap.modify, SMap.find?]
  | cons e m ih =>
    obtain ⟨i, w⟩ := e
    unfold SMap.modify
    split
    · next h => subst h; by_cases h' : i = j
                · subst h'; simp [SMap.find?]
                · simp [SMap.find?, h', Ne.symm h']
    · next h => by_cases h' : i = j
                · subst h'; simp [SMap.find?, h]
                · simp [SMap.find?, h', ih]

/-- Two changes at one key are one. -/
theorem SMap.modify_modify (k : Nat) (f g : α → α) (m : SMap α) :
    SMap.modify k f (SMap.modify k g m) = SMap.modify k (fun v => f (g v)) m := by
  induction m with
  | nil => rfl
  | cons e m ih =>
    obtain ⟨i, w⟩ := e
    by_cases h : i = k <;> simp [SMap.modify, h, ih]

theorem SMap.modify_id (k : Nat) (m : SMap α) : SMap.modify k (fun v => v) m = m := by
  induction m with
  | nil => rfl
  | cons e m ih =>
    obtain ⟨i, w⟩ := e
    by_cases h : i = k <;> simp [SMap.modify, h, ih]

/-- A change that only the value at hand decides. -/
theorem SMap.modify_congr {k : Nat} {f g : α → α} {m : SMap α}
    (h : ∀ v, SMap.find? k m = some v → f v = g v) : SMap.modify k f m = SMap.modify k g m := by
  induction m with
  | nil => rfl
  | cons e m ih =>
    obtain ⟨i, w⟩ := e
    by_cases hi : i = k
    · simp only [SMap.modify, hi, if_true]; rw [h w (by simp [SMap.find?, hi])]
    · simp only [SMap.modify, hi, if_false]; rw [ih fun v hv => h v (by simpa [SMap.find?, hi] using hv)]

theorem SMap.find?_above {j k : Nat} {m : SMap α} (hm : SMap.above k m = true) (hj : j ≤ k) : SMap.find? j m = none := by
  induction m with
  | nil => rfl
  | cons e m ih =>
    obtain ⟨i, w⟩ := e
    simp only [SMap.above, Bool.and_eq_true, decide_eq_true_eq] at hm
    have : i ≠ j := by omega
    simp [SMap.find?, this, ih hm.2]

theorem SMap.above_mono {j k : Nat} {m : SMap α} (hm : SMap.above k m = true) (hj : j ≤ k) : SMap.above j m = true := by
  induction m with
  | nil => rfl
  | cons e m ih =>
    obtain ⟨i, w⟩ := e
    simp only [SMap.above, Bool.and_eq_true, decide_eq_true_eq] at hm ⊢
    exact ⟨by omega, ih hm.2⟩

theorem SMap.above_insert {j k : Nat} {v : α} {m : SMap α} (hm : SMap.above j m = true) (hk : j < k) :
    SMap.above j (SMap.insert k v m) = true := by
  induction m with
  | nil => simp [SMap.insert, SMap.above, hk]
  | cons e m ih =>
    obtain ⟨i, w⟩ := e
    simp only [SMap.above, Bool.and_eq_true, decide_eq_true_eq] at hm
    unfold SMap.insert
    split
    · simp [SMap.above, hk, hm]
    · split <;> simp [SMap.above, hk, hm, ih hm.2]

theorem SMap.above_erase {j k : Nat} {m : SMap α} (hm : SMap.above j m = true) :
    SMap.above j (SMap.erase k m) = true := by
  induction m with
  | nil => rfl
  | cons e m ih =>
    obtain ⟨i, w⟩ := e
    simp only [SMap.above, Bool.and_eq_true, decide_eq_true_eq] at hm
    unfold SMap.erase
    split <;> simp [SMap.above, hm, ih hm.2]

theorem SMap.sorted_insert (k : Nat) (v : α) {m : SMap α} (hm : SMap.sorted m = true) :
    SMap.sorted (SMap.insert k v m) = true := by
  induction m with
  | nil => rfl
  | cons e m ih =>
    obtain ⟨i, w⟩ := e
    simp only [SMap.sorted, Bool.and_eq_true] at hm
    unfold SMap.insert
    split
    · next h => simp [SMap.sorted, SMap.above, h, hm, SMap.above_mono hm.1 (Nat.le_of_lt h)]
    · split
      · next h => subst h; simp [SMap.sorted, hm]
      · simp [SMap.sorted, ih hm.2, SMap.above_insert hm.1 (by omega : i < k)]

theorem SMap.sorted_erase (k : Nat) {m : SMap α} (hm : SMap.sorted m = true) : SMap.sorted (SMap.erase k m) = true := by
  induction m with
  | nil => rfl
  | cons e m ih =>
    obtain ⟨i, w⟩ := e
    simp only [SMap.sorted, Bool.and_eq_true] at hm
    unfold SMap.erase
    split <;> simp [SMap.sorted, hm, ih hm.2, SMap.above_erase hm.1]

theorem SMap.find?_erase_self (k : Nat) {m : SMap α} (hm : SMap.sorted m = true) : SMap.find? k (SMap.erase k m) = none := by
  induction m with
  | nil => rfl
  | cons e m ih =>
    obtain ⟨i, w⟩ := e
    simp only [SMap.sorted, Bool.and_eq_true] at hm
    unfold SMap.erase
    split
    · next h => subst h; exact SMap.find?_above hm.1 (Nat.le_refl _)
    · next h => simp [SMap.find?, h, ih hm.2]

theorem SMap.find?_erase_other {j k : Nat} (h : j ≠ k) (m : SMap α) : SMap.find? j (SMap.erase k m) = SMap.find? j m := by
  induction m with
  | nil => rfl
  | cons e m ih =>
    obtain ⟨i, w⟩ := e
    unfold SMap.erase
    split
    · next h' => subst h'; simp [SMap.find?, Ne.symm h]
    · simp [SMap.find?, ih]

theorem SMap.mem_erase {k : Nat} {m : SMap α} {e : Nat × α} (he : e ∈ SMap.erase k m) : e ∈ m := by
  induction m with
  | nil => exact he
  | cons x m ih =>
    obtain ⟨i, w⟩ := x
    unfold SMap.erase at he
    split at he
    · exact List.mem_cons_of_mem _ he
    · rcases List.mem_cons.mp he with h | h
      · exact List.mem_cons.mpr (.inl h)
      · exact List.mem_cons_of_mem _ (ih h)

theorem SMap.mem_insert {k : Nat} {v : α} {m : SMap α} {e : Nat × α} (he : e ∈ SMap.insert k v m) :
    e = (k, v) ∨ e ∈ m := by
  induction m with
  | nil => simpa [SMap.insert] using he
  | cons x m ih =>
    obtain ⟨i, w⟩ := x
    unfold SMap.insert at he
    split at he
    · simpa using he
    · split at he
      · rcases List.mem_cons.mp he with h | h
        · exact .inl h
        · exact .inr (List.mem_cons_of_mem _ h)
      · rcases List.mem_cons.mp he with h | h
        · exact .inr (List.mem_cons.mpr (.inl h))
        · exact (ih h).imp id (List.mem_cons_of_mem _)

variable [DecidableEq α]

/-- A read after a write to the same key gives the value written. -/
theorem SMap.getD_put_self (k : Nat) (v d : α) {m : SMap α} (hm : SMap.sorted m = true) :
    SMap.getD (SMap.put m k v d) k d = v := by
  unfold SMap.put SMap.getD
  split
  · next h => subst h; simp [SMap.find?_erase_self k hm]
  · simp

/-- A write leaves every other key alone. -/
theorem SMap.getD_put_other {j k : Nat} (h : j ≠ k) (v d : α) (m : SMap α) :
    SMap.getD (SMap.put m k v d) j d = SMap.getD m j d := by
  unfold SMap.put SMap.getD
  split
  · rw [SMap.find?_erase_other h]
  · rw [SMap.find?_insert_other h]

/-- A write keeps the canonical form. -/
theorem SMap.canon_put (k : Nat) (v d : α) {m : SMap α} (hm : SMap.canon m d = true) :
    SMap.canon (SMap.put m k v d) d = true := by
  unfold SMap.canon at hm ⊢
  rw [Bool.and_eq_true, List.all_eq_true] at hm ⊢
  unfold SMap.put
  split
  · exact ⟨SMap.sorted_erase k hm.1, fun e he => hm.2 e (SMap.mem_erase he)⟩
  · next h =>
    refine ⟨SMap.sorted_insert k v hm.1, fun e he => ?_⟩
    rcases SMap.mem_insert he with h' | h'
    · subst h'; simpa using h
    · exact hm.2 e h'

end maps

/-! ### Memory -/

theorem memWf_sorted {m : List Host.Cell} (hm : memWf m = true) : SMap.sorted m = true := by
  unfold memWf SMap.canon at hm
  exact (Bool.and_eq_true _ _ ▸ hm).1

@[simp] theorem memWf_nil : memWf [] = true := rfl

theorem memWf_writeByte {m : List Host.Cell} (hm : memWf m = true) (a : Nat) (b : Byte) :
    memWf (writeByte m a b) = true := SMap.canon_put a b unlisted hm

theorem memWf_writeBytes {m : List Host.Cell} (hm : memWf m = true) (a : Nat) (bs : List Byte) :
    memWf (writeBytes m a bs) = true := by
  induction bs generalizing m a with
  | nil => exact hm
  | cons b bs ih => exact ih (memWf_writeByte hm a b) (a + 1)

theorem memWf_writeBytesBut (bar : Nat → Bool) {m : List Host.Cell} (hm : memWf m = true) (a : Nat) (bs : List Byte) :
    memWf (writeBytesBut bar m a bs) = true := by
  induction bs generalizing m a with
  | nil => exact hm
  | cons b bs ih =>
    unfold writeBytesBut
    split
    · exact ih hm (a + 1)
    · exact ih (memWf_writeByte hm a b) (a + 1)

/-- A byte that a write did not reach reads as before. -/
theorem readByte_writeByte_other {m : List Host.Cell} {a c : Nat} (h : c ≠ a) (b : Byte) :
    readByte (writeByte m a b) c = readByte m c := SMap.getD_put_other h b unlisted m

theorem readByte_writeByte_self {m : List Host.Cell} (hm : memWf m = true) (a : Nat) (b : Byte) :
    readByte (writeByte m a b) a = b := SMap.getD_put_self a b unlisted (memWf_sorted hm)

theorem readByte_writeBytes_outside {m : List Host.Cell} {a c : Nat} (bs : List Byte) (h : c < a ∨ a + bs.length ≤ c) :
    readByte (writeBytes m a bs) c = readByte m c := by
  induction bs generalizing m a with
  | nil => rfl
  | cons b bs ih =>
    simp only [List.length_cons] at h
    rw [writeBytes, ih (by omega), readByte_writeByte_other (by omega)]

theorem readByte_writeBytes_inside {m : List Host.Cell} (hm : memWf m = true) (a : Nat) (bs : List Byte) (i : Nat)
    (hi : i < bs.length) : readByte (writeBytes m a bs) (a + i) = bs[i] := by
  induction bs generalizing m a i with
  | nil => exact absurd hi (Nat.not_lt_zero i)
  | cons b bs ih =>
    cases i with
    | zero =>
      simp only [writeBytes, Nat.add_zero, List.getElem_cons_zero]
      rw [readByte_writeBytes_outside bs (.inl (Nat.lt_succ_self a)), readByte_writeByte_self hm]
    | succ i =>
      rw [writeBytes, show a + (i + 1) = (a + 1) + i by omega,
        ih (memWf_writeByte hm a b) (a + 1) i (by simpa using hi), List.getElem_cons_succ]

theorem length_readBytes (m : List Host.Cell) (a n : Nat) : (readBytes m a n).length = n := by
  induction n generalizing a with
  | zero => rfl
  | succ n ih => simp [readBytes, ih]

theorem length_leBytes (n v : Nat) : (leBytes n v).length = n := by
  induction n generalizing v with
  | zero => rfl
  | succ n ih => simp [leBytes, ih]

/-- The bytes of a number, read as a number again. -/
theorem leNat_leBytes (n v : Nat) : leNat (leBytes n v) = v % 256 ^ n := by
  induction n generalizing v with
  | zero => simp [leBytes, leNat, Nat.mod_one]
  | succ n ih =>
    rw [leBytes, leNat, ih, BitVec.toNat_ofNat, show 256 ^ (n + 1) = 256 * 256 ^ n from Nat.pow_succ', Nat.mod_mul]

/-! ### Operations that write memory -/

theorem State.doorbell_mem (s : State) (w : Nat) (v : Word) (p : BitVec 8) : (s.doorbell w v p).mem = s.mem := by
  unfold State.doorbell
  split
  · rfl
  · split
    · rfl
    · split <;> rfl

theorem foldl_doorbell_mem (s : State) (ws : List Nat) (f : State → Nat → Word) (p : BitVec 8) :
    (ws.foldl (fun s w => s.doorbell w (f s w) p) s).mem = s.mem := by
  induction ws generalizing s with
  | nil => rfl
  | cons w ws ih => rw [List.foldl_cons, ih, State.doorbell_mem]

theorem State.discardXlat_mem (s : State) (k : Nat) : (s.discardXlat k).mem = s.mem := by
  unfold State.discardXlat; split <;> rfl

theorem State.dropXlats_mem (s : State) : s.dropXlats.mem = s.mem := by
  unfold State.dropXlats
  generalize s.xlats.filter _ = l
  induction l generalizing s with
  | nil => rfl
  | cons x l ih => rw [List.foldl_cons, ih, State.discardXlat_mem]

theorem State.setStore_mem (s : State) (b z : Word64) : (s.setStore b z).mem = s.mem := by
  unfold State.setStore
  dsimp only
  split
  · rfl
  · rw [State.dropXlats_mem]; rfl

theorem State.ctxWrite_mem (s : State) (x : Nat) (v : Word64) : (s.ctxWrite x v).mem = s.mem := by
  unfold State.ctxWrite
  dsimp only
  split
  · rfl
  · split <;> rfl

/-- A write to a management register leaves HBM and the loft as they are. -/
theorem State.mgmtWrite_mem (s : State) (off : Nat) (v : Word64) : (s.mgmtWrite off v).mem = s.mem := by
  unfold State.mgmtWrite State.retireBank State.setRoute State.clearLinden State.attestNow
  split
  · rfl
  · split <;> (try exact State.setStore_mem ..) <;> (try rfl) <;> 
      (try (first | (split <;> rfl) | (dsimp only; repeat' split) <;> rfl))
    split
    · rfl
    · split
      · rfl
      · split
        · rfl
        · split
          · exact State.ctxWrite_mem ..
          · rfl

theorem State.writeRegisters_mem (s : State) (off : Nat) (bs : List Byte) : (s.writeRegisters off bs).mem = s.mem := by
  unfold State.writeRegisters
  generalize List.range ((off + bs.length + 7) / 8 - off / 8) = l
  induction l generalizing s with
  | nil => rfl
  | cons i l ih => rw [List.foldl_cons, ih, State.mgmtWrite_mem]

theorem memWf_writePhys {s : State} (hs : memWf s.mem = true) (pa : Nat) (bs : List Byte) (p : BitVec 8) :
    memWf (s.writePhys pa bs p).mem = true := by
  unfold State.writePhys
  dsimp only
  split
  · rwa [State.writeRegisters_mem]
  · split
    · exact memWf_writeBytes hs pa bs
    · rw [foldl_doorbell_mem _ _ (fun s w => BitVec.ofNat 32 (leNat (readBytes s.mem (_ + 8 * w) 4)))]
      exact memWf_writeBytesBut _ hs pa bs

theorem memWf_takeRecord {s : State} (hs : memWf s.mem = true) (c i addr bm type : Nat) (acc : BitVec 8)
    (d : List Byte) : memWf (s.takeRecord c i addr bm type acc d).mem = true := memWf_writeBytes hs _ _

theorem memWf_recordFault {s t : State} (hs : memWf s.mem = true) {c r : Nat} {va : Word64} {acc : BitVec 8}
    (h : s.recordFault c va acc = some (t, r)) : memWf t.mem = true := by
  unfold State.recordFault at h
  dsimp only at h
  split at h
  · cases h; exact memWf_writeByte (memWf_writeBytes hs _ _) _ _
  · split at h
    · cases h; exact memWf_takeRecord hs ..
    · cases h

end Sys2Proof.Machine
end

