-- ==== Sys2Proof/Laws/State.lean ====
section
/-!
SUPPORT. What each update of a record leaves and changes: one equation per field, true by unfolding the update.
-/

namespace Sys2Proof.Machine

/-! ### The whole machine -/

@[simp] theorem State.setTeam_clock (s : State) (k : Nat) (T : Team) : (s.setTeam k T).clock = s.clock := rfl
@[simp] theorem State.setTeam_mem (s : State) (k : Nat) (T : Team) : (s.setTeam k T).mem = s.mem := rfl
@[simp] theorem State.setTeam_badMem (s : State) (k : Nat) (T : Team) : (s.setTeam k T).badMem = s.badMem := rfl
@[simp] theorem State.setTeam_mgmt (s : State) (k : Nat) (T : Team) : (s.setTeam k T).mgmt = s.mgmt := rfl
@[simp] theorem State.setTeam_attest (s : State) (k : Nat) (T : Team) : (s.setTeam k T).attest = s.attest := rfl
@[simp] theorem State.setTeam_firmware (s : State) (k : Nat) (T : Team) : (s.setTeam k T).firmware = s.firmware := rfl
@[simp] theorem State.setTeam_ctxs (s : State) (k : Nat) (T : Team) : (s.setTeam k T).ctxs = s.ctxs := rfl
@[simp] theorem State.setTeam_cores (s : State) (k : Nat) (T : Team) : (s.setTeam k T).cores = s.cores := rfl
@[simp] theorem State.setTeam_launches (s : State) (k : Nat) (T : Team) : (s.setTeam k T).launches = s.launches := rfl
@[simp] theorem State.setTeam_nextLaunch (s : State) (k : Nat) (T : Team) :
    (s.setTeam k T).nextLaunch = s.nextLaunch := rfl
@[simp] theorem State.setTeam_nextTeam (s : State) (k : Nat) (T : Team) : (s.setTeam k T).nextTeam = s.nextTeam := rfl
@[simp] theorem State.setTeam_sqs (s : State) (k : Nat) (T : Team) : (s.setTeam k T).sqs = s.sqs := rfl
@[simp] theorem State.setTeam_cqs (s : State) (k : Nat) (T : Team) : (s.setTeam k T).cqs = s.cqs := rfl
@[simp] theorem State.setTeam_lastQueue (s : State) (k : Nat) (T : Team) :
    (s.setTeam k T).lastQueue = s.lastQueue := rfl
@[simp] theorem State.setTeam_devQueue (s : State) (k : Nat) (T : Team) : (s.setTeam k T).devQueue = s.devQueue := rfl
@[simp] theorem State.setTeam_collectives (s : State) (k : Nat) (T : Team) :
    (s.setTeam k T).collectives = s.collectives := rfl
@[simp] theorem State.setTeam_nextCollective (s : State) (k : Nat) (T : Team) :
    (s.setTeam k T).nextCollective = s.nextCollective := rfl
@[simp] theorem State.setTeam_xlats (s : State) (k : Nat) (T : Team) : (s.setTeam k T).xlats = s.xlats := rfl
@[simp] theorem State.setTeam_nextXlat (s : State) (k : Nat) (T : Team) : (s.setTeam k T).nextXlat = s.nextXlat := rfl
@[simp] theorem State.setTeam_tlb (s : State) (k : Nat) (T : Team) : (s.setTeam k T).tlb = s.tlb := rfl
@[simp] theorem State.setTeam_fetched (s : State) (k : Nat) (T : Team) : (s.setTeam k T).fetched = s.fetched := rfl
@[simp] theorem State.setTeam_stores (s : State) (k : Nat) (T : Team) : (s.setTeam k T).stores = s.stores := rfl
@[simp] theorem State.setTeam_remotes (s : State) (k : Nat) (T : Team) : (s.setTeam k T).remotes = s.remotes := rfl
@[simp] theorem State.setTeam_nextRemote (s : State) (k : Nat) (T : Team) :
    (s.setTeam k T).nextRemote = s.nextRemote := rfl
@[simp] theorem State.setTeam_nextSeq (s : State) (k : Nat) (T : Team) : (s.setTeam k T).nextSeq = s.nextSeq := rfl
@[simp] theorem State.setTeam_inbound (s : State) (k : Nat) (T : Team) : (s.setTeam k T).inbound = s.inbound := rfl
@[simp] theorem State.setTeam_ports (s : State) (k : Nat) (T : Team) : (s.setTeam k T).ports = s.ports := rfl
@[simp] theorem State.setTeam_pcieFailed (s : State) (k : Nat) (T : Team) :
    (s.setTeam k T).pcieFailed = s.pcieFailed := rfl
@[simp] theorem State.setTeam_heldBanks (s : State) (k : Nat) (T : Team) :
    (s.setTeam k T).heldBanks = s.heldBanks := rfl
@[simp] theorem State.setTeam_fencedCtxs (s : State) (k : Nat) (T : Team) :
    (s.setTeam k T).fencedCtxs = s.fencedCtxs := rfl
@[simp] theorem State.setTeam_fencedClusters (s : State) (k : Nat) (T : Team) :
    (s.setTeam k T).fencedClusters = s.fencedClusters := rfl
@[simp] theorem State.setTeam_recordCount (s : State) (k : Nat) (T : Team) :
    (s.setTeam k T).recordCount = s.recordCount := rfl
@[simp] theorem State.setTeam_msix (s : State) (k : Nat) (T : Team) : (s.setTeam k T).msix = s.msix := rfl
@[simp] theorem State.setTeam_doneVectors (s : State) (k : Nat) (T : Team) :
    (s.setTeam k T).doneVectors = s.doneVectors := rfl
@[simp] theorem State.setTeam_answers (s : State) (k : Nat) (T : Team) : (s.setTeam k T).answers = s.answers := rfl
@[simp] theorem State.setTeam_hostReads (s : State) (k : Nat) (T : Team) :
    (s.setTeam k T).hostReads = s.hostReads := rfl
@[simp] theorem State.setTeam_hostCompletions (s : State) (k : Nat) (T : Team) :
    (s.setTeam k T).hostCompletions = s.hostCompletions := rfl
@[simp] theorem State.setTeam_agenda (s : State) (k : Nat) (T : Team) : (s.setTeam k T).agenda = s.agenda := rfl
@[simp] theorem State.setTeam_cur (s : State) (k : Nat) (T : Team) : (s.setTeam k T).cur = s.cur := rfl
@[simp] theorem State.setTeam_picks (s : State) (k : Nat) (T : Team) : (s.setTeam k T).picks = s.picks := rfl
@[simp] theorem State.modTeam_clock (s : State) (k : Nat) (f : Team → Team) : (s.modTeam k f).clock = s.clock := rfl
@[simp] theorem State.modTeam_mem (s : State) (k : Nat) (f : Team → Team) : (s.modTeam k f).mem = s.mem := rfl
@[simp] theorem State.modTeam_badMem (s : State) (k : Nat) (f : Team → Team) : (s.modTeam k f).badMem = s.badMem := rfl
@[simp] theorem State.modTeam_mgmt (s : State) (k : Nat) (f : Team → Team) : (s.modTeam k f).mgmt = s.mgmt := rfl
@[simp] theorem State.modTeam_attest (s : State) (k : Nat) (f : Team → Team) : (s.modTeam k f).attest = s.attest := rfl
@[simp] theorem State.modTeam_firmware (s : State) (k : Nat) (f : Team → Team) :
    (s.modTeam k f).firmware = s.firmware := rfl
@[simp] theorem State.modTeam_ctxs (s : State) (k : Nat) (f : Team → Team) : (s.modTeam k f).ctxs = s.ctxs := rfl
@[simp] theorem State.modTeam_cores (s : State) (k : Nat) (f : Team → Team) : (s.modTeam k f).cores = s.cores := rfl
@[simp] theorem State.modTeam_launches (s : State) (k : Nat) (f : Team → Team) :
    (s.modTeam k f).launches = s.launches := rfl
@[simp] theorem State.modTeam_nextLaunch (s : State) (k : Nat) (f : Team → Team) :
    (s.modTeam k f).nextLaunch = s.nextLaunch := rfl
@[simp] theorem State.modTeam_nextTeam (s : State) (k : Nat) (f : Team → Team) :
    (s.modTeam k f).nextTeam = s.nextTeam := rfl
@[simp] theorem State.modTeam_sqs (s : State) (k : Nat) (f : Team → Team) : (s.modTeam k f).sqs = s.sqs := rfl
@[simp] theorem State.modTeam_cqs (s : State) (k : Nat) (f : Team → Team) : (s.modTeam k f).cqs = s.cqs := rfl
@[simp] theorem State.modTeam_lastQueue (s : State) (k : Nat) (f : Team → Team) :
    (s.modTeam k f).lastQueue = s.lastQueue := rfl
@[simp] theorem State.modTeam_devQueue (s : State) (k : Nat) (f : Team → Team) :
    (s.modTeam k f).devQueue = s.devQueue := rfl
@[simp] theorem State.modTeam_collectives (s : State) (k : Nat) (f : Team → Team) :
    (s.modTeam k f).collectives = s.collectives := rfl
@[simp] theorem State.modTeam_nextCollective (s : State) (k : Nat) (f : Team → Team) :
    (s.modTeam k f).nextCollective = s.nextCollective := rfl
@[simp] theorem State.modTeam_xlats (s : State) (k : Nat) (f : Team → Team) : (s.modTeam k f).xlats = s.xlats := rfl
@[simp] theorem State.modTeam_nextXlat (s : State) (k : Nat) (f : Team → Team) :
    (s.modTeam k f).nextXlat = s.nextXlat := rfl
@[simp] theorem State.modTeam_tlb (s : State) (k : Nat) (f : Team → Team) : (s.modTeam k f).tlb = s.tlb := rfl
@[simp] theorem State.modTeam_fetched (s : State) (k : Nat) (f : Team → Team) :
    (s.modTeam k f).fetched = s.fetched := rfl
@[simp] theorem State.modTeam_stores (s : State) (k : Nat) (f : Team → Team) : (s.modTeam k f).stores = s.stores := rfl
@[simp] theorem State.modTeam_remotes (s : State) (k : Nat) (f : Team → Team) :
    (s.modTeam k f).remotes = s.remotes := rfl
@[simp] theorem State.modTeam_nextRemote (s : State) (k : Nat) (f : Team → Team) :
    (s.modTeam k f).nextRemote = s.nextRemote := rfl
@[simp] theorem State.modTeam_nextSeq (s : State) (k : Nat) (f : Team → Team) :
    (s.modTeam k f).nextSeq = s.nextSeq := rfl
@[simp] theorem State.modTeam_inbound (s : State) (k : Nat) (f : Team → Team) :
    (s.modTeam k f).inbound = s.inbound := rfl
@[simp] theorem State.modTeam_ports (s : State) (k : Nat) (f : Team → Team) : (s.modTeam k f).ports = s.ports := rfl
@[simp] theorem State.modTeam_pcieFailed (s : State) (k : Nat) (f : Team → Team) :
    (s.modTeam k f).pcieFailed = s.pcieFailed := rfl
@[simp] theorem State.modTeam_heldBanks (s : State) (k : Nat) (f : Team → Team) :
    (s.modTeam k f).heldBanks = s.heldBanks := rfl
@[simp] theorem State.modTeam_fencedCtxs (s : State) (k : Nat) (f : Team → Team) :
    (s.modTeam k f).fencedCtxs = s.fencedCtxs := rfl
@[simp] theorem State.modTeam_fencedClusters (s : State) (k : Nat) (f : Team → Team) :
    (s.modTeam k f).fencedClusters = s.fencedClusters := rfl
@[simp] theorem State.modTeam_recordCount (s : State) (k : Nat) (f : Team → Team) :
    (s.modTeam k f).recordCount = s.recordCount := rfl
@[simp] theorem State.modTeam_msix (s : State) (k : Nat) (f : Team → Team) : (s.modTeam k f).msix = s.msix := rfl
@[simp] theorem State.modTeam_doneVectors (s : State) (k : Nat) (f : Team → Team) :
    (s.modTeam k f).doneVectors = s.doneVectors := rfl
@[simp] theorem State.modTeam_answers (s : State) (k : Nat) (f : Team → Team) :
    (s.modTeam k f).answers = s.answers := rfl
@[simp] theorem State.modTeam_hostReads (s : State) (k : Nat) (f : Team → Team) :
    (s.modTeam k f).hostReads = s.hostReads := rfl
@[simp] theorem State.modTeam_hostCompletions (s : State) (k : Nat) (f : Team → Team) :
    (s.modTeam k f).hostCompletions = s.hostCompletions := rfl
@[simp] theorem State.modTeam_agenda (s : State) (k : Nat) (f : Team → Team) : (s.modTeam k f).agenda = s.agenda := rfl
@[simp] theorem State.modTeam_cur (s : State) (k : Nat) (f : Team → Team) : (s.modTeam k f).cur = s.cur := rfl
@[simp] theorem State.modTeam_picks (s : State) (k : Nat) (f : Team → Team) : (s.modTeam k f).picks = s.picks := rfl
@[simp] theorem State.setCtx_clock (s : State) (c : Nat) (x : Context) : (s.setCtx c x).clock = s.clock := rfl
@[simp] theorem State.setCtx_mem (s : State) (c : Nat) (x : Context) : (s.setCtx c x).mem = s.mem := rfl
@[simp] theorem State.setCtx_badMem (s : State) (c : Nat) (x : Context) : (s.setCtx c x).badMem = s.badMem := rfl
@[simp] theorem State.setCtx_mgmt (s : State) (c : Nat) (x : Context) : (s.setCtx c x).mgmt = s.mgmt := rfl
@[simp] theorem State.setCtx_attest (s : State) (c : Nat) (x : Context) : (s.setCtx c x).attest = s.attest := rfl
@[simp] theorem State.setCtx_firmware (s : State) (c : Nat) (x : Context) : (s.setCtx c x).firmware = s.firmware := rfl
@[simp] theorem State.setCtx_cores (s : State) (c : Nat) (x : Context) : (s.setCtx c x).cores = s.cores := rfl
@[simp] theorem State.setCtx_launches (s : State) (c : Nat) (x : Context) : (s.setCtx c x).launches = s.launches := rfl
@[simp] theorem State.setCtx_nextLaunch (s : State) (c : Nat) (x : Context) :
    (s.setCtx c x).nextLaunch = s.nextLaunch := rfl
@[simp] theorem State.setCtx_teams (s : State) (c : Nat) (x : Context) : (s.setCtx c x).teams = s.teams := rfl
@[simp] theorem State.setCtx_nextTeam (s : State) (c : Nat) (x : Context) : (s.setCtx c x).nextTeam = s.nextTeam := rfl
@[simp] theorem State.setCtx_sqs (s : State) (c : Nat) (x : Context) : (s.setCtx c x).sqs = s.sqs := rfl
@[simp] theorem State.setCtx_cqs (s : State) (c : Nat) (x : Context) : (s.setCtx c x).cqs = s.cqs := rfl
@[simp] theorem State.setCtx_lastQueue (s : State) (c : Nat) (x : Context) :
    (s.setCtx c x).lastQueue = s.lastQueue := rfl
@[simp] theorem State.setCtx_devQueue (s : State) (c : Nat) (x : Context) : (s.setCtx c x).devQueue = s.devQueue := rfl
@[simp] theorem State.setCtx_collectives (s : State) (c : Nat) (x : Context) :
    (s.setCtx c x).collectives = s.collectives := rfl
@[simp] theorem State.setCtx_nextCollective (s : State) (c : Nat) (x : Context) :
    (s.setCtx c x).nextCollective = s.nextCollective := rfl
@[simp] theorem State.setCtx_xlats (s : State) (c : Nat) (x : Context) : (s.setCtx c x).xlats = s.xlats := rfl
@[simp] theorem State.setCtx_nextXlat (s : State) (c : Nat) (x : Context) : (s.setCtx c x).nextXlat = s.nextXlat := rfl
@[simp] theorem State.setCtx_tlb (s : State) (c : Nat) (x : Context) : (s.setCtx c x).tlb = s.tlb := rfl
@[simp] theorem State.setCtx_fetched (s : State) (c : Nat) (x : Context) : (s.setCtx c x).fetched = s.fetched := rfl
@[simp] theorem State.setCtx_stores (s : State) (c : Nat) (x : Context) : (s.setCtx c x).stores = s.stores := rfl
@[simp] theorem State.setCtx_remotes (s : State) (c : Nat) (x : Context) : (s.setCtx c x).remotes = s.remotes := rfl
@[simp] theorem State.setCtx_nextRemote (s : State) (c : Nat) (x : Context) :
    (s.setCtx c x).nextRemote = s.nextRemote := rfl
@[simp] theorem State.setCtx_nextSeq (s : State) (c : Nat) (x : Context) : (s.setCtx c x).nextSeq = s.nextSeq := rfl
@[simp] theorem State.setCtx_inbound (s : State) (c : Nat) (x : Context) : (s.setCtx c x).inbound = s.inbound := rfl
@[simp] theorem State.setCtx_ports (s : State) (c : Nat) (x : Context) : (s.setCtx c x).ports = s.ports := rfl
@[simp] theorem State.setCtx_pcieFailed (s : State) (c : Nat) (x : Context) :
    (s.setCtx c x).pcieFailed = s.pcieFailed := rfl
@[simp] theorem State.setCtx_heldBanks (s : State) (c : Nat) (x : Context) :
    (s.setCtx c x).heldBanks = s.heldBanks := rfl
@[simp] theorem State.setCtx_fencedCtxs (s : State) (c : Nat) (x : Context) :
    (s.setCtx c x).fencedCtxs = s.fencedCtxs := rfl
@[simp] theorem State.setCtx_fencedClusters (s : State) (c : Nat) (x : Context) :
    (s.setCtx c x).fencedClusters = s.fencedClusters := rfl
@[simp] theorem State.setCtx_recordCount (s : State) (c : Nat) (x : Context) :
    (s.setCtx c x).recordCount = s.recordCount := rfl
@[simp] theorem State.setCtx_msix (s : State) (c : Nat) (x : Context) : (s.setCtx c x).msix = s.msix := rfl
@[simp] theorem State.setCtx_doneVectors (s : State) (c : Nat) (x : Context) :
    (s.setCtx c x).doneVectors = s.doneVectors := rfl
@[simp] theorem State.setCtx_answers (s : State) (c : Nat) (x : Context) : (s.setCtx c x).answers = s.answers := rfl
@[simp] theorem State.setCtx_hostReads (s : State) (c : Nat) (x : Context) :
    (s.setCtx c x).hostReads = s.hostReads := rfl
@[simp] theorem State.setCtx_hostCompletions (s : State) (c : Nat) (x : Context) :
    (s.setCtx c x).hostCompletions = s.hostCompletions := rfl
@[simp] theorem State.setCtx_agenda (s : State) (c : Nat) (x : Context) : (s.setCtx c x).agenda = s.agenda := rfl
@[simp] theorem State.setCtx_cur (s : State) (c : Nat) (x : Context) : (s.setCtx c x).cur = s.cur := rfl
@[simp] theorem State.setCtx_picks (s : State) (c : Nat) (x : Context) : (s.setCtx c x).picks = s.picks := rfl
@[simp] theorem State.setCore_clock (s : State) (c : Nat) (x : Core) : (s.setCore c x).clock = s.clock := rfl
@[simp] theorem State.setCore_mem (s : State) (c : Nat) (x : Core) : (s.setCore c x).mem = s.mem := rfl
@[simp] theorem State.setCore_badMem (s : State) (c : Nat) (x : Core) : (s.setCore c x).badMem = s.badMem := rfl
@[simp] theorem State.setCore_mgmt (s : State) (c : Nat) (x : Core) : (s.setCore c x).mgmt = s.mgmt := rfl
@[simp] theorem State.setCore_attest (s : State) (c : Nat) (x : Core) : (s.setCore c x).attest = s.attest := rfl
@[simp] theorem State.setCore_firmware (s : State) (c : Nat) (x : Core) : (s.setCore c x).firmware = s.firmware := rfl
@[simp] theorem State.setCore_ctxs (s : State) (c : Nat) (x : Core) : (s.setCore c x).ctxs = s.ctxs := rfl
@[simp] theorem State.setCore_launches (s : State) (c : Nat) (x : Core) : (s.setCore c x).launches = s.launches := rfl
@[simp] theorem State.setCore_nextLaunch (s : State) (c : Nat) (x : Core) :
    (s.setCore c x).nextLaunch = s.nextLaunch := rfl
@[simp] theorem State.setCore_teams (s : State) (c : Nat) (x : Core) : (s.setCore c x).teams = s.teams := rfl
@[simp] theorem State.setCore_nextTeam (s : State) (c : Nat) (x : Core) : (s.setCore c x).nextTeam = s.nextTeam := rfl
@[simp] theorem State.setCore_sqs (s : State) (c : Nat) (x : Core) : (s.setCore c x).sqs = s.sqs := rfl
@[simp] theorem State.setCore_cqs (s : State) (c : Nat) (x : Core) : (s.setCore c x).cqs = s.cqs := rfl
@[simp] theorem State.setCore_lastQueue (s : State) (c : Nat) (x : Core) :
    (s.setCore c x).lastQueue = s.lastQueue := rfl
@[simp] theorem State.setCore_devQueue (s : State) (c : Nat) (x : Core) : (s.setCore c x).devQueue = s.devQueue := rfl
@[simp] theorem State.setCore_collectives (s : State) (c : Nat) (x : Core) :
    (s.setCore c x).collectives = s.collectives := rfl
@[simp] theorem State.setCore_nextCollective (s : State) (c : Nat) (x : Core) :
    (s.setCore c x).nextCollective = s.nextCollective := rfl
@[simp] theorem State.setCore_xlats (s : State) (c : Nat) (x : Core) : (s.setCore c x).xlats = s.xlats := rfl
@[simp] theorem State.setCore_nextXlat (s : State) (c : Nat) (x : Core) : (s.setCore c x).nextXlat = s.nextXlat := rfl
@[simp] theorem State.setCore_tlb (s : State) (c : Nat) (x : Core) : (s.setCore c x).tlb = s.tlb := rfl
@[simp] theorem State.setCore_fetched (s : State) (c : Nat) (x : Core) : (s.setCore c x).fetched = s.fetched := rfl
@[simp] theorem State.setCore_stores (s : State) (c : Nat) (x : Core) : (s.setCore c x).stores = s.stores := rfl
@[simp] theorem State.setCore_remotes (s : State) (c : Nat) (x : Core) : (s.setCore c x).remotes = s.remotes := rfl
@[simp] theorem State.setCore_nextRemote (s : State) (c : Nat) (x : Core) :
    (s.setCore c x).nextRemote = s.nextRemote := rfl
@[simp] theorem State.setCore_nextSeq (s : State) (c : Nat) (x : Core) : (s.setCore c x).nextSeq = s.nextSeq := rfl
@[simp] theorem State.setCore_inbound (s : State) (c : Nat) (x : Core) : (s.setCore c x).inbound = s.inbound := rfl
@[simp] theorem State.setCore_ports (s : State) (c : Nat) (x : Core) : (s.setCore c x).ports = s.ports := rfl
@[simp] theorem State.setCore_pcieFailed (s : State) (c : Nat) (x : Core) :
    (s.setCore c x).pcieFailed = s.pcieFailed := rfl
@[simp] theorem State.setCore_heldBanks (s : State) (c : Nat) (x : Core) :
    (s.setCore c x).heldBanks = s.heldBanks := rfl
@[simp] theorem State.setCore_fencedCtxs (s : State) (c : Nat) (x : Core) :
    (s.setCore c x).fencedCtxs = s.fencedCtxs := rfl
@[simp] theorem State.setCore_fencedClusters (s : State) (c : Nat) (x : Core) :
    (s.setCore c x).fencedClusters = s.fencedClusters := rfl
@[simp] theorem State.setCore_recordCount (s : State) (c : Nat) (x : Core) :
    (s.setCore c x).recordCount = s.recordCount := rfl
@[simp] theorem State.setCore_msix (s : State) (c : Nat) (x : Core) : (s.setCore c x).msix = s.msix := rfl
@[simp] theorem State.setCore_doneVectors (s : State) (c : Nat) (x : Core) :
    (s.setCore c x).doneVectors = s.doneVectors := rfl
@[simp] theorem State.setCore_answers (s : State) (c : Nat) (x : Core) : (s.setCore c x).answers = s.answers := rfl
@[simp] theorem State.setCore_hostReads (s : State) (c : Nat) (x : Core) :
    (s.setCore c x).hostReads = s.hostReads := rfl
@[simp] theorem State.setCore_hostCompletions (s : State) (c : Nat) (x : Core) :
    (s.setCore c x).hostCompletions = s.hostCompletions := rfl
@[simp] theorem State.setCore_agenda (s : State) (c : Nat) (x : Core) : (s.setCore c x).agenda = s.agenda := rfl
@[simp] theorem State.setCore_cur (s : State) (c : Nat) (x : Core) : (s.setCore c x).cur = s.cur := rfl
@[simp] theorem State.setCore_picks (s : State) (c : Nat) (x : Core) : (s.setCore c x).picks = s.picks := rfl
@[simp] theorem State.modThread_clock (s : State) (k t : Nat) (f : Thread → Thread) :
    (s.modThread k t f).clock = s.clock := rfl
@[simp] theorem State.modThread_mem (s : State) (k t : Nat) (f : Thread → Thread) :
    (s.modThread k t f).mem = s.mem := rfl
@[simp] theorem State.modThread_badMem (s : State) (k t : Nat) (f : Thread → Thread) :
    (s.modThread k t f).badMem = s.badMem := rfl
@[simp] theorem State.modThread_mgmt (s : State) (k t : Nat) (f : Thread → Thread) :
    (s.modThread k t f).mgmt = s.mgmt := rfl
@[simp] theorem State.modThread_attest (s : State) (k t : Nat) (f : Thread → Thread) :
    (s.modThread k t f).attest = s.attest := rfl
@[simp] theorem State.modThread_firmware (s : State) (k t : Nat) (f : Thread → Thread) :
    (s.modThread k t f).firmware = s.firmware := rfl
@[simp] theorem State.modThread_ctxs (s : State) (k t : Nat) (f : Thread → Thread) :
    (s.modThread k t f).ctxs = s.ctxs := rfl
@[simp] theorem State.modThread_cores (s : State) (k t : Nat) (f : Thread → Thread) :
    (s.modThread k t f).cores = s.cores := rfl
@[simp] theorem State.modThread_launches (s : State) (k t : Nat) (f : Thread → Thread) :
    (s.modThread k t f).launches = s.launches := rfl
@[simp] theorem State.modThread_nextLaunch (s : State) (k t : Nat) (f : Thread → Thread) :
    (s.modThread k t f).nextLaunch = s.nextLaunch := rfl
@[simp] theorem State.modThread_nextTeam (s : State) (k t : Nat) (f : Thread → Thread) :
    (s.modThread k t f).nextTeam = s.nextTeam := rfl
@[simp] theorem State.modThread_sqs (s : State) (k t : Nat) (f : Thread → Thread) :
    (s.modThread k t f).sqs = s.sqs := rfl
@[simp] theorem State.modThread_cqs (s : State) (k t : Nat) (f : Thread → Thread) :
    (s.modThread k t f).cqs = s.cqs := rfl
@[simp] theorem State.modThread_lastQueue (s : State) (k t : Nat) (f : Thread → Thread) :
    (s.modThread k t f).lastQueue = s.lastQueue := rfl
@[simp] theorem State.modThread_devQueue (s : State) (k t : Nat) (f : Thread → Thread) :
    (s.modThread k t f).devQueue = s.devQueue := rfl
@[simp] theorem State.modThread_collectives (s : State) (k t : Nat) (f : Thread → Thread) :
    (s.modThread k t f).collectives = s.collectives := rfl
@[simp] theorem State.modThread_nextCollective (s : State) (k t : Nat) (f : Thread → Thread) :
    (s.modThread k t f).nextCollective = s.nextCollective := rfl
@[simp] theorem State.modThread_xlats (s : State) (k t : Nat) (f : Thread → Thread) :
    (s.modThread k t f).xlats = s.xlats := rfl
@[simp] theorem State.modThread_nextXlat (s : State) (k t : Nat) (f : Thread → Thread) :
    (s.modThread k t f).nextXlat = s.nextXlat := rfl
@[simp] theorem State.modThread_tlb (s : State) (k t : Nat) (f : Thread → Thread) :
    (s.modThread k t f).tlb = s.tlb := rfl
@[simp] theorem State.modThread_fetched (s : State) (k t : Nat) (f : Thread → Thread) :
    (s.modThread k t f).fetched = s.fetched := rfl
@[simp] theorem State.modThread_stores (s : State) (k t : Nat) (f : Thread → Thread) :
    (s.modThread k t f).stores = s.stores := rfl
@[simp] theorem State.modThread_remotes (s : State) (k t : Nat) (f : Thread → Thread) :
    (s.modThread k t f).remotes = s.remotes := rfl
@[simp] theorem State.modThread_nextRemote (s : State) (k t : Nat) (f : Thread → Thread) :
    (s.modThread k t f).nextRemote = s.nextRemote := rfl
@[simp] theorem State.modThread_nextSeq (s : State) (k t : Nat) (f : Thread → Thread) :
    (s.modThread k t f).nextSeq = s.nextSeq := rfl
@[simp] theorem State.modThread_inbound (s : State) (k t : Nat) (f : Thread → Thread) :
    (s.modThread k t f).inbound = s.inbound := rfl
@[simp] theorem State.modThread_ports (s : State) (k t : Nat) (f : Thread → Thread) :
    (s.modThread k t f).ports = s.ports := rfl
@[simp] theorem State.modThread_pcieFailed (s : State) (k t : Nat) (f : Thread → Thread) :
    (s.modThread k t f).pcieFailed = s.pcieFailed := rfl
@[simp] theorem State.modThread_heldBanks (s : State) (k t : Nat) (f : Thread → Thread) :
    (s.modThread k t f).heldBanks = s.heldBanks := rfl
@[simp] theorem State.modThread_fencedCtxs (s : State) (k t : Nat) (f : Thread → Thread) :
    (s.modThread k t f).fencedCtxs = s.fencedCtxs := rfl
@[simp] theorem State.modThread_fencedClusters (s : State) (k t : Nat) (f : Thread → Thread) :
    (s.modThread k t f).fencedClusters = s.fencedClusters := rfl
@[simp] theorem State.modThread_recordCount (s : State) (k t : Nat) (f : Thread → Thread) :
    (s.modThread k t f).recordCount = s.recordCount := rfl
@[simp] theorem State.modThread_msix (s : State) (k t : Nat) (f : Thread → Thread) :
    (s.modThread k t f).msix = s.msix := rfl
@[simp] theorem State.modThread_doneVectors (s : State) (k t : Nat) (f : Thread → Thread) :
    (s.modThread k t f).doneVectors = s.doneVectors := rfl
@[simp] theorem State.modThread_answers (s : State) (k t : Nat) (f : Thread → Thread) :
    (s.modThread k t f).answers = s.answers := rfl
@[simp] theorem State.modThread_hostReads (s : State) (k t : Nat) (f : Thread → Thread) :
    (s.modThread k t f).hostReads = s.hostReads := rfl
@[simp] theorem State.modThread_hostCompletions (s : State) (k t : Nat) (f : Thread → Thread) :
    (s.modThread k t f).hostCompletions = s.hostCompletions := rfl
@[simp] theorem State.modThread_agenda (s : State) (k t : Nat) (f : Thread → Thread) :
    (s.modThread k t f).agenda = s.agenda := rfl
@[simp] theorem State.modThread_cur (s : State) (k t : Nat) (f : Thread → Thread) :
    (s.modThread k t f).cur = s.cur := rfl
@[simp] theorem State.modThread_picks (s : State) (k t : Nat) (f : Thread → Thread) :
    (s.modThread k t f).picks = s.picks := rfl
@[simp] theorem State.setThread_clock (s : State) (k t : Nat) (h : Thread) : (s.setThread k t h).clock = s.clock := rfl
@[simp] theorem State.setThread_mem (s : State) (k t : Nat) (h : Thread) : (s.setThread k t h).mem = s.mem := rfl
@[simp] theorem State.setThread_badMem (s : State) (k t : Nat) (h : Thread) :
    (s.setThread k t h).badMem = s.badMem := rfl
@[simp] theorem State.setThread_mgmt (s : State) (k t : Nat) (h : Thread) : (s.setThread k t h).mgmt = s.mgmt := rfl
@[simp] theorem State.setThread_attest (s : State) (k t : Nat) (h : Thread) :
    (s.setThread k t h).attest = s.attest := rfl
@[simp] theorem State.setThread_firmware (s : State) (k t : Nat) (h : Thread) :
    (s.setThread k t h).firmware = s.firmware := rfl
@[simp] theorem State.setThread_ctxs (s : State) (k t : Nat) (h : Thread) : (s.setThread k t h).ctxs = s.ctxs := rfl
@[simp] theorem State.setThread_cores (s : State) (k t : Nat) (h : Thread) : (s.setThread k t h).cores = s.cores := rfl
@[simp] theorem State.setThread_launches (s : State) (k t : Nat) (h : Thread) :
    (s.setThread k t h).launches = s.launches := rfl
@[simp] theorem State.setThread_nextLaunch (s : State) (k t : Nat) (h : Thread) :
    (s.setThread k t h).nextLaunch = s.nextLaunch := rfl
@[simp] theorem State.setThread_nextTeam (s : State) (k t : Nat) (h : Thread) :
    (s.setThread k t h).nextTeam = s.nextTeam := rfl
@[simp] theorem State.setThread_sqs (s : State) (k t : Nat) (h : Thread) : (s.setThread k t h).sqs = s.sqs := rfl
@[simp] theorem State.setThread_cqs (s : State) (k t : Nat) (h : Thread) : (s.setThread k t h).cqs = s.cqs := rfl
@[simp] theorem State.setThread_lastQueue (s : State) (k t : Nat) (h : Thread) :
    (s.setThread k t h).lastQueue = s.lastQueue := rfl
@[simp] theorem State.setThread_devQueue (s : State) (k t : Nat) (h : Thread) :
    (s.setThread k t h).devQueue = s.devQueue := rfl
@[simp] theorem State.setThread_collectives (s : State) (k t : Nat) (h : Thread) :
    (s.setThread k t h).collectives = s.collectives := rfl
@[simp] theorem State.setThread_nextCollective (s : State) (k t : Nat) (h : Thread) :
    (s.setThread k t h).nextCollective = s.nextCollective := rfl
@[simp] theorem State.setThread_xlats (s : State) (k t : Nat) (h : Thread) : (s.setThread k t h).xlats = s.xlats := rfl
@[simp] theorem State.setThread_nextXlat (s : State) (k t : Nat) (h : Thread) :
    (s.setThread k t h).nextXlat = s.nextXlat := rfl
@[simp] theorem State.setThread_tlb (s : State) (k t : Nat) (h : Thread) : (s.setThread k t h).tlb = s.tlb := rfl
@[simp] theorem State.setThread_fetched (s : State) (k t : Nat) (h : Thread) :
    (s.setThread k t h).fetched = s.fetched := rfl
@[simp] theorem State.setThread_stores (s : State) (k t : Nat) (h : Thread) :
    (s.setThread k t h).stores = s.stores := rfl
@[simp] theorem State.setThread_remotes (s : State) (k t : Nat) (h : Thread) :
    (s.setThread k t h).remotes = s.remotes := rfl
@[simp] theorem State.setThread_nextRemote (s : State) (k t : Nat) (h : Thread) :
    (s.setThread k t h).nextRemote = s.nextRemote := rfl
@[simp] theorem State.setThread_nextSeq (s : State) (k t : Nat) (h : Thread) :
    (s.setThread k t h).nextSeq = s.nextSeq := rfl
@[simp] theorem State.setThread_inbound (s : State) (k t : Nat) (h : Thread) :
    (s.setThread k t h).inbound = s.inbound := rfl
@[simp] theorem State.setThread_ports (s : State) (k t : Nat) (h : Thread) : (s.setThread k t h).ports = s.ports := rfl
@[simp] theorem State.setThread_pcieFailed (s : State) (k t : Nat) (h : Thread) :
    (s.setThread k t h).pcieFailed = s.pcieFailed := rfl
@[simp] theorem State.setThread_heldBanks (s : State) (k t : Nat) (h : Thread) :
    (s.setThread k t h).heldBanks = s.heldBanks := rfl
@[simp] theorem State.setThread_fencedCtxs (s : State) (k t : Nat) (h : Thread) :
    (s.setThread k t h).fencedCtxs = s.fencedCtxs := rfl
@[simp] theorem State.setThread_fencedClusters (s : State) (k t : Nat) (h : Thread) :
    (s.setThread k t h).fencedClusters = s.fencedClusters := rfl
@[simp] theorem State.setThread_recordCount (s : State) (k t : Nat) (h : Thread) :
    (s.setThread k t h).recordCount = s.recordCount := rfl
@[simp] theorem State.setThread_msix (s : State) (k t : Nat) (h : Thread) : (s.setThread k t h).msix = s.msix := rfl
@[simp] theorem State.setThread_doneVectors (s : State) (k t : Nat) (h : Thread) :
    (s.setThread k t h).doneVectors = s.doneVectors := rfl
@[simp] theorem State.setThread_answers (s : State) (k t : Nat) (h : Thread) :
    (s.setThread k t h).answers = s.answers := rfl
@[simp] theorem State.setThread_hostReads (s : State) (k t : Nat) (h : Thread) :
    (s.setThread k t h).hostReads = s.hostReads := rfl
@[simp] theorem State.setThread_hostCompletions (s : State) (k t : Nat) (h : Thread) :
    (s.setThread k t h).hostCompletions = s.hostCompletions := rfl
@[simp] theorem State.setThread_agenda (s : State) (k t : Nat) (h : Thread) :
    (s.setThread k t h).agenda = s.agenda := rfl
@[simp] theorem State.setThread_cur (s : State) (k t : Nat) (h : Thread) : (s.setThread k t h).cur = s.cur := rfl
@[simp] theorem State.setThread_picks (s : State) (k t : Nat) (h : Thread) : (s.setThread k t h).picks = s.picks := rfl
@[simp] theorem State.modFront_clock (s : State) (k : Nat) (f : Front → Front) : (s.modFront k f).clock = s.clock := rfl
@[simp] theorem State.modFront_mem (s : State) (k : Nat) (f : Front → Front) : (s.modFront k f).mem = s.mem := rfl
@[simp] theorem State.modFront_badMem (s : State) (k : Nat) (f : Front → Front) :
    (s.modFront k f).badMem = s.badMem := rfl
@[simp] theorem State.modFront_mgmt (s : State) (k : Nat) (f : Front → Front) : (s.modFront k f).mgmt = s.mgmt := rfl
@[simp] theorem State.modFront_attest (s : State) (k : Nat) (f : Front → Front) :
    (s.modFront k f).attest = s.attest := rfl
@[simp] theorem State.modFront_firmware (s : State) (k : Nat) (f : Front → Front) :
    (s.modFront k f).firmware = s.firmware := rfl
@[simp] theorem State.modFront_ctxs (s : State) (k : Nat) (f : Front → Front) : (s.modFront k f).ctxs = s.ctxs := rfl
@[simp] theorem State.modFront_cores (s : State) (k : Nat) (f : Front → Front) : (s.modFront k f).cores = s.cores := rfl
@[simp] theorem State.modFront_launches (s : State) (k : Nat) (f : Front → Front) :
    (s.modFront k f).launches = s.launches := rfl
@[simp] theorem State.modFront_nextLaunch (s : State) (k : Nat) (f : Front → Front) :
    (s.modFront k f).nextLaunch = s.nextLaunch := rfl
@[simp] theorem State.modFront_nextTeam (s : State) (k : Nat) (f : Front → Front) :
    (s.modFront k f).nextTeam = s.nextTeam := rfl
@[simp] theorem State.modFront_sqs (s : State) (k : Nat) (f : Front → Front) : (s.modFront k f).sqs = s.sqs := rfl
@[simp] theorem State.modFront_cqs (s : State) (k : Nat) (f : Front → Front) : (s.modFront k f).cqs = s.cqs := rfl
@[simp] theorem State.modFront_lastQueue (s : State) (k : Nat) (f : Front → Front) :
    (s.modFront k f).lastQueue = s.lastQueue := rfl
@[simp] theorem State.modFront_devQueue (s : State) (k : Nat) (f : Front → Front) :
    (s.modFront k f).devQueue = s.devQueue := rfl
@[simp] theorem State.modFront_collectives (s : State) (k : Nat) (f : Front → Front) :
    (s.modFront k f).collectives = s.collectives := rfl
@[simp] theorem State.modFront_nextCollective (s : State) (k : Nat) (f : Front → Front) :
    (s.modFront k f).nextCollective = s.nextCollective := rfl
@[simp] theorem State.modFront_xlats (s : State) (k : Nat) (f : Front → Front) : (s.modFront k f).xlats = s.xlats := rfl
@[simp] theorem State.modFront_nextXlat (s : State) (k : Nat) (f : Front → Front) :
    (s.modFront k f).nextXlat = s.nextXlat := rfl
@[simp] theorem State.modFront_tlb (s : State) (k : Nat) (f : Front → Front) : (s.modFront k f).tlb = s.tlb := rfl
@[simp] theorem State.modFront_fetched (s : State) (k : Nat) (f : Front → Front) :
    (s.modFront k f).fetched = s.fetched := rfl
@[simp] theorem State.modFront_stores (s : State) (k : Nat) (f : Front → Front) :
    (s.modFront k f).stores = s.stores := rfl
@[simp] theorem State.modFront_remotes (s : State) (k : Nat) (f : Front → Front) :
    (s.modFront k f).remotes = s.remotes := rfl
@[simp] theorem State.modFront_nextRemote (s : State) (k : Nat) (f : Front → Front) :
    (s.modFront k f).nextRemote = s.nextRemote := rfl
@[simp] theorem State.modFront_nextSeq (s : State) (k : Nat) (f : Front → Front) :
    (s.modFront k f).nextSeq = s.nextSeq := rfl
@[simp] theorem State.modFront_inbound (s : State) (k : Nat) (f : Front → Front) :
    (s.modFront k f).inbound = s.inbound := rfl
@[simp] theorem State.modFront_ports (s : State) (k : Nat) (f : Front → Front) : (s.modFront k f).ports = s.ports := rfl
@[simp] theorem State.modFront_pcieFailed (s : State) (k : Nat) (f : Front → Front) :
    (s.modFront k f).pcieFailed = s.pcieFailed := rfl
@[simp] theorem State.modFront_heldBanks (s : State) (k : Nat) (f : Front → Front) :
    (s.modFront k f).heldBanks = s.heldBanks := rfl
@[simp] theorem State.modFront_fencedCtxs (s : State) (k : Nat) (f : Front → Front) :
    (s.modFront k f).fencedCtxs = s.fencedCtxs := rfl
@[simp] theorem State.modFront_fencedClusters (s : State) (k : Nat) (f : Front → Front) :
    (s.modFront k f).fencedClusters = s.fencedClusters := rfl
@[simp] theorem State.modFront_recordCount (s : State) (k : Nat) (f : Front → Front) :
    (s.modFront k f).recordCount = s.recordCount := rfl
@[simp] theorem State.modFront_msix (s : State) (k : Nat) (f : Front → Front) : (s.modFront k f).msix = s.msix := rfl
@[simp] theorem State.modFront_doneVectors (s : State) (k : Nat) (f : Front → Front) :
    (s.modFront k f).doneVectors = s.doneVectors := rfl
@[simp] theorem State.modFront_answers (s : State) (k : Nat) (f : Front → Front) :
    (s.modFront k f).answers = s.answers := rfl
@[simp] theorem State.modFront_hostReads (s : State) (k : Nat) (f : Front → Front) :
    (s.modFront k f).hostReads = s.hostReads := rfl
@[simp] theorem State.modFront_hostCompletions (s : State) (k : Nat) (f : Front → Front) :
    (s.modFront k f).hostCompletions = s.hostCompletions := rfl
@[simp] theorem State.modFront_agenda (s : State) (k : Nat) (f : Front → Front) :
    (s.modFront k f).agenda = s.agenda := rfl
@[simp] theorem State.modFront_cur (s : State) (k : Nat) (f : Front → Front) : (s.modFront k f).cur = s.cur := rfl
@[simp] theorem State.modFront_picks (s : State) (k : Nat) (f : Front → Front) : (s.modFront k f).picks = s.picks := rfl
@[simp] theorem State.report_clock (s : State) (c : Nat) (r : Report) : (s.report c r).clock = s.clock := rfl
@[simp] theorem State.report_mem (s : State) (c : Nat) (r : Report) : (s.report c r).mem = s.mem := rfl
@[simp] theorem State.report_badMem (s : State) (c : Nat) (r : Report) : (s.report c r).badMem = s.badMem := rfl
@[simp] theorem State.report_mgmt (s : State) (c : Nat) (r : Report) : (s.report c r).mgmt = s.mgmt := rfl
@[simp] theorem State.report_attest (s : State) (c : Nat) (r : Report) : (s.report c r).attest = s.attest := rfl
@[simp] theorem State.report_firmware (s : State) (c : Nat) (r : Report) : (s.report c r).firmware = s.firmware := rfl
@[simp] theorem State.report_cores (s : State) (c : Nat) (r : Report) : (s.report c r).cores = s.cores := rfl
@[simp] theorem State.report_launches (s : State) (c : Nat) (r : Report) : (s.report c r).launches = s.launches := rfl
@[simp] theorem State.report_nextLaunch (s : State) (c : Nat) (r : Report) :
    (s.report c r).nextLaunch = s.nextLaunch := rfl
@[simp] theorem State.report_teams (s : State) (c : Nat) (r : Report) : (s.report c r).teams = s.teams := rfl
@[simp] theorem State.report_nextTeam (s : State) (c : Nat) (r : Report) : (s.report c r).nextTeam = s.nextTeam := rfl
@[simp] theorem State.report_sqs (s : State) (c : Nat) (r : Report) : (s.report c r).sqs = s.sqs := rfl
@[simp] theorem State.report_cqs (s : State) (c : Nat) (r : Report) : (s.report c r).cqs = s.cqs := rfl
@[simp] theorem State.report_lastQueue (s : State) (c : Nat) (r : Report) :
    (s.report c r).lastQueue = s.lastQueue := rfl
@[simp] theorem State.report_devQueue (s : State) (c : Nat) (r : Report) : (s.report c r).devQueue = s.devQueue := rfl
@[simp] theorem State.report_collectives (s : State) (c : Nat) (r : Report) :
    (s.report c r).collectives = s.collectives := rfl
@[simp] theorem State.report_nextCollective (s : State) (c : Nat) (r : Report) :
    (s.report c r).nextCollective = s.nextCollective := rfl
@[simp] theorem State.report_xlats (s : State) (c : Nat) (r : Report) : (s.report c r).xlats = s.xlats := rfl
@[simp] theorem State.report_nextXlat (s : State) (c : Nat) (r : Report) : (s.report c r).nextXlat = s.nextXlat := rfl
@[simp] theorem State.report_tlb (s : State) (c : Nat) (r : Report) : (s.report c r).tlb = s.tlb := rfl
@[simp] theorem State.report_fetched (s : State) (c : Nat) (r : Report) : (s.report c r).fetched = s.fetched := rfl
@[simp] theorem State.report_stores (s : State) (c : Nat) (r : Report) : (s.report c r).stores = s.stores := rfl
@[simp] theorem State.report_remotes (s : State) (c : Nat) (r : Report) : (s.report c r).remotes = s.remotes := rfl
@[simp] theorem State.report_nextRemote (s : State) (c : Nat) (r : Report) :
    (s.report c r).nextRemote = s.nextRemote := rfl
@[simp] theorem State.report_nextSeq (s : State) (c : Nat) (r : Report) : (s.report c r).nextSeq = s.nextSeq := rfl
@[simp] theorem State.report_inbound (s : State) (c : Nat) (r : Report) : (s.report c r).inbound = s.inbound := rfl
@[simp] theorem State.report_ports (s : State) (c : Nat) (r : Report) : (s.report c r).ports = s.ports := rfl
@[simp] theorem State.report_pcieFailed (s : State) (c : Nat) (r : Report) :
    (s.report c r).pcieFailed = s.pcieFailed := rfl
@[simp] theorem State.report_heldBanks (s : State) (c : Nat) (r : Report) :
    (s.report c r).heldBanks = s.heldBanks := rfl
@[simp] theorem State.report_fencedCtxs (s : State) (c : Nat) (r : Report) :
    (s.report c r).fencedCtxs = s.fencedCtxs := rfl
@[simp] theorem State.report_fencedClusters (s : State) (c : Nat) (r : Report) :
    (s.report c r).fencedClusters = s.fencedClusters := rfl
@[simp] theorem State.report_recordCount (s : State) (c : Nat) (r : Report) :
    (s.report c r).recordCount = s.recordCount := rfl
@[simp] theorem State.report_msix (s : State) (c : Nat) (r : Report) : (s.report c r).msix = s.msix := rfl
@[simp] theorem State.report_doneVectors (s : State) (c : Nat) (r : Report) :
    (s.report c r).doneVectors = s.doneVectors := rfl
@[simp] theorem State.report_answers (s : State) (c : Nat) (r : Report) : (s.report c r).answers = s.answers := rfl
@[simp] theorem State.report_hostReads (s : State) (c : Nat) (r : Report) :
    (s.report c r).hostReads = s.hostReads := rfl
@[simp] theorem State.report_hostCompletions (s : State) (c : Nat) (r : Report) :
    (s.report c r).hostCompletions = s.hostCompletions := rfl
@[simp] theorem State.report_agenda (s : State) (c : Nat) (r : Report) : (s.report c r).agenda = s.agenda := rfl
@[simp] theorem State.report_cur (s : State) (c : Nat) (r : Report) : (s.report c r).cur = s.cur := rfl
@[simp] theorem State.report_picks (s : State) (c : Nat) (r : Report) : (s.report c r).picks = s.picks := rfl
@[simp] theorem State.seal_clock (s : State) (k : Nat) : (s.seal k).clock = s.clock := rfl
@[simp] theorem State.seal_mem (s : State) (k : Nat) : (s.seal k).mem = s.mem := rfl
@[simp] theorem State.seal_badMem (s : State) (k : Nat) : (s.seal k).badMem = s.badMem := rfl
@[simp] theorem State.seal_mgmt (s : State) (k : Nat) : (s.seal k).mgmt = s.mgmt := rfl
@[simp] theorem State.seal_attest (s : State) (k : Nat) : (s.seal k).attest = s.attest := rfl
@[simp] theorem State.seal_firmware (s : State) (k : Nat) : (s.seal k).firmware = s.firmware := rfl
@[simp] theorem State.seal_ctxs (s : State) (k : Nat) : (s.seal k).ctxs = s.ctxs := rfl
@[simp] theorem State.seal_cores (s : State) (k : Nat) : (s.seal k).cores = s.cores := rfl
@[simp] theorem State.seal_launches (s : State) (k : Nat) : (s.seal k).launches = s.launches := rfl
@[simp] theorem State.seal_nextLaunch (s : State) (k : Nat) : (s.seal k).nextLaunch = s.nextLaunch := rfl
@[simp] theorem State.seal_teams (s : State) (k : Nat) : (s.seal k).teams = s.teams := rfl
@[simp] theorem State.seal_nextTeam (s : State) (k : Nat) : (s.seal k).nextTeam = s.nextTeam := rfl
@[simp] theorem State.seal_sqs (s : State) (k : Nat) : (s.seal k).sqs = s.sqs := rfl
@[simp] theorem State.seal_cqs (s : State) (k : Nat) : (s.seal k).cqs = s.cqs := rfl
@[simp] theorem State.seal_lastQueue (s : State) (k : Nat) : (s.seal k).lastQueue = s.lastQueue := rfl
@[simp] theorem State.seal_devQueue (s : State) (k : Nat) : (s.seal k).devQueue = s.devQueue := rfl
@[simp] theorem State.seal_collectives (s : State) (k : Nat) : (s.seal k).collectives = s.collectives := rfl
@[simp] theorem State.seal_nextCollective (s : State) (k : Nat) : (s.seal k).nextCollective = s.nextCollective := rfl
@[simp] theorem State.seal_xlats (s : State) (k : Nat) : (s.seal k).xlats = s.xlats := rfl
@[simp] theorem State.seal_nextXlat (s : State) (k : Nat) : (s.seal k).nextXlat = s.nextXlat := rfl
@[simp] theorem State.seal_tlb (s : State) (k : Nat) : (s.seal k).tlb = s.tlb := rfl
@[simp] theorem State.seal_fetched (s : State) (k : Nat) : (s.seal k).fetched = s.fetched := rfl
@[simp] theorem State.seal_remotes (s : State) (k : Nat) : (s.seal k).remotes = s.remotes := rfl
@[simp] theorem State.seal_nextRemote (s : State) (k : Nat) : (s.seal k).nextRemote = s.nextRemote := rfl
@[simp] theorem State.seal_nextSeq (s : State) (k : Nat) : (s.seal k).nextSeq = s.nextSeq := rfl
@[simp] theorem State.seal_inbound (s : State) (k : Nat) : (s.seal k).inbound = s.inbound := rfl
@[simp] theorem State.seal_ports (s : State) (k : Nat) : (s.seal k).ports = s.ports := rfl
@[simp] theorem State.seal_pcieFailed (s : State) (k : Nat) : (s.seal k).pcieFailed = s.pcieFailed := rfl
@[simp] theorem State.seal_heldBanks (s : State) (k : Nat) : (s.seal k).heldBanks = s.heldBanks := rfl
@[simp] theorem State.seal_fencedCtxs (s : State) (k : Nat) : (s.seal k).fencedCtxs = s.fencedCtxs := rfl
@[simp] theorem State.seal_fencedClusters (s : State) (k : Nat) : (s.seal k).fencedClusters = s.fencedClusters := rfl
@[simp] theorem State.seal_recordCount (s : State) (k : Nat) : (s.seal k).recordCount = s.recordCount := rfl
@[simp] theorem State.seal_msix (s : State) (k : Nat) : (s.seal k).msix = s.msix := rfl
@[simp] theorem State.seal_doneVectors (s : State) (k : Nat) : (s.seal k).doneVectors = s.doneVectors := rfl
@[simp] theorem State.seal_answers (s : State) (k : Nat) : (s.seal k).answers = s.answers := rfl
@[simp] theorem State.seal_hostReads (s : State) (k : Nat) : (s.seal k).hostReads = s.hostReads := rfl
@[simp] theorem State.seal_hostCompletions (s : State) (k : Nat) : (s.seal k).hostCompletions = s.hostCompletions := rfl
@[simp] theorem State.seal_agenda (s : State) (k : Nat) : (s.seal k).agenda = s.agenda := rfl
@[simp] theorem State.seal_cur (s : State) (k : Nat) : (s.seal k).cur = s.cur := rfl
@[simp] theorem State.seal_picks (s : State) (k : Nat) : (s.seal k).picks = s.picks := rfl
@[simp] theorem State.tick_mem (s : State) : (s.tick).mem = s.mem := rfl
@[simp] theorem State.tick_badMem (s : State) : (s.tick).badMem = s.badMem := rfl
@[simp] theorem State.tick_mgmt (s : State) : (s.tick).mgmt = s.mgmt := rfl
@[simp] theorem State.tick_attest (s : State) : (s.tick).attest = s.attest := rfl
@[simp] theorem State.tick_firmware (s : State) : (s.tick).firmware = s.firmware := rfl
@[simp] theorem State.tick_ctxs (s : State) : (s.tick).ctxs = s.ctxs := rfl
@[simp] theorem State.tick_cores (s : State) : (s.tick).cores = s.cores := rfl
@[simp] theorem State.tick_launches (s : State) : (s.tick).launches = s.launches := rfl
@[simp] theorem State.tick_nextLaunch (s : State) : (s.tick).nextLaunch = s.nextLaunch := rfl
@[simp] theorem State.tick_nextTeam (s : State) : (s.tick).nextTeam = s.nextTeam := rfl
@[simp] theorem State.tick_sqs (s : State) : (s.tick).sqs = s.sqs := rfl
@[simp] theorem State.tick_cqs (s : State) : (s.tick).cqs = s.cqs := rfl
@[simp] theorem State.tick_lastQueue (s : State) : (s.tick).lastQueue = s.lastQueue := rfl
@[simp] theorem State.tick_devQueue (s : State) : (s.tick).devQueue = s.devQueue := rfl
@[simp] theorem State.tick_collectives (s : State) : (s.tick).collectives = s.collectives := rfl
@[simp] theorem State.tick_nextCollective (s : State) : (s.tick).nextCollective = s.nextCollective := rfl
@[simp] theorem State.tick_xlats (s : State) : (s.tick).xlats = s.xlats := rfl
@[simp] theorem State.tick_nextXlat (s : State) : (s.tick).nextXlat = s.nextXlat := rfl
@[simp] theorem State.tick_tlb (s : State) : (s.tick).tlb = s.tlb := rfl
@[simp] theorem State.tick_fetched (s : State) : (s.tick).fetched = s.fetched := rfl
@[simp] theorem State.tick_stores (s : State) : (s.tick).stores = s.stores := rfl
@[simp] theorem State.tick_remotes (s : State) : (s.tick).remotes = s.remotes := rfl
@[simp] theorem State.tick_nextRemote (s : State) : (s.tick).nextRemote = s.nextRemote := rfl
@[simp] theorem State.tick_nextSeq (s : State) : (s.tick).nextSeq = s.nextSeq := rfl
@[simp] theorem State.tick_inbound (s : State) : (s.tick).inbound = s.inbound := rfl
@[simp] theorem State.tick_ports (s : State) : (s.tick).ports = s.ports := rfl
@[simp] theorem State.tick_pcieFailed (s : State) : (s.tick).pcieFailed = s.pcieFailed := rfl
@[simp] theorem State.tick_heldBanks (s : State) : (s.tick).heldBanks = s.heldBanks := rfl
@[simp] theorem State.tick_fencedCtxs (s : State) : (s.tick).fencedCtxs = s.fencedCtxs := rfl
@[simp] theorem State.tick_fencedClusters (s : State) : (s.tick).fencedClusters = s.fencedClusters := rfl
@[simp] theorem State.tick_recordCount (s : State) : (s.tick).recordCount = s.recordCount := rfl
@[simp] theorem State.tick_msix (s : State) : (s.tick).msix = s.msix := rfl
@[simp] theorem State.tick_doneVectors (s : State) : (s.tick).doneVectors = s.doneVectors := rfl
@[simp] theorem State.tick_answers (s : State) : (s.tick).answers = s.answers := rfl
@[simp] theorem State.tick_hostReads (s : State) : (s.tick).hostReads = s.hostReads := rfl
@[simp] theorem State.tick_hostCompletions (s : State) : (s.tick).hostCompletions = s.hostCompletions := rfl
@[simp] theorem State.tick_agenda (s : State) : (s.tick).agenda = s.agenda := rfl
@[simp] theorem State.tick_picks (s : State) : (s.tick).picks = s.picks := rfl

/-! ### Teams, threads and front threads -/

@[simp] theorem Team.setThread_ctx (T : Team) (t : Nat) (h : Thread) : (T.setThread t h).ctx = T.ctx := rfl
@[simp] theorem Team.setThread_launch (T : Team) (t : Nat) (h : Thread) : (T.setThread t h).launch = T.launch := rfl
@[simp] theorem Team.setThread_ix (T : Team) (t : Nat) (h : Thread) : (T.setThread t h).ix = T.ix := rfl
@[simp] theorem Team.setThread_gang (T : Team) (t : Nat) (h : Thread) : (T.setThread t h).gang = T.gang := rfl
@[simp] theorem Team.setThread_x (T : Team) (t : Nat) (h : Thread) : (T.setThread t h).x = T.x := rfl
@[simp] theorem Team.setThread_y (T : Team) (t : Nat) (h : Thread) : (T.setThread t h).y = T.y := rfl
@[simp] theorem Team.setThread_z (T : Team) (t : Nat) (h : Thread) : (T.setThread t h).z = T.z := rfl
@[simp] theorem Team.setThread_status (T : Team) (t : Nat) (h : Thread) : (T.setThread t h).status = T.status := rfl
@[simp] theorem Team.setThread_core (T : Team) (t : Nat) (h : Thread) : (T.setThread t h).core = T.core := rfl
@[simp] theorem Team.setThread_base (T : Team) (t : Nat) (h : Thread) : (T.setThread t h).base = T.base := rfl
@[simp] theorem Team.setThread_avoidCluster (T : Team) (t : Nat) (h : Thread) :
    (T.setThread t h).avoidCluster = T.avoidCluster := rfl
@[simp] theorem Team.setThread_relaunches (T : Team) (t : Nat) (h : Thread) :
    (T.setThread t h).relaunches = T.relaunches := rfl
@[simp] theorem Team.setThread_width (T : Team) (t : Nat) (h : Thread) : (T.setThread t h).width = T.width := rfl
@[simp] theorem Team.setThread_producers (T : Team) (t : Nat) (h : Thread) :
    (T.setThread t h).producers = T.producers := rfl
@[simp] theorem Team.setThread_consumers (T : Team) (t : Nat) (h : Thread) :
    (T.setThread t h).consumers = T.consumers := rfl
@[simp] theorem Team.setThread_size (T : Team) (t : Nat) (h : Thread) : (T.setThread t h).size = T.size := rfl
@[simp] theorem Team.setThread_priority (T : Team) (t : Nat) (h : Thread) :
    (T.setThread t h).priority = T.priority := rfl
@[simp] theorem Team.setThread_args (T : Team) (t : Nat) (h : Thread) : (T.setThread t h).args = T.args := rfl
@[simp] theorem Team.setThread_argAddr (T : Team) (t : Nat) (h : Thread) : (T.setThread t h).argAddr = T.argAddr := rfl
@[simp] theorem Team.setThread_argSize (T : Team) (t : Nat) (h : Thread) : (T.setThread t h).argSize = T.argSize := rfl
@[simp] theorem Team.setThread_entry (T : Team) (t : Nat) (h : Thread) : (T.setThread t h).entry = T.entry := rfl
@[simp] theorem Team.setThread_groups (T : Team) (t : Nat) (h : Thread) : (T.setThread t h).groups = T.groups := rfl
@[simp] theorem Team.setThread_front (T : Team) (t : Nat) (h : Thread) : (T.setThread t h).front = T.front := rfl
@[simp] theorem Team.setThread_sp (T : Team) (t : Nat) (h : Thread) : (T.setThread t h).sp = T.sp := rfl
@[simp] theorem Team.setThread_nbs (T : Team) (t : Nat) (h : Thread) : (T.setThread t h).nbs = T.nbs := rfl
@[simp] theorem Team.setThread_ports (T : Team) (t : Nat) (h : Thread) : (T.setThread t h).ports = T.ports := rfl
@[simp] theorem Team.setThread_wing (T : Team) (t : Nat) (h : Thread) : (T.setThread t h).wing = T.wing := rfl
@[simp] theorem Team.setThread_windows (T : Team) (t : Nat) (h : Thread) : (T.setThread t h).windows = T.windows := rfl
@[simp] theorem Team.setThread_rseed (T : Team) (t : Nat) (h : Thread) : (T.setThread t h).rseed = T.rseed := rfl
@[simp] theorem Team.setThread_replay (T : Team) (t : Nat) (h : Thread) : (T.setThread t h).replay = T.replay := rfl
@[simp] theorem Team.setThread_bprio (T : Team) (t : Nat) (h : Thread) : (T.setThread t h).bprio = T.bprio := rfl
@[simp] theorem Team.setThread_mx (T : Team) (t : Nat) (h : Thread) : (T.setThread t h).mx = T.mx := rfl
@[simp] theorem Team.setThread_rsh (T : Team) (t : Nat) (h : Thread) : (T.setThread t h).rsh = T.rsh := rfl
@[simp] theorem Team.setThread_chain (T : Team) (t : Nat) (h : Thread) : (T.setThread t h).chain = T.chain := rfl
@[simp] theorem Team.setThread_revocable (T : Team) (t : Nat) (h : Thread) :
    (T.setThread t h).revocable = T.revocable := rfl
@[simp] theorem Team.setThread_porchSlot (T : Team) (t : Nat) (h : Thread) :
    (T.setThread t h).porchSlot = T.porchSlot := rfl
@[simp] theorem Team.setThread_porch (T : Team) (t : Nat) (h : Thread) : (T.setThread t h).porch = T.porch := rfl
@[simp] theorem Team.setThread_copies (T : Team) (t : Nat) (h : Thread) : (T.setThread t h).copies = T.copies := rfl
@[simp] theorem Team.setThread_nextCopy (T : Team) (t : Nat) (h : Thread) :
    (T.setThread t h).nextCopy = T.nextCopy := rfl
@[simp] theorem Team.setThread_started (T : Team) (t : Nat) (h : Thread) : (T.setThread t h).started = T.started := rfl
@[simp] theorem Team.setThread_dying (T : Team) (t : Nat) (h : Thread) : (T.setThread t h).dying = T.dying := rfl
@[simp] theorem Team.setThread_fault (T : Team) (t : Nat) (h : Thread) : (T.setThread t h).fault = T.fault := rfl
@[simp] theorem Team.setThread_lastPaths (T : Team) (t : Nat) (h : Thread) :
    (T.setThread t h).lastPaths = T.lastPaths := rfl
@[simp] theorem Team.setThread_lastGroup (T : Team) (t : Nat) (h : Thread) :
    (T.setThread t h).lastGroup = T.lastGroup := rfl
@[simp] theorem Team.setThread_ages (T : Team) (t : Nat) (h : Thread) : (T.setThread t h).ages = T.ages := rfl
@[simp] theorem Team.setGroup_ctx (T : Team) (g : Nat) (G : Group) : (T.setGroup g G).ctx = T.ctx := rfl
@[simp] theorem Team.setGroup_launch (T : Team) (g : Nat) (G : Group) : (T.setGroup g G).launch = T.launch := rfl
@[simp] theorem Team.setGroup_ix (T : Team) (g : Nat) (G : Group) : (T.setGroup g G).ix = T.ix := rfl
@[simp] theorem Team.setGroup_gang (T : Team) (g : Nat) (G : Group) : (T.setGroup g G).gang = T.gang := rfl
@[simp] theorem Team.setGroup_x (T : Team) (g : Nat) (G : Group) : (T.setGroup g G).x = T.x := rfl
@[simp] theorem Team.setGroup_y (T : Team) (g : Nat) (G : Group) : (T.setGroup g G).y = T.y := rfl
@[simp] theorem Team.setGroup_z (T : Team) (g : Nat) (G : Group) : (T.setGroup g G).z = T.z := rfl
@[simp] theorem Team.setGroup_status (T : Team) (g : Nat) (G : Group) : (T.setGroup g G).status = T.status := rfl
@[simp] theorem Team.setGroup_core (T : Team) (g : Nat) (G : Group) : (T.setGroup g G).core = T.core := rfl
@[simp] theorem Team.setGroup_base (T : Team) (g : Nat) (G : Group) : (T.setGroup g G).base = T.base := rfl
@[simp] theorem Team.setGroup_avoidCluster (T : Team) (g : Nat) (G : Group) :
    (T.setGroup g G).avoidCluster = T.avoidCluster := rfl
@[simp] theorem Team.setGroup_relaunches (T : Team) (g : Nat) (G : Group) :
    (T.setGroup g G).relaunches = T.relaunches := rfl
@[simp] theorem Team.setGroup_width (T : Team) (g : Nat) (G : Group) : (T.setGroup g G).width = T.width := rfl
@[simp] theorem Team.setGroup_producers (T : Team) (g : Nat) (G : Group) :
    (T.setGroup g G).producers = T.producers := rfl
@[simp] theorem Team.setGroup_consumers (T : Team) (g : Nat) (G : Group) :
    (T.setGroup g G).consumers = T.consumers := rfl
@[simp] theorem Team.setGroup_size (T : Team) (g : Nat) (G : Group) : (T.setGroup g G).size = T.size := rfl
@[simp] theorem Team.setGroup_priority (T : Team) (g : Nat) (G : Group) : (T.setGroup g G).priority = T.priority := rfl
@[simp] theorem Team.setGroup_args (T : Team) (g : Nat) (G : Group) : (T.setGroup g G).args = T.args := rfl
@[simp] theorem Team.setGroup_argAddr (T : Team) (g : Nat) (G : Group) : (T.setGroup g G).argAddr = T.argAddr := rfl
@[simp] theorem Team.setGroup_argSize (T : Team) (g : Nat) (G : Group) : (T.setGroup g G).argSize = T.argSize := rfl
@[simp] theorem Team.setGroup_entry (T : Team) (g : Nat) (G : Group) : (T.setGroup g G).entry = T.entry := rfl
@[simp] theorem Team.setGroup_threads (T : Team) (g : Nat) (G : Group) : (T.setGroup g G).threads = T.threads := rfl
@[simp] theorem Team.setGroup_front (T : Team) (g : Nat) (G : Group) : (T.setGroup g G).front = T.front := rfl
@[simp] theorem Team.setGroup_sp (T : Team) (g : Nat) (G : Group) : (T.setGroup g G).sp = T.sp := rfl
@[simp] theorem Team.setGroup_nbs (T : Team) (g : Nat) (G : Group) : (T.setGroup g G).nbs = T.nbs := rfl
@[simp] theorem Team.setGroup_ports (T : Team) (g : Nat) (G : Group) : (T.setGroup g G).ports = T.ports := rfl
@[simp] theorem Team.setGroup_wing (T : Team) (g : Nat) (G : Group) : (T.setGroup g G).wing = T.wing := rfl
@[simp] theorem Team.setGroup_windows (T : Team) (g : Nat) (G : Group) : (T.setGroup g G).windows = T.windows := rfl
@[simp] theorem Team.setGroup_rseed (T : Team) (g : Nat) (G : Group) : (T.setGroup g G).rseed = T.rseed := rfl
@[simp] theorem Team.setGroup_replay (T : Team) (g : Nat) (G : Group) : (T.setGroup g G).replay = T.replay := rfl
@[simp] theorem Team.setGroup_bprio (T : Team) (g : Nat) (G : Group) : (T.setGroup g G).bprio = T.bprio := rfl
@[simp] theorem Team.setGroup_mx (T : Team) (g : Nat) (G : Group) : (T.setGroup g G).mx = T.mx := rfl
@[simp] theorem Team.setGroup_rsh (T : Team) (g : Nat) (G : Group) : (T.setGroup g G).rsh = T.rsh := rfl
@[simp] theorem Team.setGroup_chain (T : Team) (g : Nat) (G : Group) : (T.setGroup g G).chain = T.chain := rfl
@[simp] theorem Team.setGroup_revocable (T : Team) (g : Nat) (G : Group) :
    (T.setGroup g G).revocable = T.revocable := rfl
@[simp] theorem Team.setGroup_porchSlot (T : Team) (g : Nat) (G : Group) :
    (T.setGroup g G).porchSlot = T.porchSlot := rfl
@[simp] theorem Team.setGroup_porch (T : Team) (g : Nat) (G : Group) : (T.setGroup g G).porch = T.porch := rfl
@[simp] theorem Team.setGroup_copies (T : Team) (g : Nat) (G : Group) : (T.setGroup g G).copies = T.copies := rfl
@[simp] theorem Team.setGroup_nextCopy (T : Team) (g : Nat) (G : Group) : (T.setGroup g G).nextCopy = T.nextCopy := rfl
@[simp] theorem Team.setGroup_started (T : Team) (g : Nat) (G : Group) : (T.setGroup g G).started = T.started := rfl
@[simp] theorem Team.setGroup_dying (T : Team) (g : Nat) (G : Group) : (T.setGroup g G).dying = T.dying := rfl
@[simp] theorem Team.setGroup_fault (T : Team) (g : Nat) (G : Group) : (T.setGroup g G).fault = T.fault := rfl
@[simp] theorem Team.setGroup_lastPaths (T : Team) (g : Nat) (G : Group) :
    (T.setGroup g G).lastPaths = T.lastPaths := rfl
@[simp] theorem Team.setGroup_lastGroup (T : Team) (g : Nat) (G : Group) :
    (T.setGroup g G).lastGroup = T.lastGroup := rfl
@[simp] theorem Team.setGroup_ages (T : Team) (g : Nat) (G : Group) : (T.setGroup g G).ages = T.ages := rfl
@[simp] theorem Team.modGroup_ctx (T : Team) (g : Nat) (f : Group → Group) : (T.modGroup g f).ctx = T.ctx := rfl
@[simp] theorem Team.modGroup_launch (T : Team) (g : Nat) (f : Group → Group) :
    (T.modGroup g f).launch = T.launch := rfl
@[simp] theorem Team.modGroup_ix (T : Team) (g : Nat) (f : Group → Group) : (T.modGroup g f).ix = T.ix := rfl
@[simp] theorem Team.modGroup_gang (T : Team) (g : Nat) (f : Group → Group) : (T.modGroup g f).gang = T.gang := rfl
@[simp] theorem Team.modGroup_x (T : Team) (g : Nat) (f : Group → Group) : (T.modGroup g f).x = T.x := rfl
@[simp] theorem Team.modGroup_y (T : Team) (g : Nat) (f : Group → Group) : (T.modGroup g f).y = T.y := rfl
@[simp] theorem Team.modGroup_z (T : Team) (g : Nat) (f : Group → Group) : (T.modGroup g f).z = T.z := rfl
@[simp] theorem Team.modGroup_status (T : Team) (g : Nat) (f : Group → Group) :
    (T.modGroup g f).status = T.status := rfl
@[simp] theorem Team.modGroup_core (T : Team) (g : Nat) (f : Group → Group) : (T.modGroup g f).core = T.core := rfl
@[simp] theorem Team.modGroup_base (T : Team) (g : Nat) (f : Group → Group) : (T.modGroup g f).base = T.base := rfl
@[simp] theorem Team.modGroup_avoidCluster (T : Team) (g : Nat) (f : Group → Group) :
    (T.modGroup g f).avoidCluster = T.avoidCluster := rfl
@[simp] theorem Team.modGroup_relaunches (T : Team) (g : Nat) (f : Group → Group) :
    (T.modGroup g f).relaunches = T.relaunches := rfl
@[simp] theorem Team.modGroup_width (T : Team) (g : Nat) (f : Group → Group) : (T.modGroup g f).width = T.width := rfl
@[simp] theorem Team.modGroup_producers (T : Team) (g : Nat) (f : Group → Group) :
    (T.modGroup g f).producers = T.producers := rfl
@[simp] theorem Team.modGroup_consumers (T : Team) (g : Nat) (f : Group → Group) :
    (T.modGroup g f).consumers = T.consumers := rfl
@[simp] theorem Team.modGroup_size (T : Team) (g : Nat) (f : Group → Group) : (T.modGroup g f).size = T.size := rfl
@[simp] theorem Team.modGroup_priority (T : Team) (g : Nat) (f : Group → Group) :
    (T.modGroup g f).priority = T.priority := rfl
@[simp] theorem Team.modGroup_args (T : Team) (g : Nat) (f : Group → Group) : (T.modGroup g f).args = T.args := rfl
@[simp] theorem Team.modGroup_argAddr (T : Team) (g : Nat) (f : Group → Group) :
    (T.modGroup g f).argAddr = T.argAddr := rfl
@[simp] theorem Team.modGroup_argSize (T : Team) (g : Nat) (f : Group → Group) :
    (T.modGroup g f).argSize = T.argSize := rfl
@[simp] theorem Team.modGroup_entry (T : Team) (g : Nat) (f : Group → Group) : (T.modGroup g f).entry = T.entry := rfl
@[simp] theorem Team.modGroup_threads (T : Team) (g : Nat) (f : Group → Group) :
    (T.modGroup g f).threads = T.threads := rfl
@[simp] theorem Team.modGroup_front (T : Team) (g : Nat) (f : Group → Group) : (T.modGroup g f).front = T.front := rfl
@[simp] theorem Team.modGroup_sp (T : Team) (g : Nat) (f : Group → Group) : (T.modGroup g f).sp = T.sp := rfl
@[simp] theorem Team.modGroup_nbs (T : Team) (g : Nat) (f : Group → Group) : (T.modGroup g f).nbs = T.nbs := rfl
@[simp] theorem Team.modGroup_ports (T : Team) (g : Nat) (f : Group → Group) : (T.modGroup g f).ports = T.ports := rfl
@[simp] theorem Team.modGroup_wing (T : Team) (g : Nat) (f : Group → Group) : (T.modGroup g f).wing = T.wing := rfl
@[simp] theorem Team.modGroup_windows (T : Team) (g : Nat) (f : Group → Group) :
    (T.modGroup g f).windows = T.windows := rfl
@[simp] theorem Team.modGroup_rseed (T : Team) (g : Nat) (f : Group → Group) : (T.modGroup g f).rseed = T.rseed := rfl
@[simp] theorem Team.modGroup_replay (T : Team) (g : Nat) (f : Group → Group) :
    (T.modGroup g f).replay = T.replay := rfl
@[simp] theorem Team.modGroup_bprio (T : Team) (g : Nat) (f : Group → Group) : (T.modGroup g f).bprio = T.bprio := rfl
@[simp] theorem Team.modGroup_mx (T : Team) (g : Nat) (f : Group → Group) : (T.modGroup g f).mx = T.mx := rfl
@[simp] theorem Team.modGroup_rsh (T : Team) (g : Nat) (f : Group → Group) : (T.modGroup g f).rsh = T.rsh := rfl
@[simp] theorem Team.modGroup_chain (T : Team) (g : Nat) (f : Group → Group) : (T.modGroup g f).chain = T.chain := rfl
@[simp] theorem Team.modGroup_revocable (T : Team) (g : Nat) (f : Group → Group) :
    (T.modGroup g f).revocable = T.revocable := rfl
@[simp] theorem Team.modGroup_porchSlot (T : Team) (g : Nat) (f : Group → Group) :
    (T.modGroup g f).porchSlot = T.porchSlot := rfl
@[simp] theorem Team.modGroup_porch (T : Team) (g : Nat) (f : Group → Group) : (T.modGroup g f).porch = T.porch := rfl
@[simp] theorem Team.modGroup_copies (T : Team) (g : Nat) (f : Group → Group) :
    (T.modGroup g f).copies = T.copies := rfl
@[simp] theorem Team.modGroup_nextCopy (T : Team) (g : Nat) (f : Group → Group) :
    (T.modGroup g f).nextCopy = T.nextCopy := rfl
@[simp] theorem Team.modGroup_started (T : Team) (g : Nat) (f : Group → Group) :
    (T.modGroup g f).started = T.started := rfl
@[simp] theorem Team.modGroup_dying (T : Team) (g : Nat) (f : Group → Group) : (T.modGroup g f).dying = T.dying := rfl
@[simp] theorem Team.modGroup_fault (T : Team) (g : Nat) (f : Group → Group) : (T.modGroup g f).fault = T.fault := rfl
@[simp] theorem Team.modGroup_lastPaths (T : Team) (g : Nat) (f : Group → Group) :
    (T.modGroup g f).lastPaths = T.lastPaths := rfl
@[simp] theorem Team.modGroup_lastGroup (T : Team) (g : Nat) (f : Group → Group) :
    (T.modGroup g f).lastGroup = T.lastGroup := rfl
@[simp] theorem Team.modGroup_ages (T : Team) (g : Nat) (f : Group → Group) : (T.modGroup g f).ages = T.ages := rfl
@[simp] theorem Team.setNb_ctx (T : Team) (k : Nat) (B : Barrier) : (T.setNb k B).ctx = T.ctx := rfl
@[simp] theorem Team.setNb_launch (T : Team) (k : Nat) (B : Barrier) : (T.setNb k B).launch = T.launch := rfl
@[simp] theorem Team.setNb_ix (T : Team) (k : Nat) (B : Barrier) : (T.setNb k B).ix = T.ix := rfl
@[simp] theorem Team.setNb_gang (T : Team) (k : Nat) (B : Barrier) : (T.setNb k B).gang = T.gang := rfl
@[simp] theorem Team.setNb_x (T : Team) (k : Nat) (B : Barrier) : (T.setNb k B).x = T.x := rfl
@[simp] theorem Team.setNb_y (T : Team) (k : Nat) (B : Barrier) : (T.setNb k B).y = T.y := rfl
@[simp] theorem Team.setNb_z (T : Team) (k : Nat) (B : Barrier) : (T.setNb k B).z = T.z := rfl
@[simp] theorem Team.setNb_status (T : Team) (k : Nat) (B : Barrier) : (T.setNb k B).status = T.status := rfl
@[simp] theorem Team.setNb_core (T : Team) (k : Nat) (B : Barrier) : (T.setNb k B).core = T.core := rfl
@[simp] theorem Team.setNb_base (T : Team) (k : Nat) (B : Barrier) : (T.setNb k B).base = T.base := rfl
@[simp] theorem Team.setNb_avoidCluster (T : Team) (k : Nat) (B : Barrier) :
    (T.setNb k B).avoidCluster = T.avoidCluster := rfl
@[simp] theorem Team.setNb_relaunches (T : Team) (k : Nat) (B : Barrier) :
    (T.setNb k B).relaunches = T.relaunches := rfl
@[simp] theorem Team.setNb_width (T : Team) (k : Nat) (B : Barrier) : (T.setNb k B).width = T.width := rfl
@[simp] theorem Team.setNb_producers (T : Team) (k : Nat) (B : Barrier) : (T.setNb k B).producers = T.producers := rfl
@[simp] theorem Team.setNb_consumers (T : Team) (k : Nat) (B : Barrier) : (T.setNb k B).consumers = T.consumers := rfl
@[simp] theorem Team.setNb_size (T : Team) (k : Nat) (B : Barrier) : (T.setNb k B).size = T.size := rfl
@[simp] theorem Team.setNb_priority (T : Team) (k : Nat) (B : Barrier) : (T.setNb k B).priority = T.priority := rfl
@[simp] theorem Team.setNb_args (T : Team) (k : Nat) (B : Barrier) : (T.setNb k B).args = T.args := rfl
@[simp] theorem Team.setNb_argAddr (T : Team) (k : Nat) (B : Barrier) : (T.setNb k B).argAddr = T.argAddr := rfl
@[simp] theorem Team.setNb_argSize (T : Team) (k : Nat) (B : Barrier) : (T.setNb k B).argSize = T.argSize := rfl
@[simp] theorem Team.setNb_entry (T : Team) (k : Nat) (B : Barrier) : (T.setNb k B).entry = T.entry := rfl
@[simp] theorem Team.setNb_groups (T : Team) (k : Nat) (B : Barrier) : (T.setNb k B).groups = T.groups := rfl
@[simp] theorem Team.setNb_threads (T : Team) (k : Nat) (B : Barrier) : (T.setNb k B).threads = T.threads := rfl
@[simp] theorem Team.setNb_front (T : Team) (k : Nat) (B : Barrier) : (T.setNb k B).front = T.front := rfl
@[simp] theorem Team.setNb_sp (T : Team) (k : Nat) (B : Barrier) : (T.setNb k B).sp = T.sp := rfl
@[simp] theorem Team.setNb_ports (T : Team) (k : Nat) (B : Barrier) : (T.setNb k B).ports = T.ports := rfl
@[simp] theorem Team.setNb_wing (T : Team) (k : Nat) (B : Barrier) : (T.setNb k B).wing = T.wing := rfl
@[simp] theorem Team.setNb_windows (T : Team) (k : Nat) (B : Barrier) : (T.setNb k B).windows = T.windows := rfl
@[simp] theorem Team.setNb_rseed (T : Team) (k : Nat) (B : Barrier) : (T.setNb k B).rseed = T.rseed := rfl
@[simp] theorem Team.setNb_replay (T : Team) (k : Nat) (B : Barrier) : (T.setNb k B).replay = T.replay := rfl
@[simp] theorem Team.setNb_bprio (T : Team) (k : Nat) (B : Barrier) : (T.setNb k B).bprio = T.bprio := rfl
@[simp] theorem Team.setNb_mx (T : Team) (k : Nat) (B : Barrier) : (T.setNb k B).mx = T.mx := rfl
@[simp] theorem Team.setNb_rsh (T : Team) (k : Nat) (B : Barrier) : (T.setNb k B).rsh = T.rsh := rfl
@[simp] theorem Team.setNb_chain (T : Team) (k : Nat) (B : Barrier) : (T.setNb k B).chain = T.chain := rfl
@[simp] theorem Team.setNb_revocable (T : Team) (k : Nat) (B : Barrier) : (T.setNb k B).revocable = T.revocable := rfl
@[simp] theorem Team.setNb_porchSlot (T : Team) (k : Nat) (B : Barrier) : (T.setNb k B).porchSlot = T.porchSlot := rfl
@[simp] theorem Team.setNb_porch (T : Team) (k : Nat) (B : Barrier) : (T.setNb k B).porch = T.porch := rfl
@[simp] theorem Team.setNb_copies (T : Team) (k : Nat) (B : Barrier) : (T.setNb k B).copies = T.copies := rfl
@[simp] theorem Team.setNb_nextCopy (T : Team) (k : Nat) (B : Barrier) : (T.setNb k B).nextCopy = T.nextCopy := rfl
@[simp] theorem Team.setNb_started (T : Team) (k : Nat) (B : Barrier) : (T.setNb k B).started = T.started := rfl
@[simp] theorem Team.setNb_dying (T : Team) (k : Nat) (B : Barrier) : (T.setNb k B).dying = T.dying := rfl
@[simp] theorem Team.setNb_fault (T : Team) (k : Nat) (B : Barrier) : (T.setNb k B).fault = T.fault := rfl
@[simp] theorem Team.setNb_lastPaths (T : Team) (k : Nat) (B : Barrier) : (T.setNb k B).lastPaths = T.lastPaths := rfl
@[simp] theorem Team.setNb_lastGroup (T : Team) (k : Nat) (B : Barrier) : (T.setNb k B).lastGroup = T.lastGroup := rfl
@[simp] theorem Team.setNb_ages (T : Team) (k : Nat) (B : Barrier) : (T.setNb k B).ages = T.ages := rfl
@[simp] theorem Team.age_ctx (T : Team) (c : Nat) (r : Nat × Thread → Bool) : (T.age c r).ctx = T.ctx := rfl
@[simp] theorem Team.age_launch (T : Team) (c : Nat) (r : Nat × Thread → Bool) : (T.age c r).launch = T.launch := rfl
@[simp] theorem Team.age_ix (T : Team) (c : Nat) (r : Nat × Thread → Bool) : (T.age c r).ix = T.ix := rfl
@[simp] theorem Team.age_gang (T : Team) (c : Nat) (r : Nat × Thread → Bool) : (T.age c r).gang = T.gang := rfl
@[simp] theorem Team.age_x (T : Team) (c : Nat) (r : Nat × Thread → Bool) : (T.age c r).x = T.x := rfl
@[simp] theorem Team.age_y (T : Team) (c : Nat) (r : Nat × Thread → Bool) : (T.age c r).y = T.y := rfl
@[simp] theorem Team.age_z (T : Team) (c : Nat) (r : Nat × Thread → Bool) : (T.age c r).z = T.z := rfl
@[simp] theorem Team.age_status (T : Team) (c : Nat) (r : Nat × Thread → Bool) : (T.age c r).status = T.status := rfl
@[simp] theorem Team.age_core (T : Team) (c : Nat) (r : Nat × Thread → Bool) : (T.age c r).core = T.core := rfl
@[simp] theorem Team.age_base (T : Team) (c : Nat) (r : Nat × Thread → Bool) : (T.age c r).base = T.base := rfl
@[simp] theorem Team.age_avoidCluster (T : Team) (c : Nat) (r : Nat × Thread → Bool) :
    (T.age c r).avoidCluster = T.avoidCluster := rfl
@[simp] theorem Team.age_relaunches (T : Team) (c : Nat) (r : Nat × Thread → Bool) :
    (T.age c r).relaunches = T.relaunches := rfl
@[simp] theorem Team.age_width (T : Team) (c : Nat) (r : Nat × Thread → Bool) : (T.age c r).width = T.width := rfl
@[simp] theorem Team.age_producers (T : Team) (c : Nat) (r : Nat × Thread → Bool) :
    (T.age c r).producers = T.producers := rfl
@[simp] theorem Team.age_consumers (T : Team) (c : Nat) (r : Nat × Thread → Bool) :
    (T.age c r).consumers = T.consumers := rfl
@[simp] theorem Team.age_size (T : Team) (c : Nat) (r : Nat × Thread → Bool) : (T.age c r).size = T.size := rfl
@[simp] theorem Team.age_priority (T : Team) (c : Nat) (r : Nat × Thread → Bool) :
    (T.age c r).priority = T.priority := rfl
@[simp] theorem Team.age_args (T : Team) (c : Nat) (r : Nat × Thread → Bool) : (T.age c r).args = T.args := rfl
@[simp] theorem Team.age_argAddr (T : Team) (c : Nat) (r : Nat × Thread → Bool) : (T.age c r).argAddr = T.argAddr := rfl
@[simp] theorem Team.age_argSize (T : Team) (c : Nat) (r : Nat × Thread → Bool) : (T.age c r).argSize = T.argSize := rfl
@[simp] theorem Team.age_entry (T : Team) (c : Nat) (r : Nat × Thread → Bool) : (T.age c r).entry = T.entry := rfl
@[simp] theorem Team.age_groups (T : Team) (c : Nat) (r : Nat × Thread → Bool) : (T.age c r).groups = T.groups := rfl
@[simp] theorem Team.age_threads (T : Team) (c : Nat) (r : Nat × Thread → Bool) : (T.age c r).threads = T.threads := rfl
@[simp] theorem Team.age_front (T : Team) (c : Nat) (r : Nat × Thread → Bool) : (T.age c r).front = T.front := rfl
@[simp] theorem Team.age_sp (T : Team) (c : Nat) (r : Nat × Thread → Bool) : (T.age c r).sp = T.sp := rfl
@[simp] theorem Team.age_nbs (T : Team) (c : Nat) (r : Nat × Thread → Bool) : (T.age c r).nbs = T.nbs := rfl
@[simp] theorem Team.age_ports (T : Team) (c : Nat) (r : Nat × Thread → Bool) : (T.age c r).ports = T.ports := rfl
@[simp] theorem Team.age_wing (T : Team) (c : Nat) (r : Nat × Thread → Bool) : (T.age c r).wing = T.wing := rfl
@[simp] theorem Team.age_windows (T : Team) (c : Nat) (r : Nat × Thread → Bool) : (T.age c r).windows = T.windows := rfl
@[simp] theorem Team.age_rseed (T : Team) (c : Nat) (r : Nat × Thread → Bool) : (T.age c r).rseed = T.rseed := rfl
@[simp] theorem Team.age_replay (T : Team) (c : Nat) (r : Nat × Thread → Bool) : (T.age c r).replay = T.replay := rfl
@[simp] theorem Team.age_bprio (T : Team) (c : Nat) (r : Nat × Thread → Bool) : (T.age c r).bprio = T.bprio := rfl
@[simp] theorem Team.age_mx (T : Team) (c : Nat) (r : Nat × Thread → Bool) : (T.age c r).mx = T.mx := rfl
@[simp] theorem Team.age_rsh (T : Team) (c : Nat) (r : Nat × Thread → Bool) : (T.age c r).rsh = T.rsh := rfl
@[simp] theorem Team.age_chain (T : Team) (c : Nat) (r : Nat × Thread → Bool) : (T.age c r).chain = T.chain := rfl
@[simp] theorem Team.age_revocable (T : Team) (c : Nat) (r : Nat × Thread → Bool) :
    (T.age c r).revocable = T.revocable := rfl
@[simp] theorem Team.age_porchSlot (T : Team) (c : Nat) (r : Nat × Thread → Bool) :
    (T.age c r).porchSlot = T.porchSlot := rfl
@[simp] theorem Team.age_porch (T : Team) (c : Nat) (r : Nat × Thread → Bool) : (T.age c r).porch = T.porch := rfl
@[simp] theorem Team.age_copies (T : Team) (c : Nat) (r : Nat × Thread → Bool) : (T.age c r).copies = T.copies := rfl
@[simp] theorem Team.age_nextCopy (T : Team) (c : Nat) (r : Nat × Thread → Bool) :
    (T.age c r).nextCopy = T.nextCopy := rfl
@[simp] theorem Team.age_started (T : Team) (c : Nat) (r : Nat × Thread → Bool) : (T.age c r).started = T.started := rfl
@[simp] theorem Team.age_dying (T : Team) (c : Nat) (r : Nat × Thread → Bool) : (T.age c r).dying = T.dying := rfl
@[simp] theorem Team.age_fault (T : Team) (c : Nat) (r : Nat × Thread → Bool) : (T.age c r).fault = T.fault := rfl
@[simp] theorem Team.age_lastPaths (T : Team) (c : Nat) (r : Nat × Thread → Bool) :
    (T.age c r).lastPaths = T.lastPaths := rfl
@[simp] theorem Team.age_lastGroup (T : Team) (c : Nat) (r : Nat × Thread → Bool) :
    (T.age c r).lastGroup = T.lastGroup := rfl
@[simp] theorem Team.issued_ctx (T : Team) (ts : List Nat) : (T.issued ts).ctx = T.ctx := rfl
@[simp] theorem Team.issued_launch (T : Team) (ts : List Nat) : (T.issued ts).launch = T.launch := rfl
@[simp] theorem Team.issued_ix (T : Team) (ts : List Nat) : (T.issued ts).ix = T.ix := rfl
@[simp] theorem Team.issued_gang (T : Team) (ts : List Nat) : (T.issued ts).gang = T.gang := rfl
@[simp] theorem Team.issued_x (T : Team) (ts : List Nat) : (T.issued ts).x = T.x := rfl
@[simp] theorem Team.issued_y (T : Team) (ts : List Nat) : (T.issued ts).y = T.y := rfl
@[simp] theorem Team.issued_z (T : Team) (ts : List Nat) : (T.issued ts).z = T.z := rfl
@[simp] theorem Team.issued_status (T : Team) (ts : List Nat) : (T.issued ts).status = T.status := rfl
@[simp] theorem Team.issued_core (T : Team) (ts : List Nat) : (T.issued ts).core = T.core := rfl
@[simp] theorem Team.issued_base (T : Team) (ts : List Nat) : (T.issued ts).base = T.base := rfl
@[simp] theorem Team.issued_avoidCluster (T : Team) (ts : List Nat) : (T.issued ts).avoidCluster = T.avoidCluster := rfl
@[simp] theorem Team.issued_relaunches (T : Team) (ts : List Nat) : (T.issued ts).relaunches = T.relaunches := rfl
@[simp] theorem Team.issued_width (T : Team) (ts : List Nat) : (T.issued ts).width = T.width := rfl
@[simp] theorem Team.issued_producers (T : Team) (ts : List Nat) : (T.issued ts).producers = T.producers := rfl
@[simp] theorem Team.issued_consumers (T : Team) (ts : List Nat) : (T.issued ts).consumers = T.consumers := rfl
@[simp] theorem Team.issued_size (T : Team) (ts : List Nat) : (T.issued ts).size = T.size := rfl
@[simp] theorem Team.issued_priority (T : Team) (ts : List Nat) : (T.issued ts).priority = T.priority := rfl
@[simp] theorem Team.issued_args (T : Team) (ts : List Nat) : (T.issued ts).args = T.args := rfl
@[simp] theorem Team.issued_argAddr (T : Team) (ts : List Nat) : (T.issued ts).argAddr = T.argAddr := rfl
@[simp] theorem Team.issued_argSize (T : Team) (ts : List Nat) : (T.issued ts).argSize = T.argSize := rfl
@[simp] theorem Team.issued_entry (T : Team) (ts : List Nat) : (T.issued ts).entry = T.entry := rfl
@[simp] theorem Team.issued_groups (T : Team) (ts : List Nat) : (T.issued ts).groups = T.groups := rfl
@[simp] theorem Team.issued_threads (T : Team) (ts : List Nat) : (T.issued ts).threads = T.threads := rfl
@[simp] theorem Team.issued_front (T : Team) (ts : List Nat) : (T.issued ts).front = T.front := rfl
@[simp] theorem Team.issued_sp (T : Team) (ts : List Nat) : (T.issued ts).sp = T.sp := rfl
@[simp] theorem Team.issued_nbs (T : Team) (ts : List Nat) : (T.issued ts).nbs = T.nbs := rfl
@[simp] theorem Team.issued_ports (T : Team) (ts : List Nat) : (T.issued ts).ports = T.ports := rfl
@[simp] theorem Team.issued_wing (T : Team) (ts : List Nat) : (T.issued ts).wing = T.wing := rfl
@[simp] theorem Team.issued_windows (T : Team) (ts : List Nat) : (T.issued ts).windows = T.windows := rfl
@[simp] theorem Team.issued_rseed (T : Team) (ts : List Nat) : (T.issued ts).rseed = T.rseed := rfl
@[simp] theorem Team.issued_replay (T : Team) (ts : List Nat) : (T.issued ts).replay = T.replay := rfl
@[simp] theorem Team.issued_bprio (T : Team) (ts : List Nat) : (T.issued ts).bprio = T.bprio := rfl
@[simp] theorem Team.issued_mx (T : Team) (ts : List Nat) : (T.issued ts).mx = T.mx := rfl
@[simp] theorem Team.issued_rsh (T : Team) (ts : List Nat) : (T.issued ts).rsh = T.rsh := rfl
@[simp] theorem Team.issued_chain (T : Team) (ts : List Nat) : (T.issued ts).chain = T.chain := rfl
@[simp] theorem Team.issued_revocable (T : Team) (ts : List Nat) : (T.issued ts).revocable = T.revocable := rfl
@[simp] theorem Team.issued_porchSlot (T : Team) (ts : List Nat) : (T.issued ts).porchSlot = T.porchSlot := rfl
@[simp] theorem Team.issued_porch (T : Team) (ts : List Nat) : (T.issued ts).porch = T.porch := rfl
@[simp] theorem Team.issued_copies (T : Team) (ts : List Nat) : (T.issued ts).copies = T.copies := rfl
@[simp] theorem Team.issued_nextCopy (T : Team) (ts : List Nat) : (T.issued ts).nextCopy = T.nextCopy := rfl
@[simp] theorem Team.issued_started (T : Team) (ts : List Nat) : (T.issued ts).started = T.started := rfl
@[simp] theorem Team.issued_dying (T : Team) (ts : List Nat) : (T.issued ts).dying = T.dying := rfl
@[simp] theorem Team.issued_fault (T : Team) (ts : List Nat) : (T.issued ts).fault = T.fault := rfl
@[simp] theorem Team.issued_lastPaths (T : Team) (ts : List Nat) : (T.issued ts).lastPaths = T.lastPaths := rfl
@[simp] theorem Team.issued_lastGroup (T : Team) (ts : List Nat) : (T.issued ts).lastGroup = T.lastGroup := rfl
@[simp] theorem Thread.setReg_pc (h : Thread) (c : Nat) (v : Word) : (h.setReg c v).pc = h.pc := rfl
@[simp] theorem Thread.setReg_rs (h : Thread) (c : Nat) (v : Word) : (h.setReg c v).rs = h.rs := rfl
@[simp] theorem Thread.setReg_spill (h : Thread) (c : Nat) (v : Word) : (h.setReg c v).spill = h.spill := rfl
@[simp] theorem Thread.setReg_b (h : Thread) (c : Nat) (v : Word) : (h.setReg c v).b = h.b := rfl
@[simp] theorem Thread.setReg_q (h : Thread) (c : Nat) (v : Word) : (h.setReg c v).q = h.q := rfl
@[simp] theorem Thread.setReg_ck (h : Thread) (c : Nat) (v : Word) : (h.setReg c v).ck = h.ck := rfl
@[simp] theorem Thread.setReg_draw (h : Thread) (c : Nat) (v : Word) : (h.setReg c v).draw = h.draw := rfl
@[simp] theorem Thread.setReg_cursor (h : Thread) (c : Nat) (v : Word) : (h.setReg c v).cursor = h.cursor := rfl
@[simp] theorem Thread.setReg_tpc (h : Thread) (c : Nat) (v : Word) : (h.setReg c v).tpc = h.tpc := rfl
@[simp] theorem Thread.setReg_tcause (h : Thread) (c : Nat) (v : Word) : (h.setReg c v).tcause = h.tcause := rfl
@[simp] theorem Thread.setReg_tinst (h : Thread) (c : Nat) (v : Word) : (h.setReg c v).tinst = h.tinst := rfl
@[simp] theorem Thread.setReg_taddr (h : Thread) (c : Nat) (v : Word) : (h.setReg c v).taddr = h.taddr := rfl
@[simp] theorem Thread.setReg_tmask (h : Thread) (c : Nat) (v : Word) : (h.setReg c v).tmask = h.tmask := rfl
@[simp] theorem Thread.setReg_written (h : Thread) (c : Nat) (v : Word) : (h.setReg c v).written = h.written := rfl
@[simp] theorem Thread.setReg_stage (h : Thread) (c : Nat) (v : Word) : (h.setReg c v).stage = h.stage := rfl
@[simp] theorem Thread.setReg_skipped0 (h : Thread) (c : Nat) (v : Word) : (h.setReg c v).skipped0 = h.skipped0 := rfl
@[simp] theorem Thread.setReg_count (h : Thread) (c : Nat) (v : Word) : (h.setReg c v).count = h.count := rfl
@[simp] theorem Thread.setReg_limit (h : Thread) (c : Nat) (v : Word) : (h.setReg c v).limit = h.limit := rfl
@[simp] theorem Thread.setReg_pend (h : Thread) (c : Nat) (v : Word) : (h.setReg c v).pend = h.pend := rfl
@[simp] theorem Thread.setReg_wait (h : Thread) (c : Nat) (v : Word) : (h.setReg c v).wait = h.wait := rfl
@[simp] theorem Thread.setReg_trap (h : Thread) (c : Nat) (v : Word) : (h.setReg c v).trap = h.trap := rfl
@[simp] theorem Thread.setReg_latch (h : Thread) (c : Nat) (v : Word) : (h.setReg c v).latch = h.latch := rfl
@[simp] theorem Thread.setReg_places (h : Thread) (c : Nat) (v : Word) : (h.setReg c v).places = h.places := rfl
@[simp] theorem Thread.setReg_remoteFail (h : Thread) (c : Nat) (v : Word) :
    (h.setReg c v).remoteFail = h.remoteFail := rfl
@[simp] theorem Thread.setReg_parked (h : Thread) (c : Nat) (v : Word) : (h.setReg c v).parked = h.parked := rfl
@[simp] theorem Thread.setReg_ended (h : Thread) (c : Nat) (v : Word) : (h.setReg c v).ended = h.ended := rfl
@[simp] theorem Thread.setCk_pc (h : Thread) (n : Nat) (c : Ck) : (h.setCk n c).pc = h.pc := rfl
@[simp] theorem Thread.setCk_rs (h : Thread) (n : Nat) (c : Ck) : (h.setCk n c).rs = h.rs := rfl
@[simp] theorem Thread.setCk_spill (h : Thread) (n : Nat) (c : Ck) : (h.setCk n c).spill = h.spill := rfl
@[simp] theorem Thread.setCk_g (h : Thread) (n : Nat) (c : Ck) : (h.setCk n c).g = h.g := rfl
@[simp] theorem Thread.setCk_b (h : Thread) (n : Nat) (c : Ck) : (h.setCk n c).b = h.b := rfl
@[simp] theorem Thread.setCk_q (h : Thread) (n : Nat) (c : Ck) : (h.setCk n c).q = h.q := rfl
@[simp] theorem Thread.setCk_draw (h : Thread) (n : Nat) (c : Ck) : (h.setCk n c).draw = h.draw := rfl
@[simp] theorem Thread.setCk_cursor (h : Thread) (n : Nat) (c : Ck) : (h.setCk n c).cursor = h.cursor := rfl
@[simp] theorem Thread.setCk_tpc (h : Thread) (n : Nat) (c : Ck) : (h.setCk n c).tpc = h.tpc := rfl
@[simp] theorem Thread.setCk_tcause (h : Thread) (n : Nat) (c : Ck) : (h.setCk n c).tcause = h.tcause := rfl
@[simp] theorem Thread.setCk_tinst (h : Thread) (n : Nat) (c : Ck) : (h.setCk n c).tinst = h.tinst := rfl
@[simp] theorem Thread.setCk_taddr (h : Thread) (n : Nat) (c : Ck) : (h.setCk n c).taddr = h.taddr := rfl
@[simp] theorem Thread.setCk_tmask (h : Thread) (n : Nat) (c : Ck) : (h.setCk n c).tmask = h.tmask := rfl
@[simp] theorem Thread.setCk_written (h : Thread) (n : Nat) (c : Ck) : (h.setCk n c).written = h.written := rfl
@[simp] theorem Thread.setCk_stage (h : Thread) (n : Nat) (c : Ck) : (h.setCk n c).stage = h.stage := rfl
@[simp] theorem Thread.setCk_skipped0 (h : Thread) (n : Nat) (c : Ck) : (h.setCk n c).skipped0 = h.skipped0 := rfl
@[simp] theorem Thread.setCk_count (h : Thread) (n : Nat) (c : Ck) : (h.setCk n c).count = h.count := rfl
@[simp] theorem Thread.setCk_limit (h : Thread) (n : Nat) (c : Ck) : (h.setCk n c).limit = h.limit := rfl
@[simp] theorem Thread.setCk_pend (h : Thread) (n : Nat) (c : Ck) : (h.setCk n c).pend = h.pend := rfl
@[simp] theorem Thread.setCk_wait (h : Thread) (n : Nat) (c : Ck) : (h.setCk n c).wait = h.wait := rfl
@[simp] theorem Thread.setCk_trap (h : Thread) (n : Nat) (c : Ck) : (h.setCk n c).trap = h.trap := rfl
@[simp] theorem Thread.setCk_latch (h : Thread) (n : Nat) (c : Ck) : (h.setCk n c).latch = h.latch := rfl
@[simp] theorem Thread.setCk_places (h : Thread) (n : Nat) (c : Ck) : (h.setCk n c).places = h.places := rfl
@[simp] theorem Thread.setCk_remoteFail (h : Thread) (n : Nat) (c : Ck) : (h.setCk n c).remoteFail = h.remoteFail := rfl
@[simp] theorem Thread.setCk_parked (h : Thread) (n : Nat) (c : Ck) : (h.setCk n c).parked = h.parked := rfl
@[simp] theorem Thread.setCk_ended (h : Thread) (n : Nat) (c : Ck) : (h.setCk n c).ended = h.ended := rfl
@[simp] theorem Thread.advance_rs (h : Thread) (n : Nat) : (h.advance n).rs = h.rs := rfl
@[simp] theorem Thread.advance_spill (h : Thread) (n : Nat) : (h.advance n).spill = h.spill := rfl
@[simp] theorem Thread.advance_g (h : Thread) (n : Nat) : (h.advance n).g = h.g := rfl
@[simp] theorem Thread.advance_b (h : Thread) (n : Nat) : (h.advance n).b = h.b := rfl
@[simp] theorem Thread.advance_q (h : Thread) (n : Nat) : (h.advance n).q = h.q := rfl
@[simp] theorem Thread.advance_ck (h : Thread) (n : Nat) : (h.advance n).ck = h.ck := rfl
@[simp] theorem Thread.advance_draw (h : Thread) (n : Nat) : (h.advance n).draw = h.draw := rfl
@[simp] theorem Thread.advance_cursor (h : Thread) (n : Nat) : (h.advance n).cursor = h.cursor := rfl
@[simp] theorem Thread.advance_tpc (h : Thread) (n : Nat) : (h.advance n).tpc = h.tpc := rfl
@[simp] theorem Thread.advance_tcause (h : Thread) (n : Nat) : (h.advance n).tcause = h.tcause := rfl
@[simp] theorem Thread.advance_tinst (h : Thread) (n : Nat) : (h.advance n).tinst = h.tinst := rfl
@[simp] theorem Thread.advance_taddr (h : Thread) (n : Nat) : (h.advance n).taddr = h.taddr := rfl
@[simp] theorem Thread.advance_tmask (h : Thread) (n : Nat) : (h.advance n).tmask = h.tmask := rfl
@[simp] theorem Thread.advance_written (h : Thread) (n : Nat) : (h.advance n).written = h.written := rfl
@[simp] theorem Thread.advance_stage (h : Thread) (n : Nat) : (h.advance n).stage = h.stage := rfl
@[simp] theorem Thread.advance_skipped0 (h : Thread) (n : Nat) : (h.advance n).skipped0 = h.skipped0 := rfl
@[simp] theorem Thread.advance_limit (h : Thread) (n : Nat) : (h.advance n).limit = h.limit := rfl
@[simp] theorem Thread.advance_trap (h : Thread) (n : Nat) : (h.advance n).trap = h.trap := rfl
@[simp] theorem Thread.advance_latch (h : Thread) (n : Nat) : (h.advance n).latch = h.latch := rfl
@[simp] theorem Thread.advance_remoteFail (h : Thread) (n : Nat) : (h.advance n).remoteFail = h.remoteFail := rfl
@[simp] theorem Thread.advance_parked (h : Thread) (n : Nat) : (h.advance n).parked = h.parked := rfl
@[simp] theorem Thread.advance_ended (h : Thread) (n : Nat) : (h.advance n).ended = h.ended := rfl
@[simp] theorem Front.setReg_pc (f : Front) (c : Nat) (v : Word64) : (f.setReg c v).pc = f.pc := rfl
@[simp] theorem Front.setReg_b (f : Front) (c : Nat) (v : Word64) : (f.setReg c v).b = f.b := rfl
@[simp] theorem Front.setReg_rs (f : Front) (c : Nat) (v : Word64) : (f.setReg c v).rs = f.rs := rfl
@[simp] theorem Front.setReg_spill (f : Front) (c : Nat) (v : Word64) : (f.setReg c v).spill = f.spill := rfl
@[simp] theorem Front.setReg_pend (f : Front) (c : Nat) (v : Word64) : (f.setReg c v).pend = f.pend := rfl
@[simp] theorem Front.setReg_wait (f : Front) (c : Nat) (v : Word64) : (f.setReg c v).wait = f.wait := rfl
@[simp] theorem Front.setReg_remoteFail (f : Front) (c : Nat) (v : Word64) :
    (f.setReg c v).remoteFail = f.remoteFail := rfl
@[simp] theorem Front.setReg_latch (f : Front) (c : Nat) (v : Word64) : (f.setReg c v).latch = f.latch := rfl
@[simp] theorem Front.setReg_ended (f : Front) (c : Nat) (v : Word64) : (f.setReg c v).ended = f.ended := rfl
@[simp] theorem Front.setReg_parked (f : Front) (c : Nat) (v : Word64) : (f.setReg c v).parked = f.parked := rfl
@[simp] theorem Front.advance_f (f : Front) (n : Nat) : (f.advance n).f = f.f := rfl
@[simp] theorem Front.advance_b (f : Front) (n : Nat) : (f.advance n).b = f.b := rfl
@[simp] theorem Front.advance_rs (f : Front) (n : Nat) : (f.advance n).rs = f.rs := rfl
@[simp] theorem Front.advance_spill (f : Front) (n : Nat) : (f.advance n).spill = f.spill := rfl
@[simp] theorem Front.advance_remoteFail (f : Front) (n : Nat) : (f.advance n).remoteFail = f.remoteFail := rfl
@[simp] theorem Front.advance_latch (f : Front) (n : Nat) : (f.advance n).latch = f.latch := rfl
@[simp] theorem Front.advance_ended (f : Front) (n : Nat) : (f.advance n).ended = f.ended := rfl
@[simp] theorem Front.advance_parked (f : Front) (n : Nat) : (f.advance n).parked = f.parked := rfl

@[simp] theorem Thread.advance_pc (h : Thread) (n : Nat) : (h.advance n).pc = h.pc + BitVec.ofNat 64 n := rfl
@[simp] theorem Thread.advance_count (h : Thread) (n : Nat) : (h.advance n).count = h.count + 1 := rfl
@[simp] theorem Thread.advance_wait (h : Thread) (n : Nat) : (h.advance n).wait = none := rfl
@[simp] theorem Thread.advance_pend (h : Thread) (n : Nat) : (h.advance n).pend = h.pend.map Pending.tick := rfl
@[simp] theorem Thread.advance_places (h : Thread) (n : Nat) : (h.advance n).places = [] := rfl
@[simp] theorem Front.advance_pc (f : Front) (n : Nat) : (f.advance n).pc = f.pc + BitVec.ofNat 64 n := rfl
@[simp] theorem Front.advance_wait (f : Front) (n : Nat) : (f.advance n).wait = none := rfl
@[simp] theorem Front.advance_pend (f : Front) (n : Nat) : (f.advance n).pend = f.pend.map Pending.tick := rfl
@[simp] theorem State.tick_clock (s : State) : s.tick.clock = s.clock + 1 := rfl
@[simp] theorem State.tick_cur (s : State) : s.tick.cur = none := rfl
@[simp] theorem State.setTeam_teams (s : State) (k : Nat) (T : Team) :
    (s.setTeam k T).teams = SMap.modify k (fun _ => T) s.teams := rfl
@[simp] theorem State.modTeam_teams (s : State) (k : Nat) (f : Team → Team) :
    (s.modTeam k f).teams = SMap.modify k f s.teams := rfl
@[simp] theorem State.setCtx_ctxs (s : State) (c : Nat) (x : Context) :
    (s.setCtx c x).ctxs = SMap.insert c x s.ctxs := rfl
@[simp] theorem State.setCore_cores (s : State) (c : Nat) (x : Core) :
    (s.setCore c x).cores = SMap.insert c x s.cores := rfl

end Sys2Proof.Machine
end

