-- ==== Sys2Proof/Laws/Issue.lean ====
section
/-!
SUPPORT. What the issue of an instruction to one thread can do: it completes with what the instruction's own effect gives,
or stops with the state of the stop.
-/

namespace Sys2Proof.Machine

/-! ### Performances -/

@[simp] theorem M.bind_apply {α β : Type} (m : M α) (f : α → M β) (s : State) :
    (m >>= f) s = match m s with
      | .ok (a, s') => f a s'
      | .error e => .error e := by
  show StateT.bind m f s = _
  unfold StateT.bind
  cases m s with
  | error e => rfl
  | ok r => rfl

@[simp] theorem M.map_apply {α β : Type} (f : α → β) (m : M α) (s : State) :
    (f <$> m) s = match m s with
      | .ok (a, s') => .ok (f a, s')
      | .error e => .error e := by
  show StateT.map f m s = _
  unfold StateT.map
  cases m s with
  | error e => rfl
  | ok r => rfl

@[simp] theorem M.pure_apply {α : Type} (a : α) (s : State) : (pure a : M α) s = .ok (a, s) := rfl
@[simp] theorem M.get_apply (s : State) : (get : M State) s = .ok (s, s) := rfl
@[simp] theorem M.set_apply (s s' : State) : (set s' : M PUnit) s = .ok ((), s') := rfl
@[simp] theorem M.modify_apply (f : State → State) (s : State) : (modify f : M PUnit) s = .ok ((), f s) := rfl
@[simp] theorem trap_apply {α : Type} (c : BitVec 8) (a : Word64) (s : State) : (trap c a : M α) s = .error (.trap c a) := rfl
@[simp] theorem stop_apply {α : Type} (e : Stop) (s : State) : (stop e : M α) s = .error e := rfl
@[simp] theorem hold_apply {α : Type} (s : State) : (hold : M α) s = .error .retry := rfl
@[simp] theorem holdHere_apply {α : Type} (s : State) : (holdHere : M α) s = .error (.hold s) := rfl
@[simp] theorem endHere_apply {α : Type} (s : State) : (endHere : M α) s = .error (.done s) := rfl

@[simp] theorem check_true (c : BitVec 8) (a : Word64) : check true c a = pure () := rfl
@[simp] theorem check_false (c : BitVec 8) (a : Word64) : check false c a = trap c a := rfl

theorem seq_apply (m : M Unit) (s : State) :
    seq m s = match m s with
      | .ok (_, s') => .ok (none, s')
      | .error e => .error e := by
  unfold seq
  rw [M.bind_apply]
  cases m s <;> rfl

theorem getTeam_apply {s : State} {k : Nat} {T : Team} (h : s.team? k = some T) : getTeam k s = .ok (T, s) := by
  simp [getTeam, h]

theorem getThread_apply {s : State} {k t : Nat} {T : Team} {h : Thread} (hT : s.team? k = some T)
    (hh : T.thread? t = some h) : getThread k t s = .ok (h, s) := by
  simp [getThread, State.thread?, hT, hh]

theorem getGroup_apply {s : State} {k t : Nat} {T : Team} {G : Group} (hT : s.team? k = some T)
    (hG : T.group? (T.groupIx t) = some G) : getGroup k t s = .ok (G, s) := by
  simp [getGroup, hT, hG]

theorem getFront_apply {s : State} {k : Nat} {T : Team} {f : Front} (hT : s.team? k = some T)
    (hf : T.front = some f) : getFront k s = .ok (f, s) := by
  simp [getFront, hT, hf]

@[simp] theorem modThread_apply (k t : Nat) (f : Thread → Thread) (s : State) :
    Machine.modThread k t f s = .ok ((), s.modThread k t f) := rfl

@[simp] theorem modFront_apply (k : Nat) (f : Front → Front) (s : State) :
    Machine.modFront k f s = .ok ((), s.modFront k f) := rfl

@[simp] theorem modTeam_apply (k : Nat) (f : Team → Team) (s : State) :
    Machine.modTeam k f s = .ok ((), s.modTeam k f) := rfl

/-! ### Teams and threads after a change -/

theorem State.team?_modTeam (s : State) (j k : Nat) (f : Team → Team) :
    (s.modTeam k f).team? j = if j = k then (s.team? j).map f else s.team? j := SMap.find?_modify j k f s.teams

theorem State.thread?_modThread (s : State) (k t : Nat) (f : Thread → Thread) :
    (s.modThread k t f).thread? k t = (s.thread? k t).map f := by
  unfold State.modThread State.thread?
  rw [State.team?_modTeam, if_pos rfl]
  cases s.team? k with
  | none => rfl
  | some T => simp [Team.thread?, SMap.find?_modify]

/-- Two changes of one thread are one. -/
theorem State.modThread_modThread (s : State) (k t : Nat) (f g : Thread → Thread) :
    (s.modThread k t f).modThread k t g = s.modThread k t fun h => g (f h) := by
  simp only [State.modThread, State.modTeam, SMap.modify_modify]

theorem State.modFront_modFront (s : State) (k : Nat) (f g : Front → Front) :
    (s.modFront k f).modFront k g = s.modFront k fun h => g (f h) := by
  simp only [State.modFront, State.modTeam, SMap.modify_modify, Option.map_map]
  rfl

/-! ### One thread alone -/

variable {s s' : State} {i : Instr} {c : Issue} {t : Nat} {T : Team} {G : Group} {h : Thread}

/-- The lane of a solo issue. -/
abbrev Issue.lane (c : Issue) (t : Nat) : Lane := ⟨c.team, .thread t⟩

theorem At.running (hs : At s c t T G h) : s.running c.team = true := by
  have := hs.runs
  simp only [State.running, hs.team, this.2, Bool.not_false, Bool.and_true, Bool.or_eq_true, beq_iff_eq]
  exact this.1

theorem At.present (hs : At s c t T G h) : s.lanePresent (c.lane t) = true := by
  simp [State.lanePresent, hs.running, State.thread?, hs.team, hs.thread, hs.live]

theorem At.notDue (hs : At s c t T G h) : s.watchdogDue (c.lane t) = false := by
  have := hs.below
  simp [State.watchdogDue, State.thread?, hs.team, hs.thread]
  omega

theorem Solo.noPush (hs : Solo s i c t T G h) : pushesWindow T i = false := by
  have hp := hs.plain
  unfold gOnly at hp
  unfold pushesWindow
  rw [List.any_eq_false]
  rw [List.all_eq_true] at hp
  intro f hf
  have hg := hp f hf
  simp only [isG, decide_eq_true_eq] at hg
  have : regCode f.code = .g f.code.toNat := by
    unfold regCode
    simp only [hg, if_true]
  simp [this]

theorem Solo.noPorts (hs : Solo s i c t T G h) : portReads i = [] := by
  have hp := hs.plain
  unfold gOnly at hp
  unfold portReads
  rw [List.filterMap_eq_nil_iff]
  rw [List.all_eq_true] at hp
  intro f hf
  have hg := hp f hf
  simp only [isG, decide_eq_true_eq] at hg
  have : regCode f.code = .g f.code.toNat := by
    unfold regCode
    simp only [hg, if_true]
  rw [this]
  cases f.use <;> rfl

/-- An instruction that names no stream port. -/
def noRings (T : Team) (i : Instr) : Prop := pushesWindow T i = false ∧ portReads i = [] ∧ portWrites i = []

theorem Solo.noOuts (hs : Solo s i c t T G h) : portWrites i = [] := by
  have hp := hs.plain
  unfold gOnly at hp
  unfold portWrites
  rw [List.filterMap_eq_nil_iff]
  rw [List.all_eq_true] at hp
  intro f hf
  have hg := hp f hf
  simp only [isG, decide_eq_true_eq] at hg
  have : regCode f.code = .g f.code.toNat := by
    unfold regCode
    simp only [hg, if_true]
  rw [this]
  cases f.use <;> rfl

theorem Solo.noRings (hs : Solo s i c t T G h) : noRings T i := ⟨hs.noPush, hs.noPorts, hs.noOuts⟩

theorem Sole.pend (hs : Sole s i c t T G h) : pendOf (c.lane t) s = .ok ([], s) := by
  simp [pendOf, getThread_apply hs.team hs.thread, hs.quiet]

theorem At.getTeam (hs : At s c t T G h) : Machine.getTeam c.team s = .ok (T, s) := getTeam_apply hs.team
theorem At.getThread (hs : At s c t T G h) : Machine.getThread c.team t s = .ok (h, s) :=
  getThread_apply hs.team hs.thread
theorem At.getGroup (hs : At s c t T G h) : Machine.getGroup c.team t s = .ok (G, s) :=
  getGroup_apply hs.team hs.group

/-- What an instruction's kind allows: code of threads, special registers it may name, implemented, and the context's
privilege where it needs one (R75). -/
def kindOk (s : State) (T : Team) (i : Instr) : Bool :=
  i.threadOk && i.sregOk false && !i.unimplemented && (!i.privileged || (s.ctx T.ctx).privileged)

theorem Sole.checks (hs : Sole s i c t T G h) (hk : kindOk s T i = true) : decodeChecks (c.lane t) i s = .ok ((), s) := by
  simp only [kindOk, Bool.and_eq_true] at hk
  obtain ⟨⟨⟨h1, h2⟩, h3⟩, h4⟩ := hk
  simp [decodeChecks, getTeam_apply hs.team, hs.pend, hs.regs, h1, h2, h3, h4, conflicts, State.coordConflict]

/-- Nothing that comes before the effect of a sole issue does anything. -/
theorem Sole.prepared (hs : Sole s i c t T G h) (hp : Machine.noRings T i) (hk : kindOk s T i = true) :
    prepare (c.lane t) i s = .ok ((), s) := by
  have hd (all : Bool) : deliver (c.lane t) all s = .ok ((), s) := by
    unfold deliver
    rw [M.bind_apply, hs.pend]
    rfl
  have hr : releaseFirst (c.lane t) i s = .ok ((), s) := by
    unfold releaseFirst
    rw [M.bind_apply, getTeam_apply hs.team]
    simp [hp.1]
  have hm : mayPause (c.lane t) i s = .ok (false, s) := by
    simp [mayPause, hs.pend, getTeam_apply hs.team, hp.1, hp.2.1]
  unfold prepare
  cases hw : s.windowStops (c.lane t) i <;> simp [hs.checks hk, hr, hd, hm, hw, hp.2.1, getThread_apply hs.team hs.thread]

/-- An instruction that names no stream port waits at none. -/
theorem keepElements_none {α : Type} {l : Lane} {m : M α} (hp : portReads i = [] ∧ portWrites i = []) :
    keepElements l i m = m := by
  funext s
  unfold keepElements
  cases m s with
  | ok r => rfl
  | error e => cases e <;> simp [hp.1, hp.2]

/-- A sole issue performs the instruction's own effect on the state as it is. -/
theorem Sole.perform (hs : Sole s i c t T G h) (hp : Machine.noRings T i) (hk : kindOk s T i = true) (len : Nat)
    (body : Lane → M Next) :
    perform i len body (c.lane t) s = (body (c.lane t) >>= complete (c.lane t) len) s := by
  unfold Machine.perform
  simp only [M.bind_apply, hs.prepared hp hk, keepElements_none hp.2]

/-- The thread after an effect that leaves `next` as its PC. -/
def Thread.past (h : Thread) (len : Nat) (next : Next) : Thread :=
  match next with
  | some pc => { h.advance len with pc := pc }
  | none => h.advance len

theorem complete_thread (k t len : Nat) (next : Next) (s : State) :
    complete ⟨k, .thread t⟩ len next s = .ok ((), s.modThread k t (·.past len next)) := by
  cases next <;> rfl

/-- A sole issue whose effect comes about completes: the thread goes on from the state the effect leaves. -/
theorem issueWith_sole {onPage : Lane → Word64 → BitVec 8 → State → State} {body : Lane → M Next} {next : Next}
    (hs : Sole s i c t T G h) (hp : noRings T i) (hk : kindOk s T i = true)
    (hb : body (c.lane t) s = .ok (next, s')) :
    issueWith i onPage body s = .next (s'.modThread c.team t (·.past c.len next)) := by
  have hl : c.lanes = [c.lane t] := by simp [Issue.lanes, hs.lanes.1, hs.lanes.2]
  simp only [issueWith, hs.cur, hl, stepLane, hs.present, hs.notDue, hs.perform hp hk, M.bind_apply, hb,
    complete_thread, afterLane, Bool.not_true, Bool.false_eq_true, if_false]

/-- The same when the step is over with the effect. -/
theorem issueWith_sole_done {onPage : Lane → Word64 → BitVec 8 → State → State} {body : Lane → M Next}
    (hs : Sole s i c t T G h) (hp : noRings T i) (hk : kindOk s T i = true) (hb : body (c.lane t) s = .error (.done s')) :
    issueWith i onPage body s = .next (s'.endIfCancelled (c.lane t)) := by
  have hl : c.lanes = [c.lane t] := by simp [Issue.lanes, hs.lanes.1, hs.lanes.2]
  simp only [issueWith, hs.cur, hl, stepLane, hs.present, hs.notDue, hs.perform hp hk, M.bind_apply, hb,
    afterLane, Bool.not_true, Bool.false_eq_true, if_false]

/-- The same when the effect traps. -/
theorem issueWith_sole_trap {onPage : Lane → Word64 → BitVec 8 → State → State} {body : Lane → M Next}
    {cause : BitVec 8} {addr : Word64}
    (hs : Sole s i c t T G h) (hp : noRings T i) (hk : kindOk s T i = true) (hb : body (c.lane t) s = .error (.trap cause addr)) :
    issueWith i onPage body s = .next (s.trapped c i t cause addr none) := by
  have hl : c.lanes = [c.lane t] := by simp [Issue.lanes, hs.lanes.1, hs.lanes.2]
  simp only [issueWith, hs.cur, hl, stepLane, hs.present, hs.notDue, hs.perform hp hk, M.bind_apply, hb,
    afterLane, State.trapped, Bool.not_true, Bool.false_eq_true, if_false]

/-- The three for an instruction that names g registers only, which pushes onto no ring. -/
theorem issueWith_solo {onPage : Lane → Word64 → BitVec 8 → State → State} {body : Lane → M Next} {next : Next}
    (hs : Solo s i c t T G h) (hk : kindOk s T i = true) (hb : body (c.lane t) s = .ok (next, s')) :
    issueWith i onPage body s = .next (s'.modThread c.team t (·.past c.len next)) :=
  issueWith_sole hs.toSole hs.noRings hk hb

@[inherit_doc issueWith_solo]
theorem issueWith_solo_done {onPage : Lane → Word64 → BitVec 8 → State → State} {body : Lane → M Next}
    (hs : Solo s i c t T G h) (hk : kindOk s T i = true) (hb : body (c.lane t) s = .error (.done s')) :
    issueWith i onPage body s = .next (s'.endIfCancelled (c.lane t)) := issueWith_sole_done hs.toSole hs.noRings hk hb

@[inherit_doc issueWith_solo]
theorem issueWith_solo_trap {onPage : Lane → Word64 → BitVec 8 → State → State} {body : Lane → M Next}
    {cause : BitVec 8} {addr : Word64}
    (hs : Solo s i c t T G h) (hk : kindOk s T i = true) (hb : body (c.lane t) s = .error (.trap cause addr)) :
    issueWith i onPage body s = .next (s.trapped c i t cause addr none) :=
  issueWith_sole_trap hs.toSole hs.noRings hk hb

/-! ### Operands of a solo issue -/

theorem regCode_g {r : BitVec 8} (hr : r.toNat < 220) : regCode r = .g r.toNat := by simp [regCode, hr]

theorem rd_g (hT : s.team? c.team = some T) (hh : T.thread? t = some h) {r : BitVec 8} (hr : r.toNat < 220) :
    rd (c.lane t) r s = .ok (h.reg r.toNat, s) := by
  simp [rd, regCode_g hr, getThread_apply hT hh]

theorem wr_g (s : State) {r : BitVec 8} (hr : r.toNat < 220) (v : Word) :
    wr (c.lane t) r v s = .ok ((), s.modThread c.team t (·.setReg r.toNat v)) := by
  simp [wr, regCode_g hr]

theorem rd64_g (hT : s.team? c.team = some T) (hh : T.thread? t = some h) (r : BitVec 8) :
    rd64 (c.lane t) r s = .ok (h.reg (r.toNat + 1) ++ h.reg r.toNat, s) := by
  simp [rd64, getThread_apply hT hh]

theorem rdB_t (hT : s.team? c.team = some T) (hh : T.thread? t = some h) (k : BitVec 3) :
    rdB (c.lane t) k s = .ok (h.b.getLsbD k.toNat, s) := by
  simp [rdB, getThread_apply hT hh]

theorem wrB_t (s : State) (k : BitVec 3) (v : Bool) :
    wrB (c.lane t) k v s = .ok ((), s.modThread c.team t fun h => { h with b := setBit h.b k v }) := rfl

/-- A g register that a plain instruction names. -/
theorem Solo.isG (hs : Solo s i c t T G h) {f : Fld} (hf : f ∈ i.flds) : f.code.toNat < 220 := by
  have := hs.plain
  unfold gOnly at this
  rw [List.all_eq_true] at this
  simpa [Machine.isG] using this f hf

/-- A solo issue of an instruction that writes one g register with a value of the thread's registers. -/
theorem State.after_eq (s : State) (c : Issue) (t : Nat) (f : Thread → Thread) :
    (s.modThread c.team t f).modThread c.team t (·.past c.len none) = s.after c t f :=
  s.modThread_modThread c.team t f _

end Sys2Proof.Machine
end

