-- ==== Sys2Proof/Laws/Access.lean ====
section
/-!
SUPPORT. What the checks of a global access can do where the heap triple maps it, what the waits before an access can do,
what leaving a wing changes, and which place a unit takes.
-/

namespace Sys2Proof.Machine

/-- An access that a context's heap triple maps is one part at its physical address, of the triple's kind, whatever it is
for, unless it is a fetch (R152). -/
theorem checkGlobal_heap {s : State} {ctx x n pa : Nat} {need : Need} (bit : BitVec 8) (h : HeapAt s ctx x n pa)
    (hx : need.x = false) :
    checkGlobal ctx x n need bit s = .ok ([⟨x, n, .phys pa, (s.ctx ctx).heap.hkind.extractLsb' 0 2⟩], s) := by
  have hp : (x + (s.ctx ctx).heap.ho.toNat) % 2 ^ 64 = pa := h.phys.symm
  unfold checkGlobal
  simp only [h.canon, check_true, heapOf, M.bind_apply, M.get_apply, h.settled, pickAmong, M.pure_apply, h.lo, h.hi, and_self, if_true, hp, hx,
    h.exists_, Bool.not_true, Bool.or_self, Bool.false_eq_true, if_false]

/-- No word of memory is wrong: reading the parts of an access is never refused (R238). -/
theorem checkWords_sound {s : State} (h : s.badMem = []) (who : Option Nat) (ps : List Part) :
    checkWords who ps s = .ok ((), s) := by
  have none (p : Part) : p.badWord? s who = none := by
    unfold Part.badWord?
    split <;> simp [h]
  induction ps with
  | nil => rfl
  | cons p ps ih => simp only [checkWords, M.bind_apply, M.get_apply, none, ih]

/-! ### Waits before an access -/

/-- Before a local store of a lane: it waits as long as an RC store of the lane is not performed (R252, R254). -/
@[simp] theorem rcFirst_apply (k : Nat) (o : Origin) (s : State) :
    rcFirst k o s = if s.rcPending k o = true then .error (.hold s) else .ok ((), s) := by
  unfold rcFirst
  rw [M.bind_apply, M.get_apply]
  show (if s.rcPending k o = true then holdHere else pure () : M Unit) s = _
  split <;> rfl

/-- Before a release of a lane, or an engine operation: it waits as long as the lane has elements to push (R180, R255, R259). -/
@[simp] theorem pushFirst_apply (k : Nat) (who : Who) (s : State) :
    pushFirst k who s = if s.pushPending k who = true then .error (.hold s) else .ok ((), s) := by
  unfold pushFirst
  rw [M.bind_apply, M.get_apply]
  show (if s.pushPending k who = true then holdHere else pure () : M Unit) s = _
  split <;> rfl

/-- Before a read by others than its maker: it waits or goes on, and changes nothing (R254). -/
theorem readFirst_cases (k : Nat) (o : Origin) (ps : List Part) (s : State) :
    readFirst k o ps s = .error .retry ∨ readFirst k o ps s = .ok ((), s) := by
  unfold readFirst
  rw [M.bind_apply, M.get_apply]
  dsimp only
  split
  · exact .inl rfl
  · exact .inr rfl

/-- With no store on its way there is nothing to wait for. -/
theorem readFirst_calm {s : State} (h : s.stores = []) (k : Nat) (o : Origin) (ps : List Part) :
    readFirst k o ps s = .ok ((), s) := by
  have none (pa n : Nat) : s.readsAhead k o pa n = false := by simp [State.readsAhead, h]
  unfold readFirst
  rw [M.bind_apply, M.get_apply]
  simp only [none]
  rw [if_neg]
  · rfl
  · simp only [List.any_eq_true, not_exists, not_and]
    intro p _
    split <;> simp

/-! ### Leaving a wing -/

/-- Leaving a wing changes teams alone (R184). -/
theorem State.quitWing_teams (s : State) (k : Nat) : ∃ ts, s.quitWing k = { s with teams := ts } := by
  unfold State.quitWing
  split
  · split
    · exact ⟨_, rfl⟩
    · exact ⟨_, rfl⟩
  · exact ⟨_, rfl⟩

theorem State.leaveWing_teams (s : State) (k : Nat) : ∃ ts, s.leaveWing k = { s with teams := ts } := by
  obtain ⟨ts, e⟩ := s.quitWing_teams k
  unfold State.leaveWing
  rw [e]
  exact ⟨_, rfl⟩

/-- A team that is in no wing leaves none. -/
theorem State.quitWing_none {s : State} {k : Nat} {T : Team} (h : s.team? k = some T) (hw : T.wing = none) :
    s.quitWing k = s := by simp [State.quitWing, h, hw]

/-! ### Where a unit goes -/

/-- A unit goes to its lowest place where that keeps the room that is being made, else to another that does (R281, R284). -/
theorem State.unitPlace_keeps {s : State} {u : List (Nat × Team)} {p : List (Nat × Nat)} (h : s.unitPlace u = some p) :
    s.unitKeepsRoom u p = true := by
  have choice {f : List Nat → Option (List (Nat × Nat))} (hf : ∀ k p, f k = some p → s.unitKeepsRoom u p = true)
      (cs : List Nat) : ∀ k p, leaving f k cs = some p → s.unitKeepsRoom u p = true := by
    induction cs with
    | nil => exact fun k p h => hf k p h
    | cons c cs ih =>
      intro k p h
      rcases Option.or_eq_some_iff.mp h with h | ⟨-, h⟩
      · exact ih _ _ h
      · exact ih _ _ h
  obtain ⟨q, -, h⟩ := Option.bind_eq_some_iff.mp h
  split at h
  · next k => cases h; exact k
  · obtain ⟨cl, -, h⟩ := List.exists_of_findSome?_eq_some h
    exact choice (fun _ _ h => (Option.filter_eq_some_iff.mp h).2) _ _ _ h

end Sys2Proof.Machine
end

