-- ==== Sys2Proof/Laws/Decode.lean ====
section
/-!
SUPPORT. Every row of spec/opcode_table.json that has a word: a word formed from the row's match and fields, with a value of
its own in each field, decodes to the row's instruction with those values.
-/

namespace Sys2Proof

theorem decode_mov_compact_to_fsub_compact :
    ([(0x4120, .movCompact 9 8),
      (0x4122, .iaddCompact 9 8),
      (0x4124, .isubCompact 9 8),
      (0x4126, .andCompact 9 8),
      (0x4128, .orCompact 9 8),
      (0x412A, .xorCompact 9 8),
      (0x412C, .shlCompact 9 8),
      (0x412E, .shrCompact 9 8),
      (0x4130, .sarCompact 9 8),
      (0x4132, .imulCompact 9 8),
      (0x4134, .faddCompact 9 8),
      (0x4136, .fsubCompact 9 8)] : List (Half × Instr)).all (fun x => decode16 x.1 == some x.2) = true := by
  decide +kernel

theorem decode_fmul_compact_to_movi :
    ([(0x4138, .fmulCompact 9 8),
      (0x413A, .fmaxCompact 9 8),
      (0x413C, .iaddiCompact 9 8),
      (0x413E, .movi 9 8)] : List (Half × Instr)).all (fun x => decode16 x.1 == some x.2) = true := by
  decide +kernel

theorem decode_iadd_to_sar :
    ([(0x16100A01, .iadd 20 32 44),
      (0x16100A03, .isub 20 32 44),
      (0x96100A05, .imul 20 32 44 true),
      (0x16100A07, .imulhs 20 32 44),
      (0x96100A09, .imad 20 32 44 true),
      (0x16100A0B, .and 20 32 44),
      (0x16100A0D, .or 20 32 44),
      (0x16100A0F, .xor 20 32 44),
      (0x16100A11, .andn 20 32 44),
      (0x16100A13, .shl 20 32 44),
      (0x16100A15, .shr 20 32 44),
      (0x16100A17, .sar 20 32 44)] : List (Word × Instr)).all (fun x => decode32 x.1 == some x.2) = true := by
  decide +kernel

theorem decode_imin_to_sexb :
    ([(0x96100A19, .imin 20 32 44 true),
      (0x96100A1B, .imax 20 32 44 true),
      (0x96100A1D, .iadd64 20 32 44 true),
      (0x16100A1F, .perm 20 32 44),
      (0x00100A21, .mov 20 32),
      (0x00900A21, .not 20 32),
      (0x01100A21, .neg 20 32),
      (0x01900A21, .iabs 20 32),
      (0x02100A21, .clz 20 32),
      (0x02900A21, .popc 20 32),
      (0x03100A21, .brev 20 32),
      (0x03900A21, .sexb 20 32)] : List (Word × Instr)).all (fun x => decode32 x.1 == some x.2) = true := by
  decide +kernel

theorem decode_sexh_to_popc64 :
    ([(0x04100A21, .sexh 20 32),
      (0x04900A21, .zexb 20 32),
      (0x05100A21, .zexh 20 32),
      (0x05800A21, .laneid 20),
      (0x06000A21, .tidx 20),
      (0x06800A21, .teamix 20),
      (0x07000A21, .clklo 20),
      (0x07800A21, .clkhi 20),
      (0x08018A21, .b2g 20 3),
      (0x08900121, .g2b 2 32),
      (0x09100A21, .clz64 20 32),
      (0x09900A21, .popc64 20 32)] : List (Word × Instr)).all (fun x => decode32 x.1 == some x.2) = true := by
  decide +kernel

theorem decode_iaddi_to_icmpi :
    ([(0x32900A23, .iaddi 20 32 101),
      (0x32900A25, .andi 20 32 101),
      (0x32900A27, .ori 20 32 101),
      (0x32900A29, .xori 20 32 101),
      (0x05900A2B, .shli 20 32 11),
      (0x15900A2B, .shri 20 32 11),
      (0x25900A2B, .sari 20 32 11),
      (0x35900A2B, .rotri 20 32 11),
      (0x00328A2D, .movkl 20 101),
      (0x80328A2D, .movkh 20 101),
      (0x110E2D2F, .icmp 2 3 true 56 68),
      (0x110E2D31, .icmpi 2 3 true 56 68)] : List (Word × Instr)).all (fun x => decode32 x.1 == some x.2) = true := by
  decide +kernel

theorem decode_sel_to_vote_rmax :
    ([(0x01C16533, .sel 2 true 44 56),
      (0x96101035, .shflIdx 4 32 44 true),
      (0x961010B5, .shflUp 4 32 44 true),
      (0x96101135, .shflDown 4 32 44 true),
      (0x961011B5, .shflXor 4 32 44 true),
      (0x82019037, .voteAny 4 3 4 true),
      (0x820190B7, .voteAll 4 3 4 true),
      (0x82101137, .voteBallot 4 32 4 true),
      (0x961011B7, .voteMatch 4 32 44 true),
      (0x96101237, .voteRadd 4 32 44 true),
      (0x961012B7, .voteRmin 4 32 44 true),
      (0x96101337, .voteRmax 4 32 44 true)] : List (Word × Instr)).all (fun x => decode32 x.1 == some x.2) = true := by
  decide +kernel

theorem decode_vote_rfadd_to_fsqrt :
    ([(0x961013B7, .voteRfadd 4 32 44 true),
      (0x96100A41, .fadd 20 32 44 true),
      (0x96100A43, .fsub 20 32 44 true),
      (0x96100A45, .fmul 20 32 44 true),
      (0x96100A47, .ffma 20 32 44 true),
      (0x96100A49, .fmin 20 32 44 true),
      (0x96100A4B, .fmax 20 32 44 true),
      (0x30100A4D, .fabs 20 32 6),
      (0x30900A4D, .fneg 20 32 6),
      (0x31100A4D, .frcp 20 32 6),
      (0x31900A4D, .frsq 20 32 6),
      (0x32100A4D, .fsqrt 20 32 6)] : List (Word × Instr)).all (fun x => decode32 x.1 == some x.2) = true := by
  decide +kernel

theorem decode_fexp2_to_fcmp :
    ([(0x32900A4D, .fexp2 20 32 6),
      (0x33100A4D, .flog2 20 32 6),
      (0x33900A4D, .fsin 20 32 6),
      (0x34100A4D, .fcos 20 32 6),
      (0x34900A4D, .ftanh 20 32 6),
      (0x35100A4D, .ffloor 20 32 6),
      (0x35900A4D, .fceil 20 32 6),
      (0x36100A4D, .ftrunc 20 32 6),
      (0x36900A4D, .frint 20 32 6),
      (0x37100A4D, .fclass 20 32 6),
      (0x37900A4D, .fsat 20 32 6),
      (0x110E2D4F, .fcmp 2 3 true 56 68)] : List (Word × Instr)).all (fun x => decode32 x.1 == some x.2) = true := by
  decide +kernel

theorem decode_cvt_to_idiv :
    ([(0xB2100A51, .cvt 20 32 4 2 1 true),
      (0x00100A53, .cvif 20 32),
      (0x00900A53, .cvnf 20 32),
      (0x01100A53, .cvfi 20 32),
      (0x01900A53, .cvfn 20 32),
      (0x82100A53, .cvhf 20 32 true),
      (0x02900A53, .cvbf 20 32),
      (0x03100A53, .cv8af 20 32),
      (0x03900A53, .cv8bf 20 32),
      (0x16100A55, .dot4 20 32 44),
      (0x96100A55, .dot2 20 32 44),
      (0x16100A57, .idiv 20 32 44)] : List (Word × Instr)).all (fun x => decode32 x.1 == some x.2) = true := by
  decide +kernel

theorem decode_idivu_to_qget :
    ([(0x96100A57, .idivu 20 32 44),
      (0x44388959, .scmp 2 2 4 56 68),
      (0x00088D5B, .pcombAnd 2 3 4 2),
      (0x00098D5B, .pcombOr 2 3 4 2),
      (0x00020D5B, .pcombNot 2 3),
      (0x000B8D5B, .pcombXor 2 3 4 2),
      (0x01C1655D, .blend 2 true 44 56),
      (0x09C1655D, .blendi 2 true 44 56),
      (0x11C1655D, .selq 2 true 44 56),
      (0x0001885F, .coll 2 3),
      (0x001008DF, .qset 2 32),
      (0x0010095F, .qget 2 32)] : List (Word × Instr)).all (fun x => decode32 x.1 == some x.2) = true := by
  decide +kernel

theorem decode_qfromb_to_atom_and :
    ([(0x000189DF, .qfromb 2 3),
      (0x00164A5F, .pgrad 2 2 44),
      (0x00018ADF, .qhard 2 3),
      (0x53100A61, .ld 20 32 6 2 1),
      (0x53100A63, .st 20 32 6 2 1),
      (0x53100A65, .ldl 20 32 6 2 1),
      (0x53100A67, .stl 20 32 6 2 1),
      (0x83100A69, .atomAdd 20 32 6 2),
      (0x8B100A69, .atomAdd64 20 32 6 2),
      (0x93100A69, .atomMin 20 32 6 2),
      (0x9B100A69, .atomMax 20 32 6 2),
      (0xA3100A69, .atomAnd 20 32 6 2)] : List (Word × Instr)).all (fun x => decode32 x.1 == some x.2) = true := by
  decide +kernel

theorem decode_atom_or_to_fence :
    ([(0xAB100A69, .atomOr 20 32 6 2),
      (0xB3100A69, .atomXchg 20 32 6 2),
      (0xBB100A69, .atomCas 20 32 6 2),
      (0x43100A6B, .atomlAdd 20 32 6 true),
      (0x4B100A6B, .atomlFadd 20 32 6 true),
      (0x53100A6B, .atomlMin 20 32 6 true),
      (0x5B100A6B, .atomlMax 20 32 6 true),
      (0x63100A6B, .atomlXchg 20 32 6 true),
      (0x6B100A6B, .atomlCas 20 32 6 true),
      (0x73100A6B, .atomlFadd2 20 32 6 true),
      (0x7B100A6B, .atomlOr 20 32 6 true),
      (0x0001946D, .fence 5 3)] : List (Word × Instr)).all (fun x => decode32 x.1 == some x.2) = true := by
  decide +kernel

theorem decode_nb_init_to_strm :
    ([(0x098050ED, .nbInit 4 true 19),
      (0x0016516D, .nbExpect 4 true 44),
      (0x801651ED, .nbArr 4 true 44 true),
      (0x0016526D, .nbWait 4 true 44),
      (0x800052ED, .nbArw 4 true true),
      (0x0116536D, .nbTest 4 true 44 2),
      (0x1610146F, .cpyG2l 5 32 44),
      (0x161014EF, .cpyL2g 5 32 44),
      (0x100A016F, .cpyL2l 20 32),
      (0x100A01EF, .cpyG2g 20 32),
      (0x100A026F, .cpyPfx 20 32),
      (0x001006EF, .strm 1 32)] : List (Word × Instr)).all (fun x => decode32 x.1 == some x.2) = true := by
  decide +kernel

theorem decode_strm_off_to_rsh_plan :
    ([(0x800006EF, .strmOff 1),
      (0x000A0071, .mxIssue 20),
      (0x80000471, .mxIssueS 1),
      (0x000040F1, .mxZero true),
      (0x001C6571, .mxStore 1 2 true 56),
      (0x001041F1, .mxLoad true 32),
      (0x800A0271, .mxProg 20 true),
      (0x100A0073, .wjoin 20 32),
      (0x000000F3, .wleave),
      (0x16101173, .wmap 4 32 44),
      (0x000A01F3, .wquery 20),
      (0x100A0075, .rshPlan 20 32)] : List (Word × Instr)).all (fun x => decode32 x.1 == some x.2) = true := by
  decide +kernel

theorem decode_rsh_go_to_calli :
    ([(0x000A00F5, .rshGo 20),
      (0x800A0175, .rshPoll 20 true),
      (0x000A01F5, .rshSave 20),
      (0x000A0275, .rshResume 20),
      (0x00161477, .cka 1 true 44),
      (0x800310F7, .ckx 4 2 true true),
      (0x1C161577, .ckt 1 true 44 56),
      (0x000005F7, .ckz 1),
      (0x00032D79, .bra 2 true 101),
      (0x00032D7B, .call 2 true 101),
      (0x000A007D, .jmpi 20),
      (0x000A00FD, .calli 20)] : List (Word × Instr)).all (fun x => decode32 x.1 == some x.2) = true := by
  decide +kernel

theorem decode_ret_to_bop :
    ([(0x0000017D, .ret),
      (0x000001FD, .exit),
      (0x0000027D, .land),
      (0x018012FD, .rcvSet 4 3),
      (0x0100037D, .rcvWait 2),
      (0x028203FD, .yld 4 5),
      (0x8032847D, .stage 1 101),
      (0x800000FD, .chend),
      (0x8A00017D, .trap 20),
      (0x800001FD, .rtt),
      (0x8001927D, .elect 4 3),
      (0x8A0D02FD, .bop 2 3 4 2)] : List (Word × Instr)).all (fun x => decode32 x.1 == some x.2) = true := by
  decide +kernel

theorem decode_brk_to_ftwait_clk :
    ([(0x8000037D, .brk),
      (0x100A007F, .srd 20 32),
      (0x100A00FF, .swr 20 32),
      (0x070A017F, .movs 20 14),
      (0x070A01FF, .smov 20 14),
      (0x0010167F, .dqpush 5 32),
      (0x000A02FF, .dqpop 20),
      (0x040A037F, .ftwaitNb 20 8),
      (0x040A077F, .ftwaitDq 20 8),
      (0x00000B7F, .ftwaitMx),
      (0x00000F7F, .ftwaitRsh),
      (0x000A137F, .ftwaitClk 20)] : List (Word × Instr)).all (fun x => decode32 x.1 == some x.2) = true := by
  decide +kernel

theorem decode_ftlaunch_to_killctx :
    ([(0x100A03FF, .ftlaunch 20 32),
      (0x8010087F, .chseed 2 32),
      (0x800000FF, .icinv),
      (0x800A017F, .tlbinvAll 20),
      (0x800A057F, .tlbinvPage 20),
      (0x8000097F, .tlbinvHeap),
      (0x900A01FF, .killctx 20 32)] : List (Word × Instr)).all (fun x => decode32 x.1 == some x.2) = true := by
  decide +kernel

theorem decode_succ_goto_to_succ_rtt :
    ([(0x00006500, .succGoto 101),
      (0x00000004, .succRet),
      (0x00000005, .succExit),
      (0x00000006, .succRtt)] : List (Word × Instr)).all (fun x => (fun w => (decodeSucc [w]).map (·.1)) x.1 == some x.2) = true := by
  decide +kernel

end Sys2Proof
end

