-- ==== Sys2Proof/Laws/Fields.lean ====
section
/-!
SUPPORT. The register fields of each lane instruction, and the meaning that each instruction dispatches to.
-/

namespace Sys2Proof

open Machine

@[simp] theorem Instr.flds_iaddCompact (d : BitVec 6) (s : BitVec 5) : (Instr.iaddCompact d s).flds =
    [⟨.a, d.setWidth 8, .rw, .one⟩, ⟨.b, s.setWidth 8, .rd, .one⟩] := rfl
@[simp] theorem Instr.flds_isubCompact (d : BitVec 6) (s : BitVec 5) : (Instr.isubCompact d s).flds =
    [⟨.a, d.setWidth 8, .rw, .one⟩, ⟨.b, s.setWidth 8, .rd, .one⟩] := rfl
@[simp] theorem Instr.flds_andCompact (d : BitVec 6) (s : BitVec 5) : (Instr.andCompact d s).flds =
    [⟨.a, d.setWidth 8, .rw, .one⟩, ⟨.b, s.setWidth 8, .rd, .one⟩] := rfl
@[simp] theorem Instr.flds_orCompact (d : BitVec 6) (s : BitVec 5) : (Instr.orCompact d s).flds =
    [⟨.a, d.setWidth 8, .rw, .one⟩, ⟨.b, s.setWidth 8, .rd, .one⟩] := rfl
@[simp] theorem Instr.flds_xorCompact (d : BitVec 6) (s : BitVec 5) : (Instr.xorCompact d s).flds =
    [⟨.a, d.setWidth 8, .rw, .one⟩, ⟨.b, s.setWidth 8, .rd, .one⟩] := rfl
@[simp] theorem Instr.flds_shlCompact (d : BitVec 6) (s : BitVec 5) : (Instr.shlCompact d s).flds =
    [⟨.a, d.setWidth 8, .rw, .one⟩, ⟨.b, s.setWidth 8, .rd, .one⟩] := rfl
@[simp] theorem Instr.flds_shrCompact (d : BitVec 6) (s : BitVec 5) : (Instr.shrCompact d s).flds =
    [⟨.a, d.setWidth 8, .rw, .one⟩, ⟨.b, s.setWidth 8, .rd, .one⟩] := rfl
@[simp] theorem Instr.flds_sarCompact (d : BitVec 6) (s : BitVec 5) : (Instr.sarCompact d s).flds =
    [⟨.a, d.setWidth 8, .rw, .one⟩, ⟨.b, s.setWidth 8, .rd, .one⟩] := rfl
@[simp] theorem Instr.flds_imulCompact (d : BitVec 6) (s : BitVec 5) : (Instr.imulCompact d s).flds =
    [⟨.a, d.setWidth 8, .rw, .one⟩, ⟨.b, s.setWidth 8, .rd, .one⟩] := rfl
@[simp] theorem Instr.flds_faddCompact (d : BitVec 6) (s : BitVec 5) : (Instr.faddCompact d s).flds =
    [⟨.a, d.setWidth 8, .rw, .one⟩, ⟨.b, s.setWidth 8, .rd, .one⟩] := rfl
@[simp] theorem Instr.flds_fsubCompact (d : BitVec 6) (s : BitVec 5) : (Instr.fsubCompact d s).flds =
    [⟨.a, d.setWidth 8, .rw, .one⟩, ⟨.b, s.setWidth 8, .rd, .one⟩] := rfl
@[simp] theorem Instr.flds_fmulCompact (d : BitVec 6) (s : BitVec 5) : (Instr.fmulCompact d s).flds =
    [⟨.a, d.setWidth 8, .rw, .one⟩, ⟨.b, s.setWidth 8, .rd, .one⟩] := rfl
@[simp] theorem Instr.flds_fmaxCompact (d : BitVec 6) (s : BitVec 5) : (Instr.fmaxCompact d s).flds =
    [⟨.a, d.setWidth 8, .rw, .one⟩, ⟨.b, s.setWidth 8, .rd, .one⟩] := rfl
@[simp] theorem Instr.flds_iaddiCompact (d : BitVec 6) (x1 : BitVec 5) : (Instr.iaddiCompact d x1).flds =
    [⟨.a, d.setWidth 8, .rw, .one⟩] := rfl
@[simp] theorem Instr.flds_movi (d : BitVec 6) (x1 : BitVec 5) : (Instr.movi d x1).flds =
    [⟨.d, d.setWidth 8, .wr, .one⟩] := rfl
@[simp] theorem Instr.flds_iadd (d : BitVec 8) (a : BitVec 8) (b : BitVec 8) : (Instr.iadd d a b).flds =
    [⟨.a, a, .rd, .one⟩, ⟨.b, b, .rd, .one⟩, ⟨.d, d, .wr, .one⟩] := rfl
@[simp] theorem Instr.flds_isub (d : BitVec 8) (a : BitVec 8) (b : BitVec 8) : (Instr.isub d a b).flds =
    [⟨.a, a, .rd, .one⟩, ⟨.b, b, .rd, .one⟩, ⟨.d, d, .wr, .one⟩] := rfl
@[simp] theorem Instr.flds_imul (d : BitVec 8) (a : BitVec 8) (b : BitVec 8) (x3 : Bool) : (Instr.imul d a b x3).flds =
    [⟨.a, a, .rd, .one⟩, ⟨.b, b, .rd, .one⟩, ⟨.d, d, .wr, .one⟩] := rfl
@[simp] theorem Instr.flds_imulhs (d : BitVec 8) (a : BitVec 8) (b : BitVec 8) : (Instr.imulhs d a b).flds =
    [⟨.a, a, .rd, .one⟩, ⟨.b, b, .rd, .one⟩, ⟨.d, d, .wr, .one⟩] := rfl
@[simp] theorem Instr.flds_imad (d : BitVec 8) (a : BitVec 8) (b : BitVec 8) (x : Bool) : (Instr.imad d a b x).flds =
    [⟨.a, a, .rd, .one⟩, ⟨.b, b, .rd, .one⟩, ⟨.d, d, .rw, (if x then .pair else .one)⟩] := rfl
@[simp] theorem Instr.flds_and (d : BitVec 8) (a : BitVec 8) (b : BitVec 8) : (Instr.and d a b).flds =
    [⟨.a, a, .rd, .one⟩, ⟨.b, b, .rd, .one⟩, ⟨.d, d, .wr, .one⟩] := rfl
@[simp] theorem Instr.flds_or (d : BitVec 8) (a : BitVec 8) (b : BitVec 8) : (Instr.or d a b).flds =
    [⟨.a, a, .rd, .one⟩, ⟨.b, b, .rd, .one⟩, ⟨.d, d, .wr, .one⟩] := rfl
@[simp] theorem Instr.flds_xor (d : BitVec 8) (a : BitVec 8) (b : BitVec 8) : (Instr.xor d a b).flds =
    [⟨.a, a, .rd, .one⟩, ⟨.b, b, .rd, .one⟩, ⟨.d, d, .wr, .one⟩] := rfl
@[simp] theorem Instr.flds_andn (d : BitVec 8) (a : BitVec 8) (b : BitVec 8) : (Instr.andn d a b).flds =
    [⟨.a, a, .rd, .one⟩, ⟨.b, b, .rd, .one⟩, ⟨.d, d, .wr, .one⟩] := rfl
@[simp] theorem Instr.flds_shl (d : BitVec 8) (a : BitVec 8) (b : BitVec 8) : (Instr.shl d a b).flds =
    [⟨.a, a, .rd, .one⟩, ⟨.b, b, .rd, .one⟩, ⟨.d, d, .wr, .one⟩] := rfl
@[simp] theorem Instr.flds_shr (d : BitVec 8) (a : BitVec 8) (b : BitVec 8) : (Instr.shr d a b).flds =
    [⟨.a, a, .rd, .one⟩, ⟨.b, b, .rd, .one⟩, ⟨.d, d, .wr, .one⟩] := rfl
@[simp] theorem Instr.flds_sar (d : BitVec 8) (a : BitVec 8) (b : BitVec 8) : (Instr.sar d a b).flds =
    [⟨.a, a, .rd, .one⟩, ⟨.b, b, .rd, .one⟩, ⟨.d, d, .wr, .one⟩] := rfl
@[simp] theorem Instr.flds_imin (d : BitVec 8) (a : BitVec 8) (b : BitVec 8) (x3 : Bool) : (Instr.imin d a b x3).flds =
    [⟨.a, a, .rd, .one⟩, ⟨.b, b, .rd, .one⟩, ⟨.d, d, .wr, .one⟩] := rfl
@[simp] theorem Instr.flds_imax (d : BitVec 8) (a : BitVec 8) (b : BitVec 8) (x3 : Bool) : (Instr.imax d a b x3).flds =
    [⟨.a, a, .rd, .one⟩, ⟨.b, b, .rd, .one⟩, ⟨.d, d, .wr, .one⟩] := rfl
@[simp] theorem Instr.flds_iadd64 (d : BitVec 8) (a : BitVec 8) (b : BitVec 8) (x3 : Bool) : (Instr.iadd64 d a b x3).flds =
    [⟨.a, a, .rd, .pair⟩, ⟨.b, b, .rd, .pair⟩, ⟨.d, d, .wr, .pair⟩] := rfl
@[simp] theorem Instr.flds_perm (d : BitVec 8) (a : BitVec 8) (b : BitVec 8) : (Instr.perm d a b).flds =
    [⟨.a, a, .rd, .one⟩, ⟨.b, b, .rd, .one⟩, ⟨.d, d, .rw, .one⟩] := rfl
@[simp] theorem Instr.flds_mov (d : BitVec 8) (a : BitVec 8) : (Instr.mov d a).flds =
    [⟨.a, a, .rd, .one⟩, ⟨.d, d, .wr, .one⟩] := rfl
@[simp] theorem Instr.flds_not (d : BitVec 8) (a : BitVec 8) : (Instr.not d a).flds =
    [⟨.a, a, .rd, .one⟩, ⟨.d, d, .wr, .one⟩] := rfl
@[simp] theorem Instr.flds_neg (d : BitVec 8) (a : BitVec 8) : (Instr.neg d a).flds =
    [⟨.a, a, .rd, .one⟩, ⟨.d, d, .wr, .one⟩] := rfl
@[simp] theorem Instr.flds_iabs (d : BitVec 8) (a : BitVec 8) : (Instr.iabs d a).flds =
    [⟨.a, a, .rd, .one⟩, ⟨.d, d, .wr, .one⟩] := rfl
@[simp] theorem Instr.flds_clz (d : BitVec 8) (a : BitVec 8) : (Instr.clz d a).flds =
    [⟨.a, a, .rd, .one⟩, ⟨.d, d, .wr, .one⟩] := rfl
@[simp] theorem Instr.flds_popc (d : BitVec 8) (a : BitVec 8) : (Instr.popc d a).flds =
    [⟨.a, a, .rd, .one⟩, ⟨.d, d, .wr, .one⟩] := rfl
@[simp] theorem Instr.flds_brev (d : BitVec 8) (a : BitVec 8) : (Instr.brev d a).flds =
    [⟨.a, a, .rd, .one⟩, ⟨.d, d, .wr, .one⟩] := rfl
@[simp] theorem Instr.flds_sexb (d : BitVec 8) (a : BitVec 8) : (Instr.sexb d a).flds =
    [⟨.a, a, .rd, .one⟩, ⟨.d, d, .wr, .one⟩] := rfl
@[simp] theorem Instr.flds_sexh (d : BitVec 8) (a : BitVec 8) : (Instr.sexh d a).flds =
    [⟨.a, a, .rd, .one⟩, ⟨.d, d, .wr, .one⟩] := rfl
@[simp] theorem Instr.flds_zexb (d : BitVec 8) (a : BitVec 8) : (Instr.zexb d a).flds =
    [⟨.a, a, .rd, .one⟩, ⟨.d, d, .wr, .one⟩] := rfl
@[simp] theorem Instr.flds_zexh (d : BitVec 8) (a : BitVec 8) : (Instr.zexh d a).flds =
    [⟨.a, a, .rd, .one⟩, ⟨.d, d, .wr, .one⟩] := rfl
@[simp] theorem Instr.flds_laneid (d : BitVec 8) : (Instr.laneid d).flds =
    [⟨.d, d, .wr, .one⟩] := rfl
@[simp] theorem Instr.flds_tidx (d : BitVec 8) : (Instr.tidx d).flds =
    [⟨.d, d, .wr, .one⟩] := rfl
@[simp] theorem Instr.flds_teamix (d : BitVec 8) : (Instr.teamix d).flds =
    [⟨.d, d, .wr, .one⟩] := rfl
@[simp] theorem Instr.flds_clklo (d : BitVec 8) : (Instr.clklo d).flds =
    [⟨.d, d, .wr, .one⟩] := rfl
@[simp] theorem Instr.flds_clkhi (d : BitVec 8) : (Instr.clkhi d).flds =
    [⟨.d, d, .wr, .one⟩] := rfl
@[simp] theorem Instr.flds_b2g (d : BitVec 8) (x1 : BitVec 3) : (Instr.b2g d x1).flds =
    [⟨.d, d, .wr, .one⟩] := rfl
@[simp] theorem Instr.flds_g2b (x0 : BitVec 3) (a : BitVec 8) : (Instr.g2b x0 a).flds =
    [⟨.a, a, .rd, .one⟩] := rfl
@[simp] theorem Instr.flds_clz64 (d : BitVec 8) (a : BitVec 8) : (Instr.clz64 d a).flds =
    [⟨.a, a, .rd, .pair⟩, ⟨.d, d, .wr, .one⟩] := rfl
@[simp] theorem Instr.flds_popc64 (d : BitVec 8) (a : BitVec 8) : (Instr.popc64 d a).flds =
    [⟨.a, a, .rd, .pair⟩, ⟨.d, d, .wr, .one⟩] := rfl
@[simp] theorem Instr.flds_iaddi (d : BitVec 8) (a : BitVec 8) (x2 : BitVec 9) : (Instr.iaddi d a x2).flds =
    [⟨.a, a, .rd, .one⟩, ⟨.d, d, .wr, .one⟩] := rfl
@[simp] theorem Instr.flds_andi (d : BitVec 8) (a : BitVec 8) (x2 : BitVec 9) : (Instr.andi d a x2).flds =
    [⟨.a, a, .rd, .one⟩, ⟨.d, d, .wr, .one⟩] := rfl
@[simp] theorem Instr.flds_ori (d : BitVec 8) (a : BitVec 8) (x2 : BitVec 9) : (Instr.ori d a x2).flds =
    [⟨.a, a, .rd, .one⟩, ⟨.d, d, .wr, .one⟩] := rfl
@[simp] theorem Instr.flds_xori (d : BitVec 8) (a : BitVec 8) (x2 : BitVec 9) : (Instr.xori d a x2).flds =
    [⟨.a, a, .rd, .one⟩, ⟨.d, d, .wr, .one⟩] := rfl
@[simp] theorem Instr.flds_shli (d : BitVec 8) (a : BitVec 8) (x2 : BitVec 5) : (Instr.shli d a x2).flds =
    [⟨.a, a, .rd, .one⟩, ⟨.d, d, .wr, .one⟩] := rfl
@[simp] theorem Instr.flds_shri (d : BitVec 8) (a : BitVec 8) (x2 : BitVec 5) : (Instr.shri d a x2).flds =
    [⟨.a, a, .rd, .one⟩, ⟨.d, d, .wr, .one⟩] := rfl
@[simp] theorem Instr.flds_sari (d : BitVec 8) (a : BitVec 8) (x2 : BitVec 5) : (Instr.sari d a x2).flds =
    [⟨.a, a, .rd, .one⟩, ⟨.d, d, .wr, .one⟩] := rfl
@[simp] theorem Instr.flds_rotri (d : BitVec 8) (a : BitVec 8) (x2 : BitVec 5) : (Instr.rotri d a x2).flds =
    [⟨.a, a, .rd, .one⟩, ⟨.d, d, .wr, .one⟩] := rfl
@[simp] theorem Instr.flds_movkl (d : BitVec 8) (x1 : BitVec 16) : (Instr.movkl d x1).flds =
    [⟨.d, d, .wr, .one⟩] := rfl
@[simp] theorem Instr.flds_movkh (d : BitVec 8) (x1 : BitVec 16) : (Instr.movkh d x1).flds =
    [⟨.d, d, .rw, .one⟩] := rfl
@[simp] theorem Instr.flds_icmp (x0 : BitVec 3) (x1 : BitVec 3) (x2 : Bool) (a : BitVec 8) (b : BitVec 8) : (Instr.icmp x0 x1 x2 a b).flds =
    [⟨.a, a, .rd, .one⟩, ⟨.b, b, .rd, .one⟩] := rfl
@[simp] theorem Instr.flds_icmpi (x0 : BitVec 3) (x1 : BitVec 3) (x2 : Bool) (a : BitVec 8) (x4 : BitVec 8) : (Instr.icmpi x0 x1 x2 a x4).flds =
    [⟨.a, a, .rd, .one⟩] := rfl
@[simp] theorem Instr.flds_sel (x0 : BitVec 3) (x1 : Bool) (d : BitVec 8) (a : BitVec 8) : (Instr.sel x0 x1 d a).flds =
    [⟨.a, a, .rd, .one⟩, ⟨.d, d, .rw, .one⟩] := rfl
@[simp] theorem Instr.flds_shflIdx (x0 : BitVec 4) (d : BitVec 8) (c : BitVec 8) (x3 : Bool) : (Instr.shflIdx x0 d c x3).flds =
    [⟨.a, d, .rw, .one⟩, ⟨.b, c, .rd, .one⟩] := rfl
@[simp] theorem Instr.flds_shflUp (x0 : BitVec 4) (d : BitVec 8) (x2 : BitVec 8) (x3 : Bool) : (Instr.shflUp x0 d x2 x3).flds =
    [⟨.a, d, .rw, .one⟩] := rfl
@[simp] theorem Instr.flds_shflDown (x0 : BitVec 4) (d : BitVec 8) (x2 : BitVec 8) (x3 : Bool) : (Instr.shflDown x0 d x2 x3).flds =
    [⟨.a, d, .rw, .one⟩] := rfl
@[simp] theorem Instr.flds_shflXor (x0 : BitVec 4) (d : BitVec 8) (x2 : BitVec 8) (x3 : Bool) : (Instr.shflXor x0 d x2 x3).flds =
    [⟨.a, d, .rw, .one⟩] := rfl
@[simp] theorem Instr.flds_voteBallot (x0 : BitVec 4) (d : BitVec 8) (x2 : BitVec 3) (x3 : Bool) : (Instr.voteBallot x0 d x2 x3).flds =
    [⟨.a, d, .wr, .mask⟩] := rfl
@[simp] theorem Instr.flds_voteMatch (x0 : BitVec 4) (d : BitVec 8) (a : BitVec 8) (x3 : Bool) : (Instr.voteMatch x0 d a x3).flds =
    [⟨.b, a, .rd, .one⟩, ⟨.a, d, .wr, .mask⟩] := rfl
@[simp] theorem Instr.flds_voteRadd (x0 : BitVec 4) (d : BitVec 8) (a : BitVec 8) (x3 : Bool) : (Instr.voteRadd x0 d a x3).flds =
    [⟨.b, a, .rd, .one⟩, ⟨.a, d, .wr, .one⟩] := rfl
@[simp] theorem Instr.flds_voteRmin (x0 : BitVec 4) (d : BitVec 8) (a : BitVec 8) (x3 : Bool) : (Instr.voteRmin x0 d a x3).flds =
    [⟨.b, a, .rd, .one⟩, ⟨.a, d, .wr, .one⟩] := rfl
@[simp] theorem Instr.flds_voteRmax (x0 : BitVec 4) (d : BitVec 8) (a : BitVec 8) (x3 : Bool) : (Instr.voteRmax x0 d a x3).flds =
    [⟨.b, a, .rd, .one⟩, ⟨.a, d, .wr, .one⟩] := rfl
@[simp] theorem Instr.flds_voteRfadd (x0 : BitVec 4) (d : BitVec 8) (a : BitVec 8) (x3 : Bool) : (Instr.voteRfadd x0 d a x3).flds =
    [⟨.b, a, .rd, .one⟩, ⟨.a, d, .wr, .one⟩] := rfl
@[simp] theorem Instr.flds_fadd (d : BitVec 8) (a : BitVec 8) (b : BitVec 8) (x3 : Bool) : (Instr.fadd d a b x3).flds =
    [⟨.a, a, .rd, .one⟩, ⟨.b, b, .rd, .one⟩, ⟨.d, d, .wr, .one⟩] := rfl
@[simp] theorem Instr.flds_fsub (d : BitVec 8) (a : BitVec 8) (b : BitVec 8) (x3 : Bool) : (Instr.fsub d a b x3).flds =
    [⟨.a, a, .rd, .one⟩, ⟨.b, b, .rd, .one⟩, ⟨.d, d, .wr, .one⟩] := rfl
@[simp] theorem Instr.flds_fmul (d : BitVec 8) (a : BitVec 8) (b : BitVec 8) (x3 : Bool) : (Instr.fmul d a b x3).flds =
    [⟨.a, a, .rd, .one⟩, ⟨.b, b, .rd, .one⟩, ⟨.d, d, .wr, .one⟩] := rfl
@[simp] theorem Instr.flds_ffma (d : BitVec 8) (a : BitVec 8) (b : BitVec 8) (x3 : Bool) : (Instr.ffma d a b x3).flds =
    [⟨.a, a, .rd, .one⟩, ⟨.b, b, .rd, .one⟩, ⟨.d, d, .rw, .one⟩] := rfl
@[simp] theorem Instr.flds_fmin (d : BitVec 8) (a : BitVec 8) (b : BitVec 8) (x3 : Bool) : (Instr.fmin d a b x3).flds =
    [⟨.a, a, .rd, .one⟩, ⟨.b, b, .rd, .one⟩, ⟨.d, d, .wr, .one⟩] := rfl
@[simp] theorem Instr.flds_fmax (d : BitVec 8) (a : BitVec 8) (b : BitVec 8) (x3 : Bool) : (Instr.fmax d a b x3).flds =
    [⟨.a, a, .rd, .one⟩, ⟨.b, b, .rd, .one⟩, ⟨.d, d, .wr, .one⟩] := rfl
@[simp] theorem Instr.flds_fabs (d : BitVec 8) (a : BitVec 8) (x2 : BitVec 4) : (Instr.fabs d a x2).flds =
    [⟨.a, a, .rd, .one⟩, ⟨.d, d, .wr, .one⟩] := rfl
@[simp] theorem Instr.flds_fneg (d : BitVec 8) (a : BitVec 8) (x2 : BitVec 4) : (Instr.fneg d a x2).flds =
    [⟨.a, a, .rd, .one⟩, ⟨.d, d, .wr, .one⟩] := rfl
@[simp] theorem Instr.flds_frcp (d : BitVec 8) (a : BitVec 8) (x2 : BitVec 4) : (Instr.frcp d a x2).flds =
    [⟨.a, a, .rd, .one⟩, ⟨.d, d, .wr, .one⟩] := rfl
@[simp] theorem Instr.flds_frsq (d : BitVec 8) (a : BitVec 8) (x2 : BitVec 4) : (Instr.frsq d a x2).flds =
    [⟨.a, a, .rd, .one⟩, ⟨.d, d, .wr, .one⟩] := rfl
@[simp] theorem Instr.flds_fsqrt (d : BitVec 8) (a : BitVec 8) (x2 : BitVec 4) : (Instr.fsqrt d a x2).flds =
    [⟨.a, a, .rd, .one⟩, ⟨.d, d, .wr, .one⟩] := rfl
@[simp] theorem Instr.flds_fexp2 (d : BitVec 8) (a : BitVec 8) (x2 : BitVec 4) : (Instr.fexp2 d a x2).flds =
    [⟨.a, a, .rd, .one⟩, ⟨.d, d, .wr, .one⟩] := rfl
@[simp] theorem Instr.flds_flog2 (d : BitVec 8) (a : BitVec 8) (x2 : BitVec 4) : (Instr.flog2 d a x2).flds =
    [⟨.a, a, .rd, .one⟩, ⟨.d, d, .wr, .one⟩] := rfl
@[simp] theorem Instr.flds_fsin (d : BitVec 8) (a : BitVec 8) (x2 : BitVec 4) : (Instr.fsin d a x2).flds =
    [⟨.a, a, .rd, .one⟩, ⟨.d, d, .wr, .one⟩] := rfl
@[simp] theorem Instr.flds_fcos (d : BitVec 8) (a : BitVec 8) (x2 : BitVec 4) : (Instr.fcos d a x2).flds =
    [⟨.a, a, .rd, .one⟩, ⟨.d, d, .wr, .one⟩] := rfl
@[simp] theorem Instr.flds_ftanh (d : BitVec 8) (a : BitVec 8) (x2 : BitVec 4) : (Instr.ftanh d a x2).flds =
    [⟨.a, a, .rd, .one⟩, ⟨.d, d, .wr, .one⟩] := rfl
@[simp] theorem Instr.flds_ffloor (d : BitVec 8) (a : BitVec 8) (x2 : BitVec 4) : (Instr.ffloor d a x2).flds =
    [⟨.a, a, .rd, .one⟩, ⟨.d, d, .wr, .one⟩] := rfl
@[simp] theorem Instr.flds_fceil (d : BitVec 8) (a : BitVec 8) (x2 : BitVec 4) : (Instr.fceil d a x2).flds =
    [⟨.a, a, .rd, .one⟩, ⟨.d, d, .wr, .one⟩] := rfl
@[simp] theorem Instr.flds_ftrunc (d : BitVec 8) (a : BitVec 8) (x2 : BitVec 4) : (Instr.ftrunc d a x2).flds =
    [⟨.a, a, .rd, .one⟩, ⟨.d, d, .wr, .one⟩] := rfl
@[simp] theorem Instr.flds_frint (d : BitVec 8) (a : BitVec 8) (x2 : BitVec 4) : (Instr.frint d a x2).flds =
    [⟨.a, a, .rd, .one⟩, ⟨.d, d, .wr, .one⟩] := rfl
@[simp] theorem Instr.flds_fclass (d : BitVec 8) (a : BitVec 8) (x2 : BitVec 4) : (Instr.fclass d a x2).flds =
    [⟨.a, a, .rd, .one⟩, ⟨.d, d, .wr, .one⟩] := rfl
@[simp] theorem Instr.flds_fsat (d : BitVec 8) (a : BitVec 8) (x2 : BitVec 4) : (Instr.fsat d a x2).flds =
    [⟨.a, a, .rd, .one⟩, ⟨.d, d, .wr, .one⟩] := rfl
@[simp] theorem Instr.flds_fcmp (x0 : BitVec 3) (x1 : BitVec 3) (x2 : Bool) (a : BitVec 8) (b : BitVec 8) : (Instr.fcmp x0 x1 x2 a b).flds =
    [⟨.a, a, .rd, .one⟩, ⟨.b, b, .rd, .one⟩] := rfl
@[simp] theorem Instr.flds_cvt (d : BitVec 8) (a : BitVec 8) (x2 : BitVec 3) (x3 : BitVec 2) (x4 : BitVec 2) (i : Bool) : (Instr.cvt d a x2 x3 x4 i).flds =
    [⟨.a, a, .rd, .one⟩, ⟨.d, d, (if i then .rw else .wr), .one⟩] := rfl
@[simp] theorem Instr.flds_cvif (d : BitVec 8) (a : BitVec 8) : (Instr.cvif d a).flds =
    [⟨.a, a, .rd, .one⟩, ⟨.d, d, .wr, .one⟩] := rfl
@[simp] theorem Instr.flds_cvnf (d : BitVec 8) (a : BitVec 8) : (Instr.cvnf d a).flds =
    [⟨.a, a, .rd, .one⟩, ⟨.d, d, .wr, .one⟩] := rfl
@[simp] theorem Instr.flds_cvfi (d : BitVec 8) (a : BitVec 8) : (Instr.cvfi d a).flds =
    [⟨.a, a, .rd, .one⟩, ⟨.d, d, .wr, .one⟩] := rfl
@[simp] theorem Instr.flds_cvfn (d : BitVec 8) (a : BitVec 8) : (Instr.cvfn d a).flds =
    [⟨.a, a, .rd, .one⟩, ⟨.d, d, .wr, .one⟩] := rfl
@[simp] theorem Instr.flds_cvhf (d : BitVec 8) (a : BitVec 8) (x2 : Bool) : (Instr.cvhf d a x2).flds =
    [⟨.a, a, .rd, .one⟩, ⟨.d, d, .wr, .one⟩] := rfl
@[simp] theorem Instr.flds_cvbf (d : BitVec 8) (a : BitVec 8) : (Instr.cvbf d a).flds =
    [⟨.a, a, .rd, .one⟩, ⟨.d, d, .wr, .one⟩] := rfl
@[simp] theorem Instr.flds_cv8af (d : BitVec 8) (a : BitVec 8) : (Instr.cv8af d a).flds =
    [⟨.a, a, .rd, .one⟩, ⟨.d, d, .wr, .one⟩] := rfl
@[simp] theorem Instr.flds_cv8bf (d : BitVec 8) (a : BitVec 8) : (Instr.cv8bf d a).flds =
    [⟨.a, a, .rd, .one⟩, ⟨.d, d, .wr, .one⟩] := rfl
@[simp] theorem Instr.flds_dot4 (d : BitVec 8) (a : BitVec 8) (b : BitVec 8) : (Instr.dot4 d a b).flds =
    [⟨.a, a, .rd, .one⟩, ⟨.b, b, .rd, .one⟩, ⟨.d, d, .rw, .one⟩] := rfl
@[simp] theorem Instr.flds_dot2 (d : BitVec 8) (a : BitVec 8) (b : BitVec 8) : (Instr.dot2 d a b).flds =
    [⟨.a, a, .rd, .one⟩, ⟨.b, b, .rd, .one⟩, ⟨.d, d, .rw, .one⟩] := rfl
@[simp] theorem Instr.flds_idiv (d : BitVec 8) (a : BitVec 8) (b : BitVec 8) : (Instr.idiv d a b).flds =
    [⟨.a, a, .rd, .one⟩, ⟨.b, b, .rd, .one⟩, ⟨.d, d, .wr, .one⟩] := rfl
@[simp] theorem Instr.flds_idivu (d : BitVec 8) (a : BitVec 8) (b : BitVec 8) : (Instr.idivu d a b).flds =
    [⟨.a, a, .rd, .one⟩, ⟨.b, b, .rd, .one⟩, ⟨.d, d, .wr, .one⟩] := rfl
@[simp] theorem Instr.flds_scmp (x0 : BitVec 3) (x1 : BitVec 2) (x2 : BitVec 3) (a : BitVec 8) (b : BitVec 8) : (Instr.scmp x0 x1 x2 a b).flds =
    [⟨.a, a, .rd, .one⟩, ⟨.b, b, .rd, .one⟩] := rfl
@[simp] theorem Instr.flds_blend (x0 : BitVec 3) (x1 : Bool) (d : BitVec 8) (a : BitVec 8) : (Instr.blend x0 x1 d a).flds =
    [⟨.a, a, .rd, .one⟩, ⟨.d, d, .rw, .one⟩] := rfl
@[simp] theorem Instr.flds_blendi (x0 : BitVec 3) (x1 : Bool) (d : BitVec 8) (a : BitVec 8) : (Instr.blendi x0 x1 d a).flds =
    [⟨.a, a, .rd, .one⟩, ⟨.d, d, .rw, .one⟩] := rfl
@[simp] theorem Instr.flds_selq (x0 : BitVec 3) (x1 : Bool) (d : BitVec 8) (a : BitVec 8) : (Instr.selq x0 x1 d a).flds =
    [⟨.a, a, .rd, .one⟩, ⟨.d, d, .rw, .one⟩] := rfl
@[simp] theorem Instr.flds_qset (x0 : BitVec 3) (a : BitVec 8) : (Instr.qset x0 a).flds =
    [⟨.a, a, .rd, .one⟩] := rfl
@[simp] theorem Instr.flds_qget (x0 : BitVec 3) (d : BitVec 8) : (Instr.qget x0 d).flds =
    [⟨.a, d, .wr, .one⟩] := rfl
@[simp] theorem Instr.flds_pgrad (x0 : BitVec 3) (x1 : BitVec 2) (d : BitVec 8) : (Instr.pgrad x0 x1 d).flds =
    [⟨.a, d, .wr, .one⟩] := rfl
@[simp] theorem Instr.flds_ld (d : BitVec 8) (a : BitVec 8) (x2 : BitVec 4) (s : BitVec 3) (x4 : BitVec 2) : (Instr.ld d a x2 s x4).flds =
    [⟨.a, a, .rd, .pair⟩, ⟨.d, d, .wr, (sizeShape s)⟩] := rfl
@[simp] theorem Instr.flds_st (d : BitVec 8) (a : BitVec 8) (x2 : BitVec 4) (s : BitVec 3) (x4 : BitVec 2) : (Instr.st d a x2 s x4).flds =
    [⟨.a, a, .rd, .pair⟩, ⟨.d, d, .rd, (sizeShape s)⟩] := rfl
@[simp] theorem Instr.flds_ldl (d : BitVec 8) (a : BitVec 8) (x2 : BitVec 4) (s : BitVec 3) (x4 : BitVec 2) : (Instr.ldl d a x2 s x4).flds =
    [⟨.a, a, .rd, .g⟩, ⟨.d, d, .wr, (sizeShape s)⟩] := rfl
@[simp] theorem Instr.flds_stl (d : BitVec 8) (a : BitVec 8) (x2 : BitVec 4) (s : BitVec 3) (x4 : BitVec 2) : (Instr.stl d a x2 s x4).flds =
    [⟨.a, a, .rd, .g⟩, ⟨.d, d, .rd, (sizeShape s)⟩] := rfl
@[simp] theorem Instr.flds_atomAdd (d : BitVec 8) (a : BitVec 8) (x2 : BitVec 4) (x3 : BitVec 2) : (Instr.atomAdd d a x2 x3).flds =
    [⟨.a, a, .rd, .pair⟩, ⟨.d, d, .rw, .one⟩] := rfl
@[simp] theorem Instr.flds_atomAdd64 (d : BitVec 8) (a : BitVec 8) (x2 : BitVec 4) (x3 : BitVec 2) : (Instr.atomAdd64 d a x2 x3).flds =
    [⟨.a, a, .rd, .pair⟩, ⟨.d, d, .rw, .pair⟩] := rfl
@[simp] theorem Instr.flds_atomMin (d : BitVec 8) (a : BitVec 8) (x2 : BitVec 4) (x3 : BitVec 2) : (Instr.atomMin d a x2 x3).flds =
    [⟨.a, a, .rd, .pair⟩, ⟨.d, d, .rw, .one⟩] := rfl
@[simp] theorem Instr.flds_atomMax (d : BitVec 8) (a : BitVec 8) (x2 : BitVec 4) (x3 : BitVec 2) : (Instr.atomMax d a x2 x3).flds =
    [⟨.a, a, .rd, .pair⟩, ⟨.d, d, .rw, .one⟩] := rfl
@[simp] theorem Instr.flds_atomAnd (d : BitVec 8) (a : BitVec 8) (x2 : BitVec 4) (x3 : BitVec 2) : (Instr.atomAnd d a x2 x3).flds =
    [⟨.a, a, .rd, .pair⟩, ⟨.d, d, .rw, .one⟩] := rfl
@[simp] theorem Instr.flds_atomOr (d : BitVec 8) (a : BitVec 8) (x2 : BitVec 4) (x3 : BitVec 2) : (Instr.atomOr d a x2 x3).flds =
    [⟨.a, a, .rd, .pair⟩, ⟨.d, d, .rw, .one⟩] := rfl
@[simp] theorem Instr.flds_atomXchg (d : BitVec 8) (a : BitVec 8) (x2 : BitVec 4) (x3 : BitVec 2) : (Instr.atomXchg d a x2 x3).flds =
    [⟨.a, a, .rd, .pair⟩, ⟨.d, d, .rw, .one⟩] := rfl
@[simp] theorem Instr.flds_atomCas (d : BitVec 8) (a : BitVec 8) (x2 : BitVec 4) (x3 : BitVec 2) : (Instr.atomCas d a x2 x3).flds =
    [⟨.a, a, .rd, .pair⟩, ⟨.d, d, .rw, .pair⟩] := rfl
@[simp] theorem Instr.flds_atomlAdd (d : BitVec 8) (a : BitVec 8) (x2 : BitVec 4) (x3 : Bool) : (Instr.atomlAdd d a x2 x3).flds =
    [⟨.a, a, .rd, .g⟩, ⟨.d, d, .rw, .one⟩] := rfl
@[simp] theorem Instr.flds_atomlFadd (d : BitVec 8) (a : BitVec 8) (x2 : BitVec 4) (x3 : Bool) : (Instr.atomlFadd d a x2 x3).flds =
    [⟨.a, a, .rd, .g⟩, ⟨.d, d, .rw, .one⟩] := rfl
@[simp] theorem Instr.flds_atomlMin (d : BitVec 8) (a : BitVec 8) (x2 : BitVec 4) (x3 : Bool) : (Instr.atomlMin d a x2 x3).flds =
    [⟨.a, a, .rd, .g⟩, ⟨.d, d, .rw, .one⟩] := rfl
@[simp] theorem Instr.flds_atomlMax (d : BitVec 8) (a : BitVec 8) (x2 : BitVec 4) (x3 : Bool) : (Instr.atomlMax d a x2 x3).flds =
    [⟨.a, a, .rd, .g⟩, ⟨.d, d, .rw, .one⟩] := rfl
@[simp] theorem Instr.flds_atomlXchg (d : BitVec 8) (a : BitVec 8) (x2 : BitVec 4) (x3 : Bool) : (Instr.atomlXchg d a x2 x3).flds =
    [⟨.a, a, .rd, .g⟩, ⟨.d, d, .rw, .one⟩] := rfl
@[simp] theorem Instr.flds_atomlCas (d : BitVec 8) (a : BitVec 8) (x2 : BitVec 4) (x3 : Bool) : (Instr.atomlCas d a x2 x3).flds =
    [⟨.a, a, .rd, .g⟩, ⟨.d, d, .rw, .pair⟩] := rfl
@[simp] theorem Instr.flds_atomlFadd2 (d : BitVec 8) (a : BitVec 8) (x2 : BitVec 4) (x3 : Bool) : (Instr.atomlFadd2 d a x2 x3).flds =
    [⟨.a, a, .rd, .g⟩, ⟨.d, d, .rw, .one⟩] := rfl
@[simp] theorem Instr.flds_atomlOr (d : BitVec 8) (a : BitVec 8) (x2 : BitVec 4) (x3 : Bool) : (Instr.atomlOr d a x2 x3).flds =
    [⟨.a, a, .rd, .g⟩, ⟨.d, d, .rw, .one⟩] := rfl
@[simp] theorem Instr.flds_nbExpect (x0 : BitVec 4) (x1 : Bool) (a : BitVec 8) : (Instr.nbExpect x0 x1 a).flds =
    [⟨.a, a, .rd, .one⟩] := rfl
@[simp] theorem Instr.flds_nbArr (x0 : BitVec 4) (x1 : Bool) (d : BitVec 8) (x3 : Bool) : (Instr.nbArr x0 x1 d x3).flds =
    [⟨.a, d, .wr, .one⟩] := rfl
@[simp] theorem Instr.flds_nbWait (x0 : BitVec 4) (x1 : Bool) (a : BitVec 8) : (Instr.nbWait x0 x1 a).flds =
    [⟨.a, a, .rd, .one⟩] := rfl
@[simp] theorem Instr.flds_nbTest (x0 : BitVec 4) (x1 : Bool) (a : BitVec 8) (x3 : BitVec 3) : (Instr.nbTest x0 x1 a x3).flds =
    [⟨.a, a, .rd, .one⟩] := rfl
@[simp] theorem Instr.flds_cpyG2l (x0 : BitVec 5) (l : BitVec 8) (c : BitVec 8) : (Instr.cpyG2l x0 l c).flds =
    [⟨.a, l, .rd, .g⟩, ⟨.b, c, .rd, .g⟩] := rfl
@[simp] theorem Instr.flds_cpyL2g (x0 : BitVec 5) (l : BitVec 8) (c : BitVec 8) : (Instr.cpyL2g x0 l c).flds =
    [⟨.a, l, .rd, .g⟩, ⟨.b, c, .rd, .g⟩] := rfl
@[simp] theorem Instr.flds_cpyL2l (p : BitVec 8) (c : BitVec 8) : (Instr.cpyL2l p c).flds =
    [⟨.a, p, .rd, .pair2⟩, ⟨.b, c, .rd, .g⟩] := rfl
@[simp] theorem Instr.flds_cpyG2g (p : BitVec 8) (c : BitVec 8) : (Instr.cpyG2g p c).flds =
    [⟨.a, p, .rd, .quad⟩, ⟨.b, c, .rd, .g⟩] := rfl
@[simp] theorem Instr.flds_cpyPfx (p : BitVec 8) (c : BitVec 8) : (Instr.cpyPfx p c).flds =
    [⟨.a, p, .rd, .pair⟩, ⟨.b, c, .rd, .g⟩] := rfl
@[simp] theorem Instr.flds_strm (x0 : BitVec 2) (d : BitVec 8) : (Instr.strm x0 d).flds =
    [⟨.a, d, .rd, .one⟩] := rfl
@[simp] theorem Instr.flds_mxIssue (a : BitVec 8) : (Instr.mxIssue a).flds =
    [⟨.a, a, .rd, .g⟩] := rfl
@[simp] theorem Instr.flds_mxStore (x0 : BitVec 2) (x1 : BitVec 2) (x2 : Bool) (a : BitVec 8) : (Instr.mxStore x0 x1 x2 a).flds =
    [⟨.a, a, .rd, .g⟩] := rfl
@[simp] theorem Instr.flds_mxLoad (x0 : Bool) (a : BitVec 8) : (Instr.mxLoad x0 a).flds =
    [⟨.a, a, .rd, .g⟩] := rfl
@[simp] theorem Instr.flds_mxProg (d : BitVec 8) (x1 : Bool) : (Instr.mxProg d x1).flds =
    [⟨.a, d, .wr, .g⟩] := rfl
@[simp] theorem Instr.flds_wjoin (d : BitVec 8) (a : BitVec 8) : (Instr.wjoin d a).flds =
    [⟨.b, a, .rd, .g⟩, ⟨.a, d, .wr, .g⟩] := rfl
@[simp] theorem Instr.flds_wmap (x0 : BitVec 4) (d : BitVec 8) (a : BitVec 8) : (Instr.wmap x0 d a).flds =
    [⟨.b, a, .rd, .g⟩, ⟨.a, d, .wr, .g⟩] := rfl
@[simp] theorem Instr.flds_wquery (d : BitVec 8) : (Instr.wquery d).flds =
    [⟨.a, d, .wr, .g⟩] := rfl
@[simp] theorem Instr.flds_rshPlan (d : BitVec 8) (a : BitVec 8) : (Instr.rshPlan d a).flds =
    [⟨.b, a, .rd, .one⟩, ⟨.a, d, .wr, .one⟩] := rfl
@[simp] theorem Instr.flds_rshGo (a : BitVec 8) : (Instr.rshGo a).flds =
    [⟨.a, a, .rd, .one⟩] := rfl
@[simp] theorem Instr.flds_rshPoll (d : BitVec 8) (x1 : Bool) : (Instr.rshPoll d x1).flds =
    [⟨.a, d, .wr, .one⟩] := rfl
@[simp] theorem Instr.flds_rshSave (a : BitVec 8) : (Instr.rshSave a).flds =
    [⟨.a, a, .rd, .one⟩] := rfl
@[simp] theorem Instr.flds_rshResume (a : BitVec 8) : (Instr.rshResume a).flds =
    [⟨.a, a, .rd, .one⟩] := rfl
@[simp] theorem Instr.flds_cka (x0 : BitVec 2) (x1 : Bool) (a : BitVec 8) : (Instr.cka x0 x1 a).flds =
    [⟨.a, a, .rd, .one⟩] := rfl
@[simp] theorem Instr.flds_ckt (x0 : BitVec 2) (x1 : Bool) (a : BitVec 8) (b : BitVec 8) : (Instr.ckt x0 x1 a b).flds =
    [⟨.a, a, .rd, .one⟩, ⟨.b, b, .rd, .one⟩] := rfl
@[simp] theorem Instr.flds_jmpi (p : BitVec 8) : (Instr.jmpi p).flds =
    [⟨.a, p, .rd, .pair⟩] := rfl
@[simp] theorem Instr.flds_succSw (i : BitVec 8) (x1 : List (BitVec 24)) : (Instr.succSw i x1).flds =
    [⟨.a, i, .rd, .g⟩] := rfl
@[simp] theorem Instr.flds_calli (p : BitVec 8) : (Instr.calli p).flds =
    [⟨.a, p, .rd, .pair⟩] := rfl
@[simp] theorem Instr.flds_srd (d : BitVec 8) (x1 : BitVec 8) : (Instr.srd d x1).flds =
    [⟨.a, d, .wr, .one⟩] := rfl
@[simp] theorem Instr.flds_swr (a : BitVec 8) (x1 : BitVec 8) : (Instr.swr a x1).flds =
    [⟨.a, a, .rd, .one⟩] := rfl
@[simp] theorem Instr.flds_movs (a : BitVec 8) (x1 : BitVec 6) : (Instr.movs a x1).flds =
    [⟨.a, a, .rd, .one⟩] := rfl
@[simp] theorem Instr.flds_smov (d : BitVec 8) (x1 : BitVec 6) : (Instr.smov d x1).flds =
    [⟨.a, d, .wr, .one⟩] := rfl
@[simp] theorem Instr.flds_dqpush (x0 : BitVec 5) (a : BitVec 8) : (Instr.dqpush x0 a).flds =
    [⟨.a, a, .rd, .one⟩] := rfl
@[simp] theorem Instr.flds_dqpop (d : BitVec 8) : (Instr.dqpop d).flds =
    [⟨.a, d, .wr, .one⟩] := rfl
@[simp] theorem Instr.flds_ftwaitNb (a : BitVec 8) (x1 : BitVec 5) : (Instr.ftwaitNb a x1).flds =
    [⟨.a, a, .rd, .one⟩] := rfl
@[simp] theorem Instr.flds_ftwaitDq (a : BitVec 8) (x1 : BitVec 5) : (Instr.ftwaitDq a x1).flds =
    [⟨.a, a, .rd, .one⟩] := rfl
@[simp] theorem Instr.flds_ftwaitClk (a : BitVec 8) : (Instr.ftwaitClk a).flds =
    [⟨.a, a, .rd, .one⟩] := rfl
@[simp] theorem Instr.flds_ftlaunch (d : BitVec 8) (a : BitVec 8) : (Instr.ftlaunch d a).flds =
    [⟨.b, a, .rd, .pair⟩, ⟨.a, d, .wr, .one⟩] := rfl
@[simp] theorem Instr.flds_chseed (x0 : BitVec 3) (a : BitVec 8) : (Instr.chseed x0 a).flds =
    [⟨.a, a, .rd, .g⟩] := rfl
@[simp] theorem Instr.flds_tlbinvAll (a : BitVec 8) : (Instr.tlbinvAll a).flds =
    [⟨.a, a, .rd, .g⟩] := rfl
@[simp] theorem Instr.flds_tlbinvPage (a : BitVec 8) : (Instr.tlbinvPage a).flds =
    [⟨.a, a, .rd, .pair⟩] := rfl
@[simp] theorem Instr.flds_killctx (d : BitVec 8) (a : BitVec 8) : (Instr.killctx d a).flds =
    [⟨.b, a, .rd, .one⟩, ⟨.a, d, .wr, .one⟩] := rfl

namespace Machine

theorem exec_movCompact (d : BitVec 6) (sv : BitVec 5) (s : State) :
    exec (.movCompact d sv) s = execMovCompact d sv s := rfl
theorem exec_iaddCompact (d : BitVec 6) (sv : BitVec 5) (s : State) :
    exec (.iaddCompact d sv) s = execIaddCompact d sv s := rfl
theorem exec_isubCompact (d : BitVec 6) (sv : BitVec 5) (s : State) :
    exec (.isubCompact d sv) s = execIsubCompact d sv s := rfl
theorem exec_andCompact (d : BitVec 6) (sv : BitVec 5) (s : State) :
    exec (.andCompact d sv) s = execAndCompact d sv s := rfl
theorem exec_orCompact (d : BitVec 6) (sv : BitVec 5) (s : State) :
    exec (.orCompact d sv) s = execOrCompact d sv s := rfl
theorem exec_xorCompact (d : BitVec 6) (sv : BitVec 5) (s : State) :
    exec (.xorCompact d sv) s = execXorCompact d sv s := rfl
theorem exec_shlCompact (d : BitVec 6) (sv : BitVec 5) (s : State) :
    exec (.shlCompact d sv) s = execShlCompact d sv s := rfl
theorem exec_shrCompact (d : BitVec 6) (sv : BitVec 5) (s : State) :
    exec (.shrCompact d sv) s = execShrCompact d sv s := rfl
theorem exec_sarCompact (d : BitVec 6) (sv : BitVec 5) (s : State) :
    exec (.sarCompact d sv) s = execSarCompact d sv s := rfl
theorem exec_imulCompact (d : BitVec 6) (sv : BitVec 5) (s : State) :
    exec (.imulCompact d sv) s = execImulCompact d sv s := rfl
theorem exec_faddCompact (d : BitVec 6) (sv : BitVec 5) (s : State) :
    exec (.faddCompact d sv) s = execFaddCompact d sv s := rfl
theorem exec_fsubCompact (d : BitVec 6) (sv : BitVec 5) (s : State) :
    exec (.fsubCompact d sv) s = execFsubCompact d sv s := rfl
theorem exec_fmulCompact (d : BitVec 6) (sv : BitVec 5) (s : State) :
    exec (.fmulCompact d sv) s = execFmulCompact d sv s := rfl
theorem exec_fmaxCompact (d : BitVec 6) (sv : BitVec 5) (s : State) :
    exec (.fmaxCompact d sv) s = execFmaxCompact d sv s := rfl
theorem exec_iaddiCompact (d : BitVec 6) (iv : BitVec 5) (s : State) :
    exec (.iaddiCompact d iv) s = execIaddiCompact d iv s := rfl
theorem exec_movi (d : BitVec 6) (iv : BitVec 5) (s : State) : exec (.movi d iv) s = execMovi d iv s := rfl
theorem exec_iadd (d : BitVec 8) (a : BitVec 8) (b : BitVec 8) (s : State) :
    exec (.iadd d a b) s = execIadd d a b s := rfl
theorem exec_isub (d : BitVec 8) (a : BitVec 8) (b : BitVec 8) (s : State) :
    exec (.isub d a b) s = execIsub d a b s := rfl
theorem exec_imul (d : BitVec 8) (a : BitVec 8) (b : BitVec 8) (x : Bool) (s : State) :
    exec (.imul d a b x) s = execImul d a b x s := rfl
theorem exec_imulhs (d : BitVec 8) (a : BitVec 8) (b : BitVec 8) (s : State) :
    exec (.imulhs d a b) s = execImulhs d a b s := rfl
theorem exec_imad (d : BitVec 8) (a : BitVec 8) (b : BitVec 8) (x : Bool) (s : State) :
    exec (.imad d a b x) s = execImad d a b x s := rfl
theorem exec_and (d : BitVec 8) (a : BitVec 8) (b : BitVec 8) (s : State) :
    exec (.and d a b) s = execAnd d a b s := rfl
theorem exec_or (d : BitVec 8) (a : BitVec 8) (b : BitVec 8) (s : State) : exec (.or d a b) s = execOr d a b s := rfl
theorem exec_xor (d : BitVec 8) (a : BitVec 8) (b : BitVec 8) (s : State) :
    exec (.xor d a b) s = execXor d a b s := rfl
theorem exec_andn (d : BitVec 8) (a : BitVec 8) (b : BitVec 8) (s : State) :
    exec (.andn d a b) s = execAndn d a b s := rfl
theorem exec_shl (d : BitVec 8) (a : BitVec 8) (b : BitVec 8) (s : State) :
    exec (.shl d a b) s = execShl d a b s := rfl
theorem exec_shr (d : BitVec 8) (a : BitVec 8) (b : BitVec 8) (s : State) :
    exec (.shr d a b) s = execShr d a b s := rfl
theorem exec_sar (d : BitVec 8) (a : BitVec 8) (b : BitVec 8) (s : State) :
    exec (.sar d a b) s = execSar d a b s := rfl
theorem exec_imin (d : BitVec 8) (a : BitVec 8) (b : BitVec 8) (x : Bool) (s : State) :
    exec (.imin d a b x) s = execImin d a b x s := rfl
theorem exec_imax (d : BitVec 8) (a : BitVec 8) (b : BitVec 8) (x : Bool) (s : State) :
    exec (.imax d a b x) s = execImax d a b x s := rfl
theorem exec_iadd64 (d : BitVec 8) (a : BitVec 8) (b : BitVec 8) (x : Bool) (s : State) :
    exec (.iadd64 d a b x) s = execIadd64 d a b x s := rfl
theorem exec_perm (d : BitVec 8) (a : BitVec 8) (b : BitVec 8) (s : State) :
    exec (.perm d a b) s = execPerm d a b s := rfl
theorem exec_mov (d : BitVec 8) (a : BitVec 8) (s : State) : exec (.mov d a) s = execMov d a s := rfl
theorem exec_not (d : BitVec 8) (a : BitVec 8) (s : State) : exec (.not d a) s = execNot d a s := rfl
theorem exec_neg (d : BitVec 8) (a : BitVec 8) (s : State) : exec (.neg d a) s = execNeg d a s := rfl
theorem exec_iabs (d : BitVec 8) (a : BitVec 8) (s : State) : exec (.iabs d a) s = execIabs d a s := rfl
theorem exec_clz (d : BitVec 8) (a : BitVec 8) (s : State) : exec (.clz d a) s = execClz d a s := rfl
theorem exec_popc (d : BitVec 8) (a : BitVec 8) (s : State) : exec (.popc d a) s = execPopc d a s := rfl
theorem exec_brev (d : BitVec 8) (a : BitVec 8) (s : State) : exec (.brev d a) s = execBrev d a s := rfl
theorem exec_sexb (d : BitVec 8) (a : BitVec 8) (s : State) : exec (.sexb d a) s = execSexb d a s := rfl
theorem exec_sexh (d : BitVec 8) (a : BitVec 8) (s : State) : exec (.sexh d a) s = execSexh d a s := rfl
theorem exec_zexb (d : BitVec 8) (a : BitVec 8) (s : State) : exec (.zexb d a) s = execZexb d a s := rfl
theorem exec_zexh (d : BitVec 8) (a : BitVec 8) (s : State) : exec (.zexh d a) s = execZexh d a s := rfl
theorem exec_laneid (d : BitVec 8) (s : State) : exec (.laneid d) s = execLaneid d s := rfl
theorem exec_tidx (d : BitVec 8) (s : State) : exec (.tidx d) s = execTidx d s := rfl
theorem exec_teamix (d : BitVec 8) (s : State) : exec (.teamix d) s = execTeamix d s := rfl
theorem exec_clklo (d : BitVec 8) (s : State) : exec (.clklo d) s = execClklo d s := rfl
theorem exec_clkhi (d : BitVec 8) (s : State) : exec (.clkhi d) s = execClkhi d s := rfl
theorem exec_b2g (d : BitVec 8) (k : BitVec 3) (s : State) : exec (.b2g d k) s = execB2g d k s := rfl
theorem exec_g2b (k : BitVec 3) (a : BitVec 8) (s : State) : exec (.g2b k a) s = execG2b k a s := rfl
theorem exec_clz64 (d : BitVec 8) (a : BitVec 8) (s : State) : exec (.clz64 d a) s = execClz64 d a s := rfl
theorem exec_popc64 (d : BitVec 8) (a : BitVec 8) (s : State) : exec (.popc64 d a) s = execPopc64 d a s := rfl
theorem exec_iaddi (d : BitVec 8) (a : BitVec 8) (iv : BitVec 9) (s : State) :
    exec (.iaddi d a iv) s = execIaddi d a iv s := rfl
theorem exec_andi (d : BitVec 8) (a : BitVec 8) (iv : BitVec 9) (s : State) :
    exec (.andi d a iv) s = execAndi d a iv s := rfl
theorem exec_ori (d : BitVec 8) (a : BitVec 8) (iv : BitVec 9) (s : State) :
    exec (.ori d a iv) s = execOri d a iv s := rfl
theorem exec_xori (d : BitVec 8) (a : BitVec 8) (iv : BitVec 9) (s : State) :
    exec (.xori d a iv) s = execXori d a iv s := rfl
theorem exec_shli (d : BitVec 8) (a : BitVec 8) (n : BitVec 5) (s : State) :
    exec (.shli d a n) s = execShli d a n s := rfl
theorem exec_shri (d : BitVec 8) (a : BitVec 8) (n : BitVec 5) (s : State) :
    exec (.shri d a n) s = execShri d a n s := rfl
theorem exec_sari (d : BitVec 8) (a : BitVec 8) (n : BitVec 5) (s : State) :
    exec (.sari d a n) s = execSari d a n s := rfl
theorem exec_rotri (d : BitVec 8) (a : BitVec 8) (n : BitVec 5) (s : State) :
    exec (.rotri d a n) s = execRotri d a n s := rfl
theorem exec_movkl (d : BitVec 8) (iv : BitVec 16) (s : State) : exec (.movkl d iv) s = execMovkl d iv s := rfl
theorem exec_movkh (d : BitVec 8) (iv : BitVec 16) (s : State) : exec (.movkh d iv) s = execMovkh d iv s := rfl
theorem exec_icmp (e : BitVec 3) (c : BitVec 3) (n : Bool) (a : BitVec 8) (b : BitVec 8) (s : State) :
    exec (.icmp e c n a b) s = execIcmp e c n a b s := rfl
theorem exec_icmpi (e : BitVec 3) (c : BitVec 3) (n : Bool) (a : BitVec 8) (iv : BitVec 8) (s : State) :
    exec (.icmpi e c n a iv) s = execIcmpi e c n a iv s := rfl
theorem exec_sel (c : BitVec 3) (sv : Bool) (d : BitVec 8) (a : BitVec 8) (s : State) :
    exec (.sel c sv d a) s = execSel c sv d a s := rfl
theorem exec_shflIdx (sv : BitVec 4) (d : BitVec 8) (c : BitVec 8) (r : Bool) (s : State) :
    exec (.shflIdx sv d c r) s = execShflIdx sv d c r s := rfl
theorem exec_shflUp (sv : BitVec 4) (d : BitVec 8) (n : BitVec 8) (r : Bool) (s : State) :
    exec (.shflUp sv d n r) s = execShflUp sv d n r s := rfl
theorem exec_shflDown (sv : BitVec 4) (d : BitVec 8) (n : BitVec 8) (r : Bool) (s : State) :
    exec (.shflDown sv d n r) s = execShflDown sv d n r s := rfl
theorem exec_shflXor (sv : BitVec 4) (d : BitVec 8) (n : BitVec 8) (r : Bool) (s : State) :
    exec (.shflXor sv d n r) s = execShflXor sv d n r s := rfl
theorem exec_voteAny (sv : BitVec 4) (d : BitVec 3) (f : BitVec 3) (r : Bool) (s : State) :
    exec (.voteAny sv d f r) s = execVoteAny sv d f r s := rfl
theorem exec_voteAll (sv : BitVec 4) (d : BitVec 3) (f : BitVec 3) (r : Bool) (s : State) :
    exec (.voteAll sv d f r) s = execVoteAll sv d f r s := rfl
theorem exec_voteBallot (sv : BitVec 4) (d : BitVec 8) (f : BitVec 3) (r : Bool) (s : State) :
    exec (.voteBallot sv d f r) s = execVoteBallot sv d f r s := rfl
theorem exec_voteMatch (sv : BitVec 4) (d : BitVec 8) (a : BitVec 8) (r : Bool) (s : State) :
    exec (.voteMatch sv d a r) s = execVoteMatch sv d a r s := rfl
theorem exec_voteRadd (sv : BitVec 4) (d : BitVec 8) (a : BitVec 8) (r : Bool) (s : State) :
    exec (.voteRadd sv d a r) s = execVoteRadd sv d a r s := rfl
theorem exec_voteRmin (sv : BitVec 4) (d : BitVec 8) (a : BitVec 8) (r : Bool) (s : State) :
    exec (.voteRmin sv d a r) s = execVoteRmin sv d a r s := rfl
theorem exec_voteRmax (sv : BitVec 4) (d : BitVec 8) (a : BitVec 8) (r : Bool) (s : State) :
    exec (.voteRmax sv d a r) s = execVoteRmax sv d a r s := rfl
theorem exec_voteRfadd (sv : BitVec 4) (d : BitVec 8) (a : BitVec 8) (r : Bool) (s : State) :
    exec (.voteRfadd sv d a r) s = execVoteRfadd sv d a r s := rfl
theorem exec_fadd (d : BitVec 8) (a : BitVec 8) (b : BitVec 8) (x : Bool) (s : State) :
    exec (.fadd d a b x) s = execFadd d a b x s := rfl
theorem exec_fsub (d : BitVec 8) (a : BitVec 8) (b : BitVec 8) (x : Bool) (s : State) :
    exec (.fsub d a b x) s = execFsub d a b x s := rfl
theorem exec_fmul (d : BitVec 8) (a : BitVec 8) (b : BitVec 8) (x : Bool) (s : State) :
    exec (.fmul d a b x) s = execFmul d a b x s := rfl
theorem exec_ffma (d : BitVec 8) (a : BitVec 8) (b : BitVec 8) (x : Bool) (s : State) :
    exec (.ffma d a b x) s = execFfma d a b x s := rfl
theorem exec_fmin (d : BitVec 8) (a : BitVec 8) (b : BitVec 8) (x : Bool) (s : State) :
    exec (.fmin d a b x) s = execFmin d a b x s := rfl
theorem exec_fmax (d : BitVec 8) (a : BitVec 8) (b : BitVec 8) (x : Bool) (s : State) :
    exec (.fmax d a b x) s = execFmax d a b x s := rfl
theorem exec_fabs (d : BitVec 8) (a : BitVec 8) (l : BitVec 4) (s : State) :
    exec (.fabs d a l) s = execFabs d a l s := rfl
theorem exec_fneg (d : BitVec 8) (a : BitVec 8) (l : BitVec 4) (s : State) :
    exec (.fneg d a l) s = execFneg d a l s := rfl
theorem exec_frcp (d : BitVec 8) (a : BitVec 8) (l : BitVec 4) (s : State) :
    exec (.frcp d a l) s = execFrcp d a l s := rfl
theorem exec_frsq (d : BitVec 8) (a : BitVec 8) (l : BitVec 4) (s : State) :
    exec (.frsq d a l) s = execFrsq d a l s := rfl
theorem exec_fsqrt (d : BitVec 8) (a : BitVec 8) (l : BitVec 4) (s : State) :
    exec (.fsqrt d a l) s = execFsqrt d a l s := rfl
theorem exec_fexp2 (d : BitVec 8) (a : BitVec 8) (l : BitVec 4) (s : State) :
    exec (.fexp2 d a l) s = execFexp2 d a l s := rfl
theorem exec_flog2 (d : BitVec 8) (a : BitVec 8) (l : BitVec 4) (s : State) :
    exec (.flog2 d a l) s = execFlog2 d a l s := rfl
theorem exec_fsin (d : BitVec 8) (a : BitVec 8) (l : BitVec 4) (s : State) :
    exec (.fsin d a l) s = execFsin d a l s := rfl
theorem exec_fcos (d : BitVec 8) (a : BitVec 8) (l : BitVec 4) (s : State) :
    exec (.fcos d a l) s = execFcos d a l s := rfl
theorem exec_ftanh (d : BitVec 8) (a : BitVec 8) (l : BitVec 4) (s : State) :
    exec (.ftanh d a l) s = execFtanh d a l s := rfl
theorem exec_ffloor (d : BitVec 8) (a : BitVec 8) (l : BitVec 4) (s : State) :
    exec (.ffloor d a l) s = execFfloor d a l s := rfl
theorem exec_fceil (d : BitVec 8) (a : BitVec 8) (l : BitVec 4) (s : State) :
    exec (.fceil d a l) s = execFceil d a l s := rfl
theorem exec_ftrunc (d : BitVec 8) (a : BitVec 8) (l : BitVec 4) (s : State) :
    exec (.ftrunc d a l) s = execFtrunc d a l s := rfl
theorem exec_frint (d : BitVec 8) (a : BitVec 8) (l : BitVec 4) (s : State) :
    exec (.frint d a l) s = execFrint d a l s := rfl
theorem exec_fclass (d : BitVec 8) (a : BitVec 8) (l : BitVec 4) (s : State) :
    exec (.fclass d a l) s = execFclass d a l s := rfl
theorem exec_fsat (d : BitVec 8) (a : BitVec 8) (l : BitVec 4) (s : State) :
    exec (.fsat d a l) s = execFsat d a l s := rfl
theorem exec_fcmp (e : BitVec 3) (c : BitVec 3) (n : Bool) (a : BitVec 8) (b : BitVec 8) (s : State) :
    exec (.fcmp e c n a b) s = execFcmp e c n a b s := rfl
theorem exec_cvt (d : BitVec 8) (a : BitVec 8) (f : BitVec 3) (r : BitVec 2) (p : BitVec 2) (iv : Bool) (s : State) :
    exec (.cvt d a f r p iv) s = execCvt d a f r p iv s := rfl
theorem exec_cvif (d : BitVec 8) (a : BitVec 8) (s : State) : exec (.cvif d a) s = execCvif d a s := rfl
theorem exec_cvnf (d : BitVec 8) (a : BitVec 8) (s : State) : exec (.cvnf d a) s = execCvnf d a s := rfl
theorem exec_cvfi (d : BitVec 8) (a : BitVec 8) (s : State) : exec (.cvfi d a) s = execCvfi d a s := rfl
theorem exec_cvfn (d : BitVec 8) (a : BitVec 8) (s : State) : exec (.cvfn d a) s = execCvfn d a s := rfl
theorem exec_cvhf (d : BitVec 8) (a : BitVec 8) (x : Bool) (s : State) :
    exec (.cvhf d a x) s = execCvhf d a x s := rfl
theorem exec_cvbf (d : BitVec 8) (a : BitVec 8) (s : State) : exec (.cvbf d a) s = execCvbf d a s := rfl
theorem exec_cv8af (d : BitVec 8) (a : BitVec 8) (s : State) : exec (.cv8af d a) s = execCv8af d a s := rfl
theorem exec_cv8bf (d : BitVec 8) (a : BitVec 8) (s : State) : exec (.cv8bf d a) s = execCv8bf d a s := rfl
theorem exec_dot4 (d : BitVec 8) (a : BitVec 8) (b : BitVec 8) (s : State) :
    exec (.dot4 d a b) s = execDot4 d a b s := rfl
theorem exec_dot2 (d : BitVec 8) (a : BitVec 8) (b : BitVec 8) (s : State) :
    exec (.dot2 d a b) s = execDot2 d a b s := rfl
theorem exec_idiv (d : BitVec 8) (a : BitVec 8) (b : BitVec 8) (s : State) :
    exec (.idiv d a b) s = execIdiv d a b s := rfl
theorem exec_idivu (d : BitVec 8) (a : BitVec 8) (b : BitVec 8) (s : State) :
    exec (.idivu d a b) s = execIdivu d a b s := rfl
theorem exec_scmp (q : BitVec 3) (k : BitVec 2) (l : BitVec 3) (a : BitVec 8) (b : BitVec 8) (s : State) :
    exec (.scmp q k l a b) s = execScmp q k l a b s := rfl
theorem exec_pcombAnd (d : BitVec 3) (a : BitVec 3) (b : BitVec 3) (m : BitVec 2) (s : State) :
    exec (.pcombAnd d a b m) s = execPcombAnd d a b m s := rfl
theorem exec_pcombOr (d : BitVec 3) (a : BitVec 3) (b : BitVec 3) (m : BitVec 2) (s : State) :
    exec (.pcombOr d a b m) s = execPcombOr d a b m s := rfl
theorem exec_pcombNot (d : BitVec 3) (a : BitVec 3) (s : State) : exec (.pcombNot d a) s = execPcombNot d a s := rfl
theorem exec_pcombXor (d : BitVec 3) (a : BitVec 3) (b : BitVec 3) (m : BitVec 2) (s : State) :
    exec (.pcombXor d a b m) s = execPcombXor d a b m s := rfl
theorem exec_blend (c : BitVec 3) (sv : Bool) (d : BitVec 8) (a : BitVec 8) (s : State) :
    exec (.blend c sv d a) s = execBlend c sv d a s := rfl
theorem exec_blendi (c : BitVec 3) (sv : Bool) (d : BitVec 8) (a : BitVec 8) (s : State) :
    exec (.blendi c sv d a) s = execBlendi c sv d a s := rfl
theorem exec_selq (c : BitVec 3) (sv : Bool) (d : BitVec 8) (a : BitVec 8) (s : State) :
    exec (.selq c sv d a) s = execSelq c sv d a s := rfl
theorem exec_coll (q : BitVec 3) (d : BitVec 3) (s : State) : exec (.coll q d) s = execColl q d s := rfl
theorem exec_qset (q : BitVec 3) (a : BitVec 8) (s : State) : exec (.qset q a) s = execQset q a s := rfl
theorem exec_qget (q : BitVec 3) (d : BitVec 8) (s : State) : exec (.qget q d) s = execQget q d s := rfl
theorem exec_qfromb (q : BitVec 3) (b : BitVec 3) (s : State) : exec (.qfromb q b) s = execQfromb q b s := rfl
theorem exec_pgrad (q : BitVec 3) (k : BitVec 2) (d : BitVec 8) (s : State) :
    exec (.pgrad q k d) s = execPgrad q k d s := rfl
theorem exec_qhard (q : BitVec 3) (d : BitVec 3) (s : State) : exec (.qhard q d) s = execQhard q d s := rfl
theorem exec_ld (d : BitVec 8) (a : BitVec 8) (l : BitVec 4) (sv : BitVec 3) (o : BitVec 2) (s : State) :
    exec (.ld d a l sv o) s = execLd d a l sv o s := rfl
theorem exec_st (d : BitVec 8) (a : BitVec 8) (l : BitVec 4) (sv : BitVec 3) (o : BitVec 2) (s : State) :
    exec (.st d a l sv o) s = execSt d a l sv o s := rfl
theorem exec_ldl (d : BitVec 8) (a : BitVec 8) (l : BitVec 4) (sv : BitVec 3) (o : BitVec 2) (s : State) :
    exec (.ldl d a l sv o) s = execLdl d a l sv o s := rfl
theorem exec_stl (d : BitVec 8) (a : BitVec 8) (l : BitVec 4) (sv : BitVec 3) (o : BitVec 2) (s : State) :
    exec (.stl d a l sv o) s = execStl d a l sv o s := rfl
theorem exec_atomAdd (d : BitVec 8) (a : BitVec 8) (l : BitVec 4) (sv : BitVec 2) (s : State) :
    exec (.atomAdd d a l sv) s = execAtomAdd d a l sv s := rfl
theorem exec_atomAdd64 (d : BitVec 8) (a : BitVec 8) (l : BitVec 4) (sv : BitVec 2) (s : State) :
    exec (.atomAdd64 d a l sv) s = execAtomAdd64 d a l sv s := rfl
theorem exec_atomMin (d : BitVec 8) (a : BitVec 8) (l : BitVec 4) (sv : BitVec 2) (s : State) :
    exec (.atomMin d a l sv) s = execAtomMin d a l sv s := rfl
theorem exec_atomMax (d : BitVec 8) (a : BitVec 8) (l : BitVec 4) (sv : BitVec 2) (s : State) :
    exec (.atomMax d a l sv) s = execAtomMax d a l sv s := rfl
theorem exec_atomAnd (d : BitVec 8) (a : BitVec 8) (l : BitVec 4) (sv : BitVec 2) (s : State) :
    exec (.atomAnd d a l sv) s = execAtomAnd d a l sv s := rfl
theorem exec_atomOr (d : BitVec 8) (a : BitVec 8) (l : BitVec 4) (sv : BitVec 2) (s : State) :
    exec (.atomOr d a l sv) s = execAtomOr d a l sv s := rfl
theorem exec_atomXchg (d : BitVec 8) (a : BitVec 8) (l : BitVec 4) (sv : BitVec 2) (s : State) :
    exec (.atomXchg d a l sv) s = execAtomXchg d a l sv s := rfl
theorem exec_atomCas (d : BitVec 8) (a : BitVec 8) (l : BitVec 4) (sv : BitVec 2) (s : State) :
    exec (.atomCas d a l sv) s = execAtomCas d a l sv s := rfl
theorem exec_atomlAdd (d : BitVec 8) (a : BitVec 8) (l : BitVec 4) (sv : Bool) (s : State) :
    exec (.atomlAdd d a l sv) s = execAtomlAdd d a l sv s := rfl
theorem exec_atomlFadd (d : BitVec 8) (a : BitVec 8) (l : BitVec 4) (sv : Bool) (s : State) :
    exec (.atomlFadd d a l sv) s = execAtomlFadd d a l sv s := rfl
theorem exec_atomlMin (d : BitVec 8) (a : BitVec 8) (l : BitVec 4) (sv : Bool) (s : State) :
    exec (.atomlMin d a l sv) s = execAtomlMin d a l sv s := rfl
theorem exec_atomlMax (d : BitVec 8) (a : BitVec 8) (l : BitVec 4) (sv : Bool) (s : State) :
    exec (.atomlMax d a l sv) s = execAtomlMax d a l sv s := rfl
theorem exec_atomlXchg (d : BitVec 8) (a : BitVec 8) (l : BitVec 4) (sv : Bool) (s : State) :
    exec (.atomlXchg d a l sv) s = execAtomlXchg d a l sv s := rfl
theorem exec_atomlCas (d : BitVec 8) (a : BitVec 8) (l : BitVec 4) (sv : Bool) (s : State) :
    exec (.atomlCas d a l sv) s = execAtomlCas d a l sv s := rfl
theorem exec_atomlFadd2 (d : BitVec 8) (a : BitVec 8) (l : BitVec 4) (sv : Bool) (s : State) :
    exec (.atomlFadd2 d a l sv) s = execAtomlFadd2 d a l sv s := rfl
theorem exec_atomlOr (d : BitVec 8) (a : BitVec 8) (l : BitVec 4) (sv : Bool) (s : State) :
    exec (.atomlOr d a l sv) s = execAtomlOr d a l sv s := rfl
theorem exec_fence (sv : BitVec 5) (b : BitVec 3) (s : State) : exec (.fence sv b) s = execFence sv b s := rfl
theorem exec_nbInit (k : BitVec 4) (iv : Bool) (n : BitVec 6) (s : State) :
    exec (.nbInit k iv n) s = execNbInit k iv n s := rfl
theorem exec_nbExpect (k : BitVec 4) (iv : Bool) (a : BitVec 8) (s : State) :
    exec (.nbExpect k iv a) s = execNbExpect k iv a s := rfl
theorem exec_nbArr (k : BitVec 4) (iv : Bool) (d : BitVec 8) (g : Bool) (s : State) :
    exec (.nbArr k iv d g) s = execNbArr k iv d g s := rfl
theorem exec_nbWait (k : BitVec 4) (iv : Bool) (a : BitVec 8) (s : State) :
    exec (.nbWait k iv a) s = execNbWait k iv a s := rfl
theorem exec_nbArw (k : BitVec 4) (iv : Bool) (g : Bool) (s : State) :
    exec (.nbArw k iv g) s = execNbArw k iv g s := rfl
theorem exec_nbTest (k : BitVec 4) (iv : Bool) (a : BitVec 8) (e : BitVec 3) (s : State) :
    exec (.nbTest k iv a e) s = execNbTest k iv a e s := rfl
theorem exec_cpyG2l (sv : BitVec 5) (l : BitVec 8) (c : BitVec 8) (s : State) :
    exec (.cpyG2l sv l c) s = execCpyG2l sv l c s := rfl
theorem exec_cpyL2g (sv : BitVec 5) (l : BitVec 8) (c : BitVec 8) (s : State) :
    exec (.cpyL2g sv l c) s = execCpyL2g sv l c s := rfl
theorem exec_cpyL2l (p : BitVec 8) (c : BitVec 8) (s : State) : exec (.cpyL2l p c) s = execCpyL2l p c s := rfl
theorem exec_cpyG2g (p : BitVec 8) (c : BitVec 8) (s : State) : exec (.cpyG2g p c) s = execCpyG2g p c s := rfl
theorem exec_cpyPfx (p : BitVec 8) (c : BitVec 8) (s : State) : exec (.cpyPfx p c) s = execCpyPfx p c s := rfl
theorem exec_strm (p : BitVec 2) (d : BitVec 8) (s : State) : exec (.strm p d) s = execStrm p d s := rfl
theorem exec_strmOff (p : BitVec 2) (s : State) : exec (.strmOff p) s = execStrmOff p s := rfl
theorem exec_mxIssue (a : BitVec 8) (s : State) : exec (.mxIssue a) s = execMxIssue a s := rfl
theorem exec_mxIssueS (e : BitVec 2) (s : State) : exec (.mxIssueS e) s = execMxIssueS e s := rfl
theorem exec_mxZero (n : Bool) (s : State) : exec (.mxZero n) s = execMxZero n s := rfl
theorem exec_mxStore (q : BitVec 2) (p : BitVec 2) (n : Bool) (a : BitVec 8) (s : State) :
    exec (.mxStore q p n a) s = execMxStore q p n a s := rfl
theorem exec_mxLoad (n : Bool) (a : BitVec 8) (s : State) : exec (.mxLoad n a) s = execMxLoad n a s := rfl
theorem exec_mxProg (d : BitVec 8) (w : Bool) (s : State) : exec (.mxProg d w) s = execMxProg d w s := rfl
theorem exec_wjoin (d : BitVec 8) (a : BitVec 8) (s : State) : exec (.wjoin d a) s = execWjoin d a s := rfl
theorem exec_wmap (w : BitVec 4) (d : BitVec 8) (a : BitVec 8) (s : State) :
    exec (.wmap w d a) s = execWmap w d a s := rfl
theorem exec_wquery (d : BitVec 8) (s : State) : exec (.wquery d) s = execWquery d s := rfl
theorem exec_rshPlan (d : BitVec 8) (a : BitVec 8) (s : State) : exec (.rshPlan d a) s = execRshPlan d a s := rfl
theorem exec_rshGo (a : BitVec 8) (s : State) : exec (.rshGo a) s = execRshGo a s := rfl
theorem exec_rshPoll (d : BitVec 8) (w : Bool) (s : State) : exec (.rshPoll d w) s = execRshPoll d w s := rfl
theorem exec_rshSave (a : BitVec 8) (s : State) : exec (.rshSave a) s = execRshSave a s := rfl
theorem exec_rshResume (a : BitVec 8) (s : State) : exec (.rshResume a) s = execRshResume a s := rfl
theorem exec_cka (n : BitVec 2) (m : Bool) (a : BitVec 8) (s : State) : exec (.cka n m a) s = execCka n m a s := rfl
theorem exec_ckx (sv : BitVec 4) (n : BitVec 2) (m : Bool) (r : Bool) (s : State) :
    exec (.ckx sv n m r) s = execCkx sv n m r s := rfl
theorem exec_ckt (n : BitVec 2) (m : Bool) (a : BitVec 8) (b : BitVec 8) (s : State) :
    exec (.ckt n m a b) s = execCkt n m a b s := rfl
theorem exec_ckz (n : BitVec 2) (s : State) : exec (.ckz n) s = execCkz n s := rfl
theorem exec_bra (c : BitVec 3) (sv : Bool) (o : BitVec 21) (s : State) :
    exec (.bra c sv o) s = execBra c sv o s := rfl
theorem exec_call (c : BitVec 3) (sv : Bool) (o : BitVec 21) (s : State) :
    exec (.call c sv o) s = execCall c sv o s := rfl
theorem exec_jmpi (p : BitVec 8) (s : State) : exec (.jmpi p) s = execJmpi p s := rfl
theorem exec_calli (p : BitVec 8) (s : State) : exec (.calli p) s = execCalli p s := rfl
theorem exec_ret (s : State) : exec .ret s = execRet s := rfl
theorem exec_exit (s : State) : exec .exit s = execExit s := rfl
theorem exec_rcvSet (sv : BitVec 4) (k : BitVec 3) (s : State) : exec (.rcvSet sv k) s = execRcvSet sv k s := rfl
theorem exec_rcvWait (k : BitVec 3) (s : State) : exec (.rcvWait k) s = execRcvWait k s := rfl
theorem exec_yld (dl : BitVec 4) (n : BitVec 4) (s : State) : exec (.yld dl n) s = execYld dl n s := rfl
theorem exec_stage (sv : BitVec 2) (k : BitVec 16) (s : State) : exec (.stage sv k) s = execStage sv k s := rfl
theorem exec_chend (s : State) : exec .chend s = execChend s := rfl
theorem exec_trap (iv : BitVec 8) (s : State) : exec (.trap iv) s = execTrap iv s := rfl
theorem exec_rtt (s : State) : exec .rtt s = execRtt s := rfl
theorem exec_elect (sv : BitVec 4) (d : BitVec 3) (s : State) : exec (.elect sv d) s = execElect sv d s := rfl
theorem exec_bop (d : BitVec 3) (a : BitVec 3) (b : BitVec 3) (o : BitVec 2) (s : State) :
    exec (.bop d a b o) s = execBop d a b o s := rfl
theorem exec_brk (s : State) : exec .brk s = execBrk s := rfl
theorem exec_srd (d : BitVec 8) (iv : BitVec 8) (s : State) : exec (.srd d iv) s = execSrd d iv s := rfl
theorem exec_swr (a : BitVec 8) (iv : BitVec 8) (s : State) : exec (.swr a iv) s = execSwr a iv s := rfl
theorem exec_movs (a : BitVec 8) (sv : BitVec 6) (s : State) : exec (.movs a sv) s = execMovs a sv s := rfl
theorem exec_smov (d : BitVec 8) (sv : BitVec 6) (s : State) : exec (.smov d sv) s = execSmov d sv s := rfl
theorem exec_dqpush (g : BitVec 5) (a : BitVec 8) (s : State) : exec (.dqpush g a) s = execDqpush g a s := rfl
theorem exec_dqpop (d : BitVec 8) (s : State) : exec (.dqpop d) s = execDqpop d s := rfl
theorem exec_ftwaitNb (a : BitVec 8) (k : BitVec 5) (s : State) : exec (.ftwaitNb a k) s = execFtwaitNb a k s := rfl
theorem exec_ftwaitDq (a : BitVec 8) (k : BitVec 5) (s : State) : exec (.ftwaitDq a k) s = execFtwaitDq a k s := rfl
theorem exec_ftwaitClk (a : BitVec 8) (s : State) : exec (.ftwaitClk a) s = execFtwaitClk a s := rfl
theorem exec_ftlaunch (d : BitVec 8) (a : BitVec 8) (s : State) : exec (.ftlaunch d a) s = execFtlaunch d a s := rfl
theorem exec_chseed (k : BitVec 3) (a : BitVec 8) (s : State) : exec (.chseed k a) s = execChseed k a s := rfl
theorem exec_tlbinvAll (a : BitVec 8) (s : State) : exec (.tlbinvAll a) s = execTlbinvAll a s := rfl
theorem exec_tlbinvPage (a : BitVec 8) (s : State) : exec (.tlbinvPage a) s = execTlbinvPage a s := rfl
theorem exec_killctx (d : BitVec 8) (a : BitVec 8) (s : State) : exec (.killctx d a) s = execKillctx d a s := rfl
theorem exec_succGoto (t : BitVec 24) (s : State) : exec (.succGoto t) s = execSuccGoto t s := rfl
theorem exec_succBr (c : BitVec 3) (sense : Bool) (t1 : BitVec 24) (t2 : BitVec 24) (s : State) :
    exec (.succBr c sense t1 t2) s = execSuccBr c sense t1 t2 s := rfl
theorem exec_succSw (iv : BitVec 8) (ts : List (BitVec 24)) (s : State) :
    exec (.succSw iv ts) s = execSuccSw iv ts s := rfl
theorem exec_succCall (t : BitVec 24) (tr : BitVec 24) (s : State) :
    exec (.succCall t tr) s = execSuccCall t tr s := rfl
theorem exec_faultRecordWake (ctx : Nat) (rec : Nat) (s : State) :
    exec (.faultRecordWake ctx rec) s = execFaultRecordWake ctx rec s := rfl
theorem exec_trapEntry (team : Nat) (t : Nat) (s : State) : exec (.trapEntry team t) s = execTrapEntry team t s := rfl
theorem exec_chainSettle (team : Nat) (t : Nat) (s : State) :
    exec (.chainSettle team t) s = execChainSettle team t s := rfl
theorem exec_streamPush (team : Nat) (who : Who) (s : State) :
    exec (.streamPush team who) s = execStreamPush team who s := rfl
theorem exec_chainGroupCreate (team : Nat) (s : State) :
    exec (.chainGroupCreate team) s = execChainGroupCreate team s := rfl
theorem exec_copyTransfer (team : Nat) (id : Nat) (s : State) :
    exec (.copyTransfer team id) s = execCopyTransfer team id s := rfl
theorem exec_matrixCommandStart (team : Nat) (s : State) :
    exec (.matrixCommandStart team) s = execMatrixCommandStart team s := rfl
theorem exec_mxSlice (team : Nat) (s : State) : exec (.mxSlice team) s = execMxSlice team s := rfl
theorem exec_mxStoreTransfer (team : Nat) (s : State) :
    exec (.mxStoreTransfer team) s = execMxStoreTransfer team s := rfl
theorem exec_mxLoadTransfer (team : Nat) (s : State) :
    exec (.mxLoadTransfer team) s = execMxLoadTransfer team s := rfl
theorem exec_rshStopAtBoundary (team : Nat) (s : State) :
    exec (.rshStopAtBoundary team) s = execRshStopAtBoundary team s := rfl
theorem exec_rshRowPull (team : Nat) (answer : RemoteAnswer) (s : State) :
    exec (.rshRowPull team answer) s = execRshRowPull team answer s := rfl
theorem exec_storeAcknowledgement (team : Nat) (k : Nat) (s : State) :
    exec (.storeAcknowledgement team k) s = execStoreAcknowledgement team k s := rfl
theorem exec_clockWaitExpiry (team : Nat) (s : State) :
    exec (.clockWaitExpiry team) s = execClockWaitExpiry team s := rfl
theorem exec_teamEnd (team : Nat) (s : State) : exec (.teamEnd team) s = execTeamEnd team s := rfl
theorem exec_contextSave (team : Nat) (s : State) : exec (.contextSave team) s = execContextSave team s := rfl
theorem exec_wizinTranslate (launch : Nat) (s : State) :
    exec (.wizinTranslate launch) s = execWizinTranslate launch s := rfl
theorem exec_jobTeamCreate (launch : Nat) (core : Nat) (s : State) :
    exec (.jobTeamCreate launch core) s = execJobTeamCreate launch core s := rfl
theorem exec_jobChunkTake (launch : Nat) (core : Nat) (s : State) :
    exec (.jobChunkTake launch core) s = execJobChunkTake launch core s := rfl
theorem exec_launchComplete (launch : Nat) (s : State) :
    exec (.launchComplete launch) s = execLaunchComplete launch s := rfl
theorem exec_parityUpdateLand (core : Nat) (s : State) :
    exec (.parityUpdateLand core) s = execParityUpdateLand core s := rfl
theorem exec_bankRetire (core : Nat) (bank : Nat) (s : State) :
    exec (.bankRetire core bank) s = execBankRetire core bank s := rfl
theorem exec_requestBudgetExpiry (id : Nat) (s : State) :
    exec (.requestBudgetExpiry id) s = execRequestBudgetExpiry id s := rfl
theorem exec_killComplete (ctx : Nat) (s : State) : exec (.killComplete ctx) s = execKillComplete ctx s := rfl
theorem exec_faultRecordTake (ctx : Nat) (s : State) :
    exec (.faultRecordTake ctx) s = execFaultRecordTake ctx s := rfl
theorem exec_collectiveDoorbell (q : Nat) (tail : BitVec 32) (s : State) :
    exec (.collectiveDoorbell q tail) s = execCollectiveDoorbell q tail s := rfl
theorem exec_collectiveComplete (id : Nat) (s : State) :
    exec (.collectiveComplete id) s = execCollectiveComplete id s := rfl
theorem exec_collectiveChunk (id : Nat) (peers : List PeerContribution) (s : State) :
    exec (.collectiveChunk id peers) s = execCollectiveChunk id peers s := rfl
theorem exec_refreshManagementComplete (stack : Nat) (bank : Nat) (s : State) :
    exec (.refreshManagementComplete stack bank) s = execRefreshManagementComplete stack bank s := rfl
theorem exec_resetBoot (failed : Option (BitVec 3)) (s : State) :
    exec (.resetBoot failed) s = execResetBoot failed s := rfl
theorem exec_ftwaitMx (s : State) : exec .ftwaitMx s = execFtwaitMx s := rfl
theorem exec_ftwaitRsh (s : State) : exec .ftwaitRsh s = execFtwaitRsh s := rfl
theorem exec_icinv (s : State) : exec .icinv s = execIcinv s := rfl
theorem exec_tlbinvHeap (s : State) : exec .tlbinvHeap s = execTlbinvHeap s := rfl
theorem exec_wleave (s : State) : exec .wleave s = execWleave s := rfl
theorem exec_land (s : State) : exec .land s = execLand s := rfl
theorem exec_succRet (s : State) : exec .succRet s = execSuccRet s := rfl
theorem exec_succExit (s : State) : exec .succExit s = execSuccExit s := rfl
theorem exec_succRtt (s : State) : exec .succRtt s = execSuccRtt s := rfl
theorem exec_loadResultReturn (team : Nat) (who : Who) (s : State) :
    exec (.loadResultReturn team who) s = execLoadResultReturn team who s := rfl
theorem exec_streamPop (team : Nat) (who : Who) (port : Bool) (s : State) :
    exec (.streamPop team who port) s = execStreamPop team who port s := rfl
theorem exec_watchdog (team : Nat) (t : Nat) (s : State) : exec (.watchdog team t) s = execWatchdog team t s := rfl
theorem exec_launchDoorbell (q : Nat) (tail : BitVec 32) (s : State) :
    exec (.launchDoorbell q tail) s = execLaunchDoorbell q tail s := rfl
theorem exec_launchAdmission (s : State) : exec .launchAdmission s = execLaunchAdmission s := rfl
theorem exec_teamPlacement (s : State) : exec .teamPlacement s = execTeamPlacement s := rfl
theorem exec_gangStaggerExpiry (launch : Nat) (s : State) :
    exec (.gangStaggerExpiry launch) s = execGangStaggerExpiry launch s := rfl
theorem exec_pathAgeing (team : Nat) (group : Nat) (pc : Word64) (s : State) :
    exec (.pathAgeing team group pc) s = execPathAgeing team group pc s := rfl
theorem exec_preemption (s : State) : exec .preemption s = execPreemption s := rfl
theorem exec_remoteAnswer (id : Nat) (answer : RemoteAnswer) (s : State) :
    exec (.remoteAnswer id answer) s = execRemoteAnswer id answer s := rfl
theorem exec_inboundRemoteRequest (req : InboundRequest) (s : State) :
    exec (.inboundRemoteRequest req) s = execInboundRemoteRequest req s := rfl
theorem exec_linkPause (port : Nat) (s : State) : exec (.linkPause port) s = execLinkPause port s := rfl
theorem exec_linkResume (port : Nat) (s : State) : exec (.linkResume port) s = execLinkResume port s := rfl
theorem exec_portFailure (port : Nat) (s : State) : exec (.portFailure port) s = execPortFailure port s := rfl
theorem exec_hostCopyDescriptor (d : HostDescriptor) (s : State) :
    exec (.hostCopyDescriptor d) s = execHostCopyDescriptor d s := rfl
theorem exec_hostApertureAccess (a : HostAccess) (s : State) :
    exec (.hostApertureAccess a) s = execHostApertureAccess a s := rfl
theorem exec_correctedError (stack : BitVec 3) (rho : BitVec 32) (s : State) :
    exec (.correctedError stack rho) s = execCorrectedError stack rho s := rfl
theorem exec_rowActivationAlert (stack : Nat) (bank : Nat) (s : State) :
    exec (.rowActivationAlert stack bank) s = execRowActivationAlert stack bank s := rfl
theorem exec_powerEstimate (watts : Nat) (ks : List (BitVec 3)) (s : State) :
    exec (.powerEstimate watts ks) s = execPowerEstimate watts ks s := rfl
theorem exec_temperatureThrottle (die : Nat) (temp : BitVec 8) (s : State) :
    exec (.temperatureThrottle die temp) s = execTemperatureThrottle die temp s := rfl
theorem exec_thermalTrip (die : Nat) (temp : BitVec 8) (s : State) :
    exec (.thermalTrip die temp) s = execThermalTrip die temp s := rfl
theorem exec_attestation (s : State) : exec .attestation s = execAttestation s := rfl
theorem exec_lindenClear (v : BitVec 32) (s : State) : exec (.lindenClear v) s = execLindenClear v s := rfl
theorem exec_spretire (v : BitVec 32) (s : State) : exec (.spretire v) s = execSpretire v s := rfl
theorem exec_route (v : BitVec 64) (s : State) : exec (.route v) s = execRoute v s := rfl
theorem exec_ctxctl (x : BitVec 12) (v : BitVec 64) (s : State) : exec (.ctxctl x v) s = execCtxctl x v s := rfl
theorem exec_translationStoreConfig (base : BitVec 64) (size : BitVec 64) (s : State) :
    exec (.translationStoreConfig base size) s = execTranslationStoreConfig base size s := rfl
theorem exec_managementRegisterWrite (off : BitVec 16) (v : BitVec 64) (s : State) :
    exec (.managementRegisterWrite off v) s = execManagementRegisterWrite off v s := rfl
theorem exec_hostLinkFailure (link : Bool) (s : State) :
    exec (.hostLinkFailure link) s = execHostLinkFailure link s := rfl
theorem exec_linkRetransmission (port : Nat) (s : State) :
    exec (.linkRetransmission port) s = execLinkRetransmission port s := rfl
theorem exec_temperatureThrottleEnd (die : Nat) (temp : BitVec 8) (s : State) :
    exec (.temperatureThrottleEnd die temp) s = execTemperatureThrottleEnd die temp s := rfl
theorem exec_attestationComplete (s : State) : exec .attestationComplete s = execAttestationComplete s := rfl

end Machine

end Sys2Proof
end

