-- ==== Sys2Proof/Laws/Lanes.lean ====
section
/-!
SUPPORT. What each shape of lane instruction (R86) does when one thread issues it alone.
-/

namespace Sys2Proof.Machine

variable {s : State} {i : Instr} {c : Issue} {t : Nat} {T : Team} {G : Group} {h : Thread}

/-- A thread's own changes depend only on the thread as it is. -/
theorem State.modThread_congr {f g : Thread → Thread} (hT : s.team? c.team = some T) (hh : T.thread? t = some h)
    (e : f h = g h) : s.modThread c.team t f = s.modThread c.team t g := by
  unfold State.modThread State.modTeam
  congr 1
  apply SMap.modify_congr
  intro v hv
  have : v = T := by
    have := hT
    unfold State.team? at this
    rw [hv] at this
    exact Option.some.inj this
  subst this
  congr 1
  apply SMap.modify_congr
  intro w hw
  have : w = h := by
    have := hh
    unfold Team.thread? at this
    rw [hw] at this
    exact Option.some.inj this
  subst this
  exact e

theorem Solo.after_congr (hs : Solo s i c t T G h) {f g : Thread → Thread} (e : f h = g h) :
    s.after c t f = s.after c t g := State.modThread_congr hs.team hs.thread (by simp [e])

/-- A body that changes only its thread: the instruction does that and goes on. -/
theorem Solo.does (hs : Solo s i c t T G h) (hk : kindOk s T i = true) {body : Lane → M Next} {f : Thread → Thread}
    (he : exec i s = issue i body s) (hb : body (c.lane t) s = .ok (none, s.modThread c.team t f)) :
    exec i s = .next (s.after c t f) := by
  rw [he, issue, issueWith_solo hs hk hb, State.after_eq]

variable {d a b : BitVec 8}

theorem Solo.un (hs : Solo s i c t T G h) (hk : kindOk s T i = true) {f : Word → Word}
    (he : exec i s = issue i (un d a f) s) (ha : a.toNat < 220) (hd : d.toNat < 220) :
    exec i s = .next (s.after c t fun h => h.put d (f (h.val a))) := by
  rw [hs.does hk he (f := (·.put d (f (h.val a)))) (by
    simp [Machine.un, seq_apply, rd_g hs.team hs.thread ha, wr_g _ hd, Thread.val]; rfl)]
  exact congrArg _ (hs.after_congr rfl)

theorem Solo.bin (hs : Solo s i c t T G h) (hk : kindOk s T i = true) {f : Word → Word → Word}
    (he : exec i s = issue i (bin d a b f) s) (ha : a.toNat < 220) (hb : b.toNat < 220) (hd : d.toNat < 220) :
    exec i s = .next (s.after c t fun h => h.put d (f (h.val a) (h.val b))) := by
  rw [hs.does hk he (f := (·.put d (f (h.val a) (h.val b)))) (by
    simp [Machine.bin, seq_apply, rd_g hs.team hs.thread ha, rd_g hs.team hs.thread hb, wr_g _ hd, Thread.val]; rfl)]
  exact congrArg _ (hs.after_congr rfl)

theorem Solo.ter (hs : Solo s i c t T G h) (hk : kindOk s T i = true) {f : Word → Word → Word → Word}
    (he : exec i s = issue i (ter d a b f) s) (ha : a.toNat < 220) (hb : b.toNat < 220) (hd : d.toNat < 220) :
    exec i s = .next (s.after c t fun h => h.put d (f (h.val a) (h.val b) (h.val d))) := by
  rw [hs.does hk he (f := (·.put d (f (h.val a) (h.val b) (h.val d)))) (by
    simp [Machine.ter, seq_apply, rd_g hs.team hs.thread ha, rd_g hs.team hs.thread hb, rd_g hs.team hs.thread hd,
      wr_g _ hd, Thread.val]; rfl)]
  exact congrArg _ (hs.after_congr rfl)

/-- The g registers of an instruction's fields, as their conditions. -/
theorem Solo.fields (hs : Solo s i c t T G h) : ∀ f ∈ i.flds, f.code.toNat < 220 := fun _ hf => hs.isG hf

/-! ### What the reads of a lone thread give -/

theorem theThread_lane : theThread (c.lane t) = (pure t : M Nat) := rfl
theorem lane_team : (c.lane t).team = c.team := rfl
theorem lane_who : (c.lane t).who = .thread t := rfl
theorem getS_apply {α : Type} (f : State → M α) (s : State) : ((get : M State) >>= f) s = f s s := rfl

/-- A change of the thread is a constant one: what the change makes of the thread as it is. -/
theorem At.modC (hs : At s c t T G h) (f : Thread → Thread) :
    s.modThread c.team t f = s.modThread c.team t fun _ => f h := State.modThread_congr hs.team hs.thread rfl

theorem At.thread?C (hs : At s c t T G h) (h' : Thread) :
    Machine.getThread c.team t (s.modThread c.team t fun _ => h') = .ok (h', s.modThread c.team t fun _ => h') := by
  have := State.thread?_modThread s c.team t (fun _ => h')
  unfold Machine.getThread
  rw [this]
  simp [State.thread?, hs.team, hs.thread]

theorem At.fpMode (hs : At s c t T G h) : Machine.fpMode (c.lane t) s = .ok (G.mode, s) := by
  simp [Machine.fpMode, Machine.fpctl, hs.getGroup, Group.mode]
theorem At.nfmt (hs : At s c t T G h) : Machine.nfmt (c.lane t) s = .ok (G.nfmt, s) := by
  simp [Machine.nfmt, hs.getGroup]
theorem At.fpctl (hs : At s c t T G h) : Machine.fpctl (c.lane t) s = .ok (G.fpctl, s) := by
  simp [Machine.fpctl, hs.getGroup]
theorem At.rd (hs : At s c t T G h) {r : BitVec 8} (hr : r.toNat < 220) :
    Machine.rd (c.lane t) r s = .ok (h.val r, s) := rd_g hs.team hs.thread hr
theorem At.rd64 (hs : At s c t T G h) (r : BitVec 8) : Machine.rd64 (c.lane t) r s = .ok (h.pair r, s) :=
  rd64_g hs.team hs.thread r
theorem At.rdB (hs : At s c t T G h) (k : BitVec 3) :
    Machine.rdB (c.lane t) k s = .ok (h.b.getLsbD k.toNat, s) := rdB_t hs.team hs.thread k
theorem At.rdQ (hs : At s c t T G h) (k : BitVec 3) : Machine.rdQ c.team t k s = .ok (h.qval k, s) := by
  simp [Machine.rdQ, hs.getThread, Thread.qval]
theorem wrQ_apply (s : State) (k : BitVec 3) (v : BitVec 25) :
    Machine.wrQ c.team t k v s = .ok ((), s.modThread c.team t (·.putQ k v)) := rfl
theorem At.erratum (hs : At s c t T G h) (n : Nat) :
    Machine.erratum (c.lane t) n s = .ok (emulates s T h n, s) := by
  simp [Machine.erratum, hs.getTeam, emulates, State.pcAt, State.thread?, hs.team, hs.thread]
theorem At.slot8 (hs : At s c t T G h) (b : Bool) (hv : (slotOf G.nfmt b).valid = true) :
    Machine.slot8 (c.lane t) b s = .ok (slotOf G.nfmt b, s) := by simp [Machine.slot8, hs.nfmt, hv]

/-! ### Completing and trapping -/

/-- A body that leaves its thread as `h'`. -/
theorem Solo.doesC (hs : Solo s i c t T G h) (hk : kindOk s T i = true) {body : Lane → M Next} {f : Thread → Thread}
    (h' : Thread) (he : exec i s = issue i body s)
    (hb : body (c.lane t) s = .ok (none, s.modThread c.team t fun _ => h')) (e : f h = h') :
    exec i s = .next (s.after c t f) := by
  rw [hs.does hk he hb]
  exact congrArg _ (hs.after_congr e.symm)

/-- A body that traps. -/
theorem Solo.traps (hs : Solo s i c t T G h) (hk : kindOk s T i = true) {body : Lane → M Next} {cause : BitVec 8}
    {addr : Word64} (he : exec i s = issue i body s) (hb : body (c.lane t) s = .error (.trap cause addr)) :
    exec i s = .next (s.trapped c i t cause addr none) := by
  rw [he, issue, issueWith_solo_trap hs hk hb]

end Sys2Proof.Machine
end

