-- ==== Sys2Proof/Laws/PerInstr.lean ====
section
/-!
SUPPORT. Family LengthBit: bit 0 of an encoding tells its length (R56): clear in every compact halfword, set in every
32-bit native word. One lemma per constructor.
-/

namespace Sys2Proof.Laws

/-- The first halfword of an instruction tells how long it is; successor words, which stand in segments only, are told
apart otherwise (R338). -/
def LengthBit.Statement (i : Instr) : Prop :=
  (∀ h, encode16 i = some h → h.getLsbD 0 = false) ∧
    (∀ w, encode32 i = some w → Machine.isSucc i = false → w.getLsbD 0 = true)

theorem LengthBit.low {m n : Nat} (x : BitVec m) (y : BitVec n) (hn : 0 < n) : (x ++ y).getLsbD 0 = y.getLsbD 0 := by
  rw [BitVec.getLsbD_append, if_pos hn]

theorem LengthBit.of_step {i : Instr} (h1 : encode16 i = none) (h2 : encode32 i = none) : LengthBit.Statement i :=
  ⟨fun h e => by simp [h1] at e, fun w e => by simp [h2] at e⟩

theorem LengthBit.of_word {i : Instr} {w : Word} (h1 : encode16 i = none) (h2 : encode32 i = some w)
    (h3 : w.getLsbD 0 = true) : LengthBit.Statement i :=
  ⟨fun h e => by simp [h1] at e, fun v e _ => by rw [h2] at e; cases e; exact h3⟩

theorem LengthBit.of_half {i : Instr} {h : Half} (h1 : encode16 i = some h) (h2 : encode32 i = none)
    (h3 : h.getLsbD 0 = false) : LengthBit.Statement i :=
  ⟨fun v e => by rw [h1] at e; cases e; exact h3, fun w e => by simp [h2] at e⟩

theorem LengthBit.of_succ {i : Instr} (h1 : encode16 i = none) (h2 : Machine.isSucc i = true) : LengthBit.Statement i :=
  ⟨fun h e => by simp [h1] at e, fun _ _ e => by simp [h2] at e⟩

theorem LengthBit.movCompact (d : BitVec 6) (s : BitVec 5) : LengthBit.Statement (.movCompact d s) :=
  LengthBit.of_half rfl rfl ((LengthBit.low _ _ (by decide)).trans rfl)
theorem LengthBit.iaddCompact (d : BitVec 6) (s : BitVec 5) : LengthBit.Statement (.iaddCompact d s) :=
  LengthBit.of_half rfl rfl ((LengthBit.low _ _ (by decide)).trans rfl)
theorem LengthBit.isubCompact (d : BitVec 6) (s : BitVec 5) : LengthBit.Statement (.isubCompact d s) :=
  LengthBit.of_half rfl rfl ((LengthBit.low _ _ (by decide)).trans rfl)
theorem LengthBit.andCompact (d : BitVec 6) (s : BitVec 5) : LengthBit.Statement (.andCompact d s) :=
  LengthBit.of_half rfl rfl ((LengthBit.low _ _ (by decide)).trans rfl)
theorem LengthBit.orCompact (d : BitVec 6) (s : BitVec 5) : LengthBit.Statement (.orCompact d s) :=
  LengthBit.of_half rfl rfl ((LengthBit.low _ _ (by decide)).trans rfl)
theorem LengthBit.xorCompact (d : BitVec 6) (s : BitVec 5) : LengthBit.Statement (.xorCompact d s) :=
  LengthBit.of_half rfl rfl ((LengthBit.low _ _ (by decide)).trans rfl)
theorem LengthBit.shlCompact (d : BitVec 6) (s : BitVec 5) : LengthBit.Statement (.shlCompact d s) :=
  LengthBit.of_half rfl rfl ((LengthBit.low _ _ (by decide)).trans rfl)
theorem LengthBit.shrCompact (d : BitVec 6) (s : BitVec 5) : LengthBit.Statement (.shrCompact d s) :=
  LengthBit.of_half rfl rfl ((LengthBit.low _ _ (by decide)).trans rfl)
theorem LengthBit.sarCompact (d : BitVec 6) (s : BitVec 5) : LengthBit.Statement (.sarCompact d s) :=
  LengthBit.of_half rfl rfl ((LengthBit.low _ _ (by decide)).trans rfl)
theorem LengthBit.imulCompact (d : BitVec 6) (s : BitVec 5) : LengthBit.Statement (.imulCompact d s) :=
  LengthBit.of_half rfl rfl ((LengthBit.low _ _ (by decide)).trans rfl)
theorem LengthBit.faddCompact (d : BitVec 6) (s : BitVec 5) : LengthBit.Statement (.faddCompact d s) :=
  LengthBit.of_half rfl rfl ((LengthBit.low _ _ (by decide)).trans rfl)
theorem LengthBit.fsubCompact (d : BitVec 6) (s : BitVec 5) : LengthBit.Statement (.fsubCompact d s) :=
  LengthBit.of_half rfl rfl ((LengthBit.low _ _ (by decide)).trans rfl)
theorem LengthBit.fmulCompact (d : BitVec 6) (s : BitVec 5) : LengthBit.Statement (.fmulCompact d s) :=
  LengthBit.of_half rfl rfl ((LengthBit.low _ _ (by decide)).trans rfl)
theorem LengthBit.fmaxCompact (d : BitVec 6) (s : BitVec 5) : LengthBit.Statement (.fmaxCompact d s) :=
  LengthBit.of_half rfl rfl ((LengthBit.low _ _ (by decide)).trans rfl)
theorem LengthBit.iaddiCompact (d : BitVec 6) (i : BitVec 5) : LengthBit.Statement (.iaddiCompact d i) :=
  LengthBit.of_half rfl rfl ((LengthBit.low _ _ (by decide)).trans rfl)
theorem LengthBit.movi (d : BitVec 6) (i : BitVec 5) : LengthBit.Statement (.movi d i) :=
  LengthBit.of_half rfl rfl ((LengthBit.low _ _ (by decide)).trans rfl)
theorem LengthBit.iadd (d : BitVec 8) (a : BitVec 8) (b : BitVec 8) : LengthBit.Statement (.iadd d a b) :=
  LengthBit.of_word rfl rfl ((LengthBit.low _ _ (by decide)).trans rfl)
theorem LengthBit.isub (d : BitVec 8) (a : BitVec 8) (b : BitVec 8) : LengthBit.Statement (.isub d a b) :=
  LengthBit.of_word rfl rfl ((LengthBit.low _ _ (by decide)).trans rfl)
theorem LengthBit.imul (d : BitVec 8) (a : BitVec 8) (b : BitVec 8) (x : Bool) : LengthBit.Statement (.imul d a b x) :=
  LengthBit.of_word rfl rfl ((LengthBit.low _ _ (by decide)).trans rfl)
theorem LengthBit.imulhs (d : BitVec 8) (a : BitVec 8) (b : BitVec 8) : LengthBit.Statement (.imulhs d a b) :=
  LengthBit.of_word rfl rfl ((LengthBit.low _ _ (by decide)).trans rfl)
theorem LengthBit.imad (d : BitVec 8) (a : BitVec 8) (b : BitVec 8) (x : Bool) : LengthBit.Statement (.imad d a b x) :=
  LengthBit.of_word rfl rfl ((LengthBit.low _ _ (by decide)).trans rfl)
theorem LengthBit.and (d : BitVec 8) (a : BitVec 8) (b : BitVec 8) : LengthBit.Statement (.and d a b) :=
  LengthBit.of_word rfl rfl ((LengthBit.low _ _ (by decide)).trans rfl)
theorem LengthBit.or (d : BitVec 8) (a : BitVec 8) (b : BitVec 8) : LengthBit.Statement (.or d a b) :=
  LengthBit.of_word rfl rfl ((LengthBit.low _ _ (by decide)).trans rfl)
theorem LengthBit.xor (d : BitVec 8) (a : BitVec 8) (b : BitVec 8) : LengthBit.Statement (.xor d a b) :=
  LengthBit.of_word rfl rfl ((LengthBit.low _ _ (by decide)).trans rfl)
theorem LengthBit.andn (d : BitVec 8) (a : BitVec 8) (b : BitVec 8) : LengthBit.Statement (.andn d a b) :=
  LengthBit.of_word rfl rfl ((LengthBit.low _ _ (by decide)).trans rfl)
theorem LengthBit.shl (d : BitVec 8) (a : BitVec 8) (b : BitVec 8) : LengthBit.Statement (.shl d a b) :=
  LengthBit.of_word rfl rfl ((LengthBit.low _ _ (by decide)).trans rfl)
theorem LengthBit.shr (d : BitVec 8) (a : BitVec 8) (b : BitVec 8) : LengthBit.Statement (.shr d a b) :=
  LengthBit.of_word rfl rfl ((LengthBit.low _ _ (by decide)).trans rfl)
theorem LengthBit.sar (d : BitVec 8) (a : BitVec 8) (b : BitVec 8) : LengthBit.Statement (.sar d a b) :=
  LengthBit.of_word rfl rfl ((LengthBit.low _ _ (by decide)).trans rfl)
theorem LengthBit.imin (d : BitVec 8) (a : BitVec 8) (b : BitVec 8) (x : Bool) : LengthBit.Statement (.imin d a b x) :=
  LengthBit.of_word rfl rfl ((LengthBit.low _ _ (by decide)).trans rfl)
theorem LengthBit.imax (d : BitVec 8) (a : BitVec 8) (b : BitVec 8) (x : Bool) : LengthBit.Statement (.imax d a b x) :=
  LengthBit.of_word rfl rfl ((LengthBit.low _ _ (by decide)).trans rfl)
theorem LengthBit.iadd64 (d : BitVec 8) (a : BitVec 8) (b : BitVec 8) (x : Bool) : LengthBit.Statement (.iadd64 d a b x) :=
  LengthBit.of_word rfl rfl ((LengthBit.low _ _ (by decide)).trans rfl)
theorem LengthBit.perm (d : BitVec 8) (a : BitVec 8) (b : BitVec 8) : LengthBit.Statement (.perm d a b) :=
  LengthBit.of_word rfl rfl ((LengthBit.low _ _ (by decide)).trans rfl)
theorem LengthBit.mov (d : BitVec 8) (a : BitVec 8) : LengthBit.Statement (.mov d a) :=
  LengthBit.of_word rfl rfl ((LengthBit.low _ _ (by decide)).trans rfl)
theorem LengthBit.not (d : BitVec 8) (a : BitVec 8) : LengthBit.Statement (.not d a) :=
  LengthBit.of_word rfl rfl ((LengthBit.low _ _ (by decide)).trans rfl)
theorem LengthBit.neg (d : BitVec 8) (a : BitVec 8) : LengthBit.Statement (.neg d a) :=
  LengthBit.of_word rfl rfl ((LengthBit.low _ _ (by decide)).trans rfl)
theorem LengthBit.iabs (d : BitVec 8) (a : BitVec 8) : LengthBit.Statement (.iabs d a) :=
  LengthBit.of_word rfl rfl ((LengthBit.low _ _ (by decide)).trans rfl)
theorem LengthBit.clz (d : BitVec 8) (a : BitVec 8) : LengthBit.Statement (.clz d a) :=
  LengthBit.of_word rfl rfl ((LengthBit.low _ _ (by decide)).trans rfl)
theorem LengthBit.popc (d : BitVec 8) (a : BitVec 8) : LengthBit.Statement (.popc d a) :=
  LengthBit.of_word rfl rfl ((LengthBit.low _ _ (by decide)).trans rfl)
theorem LengthBit.brev (d : BitVec 8) (a : BitVec 8) : LengthBit.Statement (.brev d a) :=
  LengthBit.of_word rfl rfl ((LengthBit.low _ _ (by decide)).trans rfl)
theorem LengthBit.sexb (d : BitVec 8) (a : BitVec 8) : LengthBit.Statement (.sexb d a) :=
  LengthBit.of_word rfl rfl ((LengthBit.low _ _ (by decide)).trans rfl)
theorem LengthBit.sexh (d : BitVec 8) (a : BitVec 8) : LengthBit.Statement (.sexh d a) :=
  LengthBit.of_word rfl rfl ((LengthBit.low _ _ (by decide)).trans rfl)
theorem LengthBit.zexb (d : BitVec 8) (a : BitVec 8) : LengthBit.Statement (.zexb d a) :=
  LengthBit.of_word rfl rfl ((LengthBit.low _ _ (by decide)).trans rfl)
theorem LengthBit.zexh (d : BitVec 8) (a : BitVec 8) : LengthBit.Statement (.zexh d a) :=
  LengthBit.of_word rfl rfl ((LengthBit.low _ _ (by decide)).trans rfl)
theorem LengthBit.laneid (d : BitVec 8) : LengthBit.Statement (.laneid d) :=
  LengthBit.of_word rfl rfl ((LengthBit.low _ _ (by decide)).trans rfl)
theorem LengthBit.tidx (d : BitVec 8) : LengthBit.Statement (.tidx d) :=
  LengthBit.of_word rfl rfl ((LengthBit.low _ _ (by decide)).trans rfl)
theorem LengthBit.teamix (d : BitVec 8) : LengthBit.Statement (.teamix d) :=
  LengthBit.of_word rfl rfl ((LengthBit.low _ _ (by decide)).trans rfl)
theorem LengthBit.clklo (d : BitVec 8) : LengthBit.Statement (.clklo d) :=
  LengthBit.of_word rfl rfl ((LengthBit.low _ _ (by decide)).trans rfl)
theorem LengthBit.clkhi (d : BitVec 8) : LengthBit.Statement (.clkhi d) :=
  LengthBit.of_word rfl rfl ((LengthBit.low _ _ (by decide)).trans rfl)
theorem LengthBit.b2g (d : BitVec 8) (k : BitVec 3) : LengthBit.Statement (.b2g d k) :=
  LengthBit.of_word rfl rfl ((LengthBit.low _ _ (by decide)).trans rfl)
theorem LengthBit.g2b (k : BitVec 3) (a : BitVec 8) : LengthBit.Statement (.g2b k a) :=
  LengthBit.of_word rfl rfl ((LengthBit.low _ _ (by decide)).trans rfl)
theorem LengthBit.clz64 (d : BitVec 8) (a : BitVec 8) : LengthBit.Statement (.clz64 d a) :=
  LengthBit.of_word rfl rfl ((LengthBit.low _ _ (by decide)).trans rfl)
theorem LengthBit.popc64 (d : BitVec 8) (a : BitVec 8) : LengthBit.Statement (.popc64 d a) :=
  LengthBit.of_word rfl rfl ((LengthBit.low _ _ (by decide)).trans rfl)
theorem LengthBit.iaddi (d : BitVec 8) (a : BitVec 8) (i : BitVec 9) : LengthBit.Statement (.iaddi d a i) :=
  LengthBit.of_word rfl rfl ((LengthBit.low _ _ (by decide)).trans rfl)
theorem LengthBit.andi (d : BitVec 8) (a : BitVec 8) (i : BitVec 9) : LengthBit.Statement (.andi d a i) :=
  LengthBit.of_word rfl rfl ((LengthBit.low _ _ (by decide)).trans rfl)
theorem LengthBit.ori (d : BitVec 8) (a : BitVec 8) (i : BitVec 9) : LengthBit.Statement (.ori d a i) :=
  LengthBit.of_word rfl rfl ((LengthBit.low _ _ (by decide)).trans rfl)
theorem LengthBit.xori (d : BitVec 8) (a : BitVec 8) (i : BitVec 9) : LengthBit.Statement (.xori d a i) :=
  LengthBit.of_word rfl rfl ((LengthBit.low _ _ (by decide)).trans rfl)
theorem LengthBit.shli (d : BitVec 8) (a : BitVec 8) (n : BitVec 5) : LengthBit.Statement (.shli d a n) :=
  LengthBit.of_word rfl rfl ((LengthBit.low _ _ (by decide)).trans rfl)
theorem LengthBit.shri (d : BitVec 8) (a : BitVec 8) (n : BitVec 5) : LengthBit.Statement (.shri d a n) :=
  LengthBit.of_word rfl rfl ((LengthBit.low _ _ (by decide)).trans rfl)
theorem LengthBit.sari (d : BitVec 8) (a : BitVec 8) (n : BitVec 5) : LengthBit.Statement (.sari d a n) :=
  LengthBit.of_word rfl rfl ((LengthBit.low _ _ (by decide)).trans rfl)
theorem LengthBit.rotri (d : BitVec 8) (a : BitVec 8) (n : BitVec 5) : LengthBit.Statement (.rotri d a n) :=
  LengthBit.of_word rfl rfl ((LengthBit.low _ _ (by decide)).trans rfl)
theorem LengthBit.movkl (d : BitVec 8) (i : BitVec 16) : LengthBit.Statement (.movkl d i) :=
  LengthBit.of_word rfl rfl ((LengthBit.low _ _ (by decide)).trans rfl)
theorem LengthBit.movkh (d : BitVec 8) (i : BitVec 16) : LengthBit.Statement (.movkh d i) :=
  LengthBit.of_word rfl rfl ((LengthBit.low _ _ (by decide)).trans rfl)
theorem LengthBit.icmp (e : BitVec 3) (c : BitVec 3) (n : Bool) (a : BitVec 8) (b : BitVec 8) : LengthBit.Statement (.icmp e c n a b) :=
  LengthBit.of_word rfl rfl ((LengthBit.low _ _ (by decide)).trans rfl)
theorem LengthBit.icmpi (e : BitVec 3) (c : BitVec 3) (n : Bool) (a : BitVec 8) (i : BitVec 8) : LengthBit.Statement (.icmpi e c n a i) :=
  LengthBit.of_word rfl rfl ((LengthBit.low _ _ (by decide)).trans rfl)
theorem LengthBit.sel (c : BitVec 3) (s : Bool) (d : BitVec 8) (a : BitVec 8) : LengthBit.Statement (.sel c s d a) :=
  LengthBit.of_word rfl rfl ((LengthBit.low _ _ (by decide)).trans rfl)
theorem LengthBit.shflIdx (s : BitVec 4) (d : BitVec 8) (c : BitVec 8) (r : Bool) : LengthBit.Statement (.shflIdx s d c r) :=
  LengthBit.of_word rfl rfl ((LengthBit.low _ _ (by decide)).trans rfl)
theorem LengthBit.shflUp (s : BitVec 4) (d : BitVec 8) (n : BitVec 8) (r : Bool) : LengthBit.Statement (.shflUp s d n r) :=
  LengthBit.of_word rfl rfl ((LengthBit.low _ _ (by decide)).trans rfl)
theorem LengthBit.shflDown (s : BitVec 4) (d : BitVec 8) (n : BitVec 8) (r : Bool) : LengthBit.Statement (.shflDown s d n r) :=
  LengthBit.of_word rfl rfl ((LengthBit.low _ _ (by decide)).trans rfl)
theorem LengthBit.shflXor (s : BitVec 4) (d : BitVec 8) (n : BitVec 8) (r : Bool) : LengthBit.Statement (.shflXor s d n r) :=
  LengthBit.of_word rfl rfl ((LengthBit.low _ _ (by decide)).trans rfl)
theorem LengthBit.voteAny (s : BitVec 4) (d : BitVec 3) (f : BitVec 3) (r : Bool) : LengthBit.Statement (.voteAny s d f r) :=
  LengthBit.of_word rfl rfl ((LengthBit.low _ _ (by decide)).trans rfl)
theorem LengthBit.voteAll (s : BitVec 4) (d : BitVec 3) (f : BitVec 3) (r : Bool) : LengthBit.Statement (.voteAll s d f r) :=
  LengthBit.of_word rfl rfl ((LengthBit.low _ _ (by decide)).trans rfl)
theorem LengthBit.voteBallot (s : BitVec 4) (d : BitVec 8) (f : BitVec 3) (r : Bool) : LengthBit.Statement (.voteBallot s d f r) :=
  LengthBit.of_word rfl rfl ((LengthBit.low _ _ (by decide)).trans rfl)
theorem LengthBit.voteMatch (s : BitVec 4) (d : BitVec 8) (a : BitVec 8) (r : Bool) : LengthBit.Statement (.voteMatch s d a r) :=
  LengthBit.of_word rfl rfl ((LengthBit.low _ _ (by decide)).trans rfl)
theorem LengthBit.voteRadd (s : BitVec 4) (d : BitVec 8) (a : BitVec 8) (r : Bool) : LengthBit.Statement (.voteRadd s d a r) :=
  LengthBit.of_word rfl rfl ((LengthBit.low _ _ (by decide)).trans rfl)
theorem LengthBit.voteRmin (s : BitVec 4) (d : BitVec 8) (a : BitVec 8) (r : Bool) : LengthBit.Statement (.voteRmin s d a r) :=
  LengthBit.of_word rfl rfl ((LengthBit.low _ _ (by decide)).trans rfl)
theorem LengthBit.voteRmax (s : BitVec 4) (d : BitVec 8) (a : BitVec 8) (r : Bool) : LengthBit.Statement (.voteRmax s d a r) :=
  LengthBit.of_word rfl rfl ((LengthBit.low _ _ (by decide)).trans rfl)
theorem LengthBit.voteRfadd (s : BitVec 4) (d : BitVec 8) (a : BitVec 8) (r : Bool) : LengthBit.Statement (.voteRfadd s d a r) :=
  LengthBit.of_word rfl rfl ((LengthBit.low _ _ (by decide)).trans rfl)
theorem LengthBit.fadd (d : BitVec 8) (a : BitVec 8) (b : BitVec 8) (x : Bool) : LengthBit.Statement (.fadd d a b x) :=
  LengthBit.of_word rfl rfl ((LengthBit.low _ _ (by decide)).trans rfl)
theorem LengthBit.fsub (d : BitVec 8) (a : BitVec 8) (b : BitVec 8) (x : Bool) : LengthBit.Statement (.fsub d a b x) :=
  LengthBit.of_word rfl rfl ((LengthBit.low _ _ (by decide)).trans rfl)
theorem LengthBit.fmul (d : BitVec 8) (a : BitVec 8) (b : BitVec 8) (x : Bool) : LengthBit.Statement (.fmul d a b x) :=
  LengthBit.of_word rfl rfl ((LengthBit.low _ _ (by decide)).trans rfl)
theorem LengthBit.ffma (d : BitVec 8) (a : BitVec 8) (b : BitVec 8) (x : Bool) : LengthBit.Statement (.ffma d a b x) :=
  LengthBit.of_word rfl rfl ((LengthBit.low _ _ (by decide)).trans rfl)
theorem LengthBit.fmin (d : BitVec 8) (a : BitVec 8) (b : BitVec 8) (x : Bool) : LengthBit.Statement (.fmin d a b x) :=
  LengthBit.of_word rfl rfl ((LengthBit.low _ _ (by decide)).trans rfl)
theorem LengthBit.fmax (d : BitVec 8) (a : BitVec 8) (b : BitVec 8) (x : Bool) : LengthBit.Statement (.fmax d a b x) :=
  LengthBit.of_word rfl rfl ((LengthBit.low _ _ (by decide)).trans rfl)
theorem LengthBit.fabs (d : BitVec 8) (a : BitVec 8) (l : BitVec 4) : LengthBit.Statement (.fabs d a l) :=
  LengthBit.of_word rfl rfl ((LengthBit.low _ _ (by decide)).trans rfl)
theorem LengthBit.fneg (d : BitVec 8) (a : BitVec 8) (l : BitVec 4) : LengthBit.Statement (.fneg d a l) :=
  LengthBit.of_word rfl rfl ((LengthBit.low _ _ (by decide)).trans rfl)
theorem LengthBit.frcp (d : BitVec 8) (a : BitVec 8) (l : BitVec 4) : LengthBit.Statement (.frcp d a l) :=
  LengthBit.of_word rfl rfl ((LengthBit.low _ _ (by decide)).trans rfl)
theorem LengthBit.frsq (d : BitVec 8) (a : BitVec 8) (l : BitVec 4) : LengthBit.Statement (.frsq d a l) :=
  LengthBit.of_word rfl rfl ((LengthBit.low _ _ (by decide)).trans rfl)
theorem LengthBit.fsqrt (d : BitVec 8) (a : BitVec 8) (l : BitVec 4) : LengthBit.Statement (.fsqrt d a l) :=
  LengthBit.of_word rfl rfl ((LengthBit.low _ _ (by decide)).trans rfl)
theorem LengthBit.fexp2 (d : BitVec 8) (a : BitVec 8) (l : BitVec 4) : LengthBit.Statement (.fexp2 d a l) :=
  LengthBit.of_word rfl rfl ((LengthBit.low _ _ (by decide)).trans rfl)
theorem LengthBit.flog2 (d : BitVec 8) (a : BitVec 8) (l : BitVec 4) : LengthBit.Statement (.flog2 d a l) :=
  LengthBit.of_word rfl rfl ((LengthBit.low _ _ (by decide)).trans rfl)
theorem LengthBit.fsin (d : BitVec 8) (a : BitVec 8) (l : BitVec 4) : LengthBit.Statement (.fsin d a l) :=
  LengthBit.of_word rfl rfl ((LengthBit.low _ _ (by decide)).trans rfl)
theorem LengthBit.fcos (d : BitVec 8) (a : BitVec 8) (l : BitVec 4) : LengthBit.Statement (.fcos d a l) :=
  LengthBit.of_word rfl rfl ((LengthBit.low _ _ (by decide)).trans rfl)
theorem LengthBit.ftanh (d : BitVec 8) (a : BitVec 8) (l : BitVec 4) : LengthBit.Statement (.ftanh d a l) :=
  LengthBit.of_word rfl rfl ((LengthBit.low _ _ (by decide)).trans rfl)
theorem LengthBit.ffloor (d : BitVec 8) (a : BitVec 8) (l : BitVec 4) : LengthBit.Statement (.ffloor d a l) :=
  LengthBit.of_word rfl rfl ((LengthBit.low _ _ (by decide)).trans rfl)
theorem LengthBit.fceil (d : BitVec 8) (a : BitVec 8) (l : BitVec 4) : LengthBit.Statement (.fceil d a l) :=
  LengthBit.of_word rfl rfl ((LengthBit.low _ _ (by decide)).trans rfl)
theorem LengthBit.ftrunc (d : BitVec 8) (a : BitVec 8) (l : BitVec 4) : LengthBit.Statement (.ftrunc d a l) :=
  LengthBit.of_word rfl rfl ((LengthBit.low _ _ (by decide)).trans rfl)
theorem LengthBit.frint (d : BitVec 8) (a : BitVec 8) (l : BitVec 4) : LengthBit.Statement (.frint d a l) :=
  LengthBit.of_word rfl rfl ((LengthBit.low _ _ (by decide)).trans rfl)
theorem LengthBit.fclass (d : BitVec 8) (a : BitVec 8) (l : BitVec 4) : LengthBit.Statement (.fclass d a l) :=
  LengthBit.of_word rfl rfl ((LengthBit.low _ _ (by decide)).trans rfl)
theorem LengthBit.fsat (d : BitVec 8) (a : BitVec 8) (l : BitVec 4) : LengthBit.Statement (.fsat d a l) :=
  LengthBit.of_word rfl rfl ((LengthBit.low _ _ (by decide)).trans rfl)
theorem LengthBit.fcmp (e : BitVec 3) (c : BitVec 3) (n : Bool) (a : BitVec 8) (b : BitVec 8) : LengthBit.Statement (.fcmp e c n a b) :=
  LengthBit.of_word rfl rfl ((LengthBit.low _ _ (by decide)).trans rfl)
theorem LengthBit.cvt (d : BitVec 8) (a : BitVec 8) (f : BitVec 3) (r : BitVec 2) (p : BitVec 2) (i : Bool) : LengthBit.Statement (.cvt d a f r p i) :=
  LengthBit.of_word rfl rfl ((LengthBit.low _ _ (by decide)).trans rfl)
theorem LengthBit.cvif (d : BitVec 8) (a : BitVec 8) : LengthBit.Statement (.cvif d a) :=
  LengthBit.of_word rfl rfl ((LengthBit.low _ _ (by decide)).trans rfl)
theorem LengthBit.cvnf (d : BitVec 8) (a : BitVec 8) : LengthBit.Statement (.cvnf d a) :=
  LengthBit.of_word rfl rfl ((LengthBit.low _ _ (by decide)).trans rfl)
theorem LengthBit.cvfi (d : BitVec 8) (a : BitVec 8) : LengthBit.Statement (.cvfi d a) :=
  LengthBit.of_word rfl rfl ((LengthBit.low _ _ (by decide)).trans rfl)
theorem LengthBit.cvfn (d : BitVec 8) (a : BitVec 8) : LengthBit.Statement (.cvfn d a) :=
  LengthBit.of_word rfl rfl ((LengthBit.low _ _ (by decide)).trans rfl)
theorem LengthBit.cvhf (d : BitVec 8) (a : BitVec 8) (x : Bool) : LengthBit.Statement (.cvhf d a x) :=
  LengthBit.of_word rfl rfl ((LengthBit.low _ _ (by decide)).trans rfl)
theorem LengthBit.cvbf (d : BitVec 8) (a : BitVec 8) : LengthBit.Statement (.cvbf d a) :=
  LengthBit.of_word rfl rfl ((LengthBit.low _ _ (by decide)).trans rfl)
theorem LengthBit.cv8af (d : BitVec 8) (a : BitVec 8) : LengthBit.Statement (.cv8af d a) :=
  LengthBit.of_word rfl rfl ((LengthBit.low _ _ (by decide)).trans rfl)
theorem LengthBit.cv8bf (d : BitVec 8) (a : BitVec 8) : LengthBit.Statement (.cv8bf d a) :=
  LengthBit.of_word rfl rfl ((LengthBit.low _ _ (by decide)).trans rfl)
theorem LengthBit.dot4 (d : BitVec 8) (a : BitVec 8) (b : BitVec 8) : LengthBit.Statement (.dot4 d a b) :=
  LengthBit.of_word rfl rfl ((LengthBit.low _ _ (by decide)).trans rfl)
theorem LengthBit.dot2 (d : BitVec 8) (a : BitVec 8) (b : BitVec 8) : LengthBit.Statement (.dot2 d a b) :=
  LengthBit.of_word rfl rfl ((LengthBit.low _ _ (by decide)).trans rfl)
theorem LengthBit.idiv (d : BitVec 8) (a : BitVec 8) (b : BitVec 8) : LengthBit.Statement (.idiv d a b) :=
  LengthBit.of_word rfl rfl ((LengthBit.low _ _ (by decide)).trans rfl)
theorem LengthBit.idivu (d : BitVec 8) (a : BitVec 8) (b : BitVec 8) : LengthBit.Statement (.idivu d a b) :=
  LengthBit.of_word rfl rfl ((LengthBit.low _ _ (by decide)).trans rfl)
theorem LengthBit.scmp (q : BitVec 3) (k : BitVec 2) (l : BitVec 3) (a : BitVec 8) (b : BitVec 8) : LengthBit.Statement (.scmp q k l a b) :=
  LengthBit.of_word rfl rfl ((LengthBit.low _ _ (by decide)).trans rfl)
theorem LengthBit.pcombAnd (d : BitVec 3) (a : BitVec 3) (b : BitVec 3) (m : BitVec 2) : LengthBit.Statement (.pcombAnd d a b m) :=
  LengthBit.of_word rfl rfl ((LengthBit.low _ _ (by decide)).trans rfl)
theorem LengthBit.pcombOr (d : BitVec 3) (a : BitVec 3) (b : BitVec 3) (m : BitVec 2) : LengthBit.Statement (.pcombOr d a b m) :=
  LengthBit.of_word rfl rfl ((LengthBit.low _ _ (by decide)).trans rfl)
theorem LengthBit.pcombNot (d : BitVec 3) (a : BitVec 3) : LengthBit.Statement (.pcombNot d a) :=
  LengthBit.of_word rfl rfl ((LengthBit.low _ _ (by decide)).trans rfl)
theorem LengthBit.pcombXor (d : BitVec 3) (a : BitVec 3) (b : BitVec 3) (m : BitVec 2) : LengthBit.Statement (.pcombXor d a b m) :=
  LengthBit.of_word rfl rfl ((LengthBit.low _ _ (by decide)).trans rfl)
theorem LengthBit.blend (c : BitVec 3) (s : Bool) (d : BitVec 8) (a : BitVec 8) : LengthBit.Statement (.blend c s d a) :=
  LengthBit.of_word rfl rfl ((LengthBit.low _ _ (by decide)).trans rfl)
theorem LengthBit.blendi (c : BitVec 3) (s : Bool) (d : BitVec 8) (a : BitVec 8) : LengthBit.Statement (.blendi c s d a) :=
  LengthBit.of_word rfl rfl ((LengthBit.low _ _ (by decide)).trans rfl)
theorem LengthBit.selq (c : BitVec 3) (s : Bool) (d : BitVec 8) (a : BitVec 8) : LengthBit.Statement (.selq c s d a) :=
  LengthBit.of_word rfl rfl ((LengthBit.low _ _ (by decide)).trans rfl)
theorem LengthBit.coll (q : BitVec 3) (d : BitVec 3) : LengthBit.Statement (.coll q d) :=
  LengthBit.of_word rfl rfl ((LengthBit.low _ _ (by decide)).trans rfl)
theorem LengthBit.qset (q : BitVec 3) (a : BitVec 8) : LengthBit.Statement (.qset q a) :=
  LengthBit.of_word rfl rfl ((LengthBit.low _ _ (by decide)).trans rfl)
theorem LengthBit.qget (q : BitVec 3) (d : BitVec 8) : LengthBit.Statement (.qget q d) :=
  LengthBit.of_word rfl rfl ((LengthBit.low _ _ (by decide)).trans rfl)
theorem LengthBit.qfromb (q : BitVec 3) (b : BitVec 3) : LengthBit.Statement (.qfromb q b) :=
  LengthBit.of_word rfl rfl ((LengthBit.low _ _ (by decide)).trans rfl)
theorem LengthBit.pgrad (q : BitVec 3) (k : BitVec 2) (d : BitVec 8) : LengthBit.Statement (.pgrad q k d) :=
  LengthBit.of_word rfl rfl ((LengthBit.low _ _ (by decide)).trans rfl)
theorem LengthBit.qhard (q : BitVec 3) (d : BitVec 3) : LengthBit.Statement (.qhard q d) :=
  LengthBit.of_word rfl rfl ((LengthBit.low _ _ (by decide)).trans rfl)
theorem LengthBit.ld (d : BitVec 8) (a : BitVec 8) (l : BitVec 4) (s : BitVec 3) (o : BitVec 2) : LengthBit.Statement (.ld d a l s o) :=
  LengthBit.of_word rfl rfl ((LengthBit.low _ _ (by decide)).trans rfl)
theorem LengthBit.st (d : BitVec 8) (a : BitVec 8) (l : BitVec 4) (s : BitVec 3) (o : BitVec 2) : LengthBit.Statement (.st d a l s o) :=
  LengthBit.of_word rfl rfl ((LengthBit.low _ _ (by decide)).trans rfl)
theorem LengthBit.ldl (d : BitVec 8) (a : BitVec 8) (l : BitVec 4) (s : BitVec 3) (o : BitVec 2) : LengthBit.Statement (.ldl d a l s o) :=
  LengthBit.of_word rfl rfl ((LengthBit.low _ _ (by decide)).trans rfl)
theorem LengthBit.stl (d : BitVec 8) (a : BitVec 8) (l : BitVec 4) (s : BitVec 3) (o : BitVec 2) : LengthBit.Statement (.stl d a l s o) :=
  LengthBit.of_word rfl rfl ((LengthBit.low _ _ (by decide)).trans rfl)
theorem LengthBit.atomAdd (d : BitVec 8) (a : BitVec 8) (l : BitVec 4) (s : BitVec 2) : LengthBit.Statement (.atomAdd d a l s) :=
  LengthBit.of_word rfl rfl ((LengthBit.low _ _ (by decide)).trans rfl)
theorem LengthBit.atomAdd64 (d : BitVec 8) (a : BitVec 8) (l : BitVec 4) (s : BitVec 2) : LengthBit.Statement (.atomAdd64 d a l s) :=
  LengthBit.of_word rfl rfl ((LengthBit.low _ _ (by decide)).trans rfl)
theorem LengthBit.atomMin (d : BitVec 8) (a : BitVec 8) (l : BitVec 4) (s : BitVec 2) : LengthBit.Statement (.atomMin d a l s) :=
  LengthBit.of_word rfl rfl ((LengthBit.low _ _ (by decide)).trans rfl)
theorem LengthBit.atomMax (d : BitVec 8) (a : BitVec 8) (l : BitVec 4) (s : BitVec 2) : LengthBit.Statement (.atomMax d a l s) :=
  LengthBit.of_word rfl rfl ((LengthBit.low _ _ (by decide)).trans rfl)
theorem LengthBit.atomAnd (d : BitVec 8) (a : BitVec 8) (l : BitVec 4) (s : BitVec 2) : LengthBit.Statement (.atomAnd d a l s) :=
  LengthBit.of_word rfl rfl ((LengthBit.low _ _ (by decide)).trans rfl)
theorem LengthBit.atomOr (d : BitVec 8) (a : BitVec 8) (l : BitVec 4) (s : BitVec 2) : LengthBit.Statement (.atomOr d a l s) :=
  LengthBit.of_word rfl rfl ((LengthBit.low _ _ (by decide)).trans rfl)
theorem LengthBit.atomXchg (d : BitVec 8) (a : BitVec 8) (l : BitVec 4) (s : BitVec 2) : LengthBit.Statement (.atomXchg d a l s) :=
  LengthBit.of_word rfl rfl ((LengthBit.low _ _ (by decide)).trans rfl)
theorem LengthBit.atomCas (d : BitVec 8) (a : BitVec 8) (l : BitVec 4) (s : BitVec 2) : LengthBit.Statement (.atomCas d a l s) :=
  LengthBit.of_word rfl rfl ((LengthBit.low _ _ (by decide)).trans rfl)
theorem LengthBit.atomlAdd (d : BitVec 8) (a : BitVec 8) (l : BitVec 4) (s : Bool) : LengthBit.Statement (.atomlAdd d a l s) :=
  LengthBit.of_word rfl rfl ((LengthBit.low _ _ (by decide)).trans rfl)
theorem LengthBit.atomlFadd (d : BitVec 8) (a : BitVec 8) (l : BitVec 4) (s : Bool) : LengthBit.Statement (.atomlFadd d a l s) :=
  LengthBit.of_word rfl rfl ((LengthBit.low _ _ (by decide)).trans rfl)
theorem LengthBit.atomlMin (d : BitVec 8) (a : BitVec 8) (l : BitVec 4) (s : Bool) : LengthBit.Statement (.atomlMin d a l s) :=
  LengthBit.of_word rfl rfl ((LengthBit.low _ _ (by decide)).trans rfl)
theorem LengthBit.atomlMax (d : BitVec 8) (a : BitVec 8) (l : BitVec 4) (s : Bool) : LengthBit.Statement (.atomlMax d a l s) :=
  LengthBit.of_word rfl rfl ((LengthBit.low _ _ (by decide)).trans rfl)
theorem LengthBit.atomlXchg (d : BitVec 8) (a : BitVec 8) (l : BitVec 4) (s : Bool) : LengthBit.Statement (.atomlXchg d a l s) :=
  LengthBit.of_word rfl rfl ((LengthBit.low _ _ (by decide)).trans rfl)
theorem LengthBit.atomlCas (d : BitVec 8) (a : BitVec 8) (l : BitVec 4) (s : Bool) : LengthBit.Statement (.atomlCas d a l s) :=
  LengthBit.of_word rfl rfl ((LengthBit.low _ _ (by decide)).trans rfl)
theorem LengthBit.atomlFadd2 (d : BitVec 8) (a : BitVec 8) (l : BitVec 4) (s : Bool) : LengthBit.Statement (.atomlFadd2 d a l s) :=
  LengthBit.of_word rfl rfl ((LengthBit.low _ _ (by decide)).trans rfl)
theorem LengthBit.atomlOr (d : BitVec 8) (a : BitVec 8) (l : BitVec 4) (s : Bool) : LengthBit.Statement (.atomlOr d a l s) :=
  LengthBit.of_word rfl rfl ((LengthBit.low _ _ (by decide)).trans rfl)
theorem LengthBit.fence (s : BitVec 5) (b : BitVec 3) : LengthBit.Statement (.fence s b) :=
  LengthBit.of_word rfl rfl ((LengthBit.low _ _ (by decide)).trans rfl)
theorem LengthBit.nbInit (k : BitVec 4) (i : Bool) (n : BitVec 6) : LengthBit.Statement (.nbInit k i n) :=
  LengthBit.of_word rfl rfl ((LengthBit.low _ _ (by decide)).trans rfl)
theorem LengthBit.nbExpect (k : BitVec 4) (i : Bool) (a : BitVec 8) : LengthBit.Statement (.nbExpect k i a) :=
  LengthBit.of_word rfl rfl ((LengthBit.low _ _ (by decide)).trans rfl)
theorem LengthBit.nbArr (k : BitVec 4) (i : Bool) (d : BitVec 8) (g : Bool) : LengthBit.Statement (.nbArr k i d g) :=
  LengthBit.of_word rfl rfl ((LengthBit.low _ _ (by decide)).trans rfl)
theorem LengthBit.nbWait (k : BitVec 4) (i : Bool) (a : BitVec 8) : LengthBit.Statement (.nbWait k i a) :=
  LengthBit.of_word rfl rfl ((LengthBit.low _ _ (by decide)).trans rfl)
theorem LengthBit.nbArw (k : BitVec 4) (i : Bool) (g : Bool) : LengthBit.Statement (.nbArw k i g) :=
  LengthBit.of_word rfl rfl ((LengthBit.low _ _ (by decide)).trans rfl)
theorem LengthBit.nbTest (k : BitVec 4) (i : Bool) (a : BitVec 8) (e : BitVec 3) : LengthBit.Statement (.nbTest k i a e) :=
  LengthBit.of_word rfl rfl ((LengthBit.low _ _ (by decide)).trans rfl)
theorem LengthBit.cpyG2l (s : BitVec 5) (l : BitVec 8) (c : BitVec 8) : LengthBit.Statement (.cpyG2l s l c) :=
  LengthBit.of_word rfl rfl ((LengthBit.low _ _ (by decide)).trans rfl)
theorem LengthBit.cpyL2g (s : BitVec 5) (l : BitVec 8) (c : BitVec 8) : LengthBit.Statement (.cpyL2g s l c) :=
  LengthBit.of_word rfl rfl ((LengthBit.low _ _ (by decide)).trans rfl)
theorem LengthBit.cpyL2l (p : BitVec 8) (c : BitVec 8) : LengthBit.Statement (.cpyL2l p c) :=
  LengthBit.of_word rfl rfl ((LengthBit.low _ _ (by decide)).trans rfl)
theorem LengthBit.cpyG2g (p : BitVec 8) (c : BitVec 8) : LengthBit.Statement (.cpyG2g p c) :=
  LengthBit.of_word rfl rfl ((LengthBit.low _ _ (by decide)).trans rfl)
theorem LengthBit.cpyPfx (p : BitVec 8) (c : BitVec 8) : LengthBit.Statement (.cpyPfx p c) :=
  LengthBit.of_word rfl rfl ((LengthBit.low _ _ (by decide)).trans rfl)
theorem LengthBit.strm (p : BitVec 2) (d : BitVec 8) : LengthBit.Statement (.strm p d) :=
  LengthBit.of_word rfl rfl ((LengthBit.low _ _ (by decide)).trans rfl)
theorem LengthBit.strmOff (p : BitVec 2) : LengthBit.Statement (.strmOff p) :=
  LengthBit.of_word rfl rfl ((LengthBit.low _ _ (by decide)).trans rfl)
theorem LengthBit.mxIssue (a : BitVec 8) : LengthBit.Statement (.mxIssue a) :=
  LengthBit.of_word rfl rfl ((LengthBit.low _ _ (by decide)).trans rfl)
theorem LengthBit.mxIssueS (e : BitVec 2) : LengthBit.Statement (.mxIssueS e) :=
  LengthBit.of_word rfl rfl ((LengthBit.low _ _ (by decide)).trans rfl)
theorem LengthBit.mxZero (n : Bool) : LengthBit.Statement (.mxZero n) :=
  LengthBit.of_word rfl rfl ((LengthBit.low _ _ (by decide)).trans rfl)
theorem LengthBit.mxStore (q : BitVec 2) (p : BitVec 2) (n : Bool) (a : BitVec 8) : LengthBit.Statement (.mxStore q p n a) :=
  LengthBit.of_word rfl rfl ((LengthBit.low _ _ (by decide)).trans rfl)
theorem LengthBit.mxLoad (n : Bool) (a : BitVec 8) : LengthBit.Statement (.mxLoad n a) :=
  LengthBit.of_word rfl rfl ((LengthBit.low _ _ (by decide)).trans rfl)
theorem LengthBit.mxProg (d : BitVec 8) (w : Bool) : LengthBit.Statement (.mxProg d w) :=
  LengthBit.of_word rfl rfl ((LengthBit.low _ _ (by decide)).trans rfl)
theorem LengthBit.wjoin (d : BitVec 8) (a : BitVec 8) : LengthBit.Statement (.wjoin d a) :=
  LengthBit.of_word rfl rfl ((LengthBit.low _ _ (by decide)).trans rfl)
theorem LengthBit.wmap (w : BitVec 4) (d : BitVec 8) (a : BitVec 8) : LengthBit.Statement (.wmap w d a) :=
  LengthBit.of_word rfl rfl ((LengthBit.low _ _ (by decide)).trans rfl)
theorem LengthBit.wquery (d : BitVec 8) : LengthBit.Statement (.wquery d) :=
  LengthBit.of_word rfl rfl ((LengthBit.low _ _ (by decide)).trans rfl)
theorem LengthBit.rshPlan (d : BitVec 8) (a : BitVec 8) : LengthBit.Statement (.rshPlan d a) :=
  LengthBit.of_word rfl rfl ((LengthBit.low _ _ (by decide)).trans rfl)
theorem LengthBit.rshGo (a : BitVec 8) : LengthBit.Statement (.rshGo a) :=
  LengthBit.of_word rfl rfl ((LengthBit.low _ _ (by decide)).trans rfl)
theorem LengthBit.rshPoll (d : BitVec 8) (w : Bool) : LengthBit.Statement (.rshPoll d w) :=
  LengthBit.of_word rfl rfl ((LengthBit.low _ _ (by decide)).trans rfl)
theorem LengthBit.rshSave (a : BitVec 8) : LengthBit.Statement (.rshSave a) :=
  LengthBit.of_word rfl rfl ((LengthBit.low _ _ (by decide)).trans rfl)
theorem LengthBit.rshResume (a : BitVec 8) : LengthBit.Statement (.rshResume a) :=
  LengthBit.of_word rfl rfl ((LengthBit.low _ _ (by decide)).trans rfl)
theorem LengthBit.cka (n : BitVec 2) (m : Bool) (a : BitVec 8) : LengthBit.Statement (.cka n m a) :=
  LengthBit.of_word rfl rfl ((LengthBit.low _ _ (by decide)).trans rfl)
theorem LengthBit.ckx (s : BitVec 4) (n : BitVec 2) (m : Bool) (r : Bool) : LengthBit.Statement (.ckx s n m r) :=
  LengthBit.of_word rfl rfl ((LengthBit.low _ _ (by decide)).trans rfl)
theorem LengthBit.ckt (n : BitVec 2) (m : Bool) (a : BitVec 8) (b : BitVec 8) : LengthBit.Statement (.ckt n m a b) :=
  LengthBit.of_word rfl rfl ((LengthBit.low _ _ (by decide)).trans rfl)
theorem LengthBit.ckz (n : BitVec 2) : LengthBit.Statement (.ckz n) :=
  LengthBit.of_word rfl rfl ((LengthBit.low _ _ (by decide)).trans rfl)
theorem LengthBit.bra (c : BitVec 3) (s : Bool) (o : BitVec 21) : LengthBit.Statement (.bra c s o) :=
  LengthBit.of_word rfl rfl ((LengthBit.low _ _ (by decide)).trans rfl)
theorem LengthBit.call (c : BitVec 3) (s : Bool) (o : BitVec 21) : LengthBit.Statement (.call c s o) :=
  LengthBit.of_word rfl rfl ((LengthBit.low _ _ (by decide)).trans rfl)
theorem LengthBit.jmpi (p : BitVec 8) : LengthBit.Statement (.jmpi p) :=
  LengthBit.of_word rfl rfl ((LengthBit.low _ _ (by decide)).trans rfl)
theorem LengthBit.calli (p : BitVec 8) : LengthBit.Statement (.calli p) :=
  LengthBit.of_word rfl rfl ((LengthBit.low _ _ (by decide)).trans rfl)
theorem LengthBit.ret : LengthBit.Statement (.ret) :=
  LengthBit.of_word rfl rfl ((LengthBit.low _ _ (by decide)).trans rfl)
theorem LengthBit.exit : LengthBit.Statement (.exit) :=
  LengthBit.of_word rfl rfl ((LengthBit.low _ _ (by decide)).trans rfl)
theorem LengthBit.rcvSet (s : BitVec 4) (k : BitVec 3) : LengthBit.Statement (.rcvSet s k) :=
  LengthBit.of_word rfl rfl ((LengthBit.low _ _ (by decide)).trans rfl)
theorem LengthBit.rcvWait (k : BitVec 3) : LengthBit.Statement (.rcvWait k) :=
  LengthBit.of_word rfl rfl ((LengthBit.low _ _ (by decide)).trans rfl)
theorem LengthBit.yld (dl : BitVec 4) (n : BitVec 4) : LengthBit.Statement (.yld dl n) :=
  LengthBit.of_word rfl rfl ((LengthBit.low _ _ (by decide)).trans rfl)
theorem LengthBit.stage (s : BitVec 2) (k : BitVec 16) : LengthBit.Statement (.stage s k) :=
  LengthBit.of_word rfl rfl ((LengthBit.low _ _ (by decide)).trans rfl)
theorem LengthBit.chend : LengthBit.Statement (.chend) :=
  LengthBit.of_word rfl rfl ((LengthBit.low _ _ (by decide)).trans rfl)
theorem LengthBit.trap (i : BitVec 8) : LengthBit.Statement (.trap i) :=
  LengthBit.of_word rfl rfl ((LengthBit.low _ _ (by decide)).trans rfl)
theorem LengthBit.rtt : LengthBit.Statement (.rtt) :=
  LengthBit.of_word rfl rfl ((LengthBit.low _ _ (by decide)).trans rfl)
theorem LengthBit.elect (s : BitVec 4) (d : BitVec 3) : LengthBit.Statement (.elect s d) :=
  LengthBit.of_word rfl rfl ((LengthBit.low _ _ (by decide)).trans rfl)
theorem LengthBit.bop (d : BitVec 3) (a : BitVec 3) (b : BitVec 3) (o : BitVec 2) : LengthBit.Statement (.bop d a b o) :=
  LengthBit.of_word rfl rfl ((LengthBit.low _ _ (by decide)).trans rfl)
theorem LengthBit.brk : LengthBit.Statement (.brk) :=
  LengthBit.of_word rfl rfl ((LengthBit.low _ _ (by decide)).trans rfl)
theorem LengthBit.srd (d : BitVec 8) (i : BitVec 8) : LengthBit.Statement (.srd d i) :=
  LengthBit.of_word rfl rfl ((LengthBit.low _ _ (by decide)).trans rfl)
theorem LengthBit.swr (a : BitVec 8) (i : BitVec 8) : LengthBit.Statement (.swr a i) :=
  LengthBit.of_word rfl rfl ((LengthBit.low _ _ (by decide)).trans rfl)
theorem LengthBit.movs (a : BitVec 8) (s : BitVec 6) : LengthBit.Statement (.movs a s) :=
  LengthBit.of_word rfl rfl ((LengthBit.low _ _ (by decide)).trans rfl)
theorem LengthBit.smov (d : BitVec 8) (s : BitVec 6) : LengthBit.Statement (.smov d s) :=
  LengthBit.of_word rfl rfl ((LengthBit.low _ _ (by decide)).trans rfl)
theorem LengthBit.dqpush (g : BitVec 5) (a : BitVec 8) : LengthBit.Statement (.dqpush g a) :=
  LengthBit.of_word rfl rfl ((LengthBit.low _ _ (by decide)).trans rfl)
theorem LengthBit.dqpop (d : BitVec 8) : LengthBit.Statement (.dqpop d) :=
  LengthBit.of_word rfl rfl ((LengthBit.low _ _ (by decide)).trans rfl)
theorem LengthBit.ftwaitNb (a : BitVec 8) (k : BitVec 5) : LengthBit.Statement (.ftwaitNb a k) :=
  LengthBit.of_word rfl rfl ((LengthBit.low _ _ (by decide)).trans rfl)
theorem LengthBit.ftwaitDq (a : BitVec 8) (k : BitVec 5) : LengthBit.Statement (.ftwaitDq a k) :=
  LengthBit.of_word rfl rfl ((LengthBit.low _ _ (by decide)).trans rfl)
theorem LengthBit.ftwaitClk (a : BitVec 8) : LengthBit.Statement (.ftwaitClk a) :=
  LengthBit.of_word rfl rfl ((LengthBit.low _ _ (by decide)).trans rfl)
theorem LengthBit.ftlaunch (d : BitVec 8) (a : BitVec 8) : LengthBit.Statement (.ftlaunch d a) :=
  LengthBit.of_word rfl rfl ((LengthBit.low _ _ (by decide)).trans rfl)
theorem LengthBit.chseed (k : BitVec 3) (a : BitVec 8) : LengthBit.Statement (.chseed k a) :=
  LengthBit.of_word rfl rfl ((LengthBit.low _ _ (by decide)).trans rfl)
theorem LengthBit.tlbinvAll (a : BitVec 8) : LengthBit.Statement (.tlbinvAll a) :=
  LengthBit.of_word rfl rfl ((LengthBit.low _ _ (by decide)).trans rfl)
theorem LengthBit.tlbinvPage (a : BitVec 8) : LengthBit.Statement (.tlbinvPage a) :=
  LengthBit.of_word rfl rfl ((LengthBit.low _ _ (by decide)).trans rfl)
theorem LengthBit.killctx (d : BitVec 8) (a : BitVec 8) : LengthBit.Statement (.killctx d a) :=
  LengthBit.of_word rfl rfl ((LengthBit.low _ _ (by decide)).trans rfl)
theorem LengthBit.succGoto (t : BitVec 24) : LengthBit.Statement (.succGoto t) := LengthBit.of_succ rfl rfl
theorem LengthBit.succBr (c : BitVec 3) (sense : Bool) (t1 : BitVec 24) (t2 : BitVec 24) : LengthBit.Statement (.succBr c sense t1 t2) :=
  LengthBit.of_succ rfl rfl
theorem LengthBit.succSw (i : BitVec 8) (ts : List (BitVec 24)) : LengthBit.Statement (.succSw i ts) :=
  LengthBit.of_succ rfl rfl
theorem LengthBit.succCall (t : BitVec 24) (tr : BitVec 24) : LengthBit.Statement (.succCall t tr) :=
  LengthBit.of_succ rfl rfl
theorem LengthBit.faultRecordWake (ctx : Nat) (rec : Nat) : LengthBit.Statement (.faultRecordWake ctx rec) :=
  LengthBit.of_step rfl rfl
theorem LengthBit.trapEntry (team : Nat) (t : Nat) : LengthBit.Statement (.trapEntry team t) :=
  LengthBit.of_step rfl rfl
theorem LengthBit.chainSettle (team : Nat) (t : Nat) : LengthBit.Statement (.chainSettle team t) :=
  LengthBit.of_step rfl rfl
theorem LengthBit.streamPush (team : Nat) (who : Who) : LengthBit.Statement (.streamPush team who) :=
  LengthBit.of_step rfl rfl
theorem LengthBit.chainGroupCreate (team : Nat) : LengthBit.Statement (.chainGroupCreate team) :=
  LengthBit.of_step rfl rfl
theorem LengthBit.copyTransfer (team : Nat) (id : Nat) : LengthBit.Statement (.copyTransfer team id) :=
  LengthBit.of_step rfl rfl
theorem LengthBit.matrixCommandStart (team : Nat) : LengthBit.Statement (.matrixCommandStart team) :=
  LengthBit.of_step rfl rfl
theorem LengthBit.mxSlice (team : Nat) : LengthBit.Statement (.mxSlice team) := LengthBit.of_step rfl rfl
theorem LengthBit.mxStoreTransfer (team : Nat) : LengthBit.Statement (.mxStoreTransfer team) :=
  LengthBit.of_step rfl rfl
theorem LengthBit.mxLoadTransfer (team : Nat) : LengthBit.Statement (.mxLoadTransfer team) :=
  LengthBit.of_step rfl rfl
theorem LengthBit.rshStopAtBoundary (team : Nat) : LengthBit.Statement (.rshStopAtBoundary team) :=
  LengthBit.of_step rfl rfl
theorem LengthBit.rshRowPull (team : Nat) (answer : RemoteAnswer) : LengthBit.Statement (.rshRowPull team answer) :=
  LengthBit.of_step rfl rfl
theorem LengthBit.storeAcknowledgement (team : Nat) (k : Nat) : LengthBit.Statement (.storeAcknowledgement team k) :=
  LengthBit.of_step rfl rfl
theorem LengthBit.clockWaitExpiry (team : Nat) : LengthBit.Statement (.clockWaitExpiry team) :=
  LengthBit.of_step rfl rfl
theorem LengthBit.teamEnd (team : Nat) : LengthBit.Statement (.teamEnd team) := LengthBit.of_step rfl rfl
theorem LengthBit.contextSave (team : Nat) : LengthBit.Statement (.contextSave team) := LengthBit.of_step rfl rfl
theorem LengthBit.wizinTranslate (launch : Nat) : LengthBit.Statement (.wizinTranslate launch) :=
  LengthBit.of_step rfl rfl
theorem LengthBit.jobTeamCreate (launch : Nat) (core : Nat) : LengthBit.Statement (.jobTeamCreate launch core) :=
  LengthBit.of_step rfl rfl
theorem LengthBit.jobChunkTake (launch : Nat) (core : Nat) : LengthBit.Statement (.jobChunkTake launch core) :=
  LengthBit.of_step rfl rfl
theorem LengthBit.launchComplete (launch : Nat) : LengthBit.Statement (.launchComplete launch) :=
  LengthBit.of_step rfl rfl
theorem LengthBit.parityUpdateLand (core : Nat) : LengthBit.Statement (.parityUpdateLand core) :=
  LengthBit.of_step rfl rfl
theorem LengthBit.bankRetire (core : Nat) (bank : Nat) : LengthBit.Statement (.bankRetire core bank) :=
  LengthBit.of_step rfl rfl
theorem LengthBit.requestBudgetExpiry (id : Nat) : LengthBit.Statement (.requestBudgetExpiry id) :=
  LengthBit.of_step rfl rfl
theorem LengthBit.killComplete (ctx : Nat) : LengthBit.Statement (.killComplete ctx) := LengthBit.of_step rfl rfl
theorem LengthBit.faultRecordTake (ctx : Nat) : LengthBit.Statement (.faultRecordTake ctx) :=
  LengthBit.of_step rfl rfl
theorem LengthBit.collectiveDoorbell (q : Nat) (tail : BitVec 32) : LengthBit.Statement (.collectiveDoorbell q tail) :=
  LengthBit.of_step rfl rfl
theorem LengthBit.collectiveComplete (id : Nat) : LengthBit.Statement (.collectiveComplete id) :=
  LengthBit.of_step rfl rfl
theorem LengthBit.collectiveChunk (id : Nat) (peers : List PeerContribution) : LengthBit.Statement (.collectiveChunk id peers) :=
  LengthBit.of_step rfl rfl
theorem LengthBit.refreshManagementComplete (stack : Nat) (bank : Nat) : LengthBit.Statement (.refreshManagementComplete stack bank) :=
  LengthBit.of_step rfl rfl
theorem LengthBit.resetBoot (failed : Option (BitVec 3)) : LengthBit.Statement (.resetBoot failed) :=
  LengthBit.of_step rfl rfl
theorem LengthBit.ftwaitMx : LengthBit.Statement (.ftwaitMx) :=
  LengthBit.of_word rfl rfl ((LengthBit.low _ _ (by decide)).trans rfl)
theorem LengthBit.ftwaitRsh : LengthBit.Statement (.ftwaitRsh) :=
  LengthBit.of_word rfl rfl ((LengthBit.low _ _ (by decide)).trans rfl)
theorem LengthBit.icinv : LengthBit.Statement (.icinv) :=
  LengthBit.of_word rfl rfl ((LengthBit.low _ _ (by decide)).trans rfl)
theorem LengthBit.tlbinvHeap : LengthBit.Statement (.tlbinvHeap) :=
  LengthBit.of_word rfl rfl ((LengthBit.low _ _ (by decide)).trans rfl)
theorem LengthBit.wleave : LengthBit.Statement (.wleave) :=
  LengthBit.of_word rfl rfl ((LengthBit.low _ _ (by decide)).trans rfl)
theorem LengthBit.land : LengthBit.Statement (.land) :=
  LengthBit.of_word rfl rfl ((LengthBit.low _ _ (by decide)).trans rfl)
theorem LengthBit.succRet : LengthBit.Statement (.succRet) := LengthBit.of_succ rfl rfl
theorem LengthBit.succExit : LengthBit.Statement (.succExit) := LengthBit.of_succ rfl rfl
theorem LengthBit.succRtt : LengthBit.Statement (.succRtt) := LengthBit.of_succ rfl rfl
theorem LengthBit.loadResultReturn (team : Nat) (who : Who) : LengthBit.Statement (.loadResultReturn team who) :=
  LengthBit.of_step rfl rfl
theorem LengthBit.streamPop (team : Nat) (who : Who) (port : Bool) : LengthBit.Statement (.streamPop team who port) :=
  LengthBit.of_step rfl rfl
theorem LengthBit.watchdog (team : Nat) (t : Nat) : LengthBit.Statement (.watchdog team t) :=
  LengthBit.of_step rfl rfl
theorem LengthBit.launchDoorbell (q : Nat) (tail : BitVec 32) : LengthBit.Statement (.launchDoorbell q tail) :=
  LengthBit.of_step rfl rfl
theorem LengthBit.launchAdmission : LengthBit.Statement (.launchAdmission) := LengthBit.of_step rfl rfl
theorem LengthBit.teamPlacement : LengthBit.Statement (.teamPlacement) := LengthBit.of_step rfl rfl
theorem LengthBit.gangStaggerExpiry (launch : Nat) : LengthBit.Statement (.gangStaggerExpiry launch) :=
  LengthBit.of_step rfl rfl
theorem LengthBit.pathAgeing (team : Nat) (group : Nat) (pc : Word64) : LengthBit.Statement (.pathAgeing team group pc) :=
  LengthBit.of_step rfl rfl
theorem LengthBit.preemption : LengthBit.Statement (.preemption) := LengthBit.of_step rfl rfl
theorem LengthBit.remoteAnswer (id : Nat) (answer : RemoteAnswer) : LengthBit.Statement (.remoteAnswer id answer) :=
  LengthBit.of_step rfl rfl
theorem LengthBit.inboundRemoteRequest (req : InboundRequest) : LengthBit.Statement (.inboundRemoteRequest req) :=
  LengthBit.of_step rfl rfl
theorem LengthBit.linkPause (port : Nat) : LengthBit.Statement (.linkPause port) := LengthBit.of_step rfl rfl
theorem LengthBit.linkResume (port : Nat) : LengthBit.Statement (.linkResume port) := LengthBit.of_step rfl rfl
theorem LengthBit.portFailure (port : Nat) : LengthBit.Statement (.portFailure port) := LengthBit.of_step rfl rfl
theorem LengthBit.hostCopyDescriptor (d : HostDescriptor) : LengthBit.Statement (.hostCopyDescriptor d) :=
  LengthBit.of_step rfl rfl
theorem LengthBit.hostApertureAccess (a : HostAccess) : LengthBit.Statement (.hostApertureAccess a) :=
  LengthBit.of_step rfl rfl
theorem LengthBit.correctedError (stack : BitVec 3) (rho : BitVec 32) : LengthBit.Statement (.correctedError stack rho) :=
  LengthBit.of_step rfl rfl
theorem LengthBit.rowActivationAlert (stack : Nat) (bank : Nat) : LengthBit.Statement (.rowActivationAlert stack bank) :=
  LengthBit.of_step rfl rfl
theorem LengthBit.powerEstimate (watts : Nat) (ks : List (BitVec 3)) : LengthBit.Statement (.powerEstimate watts ks) :=
  LengthBit.of_step rfl rfl
theorem LengthBit.temperatureThrottle (die : Nat) (temp : BitVec 8) : LengthBit.Statement (.temperatureThrottle die temp) :=
  LengthBit.of_step rfl rfl
theorem LengthBit.thermalTrip (die : Nat) (temp : BitVec 8) : LengthBit.Statement (.thermalTrip die temp) :=
  LengthBit.of_step rfl rfl
theorem LengthBit.attestation : LengthBit.Statement (.attestation) := LengthBit.of_step rfl rfl
theorem LengthBit.lindenClear (v : BitVec 32) : LengthBit.Statement (.lindenClear v) := LengthBit.of_step rfl rfl
theorem LengthBit.spretire (v : BitVec 32) : LengthBit.Statement (.spretire v) := LengthBit.of_step rfl rfl
theorem LengthBit.route (v : BitVec 64) : LengthBit.Statement (.route v) := LengthBit.of_step rfl rfl
theorem LengthBit.ctxctl (x : BitVec 12) (v : BitVec 64) : LengthBit.Statement (.ctxctl x v) :=
  LengthBit.of_step rfl rfl
theorem LengthBit.translationStoreConfig (base : BitVec 64) (size : BitVec 64) : LengthBit.Statement (.translationStoreConfig base size) :=
  LengthBit.of_step rfl rfl
theorem LengthBit.managementRegisterWrite (off : BitVec 16) (v : BitVec 64) : LengthBit.Statement (.managementRegisterWrite off v) :=
  LengthBit.of_step rfl rfl
theorem LengthBit.hostLinkFailure (link : Bool) : LengthBit.Statement (.hostLinkFailure link) :=
  LengthBit.of_step rfl rfl
theorem LengthBit.linkRetransmission (port : Nat) : LengthBit.Statement (.linkRetransmission port) :=
  LengthBit.of_step rfl rfl
theorem LengthBit.temperatureThrottleEnd (die : Nat) (temp : BitVec 8) : LengthBit.Statement (.temperatureThrottleEnd die temp) :=
  LengthBit.of_step rfl rfl
theorem LengthBit.attestationComplete : LengthBit.Statement (.attestationComplete) := LengthBit.of_step rfl rfl

end Sys2Proof.Laws
end

