-- ==== Sys2Proof/Tests/Slice0.lean ====
section
/-!
SUPPORT. Tests: words written out from the encoding tables, terms that WellFormed refuses, states that meet the hypotheses of
every statement, and single steps whose results were worked out by hand from the rules.
-/

namespace Sys2Proof.Tests

section

set_option Elab.async false

open Sys2Proof Sys2Proof.Machine

/-! ### Small states -/

/-- The issue in progress in the states below: thread 0 of team 0. -/
def C : Issue := ⟨0, [0], false, 0x1234567, 4⟩

/-- A ready device with one team of sixteen threads in a privileged context, whose page holds the word given; thread 0
issues. -/
def codeAt (w : Nat) : State :=
  { State.reset.placed false false w with
    agenda := [], cur := some C, mgmt := { State.reset.mgmt with ready := true } }

/-- The page holds LAND. -/
def D : State := codeAt 0x27D

def onTeam (s : State) (f : Team → Team) : State := s.modTeam 0 f
def onThread (s : State) (f : Thread → Thread) : State := s.modThread 0 0 f
def onGroup (s : State) (f : Group → Group) : State := s.modTeam 0 (·.modGroup 0 f)
def onCtx (s : State) (f : Context → Context) : State := s.setCtx 1 (f (s.ctx 1))
def reg (s : State) (n : Nat) (v : Word) : State := onThread s (·.setReg n v)
def regs (s : State) (l : List (Nat × Word)) : State := l.foldl (fun s e => reg s e.1 e.2) s

def noTeam : Team := Team.create 0 ⟨0, placedRecord false, 0, 0, none, false, [], [], none, 0, none, false, false⟩ (0, 0) 0 0 0 0
  [] 0 0
def team (s : State) : Team := (s.team? 0).getD noTeam
def thread (s : State) : Thread := ((team s).thread? 0).getD (Thread.create 0 0)
def group (s : State) : Group := ((team s).group? 0).getD (Group.create noTeam false 0 0 none)

/-- Thread 0 of team 0 issues the instruction alone, and may name its registers. -/
def solo (s : State) (i : Instr) : Bool :=
  decide (s.cur = some C) && decide (s.team? 0 = some (team s)) &&
    decide ((team s).status = .resident ∨ (team s).status = .resting) && decide ((team s).dying = false) &&
    decide ((team s).thread? 0 = some (thread s)) && decide ((team s).group? 0 = some (group s)) &&
    decide ((thread s).ended = false) && decide ((thread s).count < (thread s).limit) && decide ((thread s).pend = []) &&
    regsOk (team s) ⟨0, .thread 0⟩ i && gOnly i

theorem groupIx_zero (T : Team) : T.groupIx 0 = 0 := Nat.zero_div _

theorem solo_sound {s : State} {i : Instr} (h : solo s i = true) : Solo s i C 0 (team s) (group s) (thread s) := by
  simp only [solo, Bool.and_eq_true, decide_eq_true_eq] at h
  obtain ⟨⟨⟨⟨⟨⟨⟨⟨⟨⟨a, b⟩, c⟩, d⟩, e⟩, f⟩, g⟩, k⟩, l⟩, m⟩, n⟩ := h
  exact ⟨⟨⟨a, ⟨rfl, rfl⟩, b, ⟨c, d⟩, e, by rw [groupIx_zero]; exact f, g, k⟩, l, m⟩, n⟩

/-- Some state meets `Solo` for the instruction together with a premise. -/
def Meets (i : Instr) (p : State → Issue → Nat → Team → Group → Thread → Prop) : Prop :=
  ∃ s c t T G h, Solo s i c t T G h ∧ p s c t T G h

theorem meets {i : Instr} {p : State → Issue → Nat → Team → Group → Thread → Prop} (s : State) (h : solo s i = true)
    (k : p s C 0 (team s) (group s) (thread s)) : Meets i p := ⟨s, C, 0, _, _, _, solo_sound h, k⟩

/-- The same where the premise can be decided. -/
theorem meetsD {i : Instr} {p : State → Issue → Nat → Team → Group → Thread → Prop} (s : State)
    [Decidable (p s C 0 (team s) (group s) (thread s))]
    (h : (solo s i && decide (p s C 0 (team s) (group s) (thread s))) = true) : Meets i p :=
  meets s ((Bool.and_eq_true _ _).mp h).1 (of_decide_eq_true ((Bool.and_eq_true _ _).mp h).2)

/-- Some state meets `Solo` for each of the instructions. -/
def MeetAll (is : List Instr) : Prop := ∀ i ∈ is, Meets i fun _ _ _ _ _ _ => True

theorem meetAll {is : List Instr} (s : State) (h : is.all (solo s) = true) : MeetAll is :=
  fun i hi => meets s (List.all_eq_true.mp h i hi) trivial

/-! The same for a front thread. -/

def CF : Issue := ⟨0, [], true, 0x1234567, 4⟩

/-- The same device whose team has a front thread, which issues. -/
def F : State :=
  { State.reset.placed false true 0x27D with
    agenda := [], cur := some CF, mgmt := { State.reset.mgmt with ready := true } }

def noFront : Front := ⟨0, [], 0, [], 0, [], none, none, [], true, true⟩
def front (s : State) : Front := (team s).front.getD noFront
def onFront (s : State) (f : Front → Front) : State := s.modFront 0 f
def freg (n : Nat) (v : Word64) (s : State) : State := onFront s (·.setReg n v)

def frontSolo (s : State) (i : Instr) : Bool :=
  decide (s.cur = some CF) && decide (s.team? 0 = some (team s)) &&
    decide ((team s).status = .resident ∨ (team s).status = .resting) && decide ((team s).dying = false) &&
    decide ((team s).front = some (front s)) && decide ((front s).ended = false) && decide ((front s).pend = []) &&
    regsOk (team s) ⟨0, .front⟩ i

theorem frontSolo_sound {s : State} {i : Instr} (h : frontSolo s i = true) : FrontSolo s i CF (team s) (front s) := by
  simp only [frontSolo, Bool.and_eq_true, decide_eq_true_eq] at h
  obtain ⟨⟨⟨⟨⟨⟨⟨a, b⟩, c⟩, d⟩, e⟩, f⟩, g⟩, k⟩ := h
  exact ⟨a, rfl, b, ⟨c, d⟩, e, f, g, k⟩

def MeetsFront (i : Instr) (p : State → Issue → Team → Front → Prop) : Prop :=
  ∃ s c T x, FrontSolo s i c T x ∧ p s c T x

theorem meetsFront {i : Instr} {p : State → Issue → Team → Front → Prop} (s : State) (h : frontSolo s i = true)
    (k : p s CF (team s) (front s)) : MeetsFront i p := ⟨s, CF, _, _, frontSolo_sound h, k⟩

/-! A team on its core, with nothing ending it. -/

theorem onCore {s : State} (h : (decide (s.team? 0 = some (team s)) && decide ((team s).status = .resident) &&
    decide ((team s).dying = false)) = true) : OnCore s 0 (team s) := by
  simp only [Bool.and_eq_true, decide_eq_true_eq] at h
  exact ⟨h.1.1, h.1.2, h.2⟩

/-! A core whose scratchpad words are all sound, and the result of a performance that succeeds. -/

def sound (s : State) (T : Team) : Bool :=
  let c := s.core T.core
  c.errs.isEmpty && c.perrs.isEmpty && c.toRetire.isEmpty && !c.fenced

theorem coreSound {s : State} {T : Team} (h : sound s T = true) : CoreSound s T := by
  simp only [sound, Bool.and_eq_true, List.isEmpty_iff, Bool.not_eq_true'] at h
  exact ⟨h.1.1.1, h.1.1.2, h.1.2, h.2⟩

theorem okAt {α : Type} (p : α × State → Bool) {m : M α} {s : State} (h : (match m s with
    | .ok r => p r
    | .error _ => false) = true) : ∃ a s', m s = .ok (a, s') ∧ p (a, s') = true := by
  split at h
  · next r e => exact ⟨r.1, r.2, e, h⟩
  · cases h

/-! ### Steps -/

/-- The next state of an instruction, in a form that can be asked for a value. -/
def after (i : Instr) (s : State) : Option State :=
  match exec i s with
  | .next s' => some s'
  | _ => none

/-- What the thread holds in a g register after the instruction. -/
def result (i : Instr) (s : State) (n : Nat) : Option Word := ((after i s).bind (·.thread? 0 0)).map (·.reg n)

/-- The cause that the thread's team or thread is left with: TCAUSE after the trap. -/
def field {α : Type} (i : Instr) (s : State) (f : Thread → α) : Option α := ((after i s).bind (·.thread? 0 0)).map f

/-! ### Decoding: the example words of the spec, as it prints them -/

theorem test_decodeCompact :
    decode16 0x3862 = some (.iaddCompact 3 7) ∧
    decode16 0xE07C = some (.iaddiCompact 3 0x1C) ∧
    decode16 0xE8BE = some (.movi 5 0x1D) ∧
    decode16 0x5122 = some (.iaddCompact 9 10) ∧
    decode16 0x0 = some (.movCompact 0 0) := by
  decide +kernel

theorem test_decodeInteger :
    decode32 0x3818181 = some (.iadd 3 3 7) ∧
    decode32 0x14018181 = some (.iadd 3 3 40) ∧
    decode32 0x1F402AD = some (.movkl 5 1000) ∧
    decode32 0x7FF602AD = some (.movkl 5 0xFFEC) ∧
    decode32 0xFFFF82AD = some (.movkh 5 0xFFFF) ∧
    decode32 0x6000121 = some (.tidx 2) ∧
    decode32 0x18101A5 = some (.andi 3 2 3) ∧
    decode32 0x101822B = some (.shli 4 3 2) ∧
    decode32 0x8102A3 = some (.iaddi 5 2 1) ∧
    decode32 0x302CB3 = some (.sel 1 true 5 6) ∧
    decode32 0x605041D = some (.iadd64 8 10 12 false) ∧
    decode32 0xC088AF = some (.icmp 1 2 false 2 3) ∧
    decode32 0x3FC098B1 = some (.icmpi 1 6 false 2 0xFF) ∧
    decode32 0x302D33 = some (.sel 2 true 5 6) := by
  decide +kernel

theorem test_decodeFloatingPoint :
    decode32 0x8201D1 = some (.cvt 3 4 1 0 0 false) ∧
    decode32 0x790201D1 = some (.cvt 3 4 2 3 3 false) ∧
    decode32 0x18253 = some (.cvif 4 3) ∧
    decode32 0x2018141 = some (.fadd 2 3 4 false) ∧
    decode32 0x82018141 = some (.fadd 2 3 4 true) ∧
    decode32 0x38302C7 = some (.ffma 5 6 7 false) ∧
    decode32 0xA8403CD = some (.fexp2 7 8 1) ∧
    decode32 0x810201D1 = some (.cvt 3 4 2 0 0 true) ∧
    decode32 0x2818355 = some (.dot4 6 3 5) := by
  decide +kernel

theorem test_decodeGroupOperations :
    decode32 0x8281B5 = some (.shflXor 0 5 1 false) ∧
    decode32 0x3028835 = some (.shflIdx 2 5 6 false) ∧
    decode32 0x810037 = some (.voteAny 0 2 1 false) ∧
    decode32 0x81828637 = some (.voteRadd 1 5 3 true) := by
  decide +kernel

theorem test_decodeControlFlow :
    decode32 0x107F9 = some (.bra 7 true 32) ∧
    decode32 0x4007D = some (.jmpi 8) ∧
    decode32 0x400FD = some (.calli 8) ∧
    decode32 0x17D = some .ret ∧
    decode32 0x1FD = some .exit ∧
    decode32 0x27D = some .land ∧
    decode32 0x20183FD = some (.yld 3 4) ∧
    decode32 0x8003FD = some (.yld 0 1) ∧
    decode32 0x8280017D = some (.trap 5) ∧
    decode32 0x858882FD = some (.bop 1 2 3 1) ∧
    decode32 0x8001847F = some (.chseed 1 3) := by
  decide +kernel

theorem test_decodeProbabilityPredicates :
    decode32 0x5040059 = some (.scmp 0 0 0 4 5) ∧
    decode32 0x215B = some (.pcombAnd 2 0 1 0) ∧
    decode32 0x209DB = some (.pcombNot 3 2) ∧
    decode32 0x302CDD = some (.blend 1 true 5 6) ∧
    decode32 0x8302CDD = some (.blendi 1 true 5 6) ∧
    decode32 0x10302CDD = some (.selq 1 true 5 6) ∧
    decode32 0x885F = some (.coll 2 1) ∧
    decode32 0x20CDF = some (.qset 3 4) ∧
    decode32 0x28D5F = some (.qget 3 5) ∧
    decode32 0x101DF = some (.qfromb 0 2) ∧
    decode32 0x3065F = some (.pgrad 1 0 6) ∧
    decode32 0x182DF = some (.qhard 0 3) := by
  decide +kernel

theorem test_decodeMemory :
    decode32 0x21020461 = some (.ld 8 4 2 4 0) ∧
    decode32 0x60020461 = some (.ld 8 4 0 4 1) ∧
    decode32 0x30020E61 = some (.ld 28 4 0 6 0) ∧
    decode32 0x28020461 = some (.ld 8 4 0 5 0) ∧
    decode32 0x60020463 = some (.st 8 4 0 4 1) ∧
    decode32 0x20020463 = some (.st 8 4 0 4 0) ∧
    decode32 0x60020465 = some (.ldl 8 4 0 4 1) ∧
    decode32 0x20020467 = some (.stl 8 4 0 4 0) := by
  decide +kernel

theorem test_decodeAtomicsAndFences :
    decode32 0x800402E9 = some (.atomAdd 5 8 0 2) ∧
    decode32 0xF8040369 = some (.atomCas 6 8 0 3) ∧
    decode32 0x201EB = some (.atomlAdd 3 4 0 false) ∧
    decode32 0x480202EB = some (.atomlFadd 5 4 0 true) ∧
    decode32 0x3906D = some (.fence 4 7) ∧
    decode32 0x1146D = some (.fence 5 2) := by
  decide +kernel

theorem test_decodeBarriersCopiesWings :
    decode32 0x10004ED = some (.nbInit 1 false 2) ∧
    decode32 0x2856D = some (.nbExpect 1 false 5) ∧
    decode32 0x289ED = some (.nbArr 2 false 5 false) ∧
    decode32 0x2866D = some (.nbWait 1 false 5) ∧
    decode32 0x800002ED = some (.nbArw 0 false true) ∧
    decode32 0x182876D = some (.nbTest 1 false 5 3) ∧
    decode32 0x403016F = some (.cpyL2l 6 8) ∧
    decode32 0x2820D73 = some (.wmap 3 4 5) := by
  decide +kernel

theorem test_decodeMatrixAndChecksums :
    decode32 0x20071 = some (.mxIssue 4) ∧
    decode32 0x80000471 = some (.mxIssueS 1) ∧
    decode32 0x40F1 = some (.mxZero true) ∧
    decode32 0x27D71 = some (.mxStore 3 3 true 4) ∧
    decode32 0x301F1 = some (.mxLoad false 6) ∧
    decode32 0x28271 = some (.mxProg 5 false) ∧
    decode32 0x29477 = some (.cka 1 true 5) ∧
    decode32 0x304F7 = some (.ckx 1 2 true false) ∧
    decode32 0x3830177 = some (.ckt 0 false 6 7) ∧
    decode32 0xDF7 = some (.ckz 3) := by
  decide +kernel

theorem test_decodeSystemAndReshards :
    decode32 0x802807F = some (.srd 5 0x10) ∧
    decode32 0x1402807F = some (.srd 5 0x28) ∧
    decode32 0x10300FF = some (.swr 6 2) ∧
    decode32 0x183817F = some (.movs 7 3) ∧
    decode32 0x1E0281FF = some (.smov 5 60) ∧
    decode32 0x1867F = some (.dqpush 1 3) ∧
    decode32 0x282FF = some (.dqpop 5) ∧
    decode32 0xB7F = some .ftwaitMx ∧
    decode32 0x28203FF = some (.ftlaunch 4 5) ∧
    decode32 0x800000FF = some .icinv ∧
    decode32 0x8004057F = some (.tlbinvPage 8) ∧
    decode32 0x830281FF = some (.killctx 5 6) ∧
    decode32 0x2028075 = some (.rshPlan 5 4) ∧
    decode32 0x200F5 = some (.rshGo 4) ∧
    decode32 0x28175 = some (.rshPoll 5 false) ∧
    decode32 0x201F5 = some (.rshSave 4) ∧
    decode32 0x20275 = some (.rshResume 4) := by
  decide +kernel

/-! ### Well-formedness: one ill-formed term for each check, beside the nearest one that passes -/

theorem test_wf_cvt : Instr.wf (.cvt 3 4 7 0 0 true) = false ∧ Instr.wf (.cvt 3 4 7 0 0 false) = true ∧ Instr.wf (.cvt 3 4 6 0 0 true) = true := by
  decide +kernel
theorem test_wf_ld : Instr.wf (.ld 3 4 0 7 0) = false ∧ Instr.wf (.ld 3 4 0 4 3) = false ∧ Instr.wf (.ld 3 4 0 6 2) = true := by
  decide +kernel
theorem test_wf_st : Instr.wf (.st 3 4 0 1 0) = false ∧ Instr.wf (.st 3 4 0 3 0) = false ∧ Instr.wf (.st 3 4 0 7 0) = false ∧
    Instr.wf (.st 3 4 0 4 3) = false ∧ Instr.wf (.st 3 4 0 6 2) = true := by decide +kernel
theorem test_wf_ldl : Instr.wf (.ldl 3 4 0 7 0) = false ∧ Instr.wf (.ldl 3 4 0 4 2) = false ∧ Instr.wf (.ldl 3 4 0 3 1) = true := by
  decide +kernel
theorem test_wf_stl : Instr.wf (.stl 3 4 0 3 0) = false ∧ Instr.wf (.stl 3 4 0 4 2) = false ∧ Instr.wf (.stl 3 4 0 2 1) = true := by
  decide +kernel
theorem test_wf_fence : Instr.wf (.fence 6 0) = false ∧ Instr.wf (.fence 5 0) = true := by decide +kernel
theorem test_wf_yld : Instr.wf (.yld 0 15) = false ∧ Instr.wf (.yld 0 14) = true := by decide +kernel
theorem test_wf_stage : Instr.wf (.stage 0 1) = false ∧ Instr.wf (.stage 0 2) = true := by decide +kernel
theorem test_wf_ftwaitNb : Instr.wf (.ftwaitNb 3 16) = false ∧ Instr.wf (.ftwaitNb 3 15) = true := by decide +kernel
theorem test_wf_succSw : Instr.wf (.succSw 3 []) = false ∧ Instr.wf (.succSw 3 [1]) = true := by decide +kernel

/-- The words of the ill-formed terms are refused: each trap ILLEGAL is the decoder's (R62). -/
theorem test_decodeRefuses :
    decode32 (1#1 ++ 0#2 ++ 0#2 ++ 7#4 ++ 4#8 ++ 3#8 ++ 0x28#6 ++ 1#1) = none ∧
    decode32 (0#2 ++ 7#3 ++ 0#4 ++ 4#8 ++ 3#8 ++ 0x30#6 ++ 1#1) = none ∧ decode32 (3#2 ++ 4#3 ++ 0#4 ++ 4#8 ++ 3#8 ++ 0x30#6 ++ 1#1) = none ∧
    decode32 (0#2 ++ 3#3 ++ 0#4 ++ 4#8 ++ 3#8 ++ 0x31#6 ++ 1#1) = none ∧ decode32 (2#2 ++ 4#3 ++ 0#4 ++ 4#8 ++ 3#8 ++ 0x32#6 ++ 1#1) = none ∧
    decode32 (2#2 ++ 4#3 ++ 0#4 ++ 4#8 ++ 3#8 ++ 0x33#6 ++ 1#1) = none ∧ decode32 (0#1 ++ 0#8 ++ 0#8 ++ 6#5 ++ 0#3 ++ 0x36#6 ++ 1#1) = none ∧
    decode32 (0x7D ||| 7 <<< 7 ||| 3 <<< 15 ||| 15 <<< 23) = none ∧ decode32 0x0080027D = none ∧
    decodeSucc [2, 5] = none ∧ decodeSucc [7] = none ∧ decodeSucc [0x502, 1] = none ∧
    decodeSucc [0x1F2, 0] = none := by decide +kernel

/-- R338's words: [3:0] the type, [31:8] or [15:8] the operand, and the targets in the words that follow. -/
theorem test_decodeSuccessors :
    decodeSucc [0x00000500] = some (.succGoto 5, []) ∧ decodeSucc [0x000005A1, 9] = some (.succBr 2 true 5 9, []) ∧
    decodeSucc [0x00020702, 3, 4, 0x00000004] = some (.succSw 7 [3, 4], [4]) ∧ decodeSucc [0x00000503, 6] = some (.succCall 5 6, []) ∧
    decodeSucc [4] = some (.succRet, []) ∧ decodeSucc [5] = some (.succExit, []) ∧ decodeSucc [6] = some (.succRtt, []) := by
  decide +kernel

/-- R5, R56: bytes, least significant first; a halfword with bit 0 set begins a word. -/
theorem test_decodeBytes :
    decode [0x62, 0x38] = .ok (.iaddCompact 3 7, 2) ∧ decode [0x81, 0x81, 0x81, 0x03] = .ok (.iadd 3 3 7, 4) ∧
    decodeTableWord 16 0x3862 = some (.iaddCompact 3 7) ∧ decodeTableWord 32 0x1FD = some .exit ∧
    decodeTableWord 32 4 = some .succRet ∧ decodeTableWord 32 0x500 = some (.succGoto 5) := by decide +kernel

/-! ### States that meet the hypotheses of the statements -/

def A : State := regs D [(3, 0x80000001), (4, 0xFFFFFFFE), (5, 33)]

theorem meets_IntegerBinary :
    MeetAll [.iadd 3 4 5, .isub 3 4 5, .imul 3 4 5 false, .and 3 4 5, .or 3 4 5, .xor 3 4 5, .andn 3 4 5, .imin 3 4 5 false,
      .imin 3 4 5 true, .imax 3 4 5 false, .imax 3 4 5 true, .iadd 219 219 219, .iadd 0 0 0] :=
  meetAll A (by decide +kernel)

/-- A state whose team runs a translation with errata 1 and 2 emulated. -/
def emulated : State :=
  let s := { State.reset.placed true false 0x27D with
    agenda := [], cur := some C, mgmt := { State.reset.mgmt with ready := true } }
  let s := { s with xlats := s.xlats.map fun e => (e.1, { e.2 with errata := [1, 2], segs := 3 }) }
  regs s [(3, 0x80000001), (4, 0x7FC00001), (5, 33)]

theorem meets_WideProductsAndShifts :
    MeetAll [.imul 3 4 5 true, .imulhs 3 4 5, .imad 3 4 5 false, .imad 6 4 5 true, .iadd64 6 4 8 false, .iadd64 6 4 8 true,
      .shli 3 4 31, .shri 3 4 0, .sari 3 4 31, .rotri 3 4 0, .rotri 3 4 31] ∧
    (∀ i ∈ [Instr.shl 3 4 5, .shr 3 4 5, .sar 3 4 5], Meets i (fun s _ _ T _ h => emulates s T h 1 = false) ∧
      Meets i fun s _ _ T _ h => emulates s T h 1 = true) :=
  ⟨meetAll A (by decide +kernel), fun i hi => by
    rcases List.mem_cons.mp hi with rfl | hi
    · exact ⟨meetsD A (by decide +kernel), meetsD emulated (by decide +kernel)⟩
    · rcases List.mem_cons.mp hi with rfl | hi
      · exact ⟨meetsD A (by decide +kernel), meetsD emulated (by decide +kernel)⟩
      · rcases List.mem_singleton.mp hi with rfl
        exact ⟨meetsD A (by decide +kernel), meetsD emulated (by decide +kernel)⟩⟩

theorem meets_ImmediateAndCompactForms :
    MeetAll [.movCompact 63 31, .iaddCompact 3 4, .isubCompact 3 4, .andCompact 3 4, .orCompact 3 4, .xorCompact 3 4,
      .shlCompact 3 4, .shrCompact 3 4, .sarCompact 3 4, .imulCompact 3 4, .iaddiCompact 3 16, .movi 3 16, .iaddi 3 4 256,
      .andi 3 4 256, .ori 3 4 255, .xori 3 4 511, .movkl 3 0xFFFF, .movkh 3 0xFFFF] :=
  meetAll A (by decide +kernel)

/-- The same state with its launch and team changed. -/
def onLaunch (s : State) (f : Launch → Launch) : State := { s with launches := SMap.modify 0 f s.launches }

def jobbed : State := onLaunch A fun L => { L with job := some ⟨0, 4, 0, 9, 0, []⟩ }

theorem meets_IntegerUnaryAndIdentity :
    MeetAll [.mov 3 4, .not 3 4, .neg 3 4, .iabs 3 4, .clz 3 4, .popc 3 4, .sexb 3 4, .sexh 3 4, .zexb 3 4, .zexh 3 4,
      .laneid 3, .tidx 3, .b2g 3 7, .g2b 7 3] ∧
    Meets (.brev 3 4) (fun _ _ _ _ _ h => ∀ j < 32, (0x7FFFFFFF : Word).getLsbD j = (h.val 4).getLsbD (31 - j)) ∧
    (∃ L, Meets (.teamix 3) fun s _ _ T _ _ => SMap.find? T.launch s.launches = some L ∧ L.job = none) ∧
    (∃ L, Meets (.teamix 3) fun s _ _ T _ _ => SMap.find? T.launch s.launches = some L ∧ L.job.isSome = true ∧ T.z = 0) ∧
    (∃ L, Meets (.clklo 3) fun s _ _ T _ _ => SMap.find? T.launch s.launches = some L ∧ L.t0 = some 0) ∧
    ∃ L, Meets (.clkhi 3) fun s _ _ T _ _ => SMap.find? T.launch s.launches = some L ∧ L.t0 = some 0 :=
  ⟨meetAll A (by decide +kernel), meetsD A (by decide +kernel),
    ⟨_, meets A (by decide +kernel) ⟨rfl, rfl⟩⟩, ⟨_, meets jobbed (by decide +kernel) ⟨rfl, rfl, rfl⟩⟩,
    ⟨_, meets A (by decide +kernel) ⟨rfl, rfl⟩⟩, ⟨_, meets A (by decide +kernel) ⟨rfl, rfl⟩⟩⟩

/-- The two conditions of R63 that A's g3 and g4 tell apart: signed, g3 is less; unsigned, it is not greater or equal. -/
theorem meets_CompareSelectPermute :
    Meets (.icmp 2 2 false 3 4) (fun _ _ _ _ _ h => true = true ↔ condHolds 2 (h.val 3) (h.val 4)) ∧
    Meets (.icmp 7 0 true 3 4) (fun _ _ _ _ _ h => false = true ↔ condHolds 0 (h.val 3) (h.val 4)) ∧
    Meets (.icmpi 2 1 false 3 255) (fun _ _ _ _ _ h =>
      true = true ↔ condHolds 1 (h.val 3) (BitVec.ofInt 32 (255 : BitVec 8).toInt)) ∧
    Meets (.icmpi 7 5 true 3 255) (fun _ _ _ _ _ h =>
      false = true ↔ condHolds 5 (h.val 3) (BitVec.ofInt 32 (255 : BitVec 8).toInt)) ∧
    MeetAll [.sel 7 true 3 4, .sel 0 true 3 4, .perm 3 4 5] :=
  ⟨meets A (by decide +kernel) (show _ ↔ ((thread A).val 3).toInt < ((thread A).val 4).toInt by decide +kernel),
    meets A (by decide +kernel) (show _ ↔ (thread A).val 3 = (thread A).val 4 by decide +kernel),
    meets A (by decide +kernel) (show _ ↔ (thread A).val 3 ≠ BitVec.ofInt 32 (255 : BitVec 8).toInt by decide +kernel),
    meets A (by decide +kernel)
      (show _ ↔ (BitVec.ofInt 32 (255 : BitVec 8).toInt).toInt ≤ ((thread A).val 3).toInt by decide +kernel),
    meetAll A (by decide +kernel)⟩

theorem meets_FloatArithmetic :
    MeetAll [.fadd 3 4 5 false, .fadd 3 4 5 true, .fsub 3 4 5 false, .fmul 3 4 5 true, .fmin 3 4 5 false, .fmax 3 4 5 true,
      .ffma 3 4 5 false, .faddCompact 3 4, .fsubCompact 3 4, .fmulCompact 3 4, .fmaxCompact 3 4, .fcmp 7 1 true 3 4] ∧
    Meets (.fadd 3 4 5 false) (fun _ _ _ _ G h => G.mode.legacyNan = false ∧ fp32.isNan (h.val 4).toNat = true) :=
  ⟨meetAll A (by decide +kernel), meetsD A (by decide +kernel)⟩

theorem meets_FloatFunctions :
    MeetAll [.fabs 3 4 0, .fneg 3 4 15, .frcp 3 4 1, .frsq 3 4 2, .fsqrt 3 4 3, .fexp2 3 4 4, .flog2 3 4 5, .fsin 3 4 6,
      .fcos 3 4 7, .ftanh 3 4 8, .ffloor 3 4 9, .fceil 3 4 10, .ftrunc 3 4 11, .frint 3 4 12, .fclass 3 4 13] ∧
    Meets (.fsat 3 4 14) (fun s _ _ T _ _ => (s.xlatOf T).any (fun x => x.errata.contains 2) = false) ∧
    Meets (.fsat 3 4 0) (fun s _ _ T G h => (s.xlatOf T).any (fun x => x.errata.contains 2) = true ∧
      fp32.isNan (h.val 4).toNat = true ∧ G.mode.legacyNan = false) :=
  ⟨meetAll A (by decide +kernel), meetsD A (by decide +kernel),
    meetsD emulated (by decide +kernel)⟩

/-- Both slots of NFMT hold P = 3; g4 holds 1e9, beyond every 8-bit and 16-bit range, and g5 holds 1. -/
def formats : State := regs (onGroup D fun G => { G with nfmt := 0x0303 }) [(4, 0x4E6E6B28), (5, 0x3F800000)]

/-- Both slots unsigned of precision 1, and 2^128 in g4. -/
def wideFormats : State := regs (onGroup D fun G => { G with nfmt := 0x1111 }) [(4, 192)]

def noFormats : State := onGroup A fun G => { G with nfmt := 0 }

theorem meets_Conversions :
    Meets (.cvt 3 5 2 1 2 false) (fun _ _ _ _ G h => (1 : BitVec 2) ≠ 3 ∧ vformat G.nfmt 2 = some (.bin8 (slotOf G.nfmt false)) ∧
      cvtResult G.mode (.bin8 (slotOf G.nfmt false)) (cvtRound G.mode (.bin8 (slotOf G.nfmt false)) 1 0) 2 (h.val 5) =
        .ok 0x40 false) ∧
    (∃ v b, Meets (.cvt 3 5 7 3 0 false) fun s _ _ T G h => s.cur.map (·.threads) = some [0] ∧ T.replay.getLsbD 0 = false ∧
      vformat G.nfmt 7 = some (.ieee fp32) ∧
      cvtResult G.mode (.ieee fp32) (cvtRound G.mode (.ieee fp32) 3 (T.rowan 0 h)) 0 (h.val 5) = .ok v b) ∧
    Meets (.cvt 3 4 4 1 3 false) (fun _ _ _ _ G h => (1 : BitVec 2) ≠ 3 ∧ vformat G.nfmt 4 = some (.int 8 true) ∧
      cvtResult G.mode (.int 8 true) (cvtRound G.mode (.int 8 true) 1 0) 3 (h.val 4) = .trap) ∧
    Meets (.cvt 3 4 2 1 0 false) (fun _ _ _ _ G _ => vformat G.nfmt 2 = none) ∧
    MeetAll [.cvif 3 4, .cvnf 3 4, .cvfi 3 4, .cvfn 3 4, .cvhf 3 4 true, .cvbf 3 4, .dot2 3 4 5] ∧
    Meets (.cv8af 3 4) (fun _ _ _ _ G h => (slotOf G.nfmt false).valid = true ∧
      ((slotOf G.nfmt false).value ((h.val 4).toNat % 2 ^ 8)).beyond32 = false) ∧
    Meets (.cv8bf 3 4) (fun _ _ _ _ G h => (slotOf G.nfmt true).valid = true ∧
      ((slotOf G.nfmt true).value ((h.val 4).toNat % 2 ^ 8)).beyond32 = false) ∧
    Meets (.cv8af 3 4) (fun _ _ _ _ G h => (slotOf G.nfmt false).valid = true ∧ 128 ≤ 128 ∧
      (slotOf G.nfmt false).value ((h.val 4).toNat % 2 ^ 8) = .fin false 1 128) ∧
    Meets (.cv8bf 3 4) (fun _ _ _ _ G h => (slotOf G.nfmt true).valid = true ∧ 128 ≤ 128 ∧
      (slotOf G.nfmt true).value ((h.val 4).toNat % 2 ^ 8) = .fin false 1 128) ∧
    Meets (.dot4 3 4 5) (fun _ _ _ _ G _ => (slotOf G.nfmt false).valid = true ∧ (slotOf G.nfmt true).valid = true) ∧
    Meets (.cv8af 3 4) (fun _ _ _ _ G _ => (slotOf G.nfmt false).valid = false) ∧
    Meets (.cv8bf 3 4) (fun _ _ _ _ G _ => (slotOf G.nfmt true).valid = false) :=
  ⟨meetsD formats (by decide +kernel), ⟨0x3F800000, false, meetsD formats (by decide +kernel)⟩,
    meetsD formats (by decide +kernel), meetsD noFormats (by decide +kernel),
    meetAll formats (by decide +kernel), meetsD formats (by decide +kernel),
    meetsD formats (by decide +kernel), meetsD wideFormats (by decide +kernel),
    meetsD wideFormats (by decide +kernel), meetsD formats (by decide +kernel),
    meetsD noFormats (by decide +kernel), meetsD noFormats (by decide +kernel)⟩

/-- q1 and q2 are probabilities of separate lineages, q3 shares q1's. -/
def beliefs : State := onThread A fun h =>
  ((h.putQ 1 (qMake 0x4000 1 false)).putQ 2 (qMake 0x2000 2 false)).putQ 3 (qMake 0x1000 1 false)

theorem meets_ProbabilityPredicates :
    MeetAll [.scmp 1 0 7 3 4, .scmp 1 3 0 3 4, .pcombNot 1 2, .qset 1 3, .qget 1 3, .qfromb 1 7, .pgrad 1 3 3, .pgrad 1 0 3,
      .qhard 1 7, .blend 1 true 3 4, .blendi 1 false 3 4] ∧
    (∀ m ∈ [0, 1, 2, 3], (∃ Q, Meets (.pcombAnd 5 1 2 m) fun _ _ _ _ _ h => combine andP (h.qval 1) (h.qval 2) m = some Q) ∧
      (∃ Q, Meets (.pcombOr 5 1 2 m) fun _ _ _ _ _ h => combine orP (h.qval 1) (h.qval 2) m = some Q) ∧
      ∃ Q, Meets (.pcombXor 5 1 2 m) fun _ _ _ _ _ h => combine xorP (h.qval 1) (h.qval 2) m = some Q) ∧
    Meets (.pcombAnd 5 1 3 3) (fun _ _ _ _ _ h => qLineage (h.qval 1) &&& qLineage (h.qval 3) ≠ 0) ∧
    Meets (.pcombOr 5 1 3 3) (fun _ _ _ _ _ h => qLineage (h.qval 1) &&& qLineage (h.qval 3) ≠ 0) ∧
    Meets (.pcombXor 5 1 3 3) (fun _ _ _ _ _ h => qLineage (h.qval 1) &&& qLineage (h.qval 3) ≠ 0) ∧
    Meets (.selq 1 true 3 4) (fun s _ _ T _ _ => s.cur.map (·.threads) = some [0] ∧ T.replay.getLsbD 0 = false) ∧
    Meets (.coll 1 7) (fun s _ _ T _ _ => s.cur.map (·.threads) = some [0] ∧ T.replay.getLsbD 0 = false) := by
  refine ⟨meetAll beliefs (by decide +kernel), fun m hm => ?_, meetsD beliefs (by decide +kernel),
    meetsD beliefs (by decide +kernel), meetsD beliefs (by decide +kernel),
    meetsD beliefs (by decide +kernel), meetsD beliefs (by decide +kernel)⟩
  have hs : ∀ m : BitVec 2, (solo beliefs (.pcombAnd 5 1 2 m) && solo beliefs (.pcombOr 5 1 2 m) &&
      solo beliefs (.pcombXor 5 1 2 m) && (combine andP ((thread beliefs).qval 1) ((thread beliefs).qval 2) m).isSome &&
      (combine orP ((thread beliefs).qval 1) ((thread beliefs).qval 2) m).isSome &&
      (combine xorP ((thread beliefs).qval 1) ((thread beliefs).qval 2) m).isSome) = true := by decide +kernel
  have h := hs m
  simp only [Bool.and_eq_true, Option.isSome_iff_exists] at h
  obtain ⟨⟨⟨⟨⟨a, b⟩, c⟩, ⟨x, hx⟩⟩, ⟨y, hy⟩⟩, ⟨z, hz⟩⟩ := h
  exact ⟨⟨x, meets beliefs a hx⟩, ⟨y, meets beliefs b hy⟩, ⟨z, meets beliefs c hz⟩⟩

theorem meets_Checksums :
    MeetAll [.cka 0 true 3, .cka 3 false 3, .ckz 0] ∧
    Meets (.ckt 0 true 3 4) (fun _ _ _ _ _ h => ckNear true (h.ckFor 0 true) (h.val 3) (h.val 4) = true) ∧
    Meets (.ckt 0 false 5 6) (fun _ _ _ _ _ h => ckNear false (h.ckFor 0 false) (h.val 5) (h.val 6) = false) ∧
    Meets (.ckt 0 true 3 6) (fun _ _ _ _ _ h => ckNear true (h.ckFor 0 true) (h.val 3) (h.val 6) = false) ∧
    Meets (.ckt 0 true 5 6) (fun _ _ _ _ _ h => 2 ^ 31 ≤ (((h.ckFor 0 true).extractLsb' 0 32) - h.val 5).toNat ∧
      (h.val 6).toNat < 2 ^ 32 - (((h.ckFor 0 true).extractLsb' 0 32) - h.val 5).toNat) :=
  ⟨meetAll A (by decide +kernel), meetsD A (by decide +kernel),
    meetsD A (by decide +kernel), meetsD A (by decide +kernel),
    meetsD A (by decide +kernel)⟩

theorem meets_Branches :
    Meets (.bra 7 true 0x1FFFFF) (fun _ _ _ _ _ h => h.b.getLsbD 7 = true) ∧
    Meets (.bra 0 true 0x100000) (fun _ _ _ _ _ h => h.b.getLsbD 0 ≠ true) ∧ MeetAll [.land] :=
  ⟨meetsD A (by decide +kernel), meetsD A (by decide +kernel), meetAll A (by decide +kernel)⟩

/-- A return stack of eight entries, of which some have gone to the scratchpad. -/
def deep (spill : Nat) : State := onThread D fun h => { h with rs := [8, 0, 0, 0, 0, 0, 0, 0], spill := spill }

def oddReturn : State := onThread D fun h => { h with rs := [1] }

def shallow : State := onThread D fun h => { h with rs := [8, 0] }

/-- A target register at the LAND, at an odd address, and where the page does not hold a LAND. -/
def atLand : State := regs D [(4, 0), (5, 0)]
def atOdd : State := regs D [(4, 1), (5, 0)]
def atOther : State := codeAt 0x00000005

theorem meets_CallsAndReturns :
    Meets (.call 7 true 8) (fun _ _ _ _ _ h => h.b.getLsbD 7 = true ∧ h.rs.length < 8 ∧ h.spill = 0) ∧
    Meets (.call 0 true 8) (fun _ _ _ _ _ h => h.b.getLsbD 0 ≠ true) ∧
    Meets (.call 7 true 8) (fun _ _ _ _ _ h => h.b.getLsbD 7 = true ∧ h.rs.length + h.spill = 16) ∧
    (∃ a s', Meets (.call 7 true 8) fun s c t T _ h => h.b.getLsbD 7 = true ∧ h.rs.length = 8 ∧ h.spill < 8 ∧
      (T.size : Int) - 64 * (t + 1) + 8 * h.spill = (a : Nat) ∧ a < T.size ∧
      s.rcPending c.team (T.origin (.thread t)) = false ∧
      storeLocal c.team ⟨c.team, a, false⟩ (leBytes 8 (h.rs.headD 0).toNat) s = .ok ((), s')) ∧
    (∃ n j s', Meets (.jmpi 4) fun s c _ _ _ h => (h.pair 4).getLsbD 0 = false ∧
      fetchAt c.team (h.pair 4) s = .ok ((0x0000027D, n, j), s')) ∧
    (∃ n j s', Meets (.calli 4) fun s c t _ _ h => (h.pair 4).getLsbD 0 = false ∧
      fetchAt c.team (h.pair 4) s = .ok ((0x0000027D, n, j), s') ∧ s'.thread? c.team t = some h ∧ h.rs.length < 8 ∧
      h.spill = 0) ∧
    Meets (.jmpi 4) (fun _ _ _ _ _ h => (h.pair 4).getLsbD 0 = true) ∧
    Meets (.calli 4) (fun _ _ _ _ _ h => (h.pair 4).getLsbD 0 = true) ∧
    (∃ w n j s', Meets (.jmpi 4) fun s c _ _ _ h => (h.pair 4).getLsbD 0 = false ∧
      fetchAt c.team (h.pair 4) s = .ok ((w, n, j), s') ∧ w ≠ 0x0000027D) ∧
    (∃ v s', Meets .ret fun s c t _ _ h => h.rs.getLast? = some v ∧ h.spill = 0 ∧ v.getLsbD 0 = false ∧
      checkCode c.team v (s.modThread c.team t fun h => { h with rs := h.rs.dropLast, spill := 0 }) = .ok ((), s')) ∧
    (∃ v a s', Meets .ret fun s c t T _ h => CoreSound s T ∧ h.rs.getLast? = some v ∧ 0 < h.spill ∧ v.getLsbD 0 = false ∧
      (T.size : Int) - 64 * (t + 1) + 8 * (h.spill - 1 : Nat) = (a : Nat) ∧ a < T.size ∧
      checkCode c.team v (s.modThread c.team t fun h =>
        { h with rs := BitVec.ofNat 64 (leNat (readBytes T.sp a 8)) :: h.rs.dropLast, spill := h.spill - 1 }) = .ok ((), s')) ∧
    Meets .ret (fun _ _ _ _ _ h => h.rs.getLast? = some 1 ∧ h.spill = 0 ∧ (1 : Word64).getLsbD 0 = true) ∧
    (∃ w n j s', Meets (.calli 4) fun s c _ _ _ h => (h.pair 4).getLsbD 0 = false ∧
      fetchAt c.team (h.pair 4) s = .ok ((w, n, j), s') ∧ w ≠ 0x0000027D) ∧
    Meets .ret (fun _ _ _ _ _ h => h.rs = [] ∧ h.spill = 0) := by
  have fetch {m : M (Word × Nat × Option Instr)} {s : State} {w : Word}
      (h : (match m s with
        | .ok ((v, _, _), _) => v == w
        | .error _ => false) = true) : ∃ n j s', m s = .ok ((w, n, j), s') := by
    split at h
    · next v n j s' e => exact ⟨n, j, s', by rw [e, eq_of_beq h]⟩
    · cases h
  obtain ⟨n, j, s1, e⟩ := fetch (m := fetchAt 0 ((thread atLand).pair 4)) (s := atLand) (w := 0x27D) (by decide +kernel)
  obtain ⟨n2, j2, s2, e2⟩ := fetch (m := fetchAt 0 ((thread atOther).pair 4)) (s := atOther) (w := 5) (by decide +kernel)
  refine ⟨meetsD D (by decide +kernel), meetsD D (by decide +kernel), meetsD (deep 8) (by decide +kernel),
    ⟨4096 - 64 + 56, _, meets (deep 7) (by decide +kernel)
      ⟨by decide +kernel, by decide +kernel, by decide +kernel, by decide +kernel, by decide +kernel, by decide +kernel,
        rfl⟩⟩,
    ⟨n, j, s1, meets atLand (by decide +kernel) ⟨by decide +kernel, e⟩⟩,
    ⟨n, j, s1, meets atLand (by decide +kernel) ⟨by decide +kernel, e, ?_, by decide +kernel, by decide +kernel⟩⟩,
    meetsD atOdd (by decide +kernel), meetsD atOdd (by decide +kernel),
    ⟨5, n2, j2, s2, meets atOther (by decide +kernel) ⟨by decide +kernel, e2, by decide +kernel⟩⟩, ?_, ?_,
    meetsD oddReturn (by decide +kernel),
    ⟨5, n2, j2, s2, meets atOther (by decide +kernel) ⟨by decide +kernel, e2, by decide +kernel⟩⟩,
    meetsD D (by decide +kernel)⟩
  · have h : (match fetchAt 0 ((thread atLand).pair 4) atLand with
      | .ok (_, s') => decide (s'.thread? 0 0 = some (thread atLand))
      | .error _ => false) = true := by decide +kernel
    rw [e] at h
    exact of_decide_eq_true h
  · obtain ⟨⟨⟩, s', e', -⟩ := okAt (fun _ => true) (m := checkCode 0 0)
      (s := shallow.modThread 0 0 fun h => { h with rs := h.rs.dropLast, spill := 0 }) (by decide +kernel)
    exact ⟨0, s', meets shallow (by decide +kernel) ⟨by decide +kernel, by decide +kernel, by decide +kernel, e'⟩⟩
  · obtain ⟨⟨⟩, s', e', -⟩ := okAt (fun _ => true) (m := checkCode 0 0)
      (s := (deep 2).modThread 0 0 fun h => { h with
        rs := BitVec.ofNat 64 (leNat (readBytes (team (deep 2)).sp 4040 8)) :: h.rs.dropLast, spill := h.spill - 1 })
      (by decide +kernel)
    exact ⟨0, 4040, s', meets (deep 2) (by decide +kernel) ⟨coreSound (by decide +kernel), by decide +kernel,
      by decide +kernel, by decide +kernel, by decide +kernel, by decide +kernel, e'⟩⟩

theorem meets_ExitsAndYield :
    Meets .exit (fun _ _ _ T _ h => T.chain = none ∧ h.remoteFail = none) ∧
    Meets .succExit (fun _ _ _ T _ h => T.chain = none ∧ h.remoteFail = none) ∧
    MeetsFront .exit (fun _ _ _ f => f.remoteFail = none) ∧
    ∃ L, Meets (.yld 15 14) fun s _ _ T G h => SMap.find? T.launch s.launches = some L ∧ (G.cancelled = false ∨ h.trap = none) :=
  ⟨meetsD D (by decide +kernel), meetsD D (by decide +kernel), meetsFront F (by decide +kernel) (by decide +kernel),
    ⟨_, meets D (by decide +kernel) ⟨rfl, .inl (by decide +kernel)⟩⟩⟩

theorem meets_BooleanOperations : MeetAll [.bop 0 7 7 0, .bop 7 1 2 1, .bop 6 1 1 2, .bop 6 1 1 3] :=
  meetAll D (by decide +kernel)

/-- A launch whose trap table sends every cause to offset 0x40, with no operand frames. -/
def handled (s : State) : State := onLaunch s fun L => { L with ttab := 0xFFFFFFFF :: List.replicate 31 0x40 }

theorem meets_SoftwareTraps :
    MeetAll [.trap 255, .brk] ∧ ∃ (s : State) (t : Nat) (T : Team) (G : Group) (h : Thread), s.team? C.team = some T ∧ T.thread? t = some h ∧
      T.group? (T.groupIx t) = some G ∧ h.pend = [] ∧ h.tcause.getLsbD 8 = false ∧ s.trapWord T 0 = 0xFFFFFFFF ∧
      s.trapWord T Cause.userTrap.toNat ≠ 0 :=
  ⟨meetAll D (by decide +kernel), handled D, 0, team (handled D), group (handled D), thread (handled D), by decide +kernel,
    by decide +kernel, by decide +kernel, by decide +kernel, by decide +kernel, by decide +kernel, by decide +kernel⟩

/-- A thread in a handler, whose saved address lies on the page, or is odd. -/
def inHandler : State := onThread D fun h => { h with pc := 0x10, tcause := 0x105, tpc := 0x20 }
def oddHandler : State := onThread D fun h => { h with pc := 0x300000010, tcause := 0x105, tpc := 0x21 }

theorem meets_TrapEntryAndReturn :
    (∀ cause ∈ [Cause.illegal, Cause.userTrap], ∃ (s : State) (c : Issue) (t : Nat) (T : Team) (G : Group) (h : Thread),
      s.team? c.team = some T ∧ T.thread? t = some h ∧ T.group? (T.groupIx t) = some G ∧ h.pend = [] ∧ cause ≠ Cause.reconstruction ∧ cause ≠ Cause.uncorrectable ∧
      Cause.never cause = false ∧ h.tcause.getLsbD 8 = false ∧ s.trapWord T 0 = 0xFFFFFFFF ∧
      s.trapWord T cause.toNat ≠ 0) ∧
    (∀ i ∈ [Instr.rtt, .succRtt], (∃ s', Meets i fun s c t _ _ h => h.tcause.getLsbD 8 = true ∧ h.tpc.getLsbD 0 = false ∧
        checkCode c.team (h.pc.extractLsb' 32 32 ++ h.tpc)
          (s.modThread c.team t fun h => { h with tcause := h.tcause &&& 0xFF }) = .ok ((), s')) ∧
      Meets i (fun _ _ _ _ _ h => h.tcause.getLsbD 8 = true ∧ h.tpc.getLsbD 0 = true) ∧
      Meets i fun _ _ _ _ _ h => h.tcause.getLsbD 8 = false) := by
  refine ⟨fun cause hc => ⟨handled D, C, 0, team (handled D), group (handled D), thread (handled D), by decide +kernel,
    by decide +kernel, by decide +kernel, by decide +kernel, ?_⟩, fun i hi => ?_⟩
  · rcases List.mem_cons.mp hc with rfl | hc
    · refine ⟨by decide, by decide, by decide, by decide +kernel, by decide +kernel, by decide +kernel⟩
    · rcases List.mem_singleton.mp hc with rfl
      refine ⟨by decide, by decide, by decide, by decide +kernel, by decide +kernel, by decide +kernel⟩
  · obtain ⟨⟨⟩, s', e, -⟩ := okAt (fun _ => true)
      (m := checkCode 0 ((thread inHandler).pc.extractLsb' 32 32 ++ (thread inHandler).tpc))
      (s := inHandler.modThread 0 0 fun h => { h with tcause := h.tcause &&& 0xFF }) (by decide +kernel)
    rcases List.mem_cons.mp hi with rfl | hi
    · exact ⟨⟨s', meets inHandler (by decide +kernel) ⟨by decide +kernel, by decide +kernel, e⟩⟩,
        meetsD oddHandler (by decide +kernel), meetsD D (by decide +kernel)⟩
    · rcases List.mem_singleton.mp hi with rfl
      exact ⟨⟨s', meets inHandler (by decide +kernel) ⟨by decide +kernel, by decide +kernel, e⟩⟩,
        meetsD oddHandler (by decide +kernel), meetsD D (by decide +kernel)⟩

/-! Premises on memory, in a form that can be decided. -/

theorem ownLocal {s : State} {T : Team} {x n : Nat} (h : (decide (x % n = 0 ∧ x + n ≤ T.size ∧ x < winBase) &&
    sound s T) = true) : OwnLocal s T x n :=
  let ⟨h, k⟩ := (Bool.and_eq_true _ _).mp h
  let ⟨a, b, c⟩ := of_decide_eq_true h
  ⟨a, b, c, coreSound k⟩

theorem heapAt {s : State} {ctx x n pa : Nat} (h : decide ((s.ctx ctx).heldHeap = [] ∧
    canonical x = true ∧ (s.ctx ctx).heap.hb.toNat ≤ x ∧
    x + n ≤ min ((s.ctx ctx).heap.hb.toNat + (s.ctx ctx).heap.hl.toNat) (2 ^ 64) ∧
    pa = (x + (s.ctx ctx).heap.ho.toNat) % 2 ^ 64 ∧ s.rangeOk pa n = true ∧ s.badMem = []) = true) : HeapAt s ctx x n pa :=
  let ⟨a, b, c, d, e, f, g⟩ := of_decide_eq_true h
  ⟨a, b, c, d, e, f, g⟩

theorem inHeap {s : State} {k : Nat} {T : Team} {x n pa : Nat} (h : (decide ((s.ctx T.ctx).heldHeap = [] ∧
    canonical x = true ∧ (s.ctx T.ctx).heap.hb.toNat ≤ x ∧
    x + n ≤ min ((s.ctx T.ctx).heap.hb.toNat + (s.ctx T.ctx).heap.hl.toNat) (2 ^ 64) ∧
    pa = (x + (s.ctx T.ctx).heap.ho.toNat) % 2 ^ 64 ∧ s.rangeOk pa n = true ∧ s.badMem = []) &&
    decide (s.storesPending k = false ∧ s.remotesPending k = false)) = true) : InHeap s k T x n pa :=
  let ⟨h, k⟩ := (Bool.and_eq_true _ _).mp h
  ⟨heapAt h, of_decide_eq_true k⟩

theorem blockAt {s : State} {T : Team} {x n al : Nat} (h : (decide (x % al = 0 ∧ x + n ≤ T.size ∧ x < winBase) &&
    sound s T) = true) : BlockAt s T x n al :=
  let ⟨h, k⟩ := (Bool.and_eq_true _ _).mp h
  let ⟨a, b, c⟩ := of_decide_eq_true h
  ⟨a, b, c, coreSound k⟩

/-- g8 holds a scratchpad address, g10 and g11 one in the heap, whose byte 0x40 is physical byte 0x30040; the scratchpad
and that memory hold bytes that differ. -/
def M : State :=
  let s := regs D [(4, 0xAABBCCDD), (5, 0x11223344), (8, 0x40), (10, 0x1000040), (11, 0)]
  let s := onTeam s fun T => { T with sp := writeBytes [] 0x40 [1, 0x82, 3, 4, 5, 6, 7, 8, 9, 10, 11, 12, 13, 14, 15, 16] }
  let s := onCtx s fun x => { x with heap := { x.heap with hb := 0x1000000, hl := 0x10000, ho := 0x30000 - 0x1000000 } }
  { s with mem := writeBytes s.mem 0x30040 [0xF1, 2, 3, 4, 5, 6, 7, 8] }

/-- The last 16 bytes of the scratchpad and of the heap window. -/
def lastBytes : State := regs M [(8, 4080), (10, 0x100FFF0)]

/-- Addresses that are misaligned, and that lie beyond the scratchpad. -/
def crooked : State := regs M [(8, 0x41), (10, 0x1000041)]
def beyond : State := regs M [(8, 4096)]

/-- A store of kind RC that the thread made before is not performed. -/
def rcStored : State := { M with stores := [⟨0, 0, 1, 1, 0x30000, [7], ⟨⟨.thread 0, none, none⟩, 0, 1, 0, 0, []⟩, false, false⟩] }

theorem meets_LocalMemory :
    (∀ s ∈ [M, lastBytes], ∀ z ∈ [(0 : BitVec 3), 4, 5, 6],
      ∃ T G h, Solo s (.ldl 4 8 3 z 0) C 0 T G h ∧ OwnLocal s T (h.val 8).toNat (sizeBytes z)) ∧
    (∀ s ∈ [M, lastBytes], ∀ z ∈ [(0 : BitVec 3), 4, 5, 6], ∀ o ∈ [(0 : BitVec 2), 1],
      ∃ T G h, Solo s (.stl 4 8 3 z o) C 0 T G h ∧ OwnLocal s T (h.val 8).toNat (sizeBytes z) ∧
        (o = 1 → T.revocable = false ∧ s.storesPending 0 = false ∧ s.remotesPending 0 = false) ∧
        s.rcPending 0 (T.origin (.thread 0)) = false) ∧
    (∃ T G h, Solo rcStored (.stl 4 8 3 4 0) C 0 T G h ∧ OwnLocal rcStored T (h.val 8).toNat 4 ∧
      rcStored.rcPending 0 (T.origin (.thread 0)) = true ∧ G.cancelled = false) ∧
    Meets (.ldl 4 8 0 2 0) (fun _ _ _ _ _ h => (h.val 8).toNat % sizeBytes 2 ≠ 0) ∧
    Meets (.stl 4 8 0 2 0) (fun _ _ _ _ _ h => (h.val 8).toNat % sizeBytes 2 ≠ 0) ∧
    Meets (.ldl 4 8 0 0 0) (fun _ _ _ T _ h => (h.val 8).toNat % sizeBytes 0 = 0 ∧ (h.val 8).toNat < winBase ∧
      T.size < (h.val 8).toNat + sizeBytes 0) ∧
    Meets (.stl 4 8 0 0 0) (fun _ _ _ T _ h => (h.val 8).toNat % sizeBytes 0 = 0 ∧ (h.val 8).toNat < winBase ∧
      T.size < (h.val 8).toNat + sizeBytes 0) := by
  refine ⟨fun s hs z hz => ⟨team s, group s, thread s, solo_sound ?_, ownLocal ?_⟩,
    fun s hs z hz o ho => ⟨team s, group s, thread s, solo_sound ?_, ownLocal ?_, fun _ => ?_, ?_⟩,
    ⟨team rcStored, group rcStored, thread rcStored, solo_sound (by decide +kernel), ownLocal (by decide +kernel),
      by decide +kernel, by decide +kernel⟩,
    meetsD crooked (by decide +kernel), meetsD crooked (by decide +kernel), meetsD beyond (by decide +kernel),
    meetsD beyond (by decide +kernel)⟩ <;> revert s <;> revert z <;> try revert o
  all_goals decide +kernel

theorem meets_LocalAtomics :
    (∀ i ∈ [Instr.atomlAdd 4 8 2 true, .atomlFadd 4 8 2 false, .atomlMin 4 8 0 true, .atomlMax 4 8 2 true, .atomlXchg 4 8 15 true,
        .atomlFadd2 4 8 2 true, .atomlOr 4 8 2 true],
      ∃ T G h, Solo M i C 0 T G h ∧ OwnLocal M T (h.val 8).toNat 4 ∧ T.revocable = false ∧ M.committing 0 = false) ∧
    (∃ s T G h, Solo s (.atomlCas 4 8 2 true) C 0 T G h ∧ OwnLocal s T (h.val 8).toNat 4 ∧ T.revocable = false ∧
      s.committing 0 = false ∧ (BitVec.ofNat 32 (leNat (readBytes T.sp (h.val 8).toNat 4)) : Word) = h.val 4) ∧
    ∃ s T G h, Solo s (.atomlCas 4 8 2 true) C 0 T G h ∧ OwnLocal s T (h.val 8).toNat 4 ∧ T.revocable = false ∧
      s.committing 0 = false ∧ (BitVec.ofNat 32 (leNat (readBytes T.sp (h.val 8).toNat 4)) : Word) ≠ h.val 4 := by
  refine ⟨fun i hi => ⟨team M, group M, thread M, solo_sound ?_, ownLocal (by decide +kernel), by decide +kernel,
      by decide +kernel⟩,
    ⟨reg M 4 0x04038201, team (reg M 4 0x04038201), group (reg M 4 0x04038201), thread (reg M 4 0x04038201),
      solo_sound (by decide +kernel), ownLocal (by decide +kernel), by decide +kernel, by decide +kernel, by decide +kernel⟩,
    ⟨M, team M, group M, thread M, solo_sound (by decide +kernel), ownLocal (by decide +kernel), by decide +kernel,
      by decide +kernel, by decide +kernel⟩⟩
  exact List.all_eq_true.mp (show List.all _ (solo M) = true by decide +kernel) i hi

/-- The team of M before its porch has committed. -/
def revocable (s : State) : State := onTeam s fun T => { T with revocable := true, porchSlot := some 0 }

theorem meets_GlobalMemory :
    (∀ i ∈ [Instr.ld 4 10 0 0 0, .ld 4 10 3 6 1, .st 4 10 3 6 0, .st 4 10 0 5 1],
      ∃ T G h, Solo M i C 0 T G h ∧ InHeap M 0 T (h.pair 10).toNat 16 0x30040 ∧ (h.pair 10).toNat % 16 = 0) ∧
    (∀ i ∈ [Instr.ld 4 10 3 6 1, .st 4 10 3 6 0, .st 4 10 0 6 1],
      ∃ T G h, Solo lastBytes i C 0 T G h ∧ InHeap lastBytes 0 T (h.pair 10).toNat 16 0x3FFF0 ∧
        (h.pair 10).toNat % 16 = 0) ∧
    (∃ T G h, Solo (revocable M) (.st 4 10 3 6 1) C 0 T G h ∧ InHeap (revocable M) 0 T (h.pair 10).toNat 16 0x30040) ∧
    Meets (.ld 4 10 0 2 1) (fun _ _ _ _ _ h => (h.pair 10).toNat % sizeBytes 2 ≠ 0) ∧
    Meets (.st 4 10 0 2 1) (fun _ _ _ _ _ h => (h.pair 10).toNat % sizeBytes 2 ≠ 0) := by
  refine ⟨fun i hi => ⟨team M, group M, thread M, solo_sound ?_, inHeap (by decide +kernel), by decide +kernel⟩,
    fun i hi => ⟨team lastBytes, group lastBytes, thread lastBytes, solo_sound ?_, inHeap (by decide +kernel),
      by decide +kernel⟩,
    ⟨team (revocable M), group (revocable M), thread (revocable M), solo_sound (by decide +kernel),
      inHeap (by decide +kernel)⟩, meetsD crooked (by decide +kernel), meetsD crooked (by decide +kernel)⟩
  · exact List.all_eq_true.mp (show List.all _ (solo M) = true by decide +kernel) i hi
  · exact List.all_eq_true.mp (show List.all _ (solo lastBytes) = true by decide +kernel) i hi

/-- Every entry of its porch slot is in use. -/
def fullPorch : State := onTeam (revocable M) fun T =>
  { T with porch := List.replicate 2048 ⟨0x30000, [1], ⟨⟨.thread 0, none, none⟩, 0, 1, 0, 0, []⟩, false⟩ }

theorem meets_GlobalAtomics :
    (∀ i ∈ [Instr.atomAdd 4 10 2 0, .atomMin 4 10 2 1, .atomMax 4 10 2 2, .atomAnd 4 10 2 3, .atomOr 4 10 15 0,
        .atomXchg 4 10 0 0, .atomAdd64 4 10 2 0, .atomCas 4 10 2 0],
      ∃ T G h, Solo M i C 0 T G h ∧ InHeap M 0 T (h.pair 10).toNat 8 0x30040 ∧ (h.pair 10).toNat % 8 = 0 ∧
        T.revocable = false ∧ (BitVec.ofNat 32 (leNat (M.teamBytes 0 0x30040 4)) : Word) ≠ h.val 4) ∧
    (∃ s T G h, Solo s (.atomCas 4 10 2 0) C 0 T G h ∧ InHeap s 0 T (h.pair 10).toNat 4 0x30040 ∧
      (h.pair 10).toNat % 4 = 0 ∧ T.revocable = false ∧
      (BitVec.ofNat 32 (leNat (s.teamBytes 0 0x30040 4)) : Word) = h.val 4) ∧
    (∀ i ∈ [Instr.atomAdd 4 10 2 0, .atomMin 4 10 2 0, .atomMax 4 10 2 0, .atomAnd 4 10 2 0, .atomOr 4 10 15 0,
        .atomXchg 4 10 0 0, .atomCas 4 10 2 0],
      ∃ T G h, Solo (revocable M) i C 0 T G h ∧ InHeap (revocable M) 0 T (h.pair 10).toNat 4 0x30040 ∧
        (h.pair 10).toNat % 4 = 0 ∧ T.revocable = true ∧ T.porch.length < 2048 ∧ G.cancelled = false) ∧
    (∃ T G h, Solo (revocable M) (.atomAdd64 4 10 2 0) C 0 T G h ∧ InHeap (revocable M) 0 T (h.pair 10).toNat 8 0x30040 ∧
      (h.pair 10).toNat % 8 = 0 ∧ T.revocable = true ∧ T.porch.length < 2048 ∧ G.cancelled = false) ∧
    (∃ T G h, Solo fullPorch (.atomOr 4 10 2 0) C 0 T G h ∧ InHeap fullPorch 0 T (h.pair 10).toNat 4 0x30040 ∧
      (h.pair 10).toNat % 4 = 0 ∧ T.revocable = true ∧ 2048 ≤ T.porch.length ∧ G.cancelled = false) ∧
    ∀ i ∈ [Instr.atomAdd 4 10 2 1, .atomMin 4 10 2 2, .atomMax 4 10 2 3, .atomAnd 4 10 2 1, .atomOr 4 10 15 1,
        .atomXchg 4 10 0 2, .atomCas 4 10 2 3, .atomAdd64 4 10 2 1],
      ∃ T G h, Solo (revocable M) i C 0 T G h ∧ InHeap (revocable M) 0 T (h.pair 10).toNat 8 0x30040 ∧
        (h.pair 10).toNat % 8 = 0 ∧ T.revocable = true ∧ G.cancelled = false := by
  refine ⟨fun i hi => ⟨team M, group M, thread M, solo_sound ?_, inHeap (by decide +kernel), by decide +kernel,
    by decide +kernel, by decide +kernel⟩, ⟨reg M 4 0x040302F1, team (reg M 4 0x040302F1), group (reg M 4 0x040302F1),
    thread (reg M 4 0x040302F1), solo_sound (by decide +kernel), inHeap (by decide +kernel), by decide +kernel,
    by decide +kernel, by decide +kernel⟩, fun i hi => ⟨team (revocable M), group (revocable M), thread (revocable M),
    solo_sound ?_, inHeap (by decide +kernel), by decide +kernel, by decide +kernel, by decide +kernel, by decide +kernel⟩,
    ⟨_, _, _, solo_sound (by decide +kernel), inHeap (by decide +kernel), by decide +kernel, by decide +kernel,
      by decide +kernel, by decide +kernel⟩,
    ⟨_, _, _, solo_sound (by decide +kernel), inHeap (by decide +kernel), by decide +kernel, by decide +kernel,
      List.length_replicate.symm.le, by decide +kernel⟩,
    fun i hi => ⟨_, _, _, solo_sound ?_, inHeap (by decide +kernel), by decide +kernel, by decide +kernel,
      by decide +kernel⟩⟩
  · exact List.all_eq_true.mp (show List.all _ (solo M) = true by decide +kernel) i hi
  · exact List.all_eq_true.mp (show List.all _ (solo (revocable M)) = true by decide +kernel) i hi
  · exact List.all_eq_true.mp (show List.all _ (solo (revocable M)) = true by decide +kernel) i hi

/-- A remote store has failed since the last fence, with and without a frame that waits for its return. -/
def failedStore (v : Word) : State := onThread M fun h => { h with remoteFail := some 0x77, tcause := v }

theorem meets_Fences :
    MeetAll [.fence 0 7, .fence 2 0] ∧
    Meets (.fence 3 1) (fun s c _ T _ _ => T.revocable = false ∧ s.storesPending c.team = false ∧
      s.remotesPending c.team = false) ∧
    Meets (.fence 5 1) (fun s c _ T _ h => T.revocable = false ∧ s.storesPending c.team = false ∧
      s.remotesPending c.team = false ∧ h.remoteFail = none) ∧
    Meets (.fence 5 1) (fun s c _ T _ h => T.revocable = false ∧ s.storesPending c.team = false ∧
      s.remotesPending c.team = false ∧ h.remoteFail = some 0x77 ∧ h.tcause.getLsbD 8 = false) ∧
    Meets (.fence 5 1) (fun s c _ T _ h => T.revocable = false ∧ s.storesPending c.team = false ∧
      s.remotesPending c.team = false ∧ h.remoteFail = some 0x77 ∧ h.tcause.getLsbD 8 = true) :=
  ⟨meetAll M (by decide +kernel), meetsD M (by decide +kernel), meetsD M (by decide +kernel),
    meetsD (failedStore 0) (by decide +kernel), meetsD (failedStore 0x104) (by decide +kernel)⟩

/-! Barriers, copies, streams and wings. -/

def withNb (s : State) (n : Nat) (f : Barrier → Barrier) : State := onTeam s fun T => T.setNb n (f (T.nb n))

/-- g8 names phase 0 and g4 a hundred bytes; barrier 3 expects two arrivals. -/
def N : State := withNb (regs D [(8, 0), (4, 100)]) 3 fun b => { b with expected := 2 }

/-- s3 names barrier 15. -/
def named15 : State := onGroup N fun G => G.setSreg 3 15

/-- Thread 5 has marked barrier 3, and its phase is 1. -/
def marked : State := withNb N 3 fun b => { b with phase := true, marks := [(0, 5)] }

def broken (n : Nat) : State := withNb N n fun b => { b with broken := true, badAddr := 0x99 }

/-- A thread that was let go from barrier 3. -/
def letGone : State := onThread N fun h => { h with wait := some (.broken 0x99) }

theorem meets_NamedBarriers :
    Meets (.nbInit 15 false 63) (fun _ _ _ T G _ => namesNb G 15 false 15 ∧ T.anyWaits 15 = false ∧ (T.nb 15).engines = 0) ∧
    Meets (.nbInit 3 true 0) (fun _ _ _ T G _ => namesNb G 3 true 15 ∧ T.anyWaits 15 = false ∧ (T.nb 15).engines = 0) ∧
    Meets (.nbExpect 3 false 4) (fun _ _ _ T G h => namesNb G 3 false 3 ∧ (T.nb 3).broken = false ∧
      (T.nb 3).bytes + (h.val 4).toNat < 2 ^ 24) ∧
    Meets (.nbArr 3 false 9 false) (fun _ _ _ T G _ => namesNb G 3 false 3 ∧ (T.nb 3).broken = false ∧
      (T.nb 3).pending ≠ (T.nb 3).expected ∧ (3 = 0 → G.beat = none)) ∧
    Meets (.nbArr 3 false 9 true) (fun _ _ t T G _ => namesNb G 3 false 3 ∧ (T.nb 3).broken = false ∧
      (3 = 0 → G.beat = none) ∧ (T.groupIx t, t) ∉ (T.nb 3).marks ∧
      (T.setNb 3 { T.nb 3 with marks := (T.nb 3).marks ++ [(T.groupIx t, t)] }).marksComplete 3 (T.groupIx t) = false) ∧
    Meets (.nbWait 3 false 8) (fun _ _ _ T G h => namesNb G 3 false 3 ∧ notLetGo h.wait = true ∧ (T.nb 3).broken = false ∧
      (T.nb 3).phase ≠ (h.val 8).getLsbD 0) ∧
    Meets (.nbWait 3 false 8) (fun _ _ _ T G h => namesNb G 3 false 3 ∧ notLetGo h.wait = true ∧ (T.nb 3).broken = false ∧
      (T.nb 3).phase = (h.val 8).getLsbD 0 ∧ G.cancelled = false) ∧
    Meets (.nbTest 3 false 8 7) (fun _ _ _ T G _ => namesNb G 3 false 3 ∧ (T.nb 3).broken = false) ∧
    Meets (.nbArw 3 false false) (fun _ _ _ T G h => namesNb G 3 false 3 ∧ notLetGo h.wait = true ∧ (T.nb 3).broken = false ∧
      (T.nb 3).pending ≠ (T.nb 3).expected ∧ (3 = 0 → G.beat = none) ∧ G.cancelled = false) ∧
    Meets (.nbArw 3 false false) (fun _ _ _ T G h => namesNb G 3 false 3 ∧ notLetGo h.wait = true ∧ (T.nb 3).broken = false ∧
      (T.nb 3).pending + 1 = (T.nb 3).expected ∧ (T.nb 3).bytes = 0 ∧ (T.nb 3).engines = 0 ∧ (3 = 0 → G.beat = none) ∧
      G.cancelled = false) ∧
    (∀ n : BitVec 4, ∀ i ∈ [Instr.nbExpect n false 4, .nbArr n false 9 false, .nbArr n false 9 true, .nbWait n false 8,
      .nbTest n false 8 2, .nbArw n false false, .nbArw n false true],
      Meets i fun _ _ _ T G h => namesNb G n false n.toNat ∧ notLetGo h.wait = true ∧ (T.nb n.toNat).broken = true) ∧
    (∀ i ∈ [Instr.nbWait 3 false 8, .nbArw 3 false false, .nbArw 3 false true],
      Meets i fun _ _ _ _ G h => namesNb G 3 false 3 ∧ h.wait = some (.broken 0x99)) := by
  refine ⟨meets N (by decide +kernel) ⟨⟨rfl, by decide⟩, by decide +kernel, by decide +kernel⟩,
    meets named15 (by decide +kernel) ⟨⟨by decide +kernel, by decide⟩, by decide +kernel, by decide +kernel⟩,
    meets N (by decide +kernel) ⟨⟨rfl, by decide⟩, by decide +kernel, by decide +kernel⟩,
    meets N (by decide +kernel) ⟨⟨rfl, by decide⟩, by decide +kernel, by decide +kernel, nofun⟩,
    meets marked (by decide +kernel) ⟨⟨rfl, by decide⟩, by decide +kernel, nofun, by decide +kernel, by decide +kernel⟩,
    meets marked (by decide +kernel) ⟨⟨rfl, by decide⟩, by decide +kernel, by decide +kernel, by decide +kernel⟩,
    meets N (by decide +kernel) ⟨⟨rfl, by decide⟩, by decide +kernel, by decide +kernel, by decide +kernel, by decide +kernel⟩,
    meets N (by decide +kernel) ⟨⟨rfl, by decide⟩, by decide +kernel⟩,
    meets N (by decide +kernel) ⟨⟨rfl, by decide⟩, by decide +kernel, by decide +kernel, by decide +kernel, nofun, by decide +kernel⟩,
    meets (withNb N 3 fun b => { b with pending := 1 }) (by decide +kernel)
      ⟨⟨rfl, by decide⟩, by decide +kernel, by decide +kernel, by decide +kernel, by decide +kernel, by decide +kernel, nofun, by decide +kernel⟩,
    fun n i hi => meets (broken n.toNat) ?_ ⟨⟨rfl, Nat.le_of_lt_succ n.isLt⟩, ?_, ?_⟩,
    fun i hi => meets letGone (List.all_eq_true.mp (show List.all _ (solo letGone) = true by decide +kernel) i hi)
      ⟨⟨rfl, by decide⟩, by decide +kernel⟩⟩
  · exact List.all_eq_true.mp (show List.all _ (solo (broken n.toNat)) = true by clear hi; revert n; decide +kernel) i hi
  · clear hi; revert n; decide +kernel
  · clear hi; revert n; decide +kernel

/-- Control words of a copy of n bytes with barrier 3. -/
def control (n : Nat) : Word := BitVec.ofNat 32 (n + 3 * 2 ^ 18 + 2 ^ 22)

def copying : State := regs D [(4, 0x100), (5, 0x40), (6, 0x1000), (7, 1), (8, control 32)]

/-- A tensor box of rank 2, of 32-bit elements, four by three, and its coordinates in s5 and s6. -/
def boxBytes : List Byte :=
  leBytes 8 0x5000 ++ [2, 2, 0, 0, 0, 0, 0, 0] ++ leBytes 4 10 ++ leBytes 4 10 ++ leBytes 4 0 ++ leBytes 4 0 ++ leBytes 4 0 ++
    [4, 3, 0, 0] ++ leBytes 4 0 ++ leBytes 4 4 ++ List.replicate 16 0
def boxing : State :=
  onGroup (reg (onTeam copying fun T => { T with sp := writeBytes [] 0x80 boxBytes }) 8 (control 0x80)) fun G =>
    (G.setSreg 5 2).setSreg 6 0xFFFFFFFF

theorem meets_CopyStarts :
    Meets (.cpyL2l 4 8) (fun s c _ T _ h => let ctl := h.val 8
      ctl.extractLsb' 23 9 = 0 ∧ (ctl.extractLsb' 0 18).toNat = 32 ∧ ctl.getLsbD 22 = true ∧
        Resolves s c.team (h.reg 5) 32 ⟨0, 0x40, false⟩ 0 ∧ Resolves s c.team (h.reg 4) 32 ⟨0, 0x100, false⟩ 0 ∧
        mayEnlist T (some (ctl.extractLsb' 18 4).toNat)) ∧
    Meets (.cpyG2g 4 8) (fun _ _ _ T _ h => let ctl := h.val 8
      ctl.extractLsb' 23 9 = 0 ∧ (ctl.extractLsb' 0 18).toNat = 32 ∧ mayEnlist T (some (ctl.extractLsb' 18 4).toNat)) ∧
    (∀ i ∈ [Instr.cpyG2l 5 5 8, .cpyL2g 5 5 8], Meets i fun s c _ T _ h => let ctl := h.val 8
      ctl.extractLsb' 23 9 = 0 ∧ (ctl.extractLsb' 0 18).toNat = 0x80 ∧ 0x80 + 64 ≤ T.size ∧
        sound s T = true ∧ boxValid (readBytes T.sp 0x80 64) = true ∧
        (Box.of (readBytes T.sp 0x80 64)).swizzle = false ∧ 5 + fieldN (readBytes T.sp 0x80 64) 8 1 ≤ 64 ∧
        Resolves s c.team (h.val 5) (Box.of (readBytes T.sp 0x80 64)).bytes ⟨0, 0x40, false⟩ 0) ∧
    Meets (.cpyPfx 4 8) (fun _ _ _ _ _ h => (h.val 8).extractLsb' 27 5 = 0) ∧
    (∀ i ∈ [Instr.cpyL2l 4 8, .cpyG2g 4 8], Meets i fun _ _ _ _ _ h =>
      ((h.val 8).extractLsb' 0 18).toNat % 16 ≠ 0) := by
  refine ⟨meets copying (by decide +kernel) ⟨by decide +kernel, by decide +kernel, by decide +kernel,
      ⟨rfl, _, rfl, rfl⟩, ⟨rfl, _, rfl, rfl⟩, ?_⟩,
    meets copying (by decide +kernel) ⟨by decide +kernel, by decide +kernel, ?_⟩,
    fun i hi => meets boxing ?_ ⟨by decide +kernel, by decide +kernel, by decide +kernel, by decide +kernel,
      by decide +kernel, by decide +kernel, by decide +kernel, ⟨rfl, _, rfl, rfl⟩⟩,
    meetsD copying (by decide +kernel), fun i hi => meets (reg copying 8 1) ?_ (by decide +kernel)⟩
  · rintro k ⟨⟩; decide +kernel
  · rintro k ⟨⟩; decide +kernel
  · exact List.all_eq_true.mp (show List.all _ (solo boxing) = true by decide +kernel) i hi
  · exact List.all_eq_true.mp (show List.all _ (solo (reg copying 8 1)) = true by decide +kernel) i hi

/-- A ring of eight elements at 0x200, with its control at 0x1F0, described at 0x300. -/
def ringBytes : List Byte := leBytes 4 0x200 ++ leBytes 4 0x1F0 ++ [8, 0, 2, 0, 0, 0, 0, 0]
def ringing : State := reg (onTeam D fun T => { T with sp := writeBytes [] 0x300 ringBytes }) 8 0x300

/-- The same with another count of elements and another place of element 0, and window 0 mapped to the team itself. -/
def withRing (n base : Nat) : State := onTeam ringing fun T =>
  { T with windows := [(0, .mapped 0)],
           sp := writeBytes T.sp 0x300 (leBytes 4 base ++ leBytes 4 (if base < 0x1000000 then 0x1F0 else base + 0x100) ++ [BitVec.ofNat 8 n, 0, 2, 0, 0, 0, 0, 0]) }

/-- g8 names wing 5, alone, with the team in it as member 0, and with sixteen other members. -/
def lone : State := reg D 8 5
def winged : State := onTeam lone fun T => { T with wing := some (5, 0) }
def fullWing : State :=
  { lone with teams := lone.teams ++ (List.range 16).map fun m => (m + 1, { team lone with wing := some (5, m) }) }

/-- The engine operation number 7 of thread 0. -/
def op7 : Origin := ⟨.thread 0, none, some 7⟩

/-- A local copy of `n` bytes from `a` to `b` of which some have landed, with barrier 3. -/
def aCopy (a b n done : Nat) (sleep : Option Asleep) : Copy :=
  { kind := .l2l, origin := op7, desc := [], coord := [], src := BitVec.ofNat 64 a, dst := BitVec.ofNat 64 b,
    srcAt := some (⟨0, a, false⟩, 0), dstAt := some (⟨0, b, false⟩, 0), total := n, done := done, barrier := some 3,
    sleep := sleep, parts := [], out := [] }

/-- A member of wing 5 with a copy in flight through a window onto its own scratchpad, issued before access 8; the same where
it waits to have left. -/
def flying : State :=
  { onTeam winged fun T => { T with copies := [(5, { aCopy 0x40 0x100 32 0 none with dstAt := some (⟨0, 0x100, true⟩, 0) })] }
    with nextSeq := 8 }
def leaving (s : State) : State := onThread s fun h => { h with wait := some (.leave 8) }

theorem meets_StreamsAndWings :
    (∀ p : BitVec 2, Meets (.strm p 8) fun s c _ T _ h => T.portBusy p = false ∧ (h.val 8).toNat = 0x300 ∧ 0x310 ≤ T.size ∧
      sound s T = true ∧ ringValid (readBytes T.sp 0x300 16) = true ∧
      s.local? c.team (fieldN (readBytes T.sp 0x300 16) 0 4) (4 * fieldN (readBytes T.sp 0x300 16) 8 2) =
        .ok ⟨0, 0x200, false⟩ ∧
      s.local? c.team (fieldN (readBytes T.sp 0x300 16) 4 4) 8 = .ok ⟨0, 0x1F0, false⟩) ∧
    Meets (.strmOff 3) (fun _ _ _ T _ _ => T.portBusy 3 = false) ∧
    Meets (.strm 3 8) (fun _ _ _ T _ h => T.portBusy 3 = false ∧ (h.val 8).toNat % 16 ≠ 0) ∧
    Meets (.strm 3 8) (fun _ _ _ T _ h => T.portBusy 3 = false ∧ T.size < (h.val 8).toNat + 16) ∧
    (∀ s ∈ [withRing 0 0x200, withRing 8 0x1000, withRing 8 0x1000000], Meets (.strm 1 8) fun s c _ T _ h =>
      T.portBusy 1 = false ∧ (h.val 8).toNat = 0x300 ∧ 0x310 ≤ T.size ∧ sound s T = true ∧
        (ringValid (readBytes T.sp 0x300 16) = false ∨
          (match s.local? c.team (fieldN (readBytes T.sp 0x300 16) 0 4) (4 * fieldN (readBytes T.sp 0x300 16) 8 2) with
            | .error _ => true
            | .ok A => A.window) = true)) ∧
    Meets (.wjoin 9 8) (fun s _ _ T _ h => T.wing = none ∧ (h.val 8).toNat ≤ 255 ∧
      leastFree ((s.members T.ctx (h.val 8).toNat).map (·.1)) 16 0 = some 0) ∧
    Meets (.wjoin 9 8) (fun s _ _ T _ h => T.wing = none ∧ (h.val 8).toNat ≤ 255 ∧
      leastFree ((s.members T.ctx (h.val 8).toNat).map (·.1)) 16 0 = none) ∧
    Meets (.wjoin 9 8) (fun _ _ _ T _ h => T.wing = none ∧ 255 < (h.val 8).toNat) ∧
    Meets (.wjoin 9 8) (fun _ _ _ T _ h => T.wing = some ((h.val 8).toNat, 0)) ∧
    Meets (.wjoin 9 8) (fun s _ _ T _ h => T.wing = some (5, 0) ∧ 5 ≠ (h.val 8).toNat ∧
      ((s.members T.ctx (h.val 8).toNat).map (·.1)).length < 16) ∧
    Meets (.wquery 9) (fun _ _ _ T _ _ => T.wing = none) ∧ Meets (.wquery 9) (fun _ _ _ T _ _ => T.wing = some (5, 0)) ∧
    Meets (.wmap 15 9 8) (fun _ _ _ T _ _ => T.wing = none) ∧
    Meets (.wmap 15 9 8) (fun s _ _ T _ h => T.wing = some (5, 0) ∧ (h.val 8).toNat ∉ (s.members T.ctx 5).map (·.1)) ∧
    Meets (.wmap 15 9 8) (fun s _ _ T _ h => T.wing = some (5, 0) ∧
      (s.members T.ctx 5).find? (fun e => e.1 == (h.val 8).toNat) = some (0, 0)) ∧
    Meets .wleave (fun _ _ _ T _ h => T.wing = none ∧ h.wait = none) ∧
    Meets .wleave (fun s c _ T _ h => T.wing.isSome = true ∧ h.wait = none ∧
      (s.quitWing c.team).windowsBusy c.team s.nextSeq = false) ∧
    Meets .wleave (fun s c _ T G h => T.wing.isSome = true ∧ h.wait = none ∧
      (s.quitWing c.team).windowsBusy c.team s.nextSeq = true ∧ G.cancelled = false) ∧
    Meets .wleave (fun s c _ _ _ h => h.wait = some (.leave 8) ∧ s.windowsBusy c.team 8 = false) ∧
    Meets .wleave (fun s c _ _ G h => h.wait = some (.leave 8) ∧ s.windowsBusy c.team 8 = true ∧ G.cancelled = false) :=
  ⟨fun p => meets ringing (show solo ringing (.strm p 8) = true by revert p; decide +kernel)
      ⟨by revert p; decide +kernel, by decide +kernel, by decide +kernel, by decide +kernel, by decide +kernel,
        rfl, rfl⟩,
    meetsD ringing (by decide +kernel), meetsD (reg ringing 8 0x304) (by decide +kernel),
    meetsD (reg ringing 8 0x1000) (by decide +kernel), fun s hs => meetsD s (by revert s; decide +kernel),
    meetsD lone (by decide +kernel),
    meetsD fullWing (by decide +kernel), meetsD (reg lone 8 256) (by decide +kernel), meetsD winged (by decide +kernel),
    meetsD (reg winged 8 6) (by decide +kernel), meetsD lone (by decide +kernel), meetsD winged (by decide +kernel),
    meetsD lone (by decide +kernel), meetsD winged (by decide +kernel), meetsD (reg winged 8 0) (by decide +kernel),
    meetsD lone (by decide +kernel), meetsD winged (by decide +kernel), meetsD flying (by decide +kernel),
    meetsD (leaving lone) (by decide +kernel), meetsD (leaving flying) (by decide +kernel)⟩

/-! Matrix commands, re-sharding, special registers and the rest of the instructions. -/

/-- Bytes with fields (offset, width, value) written into zeros. -/
def packed (n : Nat) (l : List (Nat × Nat × Nat)) : List Byte :=
  l.foldl (fun bs e => bs.take e.1 ++ leBytes e.2.1 e.2.2 ++ bs.drop (e.1 + e.2.1)) (List.replicate n 0)

/-- The scratchpad with bytes at an address. -/
def sp (s : State) (x : Nat) (bs : List Byte) : State := onTeam s fun T => { T with sp := writeBytes T.sp x bs }

/-- Accumulator 0 is claimed; g4 names scratchpad byte 0x100. -/
def X : State := onGroup (onTeam (reg D 4 0x100) fun T => { T with mx := { T.mx with claims := 1 } }) fun G =>
  { G with nfmt := 0x0304, fpctl := 0x21 }

/-- FP16 operands of two rows, three columns and K = 4, with barrier 5; a tile of the same shape. -/
def blockBytes (flags : Nat) : List Byte := packed 64 [(0, 8, 0x1000), (8, 8, 0x2000), (16, 4, 8 * 256), (20, 4, 8 * 256),
  (44, 2, 2), (46, 2, 3), (48, 4, 4), (52, 1, flags), (53, 1, 5)]
def tileBytes (flags : Nat) : List Byte := packed 32 [(0, 8, 0x400), (8, 4, 8), (12, 2, 2), (14, 2, 3), (17, 1, flags), (18, 1, 5)]

def withBlock : State := sp X 0x100 (blockBytes 0x40)
/-- Accumulator 1, which is not claimed. -/
def withBadBlock : State := sp X 0x100 (blockBytes 0x41)
def withBadTile : State := sp X 0x100 (packed 32 [(0, 8, 0x400), (8, 4, 8), (14, 2, 3), (17, 1, 4), (18, 1, 5)])
def withTile : State := sp X 0x100 (tileBytes 4)
def withSBlock : State := onGroup X fun G =>
  (List.range 16).foldl (fun G j => G.setSreg (48 + j) (BitVec.ofNat 32 (fieldN (blockBytes 0x40) (4 * j) 4))) G
def abandoned : State := onTeam X fun T => { T with mx := { T.mx with abandon := some (Cause.reconstruction, 0x77) } }
def queued : State := onTeam X fun T => { T with mx := { T.mx with queue := [mxCommand (group X) ⟨.thread 0, none, none⟩ (.zero false) none []] } }

theorem meets_MatrixIssue :
    (∃ T G h, Solo withBlock (.mxIssue 4) C 0 T G h ∧ T.mx.queue.length < 8 ∧ BlockAt withBlock T (h.val 4).toNat 64 64 ∧
      (Block.of G.nfmt (readBytes T.sp (h.val 4).toNat 64)).ok T (readBytes T.sp (h.val 4).toNat 64) = true ∧
      (T.nb 5).engines < 63) ∧
    (∃ T G h, Solo withBadBlock (.mxIssue 4) C 0 T G h ∧ T.mx.queue.length < 8 ∧
      BlockAt withBadBlock T (h.val 4).toNat 64 64 ∧
      (Block.of G.nfmt (readBytes T.sp (h.val 4).toNat 64)).ok T (readBytes T.sp (h.val 4).toNat 64) = false) ∧
    Meets (.mxIssueS 3) (fun _ _ _ T G _ => T.mx.queue.length < 8 ∧
      (Block.of G.nfmt (((List.range 16).map fun j => G.sreg (48 + j)).flatMap fun v => leBytes 4 v.toNat)).ok T
        (((List.range 16).map fun j => G.sreg (48 + j)).flatMap fun v => leBytes 4 v.toNat) = true) ∧
    Meets (.mxZero false) (fun _ _ _ T _ _ => T.mx.queue.length < 8 ∧ T.mx.claims.getLsbD 0 = true) ∧
    Meets (.mxZero true) (fun _ _ _ T _ _ => T.mx.queue.length < 8 ∧ ¬ T.mx.claims.getLsbD 1 = true) ∧
    (∀ i ∈ [Instr.mxLoad false 4, .mxStore 0 0 false 4, .mxStore 3 3 false 4], ∃ T G h, Solo withTile i C 0 T G h ∧
      T.mx.queue.length < 8 ∧ BlockAt withTile T (h.val 4).toNat 32 32 ∧ T.replay.getLsbD 0 = false ∧
      (Tile.of (readBytes T.sp (h.val 4).toNat 32)).ok G.nfmt (T.mx.claims.getLsbD 0) = true ∧ (T.nb 5).engines < 63) ∧
    (∀ i ∈ [Instr.mxLoad false 4, .mxStore 0 0 false 4], ∃ T G h, Solo withBadTile i C 0 T G h ∧
      T.mx.queue.length < 8 ∧ BlockAt withBadTile T (h.val 4).toNat 32 32 ∧
      (Tile.of (readBytes T.sp (h.val 4).toNat 32)).ok G.nfmt (T.mx.claims.getLsbD 0) = false) ∧
    Meets (.mxProg 9 false) (fun _ _ _ T G h => h.wait = none ∧ T.mx.queue ≠ [] ∧ G.cancelled = false) ∧
    Meets (.mxProg 9 false) (fun _ _ _ T _ h => T.mx.queue = [] ∧ h.wait = some (.mx 0) ∧ 0 ≤ T.mx.issued ∧
      T.mx.abandon = none) ∧
    Meets (.mxProg 9 true) (fun _ _ _ T _ _ => T.mx.queue ≠ [] ∧ T.mx.abandon = none) ∧
    Meets (.mxProg 9 true) (fun _ _ _ T _ _ => T.mx.abandon = some (Cause.reconstruction, 0x77)) := by
  refine ⟨⟨_, _, _, solo_sound (by decide +kernel), by decide +kernel, blockAt (by decide +kernel), by decide +kernel,
      by decide +kernel⟩,
    ⟨_, _, _, solo_sound (by decide +kernel), by decide +kernel, blockAt (by decide +kernel), by decide +kernel⟩,
    meetsD withSBlock (by decide +kernel), meetsD X (by decide +kernel), meetsD X (by decide +kernel),
    fun i hi => ⟨_, _, _, solo_sound ?_, by decide +kernel, blockAt (by decide +kernel), by decide +kernel,
      by decide +kernel, by decide +kernel⟩,
    fun i hi => ⟨_, _, _, solo_sound ?_, by decide +kernel, blockAt (by decide +kernel), by decide +kernel⟩,
    meetsD queued (by decide +kernel), meetsD (onThread X fun h => { h with wait := some (.mx 0) }) (by decide +kernel),
    meetsD queued (by decide +kernel), meetsD abandoned (by decide +kernel)⟩
  rotate_left
  · exact List.all_eq_true.mp (show List.all _ (solo withBadTile) = true by decide +kernel) i hi
  exact List.all_eq_true.mp (show List.all _ (solo withTile) = true by decide +kernel) i hi

/-- A record of one dimension of eight 32-bit elements on one device, at a base. -/
def layoutBytes (base : Nat) (dev : Nat := 0) : List Byte := packed 64 [(0, 1, 2 + 4 + 32), (1, 3, dev), (10, 2, 1), (12, 2, 1), (14, 2, 1), (28, 4, 8),
  (32, 4, 1), (36, 4, 1), (40, 4, 1), (44, 8, base)]

/-- A go block of one entry at 0x100, with barrier 5. -/
def goBytes : List Byte := packed 16 [(0, 4, 0x100), (4, 2, 1), (6, 1, 0x15), (8, 4, 0x40), (12, 4, 0x80)]

/-- Two records, with a request or a go block at the address in g4. -/
def records : State := sp (sp D 0x40 (layoutBytes 0x1000)) 0x80 (layoutBytes 0x2000)
def request (cap : Nat) : State :=
  sp (reg records 4 0x20) 0x20 (packed 16 [(0, 4, 0x40), (4, 4, 0x80), (8, 4, 0x100), (12, 2, cap)])
/-- The target is on device 9. -/
def elsewhere : State := sp (request 0) 0x80 (layoutBytes 0x2000 9)
def going : State := sp (reg records 4 0x1A0) 0x1A0 goBytes
def withRsh (s : State) (f : Rsh → Rsh) : State := onTeam s fun T => { T with rsh := f T.rsh }
def stoppedGo (g : List Byte) : State := withRsh going fun r => { r with state := 3, go := g, entry := 7, row := 8 }
def saved : State := sp going 0x1A0 (goBytes ++ leBytes 2 1 ++ leBytes 2 5 ++ leBytes 1 4 ++ List.replicate 11 0)

theorem layoutsAt {s : State} {T : Team} {a b : Nat} (ha : BlockAt s T a 64 64) (hb : BlockAt s T b 64 64)
    (h : decide ((Layout.of (readBytes T.sp a 64)).ok = true ∧ (Layout.of (readBytes T.sp b 64)).ok = true ∧
      (Layout.of (readBytes T.sp a 64)).shape = (Layout.of (readBytes T.sp b 64)).shape ∧
      (Layout.of (readBytes T.sp a 64)).e = (Layout.of (readBytes T.sp b 64)).e) = true) : LayoutsAt s T a b :=
  let ⟨c, d, e, f⟩ := of_decide_eq_true h
  ⟨ha, hb, c, d, e, f⟩

theorem goOk {s : State} {T : Team} {g : List Byte} (hl : LayoutsAt s T (fieldN g 8 4) (fieldN g 12 4))
    (h : decide (fieldN g 0 4 % 32 = 0 ∧ fieldN g 4 2 ≠ 0 ∧ fieldN g 6 1 < 32 ∧ fieldN g 7 1 = 0 ∧
      fieldN g 0 4 + 32 * fieldN g 4 2 ≤ T.size) = true) : GoOk s T g :=
  let ⟨a, b, c, d, e⟩ := of_decide_eq_true h
  ⟨a, b, c, d, hl, e⟩

theorem meets_ReshardIssue :
    (∀ cap ∈ [0, 1], ∃ T G h, Solo (request cap) (.rshPlan 9 4) C 0 T G h ∧
      BlockAt (request cap) T (h.val 4).toNat 16 16 ∧ fieldN (readBytes T.sp (h.val 4).toNat 16) 8 4 % 32 = 0 ∧
      fieldN (readBytes T.sp (h.val 4).toNat 16) 14 2 = 0 ∧ LayoutsAt (request cap) T 0x40 0x80 ∧
      ((request cap).planOf (Layout.of (readBytes T.sp 0x40 64)) (Layout.of (readBytes T.sp 0x80 64))).map List.length =
        some 1 ∧ (request cap).rcPending 0 (T.origin (.thread 0)) = false) ∧
    (∃ T G h, Solo elsewhere (.rshPlan 9 4) C 0 T G h ∧
      BlockAt elsewhere T (h.val 4).toNat 16 16 ∧ fieldN (readBytes T.sp (h.val 4).toNat 16) 8 4 % 32 = 0 ∧
      fieldN (readBytes T.sp (h.val 4).toNat 16) 14 2 = 0 ∧ LayoutsAt elsewhere T 0x40 0x80 ∧
      elsewhere.planOf (Layout.of (readBytes T.sp 0x40 64)) (Layout.of (readBytes T.sp 0x80 64)) = some []) ∧
    (∃ T G h, Solo going (.rshGo 4) C 0 T G h ∧ T.rsh.state ≠ 1 ∧ (T.revocable = false ∧ going.committing 0 = false) ∧
      BlockAt going T (h.val 4).toNat 16 16 ∧ GoOk going T (readBytes T.sp (h.val 4).toNat 16) ∧ (T.nb 5).engines < 63 ∧
      T.rsh.state ≠ 3) ∧
    (∀ g ∈ [goBytes, []], ∃ T G h, Solo (stoppedGo g) (.rshGo 4) C 0 T G h ∧ (T.revocable = false ∧ (stoppedGo g).committing 0 = false) ∧
      BlockAt (stoppedGo g) T (h.val 4).toNat 16 16 ∧ GoOk (stoppedGo g) T (readBytes T.sp (h.val 4).toNat 16) ∧
      (T.nb 5).engines < 63 ∧ T.rsh.state = 3 ∧ T.rsh.go = g) ∧
    (∀ n ∈ [0, 2, 3, 4], ∃ s, (∃ T G h, Solo s (.rshPoll 9 false) C 0 T G h ∧ T.rsh.state = n ∧ T.rsh.state ≠ 1 ∧
      T.rsh.abandon = none) ∧ ∃ T G h, Solo s (.rshSave 4) C 0 T G h ∧ T.rsh.state = n ∧
      s.rcPending 0 (T.origin (.thread 0)) = false ∧ (h.val 4).toNat % 32 = 0 ∧
      (h.val 4).toNat + 32 ≤ T.size ∧ sound s T = true) ∧
    Meets (.rshPoll 9 true) (fun _ _ _ T _ _ => T.rsh.state = 1 ∧ T.rsh.abandon = none) ∧
    Meets (.rshPoll 9 false) (fun _ _ _ T _ _ => T.rsh.state ≠ 1 ∧ T.rsh.abandon = some (Cause.translation, 0x999)) ∧
    (∃ T G h, Solo saved (.rshResume 4) C 0 T G h ∧ T.rsh.state ≠ 1 ∧ (T.revocable = false ∧ saved.committing 0 = false) ∧
      BlockAt saved T (h.val 4).toNat 32 32 ∧ GoOk saved T (slice (readBytes T.sp (h.val 4).toNat 32) 0 16) ∧
      (T.nb 5).engines < 63 ∧ fieldN (readBytes T.sp (h.val 4).toNat 32) 16 2 = 1 ∧
      fieldN (readBytes T.sp (h.val 4).toNat 32) 20 1 = 4 ∧ fieldN (readBytes T.sp (h.val 4).toNat 32) 21 11 = 0) := by
  refine ⟨fun cap hc => ⟨_, _, _, solo_sound ?_, blockAt ?_, ?_, ?_, layoutsAt (blockAt ?_) (blockAt ?_) ?_, ?_, ?_⟩,
    ⟨_, _, _, solo_sound (by decide +kernel), blockAt (by decide +kernel), by decide +kernel, by decide +kernel,
      layoutsAt (blockAt (by decide +kernel)) (blockAt (by decide +kernel)) (by decide +kernel), by decide +kernel⟩,
    ⟨_, _, _, solo_sound (by decide +kernel), by decide +kernel, by decide +kernel, blockAt (by decide +kernel),
      goOk (layoutsAt (blockAt (by decide +kernel)) (blockAt (by decide +kernel)) (by decide +kernel)) (by decide +kernel),
      by decide +kernel, by decide +kernel⟩,
    fun g hg => ⟨_, _, _, solo_sound ?_, ?_, blockAt ?_, goOk (layoutsAt (blockAt ?_) (blockAt ?_) ?_) ?_, ?_, ?_, ?_⟩,
    fun n hn => ⟨withRsh going fun r => { r with state := n }, ⟨_, _, _, solo_sound ?_, ?_, ?_, ?_⟩,
      ⟨_, _, _, solo_sound ?_, ?_, ?_, ?_, ?_, ?_⟩⟩,
    meetsD (withRsh going fun r => { r with state := 1 }) (by decide +kernel),
    meetsD (withRsh going fun r => { r with state := 4, abandon := some (Cause.translation, 0x999) }) (by decide +kernel),
    ⟨_, _, _, solo_sound (by decide +kernel), by decide +kernel, by decide +kernel, blockAt (by decide +kernel),
      goOk (layoutsAt (blockAt (by decide +kernel)) (blockAt (by decide +kernel)) (by decide +kernel)) (by decide +kernel),
      by decide +kernel, by decide +kernel, by decide +kernel, by decide +kernel⟩⟩
  all_goals first | (revert cap) | (revert g) | (revert n)
  all_goals decide +kernel

/-- A context without privilege, and one with. -/
def U : State := onCtx (regs D [(4, 0x12345678), (5, 0)]) fun x => { x with privileged := false }
def P : State := onCtx U fun x => { x with privileged := true }

theorem meets_SpecialRegisters :
    (∀ i ∈ [0x00, 0x08, 0x0D, 0x10, 0x40], Meets (.srd 9 (BitVec.ofNat 8 i)) fun s _ _ T _ _ =>
      sregReach s T (BitVec.ofNat 8 i) ∧ ∃ L, SMap.find? T.launch s.launches = some L ∧ L.t0 = some 0) ∧
    MeetAll [.swr 4 0x00, .swr 4 0x01, .swr 4 0x03, .swr 4 0x04, .swr 4 0x05, .swr 4 0x08, .swr 4 0x09, .swr 4 0x38,
      .movs 4 63, .smov 9 0] ∧
    (∀ v ∈ [0x3F800000, 0x80000000, 0x7F800000], Meets (.swr 4 0x02) fun _ _ _ _ _ h =>
      fp32.isNan (h.val 4).toNat = false ∧ ((h.val 4).getLsbD 31 = false ∨ h.val 4 = 0x80000000) ∧ (h.val 4).toNat = v) ∧
    (∀ v ∈ [0x7FC00000, 0xBF800000], Meets (.swr 4 0x02) fun _ _ _ _ _ h =>
      (fp32.isNan (h.val 4).toNat = true ∨ ((h.val 4).getLsbD 31 = true ∧ h.val 4 ≠ 0x80000000)) ∧ (h.val 4).toNat = v) ∧
    Meets (.swr 4 0x18) (fun _ _ _ T _ _ => T.mx.queue = []) ∧ Meets (.swr 4 0x19) (fun _ _ _ T _ _ => T.rsh.state ≠ 1) := by
  refine ⟨fun i hi => ?_, meetAll U (by decide +kernel), fun v hv => meets (reg U 4 (BitVec.ofNat 32 v)) ?_ ?_,
    fun v hv => meets (reg U 4 (BitVec.ofNat 32 v)) ?_ ?_, meetsD U (by decide +kernel), meetsD U (by decide +kernel)⟩
  · have h : ∀ i ∈ [0x00, 0x08, 0x0D, 0x10, 0x40],
        solo P (.srd 9 (BitVec.ofNat 8 i)) = true ∧ sregKnown (BitVec.ofNat 8 i).toNat = true := by decide +kernel
    exact meets P (h i hi).1 ⟨⟨(h i hi).2, fun _ => by decide +kernel⟩, _, rfl, rfl⟩
  all_goals revert v; decide +kernel

/-- g4 names context 2, which lives or does not. -/
def killing (live : Bool) : State := (reg P 4 2).setCtx 2 { Context.fresh with live := live }

/-- g4 holds a value for KILLCTL, and context 2 lives. -/
def killer (v : Word) : State := reg (killing true) 4 v

theorem meets_Privilege :
    Meets (.swr 4 0x40) (fun s _ _ T _ h => (s.ctx T.ctx).privileged = true ∧
      h.val 4 ≠ (s.ctx T.ctx).heap.hb.extractLsb' 0 32) ∧
    Meets (.swr 4 0x48) (fun s _ _ T _ h => (s.ctx T.ctx).privileged = true ∧
      h.val 4 ≠ (s.ctx T.ctx).ptbase.extractLsb' 0 32) ∧
    Meets (.swr 4 0x4A) (fun s _ _ T _ _ => (s.ctx T.ctx).privileged = true) ∧
    Meets (.swr 4 0x4C) (fun s _ _ T _ h => (s.ctx T.ctx).privileged = true ∧ (s.ctx T.ctx).killBusy = false ∧
      (h.val 4).getLsbD 31 = false) ∧
    Meets (.swr 4 0x4C) (fun s _ _ T _ h => (s.ctx T.ctx).privileged = true ∧ (s.ctx T.ctx).live = true ∧
      (s.ctx T.ctx).killBusy = false ∧ (h.val 4).getLsbD 31 = true ∧ (h.val 4).toNat % 2 ^ 12 ≠ T.ctx ∧
      (s.ctx ((h.val 4).toNat % 2 ^ 12)).live = true) ∧
    Meets (.swr 4 0x4C) (fun s _ _ T _ _ => (s.ctx T.ctx).privileged = true ∧ (s.ctx T.ctx).killBusy = true) ∧
    Meets (.swr 4 0x4C) (fun s _ _ T _ h => (s.ctx T.ctx).privileged = true ∧ (s.ctx T.ctx).killBusy = false ∧
      (h.val 4).getLsbD 31 = true ∧ (h.val 4).toNat % 2 ^ 12 = T.ctx) ∧
    (∀ i ∈ [0x40, 0x4C], sregKnown i = true ∧
      Meets (.srd 9 (BitVec.ofNat 8 i)) (fun s _ _ T _ _ => (s.ctx T.ctx).privileged = false) ∧ sregReadOnly i = false ∧
      Meets (.swr 4 (BitVec.ofNat 8 i)) fun s _ _ T _ _ => (s.ctx T.ctx).privileged = false) ∧
    (∀ i ∈ [Instr.tlbinvAll 4, .tlbinvPage 4, .tlbinvHeap, .killctx 9 4],
      Meets i fun s _ _ T _ _ => (s.ctx T.ctx).privileged = false) := by
  refine ⟨meetsD P (by decide +kernel), meetsD P (by decide +kernel), meetsD P (by decide +kernel),
    meetsD P (by decide +kernel), meetsD (killer 0x80000002) (by decide +kernel),
    meetsD (onCtx P fun x => { x with killBusy := true }) (by decide +kernel),
    meetsD (killer 0x80000001) (by decide +kernel),
    fun i hi => ⟨?_, meets U ?_ (by decide +kernel), ?_, meets U ?_ (by decide +kernel)⟩,
    fun i hi => meets U ?_ (by decide +kernel)⟩
  case refine_5 => exact List.all_eq_true.mp (show List.all _ (solo U) = true by decide +kernel) i hi
  all_goals revert i; decide +kernel


theorem meets_InvalidationAndKills :
    Meets .icinv (fun s c _ T _ _ => T.revocable = false ∧ s.storesPending c.team = false ∧
      s.remotesPending c.team = false) ∧
    Meets (.tlbinvAll 4) (fun s _ _ T _ h => (s.ctx T.ctx).privileged = true ∧ T.revocable = false ∧
      s.stores.any (fun w => w.ctx == (h.val 4).toNat % 2 ^ 12) = false ∧
      s.remotes.any (fun e => e.2.ctx == (h.val 4).toNat % 2 ^ 12 && e.2.agent < 5) = false ∧
      s.porched ((h.val 4).toNat % 2 ^ 12) = false) ∧
    Meets (.tlbinvPage 4) (fun s _ _ T _ _ => (s.ctx T.ctx).privileged = true ∧ T.revocable = false ∧
      s.stores.any (fun w => w.ctx == T.ctx) = false ∧ s.remotes.any (fun e => e.2.ctx == T.ctx && e.2.agent < 5) = false ∧
      s.porched T.ctx = false ∧ (s.ctx T.ctx).heldPtbase = []) ∧
    Meets .tlbinvHeap (fun s _ _ T _ _ => (s.ctx T.ctx).privileged = true ∧ T.revocable = false ∧
      s.stores.any (fun w => w.ctx == T.ctx) = false ∧
      s.remotes.any (fun e => e.2.ctx == T.ctx && e.2.agent < 5) = false ∧ s.porched T.ctx = false) ∧
    Meets (.killctx 9 4) (fun s _ _ T _ h => (s.ctx T.ctx).privileged = true ∧ (s.ctx T.ctx).live = true ∧ T.revocable = false ∧ h.wait = none ∧
      (s.ctx T.ctx).killBusy = false ∧ (h.val 4).toNat % 2 ^ 12 = T.ctx) ∧
    Meets (.killctx 9 4) (fun s _ _ T _ h => (s.ctx T.ctx).privileged = true ∧ (s.ctx T.ctx).live = true ∧ T.revocable = false ∧ h.wait = none ∧
      (s.ctx T.ctx).killBusy = false ∧ (h.val 4).toNat % 2 ^ 12 ≠ T.ctx ∧
      (s.ctx ((h.val 4).toNat % 2 ^ 12)).live = false) ∧
    Meets (.killctx 9 4) (fun s _ _ T G h => (s.ctx T.ctx).privileged = true ∧ (s.ctx T.ctx).live = true ∧ T.revocable = false ∧ h.wait = none ∧
      (s.ctx T.ctx).killBusy = false ∧ (h.val 4).toNat % 2 ^ 12 ≠ T.ctx ∧
      (s.ctx ((h.val 4).toNat % 2 ^ 12)).live = true ∧ G.cancelled = false) ∧
    Meets (.killctx 9 4) (fun s _ _ T _ h => (s.ctx T.ctx).privileged = true ∧ (s.ctx T.ctx).live = true ∧ T.revocable = false ∧
      h.wait = some (.kill 2) ∧ T.ctx ∉ (s.ctx 2).killedBy) :=
  ⟨meetsD P (by decide +kernel), meetsD P (by decide +kernel), meetsD P (by decide +kernel), meetsD P (by decide +kernel),
    meetsD (reg P 4 0xF001) (by decide +kernel), meetsD (killing false) (by decide +kernel),
    meetsD (killing true) (by decide +kernel),
    meetsD (onThread P fun h => { h with wait := some (.kill 2) }) (by decide +kernel)⟩

/-! The front thread, queues, chains, reconvergence, group operations and successors. -/

/-- f4 names a heap address that is a multiple of 128. -/
def launching : State := freg 4 0x80000000 (F.setCtx 1 { F.ctx 1 with
  heap := { hb := 0x80000000, hl := 0x10000, ho := 0x80000000, hkind := 0 } })

def aRecord : DevLaunch := ⟨1, 0, placedRecord false, 0, 5⟩
def fullQueue : State := { launching with devQueue := List.replicate 256 aRecord }

theorem meets_FrontThread :
    MeetsFront (.ftwaitNb 4 15) (fun _ _ T x => notLetGo x.wait = true ∧ (T.nb 15).broken = false ∧ (T.nb 15).phase ≠ (x.reg 4).getLsbD 0) ∧
    MeetsFront (.ftwaitDq 4 0) (fun _ _ T x => 0 < T.producers + T.consumers ∧ ∃ G, T.group? 0 = some G ∧ G.ended = false ∧
      G.dq.length ≤ (x.reg 4).toNat) ∧
    MeetsFront .ftwaitMx (fun _ _ T _ => T.mx.queue = []) ∧ MeetsFront .ftwaitRsh (fun _ _ T _ => T.rsh.state ≠ 1) ∧
    MeetsFront (.ftwaitClk 4) (fun s _ T x => ∃ L, SMap.find? T.launch s.launches = some L ∧ L.t0 = some 0 ∧
      (x.reg 4).toNat ≤ s.clock - 0) ∧
    (∃ T x, FrontSolo launching (.ftlaunch 5 4) CF T x ∧ InHeap launching 0 T (x.reg 4).toNat 128 0x100000000 ∧
      (x.reg 4).toNat % 128 = 0 ∧ T.revocable = false ∧ launching.devQueue.length < 256) ∧
    (∃ T x, FrontSolo fullQueue (.ftlaunch 5 4) CF T x ∧ InHeap fullQueue 0 T (x.reg 4).toNat 128 0x100000000 ∧
      T.revocable = false ∧ 256 ≤ fullQueue.devQueue.length) ∧
    ∃ e es, fullQueue.devQueue = e :: es ∧ fullQueue.mgmt.ready = true ∧ fullQueue.mgmt.thermalHalt = false :=
  ⟨meetsFront (freg 4 1 F) (by decide +kernel) (by decide +kernel),
    meetsFront F (by decide +kernel) ⟨by decide +kernel, _, rfl, by decide +kernel, by decide +kernel⟩,
    meetsFront F (by decide +kernel) (by decide +kernel), meetsFront F (by decide +kernel) (by decide +kernel),
    meetsFront { F with clock := 7 } (by decide +kernel) ⟨_, rfl, rfl, by decide +kernel⟩,
    ⟨_, _, frontSolo_sound (by decide +kernel), inHeap (by decide +kernel), by decide +kernel, by decide +kernel,
      by decide +kernel⟩,
    ⟨_, _, frontSolo_sound (by decide +kernel), inHeap (by decide +kernel), by decide +kernel, by decide +kernel⟩,
    _, _, rfl, rfl, rfl⟩

/-- Thread 0 makes its group's push; two entries wait in the queue of group 0, which has had three. -/
def pushing : State := onThread (reg D 4 5) fun h => { h with wait := some (.push 77 true) }
def popping : State := onThread (onGroup D fun G => { G with dq := [5, 6], pushed := 3 }) fun h => { h with cursor := 2 }

/-- The group runs a beat of a chain of four beats and two stages; the thread is in a stage of it. -/
def inBeat (b : Nat) (st : Option Nat) : State :=
  let s := onTeam (reg D 4 9) fun T =>
    { T with chain := some { trip := 4, stages := 2, delta := 1, next := b + 1, slots := [], seeds := [] } }
  onThread (onGroup s fun G => { G with beat := some b }) fun h => { h with stage := st }

theorem meets_ChainsAndQueues :
    MeetsFront (.dqpush 0 4) (fun _ _ T _ => ∃ Q, 0 < T.producers + T.consumers ∧ T.group? 0 = some Q ∧ Q.ended = false ∧
      Q.dq.length < 16) ∧
    Meets (.dqpush 0 4) (fun _ _ _ T _ h => (∃ Q, 0 < T.producers + T.consumers ∧ T.group? 0 = some Q ∧ Q.ended = false ∧
      Q.dq.length < 16) ∧ h.wait = some (.push 77 true)) ∧
    Meets (.dqpop 9) (fun _ _ _ _ G h => h.cursor ≠ G.pushed) ∧
    Meets (.stage 0 5) (fun _ _ _ T G _ => ∃ C, T.chain = some C ∧ G.beat = some 0 ∧ 0 < C.stages ∧ G.cancelled = false ∧
      0 + 2 ≤ C.trip + C.stages ∧ C.runs 0 0 = true) ∧
    Meets (.stage 1 5) (fun _ _ _ T G h => ∃ C, T.chain = some C ∧ G.beat = some 4 ∧ 1 < C.stages ∧ h.stage = some 0 ∧
      G.cancelled = false ∧ 4 + 2 ≤ C.trip + C.stages ∧ C.runs 4 1 = true) ∧
    Meets (.stage 1 5) (fun _ _ _ T G h => ∃ C, T.chain = some C ∧ G.beat = some 0 ∧ 1 < C.stages ∧ h.stage = some 0 ∧
      G.cancelled = false ∧ 0 + 2 ≤ C.trip + C.stages ∧ C.runs 0 1 = false) ∧
    Meets (.stage 1 5) (fun _ _ _ T G h => ∃ C, T.chain = some C ∧ G.beat = some 0 ∧ 1 < C.stages ∧ h.stage = some 0 ∧
      G.cancelled = true) ∧
    Meets (.stage 0 5) (fun _ _ _ T G h => ∃ C, T.chain = some C ∧ G.beat = some 2 ∧ 0 < C.stages ∧ h.stage = none ∧
      T.passed C 1 = true ∧ G.cancelled = false ∧ 2 + 2 ≤ C.trip + C.stages ∧ C.runs 2 0 = true) ∧
    Meets (.stage 1 5) (fun _ _ _ T G h => ∃ C, T.chain = some C ∧ G.beat = some 5 ∧ 1 < C.stages ∧ h.stage = some 0 ∧
      C.trip + C.stages < 5 + 2) ∧
    Meets .chend (fun _ _ _ T G h => (∃ C, T.chain = some C) ∧ G.beat = some 3 ∧ h.stage = some 0) ∧
    Meets .chend (fun _ _ _ T G h => (∃ C, T.chain = some C) ∧ G.beat = some 3 ∧ h.stage = some 1) ∧
    (∀ st ∈ [none, some 0], Meets (.chseed 7 4) fun _ _ _ T G h => (∃ C, T.chain = some C) ∧ G.beat = some 0 ∧
      h.stage = st) ∧
    Meets (.chseed 7 4) (fun _ _ _ T G h => (∃ C, T.chain = some C) ∧ G.beat = some 1 ∧ h.stage = some 0) ∧
    Meets (.chseed 7 4) (fun _ _ _ T G h => (∃ C, T.chain = some C) ∧ G.beat = some 0 ∧ h.stage = some 1) ∧
    ∀ i ∈ [Instr.stage 1 5, .chend, .chseed 7 4], Meets i (fun _ _ _ T _ _ => T.chain = none) ∧
      Meets i fun _ _ _ T G _ => T.chain.isSome = true ∧ G.beat = none := by
  refine ⟨meetsFront F (by decide +kernel) ⟨_, by decide +kernel, rfl, by decide +kernel, by decide +kernel⟩,
    meets pushing (by decide +kernel) ⟨⟨_, by decide +kernel, rfl, by decide +kernel, by decide +kernel⟩, rfl⟩,
    meetsD popping (by decide +kernel),
    meets (inBeat 0 none) (by decide +kernel) ⟨_, rfl, rfl, by decide, rfl, by decide, by decide⟩,
    meets (inBeat 4 (some 0)) (by decide +kernel) ⟨_, rfl, rfl, by decide, rfl, rfl, by decide, by decide⟩,
    meets (inBeat 0 (some 0)) (by decide +kernel) ⟨_, rfl, rfl, by decide, rfl, rfl, by decide, by decide⟩,
    meets (onGroup (inBeat 0 (some 0)) fun G => { G with cancelled := true }) (by decide +kernel) ⟨_, rfl, rfl, by decide, rfl, rfl⟩,
    meets (onTeam (inBeat 2 none) fun T => { T with chain := T.chain.map fun C => { C with slots := [(1, ⟨1, [], [], true⟩)] } })
      (by decide +kernel) ⟨_, rfl, rfl, by decide, rfl, by decide +kernel, rfl, by decide, by decide⟩,
    meets (inBeat 5 (some 0)) (by decide +kernel) ⟨_, rfl, rfl, by decide, rfl, by decide⟩,
    meets (inBeat 3 (some 0)) (by decide +kernel) ⟨⟨_, rfl⟩, rfl, rfl⟩,
    meets (inBeat 3 (some 1)) (by decide +kernel) ⟨⟨_, rfl⟩, rfl, rfl⟩,
    fun st hs => meets (inBeat 0 st) ?_ ⟨⟨_, rfl⟩, rfl, ?_⟩, meets (inBeat 1 (some 0)) (by decide +kernel) ⟨⟨_, rfl⟩, rfl, rfl⟩,
    meets (inBeat 0 (some 1)) (by decide +kernel) ⟨⟨_, rfl⟩, rfl, rfl⟩, fun i hi => ⟨meetsD (reg D 4 9) ?_,
      meetsD (onGroup (inBeat 0 none) fun G => { G with beat := none }) ?_⟩⟩
  · revert st; decide +kernel
  · revert st; decide +kernel
  · revert i; decide +kernel
  · revert i; decide +kernel

/-- s3 holds a mask of a group operation; slot 2 holds one too. -/
def masked (m : Word) : State := onGroup (onThread (regs D [(4, 0x40000000), (9, 7)]) fun h => { h with b := 2 }) (·.setSreg 3 m)
def slotted (m a : BitVec 128) : State := onGroup (masked 1) fun G => { G with rcv := [(2, ⟨m, a⟩)] }

theorem meets_Reconvergence :
    Meets (.rcvSet 3 7) (fun _ _ t T G _ => (G.mask T.width 3).getLsbD (T.index t) = true ∧
      (SMap.getD G.rcv 7 ⟨0, 0⟩).mask ≠ G.mask T.width 3 ∧ (SMap.getD G.rcv 7 ⟨0, 0⟩).arrived = 0) ∧
    Meets (.rcvSet 3 2) (fun _ _ t T G _ => (G.mask T.width 3).getLsbD (T.index t) = true ∧
      (SMap.getD G.rcv 2 ⟨0, 0⟩).mask = G.mask T.width 3) ∧
    Meets (.rcvSet 3 2) (fun _ _ t T G _ => (G.mask T.width 3).getLsbD (T.index t) = false) ∧
    Meets (.rcvSet 3 2) (fun _ _ t T G _ => (G.mask T.width 3).getLsbD (T.index t) = true ∧
      (SMap.getD G.rcv 2 ⟨0, 0⟩).mask ≠ G.mask T.width 3 ∧ (SMap.getD G.rcv 2 ⟨0, 0⟩).arrived ≠ 0) ∧
    Meets (.rcvWait 2) (fun _ _ t T G _ => (SMap.getD G.rcv 2 ⟨0, 0⟩).mask.getLsbD (T.index t) = true ∧
      G.cancelled = false) ∧
    Meets (.rcvWait 2) (fun _ _ t T G _ => (SMap.getD G.rcv 2 ⟨0, 0⟩).mask = BitVec.ofNat 128 (2 ^ T.index t) ∧
      (SMap.getD G.rcv 2 ⟨0, 0⟩).arrived = 0 ∧ T.index t < 128 ∧ T.index t < T.width ∧ G.cancelled = false) :=
  ⟨meetsD (masked 1) (by decide +kernel), meetsD (slotted 1 0) (by decide +kernel), meetsD (masked 2) (by decide +kernel),
    meetsD (slotted 3 2) (by decide +kernel), meetsD (slotted 3 0) (by decide +kernel), meetsD (slotted 1 0) (by decide +kernel)⟩

/-- Every form of the group operations, with its mask in s3. -/
def groupForms : List Instr := [.shflIdx 3 9 4 true, .shflUp 3 9 1 false, .shflDown 3 9 1 true, .shflXor 3 9 1 true,
  .voteAny 3 2 1 false, .voteAll 3 2 1 true, .voteBallot 3 9 1 false, .voteMatch 3 9 4 true, .voteRadd 3 9 4 false,
  .voteRmin 3 9 4 true, .voteRmax 3 9 4 true, .voteRfadd 3 9 4 true, .elect 3 2, .ckx 3 1 true true, .ckx 3 1 false false]

/-- Thread 1, the only other thread of the mask, has ended. -/
def lastOfTwo : State := (masked 3).modThread 0 1 fun h => { h with ended := true }

/-- Threads 0 and 1 are both of the mask and live; thread 1 has arrived at the operation in the second state. -/
def two : State := masked 3
def secondHere (i : Instr) : State := onGroup two fun G =>
  { G with ops := [⟨groupKey i, 3, [(1, i, ((groupOffers (thread two) i).map (·.2)).getD [])]⟩] }

theorem meets_GroupOperations : ∀ i ∈ groupForms,
    (Meets i fun _ c t T G h => (groupOffers h i).map (·.1) = some 3 ∧ (G.mask T.width 3).getLsbD (T.index t) = true ∧
      G.ops = [] ∧ T.width ≤ 128 ∧ T.index t < T.width ∧ (G.cancelled = false ∨ h.trap = none) ∧ c.len = 4 ∧
      ∀ j < T.width, j ≠ T.index t → (G.mask T.width 3).getLsbD j = true →
        ((T.thread? (T.groupIx t * T.width + j)).any (·.ended)) = true) ∧
    (Meets i fun _ _ t T G h => (groupOffers h i).map (·.1) = some 3 ∧ (G.mask T.width 3).getLsbD (T.index t) = true ∧
      G.ops = [] ∧ G.cancelled = false ∧ 1 < T.width ∧ 1 ≠ T.index t ∧ (G.mask T.width 3).getLsbD 1 = true ∧
        (T.thread? (T.groupIx t * T.width + 1)).map (·.ended) = some false) ∧
    (Meets i fun _ _ t T G h => (groupOffers h i).map (·.1) = some 3 ∧ (G.mask T.width 3).getLsbD (T.index t) = true ∧
      G.ops = [⟨groupKey i, G.mask T.width 3, [(1, i, ((groupOffers h i).map (·.2)).getD [])]⟩] ∧ T.width ≤ 128 ∧ T.index t < T.width ∧
      (G.cancelled = false ∨ h.trap = none) ∧ ([1, T.index t] : List Nat).Nodup ∧ 1 < T.width ∧ gOnly i = true ∧
      ∀ j < T.width, (G.mask T.width 3).getLsbD j = true → j = T.index t ∨ 1 = j) ∧
    Meets i fun _ _ t T G h => (groupOffers h i).map (·.1) = some 3 ∧ (G.mask T.width 3).getLsbD (T.index t) = false := by
  intro i hi
  have h : (groupForms.all fun i => solo lastOfTwo i && solo (masked 2) i && solo two i &&
      decide ((groupOffers (thread two) i).map (·.1) = some 3) &&
      decide ((groupOffers (thread lastOfTwo) i).map (·.1) = some 3) &&
      decide ((groupOffers (thread (masked 2)) i).map (·.1) = some 3)) = true := by decide +kernel
  have h := List.all_eq_true.mp h i hi
  simp only [Bool.and_eq_true, decide_eq_true_eq] at h
  obtain ⟨⟨⟨⟨⟨a, b⟩, e⟩, m⟩, c⟩, d⟩ := h
  exact ⟨meets lastOfTwo a ⟨c, by decide +kernel, by decide +kernel, by decide +kernel, by decide +kernel,
      .inl (by decide +kernel), rfl, by decide +kernel⟩,
    meets two e ⟨m, by decide +kernel, by decide +kernel, by decide +kernel, by decide +kernel, by decide +kernel,
      by decide +kernel, by decide +kernel⟩,
    meetsD (secondHere i) (by clear a b e m c d; revert i; decide +kernel), meets (masked 2) b ⟨d, by decide +kernel⟩⟩

theorem meets_Successors :
    (∃ x, (∀ i ∈ [Instr.succGoto 0xFFFFFF, .succBr 7 false 7 9, .succSw 4 [7, 8, 9], .succSw 4 [7]],
      Meets i fun s _ _ T _ _ => s.xlatOf T = some x) ∧
      Meets (.succCall 7 9) (fun s _ _ T _ h => s.xlatOf T = some x ∧ h.rs.length < 8 ∧ h.spill = 0) ∧
      Meets .succRet (fun s _ _ T _ h => s.xlatOf T = some x ∧ h.rs.getLast? = some 2 ∧ h.spill = 0 ∧
        (2 : Word64).toNat < x.segs) ∧
      Meets .succRet fun s _ _ T _ h => s.xlatOf T = some x ∧ h.rs.getLast? = some 3 ∧ h.spill = 0 ∧
        x.segs ≤ (3 : Word64).toNat) :=
  ⟨_, fun i hi => meets emulated (List.all_eq_true.mp (show List.all _ (solo emulated) = true by decide +kernel) i hi) rfl,
    meets emulated (by decide +kernel) ⟨rfl, by decide +kernel, by decide +kernel⟩,
    meets (onThread emulated fun h => { h with rs := [5, 2] }) (by decide +kernel)
      ⟨by decide +kernel, by decide +kernel, by decide +kernel, by decide +kernel⟩,
    meets (onThread emulated fun h => { h with rs := [5, 3] }) (by decide +kernel)
      ⟨by decide +kernel, by decide +kernel, by decide +kernel, by decide +kernel⟩⟩

/-! Engines. -/

/-- What an `Except` holds, by what can be decided about it. -/
theorem okOf {ε α : Type} {m : Except ε α} (p : α → Bool) (h : (match m with
    | .ok a => p a
    | .error _ => false) = true) : ∃ a, m = .ok a ∧ p a = true := by
  cases m with
  | ok a => exact ⟨a, rfl, h⟩
  | error _ => cases h

theorem trapOf {α : Type} {m : Except Stop α} (h : (match m with
    | .error (.trap c _) => c != Cause.reconstruction && c != Cause.uncorrectable
    | _ => false) = true) : ∃ c a, m = .error (.trap c a) ∧ c ≠ Cause.reconstruction ∧ c ≠ Cause.uncorrectable := by
  cases m with
  | ok a => cases h
  | error e =>
    cases e with
    | trap c a => exact ⟨c, a, rfl, by simpa using h⟩
    | _ => cases h

/-- A store of thread 0 that has issued before that operation, or of the operation, and is not performed. -/
def pendingStore (o : Origin) (seq : Nat) : PendStore := ⟨0, 0, 0, 1, 0x30000, [7], ⟨o, seq, 1, 0, 0, []⟩, false, false⟩

def withCopy (c : Copy) : State := onTeam D fun T =>
  { T with copies := [(5, c)], nextCopy := 6, nbs := SMap.insert 3 { T.nb 3 with engines := 1, bytes := c.total - c.done } T.nbs }

/-- Copies whose source lies outside the address space, with a barrier and without. -/
def lostCopy (b : Option Nat) : Copy :=
  { aCopy 0 0 32 0 none with kind := .g2g, srcAt := none, dstAt := none, src := 0x7FFFFFFFFFFFFFFF, barrier := b }

/-- A copy whose thread made a store before it that is not performed. -/
def following : State := { withCopy (aCopy 0x40 0x100 32 0 none) with stores := [pendingStore ⟨.thread 0, none, none⟩ 6] }

/-- A team before its commit, whose page at 0x10000 lies on device 5. -/
def abroad (s : State) : State := onTeam { s with mem := writeBytes s.mem 0x14008 (leBytes 8 (0x84D + 5 * 2 ^ 47)) } fun T =>
  { T with revocable := true, porchSlot := some 0 }

theorem earlyOf {m : Machine.M Unit} {s : State} {k : Nat} (h : (match runM m s with
    | .ok (_, s1) | .error (.hold s1) => s.tooSoon s1 k
    | _ => false) = true) :
    ∃ s1, (runM m s = .ok ((), s1) ∨ runM m s = .error (.hold s1)) ∧ s.tooSoon s1 k = true := by
  split at h
  · next e => exact ⟨_, .inl e, h⟩
  · next e => exact ⟨_, .inr e, h⟩
  · cases h

def earlyCopy : Copy := { lostCopy none with src := 0x10000, dst := 0x10040 }

theorem meets_CopyTransfers :
    (∀ e ∈ [(0x40, 0x100, 32, 0), (0x40, 0x100, 32, 28), (0x43, 0x101, 17, 0), (0x43, 0x101, 17, 15)],
      let C := aCopy e.1 e.2.1 e.2.2.1 e.2.2.2 none
      OnCore (withCopy C) 0 (team (withCopy C)) ∧ SMap.find? 5 (team (withCopy C)).copies = some C ∧ C.out = [] ∧
        (withCopy C).forkPending 0 C.origin = false ∧ C.done < C.total ∧ (team (withCopy C)).relaunches = 0 ∧
        CoreSound (withCopy C) (team (withCopy C))) ∧
    (let C := aCopy 0x40 0x100 32 32 none
     OnCore (withCopy C) 0 (team (withCopy C)) ∧ SMap.find? 5 (team (withCopy C)).copies = some C ∧ C.out = [] ∧
      (withCopy C).forkPending 0 C.origin = false ∧ C.total ≤ C.done) ∧
    (∀ b ∈ [some 3, none], let C := lostCopy b
      OnCore (withCopy C) 0 (team (withCopy C)) ∧ SMap.find? 5 (team (withCopy C)).copies = some C ∧ C.out = [] ∧
        (withCopy C).forkPending 0 C.origin = false ∧ C.sleep = none ∧ (withCopy C).opPending 0 C.origin = false ∧
        ∃ c a, runM (copyPiece 0 5 C) (withCopy C) = .error (.trap c a) ∧ c ≠ Cause.reconstruction ∧
          c ≠ Cause.uncorrectable) ∧
    (OnCore following 0 (team following) ∧ SMap.find? 5 (team following).copies = some (aCopy 0x40 0x100 32 0 none) ∧
      following.forkPending 0 (aCopy 0x40 0x100 32 0 none).origin = true) ∧
    (OnCore (abroad (withCopy earlyCopy)) 0 (team (abroad (withCopy earlyCopy))) ∧
      SMap.find? 5 (team (abroad (withCopy earlyCopy))).copies = some earlyCopy ∧ earlyCopy.out = [] ∧ earlyCopy.sleep = none ∧
      (abroad (withCopy earlyCopy)).forkPending 0 earlyCopy.origin = false ∧
      ∃ s1, (runM (copyPiece 0 5 earlyCopy) (abroad (withCopy earlyCopy)) = .ok ((), s1) ∨
        runM (copyPiece 0 5 earlyCopy) (abroad (withCopy earlyCopy)) = .error (.hold s1)) ∧
        (abroad (withCopy earlyCopy)).tooSoon s1 0 = true) ∧
    ∀ z ∈ [Asleep.on 1, .free 0x123], let C := aCopy 0x40 0x100 32 0 (some z)
      OnCore (withCopy C) 0 (team (withCopy C)) ∧ SMap.find? 5 (team (withCopy C)).copies = some C ∧ C.out = [] ∧
        C.sleep.isSome = true := by
  refine ⟨fun e he => ⟨onCore ?_, ?_, rfl, ?_, ?_, ?_, coreSound ?_⟩,
    ⟨onCore (by decide +kernel), by decide +kernel, rfl, by decide +kernel, by decide +kernel⟩,
    fun b hb => ⟨onCore ?_, ?_, rfl, ?_, rfl, ?_, trapOf ?_⟩,
    ⟨onCore (by decide +kernel), by decide +kernel, by decide +kernel⟩,
    ⟨onCore (by decide +kernel), by decide +kernel, rfl, rfl, by decide +kernel, earlyOf (by decide +kernel)⟩, fun z hz => ⟨onCore ?_, ?_, rfl, rfl⟩⟩
  all_goals first | (revert e) | (revert b) | (revert z)
  all_goals decide +kernel

/-- A command at the head of the queue. -/
def command (k : MxKind) (started : Bool) (step : Nat) : MxCmd :=
  { mxCommand (group X) op7 k none [] with started := started, step := step }
def commanded (k : MxKind) (started : Bool) (step : Nat) : State :=
  onTeam X fun T => { T with mx := { T.mx with queue := [command k started step], a0 := [(3, 5)] } }

/-- A block of FP16 operands in the scratchpad, of K = k. -/
def hereBlock (k : Nat) : List Byte := packed 64 [(0, 8, 0x400), (8, 8, 0x500), (16, 4, 8 * 256 + 128),
  (20, 4, 8 * 256 + 128), (44, 2, 2), (46, 2, 3), (48, 4, k)]

theorem mxRuns {k : MxKind} {n : Nat} (h : (decide ((commanded k true n).team? 0 = some (team (commanded k true n))) &&
    decide ((team (commanded k true n)).status = .resident) && decide ((team (commanded k true n)).dying = false) &&
    decide ((team (commanded k true n)).mx.queue.head? = some (command k true n)) &&
    decide ((commanded k true n).forkPending 0 op7 = false)) = true) :
    MxRuns (commanded k true n) 0 (team (commanded k true n)) (command k true n) ∧
      (commanded k true n).forkPending 0 (command k true n).origin = false := by
  simp only [Bool.and_eq_true, decide_eq_true_eq] at h
  exact ⟨⟨⟨h.1.1.1.1, h.1.1.1.2, h.1.1.2⟩, h.1.2, rfl, rfl, rfl, rfl⟩, h.2⟩

theorem meets_MatrixSteps_starts :
    (OnCore (commanded (.zero false) false 0) 0 (team (commanded (.zero false) false 0)) ∧
      (team (commanded (.zero false) false 0)).mx.queue = [command (.zero false) false 0]) ∧
    (Block.of (group X).nfmt (hereBlock 4)).trailers = [] ∧
    ∀ k ∈ [MxKind.issue (hereBlock 4), .load false (tileBytes 1), .store false (tileBytes 1) 1 0],
      OnCore (commanded k false 0) 0 (team (commanded k false 0)) ∧
        (team (commanded k false 0)).mx.queue.head? = some (command k false 0) := by
  refine ⟨⟨onCore (by decide +kernel), by decide +kernel⟩, by decide +kernel, fun k hk => ⟨onCore ?_, ?_⟩⟩
  all_goals revert k; decide +kernel

def slicing (k : Nat) : State := commanded (.issue (hereBlock k)) true 0

theorem meets_MatrixSteps_slice : ∀ k ∈ [4, 40],
    (MxRuns (slicing k) 0 (team (slicing k)) (command (.issue (hereBlock k)) true 0) ∧ (slicing k).forkPending 0 op7 = false) ∧
      (command (.issue (hereBlock k)) true 0).starting = false ∧
      ∃ r, runM (fetchRuns 0 op7 (sliceRuns (Block.of (group X).nfmt (hereBlock k)) 0)) (slicing k) = .ok r ∧
        ((partsReady r.1).isSome && !(slicing k).tooSoon r.2 0) = true := by
  intro k hk
  refine ⟨mxRuns ?_, ?_, okOf (fun r : List LoadPart × State => (partsReady r.1).isSome && !(slicing k).tooSoon r.2 0) ?_⟩
  all_goals revert k; decide +kernel

def storingTile (j : Nat) : State := commanded (.store false (tileBytes 1) 1 0) true j

theorem meets_MatrixSteps_store : (∀ j ∈ [0, 1],
    (MxRuns (storingTile j) 0 (team (storingTile j)) (command (.store false (tileBytes 1) 1 0) true j) ∧
      (storingTile j).forkPending 0 op7 = false) ∧ j < (Tile.of (tileBytes 1)).rows ∧
      Conv.trap ∉ storeElems (command (.store false (tileBytes 1) 1 0) true j) (Tile.of (tileBytes 1))
        ((team (storingTile j)).mx.tile false) 1 0 ∧
      ((Tile.of (tileBytes 1)).opnd (group X).nfmt).rowRuns 0x400 j 0 6 = [(0x400 + 8 * j, 6)] ∧
      ∃ r, runM (putRuns 0 op7 true [(0x400 + 8 * j, 6)] (List.replicate 6 0)) (storingTile j) = .ok r ∧
        (decide (r.1 = []) && !(storingTile j).tooSoon r.2 0) = true) ∧
    (MxRuns (storingTile 2) 0 (team (storingTile 2)) (command (.store false (tileBytes 1) 1 0) true 2) ∧
      (storingTile 2).forkPending 0 op7 = false) ∧ (Tile.of (tileBytes 1)).steps ≤ 2 := by
  refine ⟨fun j hj => ⟨mxRuns ?_, ?_, ?_, ?_, okOf (fun r : List Nat × State => decide (r.1 = []) && !(storingTile j).tooSoon r.2 0) ?_⟩,
    mxRuns (by decide +kernel), by decide +kernel⟩
  all_goals revert j; decide +kernel

def loadingTile (j : Nat) : State := commanded (.load false (tileBytes 1)) true j

theorem meets_MatrixSteps_load : ∀ j ∈ [0, 1],
    (MxRuns (loadingTile j) 0 (team (loadingTile j)) (command (.load false (tileBytes 1)) true j) ∧
      (loadingTile j).forkPending 0 op7 = false) ∧ (Tile.of (tileBytes 1)).trailer = false ∧
      ∃ r, runM (engineGets 3 0 op7 true [(0x400 + 8 * j, 6)]) (loadingTile j) = .ok r ∧
        ((partsReady r.1).isSome && !(loadingTile j).tooSoon r.2 0) = true := by
  intro j hj
  refine ⟨mxRuns ?_, ?_, okOf (fun r : List LoadPart × State => (partsReady r.1).isSome && !(loadingTile j).tooSoon r.2 0) ?_⟩
  all_goals revert j; decide +kernel

/-- A block and a tile that lie on the other device. -/
def farBlock : List Byte := packed 64 [(0, 8, 0x10000), (8, 8, 0x10100), (16, 4, 8 * 256), (20, 4, 8 * 256), (44, 2, 2),
  (46, 2, 3), (48, 4, 4)]
def farTile : List Byte := packed 32 [(0, 8, 0x10000), (8, 4, 8), (12, 2, 2), (14, 2, 3)]
def farRun (k : MxKind) : State := abroad (commanded k true 0)

theorem meets_MatrixSteps_early :
    (∀ k ∈ [MxKind.issue farBlock, .store false farTile 1 0, .load false farTile],
      MxRuns (farRun k) 0 (team (farRun k)) (command k true 0) ∧ (farRun k).forkPending 0 (command k true 0).origin = false) ∧
    (command (.issue farBlock) true 0).starting = false ∧
    ∀ e ∈ [(MxKind.issue farBlock, mxSlice 0 (command (.issue farBlock) true 0)),
        (.store false farTile 1 0, mxStoreRow 0 (command (.store false farTile 1 0) true 0)),
        (.load false farTile, mxLoadRow 0 (command (.load false farTile) true 0))],
      ∃ s1, (runM e.2 (farRun e.1) = .ok ((), s1) ∨ runM e.2 (farRun e.1) = .error (.hold s1)) ∧
        (farRun e.1).tooSoon s1 0 = true := by
  refine ⟨fun k hk => ?_, rfl, fun e he => ?_⟩
  · have h : decide ((farRun k).team? 0 = some (team (farRun k)) ∧ (team (farRun k)).status = .resident ∧
        (team (farRun k)).dying = false ∧ (team (farRun k)).mx.queue.head? = some (command k true 0) ∧
        (farRun k).forkPending 0 op7 = false) = true := by revert k; decide +kernel
    obtain ⟨a, b, c, d, e⟩ := of_decide_eq_true h
    exact ⟨⟨⟨a, b, c⟩, d, rfl, rfl, rfl, rfl⟩, e⟩
  · simp only [List.mem_cons, List.not_mem_nil, or_false] at he
    rcases he with rfl | rfl | rfl <;> exact earlyOf (by decide +kernel)

/-- The heap window of D; a running operation of one entry of four elements that has been read, at a row. -/
def heaped : State := D.setCtx 1 { D.ctx 1 with heap := { hb := 0x80000000, hl := 0x10000, ho := 0x80000000, hkind := 0 } }
def planEntry : List Byte := entryBytes 0 0 0 [4, 1, 1, 1]
def resharding (f : Rsh → Rsh) : State := withRsh heaped fun r =>
  f { r with go := goBytes, src := layoutBytes 0x80000100, dst := layoutBytes 0x80000200, state := 1, plan := some planEntry,
             origin := op7 }

/-- A running operation whose thread has no store pending before it. -/
def runs (f : Rsh → Rsh) : Bool :=
  let s := resharding f
  let R := (team s).rsh
  decide (R.state = 1) && !R.stopAsked && R.sleep.isNone && !s.forkPending 0 R.origin &&
    decide (s.team? 0 = some (team s)) && decide ((team s).status = .resident) && decide ((team s).dying = false)

/-- A row of the operation that has not landed: store 9 is pending. -/
def inFlight (f : Rsh → Rsh) : State :=
  { resharding (fun r => f { r with flight := [⟨0, 3, [9]⟩] }) with stores := [pendingStore op7 9] }

theorem meets_ReshardSteps :
    (runs (fun r => { r with nextEntry := 1 }) = true ∧
      fieldN (team (resharding fun r => { r with nextEntry := 1 })).rsh.go 4 2 ≤ 1 ∧
      (team (resharding fun r => { r with nextEntry := 1 })).rsh.flight = []) ∧
    (OnCore (inFlight fun r => { r with nextEntry := 1 }) 0 (team (inFlight fun r => { r with nextEntry := 1 })) ∧
      (inFlight fun r => { r with nextEntry := 1 }).forkPending 0 op7 = false ∧
      (team (inFlight fun r => { r with nextEntry := 1 })).rsh.flight = [⟨0, 3, [9]⟩] ∧
      (inFlight fun r => { r with nextEntry := 1 }).rowLanded 0 ⟨0, 3, [9]⟩ = false) ∧
    (runs (fun r => { r with nextRow := 1 }) = true ∧ (Entry.of planEntry).rows ≤ 1) ∧
    (runs id = true ∧ (team (resharding id)).rsh.nextEntry.toNat < fieldN (team (resharding id)).rsh.go 4 2 ∧
      (team (resharding id)).rsh.plan = some planEntry ∧
      (team (resharding id)).rsh.nextRow.toNat < (Entry.of planEntry).rows ∧
      ∃ r, runM (pullRow 0 (Entry.of planEntry) 0x80000100 16 .refused 0x80000200) (resharding id) = .ok r ∧
        (match runM (landRow 0 op7 0x80000200 r.1) r.2 with
          | .ok q => !(resharding id).tooSoon q.2 0
          | .error _ => false) = true) ∧
    OnCore (resharding fun r => { r with stopAsked := true }) 0 (team (resharding fun r => { r with stopAsked := true })) ∧
      (team (resharding fun r => { r with stopAsked := true })).rsh.stopAsked = true :=
  ⟨⟨by decide +kernel, by decide +kernel, by decide +kernel⟩,
    ⟨onCore (by decide +kernel), by decide +kernel, by decide +kernel, by decide +kernel⟩,
    ⟨by decide +kernel, by decide +kernel⟩,
    ⟨by decide +kernel, by decide +kernel, by decide +kernel,
      by decide +kernel, okOf (fun r : List Byte × State => match runM (landRow 0 op7 0x80000200 r.1) r.2 with
          | .ok q => !(resharding id).tooSoon q.2 0
          | .error _ => false) (by decide +kernel)⟩,
    onCore (by decide +kernel), by decide +kernel⟩

/-! Events, launches, the fabric and management. -/

def pended (p : Pending) : State := onThread (sp D 0x300 ringBytes) fun h => { h with pend := [p] }

/-- out1 is bound to the ring, and an element waits to be pushed. -/
def pushable : State := onTeam (pended ⟨[223], .ready [7], 0, true, 1, none⟩) fun T =>
  { T with ports := SMap.insert 3 ⟨0x200, 0x1F0, 8, false⟩ T.ports }

/-- The code at the thread's PC moves in0 to g9, the ring holds one element, and the thread is in line for it before
thread 1. -/
def poppable : State :=
  let s := sp (codeAt (Option.getD (encode32 (.mov 9 220)) 0).toNat) 0x1F0 (leBytes 4 0 ++ leBytes 4 1)
  (onThread (onTeam s fun T => { T with ports := SMap.insert 0 ⟨0x200, 0x1F0, 8, false⟩ T.ports }) fun h =>
    { h with wait := some (.port false), places := [(0, 1)] }).modThread 0 1 fun h =>
      { h with wait := some (.port false), places := [(0, 2)] }

theorem meets_Arrivals :
    (∀ n ∈ [0, 3], OnCore (pended ⟨[219], .ready [7], n, true, 0, none⟩) 0 (team (pended ⟨[219], .ready [7], n, true, 0, none⟩)) ∧
      (team (pended ⟨[219], .ready [7], n, true, 0, none⟩)).thread? 0 = some (thread (pended ⟨[219], .ready [7], n, true, 0, none⟩)) ∧
      (thread (pended ⟨[219], .ready [7], n, true, 0, none⟩)).ended = false ∧
      (thread (pended ⟨[219], .ready [7], n, true, 0, none⟩)).pend = [⟨[219], .ready [7], n, true, 0, none⟩]) ∧
    (OnCore pushable 0 (team pushable) ∧ (team pushable).thread? 0 = some (thread pushable) ∧
      (thread pushable).ended = false ∧ (thread pushable).pend = [⟨[outCode true], .ready [7], 0, true, 1, none⟩] ∧
      (∀ j ∈ (team pushable).pushLine true, 1 ≤ j) ∧
      (team pushable).ring? true true = some ⟨0x200, 0x1F0, 8, false⟩ ∧
      pushable.rcStoring 0 ((team pushable).origin (.thread 0)) = false ∧
      ∃ r, ringPush 0 ⟨0x200, 0x1F0, 8, false⟩ 7 none pushable = .ok r ∧
        decide ((r.2.thread? 0 0).map (·.pend) = some (thread pushable).pend) = true) ∧
    OnCore poppable 0 (team poppable) ∧ (team poppable).thread? 0 = some (thread poppable) ∧
      (thread poppable).ended = false ∧ (thread poppable).wait = some (.port false) ∧
      (thread poppable).ticket? false = some 1 ∧
      (∀ j ∈ (team poppable).line false, 1 ≤ j) ∧ (team poppable).ring? false false = some ⟨0x200, 0x1F0, 8, false⟩ ∧
      poppable.rcPending 0 ((team poppable).origin (.thread 0)) = false ∧
      ∃ r, ringPop 0 ⟨0x200, 0x1F0, 8, false⟩ poppable = .ok r ∧ (r.2.thread? 0 0).isSome = true := by
  refine ⟨fun n hn => ⟨onCore ?_, ?_, ?_, ?_⟩,
    ⟨onCore (by decide +kernel), by decide +kernel, by decide +kernel, by decide +kernel, by decide +kernel, by decide +kernel,
      by decide +kernel, okOf (fun r : Unit × State => decide ((r.2.thread? 0 0).map (·.pend) = some (thread pushable).pend)) (by decide +kernel)⟩,
    onCore (by decide +kernel), by decide +kernel, by decide +kernel, by decide +kernel, by decide +kernel, by decide +kernel,
    by decide +kernel, by decide +kernel, okOf (fun r : Word × State => (r.2.thread? 0 0).isSome) (by decide +kernel)⟩
  all_goals revert n; decide +kernel

/-- The thread is at its limit; it holds a trap; its path is 1024 clocks old. -/
def spent : State := onThread D fun h => { h with count := h.limit }
def trapped : State := onThread D fun h => { h with trap := some ⟨Cause.illegal, 0, 0, 0, none⟩ }
def aged : State := { onTeam D fun T => { T with ages := [(0, 0)] } with clock := 1024 }

/-- A chain whose next group is due; a thread that settles; a team all of whose threads have ended. -/
def due : State := onTeam D fun T =>
  { T with chain := some { trip := 4, stages := 2, delta := 0, next := 0, slots := [], seeds := [] } }
def settling : State := onThread D fun h => { h with wait := some (.settle 0) }
def allEnded : State := onTeam D fun T =>
  { T with groups := T.groups.map fun e => (e.1, { e.2 with ended := true }),
           threads := T.threads.map fun e => (e.1, { e.2 with ended := true }) }

/-- The front thread waits at FTWAIT.CLK for clock 0. -/
def clocked : State :=
  onFront { State.reset.placed false true (Option.getD (encode32 (.ftwaitClk 4)) 0).toNat with
    agenda := [], mgmt := { State.reset.mgmt with ready := true } } fun f => { f with wait := some .poll }

/-- The thread at its limit waits for an answer. -/
def spentFar : State := onThread spent fun h => { h with pend := [⟨[9], .remote 4, 2, true, 0, none⟩] }

/-- A team that a fault has ended, with a porch, and with stores pending. -/
def anEntry : PorchEntry := ⟨0x30000, [1], ⟨op7, 0, 1, 0, 0, []⟩, false⟩
def aStoreOf : PendStore := pendingStore op7 9
def dyingWith (rev : Bool) (porch : List PorchEntry) (stores : List PendStore) : State :=
  { onTeam D fun T => { T with dying := true, revocable := rev, porch := porch,
                               fault := some ⟨2, detail 1 0 0 0 0 (whereBytes T (.thread 0)), none⟩ } with stores := stores }

/-- Another team copies into the scratchpad of team 0 through a window. -/
def visited (s : State) : State :=
  { s with nextSeq := 8, teams := s.teams ++ [(1, { team D with
      copies := [(5, { aCopy 0x40 0x100 32 0 none with dstAt := some (⟨0, 0x100, true⟩, 0) })] })] }
def besieged : State := visited (dyingWith false [] [])

theorem meets_ThreadAndTeamEvents :
    (OnCore spent 0 (team spent) ∧ (team spent).thread? 0 = some (thread spent) ∧ (thread spent).ended = false ∧
      (thread spent).wait = none ∧ (thread spent).trap = none ∧ (thread spent).parked = false ∧
      (thread spent).limit ≤ (thread spent).count ∧ (team spent).group? ((team spent).groupIx 0) = some (group spent) ∧
      (thread spent).pend = []) ∧
    (OnCore spentFar 0 (team spentFar) ∧ (team spentFar).thread? 0 = some (thread spentFar) ∧ (thread spentFar).ended = false ∧
      (thread spentFar).wait = none ∧ (thread spentFar).trap = none ∧ (thread spentFar).parked = false ∧
      (thread spentFar).limit ≤ (thread spentFar).count ∧ (thread spentFar).pend = [⟨[9], .remote 4, 2, true, 0, none⟩] ∧
      (⟨[9], .remote 4, 2, true, 0, none⟩ : Pending).isRemote = true) ∧
    (∀ s ∈ [dyingWith true [anEntry] [], dyingWith false [] [{ aStoreOf with commit := true }], dyingWith false [] []],
      s.team? 0 = some (team s) ∧ (team s).dying = true ∧ s.enginesStill (team s) = true ∧ s.pushesOwed 0 (team s) = false ∧
        (s.quitWing 0).peersBusy 0 = false) ∧
    (besieged.team? 0 = some (team besieged) ∧ (team besieged).dying = true ∧ besieged.enginesStill (team besieged) = true ∧
      besieged.pushesOwed 0 (team besieged) = false ∧ (besieged.quitWing 0).peersBusy 0 = true) ∧
    ((dyingWith true [anEntry] []).committing 0 = false ∧
      (dyingWith false [] [{ aStoreOf with commit := true }]).committing 0 = true ∧ (dyingWith false [] []).committing 0 = false) ∧
    (OnCore trapped 0 (team trapped) ∧ (team trapped).thread? 0 = some (thread trapped) ∧ (thread trapped).ended = false ∧
      (thread trapped).trap = some ⟨Cause.illegal, 0, 0, 0, none⟩) ∧
    (OnCore aged 0 (team aged) ∧ (team aged).path 0 0 ≠ [] ∧ 1024 ≤ (team aged).ageOf aged.clock 0 0) ∧
    (OnCore clocked 0 (team clocked) ∧ (team clocked).front = some (front clocked) ∧ (front clocked).ended = false ∧
      (front clocked).wait = some .poll ∧ (∃ r, fetchAt 0 (front clocked).pc clocked = .ok r ∧
        (decide (r.1.2.2 = some (.ftwaitClk 4)) && decide (r.2.team? 0 = some (team clocked)) &&
          decide (r.2.launches = clocked.launches) && decide (r.2.clock = clocked.clock)) = true) ∧
      ∃ L, SMap.find? (team clocked).launch clocked.launches = some L ∧ L.t0 = some 0 ∧
        ((front clocked).reg 4).toNat ≤ clocked.clock - 0) ∧
    (OnCore due 0 (team due) ∧ (∃ L, SMap.find? (team due).launch due.launches = some L) ∧ (team due).chainDue = true) ∧
    (OnCore settling 0 (team settling) ∧ (team settling).thread? 0 = some (thread settling) ∧
      (thread settling).ended = false ∧ (thread settling).wait = some (.settle 0)) ∧
    (OnCore allEnded 0 (team allEnded) ∧ (team allEnded).exited = true ∧ (team allEnded).copies = [] ∧
      (team allEnded).mx.queue = [] ∧ (team allEnded).rsh.state ≠ 1 ∧ (allEnded.quitWing 0).peersBusy 0 = false ∧
      ((team allEnded).revocable = false → (team allEnded).porch = [])) ∧
    (let s := visited allEnded
     OnCore s 0 (team s) ∧ (team s).exited = true ∧ (team s).copies = [] ∧ (team s).mx.queue = [] ∧ (team s).rsh.state ≠ 1 ∧
       (s.quitWing 0).peersBusy 0 = true) ∧
    OnCore D 0 (team D) ∧ (team D).exited = false :=
  ⟨⟨onCore (by decide +kernel), by decide +kernel, by decide +kernel, by decide +kernel, by decide +kernel, by decide +kernel,
      by decide +kernel, by decide +kernel, by decide +kernel⟩,
    ⟨onCore (by decide +kernel), by decide +kernel, by decide +kernel, by decide +kernel, by decide +kernel, by decide +kernel,
      by decide +kernel, by decide +kernel, by decide +kernel⟩,
    by decide +kernel, by decide +kernel, by decide +kernel,
    ⟨onCore (by decide +kernel), by decide +kernel, by decide +kernel, by decide +kernel⟩,
    ⟨onCore (by decide +kernel), by decide +kernel, by decide +kernel⟩,
    ⟨onCore (by decide +kernel), by decide +kernel, by decide +kernel, by decide +kernel,
      okOf (fun r : (Word × Nat × Option Instr) × State => decide (r.1.2.2 = some (.ftwaitClk 4)) &&
        decide (r.2.team? 0 = some (team clocked)) && decide (r.2.launches = clocked.launches) &&
          decide (r.2.clock = clocked.clock)) (by decide +kernel), _, rfl, rfl, by decide +kernel⟩,
    ⟨onCore (by decide +kernel), ⟨_, rfl⟩, by decide +kernel⟩,
    ⟨onCore (by decide +kernel), by decide +kernel, by decide +kernel, by decide +kernel⟩,
    ⟨onCore (by decide +kernel), by decide +kernel, by decide +kernel, by decide +kernel, by decide +kernel,
      by decide +kernel, by decide +kernel⟩,
    ⟨onCore (by decide +kernel), by decide +kernel, by decide +kernel, by decide +kernel, by decide +kernel,
      by decide +kernel⟩,
    onCore (by decide +kernel), by decide +kernel⟩

/-- The one thread of a saved team sleeps on record 2 of context 1, which is free. -/
def asleep : State := onTeam D fun T =>
  { T with status := .saved, threads := [(0, { thread D with wait := some (.record 2 ⟨Cause.translation, 5, 0, 0, none⟩) })] }
def reporting : State := onCtx D fun x => { x with reports := [⟨4, [], none⟩] }
def killed : State := onCtx D fun x => { x with killedBy := [2] }
/-- Thread 0 of the one team waits for a fault record; every record is free. -/
def wanting : State := onTeam D fun T =>
  { T with threads := [(0, { thread D with wait := some (.recordFree 0x5000 1 ⟨Cause.translation, 0x5000, 0, 0, none⟩) })] }
def aStore : PendStore := pendingStore op7 9
def storing : State := { D with stores := [aStore] }
def updating : State := D.setCore 767 { D.core 767 with queue := [(7, 3, 0x55), (1, 2, 0)] }
def retiring : State := D.setCore 767 { D.core 767 with toRetire := [31] }

theorem meets_Records :
    (asleep.recordState 1 2 = 0 ∧ asleep.teams = [(0, team asleep)] ∧ (team asleep).ctx = 1 ∧
      (team asleep).threads = [(0, thread asleep)] ∧ (team asleep).front = none ∧ (team asleep).copies = [] ∧
      (team asleep).mx.queue = [] ∧ (team asleep).status = .saved ∧
      (thread asleep).wait = some (.record 2 ⟨Cause.translation, 5, 0, 0, none⟩)) ∧
    ((reporting.ctx 1).reports = [⟨4, [], none⟩] ∧ reporting.freeRecord 1 = some 0) ∧
    ((killed.ctx 1).killedBy = [2] ∧ killed.stores = [] ∧ killed.remotes = []) ∧
    ((wanting.ctx 1).reports = [] ∧ wanting.teams = [(0, team wanting)] ∧ (team wanting).ctx = 1 ∧
      (team wanting).dying = false ∧ (team wanting).status ≠ .ended ∧ (team wanting).threads = [(0, thread wanting)] ∧
      (thread wanting).wait = some (.recordFree 0x5000 1 ⟨Cause.translation, 0x5000, 0, 0, none⟩) ∧
      (wanting.recordFault 1 0x5000 1).isSome = true) ∧
    (storing.stores = [aStore] ∧ aStore.team = 0) ∧
    ((updating.core 767).queue = [(7, 3, 0x55), (1, 2, 0)] ∧ SMap.find? (8 * 3 + 7) (updating.core 767).perrs = none ∧
      8 * 3 + 7 ∉ (updating.core 767).recompute ∧
      (updating.core 767).parityFailed = false) ∧
    31 ∈ (retiring.core 767).toRetire ∧ SMap.find? 7 (retiring.core 767).retired = none ∧
      ∀ e ∈ (retiring.core 767).queue, e.1 ≠ 7 := by decide +kernel

/-- Launch 0 as the only one, with none of its teams left; one that waits for its translation; a queue that holds an entry. -/
def finished : State := { D with teams := [(0, { team D with status := .ended })] }
def pendingLaunch : State := onLaunch D fun L => { L with pending := true }
def aQueue : Queue := { base := 0x40000, cfg := 0x10001, head := 0, tail := 1, prios := [(0, 0)], wants := none }
def submitting : State := { D with sqs := [(63, aQueue)] }
def aJob (dealt : Nat) (runs : SMap (Nat × Nat)) : Job := ⟨0, 4, 0, 9, dealt, runs⟩
def withJob (dealt : Nat) (runs : SMap (Nat × Nat)) : State :=
  { onLaunch D fun L => { L with job := some (aJob dealt runs) } with mgmt := { D.mgmt with porch := 0 }, clock := 256 }

theorem meets_LaunchesAndJobs :
    (D.mgmt.ready = true ∧ D.mgmt.thermalHalt = false ∧ D.devQueue = []) ∧
    (submitting.nextQueue = some (63, aQueue) ∧ QueueHolds submitting aQueue 0 ∧ submitting.devQueue = [] ∧
      ∃ r, runM (sysRead 1 0 128) { submitting with sqs := SMap.insert 63 aQueue.next submitting.sqs, lastQueue := 63 } = .ok r ∧
        true = true) ∧
    (∃ L, SMap.find? 0 pendingLaunch.launches = some L ∧ L.pending = true ∧ L.complete = false) ∧
    (∃ L, SMap.find? 0 finished.launches = some L ∧ L.pending = false ∧ L.complete = false ∧ L.job = none ∧
      (∀ e ∈ finished.teams, e.2.launch = 0 → e.2.status = .ended) ∧ finished.outstanding 0 = false) ∧
    (∃ L, SMap.find? 0 D.launches = some L ∧ (0, team D) ∈ D.teams ∧ (team D).launch = 0 ∧ (team D).status ≠ .ended) ∧
    (∃ L, SMap.find? 0 (withJob 0 []).launches = some L ∧ L.job = some (aJob 0 []) ∧ L.complete = false ∧
      ((withJob 0 []).ctx L.ctx).live = true ∧ L.pending = false ∧ (SMap.getD (aJob 0 []).runs 767 (0, 0)).2 = 0 ∧
      ((withJob 0 []).core 767).fenced = false ∧ (withJob 0 []).fencedClusters = [] ∧
      (aJob 0 []).stranded (withJob 0 []) = none ∧ (aJob 0 []).dealt < (aJob 0 []).count) ∧
    ∃ L, SMap.find? 0 (withJob 1 [(5, (0, 1))]).launches = some L ∧ L.job = some (aJob 1 [(5, (0, 1))]) ∧
      SMap.getD (aJob 1 [(5, (0, 1))]).runs 5 (0, 0) = (0, 0 + 1) ∧ L.complete = false ∧
      ((withJob 1 [(5, (0, 1))]).ctx L.ctx).live = true ∧ (withJob 1 [(5, (0, 1))]).porchMiB = 0 ∧
      (withJob 1 [(5, (0, 1))]).staggered L = false ∧ (withJob 1 [(5, (0, 1))]).workAhead (0, L) = false ∧
      (withJob 1 [(5, (0, 1))]).fitsAt 5 [] L.record.room = some 0 ∧
      ∃ r, runM (sysRead L.ctx 0 4) (modJob (withJob 1 [(5, (0, 1))]) 0 fun j =>
        { j with runs := SMap.insert 5 (0 + 1, 0) j.runs }) = .ok r ∧ true = true :=
  ⟨by decide +kernel, ⟨by decide +kernel, ⟨by decide +kernel, by decide +kernel, by decide +kernel, by decide +kernel⟩,
      by decide +kernel, okOf (fun _ => true) (by decide +kernel)⟩, ⟨_, rfl, rfl, rfl⟩,
    ⟨_, rfl, rfl, rfl, rfl, by decide +kernel, by decide +kernel⟩, ⟨_, rfl, by decide +kernel, by decide +kernel,
      by decide +kernel⟩,
    ⟨_, rfl, rfl, rfl, by decide +kernel, rfl, by decide +kernel, by decide +kernel, by decide +kernel, by decide +kernel,
      by decide +kernel⟩,
    _, rfl, rfl, by decide +kernel, rfl, by decide +kernel, by decide +kernel, by decide +kernel, by decide +kernel,
      by decide +kernel,
      okOf (fun _ => true) (by decide +kernel)⟩

/-- A team that waits, and one that waits with a higher priority than the team that fills its core's threads. -/
def waiting : State := { onTeam D fun T => { T with status := .waiting, started := false } with clock := 256 }
def restingTeam : State := onThread (onTeam D fun T =>
  { T with status := .resting, threads := [(0, { thread D with parked := true })] }) id

/-- Only core 0 is left, and a waiting team of a higher priority needs all of its scratchpad. -/
def crowded : State :=
  let L := (SMap.find? 0 D.launches).map fun L => { L with record := { L.record with scratch := 262144 }, priority := 1 }
  { D with
    clock := 256, fencedClusters := (List.range 47).map (· + 1),
    cores := (List.range 15).map fun j => (j + 1, { Core.fresh with fenced := true }),
    launches := D.launches ++ L.toList.map fun L => (1, L),
    teams := D.teams ++ [(1, { team waiting with launch := 1, priority := 1, size := 262144 })] }

def teamAt (s : State) (k : Nat) : Team := (s.team? k).getD noTeam

/-- A team of a lower priority waits behind it, and fits. -/
def passing : State := { crowded with teams := crowded.teams ++ [(2, { team waiting with gang := 1, priority := 0, size := 0 })] }

/-- The team of core 0 is being brought to rest for a team that needs all but 4096 bytes. -/
def making : State :=
  let s := passing.modTeam 0 fun T => { T with status := .resting, base := 8192 }
  let s := s.modTeam 1 fun T => { T with size := 258048 }
  { s with launches := SMap.modify 1 (fun L => { L with record := { L.record with scratch := 258048 } }) s.launches }

theorem placeIn_none {s : State} {gone keep : List Nat} {e : Nat × Team} {es : List (Nat × Team)} {cl : Nat}
    (h : ∀ j < 16, s.fitsAt (16 * cl + j) gone (s.roomOf e.2) = none) : s.placeIn gone keep (e :: es) cl = none := by
  have k : (List.range 16).findSome? (fun j => if keep.contains (16 * cl + j) then none else
      (s.fitsAt (16 * cl + j) gone (s.roomOf e.2)).map fun b => (16 * cl + j, b)) = none :=
    List.findSome?_eq_none_iff.mpr fun j hj => by rw [h j (List.mem_range.mp hj)]; simp
  unfold State.placeIn
  split
  · rfl
  · simp only [State.assign]; rw [k]; rfl

/-- No core of crowded takes the unit that waits. -/
theorem crowded_fits_nowhere : ∀ u ∈ crowded.waitingUnits, ∀ keep, ∀ cl < 48, ∀ at_, crowded.placeIn [] keep u cl = some at_ →
    crowded.unitKeepsRoom u at_ = false := by
  have e : crowded.waitingUnits = [[(1, teamAt crowded 1)]] := by decide +kernel
  have k : ∀ cl < 48, ∀ j < 16, crowded.fitsAt (16 * cl + j) [] (crowded.roomOf (teamAt crowded 1)) = none := by decide +kernel
  rw [e]
  intro u hu keep cl hc at_ h
  rw [List.mem_singleton.mp hu, placeIn_none (e := (1, teamAt crowded 1)) (es := []) fun j hj => k cl hc j hj] at h
  cases h

/-- Core 1 has 8192 bytes left, which a waiting unit of lower priority takes, for on core 0 it would take room that is being
made. -/
def detour : State :=
  let s := making.modTeam 2 fun T => { T with size := 8192 }
  { s with cores := s.cores.filter (·.1 != 1),
           teams := s.teams ++ [(3, { team D with core := 1, gang := 2, size := 253952 })] }

theorem meets_Placement_elsewhere :
    detour.waitingUnits = [[(1, teamAt detour 1)], [(2, teamAt detour 2)]] ∧ detour.placeOf [] [(1, teamAt detour 1)] = none ∧
    (detour.placeOf [] [(2, teamAt detour 2)]).any (fun p => !detour.unitKeepsRoom [(2, teamAt detour 2)] p) = true ∧
    detour.elsewhere [(2, teamAt detour 2)] = some [(1, 253952)] ∧
    detour.jobAhead (teamAt detour 2).priority (teamAt detour 2).launch = false := by decide +kernel

theorem meets_Placement :
    (waiting.waitingUnits = [[(0, team waiting)]] ∧ (waiting.placeOf [] [(0, team waiting)]).isSome = true ∧
      waiting.jobAhead (team waiting).priority (team waiting).launch = false ∧ waiting.resting = [] ∧
      ∀ x ∈ waiting.launches, waiting.jobDue x.2 = none) ∧
    (making.resting ≠ [] ∧ making.waitingUnits = [[(1, teamAt making 1)], [(2, teamAt making 2)]] ∧
      making.placeOf [] [(1, teamAt making 1)] = none ∧
      (making.placeOf [] [(2, teamAt making 2)]).any (making.unitKeepsRoom [(2, teamAt making 2)]) = true ∧
      making.jobAhead (teamAt making 2).priority (teamAt making 2).launch = false) ∧
    (∀ u ∈ crowded.waitingUnits, ∀ keep, ∀ cl < 48, ∀ at_, crowded.placeIn [] keep u cl = some at_ →
      crowded.unitKeepsRoom u at_ = false) ∧
    (passing.waitingUnits = [[(1, teamAt passing 1)], [(2, teamAt passing 2)]] ∧ passing.placeOf [] [(1, teamAt passing 1)] = none ∧
      (passing.placeOf [] [(2, teamAt passing 2)]).isSome = true ∧
      passing.jobAhead (teamAt passing 2).priority (teamAt passing 2).launch = false ∧ passing.resting = [] ∧
      ∀ x ∈ passing.launches, passing.jobDue x.2 = none) ∧
    (crowded.waitingUnits = [[(1, teamAt crowded 1)]] ∧ crowded.placeOf [] [(1, teamAt crowded 1)] = none) ∧
    D.waitingUnits = [] ∧
    (∃ L, SMap.find? 0 waiting.launches = some L ∧ waiting.staggered L = false) ∧
    (∃ L, SMap.find? 0 D.launches = some L ∧ ({ D with clock := 255 } : State).staggered L = true) ∧
    crowded.victims = some [0] ∧ D.victims = none ∧
    (restingTeam.team? 0 = some (team restingTeam) ∧ (team restingTeam).status = .resting ∧
      restingTeam.canSave 0 (team restingTeam) = true ∧ (team restingTeam).front = none ∧
      sound restingTeam (team restingTeam) = true ∧ (team restingTeam).rsh.state ≠ 1) ∧
    D.team? 0 = some (team D) ∧ D.canSave 0 (team D) = false :=
  ⟨by decide +kernel, by decide +kernel, crowded_fits_nowhere, by decide +kernel, by decide +kernel,
    by decide +kernel, ⟨_, rfl, by decide +kernel⟩, ⟨_, rfl, by decide +kernel⟩, by decide +kernel,
    by decide +kernel, by decide +kernel, by decide +kernel, by decide +kernel⟩

/-- A request of team 0 for its thread or for operation 7, in flight at port 0 since clock 0, or held there. -/
def request4 (agent : Nat) (op : RemoteOp) (sent : Bool) : Remote :=
  { ctx := 1, team := 0, agent := agent, launch := 0, core := 0, origin := if agent = 0 then ⟨.thread 0, none, none⟩ else op7,
    seq := 5, dev := 5, port := 0, addr := 0x777, op := op, budget := 9, sent := sent, since := 0 }
def remoting (s : State) (r : Remote) : State := { s with remotes := [(4, r)] }

/-- Its request, context and team are there. -/
def remote (s : State) (r : Remote) : Bool :=
  decide (SMap.find? 4 s.remotes = some r) && (s.ctx r.ctx).live && decide (s.team? r.team = some (team s)) &&
    decide ((team s).thread? 0 = some (thread s)) && !(thread s).ended

def storing4 (sent : Bool) (clock : Nat) : State := remoting { D with clock := clock } (request4 0 (.store [1]) sent)
def loading4 : State := remoting (onThread D fun h =>
  { h with wait := some (.load (.ld 9 10 3 4 0) 0x55 0x770 [.bytes [1, 2], .asked 4]) }) (request4 0 (.load 2) true)
def atomic4 : State := remoting (onThread D fun h => { h with pend := [⟨[9], .remote 4, 2, true, 0, none⟩] })
  (request4 0 (.atomic 0 7) true)

/-- A copy that asks, or writes, with a barrier and without. -/
def remoteCopy (b : Option Nat) (parts : List LoadPart) (out : List Nat) : Copy :=
  { aCopy 0x40 0x100 32 16 none with kind := .g2g, srcAt := none, dstAt := none, barrier := b, parts := parts, out := out }
def copying4 (op : RemoteOp) (b : Option Nat) (parts : List LoadPart) (out : List Nat) : State :=
  let s := withCopy (remoteCopy b parts out)
  remoting (onTeam s fun T => { T with copies := [(5, remoteCopy b parts out)] }) (request4 2 op true)

def remoteCommand (b : Option Nat) (parts : List LoadPart) : MxCmd :=
  { command (.load false (tileBytes 1)) true 0 with barrier := b, parts := parts }
def matrix4 (b : Option Nat) (parts : List LoadPart) : State :=
  remoting (onTeam X fun T => { T with mx := { T.mx with queue := [remoteCommand b parts] } }) (request4 3 (.load 6) true)

theorem meets_Fabric_answers :
    (∀ e ∈ [(true, 0), (false, 513)], remote (storing4 e.1 e.2) (request4 0 (.store [1]) e.1) = true) ∧
    ((request4 0 (.store [1]) false).budget.toNat ≤ ((storing4 false 513).clock - 0 + 63) / 64) ∧
    (remote loading4 (request4 0 (.load 2) true) = true ∧
      (thread loading4).wait = some (.load (.ld 9 10 3 4 0) 0x55 0x770 [.bytes [1, 2], .asked 4]) ∧
      partsReady (([.bytes [1, 2], .asked 4] : List LoadPart).map (LoadPart.answer 4 (padTo 2 [3, 4]))) = some [1, 2, 3, 4] ∧
      partsBad (([.bytes [1, 2], .asked 4] : List LoadPart).map (LoadPart.answer 4 (padTo 2 [3, 4]))) = none ∧
      ∀ e ∈ loadDest 9 4, e.toNat < 220) ∧
    (remote atomic4 (request4 0 (.atomic 0 7) true) = true ∧ (thread atomic4).pend = [⟨[9], .remote 4, 2, true, 0, none⟩]) ∧
    (let s := copying4 (.load 16) (some 3) [.asked 4] []
     remote s (request4 2 (.load 16) true) = true ∧ (team s).copies = [(5, remoteCopy (some 3) [.asked 4] [])]) ∧
    (let s := copying4 (.store [1]) (some 3) [.bytes [1]] [4]
     remote s (request4 2 (.store [1]) true) = true ∧ (team s).copies = [(5, remoteCopy (some 3) [.bytes [1]] [4])]) ∧
    (∀ b ∈ [some 3, none], let s := copying4 (.load 16) b [.asked 4] []
      remote s (request4 2 (.load 16) true) = true ∧ (team s).copies = [(5, remoteCopy b [.asked 4] [])]) ∧
    (∀ b ∈ [some 3, none], let s := matrix4 b [.asked 4]
      remote s (request4 3 (.load 6) true) = true ∧ (team s).mx.queue = [remoteCommand b [.asked 4]]) ∧
    (request4 0 (.store [1]) false).sent = false ∧
    ((storing4 false 512).clock - 0 + 63) / 64 < (request4 0 (.store [1]) false).budget.toNat := by decide +kernel

def asks (ctx : BitVec 12) (budget : BitVec 24) (op : InboundOp) (addr : Word64) : InboundRequest :=
  { dev := 3, ctx := ctx, budget := budget, addr := addr, op := op }

/-- A live context with a heap window, and no more; the same with one bank held, which is that of the byte at the start of the heap window. -/
def lean : State := State.reset.setCtx 1 { Context.fresh with live := true, heap := { hb := 0x80000000, hl := 0x10000, ho := 0x80000000, hkind := 0 } }
def bankBusy : State := { lean with heldBanks := [(hbmStack 0x100000000, Config.bankAt 0x100000000, 0)] }

theorem bank_at : HeapAt bankBusy 1 0x80000000 4 0x100000000 := heapAt (by decide +kernel)

theorem bank_waits : runM (serveRequest (asks 1 9 (.load 4) 0x80000000)) bankBusy = .error .retry := by
  have k (v : BitVec 2) : bankBusy.bankHeld ⟨0x80000000, 4, .phys 0x100000000, v⟩ = true := by
    simp [State.bankHeld, bankBusy, show lean.clock = 0 from rfl, hbmEnd, alertHold]
  show serveRequest _ _ = _
  unfold serveRequest
  have e := checkGlobal_heap (need := ⟨true, false, false⟩) accLoad bank_at rfl
  simp only [asks, opSize, opNeeds, opBit, M.bind_apply]
  erw [e]
  simp [Part.isRemote, k]

/-- Every fault record of context 1 is in use, for page 0. -/
def allRecords : State := onCtx { D with mem := (List.range 64).foldl (fun m i => writeByte m (0x40000 + 64 * i + 16) 1) D.mem }
  fun x => { x with frbase := 0x40000 }

theorem meets_Fabric_requests :
    State.reset.mgmt.ready = false ∧ D.mgmt.ready = true ∧ (asks 1 0 (.load 4) 8).budget = 0 ∧
    ((asks 7 9 (.load 4) 8).budget ≠ 0 ∧ D.inbound = [] ∧ (D.ctx (asks 7 9 (.load 4) 8).ctx.toNat).live = false) ∧
    ((asks 1 9 (.load 4) 8).budget ≠ 0 ∧ (D.ctx 1).live = true ∧ 1 ∉ D.fencedCtxs) ∧
    (∃ e q, (e, q) ∈ ({ D with inbound := [(6, ⟨asks 1 9 (.load 4) 8, 0, none⟩)] } : State).inbound ∧ q.req.dev = 3) ∧
    (∀ op ∈ [InboundOp.load 4, .store [1, 2], .atomic 0 5], ∃ r, runM (serveRequest (asks 1 9 op 0x80000010)) heaped = .ok r ∧
      true = true) ∧
    (∃ c a, runM (serveRequest (asks 1 9 (.atomic 0 5) 0x80000011)) heaped = .error (.trap c a) ∧ c ≠ Cause.reconstruction ∧
      c ≠ Cause.uncorrectable) ∧
    (∃ a b s1 n, runM (serveRequest (asks 1 9 (.load 4) 0x12340000)) D = .error (.page a b) ∧
      D.recordFault 1 a (opBit (.load 4)) = some (s1, n)) ∧
    (∃ a b, runM (serveRequest (asks 1 9 (.load 4) 0x12340000)) allRecords = .error (.page a b) ∧
      allRecords.recordFault 1 a (opBit (.load 4)) = none) ∧
    runM (serveRequest (asks 1 9 (.load 4) 0x80000000)) bankBusy = .error .retry ∧
    (∀ e ∈ D.remotes, e.2.port = 17 → e.2.sent = true) ∧
    ((remoting D (request4 0 (.store [1]) false)).remotes = [(4, request4 0 (.store [1]) false)] ∧
      (D.clock - 0 + 63) / 64 < (request4 0 (.store [1]) false).budget.toNat) := by
  refine ⟨by decide +kernel, by decide +kernel, by decide +kernel, by decide +kernel, by decide +kernel,
    ⟨_, _, .head _, rfl⟩, fun op ho => okOf (fun _ => true) ?_, trapOf (by decide +kernel), ?_, ?_, ?_, by decide +kernel,
    by decide +kernel⟩
  · revert op; decide +kernel
  · have h : (match runM (serveRequest (asks 1 9 (.load 4) 0x12340000)) D with
      | .error (.page a _) => (D.recordFault 1 a (opBit (.load 4))).isSome
      | _ => false) = true := by decide +kernel
    split at h
    · next a b e =>
      obtain ⟨⟨s1, n⟩, k⟩ := Option.isSome_iff_exists.mp h
      exact ⟨a, b, s1, n, e, k⟩
    · cases h
  · have h : (match runM (serveRequest (asks 1 9 (.load 4) 0x12340000)) allRecords with
      | .error (.page a _) => decide (allRecords.recordFault 1 a (opBit (.load 4)) = none)
      | _ => false) = true := by decide +kernel
    split at h
    · next a b e => exact ⟨a, b, e, of_decide_eq_true h⟩
    · cases h
  · exact bank_waits

/-- A collective on 32-bit integers in the heap window: an operation of members whose first is device 0, with flags. -/
def collBytes (op flags size : Nat) : List Byte := packed 64 [(0, 1, op), (1, 1, 3), (2, 1, flags), (8, 4, 4), (12, 4, size),
  (20, 4, 1), (32, 8, 0x80000000), (40, 8, 0x80000040), (48, 8, 0x80000080)]
def aColl (op flags size chunk : Nat) (nf failed : Bool) (prio : BitVec 8) : Collective :=
  ⟨1, collBytes op flags size, prio, chunk, nf, failed, if flags = 1 then List.replicate (16 * chunk) 1 else [], none⟩
def collecting (x : Collective) : State := { heaped with collectives := [(2, x)] }

/-- An urgent collective can move, or can not, beside another. -/
def contending (chunk : Nat) : State :=
  { heaped with collectives := [(2, aColl 0 0 1 0 false false 0), (3, aColl 0 0 1 chunk false false 9)] }

/-- What another member contributes to a chunk. -/
def peer (failed : Bool) : PeerContribution := ⟨1, failed, leBytes 4 7 ++ leBytes 4 8 ++ leBytes 4 9 ++ leBytes 4 10, true⟩

theorem heapSpan {s : State} {ctx x n : Nat} (h : (runsOf x n).all (fun r => decide ((s.ctx ctx).heldHeap = [] ∧
    canonical r.1 = true ∧ (s.ctx ctx).heap.hb.toNat ≤ r.1 ∧
    r.1 + r.2 ≤ min ((s.ctx ctx).heap.hb.toNat + (s.ctx ctx).heap.hl.toNat) (2 ^ 64) ∧
    s.heapPa ctx r.1 = (r.1 + (s.ctx ctx).heap.ho.toNat) % 2 ^ 64 ∧ s.rangeOk (s.heapPa ctx r.1) r.2 = true ∧
    s.badMem = [])) = true) : HeapSpan s ctx x n := fun r hr => heapAt (List.all_eq_true.mp h r hr)

theorem plainSpan {s : State} {ctx x n : Nat} (k : HeapSpan s ctx x n) (h : (runsOf x n).all (fun r =>
    decide (s.doorbellWords (s.heapPa ctx r.1) r.2 = [] ∧ s.inRegisters (s.heapPa ctx r.1) r.2 = false)) = true) :
    PlainSpan s ctx x n := ⟨k, fun r hr => of_decide_eq_true (List.all_eq_true.mp h r hr)⟩

/-- A collective whose buffers lie on no page. -/
def farColl : List Byte := packed 64 [(1, 1, 3), (8, 4, 4), (12, 4, 1), (32, 8, 0x12340000)]

theorem pageOf {α : Type} {m : Except Stop α} (h : (match m with
    | .error (.page _ _) => true
    | _ => false) = true) : ∃ a b, m = .error (.page a b) ∧ true = true := by
  split at h
  · exact ⟨_, _, rfl, rfl⟩
  · cases h

theorem meets_Collectives :
    D.mgmt.ready = true ∧
    (Collective.ahead (3, aColl 0 0 1 0 false false 9) (2, aColl 0 0 1 0 false false 0) = true ∧
      ((contending 0).chunkNow 3 []).isSome = true) ∧
    (∀ e ∈ (contending 1).collectives, Collective.ahead e (2, aColl 0 0 1 0 false false 0) = true →
      (contending 1).chunkNow e.1 [] = none) ∧
    (∀ o ∈ [(0, 0, 1), (0, 1, 1), (0, 1, 2), (1, 0, 2), (2, 0, 2), (3, 0, 2)],
      let x := aColl o.1 o.2.1 o.2.2 0 false false 0
      let s := collecting x
      let c := Coll.of x.desc
      SMap.find? 2 s.collectives = some x ∧ (∀ e ∈ s.collectives, Collective.ahead e (2, x) = false) ∧
        c.member? s.mgmt.devid.toNat = some 0 ∧ x.chunk < c.chunks ∧
        (∀ p ∈ (if o.2.2 = 1 then [] else [peer false]), p.failed = false) ∧
        HeapSpan s x.ctx (c.send + (c.ownRun 0 0 (min 65536 c.total)).1) (c.ownRun 0 0 (min 65536 c.total)).2 ∧
        (∀ r ∈ c.otherRuns 0 0 (min 65536 c.total), HeapSpan s x.ctx (c.send + r.1) r.2) ∧
        ∃ xs, c.contributions 0 (s.spanBytes x.ctx (c.send + (c.ownRun 0 0 (min 65536 c.total)).1)
            (c.ownRun 0 0 (min 65536 c.total)).2) (if o.2.2 = 1 then [] else [peer false]) = some xs ∧
          PlainSpan s x.ctx c.recv (c.result 0 (min 65536 c.total) xs).1.length) ∧
    (peer true).failed = true ∧
    (let x := aColl 0 0 1 1 false false 0
     SMap.find? 2 (collecting x).collectives = some x ∧
       (∀ e ∈ (collecting x).collectives, Collective.ahead e (2, x) = true → (collecting x).chunkNow e.1 [] = none) ∧
       (Coll.of x.desc).member? (collecting x).mgmt.devid.toNat = some 0 ∧ x.failed = false ∧ (Coll.of x.desc).chunks ≤ x.chunk) ∧
    (∀ op ∈ [(0, 0), (1, 1)], let x := { aColl 0 op.1 1 op.2 false false 0 with wants := some 0x12340000 }
      SMap.find? 2 (collecting x).collectives = some x ∧ (∀ e ∈ (collecting x).collectives, Collective.ahead e (2, x) = false) ∧
        (op.2 = 0 → x.chunk < (Coll.of x.desc).chunks) ∧ (op.2 = 1 → (Coll.of x.desc).chunks ≤ x.chunk ∧
          (Coll.of x.desc).skips = true ∧ ((collecting x).recordFault x.ctx 0x12340000 accEngine).isSome = true)) ∧
    (∃ a b, runM (chunkStep 2 { aColl 0 0 1 0 false false 0 with desc := farColl } (Coll.of farColl) 0 []) heaped =
      .error (.page a b) ∧ true = true) ∧
    (∃ c a, runM (chunkStep 2 { aColl 0 0 1 0 false false 0 with desc := packed 64 [(1, 1, 3), (8, 4, 4), (12, 4, 1),
        (32, 8, 2 ^ 62)] } (Coll.of (packed 64 [(1, 1, 3), (8, 4, 4), (12, 4, 1), (32, 8, 2 ^ 62)])) 0 []) heaped =
      .error (.trap c a) ∧ c ≠ Cause.reconstruction ∧ c ≠ Cause.uncorrectable) ∧
    ((Coll.of (collBytes 0 0 2)).op < 2 ∧ (Coll.of (collBytes 3 0 2)).op = 3 ∧ (Coll.of (collBytes 2 0 2)).op = 2 ∧
      (Coll.of (collBytes 3 0 2)).type = 3 ∧ ([(0, [1, 2])] : List (Nat × List Byte)).find? (fun y => y.1 ==
        (Coll.of (collBytes 3 0 2)).root) = some ((Coll.of (collBytes 3 0 2)).root, [1, 2])) ∧
    (SMap.find? 2 (collecting (aColl 0 0 1 0 true true 0)).collectives = some (aColl 0 0 1 0 true true 0)) ∧
    (∀ nf ∈ [true, false], ∀ fl ∈ [0, 1], let x := aColl 0 fl 1 1 nf false 0
      SMap.find? 2 (collecting x).collectives = some x ∧ (Coll.of x.desc).chunks ≤ x.chunk ∧
        (Coll.of x.desc).skips = (fl == 1) ∧ PlainSpan (collecting x) x.ctx (Coll.of x.desc).recv x.out.length) := by
  refine ⟨rfl, by decide +kernel, by decide +kernel, fun o ho => ⟨?_, ?_, ?_, ?_, ?_, heapSpan ?_,
      ?_, ?_⟩, rfl, by decide +kernel, by decide +kernel, pageOf (by decide +kernel),
    trapOf (by decide +kernel), by decide +kernel, by decide +kernel,
    fun nf hn fl hf => ⟨?_, ?_, ?_, plainSpan (heapSpan ?_) ?_⟩⟩
  case refine_7 =>
    simp only [List.mem_cons, List.not_mem_nil, or_false] at ho
    rcases ho with rfl | rfl | rfl | rfl | rfl | rfl <;> intro r hr <;> exact heapSpan (by revert r; decide +kernel)
  case refine_8 =>
    simp only [List.mem_cons, List.not_mem_nil, or_false] at ho
    rcases ho with rfl | rfl | rfl | rfl | rfl | rfl <;>
      exact ⟨_, rfl, plainSpan (heapSpan (by decide +kernel)) (by decide +kernel)⟩
  all_goals first | (revert o) | (revert nf fl)
  all_goals decide +kernel

/-- A host descriptor of `m` bytes at an address, in a direction, with its reserved bytes. -/
def hostCopy (pa m dir rsv : Nat) : HostDescriptor :=
  ⟨leBytes 8 0 ++ leBytes 8 pa ++ leBytes 4 m ++ leBytes 1 dir ++ leBytes 11 rsv, [1, 2, 3]⟩

theorem meets_HostAccesses :
    D.mgmt.ready = true ∧ State.reset.mgmt.ready = false ∧ D.badMem = [] ∧
    (∀ d ∈ [0, 1], fieldN (hostCopy 0x30000 8 d 0).raw 16 4 ≠ 0 ∧
      D.spanOk (fieldN (hostCopy 0x30000 8 d 0).raw 8 8) (fieldN (hostCopy 0x30000 8 d 0).raw 16 4) = true ∧
      fieldN (hostCopy 0x30000 8 d 0).raw 20 1 = d ∧ fieldN (hostCopy 0x30000 8 d 0).raw 21 11 = 0) ∧
    (fieldN (hostCopy 0 0 0 0).raw 16 4 = 0 ∧ 1 < fieldN (hostCopy 0 8 2 0).raw 20 1 ∧
      fieldN (hostCopy 0 8 0 (2 ^ 87)).raw 21 11 ≠ 0 ∧ D.spanOk (fieldN (hostCopy (2 ^ 60) 8 0 0).raw 8 8) 8 = false) ∧
    D.spanOk (D.mgmt.aperture.toNat + 0x40 % 2 ^ 36) 3 = true ∧ ∀ i < 3, D.physOk (D.mgmt.aperture.toNat + 0x40 % 2 ^ 36 + i) = true := by
  decide +kernel

/-- The filter of channel 2 knows an address. -/
def filtered : State := { D with mgmt := { D.mgmt with linden := [(2, lindenBits 0x1234)] } }
def calm : State := { D with launches := D.launches.map fun e => (e.1, { e.2 with complete := true }) }

theorem meets_Conditions :
    (3, 4) ∉ D.heldBanks ∧ D.inbound = [] ∧
    ((∀ i ∈ lindenBits 0x1234, i ∈ SMap.getD filtered.mgmt.linden (2 : BitVec 3).toNat []) ∧
      filtered.mgmt.cerepeat ≠ 0xFFFFFFFF) ∧
    (∃ i ∈ lindenBits 0x1234, i ∉ SMap.getD D.mgmt.linden (2 : BitVec 3).toNat []) ∧
    max 300 (min 1500 D.mgmt.powerlim.toNat) < 1501 ∧ 1500 ≤ max 300 (min 1500 D.mgmt.powerlim.toNat) ∧
    4 < 5 ∧ 95 < (96 : BitVec 8).toNat ∧ (105 : BitVec 8).toNat ≤ 105 ∧ (95 : BitVec 8).toNat ≤ 95 ∧
    105 < (106 : BitVec 8).toNat ∧ SMap.sorted calm.ctxs = true ∧ (∀ L ∈ calm.launches, L.2.complete = true) ∧
    calm.collectives = [] := by decide +kernel

theorem meets_Management :
    (D.mgmt.ready = true ∧ D.attest.busy = false ∧ D.attest.leaf < 2 ^ 20) ∧ State.reset.mgmt.ready = false ∧
    ({ D.attest with busy := true } : Attest).busy = true ∧ 2 ^ 20 ≤ ({ D.attest with leaf := 2 ^ 20 } : Attest).leaf ∧
    (1 : BitVec 64).getLsbD 0 = true ∧ (0 : BitVec 64).getLsbD 0 = false ∧
    (767 < 768 ∧ SMap.find? 7 (D.core 767).retired = none ∧ (D.core 767).toRetire ++ (D.core 767).asked = []) ∧
    (D.ctx (5 : BitVec 12).toNat).live = false ∧
    (SMap.find? 7 ({ D.core 767 with retired := [(7, 31)] } : Core).retired).isSome = true ∧
    ((17 * 2 ^ 17 + 5 : BitVec 64).extractLsb' 17 5).toNat ≤ 17 ∧ (D.ctx (1 : BitVec 12).toNat).live = true ∧
    (D.mgmt.xstbase ≠ (0x10000 : Word64) &&& 0x00007FFFFFFF0000 ∧ SMap.sorted emulated.xlats = true) ∧
    D.mgmt.contextMade = false ∧ ({ D.mgmt with contextMade := true } : Mgmt).contextMade = true ∧
    (∀ e ∈ ({ D with teams := [] } : State).teams, e.2.status ≠ .resident ∧ e.2.status ≠ .resting) ∧
    (∃ e ∈ D.teams, e.2.status = .resident) ∧ 0x200 ≤ (0x200 : BitVec 16).toNat ∧ (0x11FF : BitVec 16).toNat < 0x1200 ∧
    D.firmware.fault = none ∧ ({ D.firmware with signed := false } : Firmware).signed = false ∧
    ({ D.firmware with key := 1 } : Firmware).key ≠ D.firmware.fusedKey ∧
    D.firmware.version < ({ D.firmware with fusedVersion := 1 } : Firmware).fusedVersion := by decide +kernel

/-! ### The whole machine -/

/-- The bundle of thread 0, and the front thread, move next. -/
def turnThread : State := { D with agenda := [.bundle 0 [0]], cur := none }
def turnFront : State := { F with agenda := [.front 0], cur := none }

theorem meets_StepRunsTheDecodedInstruction :
    (turnThread.team? 0 = some (team turnThread) ∧ (team turnThread).status = .resident ∧ (team turnThread).dying = false ∧
      turnThread.agenda = [.bundle 0 [0]] ∧ (team turnThread).thread? 0 = some (thread turnThread) ∧
      (thread turnThread).ready = true ∧
      ∃ r, fetchAt 0 (thread turnThread).pc (({ turnThread with agenda := [] } : State).modTeam 0
        (·.issued [0])) = .ok r ∧ decide (r.1 = (0x27D, 4, some .land)) = true) ∧
    (turnFront.team? 0 = some (team turnFront) ∧ (team turnFront).status = .resident ∧ (team turnFront).dying = false ∧
      turnFront.agenda = [.front 0] ∧ (team turnFront).front = some (front turnFront) ∧ (front turnFront).ready = true ∧
      ∃ r, fetchAt 0 (front turnFront).pc { turnFront with agenda := [] } = .ok r ∧
        decide (r.1 = (0x27D, 4, some .land)) = true) ∧
    (D.xlatOf (team D) = none ∧ ∃ r, fetchHalf 0 0 D = .ok r ∧ (decide (r.1 = 0x27D) &&
      match fetchHalf 0 2 r.2 with
        | .ok q => decide (q.1 = 0) && decide (q.2.xlatOf (team D) = none) && decide (q.2.team? 0 = some (team D))
        | .error _ => false) = true) ∧
    decode32 0x27D = some .land ∧
    (D.heldBanks = [] ∧ (∀ e ∈ D.cqs, e.2.head = e.2.tail) ∧
      ∀ e ∈ D.cores, e.2.asked = [] ∧ e.2.toRetire = [] ∧ e.2.parityBad = []) ∧
    (∃ r, fetchHalf 0 0 (codeAt 0) = .ok r ∧ (decide (r.1 = 0) && decide (r.2.xlatOf (team D) = none)) = true) ∧
    decode16 0 = some (.movCompact 0 0) :=
  ⟨⟨by decide +kernel, by decide +kernel, by decide +kernel, rfl, by decide +kernel, by decide +kernel,
      okOf (fun r : (Word × Nat × Option Instr) × State => decide (r.1 = (0x27D, 4, some .land))) (by decide +kernel)⟩,
    ⟨by decide +kernel, by decide +kernel, by decide +kernel, rfl, by decide +kernel, by decide +kernel,
      okOf (fun r : (Word × Nat × Option Instr) × State => decide (r.1 = (0x27D, 4, some .land))) (by decide +kernel)⟩,
    ⟨by decide +kernel, okOf (fun r : Half × State => decide (r.1 = 0x27D) &&
      match fetchHalf 0 2 r.2 with
        | .ok q => decide (q.1 = 0) && decide (q.2.xlatOf (team D) = none) && decide (q.2.team? 0 = some (team D))
        | .error _ => false) (by decide +kernel)⟩,
    by decide +kernel, by decide +kernel,
    okOf (fun r : Half × State => decide (r.1 = 0) && decide (r.2.xlatOf (team D) = none)) (by decide +kernel),
    by decide +kernel⟩

/-- A translation of one segment of one instruction and its successor. -/
def translated : State :=
  { emulated with xlats := emulated.xlats.map fun e => (e.1, { e.2 with segs := 1, body := packed 36 [(16, 4, 24), (20, 2, 1), (24, 4, 0x27D)] }) }

theorem meets_FetchReadsCode :
    (D.xlatOf (team D) = none ∧ (D.ctx (team D).ctx).heldHeap = [] ∧ (D.ctx (team D).ctx).heldPtbase = [] ∧
      (D.ctx (team D).ctx).heap.hl = 0 ∧ canonical (thread D).pc.toNat = true ∧ (thread D).pc.toNat % 2 = 0 ∧
      D.cached (team D).ctx (thread D).pc.toNat = none ∧ D.badMem = [] ∧ D.fetched = [] ∧
      (match D.walk (D.ctx (team D).ctx).ptbase (thread D).pc.toNat with
        | .page e large =>
          match usePage D (D.ctx (team D).ctx).privileged ⟨false, false, true⟩ (thread D).pc.toNat 2 e large with
            | some p => !p.isRemote
            | none => false
        | _ => false) = true) ∧
    ∃ x, translated.xlatOf (team translated) = some x ∧ x.at? (x.base + 4) = some (0, 0, 0) ∧
      (x.base + 4 - x.base).getLsbD 1 = false ∧ 0 ≠ (x.seg 0).2 ∧ x.at? (x.base + 8) = some (0, 1, 0) ∧
      (x.base + 8 - x.base).getLsbD 1 = false ∧ 1 = (x.seg 0).2 :=
  ⟨by decide +kernel, _, rfl, by decide +kernel⟩

theorem meets_DecodingInvertsEncoding :
    (∀ i ∈ [Instr.ld 219 219 15 6 2, .movi 63 31, .yld 15 14], i.wf = true ∧ isStep i = false ∧ isSucc i = false) ∧
    isSucc (.succSw 255 [0, 0xFFFFFF]) = true ∧ (1 ≤ [0, 0xFFFFFF].length ∧ [0, 0xFFFFFF].length < 2 ^ 16) := by
  decide +kernel

theorem meets_MemoryKeepsItsForm : turnThread.MemOk ∧ ∃ s', step turnThread = .next s' := by
  refine ⟨by unfold State.MemOk; decide +kernel, ?_⟩
  have h : (match step turnThread with
    | .next _ => true
    | _ => false) = true := by decide +kernel
  split at h
  · next s' e => exact ⟨s', e⟩
  · cases h

theorem meets_GroupArguments : ∃ G, (Team.create 0 ⟨0, placedRecord false, 0, 0, none, false, [], [], none, 0, none, false, false⟩
    (0, 0) 0 0 0 0 [1, 2, 3] 0x123456789 12).group? 0 = some G := ⟨_, rfl⟩

theorem meets_FrameOfResults : D.team? C.team = some (team D) ∧ SMap.sorted (thread A).g = true := by decide +kernel

theorem meets_FrameOfStores :
    (∃ T G h s', Solo M (.stl 4 8 0 4 0) C 0 T G h ∧ OwnLocal M T (h.val 8).toNat (sizeBytes 4) ∧
      M.rcPending 0 (T.origin (.thread 0)) = false ∧ exec (.stl 4 8 0 4 0) M = .next s' ∧ memWf T.sp = true) ∧
    ∃ T G h s', Solo M (.st 4 10 0 4 2) C 0 T G h ∧ InHeap M 0 T (h.pair 10).toNat (sizeBytes 4) 0x30040 ∧
      exec (.st 4 10 0 4 2) M = .next s' ∧ T.revocable = false ∧ T.porch = [] := by
  have h : (match exec (.stl 4 8 0 4 0) M, exec (.st 4 10 0 4 2) M with
    | .next _, .next _ => true
    | _, _ => false) = true := by decide +kernel
  split at h
  · next a b e f =>
    exact ⟨⟨_, _, _, a, solo_sound (by decide +kernel), ownLocal (by decide +kernel), by decide +kernel, e,
        by decide +kernel⟩, _, _, _, b, solo_sound (by decide +kernel), inHeap (by decide +kernel), f, by decide +kernel, by decide +kernel⟩
  · cases h

/-! Operand forms, front code, bundles and checks. -/

theorem ownRing {s : State} {T : Team} {r : Ring} (h : decide (r.window = false ∧ r.control.toNat < winBase ∧
    r.base.toNat + 4 * r.count < winBase ∧ r.control.toNat + 8 ≤ T.size ∧ r.base.toNat + 4 * r.count ≤ T.size ∧ 0 < r.count ∧
    sound s T = true) = true) : OwnRing s T r :=
  let ⟨a, b, c, d, e, f, g⟩ := of_decide_eq_true h
  ⟨⟨a, b, c⟩, d, e, f, coreSound g⟩

def aRing : Ring := ⟨0x200, 0x1F0, 8, false⟩

/-- Ports in0 and out1 on one ring, whose head and tail are given; the thread holds latched elements. -/
def ported (head tail : Nat) (l : List (Bool × Word)) : State :=
  let s := sp D 0x1F0 (leBytes 4 head ++ leBytes 4 tail)
  onThread (onTeam s fun T => { T with ports := [(0, aRing), (3, aRing)] }) fun h => { h with latch := l }

/-- A beat whose predecessor has written 7 to w0 of this thread, or has not. -/
def aChain (present : List Nat) : Chain := ⟨4, 2, 1, 2, [(0, ⟨0, [(0, 7)], present, false⟩)], []⟩
def windowed (present : List Nat) (written : BitVec 8) : State :=
  let s := onTeam D fun T => { T with chain := some (aChain present) }
  onThread (onGroup s fun G => { G with beat := some 1 }) fun h => { h with written := written }

/-- The premises of `Sole` that can be decided. -/
theorem sole {s : State} {i : Instr} (h : (decide (s.cur = some C) && decide (s.team? 0 = some (team s)) &&
    decide ((team s).status = .resident ∨ (team s).status = .resting) && decide ((team s).dying = false) &&
    decide ((team s).thread? 0 = some (thread s)) && decide ((team s).group? 0 = some (group s)) &&
    decide ((thread s).ended = false) && decide ((thread s).count < (thread s).limit) && decide ((thread s).pend = []) &&
    regsOk (team s) ⟨0, .thread 0⟩ i) = true) : Sole s i C 0 (team s) (group s) (thread s) := by
  simp only [Bool.and_eq_true, decide_eq_true_eq] at h
  obtain ⟨⟨⟨⟨⟨⟨⟨⟨⟨a, b⟩, c⟩, d⟩, e⟩, f⟩, g⟩, k⟩, l⟩, m⟩ := h
  exact ⟨⟨a, ⟨rfl, rfl⟩, b, ⟨c, d⟩, e, by rw [groupIx_zero]; exact f, g, k⟩, l, m⟩

theorem retryOf {α : Type} {m : Except Stop α} (h : (match m with
    | .error .retry => true
    | _ => false) = true) : m = .error .retry := by
  split at h
  · rfl
  · cases h

/-- Another thread stands in line at in0. -/
def behind : State := (ported 0 1 []).modThread 0 1 fun h => { h with wait := some (.port false), places := [(0, 3)] }
/-- The thread stands first in line at in0, before that one. -/
def before3 : State := onThread behind fun h => { h with wait := some (.port false), places := [(0, 2)] }

/-- Beat 3 of a chain with windows of three beats, each of which has w0 of this thread, or beat 1, before which beat 0 has
passed stage 0. -/
def inChain (b : Nat) (written : BitVec 8) : State :=
  let slot (n : Nat) : ChainSlot := ⟨n, [(0, BitVec.ofNat 32 (n + 7))], [0], n == 0⟩
  let s := onTeam D fun T => { T with chain := some ⟨9, 2, 3, b + 1, [(0, slot 0), (1, slot 1), (2, slot 2), (3, slot 3)], [(0, 5)]⟩ }
  onThread (onGroup s fun G => { G with beat := some b }) fun h => { h with written := written }
def deepChain (s : State) : Chain := (team s).chain.getD (aChain [])

/-- Another thread stands in line at out1. -/
def pushBehind : State := (ported 5 5 []).modThread 0 1 fun h =>
  { h with wait := some (.outPort true), places := [(3, 3)] }

/-- An RC store that the thread made before is not performed. -/
def storedBefore (head tail : Nat) : State := { ported head tail [] with stores := rcStored.stores }

/-- The thread's beat has written w0, and the ring of in0 is empty. -/
def rewriting : State := onTeam (windowed [0] 1) fun T => { T with ports := [(0, aRing)] }

theorem meets_OperandForms_stops : Sole rewriting (.mov 224 220) C 0 (team rewriting) (group rewriting) (thread rewriting) ∧
    pushesWindow (team rewriting) (.mov 224 220) = false ∧ (group rewriting).cancelled = false ∧
    Wait.operandsTaken (thread rewriting).wait = false ∧ regCode 220 = .inPort false ∧ (thread rewriting).latch = [] ∧
    (thread rewriting).ticket? false = none ∧ (team rewriting).ring? false false = some aRing ∧
    OwnRing rewriting (team rewriting) aRing ∧ (team rewriting).localWord 0x1F0 = (team rewriting).localWord 0x1F4 ∧
    rewriting.windowStops ⟨0, .thread 0⟩ (.mov 224 220) = true ∧ (team rewriting).chain = some (aChain [0]) ∧
    regCode 224 = .window 0 0 ∧ (thread rewriting).written.getLsbD 0 = true :=
  ⟨sole (by decide +kernel), by decide +kernel, by decide +kernel, by decide +kernel, by decide +kernel, by decide +kernel,
    by decide +kernel, by decide +kernel, ownRing (by decide +kernel), by decide +kernel⟩

theorem meets_OperandForms_push :
    (∀ s ∈ [ported 0 8 [], pushBehind, storedBefore 5 5], Sole s (.mov 223 4) C 0 (team s) (group s) (thread s) ∧
      pushesWindow (team s) (.mov 223 4) = false ∧ (group s).cancelled = false ∧ Wait.operandsTaken (thread s).wait = false ∧ regCode 223 = .outPort true ∧
      (team s).ring? true true = some aRing ∧ OwnRing s (team s) aRing ∧
      ((∃ j ∈ (team s).pushLine true, j < (team s).pushPlace (thread s) true) ∨
        aRing.count ≤ ((team s).localWord 0x1F4 - (team s).localWord 0x1F0).toNat ∨
        s.rcStoring 0 ((team s).origin (.thread 0)) = true)) ∧
    ∀ e ∈ [(7, 8), (0xFFFFFFFF, 0), (5, 5)], (team (ported e.1 e.2 [])).pushLine true = [] := by
  refine ⟨fun s hs => ⟨sole ?_, ?_, ?_, ?_, ?_, ?_, ownRing ?_, ?_⟩, by decide +kernel⟩
  all_goals
    simp only [List.mem_cons, List.not_mem_nil, or_false] at hs
    rcases hs with rfl | rfl | rfl <;> decide +kernel

/-- R26 and R180: behind a thread that waits at out1 with place 3, a push waits with place 4. -/
theorem test_push_waits_in_line :
    (match exec (.mov 223 4) pushBehind with
      | .next s => (s.thread? 0 0).map fun h => (h.wait, h.places)
      | _ => none) = some (some (.outPort true), [(3, 4)]) := by decide +kernel

theorem meets_OperandForms :
    ((laneRule (.iadd 9 220 223)).isSome = true ∧ Sole (ported 0 1 []) (.iadd 9 220 4) C 0 (team (ported 0 1 []))
        (group (ported 0 1 [])) (thread (ported 0 1 [])) ∧ pushesWindow (team (ported 0 1 [])) (.iadd 9 220 4) = false ∧
      Wait.operandsTaken (thread (ported 0 1 [])).wait = false ∧
      ∃ r, takes 0 0 (.iadd 9 220 4) (ported 0 1 []) = .ok r ∧
        (match readFields ⟨0, .thread 0⟩ [220, 4] r.2 with
          | .ok q =>
            match wr ⟨0, .thread 0⟩ 9 5 q.2 with
              | .ok _ => true
              | .error _ => false
          | .error _ => false) = true) ∧
    (Sole (windowed [] 0) (.mov 9 225) C 0 (team (windowed [] 0)) (group (windowed [] 0)) (thread (windowed [] 0)) ∧
      pushesWindow (team (windowed [] 0)) (.mov 9 225) = false ∧ (group (windowed [] 0)).cancelled = false ∧
      Wait.operandsTaken (thread (windowed [] 0)).wait = false ∧ (∀ q, regCode 9 ≠ .outPort q) ∧
      regCode 225 = .window 0 1 ∧ rd ⟨0, .thread 0⟩ 225 (windowed [] 0) = .error .retry) ∧
    (∀ s ∈ [ported 1 1 [], behind, storedBefore 0 1], Sole s (.mov 9 220) C 0 (team s) (group s) (thread s) ∧
      pushesWindow (team s) (.mov 9 220) = false ∧ (group s).cancelled = false ∧ Wait.operandsTaken (thread s).wait = false ∧
      (thread s).latch = [] ∧
      (thread s).ticket? false = none ∧ (team s).ring? false false = some aRing ∧ OwnRing s (team s) aRing ∧
      s.windowStops ⟨0, .thread 0⟩ (.mov 9 220) = false ∧
      ((team s).line false ≠ [] ∨ (team s).localWord 0x1F0 = (team s).localWord 0x1F4 ∨
        s.rcStoring 0 ((team s).origin (.thread 0)) = true)) ∧
    (takeLatch false (thread (ported 0 1 [(true, 1), (false, 9)])).latch = some (9, [(true, 1)])) ∧
    ((thread before3).ticket? false = some 2 ∧ ∀ j ∈ (team before3).line false, 2 ≤ j) ∧
    (∀ e ∈ [(0, 8), (7, 8), (0xFFFFFFFF, 0), (5, 5)], (thread (ported e.1 e.2 [])).latch = [] ∧
      (team (ported e.1 e.2 [])).line false = [] ∧
      (ported e.1 e.2 []).rcPending 0 ((team (ported e.1 e.2 [])).origin (.thread 0)) = false ∧
      (team (ported e.1 e.2 [])).ring? false false = some aRing ∧ (team (ported e.1 e.2 [])).ring? true true = some aRing ∧
      OwnRing (ported e.1 e.2 []) (team (ported e.1 e.2 [])) aRing) ∧
    (∀ e ∈ [([0], 0), ([], 0), ([], 1)], (team (windowed e.1 (BitVec.ofNat 8 e.2))).chain = some (aChain e.1) ∧
      (group (windowed e.1 (BitVec.ofNat 8 e.2))).beat = some 1 ∧
      (thread (windowed e.1 (BitVec.ofNat 8 e.2))).written = BitVec.ofNat 8 e.2) ∧
    ((team (windowed [0] 0)).windowAt (aChain [0]) 1 0 1 0 = some 7 ∧
      (team (windowed [] 0)).windowAt (aChain []) 1 0 1 0 = none) ∧
    (∀ e ∈ [1, 2, 3], regCode (BitVec.ofNat 8 (224 + e)) = .window 0 e ∧ e ≤ (deepChain (inChain 3 1)).delta ∧
      (team (inChain 3 1)).windowAt (deepChain (inChain 3 1)) 3 0 e 0 = some (BitVec.ofNat 32 (3 - e + 7)) ∧
      ∃ sl, SMap.find? ((3 - e) % 4) (deepChain (inChain 3 1)).slots = some sl ∧ sl.beat = 3 - e ∧ 128 * 0 + 0 ∈ sl.present) ∧
    ((thread (inChain 3 1)).written.getLsbD 0 = true ∧ (SMap.find? (3 % 4) (deepChain (inChain 3 1)).slots).isSome = true) ∧
    (team (inChain 1 0)).passed (deepChain (inChain 1 0)) 0 = true := by
  refine ⟨⟨rfl, sole (by decide +kernel), by decide +kernel, by decide +kernel, okOf (fun r : Unit × State =>
      match readFields ⟨0, .thread 0⟩ [220, 4] r.2 with
        | .ok q =>
          match wr ⟨0, .thread 0⟩ 9 5 q.2 with
            | .ok _ => true
            | .error _ => false
        | .error _ => false) (by decide +kernel)⟩,
    ⟨sole (by decide +kernel), by decide +kernel, by decide +kernel, by decide +kernel, by decide +kernel, by decide +kernel, retryOf (by decide +kernel)⟩,
    fun s hs => ⟨sole ?_, ?_, ?_, ?_, ?_, ?_, ?_, ownRing ?_, ?_, ?_⟩, by decide +kernel, by decide +kernel,
    fun e he => ⟨?_, ?_, ?_, ?_, ?_, ownRing ?_⟩, fun e he => ⟨?_, ?_, ?_⟩, by decide +kernel,
    fun e he => ⟨?_, ?_, ?_, ?_⟩, by decide +kernel, by decide +kernel⟩
  case refine_23 =>
    simp only [List.mem_cons, List.not_mem_nil, or_false] at he
    rcases he with rfl | rfl | rfl <;> exact ⟨_, rfl, rfl, by decide⟩
  all_goals first | (revert s) | (revert e)
  all_goals decide +kernel

theorem meets_FrontForms :
    (∀ i ∈ [Instr.mov 63 0, .iadd 5 4 4, .isub 5 4 4, .and 5 4 4, .iaddi 5 4 256, .movkl 5 0xFFFF, .iadd64 5 4 3 false,
        .icmp 7 0 false 4 4, .bra 7 true 0x1FFFFF, .bra 0 true 5, .ldl 5 4 0 4 0],
      MeetsFront i fun _ _ _ _ => True) ∧
    MeetsFront (.sel 7 true 5 4) (fun _ _ _ x => x.b.getLsbD 7 = true) ∧
    MeetsFront (.sel 0 false 5 4) (fun _ _ _ x => x.b.getLsbD 0 = false) ∧
    MeetsFront (.bra 7 true 5) (fun _ _ _ x => x.b.getLsbD 7 = true) ∧
    MeetsFront (.bra 0 true 5) (fun _ _ _ x => x.b.getLsbD 0 ≠ true) ∧
    MeetsFront (.laneid 5) (fun _ _ _ _ => isStep (.laneid 5) = false ∧ (Instr.laneid 5).frontOk = false) :=
  ⟨fun i hi => meetsFront F (List.all_eq_true.mp (show List.all _ (frontSolo F) = true by decide +kernel) i hi) trivial,
    meetsFront F (by decide +kernel) (by decide +kernel), meetsFront F (by decide +kernel) (by decide +kernel),
    meetsFront F (by decide +kernel) (by decide +kernel), meetsFront F (by decide +kernel) (by decide +kernel),
    meetsFront F (by decide +kernel) (by decide +kernel)⟩

/-- All sixteen threads of the team issue. -/
def everyone : State := { A with cur := some ⟨0, List.range 16, false, 0, 4⟩ }

theorem meets_Bundles : laneRule (.iadd 3 4 5) = some ([4, 5], 3, fun v => v.getD 0 0 + v.getD 1 0) ∧
    gOnly (.iadd 3 4 5) = true ∧ everyone.cur = some ⟨0, List.range 16, false, 0, 4⟩ ∧ (List.range 16).Nodup ∧
    everyone.team? 0 = some (team everyone) ∧ (team everyone).status = .resident ∧ (team everyone).dying = false ∧
    ∀ t ∈ List.range 16, (((team everyone).thread? t).any fun h => !h.ended && decide (h.count < h.limit) && h.pend.isEmpty &&
      regsOk (team everyone) ⟨0, .thread t⟩ (.iadd 3 4 5)) = true ∧ ((team everyone).group? ((team everyone).groupIx t)).isSome := by
  refine ⟨rfl, by decide +kernel, rfl, by decide +kernel, by decide +kernel, by decide +kernel, by decide +kernel, by decide +kernel⟩

/-- The thread alone, whatever it issues. -/
theorem at_ {s : State} (h : (decide (s.cur = some C) && decide (s.team? 0 = some (team s)) &&
    decide ((team s).status = .resident) && decide ((team s).dying = false) &&
    decide ((team s).thread? 0 = some (thread s)) && decide ((team s).group? 0 = some (group s)) &&
    decide ((thread s).ended = false) && decide ((thread s).count < (thread s).limit)) = true) :
    At s C 0 (team s) (group s) (thread s) := by
  simp only [Bool.and_eq_true, decide_eq_true_eq] at h
  obtain ⟨⟨⟨⟨⟨⟨⟨a, b⟩, c⟩, d⟩, e⟩, f⟩, g⟩, k⟩ := h
  exact ⟨a, ⟨rfl, rfl⟩, b, ⟨.inl c, d⟩, e, by rw [groupIx_zero]; exact f, g, k⟩

/-- A result is on its way to g9. -/
def awaiting : State := onThread D fun h => { h with pend := [⟨[9], .ready [1], 3, true, 0, none⟩] }

theorem meets_ChecksBeforeEffects :
    (At U C 0 (team U) (group U) (thread U) ∧ At awaiting C 0 (team awaiting) (group awaiting) (thread awaiting)) ∧
    (Instr.ftwaitMx).threadOk = false ∧
    ((Instr.iadd 3 4 224).threadOk = true ∧ regsOk (team U) ⟨0, .thread 0⟩ (.iadd 3 4 224) = false) ∧
    ((Instr.srd 3 0xFF).threadOk = true ∧ (Instr.srd 3 0xFF).sregOk false = false) ∧
    ((Instr.clz64 3 4).threadOk = true ∧ regsOk (team U) ⟨0, .thread 0⟩ (.clz64 3 4) = true ∧
      (Instr.clz64 3 4).sregOk false = true ∧ (Instr.clz64 3 4).unimplemented = true) ∧
    (Instr.tlbinvHeap.threadOk = true ∧ regsOk (team U) ⟨0, .thread 0⟩ .tlbinvHeap = true ∧
      Instr.tlbinvHeap.sregOk false = true ∧ Instr.tlbinvHeap.unimplemented = false ∧ Instr.tlbinvHeap.privileged = true ∧
      (U.ctx (team U).ctx).privileged = false) ∧
    ((Instr.iadd 3 9 4).threadOk = true ∧ regsOk (team awaiting) ⟨0, .thread 0⟩ (.iadd 3 9 4) = true ∧
      (Instr.iadd 3 9 4).sregOk false = true ∧ (Instr.iadd 3 9 4).unimplemented = false ∧
      (Instr.iadd 3 9 4).privileged = false ∧ (Instr.iadd 3 9 4).exempt = false ∧
      conflicts (team awaiting) ⟨0, .thread 0⟩ (.iadd 3 9 4) (thread awaiting).pend = true) ∧
    MeetAll [.clz64 3 4, .popc64 3 4, .idiv 3 4 5, .idivu 3 4 5] :=
  ⟨⟨at_ (by decide +kernel), at_ (by decide +kernel)⟩, by decide +kernel, by decide +kernel, by decide +kernel,
    by decide +kernel, by decide +kernel, by decide +kernel, meetAll A (by decide +kernel)⟩

/-! Further clauses: values, waits and refusals. -/

/-- The operands in g4 and g5, under a rounding mode in FPCTL[1:0] (0: nearest, 2: down, 3: up). -/
def floats (x y : Nat) (mode : Word) : State :=
  onGroup (regs D [(4, BitVec.ofNat 32 x), (5, BitVec.ofNat 32 y)]) fun G => { G with fpctl := mode }

theorem meets_FloatArithmetic_values :
    (∀ v ∈ [0x40490FDB, 0x80000000, 1, 0xFF7FFFFF],
      Meets (.fsub 3 4 5 false) (fun _ _ _ _ G h => h.val 4 = h.val 5 ∧ (h.val 4).toNat / 2 ^ 23 % 2 ^ 8 < 255 ∧
        ¬ G.fpctl.extractLsb' 0 2 = 2 ∧ h.val 4 = BitVec.ofNat 32 v) ∧
      Meets (.fsub 3 4 5 false) (fun _ _ _ _ G h => h.val 4 = h.val 5 ∧ (h.val 4).toNat / 2 ^ 23 % 2 ^ 8 < 255 ∧
        G.fpctl.extractLsb' 0 2 = 2 ∧ h.val 4 = BitVec.ofNat 32 v)) ∧
    (∀ z ∈ [0, 0x80000000],
      Meets (.fadd 3 4 5 false) (fun _ _ _ _ _ h => h.val 4 = h.val 5 ∧ h.val 4 = BitVec.ofNat 32 z) ∧
      (∀ w ∈ [0, 0x80000000, 0xFF7FFFFF, 1],
        Meets (.fmul 3 4 5 false) fun _ _ _ _ _ h => h.val 4 = BitVec.ofNat 32 z ∧ (h.val 5).toNat / 2 ^ 23 % 2 ^ 8 < 255 ∧ h.val 5 = BitVec.ofNat 32 w) ∧
      ∀ i ∈ [Instr.fmin 3 4 5 false, .fmax 3 4 5 false], Meets i fun _ _ _ _ _ h => h.val 4 = BitVec.ofNat 32 z ∧
        h.val 5 = h.val 4 ^^^ 0x80000000) ∧
    Meets (.fadd 3 4 5 false) (fun _ _ _ _ _ h => h.val 4 = 0x3FC00000 ∧ h.val 5 = 0x40100000) ∧
    Meets (.fadd 3 4 5 false) (fun _ _ _ _ G h => h.val 4 = 0x3F800000 ∧ h.val 5 = 0x33800000 ∧
      ¬ G.fpctl.extractLsb' 0 2 = 3) ∧
    Meets (.fadd 3 4 5 false) (fun _ _ _ _ G h => h.val 4 = 0x3F800000 ∧ h.val 5 = 0x33800000 ∧
      G.fpctl.extractLsb' 0 2 = 3) := by
  refine ⟨fun v hv => ⟨meets (floats v v 0) ?_ ?_, meets (floats v v 2) ?_ ?_⟩,
    fun z hz => ⟨meets (floats z z 0) ?_ ?_, fun w hw => meets (floats z w 0) ?_ ?_, fun i hi =>
      meets (floats z (z ^^^ 0x80000000) 0) ?_ ?_⟩,
    meetsD (floats 0x3FC00000 0x40100000 0) (by decide +kernel), meetsD (floats 0x3F800000 0x33800000 2) (by decide +kernel),
    meetsD (floats 0x3F800000 0x33800000 3) (by decide +kernel)⟩
  iterate 4 · revert v; decide +kernel
  iterate 2 · revert z; decide +kernel
  iterate 2 · revert w; revert z; decide +kernel
  · revert i; revert z; decide +kernel
  · clear hi; revert z; decide +kernel

theorem meets_FloatFunctions_bits :
    (∀ v ∈ [0xBF800000, 0x80000000, 0xFF800000, 0x80000001],
      ∀ i ∈ [Instr.fabs 3 4 15, .fneg 3 4 0], Meets i fun _ _ _ _ G h =>
        ¬ ((h.val 4).toNat / 2 ^ 23 % 2 ^ 8 = 255 ∧ (h.val 4).toNat % 2 ^ 23 ≠ 0) ∧
          ((h.val 4).toNat / 2 ^ 23 % 2 ^ 8 = 0 → (h.val 4).toNat % 2 ^ 23 = 0 ∨
            (G.mode.daz = false ∧ G.mode.ftz = false)) ∧ h.val 4 = BitVec.ofNat 32 v) ∧
    MeetAll [.fclass 3 4 0] := by
  refine ⟨fun v hv i hi => meets (floats v 0 0) ?_ ?_, meetAll A (by decide +kernel)⟩
  · revert i; revert v; decide +kernel
  · clear hi; revert v; decide +kernel

/-- The porch of the team holds a byte, or nothing, before its commit; and a store is pending. -/
def porched (n : Nat) : State := onTeam (revocable M) fun T =>
  { T with porch := List.replicate n ⟨0x30000, [1], ⟨⟨.thread 0, none, none⟩, 0, 1, 0, 0, []⟩, false⟩ }

theorem meets_Fences_commits :
    Meets (.fence 5 1) (fun _ _ _ T G _ => T.revocable = true ∧ (∃ e ∈ T.porch, e.bytes ≠ []) ∧ G.cancelled = false) ∧
    Meets (.fence 5 1) (fun s c _ T _ h => T.revocable = true ∧ T.porch = [] ∧ s.storesPending c.team = false ∧
      s.remotesPending c.team = false ∧ h.remoteFail = none) ∧
    Meets (.fence 3 1) (fun s c _ _ G _ => G.cancelled = false ∧ (s.commitPorch c.team).storesPending c.team = true) ∧
    Meets (.fence 4 1) (fun s c _ _ G _ => G.cancelled = false ∧ (s.commitPorch c.team).remotesPending c.team = true) :=
  ⟨meetsD (porched 1) (by decide +kernel), meetsD (porched 0) (by decide +kernel),
    meetsD { M with stores := rcStored.stores } (by decide +kernel),
    meetsD (remoting M (request4 0 (.store [1]) true)) (by decide +kernel)⟩

theorem meets_Privilege_words :
    (∀ v ∈ [1, 2], Meets (.swr 4 0x40) fun s _ _ T _ h => (s.ctx T.ctx).privileged = true ∧ h.val 4 = BitVec.ofNat 32 v ∧
      ∀ hp ∈ [{ (s.ctx T.ctx).heap with hb := h.val 4 ++ (s.ctx T.ctx).heap.hb.extractLsb' 0 32 },
          { (s.ctx T.ctx).heap with hl := (s.ctx T.ctx).heap.hl.extractLsb' 32 32 ++ h.val 4 },
          { (s.ctx T.ctx).heap with hl := h.val 4 ++ (s.ctx T.ctx).heap.hl.extractLsb' 0 32 },
          { (s.ctx T.ctx).heap with ho := (s.ctx T.ctx).heap.ho.extractLsb' 32 32 ++ h.val 4 },
          { (s.ctx T.ctx).heap with ho := h.val 4 ++ (s.ctx T.ctx).heap.ho.extractLsb' 0 32 },
          { (s.ctx T.ctx).heap with hkind := (h.val 4).setWidth 6 }], hp ≠ (s.ctx T.ctx).heap) ∧
    MeetAll [.swr 4 0x41, .swr 4 0x42, .swr 4 0x43, .swr 4 0x44, .swr 4 0x45, .swr 4 0x46] ∧
    Meets (.swr 4 0x46) (fun s _ _ T _ h => (s.ctx T.ctx).privileged = true ∧ (h.val 4).extractLsb' 0 2 ≠ 3 ∧
      { (s.ctx T.ctx).heap with hkind := (h.val 4).setWidth 6 } ≠ (s.ctx T.ctx).heap) ∧
    Meets (.swr 4 0x46) (fun s _ _ T _ h => (s.ctx T.ctx).privileged = true ∧ (h.val 4).extractLsb' 0 2 = 3) ∧
    Meets (.swr 4 0x49) (fun s _ _ T _ h => (s.ctx T.ctx).privileged = true ∧
      h.val 4 ≠ (s.ctx T.ctx).ptbase.extractLsb' 32 32) ∧
    Meets (.swr 4 0x4B) (fun s _ _ T _ _ => (s.ctx T.ctx).privileged = true) := by
  refine ⟨fun v hv => meets (reg P 4 (BitVec.ofNat 32 v)) ?_ ?_, meetAll P (by decide +kernel), meetsD (reg P 4 2) (by decide +kernel),
    meetsD (reg P 4 7) (by decide +kernel), meetsD P (by decide +kernel), meetsD P (by decide +kernel)⟩
  all_goals revert v; decide +kernel

theorem meets_SpecialRegisters_engines :
    Meets (.swr 4 0x1A) (fun _ _ _ T _ _ => T.rsh.state ≠ 1) ∧
    (∀ i ∈ [(0x19 : BitVec 8), 0x1A], Meets (.swr 4 i) fun _ _ _ T G _ => T.rsh.state = 1 ∧ G.cancelled = false) ∧
    Meets (.swr 4 0x18) (fun _ _ _ T G _ => T.mx.queue ≠ [] ∧ G.cancelled = false) := by
  refine ⟨meetsD U (by decide +kernel), fun i hi => meetsD (withRsh U fun r => { r with state := 1 }) ?_,
    meetsD queued (by decide +kernel)⟩
  revert i; decide +kernel

theorem meets_GroupOperations_values :
    let all : List (Nat × Instr × List Word) := [(0, .elect 3 2, [5]), (2, .elect 3 2, [0])]
    (all.map (·.1)).Nodup ∧ (∀ y ∈ all, y.1 < 16) ∧ 16 = 2 ^ 4 ∧ (∃ y ∈ all, (2 : Int) = y.1) ∧ ∀ y ∈ all, (1 : Int) ≠ y.1 := by
  decide

/-- The next entry of queue 63 names a record in the heap window with these fields. -/
def offering (l : List (Nat × Nat × Nat)) : State :=
  { heaped with sqs := [(63, aQueue)],
                mem := writeBytes (writeBytes heaped.mem 0x40000 (leBytes 8 0x80000000)) 0x100000000 (packed 128 l) }

/-- A gang of none, one of 17, a width code of 4, a scratchpad of 8 bytes and an image at 0x80. -/
def refused : List (List (Nat × Nat × Nat)) :=
  [[(38, 1, 0)], [(38, 1, 17)], [(38, 1, 1), (16, 1, 4)], [(38, 1, 1), (32, 4, 8)], [(38, 1, 1), (0, 8, 0x80)]]

theorem meets_LaunchesAndJobs_refused : ∀ l ∈ refused, ∀ d ∈ [0, 0x80000200],
    let s := offering (l ++ [(72, 8, d)])
    s.mgmt.ready = true ∧ s.mgmt.thermalHalt = false ∧ s.devQueue = [] ∧ s.nextQueue = some (63, aQueue) ∧
      QueueHolds s aQueue 0x80000000 ∧ ∃ bs s1,
        runM (sysRead 1 0x80000000 128) { s with sqs := SMap.insert 63 aQueue.next s.sqs, lastQueue := 63 } = .ok (bs, s1) ∧
        (let r := LaunchRec.of bs
         r.gang = 0 ∨ 16 < r.gang.toNat ∨ 3 < r.width.toNat ∨ r.scratch.toNat % 16 ≠ 0 ∨ r.image.toNat % 256 ≠ 0) ∧
        (LaunchRec.of bs).done = BitVec.ofNat 64 d ∧
        (d ≠ 0 → HeapAt s1 1 (LaunchRec.of bs).done.toNat 8 0x100000200 ∧ s1.doorbellWords 0x100000200 8 = [] ∧
          s1.inRegisters 0x100000200 8 = false ∧ s1.doneVectors = []) := by
  intro l hl d hd
  refine ⟨?_, ?_, ?_, ?_, ⟨?_, ?_, ?_, ?_⟩, ?_⟩
  case refine_9 =>
    obtain ⟨r, e, k⟩ := okOf (m := runM (sysRead 1 0x80000000 128) { offering (l ++ [(72, 8, d)]) with
        sqs := SMap.insert 63 aQueue.next (offering (l ++ [(72, 8, d)])).sqs, lastQueue := 63 })
      (fun r : List Byte × State =>
        let q := LaunchRec.of r.1
        let s := r.2
        decide (q.gang = 0 ∨ 16 < q.gang.toNat ∨ 3 < q.width.toNat ∨ q.scratch.toNat % 16 ≠ 0 ∨ q.image.toNat % 256 ≠ 0) &&
          decide (q.done = BitVec.ofNat 64 d) &&
          (d == 0 || decide (((s.ctx 1).heldHeap = [] ∧ canonical q.done.toNat = true ∧ (s.ctx 1).heap.hb.toNat ≤ q.done.toNat ∧
            q.done.toNat + 8 ≤ min ((s.ctx 1).heap.hb.toNat + (s.ctx 1).heap.hl.toNat) (2 ^ 64) ∧
            0x100000200 = (q.done.toNat + (s.ctx 1).heap.ho.toNat) % 2 ^ 64 ∧ s.rangeOk 0x100000200 8 = true ∧ s.badMem = []) ∧
            s.doorbellWords 0x100000200 8 = [] ∧ s.inRegisters 0x100000200 8 = false ∧ s.doneVectors = [])))
      (by revert d; revert l; decide +kernel)
    simp only [Bool.and_eq_true, Bool.or_eq_true, decide_eq_true_eq, beq_iff_eq] at k
    obtain ⟨⟨a, b⟩, c⟩ := k
    exact ⟨r.1, r.2, e, a, b, fun n => (c.resolve_left n).imp (fun h => heapAt (decide_eq_true h)) id⟩
  all_goals revert d; revert l; decide +kernel

/-! ### Steps: values worked out by hand from the rules -/

/-- R89 on a = 0x80000001, b = 0xFFFFFFFE and 33. -/
theorem test_integer :
    result (.iadd 6 3 4) A 6 = some 0x7FFFFFFF ∧ result (.isub 6 3 4) A 6 = some 0x80000003 ∧
    result (.imul 6 4 5 false) A 6 = some 0xFFFFFFBE ∧ result (.imul 6 3 4 true) A 6 = some 0x7FFFFFFF ∧
    result (.imulhs 6 3 4) A 6 = some 0 ∧ result (.imad 5 4 4 false) A 5 = some 37 ∧
    result (.and 6 3 4) A 6 = some 0x80000000 ∧ result (.or 6 3 5) A 6 = some 0x80000021 ∧ result (.xor 6 3 4) A 6 = some 0x7FFFFFFF ∧
    result (.andn 6 3 4) A 6 = some 1 ∧ result (.imin 6 3 5 false) A 6 = some 0x80000001 ∧ result (.imin 6 3 5 true) A 6 = some 33 ∧
    result (.imax 6 3 5 false) A 6 = some 33 ∧ result (.imax 6 3 4 true) A 6 = some 0xFFFFFFFE := by decide +kernel

/-- R89: a shift amount of 33 shifts everything out; SAR leaves the sign. -/
theorem test_shifts :
    result (.shl 6 3 5) A 6 = some 0 ∧ result (.shr 6 3 5) A 6 = some 0 ∧ result (.sar 6 3 5) A 6 = some 0xFFFFFFFF ∧
    result (.shli 6 3 31) A 6 = some 0x80000000 ∧ result (.shri 6 3 31) A 6 = some 1 ∧ result (.sari 6 4 1) A 6 = some 0xFFFFFFFF ∧
    result (.rotri 6 5 1) A 6 = some 0x80000010 ∧ result (.rotri 6 5 0) A 6 = some 33 := by decide +kernel

/-- R89: pairs carry from the low register to the high one; IMAD.W64 adds a signed product. -/
theorem test_pairs :
    let s := regs D [(6, 0xFFFFFFFF), (7, 1), (8, 2), (9, 0), (10, 0xFFFFFFFD)]
    result (.iadd64 12 6 8 false) s 12 = some 1 ∧ result (.iadd64 12 6 8 false) s 13 = some 2 ∧
    result (.iadd64 12 8 6 true) s 12 = some 3 ∧ result (.iadd64 12 8 6 true) s 13 = some 0xFFFFFFFE ∧
    result (.imad 8 10 8 true) s 8 = some 0xFFFFFFFC ∧ result (.imad 8 10 8 true) s 9 = some 0xFFFFFFFF := by decide +kernel

/-- R91, R92: immediates are sign-extended; MOVKH keeps the low half. -/
theorem test_immediates :
    result (.iaddi 6 5 0x1FF) A 6 = some 32 ∧ result (.andi 6 4 0x100) A 6 = some 0xFFFFFF00 ∧ result (.ori 6 5 0x0FF) A 6 = some 0xFF ∧
    result (.xori 6 5 0x1FF) A 6 = some 0xFFFFFFDE ∧ result (.movkl 6 0xBEEF) A 6 = some 0xBEEF ∧
    result (.movkh 3 0xBEEF) A 3 = some 0xBEEF0001 := by decide +kernel

/-- R59: each compact form is its 32-bit equivalent on d; the halfword 0 advances only the PC. -/
theorem test_compact :
    result (.movCompact 6 5) A 6 = some 33 ∧ result (.iaddCompact 3 4) A 3 = some 0x7FFFFFFF ∧ result (.isubCompact 3 4) A 3 = some 0x80000003 ∧
    result (.andCompact 3 4) A 3 = some 0x80000000 ∧ result (.orCompact 3 5) A 3 = some 0x80000021 ∧
    result (.xorCompact 3 4) A 3 = some 0x7FFFFFFF ∧ result (.shlCompact 3 5) A 3 = some 0 ∧ result (.shrCompact 3 5) A 3 = some 0 ∧
    result (.sarCompact 3 5) A 3 = some 0xFFFFFFFF ∧ result (.imulCompact 5 4) A 5 = some 0xFFFFFFBE ∧
    result (.iaddiCompact 5 0x1D) A 5 = some 30 ∧ result (.movi 5 0x1D) A 5 = some 0xFFFFFFFD := by decide +kernel

/-- R90's selectors, and one that takes sign bytes. -/
theorem test_perm :
    let s := regs D [(1, 0x3210), (2, 0x7654), (3, 0xF8B4), (4, 0x80706050), (5, 0x8F7F6F5F)]
    result (.perm 1 4 5) s 1 = some 0x80706050 ∧ result (.perm 2 4 5) s 2 = some 0x8F7F6F5F ∧
    result (.perm 3 4 5) s 3 = some 0xFF00FF5F := by decide +kernel

/-- R93. -/
theorem test_unary :
    result (.mov 6 5) A 6 = some 33 ∧ result (.not 6 5) A 6 = some 0xFFFFFFDE ∧ result (.neg 6 5) A 6 = some 0xFFFFFFDF ∧
    result (.iabs 6 3) A 6 = some 0x7FFFFFFF ∧ result (.clz 6 5) A 6 = some 26 ∧ result (.clz 6 7) A 6 = some 32 ∧
    result (.popc 6 4) A 6 = some 31 ∧ result (.brev 6 5) A 6 = some 0x84000000 ∧ result (.sexb 6 4) A 6 = some 0xFFFFFFFE ∧
    result (.sexh 6 3) A 6 = some 1 ∧ result (.zexb 6 4) A 6 = some 0xFE ∧ result (.zexh 6 4) A 6 = some 0xFFFE ∧
    result (.b2g 6 7) A 6 = some 1 ∧ result (.b2g 6 0) A 6 = some 0 ∧ field (.g2b 3 5) A Thread.b = some 0x88 ∧
    field (.g2b 7 9) A Thread.b = some 0x80 ∧ result (.laneid 6) A 6 = some 0 ∧ result (.tidx 6) A 6 = some 0 := by decide +kernel

/-- R94, R95: icmpi.ltu against −1 compares with 0xFFFFFFFF; .AND keeps what was false; `!b7` never moves. -/
theorem test_compare :
    field (.icmpi 1 6 false 4 0xFF) A Thread.b = some 0x82 ∧ field (.icmpi 1 2 false 4 0xFF) A Thread.b = some 0x82 ∧
    field (.icmp 1 2 false 3 4) A Thread.b = some 0x82 ∧ field (.icmp 1 6 false 5 3) A Thread.b = some 0x82 ∧
    field (.icmp 1 2 false 5 3) A Thread.b = some 0x80 ∧ field (.icmp 1 2 true 3 4) A Thread.b = some 0x80 ∧
    result (.sel 7 true 6 5) A 6 = some 33 ∧ result (.sel 7 false 6 5) A 6 = some 0 := by decide +kernel

/-- Binary32 values used below: 1, 2, 3, −0.5, the largest finite, a NaN, −0, 2^-126 / 2. -/
def Fl : State :=
  regs D [(1, 0x3F800000), (2, 0x40000000), (3, 0x40400000), (4, 0xBF000000), (5, 0x7F7FFFFF), (6, 0x7F800001), (7, 0x80000000),
    (8, 0x00400000)]

/-- R96, R97. -/
theorem test_float :
    result (.fadd 9 1 2 false) Fl 9 = some 0x40400000 ∧ result (.fsub 9 1 1 false) Fl 9 = some 0 ∧ result (.fmul 9 2 3 false) Fl 9 = some 0x40C00000 ∧
    result (.ffma 1 2 3 false) Fl 1 = some 0x40E00000 ∧ result (.fadd 9 5 5 false) Fl 9 = some 0x7F800000 ∧
    result (.fadd 9 6 1 false) Fl 9 = some 0x7FC00000 ∧ result (.fadd 9 7 7 false) Fl 9 = some 0x80000000 ∧
    result (.fmin 9 10 7 false) Fl 9 = some 0x80000000 ∧ result (.fmax 9 7 10 false) Fl 9 = some 0 ∧ result (.fmin 9 6 4 false) Fl 9 = some 0xBF000000 ∧
    result (.fmul 9 8 1 false) Fl 9 = some 0x00400000 ∧ result (.faddCompact 1 2) Fl 1 = some 0x40400000 ∧
    result (.fsubCompact 3 2) Fl 3 = some 0x3F800000 ∧ result (.fmulCompact 3 2) Fl 3 = some 0x40C00000 ∧
    result (.fmaxCompact 4 2) Fl 4 = some 0x40000000 := by decide +kernel

/-- R99 to R101. -/
theorem test_functions :
    result (.fabs 9 4 0) Fl 9 = some 0x3F000000 ∧ result (.fneg 9 4 0) Fl 9 = some 0x3F000000 ∧ result (.frcp 9 2 0) Fl 9 = some 0x3F000000 ∧
    result (.frcp 9 7 0) Fl 9 = some 0xFF800000 ∧ result (.frsq 9 7 0) Fl 9 = some 0xFF800000 ∧ result (.fsqrt 9 2 0) Fl 9 = some 0x3FB504F3 ∧
    result (.fexp2 9 3 0) Fl 9 = some 0x41000000 ∧ result (.flog2 9 4 0) Fl 9 = some 0x7FC00000 ∧ result (.flog2 9 2 0) Fl 9 = some 0x3F800000 ∧
    result (.fsin 9 7 0) Fl 9 = some 0x80000000 ∧ result (.fcos 9 7 0) Fl 9 = some 0x3F800000 ∧ result (.ftanh 9 7 0) Fl 9 = some 0x80000000 ∧
    result (.ffloor 9 4 0) Fl 9 = some 0xBF800000 ∧ result (.fceil 9 4 0) Fl 9 = some 0x80000000 ∧ result (.ftrunc 9 4 0) Fl 9 = some 0x80000000 ∧
    result (.frint 9 4 0) Fl 9 = some 0x80000000 ∧ result (.fclass 9 8 0) Fl 9 = some 0x20 ∧ result (.fclass 9 6 0) Fl 9 = some 0x100 ∧
    result (.fsat 9 3 0) Fl 9 = some 0x3F800000 ∧ result (.fsat 9 6 0) Fl 9 = some 0 ∧ field (.fcmp 1 1 false 6 6) Fl Thread.b = some 0x82 ∧
    field (.fcmp 1 0 false 7 10) Fl Thread.b = some 0x82 := by decide +kernel

/-- R102 and R103: −0.5 and 3 as integers, 3 and 1.0 in binary8p4, the largest finite saturated, and their widening. -/
theorem test_conversions :
    result (.cvt 9 3 4 0 0 false) Fl 9 = some 3 ∧ result (.cvt 9 4 4 1 0 false) Fl 9 = some 0 ∧ result (.cvt 9 4 5 0 0 false) Fl 9 = some 0 ∧
    result (.cvt 9 1 2 0 0 false) Fl 9 = some 0x40 ∧ result (.cvt 9 5 2 0 0 false) Fl 9 = some 0x7F ∧ result (.cvt 9 3 1 0 0 false) Fl 9 = some 0x4040 ∧
    result (.cvt 2 1 2 0 0 true) Fl 2 = some 0x40400000 ∧ result (.cvt 9 3 0 0 0 false) Fl 9 = some 0x4200 ∧
    result (.cvif 9 4) Fl 9 = some 0xCE820000 ∧ result (.cvnf 9 7) Fl 9 = some 0x4F000000 ∧ result (.cvfi 9 5) Fl 9 = some 0x7FFFFFFF ∧
    result (.cvfi 9 6) Fl 9 = some 0 ∧ result (.cvfn 9 4) Fl 9 = some 0 ∧ result (.cvbf 9 9) (reg Fl 9 0x4040) 9 = some 0x40400000 ∧
    result (.cvhf 9 9 true) (reg Fl 9 0x42000000) 9 = some 0x40400000 ∧ result (.cv8af 9 9) (reg Fl 9 0xC0) 9 = some 0xBF800000 ∧
    result (.cv8bf 9 9) (reg Fl 9 0x7F) 9 = some 0x7F800000 := by decide +kernel

/-- Rows 0 and 3 of the spec's worked comparison: x in g4 and g11, 1.5 in g5, 10.0 in g6; their probabilities in q0 and q1. -/
def soft : State :=
  onThread (regs D [(4, 0), (5, 0x3FC00000), (6, 0x41200000), (11, 0x40400000), (12, 0x0102FFFF)]) fun h =>
    (h.putQ 0 (qMake 0x68A6 1 false)).putQ 1 (qMake 0x175A 2 false)

/-- R141 to R143: the table of the worked example of chapter 08, and equal operands. -/
theorem test_probability :
    field (.scmp 0 0 0 4 5) soft (·.qval 0) = some (qMake 0x68A6 1 false) ∧ field (.scmp 1 2 1 4 5) soft (·.qval 1) = some (qMake 0x175A 2 false) ∧
    field (.scmp 0 0 0 11 5) soft (·.qval 0) = some (qMake 0x175A 1 false) ∧ field (.scmp 0 0 3 5 5) soft (·.qval 0) = some (qMake 0x4000 8 false) ∧
    field (.pcombAnd 2 0 1 0) soft (·.qval 2) = some (qMake 0x1317 3 false) ∧ field (.pcombOr 3 0 0 2) soft (·.qval 3) = some (qMake 0x8000 1 false) ∧
    field (.pcombXor 3 0 0 1) soft (·.qval 3) = some (qMake 0 1 false) ∧ field (.pcombNot 3 0) soft (·.qval 3) = some (qMake 0x175A 1 false) := by decide +kernel

/-- R144, R146: 10.0 scaled by the two probabilities, and their gradients; QSET saturates; a draw of 5 (R147). -/
theorem test_blending :
    result (.blend 0 true 7 6) soft 7 = some 0x4102CF80 ∧ result (.blend 1 true 7 6) soft 7 = some 0x3FE98400 ∧
    result (.blend 1 false 7 6) soft 7 = some 0x4102CF80 ∧ result (.pgrad 0 0 10) soft 10 = some 0xBE18BB46 ∧
    field (.qhard 0 1) soft Thread.b = some 0x82 ∧ field (.qhard 1 1) soft Thread.b = some 0x80 ∧
    field (.qset 2 12) soft (·.qval 2) = some (qMake 0x8000 2 true) ∧ result (.qget 0 8) soft 8 = some 0x000168A6 ∧
    field (.qfromb 2 7) soft (·.qval 2) = some (qMake 0x8000 0 false) ∧ field (.coll 0 1) soft (fun h => (h.b, h.draw)) = some (0x82, 1) ∧
    result (.selq 0 true 7 6) soft 7 = some 0x41200000 ∧ result (.blendi 0 true 13 14) (regs soft [(13, 0), (14, 100)]) 13 = some 82 := by
  decide +kernel

/-- R207, R209, R210: 2^24 + 1 is kept by the compensation; wrapping sums; a tolerance of two. -/
theorem test_checksum :
    let s := regs D [(3, 0x4B800000), (4, 0x3F800000), (5, 7), (6, 9), (7, 2), (8, 1)]
    let t := onThread s fun h => { h with ck := [(0, ⟨0x4B800000, some false⟩), (1, ⟨5, some true⟩)] }
    field (.cka 0 false 4) t (·.ck) = some [(0, ⟨0xBF8000004B800000, some false⟩), (1, ⟨5, some true⟩)] ∧
    field (.cka 1 true 5) t (·.ck) = some [(0, ⟨0x4B800000, some false⟩), (1, ⟨12, some true⟩)] ∧
    field (.ckt 1 true 5 7) t Thread.tcause = some 0 ∧ field (.ckz 0) t (·.ck) = some [(1, ⟨5, some true⟩)] := by decide +kernel

/-- R155: bytes 1, 0x82, 3, 4 … at scratchpad 0x40; sizes sign-extend or zero-extend, and wider ones fill registers upward. -/
theorem test_localMemory :
    result (.ldl 3 8 0 4 0) M 3 = some 0x04038201 ∧ result (.ldl 3 9 0 1 0) (reg M 9 0x41) 3 = some 0xFFFFFF82 ∧
    result (.ldl 3 9 0 0 0) (reg M 9 0x41) 3 = some 0x82 ∧ result (.ldl 3 8 0 3 0) M 3 = some 0xFFFF8201 ∧
    result (.ldl 2 8 0 5 0) M 3 = some 0x08070605 ∧ result (.ldl 12 8 0 6 0) M 15 = some 0x100F0E0D ∧
    (after (.stl 4 8 0 2 0) M).map (fun s => readBytes (team s).sp 0x40 4) = some [0xDD, 0xCC, 3, 4] ∧
    (after (.stl 4 8 0 5 0) M).map (fun s => readBytes (team s).sp 0x40 9) =
      some [0xDD, 0xCC, 0xBB, 0xAA, 0x44, 0x33, 0x22, 0x11, 9] := by decide +kernel

/-- R164: the old value comes back and the new one is stored. -/
theorem test_localAtomics :
    let s := regs M [(4, 0x10), (6, 0x04038201), (7, 99)]
    let mem (i : Instr) : Option (List Byte) := (after i s).map fun s => readBytes (team s).sp 0x40 4
    mem (.atomlAdd 4 8 0 false) = some [0x11, 0x82, 3, 4] ∧ result (.atomlAdd 4 8 0 false) s 4 = some 0x04038201 ∧
    mem (.atomlMin 4 8 0 false) = some [0x10, 0, 0, 0] ∧ mem (.atomlMax 4 8 0 false) = some [1, 0x82, 3, 4] ∧
    mem (.atomlXchg 4 8 0 false) = some [0x10, 0, 0, 0] ∧ mem (.atomlOr 4 8 0 false) = some [0x11, 0x82, 3, 4] ∧
    mem (.atomlCas 6 8 0 false) = some [99, 0, 0, 0] ∧ result (.atomlCas 6 8 0 false) s 6 = some 0x04038201 := by decide +kernel

/-- R107, R106: a branch of offset 32 halfwords, one of −1; a call pushes the next instruction's address. -/
theorem test_branches :
    field (.bra 7 true 32) D Thread.pc = some 0x40 ∧ field (.bra 7 true 0x1FFFFF) (onThread D fun h => { h with pc := 0x100 }) Thread.pc = some 0xFE ∧
    field (.bra 0 true 32) D Thread.pc = some 4 ∧ field (.bra 0 false 32) D Thread.pc = some 0x40 ∧
    field (.call 7 true 32) D (fun h => (h.pc, h.rs)) = some (0x40, [4]) ∧ field .ret shallow (fun h => (h.pc, h.rs)) = some (0, [8]) ∧
    field (.jmpi 4) atOther Thread.pc = some 0 ∧ field .exit D Thread.ended = some true := by decide +kernel

/-- R120: b1 := b2 op b3 with b2 true and b3 false. -/
theorem test_bop :
    let s := onThread D fun h => { h with b := 0x84 }
    field (.bop 1 2 3 0) s Thread.b = some 0x84 ∧ field (.bop 1 2 3 1) s Thread.b = some 0x86 ∧ field (.bop 1 2 3 2) s Thread.b = some 0x86 ∧
    field (.bop 1 2 3 3) s Thread.b = some 0x86 := by decide +kernel

/-- R28, R222 to R224. -/
theorem test_special :
    result (.srd 6 0x01) D 6 = some 0x00002304 ∧ result (.srd 6 0x02) D 6 = some 0x3F800000 ∧
    (after (.movs 5 3) A).map (fun s => (group s).sreg 3) = some 33 ∧ result (.smov 6 3) (onGroup D fun G => G.setSreg 3 7) 6 = some 7 ∧
    (after (.swr 5 0x00) A).map (fun s => (group s).fpctl) = some 0x21 := by decide +kernel

/-- R53's example: width 16, whose first four lanes offer 1.0, 2^-24, 2^-24 and −1.0. -/
theorem test_tree :
    treeReduce add32 0x80000000 ([0x3F800000, 0x33800000, 0x33800000, 0xBF800000] ++ List.replicate 12 0x80000000) = 0x33800000 := by
  decide +kernel

end

end Sys2Proof.Tests
end

section
/-!
PROOFS. The argument registers of a new group (R20): a map filled key by key, the s registers of `Group.create`, and the
groups that `Team.create` adds.
-/

namespace Sys2Proof.Machine

/-! ### A map written at each key of a range -/

theorem SMap.sorted_put {α : Type} [DecidableEq α] (k : Nat) (v d : α) {m : SMap α} (hm : SMap.sorted m = true) :
    SMap.sorted (SMap.put m k v d) = true := by
  unfold SMap.put
  split
  · exact SMap.sorted_erase k hm
  · exact SMap.sorted_insert k v hm

theorem SMap.sorted_foldl_put {α : Type} [DecidableEq α] (f : Nat → α) (d : α) (l : List Nat) {m : SMap α}
    (hm : SMap.sorted m = true) : SMap.sorted (l.foldl (fun m k => SMap.put m k (f k) d) m) = true :=
  List.foldlRecOn (motive := fun m => SMap.sorted m = true) l _ hm fun _ h k _ => SMap.sorted_put k (f k) d h

/-- Every key below the bound reads as the value written there, and every other as before. -/
theorem SMap.getD_foldl_put_range {α : Type} [DecidableEq α] (f : Nat → α) (d : α) {m : SMap α}
    (hm : SMap.sorted m = true) (n j : Nat) :
    SMap.getD ((List.range n).foldl (fun m k => SMap.put m k (f k) d) m) j d = if j < n then f j else SMap.getD m j d := by
  induction n with
  | zero => simp
  | succ n ih =>
    rw [List.range_succ, List.foldl_append, List.foldl_cons, List.foldl_nil]
    by_cases hj : j = n
    · subst hj
      rw [SMap.getD_put_self j _ d (SMap.sorted_foldl_put f d _ hm), if_pos (Nat.lt_succ_self j)]
    · rw [SMap.getD_put_other hj, ih]
      exact if_congr (by omega) rfl rfl

/-! ### The s registers of a new group -/

theorem Team.arg_of_lt (T : Team) {n : Nat} (h : n < 60) : T.arg n = T.args.getD n 0 := if_pos h

theorem Team.arg_of_le (T : Team) {n : Nat} (h : 63 ≤ n) : T.arg n = 0 := by
  unfold Team.arg
  rw [if_neg (by omega), if_neg (by omega), if_neg (by omega), if_neg (by omega)]

/-- R20 and R224: each s register of a new group holds what front code of its team reads there. -/
theorem Group.create_sreg (T : Team) (producer : Bool) (budget lane : Nat) (beat : Option Nat) (n : Nat) :
    (Group.create T producer budget lane beat).sreg n = T.arg n := by
  have h : (Group.create T producer budget lane beat).sreg n = if n < 63 then T.arg n else 0 :=
    SMap.getD_foldl_put_range T.arg 0 rfl 63 n
  rw [h]
  split
  · rfl
  · next hn => exact (T.arg_of_le (Nat.le_of_not_lt hn)).symm

/-- The argument values of a team, register by register as R20 lists them. -/
theorem Group.sreg_values_of_eq_arg {T : Team} {G : Group} (h : ∀ n, G.sreg n = T.arg n) :
    (∀ n < 60, G.sreg n = T.args.getD n 0) ∧ G.sreg 60 = T.argAddr.extractLsb' 0 32 ∧
      G.sreg 61 = T.argAddr.extractLsb' 32 32 ∧ G.sreg 62 = T.argSize ∧ G.sreg 63 = 0 :=
  ⟨fun n hn => (h n).trans (T.arg_of_lt hn), h 60, h 61, h 62, (h 63).trans (T.arg_of_le (Nat.le_refl 63))⟩

/-! ### The groups of a new team -/

theorem Team.group?_setGroup (T : Team) (g j : Nat) (G : Group) :
    (T.setGroup g G).group? j = if j = g then some G else T.group? j := by
  split
  · next h => subst h; exact SMap.find?_insert_self j G T.groups
  · next h => exact SMap.find?_insert_other h G T.groups

/-- The team has these argument values, and the s registers of every group it has hold them. -/
structure Team.GroupsLoaded (args : List Word) (addr : Word64) (size : Word) (T : Team) : Prop where
  args_eq : T.args = args
  argAddr_eq : T.argAddr = addr
  argSize_eq : T.argSize = size
  sreg_eq : ∀ g G, T.group? g = some G → ∀ n, G.sreg n = T.arg n

section

variable {args : List Word} {addr : Word64} {size : Word} {T : Team}

theorem Team.GroupsLoaded.of_groups_nil (T : Team) (h : T.groups = []) :
    T.GroupsLoaded T.args T.argAddr T.argSize where
  args_eq := rfl
  argAddr_eq := rfl
  argSize_eq := rfl
  sreg_eq g G hG := by
    rw [Team.group?, h] at hG
    cases hG

theorem Team.GroupsLoaded.setThread (h : T.GroupsLoaded args addr size) (t : Nat) (th : Thread) :
    (T.setThread t th).GroupsLoaded args addr size :=
  ⟨h.args_eq, h.argAddr_eq, h.argSize_eq, h.sreg_eq⟩

theorem Team.GroupsLoaded.setChain (h : T.GroupsLoaded args addr size) (c : Option Chain) :
    Team.GroupsLoaded args addr size { T with chain := c } :=
  ⟨h.args_eq, h.argAddr_eq, h.argSize_eq, h.sreg_eq⟩

theorem Team.GroupsLoaded.setGroup (h : T.GroupsLoaded args addr size) (g : Nat) {G : Group}
    (hG : ∀ n, G.sreg n = T.arg n) : (T.setGroup g G).GroupsLoaded args addr size where
  args_eq := h.args_eq
  argAddr_eq := h.argAddr_eq
  argSize_eq := h.argSize_eq
  sreg_eq j G' hj := by
    rw [Team.group?_setGroup] at hj
    split at hj
    · cases hj; exact hG
    · exact h.sreg_eq j G' hj

theorem Team.GroupsLoaded.addGroup (h : T.GroupsLoaded args addr size) (r : LaunchRec) (g : Nat) (producer : Bool)
    (beat : Option Nat) : (T.addGroup r g producer beat).GroupsLoaded args addr size :=
  List.foldlRecOn (List.range T.width) _ (h.setGroup g (Group.create_sreg T producer _ _ beat))
    fun _ hT _ _ => hT.setThread _ _

theorem Team.GroupsLoaded.addGroups (h : T.GroupsLoaded args addr size) (r : LaunchRec) (producer : Bool)
    (ix : Nat → Nat) (l : List Nat) :
    (l.foldl (fun T j => T.addGroup r (ix j) producer none) T).GroupsLoaded args addr size :=
  List.foldlRecOn l _ h fun _ hT j _ => hT.addGroup r (ix j) producer none

end

theorem Team.create_groupsLoaded (id : Nat) (L : Launch) (entries : Word64 × Word64) (ix : Nat) (x y z : BitVec 16)
    (args : List Word) (addr : Word64) (size : Word) :
    (Team.create id L entries ix x y z args addr size).GroupsLoaded args addr size := by
  unfold Team.create
  extract_lets r p c counted B T₀ T₁
  have h₁ : T₁.GroupsLoaded args addr size :=
    (Team.GroupsLoaded.of_groups_nil T₀ rfl).addGroups r true (fun g => g) (List.range p)
  split
  · exact h₁.setChain _
  · exact h₁.addGroups r false (fun j => p + j) (List.range c)

/-- Settles O54: `Group.create` loads every s register with its team's argument value, and every group a new team has
was put there by `Group.create`, which the fold over its groups keeps (`Team.GroupsLoaded`). -/
theorem groupArguments : Obligations.GroupArguments := by
  unfold Obligations.GroupArguments
  refine ⟨fun T producer budget lane beat => ?_, fun id L entries ix x y z args addr size g G hG => ?_⟩
  · exact Group.sreg_values_of_eq_arg (Group.create_sreg T producer budget lane beat)
  · obtain ⟨hargs, haddr, hsize, hsreg⟩ := Team.create_groupsLoaded id L entries ix x y z args addr size
    have h := Group.sreg_values_of_eq_arg (hsreg g G hG)
    rwa [hargs, haddr, hsize] at h

end Sys2Proof.Machine
end

section
/-!
PROOFS. The boolean operation of b registers (R120): the bits that `setBit` leaves, the word of BOP field by field, and what
BOP does to the thread that issues it.
-/

namespace Sys2Proof

open Machine

/-! ### Words of major 0x3E -/

theorem rawWord_of_major3E {w : BitVec 32} (h : w.extractLsb' 0 7 = 0x7D#7) : rawWord w = group7D w := by
  unfold rawWord
  rw [h]
  rfl

/-- Every word whose fields are those of R120's table is BOP with those operands. -/
theorem decode32_of_bop_fields {w : BitVec 32} {op : BitVec 2} {z x y : BitVec 3} (hmajor : w.extractLsb' 0 7 = 0x7D#7)
    (hminor : w.extractLsb' 7 3 = 5#3) (h10 : w.extractLsb' 10 5 = 0#5) (hd : w.extractLsb' 15 3 = z)
    (ha : w.extractLsb' 18 3 = x) (h21 : w.extractLsb' 21 2 = 0#2) (hb : w.extractLsb' 23 3 = y)
    (ho : w.extractLsb' 26 2 = op) (h28 : w.extractLsb' 28 3 = 0#3) (h31 : w.extractLsb' 31 1 = 1#1) :
    decode32 w = some (.bop z x y op) := by
  simp [decode32, rawWord_of_major3E hmajor, group7D, req, hminor, h10, hd, ha, h21, hb, ho, h28, h31, Instr.wf]

theorem decode32_bop_word (z x y : BitVec 3) (op : BitVec 2) :
    decode32 (1#1 ++ (0#3 ++ op ++ y) ++ (0#2 ++ x ++ z) ++ 0#5 ++ 5#3 ++ 0x3E#6 ++ 1#1) = some (.bop z x y op) := by
  apply decode32_of_bop_fields
  case hmajor =>
    -- the major opcode and the length bit, of which the word is written as two fields
    simp only [BitVec.extractLsb'_append_eq_ite]
    simp
  all_goals
    simp (disch := decide) only [BitVec.extractLsb'_append_eq_of_le, BitVec.extractLsb'_append_eq_of_add_le]
    simp

end Sys2Proof

namespace Sys2Proof.Machine

/-! ### The b registers -/

theorem setBit_b7 (b : BitVec 8) (v : Bool) : setBit b 7 v = b := if_pos rfl

theorem getLsbD_setBit {z : BitVec 3} (hz : z ≠ 7) (b : BitVec 8) (v : Bool) (k : Nat) :
    (setBit b z v).getLsbD k = if k = z.toNat then v else b.getLsbD k := by
  have hlt : z.toNat < 8 := z.isLt
  have hbit : (BitVec.ofNat 8 (2 ^ z.toNat)).getLsbD k = decide (k = z.toNat) := by
    rw [BitVec.getLsbD_ofNat, Nat.testBit_two_pow, Bool.eq_iff_iff]
    simp only [Bool.and_eq_true, decide_eq_true_eq]
    omega
  unfold setBit
  rw [if_neg (show ¬z = 7#3 from hz)]
  cases v with
  | true =>
    rw [if_pos rfl, BitVec.getLsbD_or, hbit]
    split <;> simp [*]
  | false =>
    rw [if_neg Bool.false_ne_true, BitVec.getLsbD_and, BitVec.getLsbD_not, hbit]
    split
    · simp [*]
    · next hk => simpa [hk] using BitVec.lt_of_getLsbD

/-- A write to b7 is discarded (R120). -/
theorem Thread.setBit_eq_ite (h : Thread) (z : BitVec 3) (v : Bool) :
    ({ h with b := setBit h.b z v } : Thread) = if z = 7 then h else { h with b := setBit h.b z v } := by
  split
  · next hz => subst hz; rw [setBit_b7]
  · rfl

/-! ### What BOP does -/

/-- The operation of two b registers that a code selects (R120). -/
def boolOp (op : BitVec 2) (u v : Bool) : Bool :=
  match op.toNat with
  | 0 => u && v
  | 1 => u || v
  | 2 => u != v
  | _ => u && !v

theorem does_bop (z x y : BitVec 3) (op : BitVec 2) :
    Does (.bop z x y op) fun h =>
      let v := boolOp op (h.b.getLsbD x.toNat) (h.b.getLsbD y.toNat)
      if z = 7 then h else { h with b := setBit h.b z v } := by
  intro s c t T G h hs
  let v := boolOp op (h.b.getLsbD x.toNat) (h.b.getLsbD y.toNat)
  have hbody : bodyBop z x y op (c.lane t) s =
      .ok (none, s.modThread c.team t fun h => { h with b := setBit h.b z v }) := by
    simp only [bodyBop, seq_apply, M.bind_apply, hs.rdB]
    rfl
  rw [hs.does rfl (exec_bop z x y op s) hbody]
  exact congrArg _ (hs.after_congr (h.setBit_eq_ite z v))

/-- Settles O14: `does_bop` at each of the four codes, the bits that `setBit` leaves, and the word field by field. -/
theorem booleanOperations : Obligations.BooleanOperations := by
  unfold Obligations.BooleanOperations
  intro z x y
  refine ⟨does_bop z x y 0, does_bop z x y 1, does_bop z x y 2, does_bop z x y 3, fun v k hz => ?_,
    decode32_bop_word z x y, ?_⟩
  · simp only [getLsbD_setBit hz, if_true, true_and]
    intro hk
    simp only [if_neg hk, and_self]
  · exact decode32_bop_word 1 2 3 1

end Sys2Proof.Machine
end

section
/-!
PROOFS. Taking an exception whose handler is entered at once (R295, R298): what `State.trapLane` leaves the thread with; and
TRAP and BRK (R123), their words and what they do.
-/

namespace Sys2Proof

open Machine

/-! ### The words of TRAP and BRK -/

/-- Every word whose fields are those of R123's table is TRAP with that immediate. -/
theorem decode32_of_trap_fields {w : BitVec 32} {k : BitVec 8} (hmajor : w.extractLsb' 0 7 = 0x7D#7)
    (hminor : w.extractLsb' 7 3 = 2#3) (h10 : w.extractLsb' 10 13 = 0#13) (hk : w.extractLsb' 23 8 = k)
    (h31 : w.extractLsb' 31 1 = 1#1) : decode32 w = some (.trap k) := by
  simp [decode32, rawWord_of_major3E hmajor, group7D, req, hminor, h10, hk, h31, Instr.wf]

theorem setWidth_shiftLeft_23 (k : BitVec 8) : k.setWidth 32 <<< 23 = 0#1 ++ k ++ 0#23 := by
  apply BitVec.eq_of_toNat_eq
  rw [BitVec.toNat_append, BitVec.toNat_append, BitVec.toNat_shiftLeft, BitVec.toNat_setWidth]
  simp only [Nat.shiftLeft_eq, BitVec.toNat_zero, Nat.zero_mul, Nat.or_zero, Nat.zero_or]
  omega

theorem trap_word_eq_append (k : BitVec 8) : 0x8000017D#32 ||| (k.setWidth 32 <<< 23) = 1#1 ++ k ++ 0x17D#23 := by
  rw [setWidth_shiftLeft_23]
  calc (1#1 ++ 0#8 ++ 0x17D#23) ||| (0#1 ++ k ++ 0#23)
      = ((1#1 ++ 0#8) ||| (0#1 ++ k)) ++ (0x17D#23 ||| 0#23) := BitVec.or_append
    _ = 1#1 ++ k ++ 0x17D#23 := by rw [BitVec.or_append, BitVec.or_zero, BitVec.or_zero, BitVec.zero_or]

theorem decode32_trap_word (k : BitVec 8) : decode32 (0x8000017D#32 ||| (k.setWidth 32 <<< 23)) = some (.trap k) := by
  rw [trap_word_eq_append]
  apply decode32_of_trap_fields
  all_goals
    simp (disch := decide) only [BitVec.extractLsb'_append_eq_of_le, BitVec.extractLsb'_append_eq_of_add_le]
    simp

end Sys2Proof

namespace Sys2Proof.Machine

/-! ### Traps with a saved address of their own -/

section

variable {s : State} {i : Instr} {c : Issue} {t : Nat} {T : Team} {G : Group} {h : Thread}

/-- A sole issue whose effect traps with another saved address than the thread's PC. -/
theorem issueWith_sole_trapAt {onPage : Lane → Word64 → BitVec 8 → State → State} {body : Lane → M Next} {cause : BitVec 8}
    {addr tpc : Word64} (hs : Sole s i c t T G h) (hp : noRings T i) (hk : kindOk s T i = true)
    (hb : body (c.lane t) s = .error (.trapAt cause addr tpc)) :
    issueWith i onPage body s = .next (s.trapped c i t cause addr (some tpc)) := by
  have hl : c.lanes = [c.lane t] := by simp [Issue.lanes, hs.lanes]
  simp only [issueWith, hs.cur, hl, stepLane, hs.present, hs.notDue, hs.perform hp hk, M.bind_apply, hb, afterLane,
    State.trapped, Bool.not_true, Bool.false_eq_true, if_false]

theorem At.pcOf (hs : At s c t T G h) : Machine.pcOf (c.lane t) s = .ok (h.pc, s) := by
  simp [Machine.pcOf, hs.getThread]

/-- R123: TRAP saves the address after it. -/
theorem exec_trap_of_solo {k : BitVec 8} (hs : Solo s (.trap k) c t T G h) :
    exec (.trap k) s = .next (s.trapped c (.trap k) t Cause.userTrap 0 (some (h.pc + 4))) := by
  have hbody : bodyTrap k (c.lane t) s = .error (.trapAt Cause.userTrap 0 (h.pc + 4)) := by
    simp only [bodyTrap, M.bind_apply, hs.pcOf, stop_apply]
  exact issueWith_sole_trapAt hs.toSole hs.noRings rfl hbody

/-- R123: BRK saves its own address. -/
theorem exec_brk_of_solo (hs : Solo s .brk c t T G h) :
    exec .brk s = .next (s.trapped c .brk t Cause.userTrap 0 none) :=
  hs.traps rfl (exec_brk s) (trap_apply Cause.userTrap 0 s)

end

/-! ### Entering a handler -/

/-- What ENTER writes into the thread: its frame registers, and the PC of the handler (R295, R298). -/
def Thread.inHandler (h : Thread) (r : TrapReq) (mask : Word) (pc : Word64) : Thread :=
  { h with
      tpc := r.tpc.setWidth 32, tcause := 0x100 ||| r.cause.setWidth 32, tinst := r.word, taddr := r.addr, tmask := mask,
      trap := none, wait := none, pc := pc }

/-- The address of a thread's handler for a cause: its low half from the launch's trap table, its high half the PC's
(R297, R298). -/
def State.handlerOf (s : State) (T : Team) (h : Thread) (cause : BitVec 8) : Word64 :=
  h.pc.extractLsb' 32 32 ++ (s.bodyBase T + (s.trapWord T cause.toNat).setWidth 64).setWidth 32

/-- A trap with this cause enters its handler at once and writes no operand frame: no result is on its way to the thread,
it is in no handler, and its launch has one for the cause and has no frames. -/
structure Enters (s : State) (k t : Nat) (T : Team) (G : Group) (h : Thread) (cause : BitVec 8) : Prop where
  team : s.team? k = some T
  thread : T.thread? t = some h
  group : T.group? (T.groupIx t) = some G
  quiet : h.pend = []
  catchable : Cause.never cause = false
  outside : h.tcause.getLsbD 8 = false
  unframed : s.trapWord T 0 = 0xFFFFFFFF
  handler : s.trapWord T cause.toNat ≠ 0

theorem Cause.ne_of_catchable {cause : BitVec 8} (h : Cause.never cause = false) :
    ¬(cause = Cause.reconstruction ∨ cause = Cause.uncorrectable) := by
  rintro (rfl | rfl) <;> cases h

section

variable {s : State} {k t : Nat} {T : Team} {G : Group} {h : Thread} {cause : BitVec 8}

theorem Enters.framed (he : Enters s k t T G h cause) : s.framed T = false := by
  simp [State.framed, he.unframed]

theorem Enters.frameHeld (he : Enters s k t T G h cause) : s.frameHeld k t = false := by
  simp [State.frameHeld, he.team, he.framed]

/-- A thread that no result is on its way to has nothing delivered. -/
theorem Enters.deliver (he : Enters s k t T G h cause) (all : Bool) :
    Machine.deliver ⟨k, .thread t⟩ all s = .ok ((), s) := by
  simp [Machine.deliver, pendOf, getThread_apply he.team he.thread, he.quiet]

/-- The team with a change of one of its threads. -/
def Team.modThread (T : Team) (t : Nat) (f : Thread → Thread) : Team := { T with threads := SMap.modify t f T.threads }

theorem State.team?_modThread (hT : s.team? k = some T) (f : Thread → Thread) :
    (s.modThread k t f).team? k = some (T.modThread t f) := by
  rw [State.modThread, State.team?_modTeam, if_pos rfl, hT]
  rfl

theorem Team.thread?_modThread (hh : T.thread? t = some h) (f : Thread → Thread) :
    (T.modThread t f).thread? t = some (f h) := by
  unfold Team.thread? at hh
  simp [Team.modThread, Team.thread?, SMap.find?_modify, hh]

/-- A change of the thread that leaves its pending results and its frame's valid bit leaves it about to enter. -/
theorem Enters.modThread (he : Enters s k t T G h cause) {f : Thread → Thread} (hpend : (f h).pend = h.pend)
    (hcause : (f h).tcause = h.tcause) : Enters (s.modThread k t f) k t (T.modThread t f) G (f h) cause where
  team := State.team?_modThread he.team f
  thread := Team.thread?_modThread he.thread f
  group := he.group
  quiet := hpend.trans he.quiet
  catchable := he.catchable
  outside := by rw [hcause, he.outside]
  unframed := he.unframed
  handler := he.handler

@[simp] theorem State.trapWord_modThread (s : State) (k t : Nat) (f : Thread → Thread) (T : Team) (n : Nat) :
    (s.modThread k t f).trapWord T n = s.trapWord T n := rfl

@[simp] theorem State.bodyBase_modThread (s : State) (k t : Nat) (f : Thread → Thread) (T : Team) :
    (s.modThread k t f).bodyBase T = s.bodyBase T := rfl

theorem State.enter_of_enters {r : TrapReq} (he : Enters s k t T G h r.cause) :
    s.enter k t r = s.modThread k t fun _ =>
      h.inHandler r (BitVec.ofNat 32 (tmaskHigh T.width r.instr)) (s.handlerOf T h r.cause) := by
  simp only [State.enter, he.team, he.thread, he.group, Cause.ne_of_catchable he.catchable, he.outside, he.catchable, he.framed,
    he.handler, Bool.false_and, Bool.false_eq_true, or_self, if_false, Nat.add_zero, State.setThread, State.trapWord_modThread,
    State.bodyBase_modThread, State.modThread_modThread]
  rfl

/-- What a thread has given up when its trap is taken: its wait, and its places in the lines of ports. -/
def Thread.released (h : Thread) : Thread := { h with wait := none, places := [] }

theorem State.takeTrap_of_enters {r : TrapReq} (he : Enters s k t T G h r.cause) :
    s.takeTrap k t r = s.modThread k t fun _ =>
      h.released.inHandler r (BitVec.ofNat 32 (tmaskHigh T.width r.instr)) (s.handlerOf T h r.cause) := by
  have he' := he.modThread (f := Thread.released) rfl rfl
  have hdeliver : runM (Machine.deliver ⟨k, .thread t⟩ true) (s.modThread k t Thread.released) =
      .ok ((), s.modThread k t Thread.released) := he'.deliver true
  calc s.takeTrap k t r
      = (s.modThread k t Thread.released).enter k t r := by
        unfold State.takeTrap
        extract_lets s₁
        rw [if_neg (Cause.ne_of_catchable he.catchable)]
        have e : s₁ = s.modThread k t Thread.released := rfl
        simp only [e, he'.frameHeld, Bool.and_false, Bool.false_eq_true, if_false, hdeliver]
    _ = _ := by rw [State.enter_of_enters he', State.modThread_modThread]; rfl

/-- R295 and R298, for a lane of thread `t` that traps at an instruction. -/
theorem State.trapLane_of_enters {c : Issue} {addr : Word64} (i : Option Instr) (tpc : Option Word64)
    (he : Enters s c.team t T G h cause) :
    s.trapLane c i ⟨c.team, .thread t⟩ cause addr tpc = s.modThread c.team t fun _ =>
      Thread.inHandler { h.released with count := h.count + 1 } ⟨cause, addr, tpc.getD h.pc, c.word, i⟩
        (BitVec.ofNat 32 (tmaskHigh T.width i)) (s.handlerOf T h cause) := by
  have hthread : s.thread? c.team t = some h := by simp [State.thread?, he.team, he.thread]
  have he' := he.modThread (f := fun h => { h with count := h.count + 1 }) rfl rfl
  simp only [State.trapLane, hthread]
  rw [State.takeTrap_of_enters he', State.modThread_modThread]
  rfl

end

/-- Settles O15: the bodies of TRAP and BRK, their words field by field, and the entry of the handler. -/
theorem softwareTraps : Obligations.SoftwareTraps := by
  unfold Obligations.SoftwareTraps
  refine ⟨fun k s c t T G h => ⟨exec_trap_of_solo, exec_brk_of_solo⟩, decode32_trap_word, by decide, decode32_trap_word 5, ?_⟩
  intro s c i t T G h tpc hteam hthread hgroup hpend hvalid hframes hhandler
  have he : Enters s c.team t T G h Cause.userTrap := ⟨hteam, hthread, hgroup, hpend, rfl, hvalid, hframes, hhandler⟩
  have hthread' : s.thread? c.team t = some h := by simp [State.thread?, hteam, hthread]
  rw [State.trapLane_of_enters (some i) tpc he, State.thread?_modThread, hthread']
  exact ⟨_, rfl, rfl, rfl, rfl⟩

end Sys2Proof.Machine
end

section
/-!
PROOFS. Decoding what the encoder writes (R56, R59–R74, R338): the fields of a word that is a row of fields, the rows of the
encoding tables read back range by range, and the words of successors.
-/

namespace Sys2Proof

open Machine

/-! ### Fields of a word -/

@[simp] theorem flag_bit (b : Bool) : flag (bit b) = b := by cases b <;> rfl

/-- The lowest field of a word. -/
@[simp] theorem extractLsb'_append_low {m n : Nat} (x : BitVec m) (y : BitVec n) : (x ++ y).extractLsb' 0 n = y := by
  rw [BitVec.extractLsb'_append_eq_of_add_le (by omega), BitVec.extractLsb'_eq_self]

/-- The field above the lowest one. -/
@[simp] theorem extractLsb'_append_high {m n : Nat} (x : BitVec m) (y : BitVec n) : (x ++ y).extractLsb' n m = x := by
  rw [BitVec.extractLsb'_append_eq_of_le (Nat.le_refl n), Nat.sub_self, BitVec.extractLsb'_eq_self]

/-- Fields whose own lowest fields differ are different. -/
theorem extractLsb'_ne_of_low {w n : Nat} {x : BitVec w} {z : BitVec n} (m : Nat) (hm : m ≤ n)
    (h : x.extractLsb' 0 m ≠ z.extractLsb' 0 m) : x.extractLsb' 0 n ≠ z := by
  rintro rfl
  apply h
  ext k hk
  simp [show k < n by omega]

/-- The two halfwords of a word make it up (R5). -/
theorem halves_append (w : Word) : w.extractLsb' 16 16 ++ w.extractLsb' 0 16 = w := by
  ext k hk
  rw [BitVec.getElem_append]
  split
  · simp [BitVec.getLsbD_eq_getElem hk]
  · next h => simp [Nat.add_sub_cancel' (Nat.le_of_not_lt h), BitVec.getLsbD_eq_getElem hk]

/-! ### Native words -/

/-- The instruction stands in the table from row `lo` on and before row `hi`. -/
def Instr.rowIn (lo hi : Nat) (i : Instr) : Bool := Nat.ble lo i.ctorIdx && Nat.blt i.ctorIdx hi

theorem Instr.rowIn_or {lo hi : Nat} (mid : Nat) {i : Instr} (h : i.rowIn lo hi = true) :
    i.rowIn lo mid = true ∨ i.rowIn mid hi = true := by
  simp only [rowIn, Nat.ble_eq, Nat.blt_eq, Bool.and_eq_true] at h ⊢
  omega

section

variable {i : Instr} {w : Word}

/-- Integer arithmetic and moves. -/
theorem rawWord_encode32_integer (hi : i.rowIn 16 48 = true) (h : encode32 i = some w) : rawWord w = some i := by
  cases i
  all_goals first | (cases hi; done) | cases h
  all_goals
    simp (disch := decide) only [rawWord, group21, BitVec.extractLsb'_append_eq_of_le,
      BitVec.extractLsb'_append_eq_of_add_le, BitVec.extractLsb'_eq_self, Nat.reduceSub, BitVec.reduceToNat,
      BitVec.reduceExtractLsb', BitVec.reduceAppend, flag_bit]
  all_goals simp [req]

/-- Immediates, compares, shuffles and votes. -/
theorem rawWord_encode32_immediate (hi : i.rowIn 48 77 = true) (h : encode32 i = some w) : rawWord w = some i := by
  cases i
  all_goals first | (cases hi; done) | cases h
  all_goals
    simp (disch := decide) only [rawWord, group21, group2B, group2D, group35, group37, BitVec.extractLsb'_append_eq_of_le,
      BitVec.extractLsb'_append_eq_of_add_le, BitVec.extractLsb'_eq_self, Nat.reduceSub, BitVec.reduceToNat,
      BitVec.reduceExtractLsb', BitVec.reduceAppend, flag_bit]
  all_goals simp [req]

/-- Arithmetic, functions and compares of binary32 and packed values. -/
theorem rawWord_encode32_float (hi : i.rowIn 77 100 = true) (h : encode32 i = some w) : rawWord w = some i := by
  cases i
  all_goals first | (cases hi; done) | cases h
  all_goals
    simp (disch := decide) only [rawWord, group4D,
      BitVec.extractLsb'_append_eq_of_le, BitVec.extractLsb'_append_eq_of_add_le, BitVec.extractLsb'_eq_self, Nat.reduceSub, BitVec.reduceToNat,
      BitVec.reduceExtractLsb', BitVec.reduceAppend, flag_bit]
  all_goals simp [req]

/-- Conversions, dot products, division and probability predicates. -/
theorem rawWord_encode32_convert (hi : i.rowIn 100 127 = true) (h : encode32 i = some w) : rawWord w = some i := by
  cases i
  all_goals first | (cases hi; done) | cases h
  all_goals
    simp (disch := decide) only [rawWord, group53, group55, group57, group5B, group5D, group5F,
      BitVec.extractLsb'_append_eq_of_le, BitVec.extractLsb'_append_eq_of_add_le, BitVec.extractLsb'_eq_self, Nat.reduceSub, BitVec.reduceToNat,
      BitVec.reduceExtractLsb', BitVec.reduceAppend, flag_bit]
  all_goals simp [req]

/-- Loads, stores and atomics. -/
theorem rawWord_encode32_access (hi : i.rowIn 127 147 = true) (h : encode32 i = some w) : rawWord w = some i := by
  cases i
  all_goals first | (cases hi; done) | cases h
  all_goals
    simp (disch := decide) only [rawWord, group69, group6B, BitVec.extractLsb'_append_eq_of_le,
      BitVec.extractLsb'_append_eq_of_add_le, BitVec.extractLsb'_eq_self, Nat.reduceSub, BitVec.reduceToNat,
      flag_bit]
  all_goals simp [req]

/-- Fences, barriers, copies and streams. -/
theorem rawWord_encode32_copy (hi : i.rowIn 147 161 = true) (h : encode32 i = some w) : rawWord w = some i := by
  cases i
  all_goals first | (cases hi; done) | cases h
  all_goals
    simp (disch := decide) only [rawWord, group6D, group6F,
      BitVec.extractLsb'_append_eq_of_le, BitVec.extractLsb'_append_eq_of_add_le, BitVec.extractLsb'_eq_self, Nat.reduceSub, BitVec.reduceToNat,
      BitVec.reduceExtractLsb', BitVec.reduceAppend, flag_bit]
  all_goals simp [req]

/-- Matrix commands, wings, re-shards and checksums. -/
theorem rawWord_encode32_engine (hi : i.rowIn 161 179 = true) (h : encode32 i = some w) : rawWord w = some i := by
  cases i
  all_goals first | (cases hi; done) | cases h
  all_goals
    simp (disch := decide) only [rawWord, group71, group73, group75, group77,
      BitVec.extractLsb'_append_eq_of_le, BitVec.extractLsb'_append_eq_of_add_le, BitVec.extractLsb'_eq_self, Nat.reduceSub, BitVec.reduceToNat,
      BitVec.reduceExtractLsb', BitVec.reduceAppend, flag_bit]
  all_goals simp [req]

/-- Control flow. -/
theorem rawWord_encode32_control (hi : i.rowIn 179 195 = true) (hs : isSucc i = false) (h : encode32 i = some w) :
    rawWord w = some i := by
  cases i
  all_goals first | (cases hi; done) | (cases hs; done) | cases h
  all_goals
    simp (disch := decide) only [rawWord, group7D, BitVec.extractLsb'_append_eq_of_le,
      BitVec.extractLsb'_append_eq_of_add_le, BitVec.extractLsb'_eq_self, Nat.reduceSub, BitVec.reduceToNat,
      BitVec.reduceExtractLsb', BitVec.reduceAppend, flag_bit]
  all_goals simp [req]

/-- Special registers, decision queues and the front thread's instructions. -/
theorem rawWord_encode32_system (hi : i.rowIn 195 300 = true) (hs : isSucc i = false) (h : encode32 i = some w) :
    rawWord w = some i := by
  cases i
  all_goals first | (cases hi; done) | (cases hs; done) | cases h
  all_goals
    simp (disch := decide) only [rawWord, group73, group7D, group7F, BitVec.extractLsb'_append_eq_of_le,
      BitVec.extractLsb'_append_eq_of_add_le, BitVec.extractLsb'_eq_self, Nat.reduceSub, BitVec.reduceToNat,
      BitVec.reduceExtractLsb', BitVec.reduceAppend]
  case ftwaitClk a =>
    -- the rows of major 0x3F and minor 6 are tried in turn, and three of them end in the minor's own field
    have hne (z : BitVec 21) (hz : 4#5 ≠ z.extractLsb' 0 5) : (0#9 ++ a ++ 4#5).extractLsb' 0 21 ≠ z := by
      apply extractLsb'_ne_of_low 5 (by decide)
      rwa [extractLsb'_append_low]
    simp [req, hne 2#21 (by decide), hne 3#21 (by decide)]
  all_goals simp [req]

/-- Every word that the tables give an instruction reads as that instruction (R60–R73). -/
theorem rawWord_encode32 (hs : isSucc i = false) (h : encode32 i = some w) : rawWord w = some i := by
  have hi : i.rowIn 16 300 = true := by
    cases i
    all_goals first | rfl | cases h
  obtain hi | hi := Instr.rowIn_or 48 hi
  · exact rawWord_encode32_integer hi h
  obtain hi | hi := Instr.rowIn_or 77 hi
  · exact rawWord_encode32_immediate hi h
  obtain hi | hi := Instr.rowIn_or 100 hi
  · exact rawWord_encode32_float hi h
  obtain hi | hi := Instr.rowIn_or 127 hi
  · exact rawWord_encode32_convert hi h
  obtain hi | hi := Instr.rowIn_or 147 hi
  · exact rawWord_encode32_access hi h
  obtain hi | hi := Instr.rowIn_or 161 hi
  · exact rawWord_encode32_copy hi h
  obtain hi | hi := Instr.rowIn_or 179 hi
  · exact rawWord_encode32_engine hi h
  obtain hi | hi := Instr.rowIn_or 195 hi
  · exact rawWord_encode32_control hi hs h
  · exact rawWord_encode32_system hi hs h

/-- The length bit of every such word is set (R56). -/
theorem lengthBit_encode32 (hs : isSucc i = false) (h : encode32 i = some w) : w.extractLsb' 0 1 = 1#1 := by
  cases i
  all_goals first | (cases hs; done) | cases h
  all_goals simp (disch := decide) only [BitVec.extractLsb'_append_eq_of_add_le, BitVec.reduceExtractLsb']

/-! ### Compact halfwords -/

/-- Every compact halfword reads as its instruction, and its length bit is clear (R56, R59). -/
theorem rawCompact_encode16 {x : Half} (h : encode16 i = some x) : rawCompact x = some i ∧ x.extractLsb' 0 1 = 0#1 := by
  cases i
  all_goals cases h
  all_goals
    simp (disch := decide) only [rawCompact, BitVec.extractLsb'_append_eq_of_le,
      BitVec.extractLsb'_append_eq_of_add_le, BitVec.extractLsb'_eq_self, Nat.reduceSub, BitVec.reduceToNat,
      BitVec.reduceExtractLsb', and_self]

theorem decode16_encode16 {x : Half} (hw : i.wf = true) (h : encode16 i = some x) : decode16 x = some i := by
  simp [decode16, (rawCompact_encode16 h).1, hw]

theorem decode32_encode32 (hw : i.wf = true) (hs : isSucc i = false) (h : encode32 i = some w) : decode32 w = some i := by
  simp [decode32, rawWord_encode32 hs h, hw]

theorem encodeSucc_of_not_isSucc (hs : isSucc i = false) : encodeSucc i = (encode32 i).toList := by
  cases i
  all_goals first | rfl | cases hs

/-- What is no step of the device and no successor has a halfword or a word. -/
theorem exists_encode_of_not_isStep (hi : isStep i = false) (hs : isSucc i = false) :
    (∃ x, encode16 i = some x) ∨ encode16 i = none ∧ ∃ w, encode32 i = some w := by
  rw [isStep, encodeSucc_of_not_isSucc hs] at hi
  cases h16 : encode16 i with
  | some x => exact .inl ⟨x, rfl⟩
  | none =>
    cases h32 : encode32 i with
    | some w => exact .inr ⟨rfl, w, rfl⟩
    | none => simp [h16, h32] at hi

theorem decodeHalves_encode (rest : List Half) (hw : i.wf = true) (hi : isStep i = false) (hs : isSucc i = false) :
    decodeHalves (encode i ++ rest) = .ok (i, rest) := by
  obtain ⟨x, hx⟩ | ⟨hn, w, hx⟩ := exists_encode_of_not_isStep hi hs
  · simp [encode, hx, decodeHalves, flag, (rawCompact_encode16 hx).2, decode16_encode16 hw hx]
  · have hbit : (w.extractLsb' 0 16).extractLsb' 0 1 = 1#1 := by
      rw [← lengthBit_encode32 hs hx]
      ext k hk
      simp [show k = 0 by omega]
    simp [encode, hn, hx, wordHalves, decodeHalves, flag, hbit, halves_append, decode32_encode32 hw hs hx]

end

/-! ### Successors -/

/-- A target, and an extension word, is 24 bits below a zero byte. -/
theorem extensionWord_fields (t : BitVec 24) :
    (0#8 ++ t : Word).extractLsb' 24 8 = 0#8 ∧ (0#8 ++ t : Word).extractLsb' 0 24 = t :=
  ⟨extractLsb'_append_high 0#8 t, extractLsb'_append_low 0#8 t⟩

theorem targets_map (ts : List (BitVec 24)) : targets (ts.map (0#8 ++ · : BitVec 24 → Word)) = some ts := by
  induction ts with
  | nil => rfl
  | cons t ts ih => simp [targets, extensionWord_fields, ih]

/-- The table of SUCC_SW is as long as its first word says. -/
theorem decodeSucc_succSw (r : BitVec 8) (ts : List (BitVec 24)) (rest : List Word) (h1 : 1 ≤ ts.length)
    (h2 : ts.length < 2 ^ 16) : decodeSucc (encodeSucc (.succSw r ts) ++ rest) = some (.succSw r ts, rest) := by
  have hlen : (BitVec.ofNat 16 ts.length).toNat = ts.length := by rw [BitVec.toNat_ofNat, Nat.mod_eq_of_lt h2]
  have htake : (ts.map (0#8 ++ · : BitVec 24 → Word) ++ rest).take ts.length = ts.map (0#8 ++ ·) :=
    List.take_left' (List.length_map _)
  have hdrop : (ts.map (0#8 ++ · : BitVec 24 → Word) ++ rest).drop ts.length = rest :=
    List.drop_left' (List.length_map _)
  simp (disch := decide) only [encodeSucc, decodeSucc, List.cons_append, BitVec.extractLsb'_append_eq_of_le,
    BitVec.extractLsb'_append_eq_of_add_le, BitVec.extractLsb'_eq_self, Nat.reduceSub, BitVec.reduceToNat,
    BitVec.reduceExtractLsb', hlen, htake, hdrop]
  simp [h1, targets_map]

theorem decodeSucc_encodeSucc (i : Instr) (rest : List Word) (hs : isSucc i = true)
    (hts : ∀ r ts, i = .succSw r ts → 1 ≤ ts.length ∧ ts.length < 2 ^ 16) :
    decodeSucc (encodeSucc i ++ rest) = some (i, rest) := by
  cases i
  case succSw r ts => exact decodeSucc_succSw r ts rest (hts r ts rfl).1 (hts r ts rfl).2
  all_goals first | (cases hs; done) | skip
  all_goals
    simp (disch := decide) only [encodeSucc, encode32, decodeSucc, Option.toList_some, List.cons_append, List.nil_append,
      BitVec.extractLsb'_append_eq_of_le, BitVec.extractLsb'_append_eq_of_add_le,
      BitVec.extractLsb'_eq_self, Nat.reduceSub, BitVec.reduceToNat, BitVec.reduceExtractLsb', flag_bit]
  all_goals simp

/-- Settles O49: a halfword or word is a row of fields, and reading the fields that its own lowest ones lead to gives each
back (`rawCompact_encode16`, `rawWord_encode32`); a table of targets by induction on it. -/
theorem decodingInvertsEncoding : Obligations.DecodingInvertsEncoding := by
  unfold Obligations.DecodingInvertsEncoding
  exact ⟨fun _ rest hw hi hs => decodeHalves_encode rest hw hi hs, decodeSucc_encodeSucc⟩

end Sys2Proof
end

section
/-!
PROOFS. Every step answers a next state (R8, R285): an issue does while an issue is in progress, and a step of the device does
in every state.
-/

namespace Sys2Proof.Machine

open Host (Outcome)

/-- An issue answers a next state while an issue is in progress. -/
theorem issueWith_next {s : State} {c : Issue} (hc : s.cur = some c) (i : Instr)
    (onPage : Lane → Word64 → BitVec 8 → State → State) (body : Lane → M Next) :
    ∃ s', issueWith i onPage body s = .next s' := by
  unfold issueWith
  rw [hc]
  dsimp only
  split
  · exact ⟨_, rfl⟩
  · exact ⟨_, rfl⟩

/-- Every instruction of a program is one issue; every step of the device answers a next state in every state. -/
theorem exec_issue_or_next (i : Instr) (s : State) :
    (isStep i = false ∧ ∃ onPage body, exec i s = issueWith i onPage body s) ∨ ∃ s', exec i s = .next s' := by
  cases i
  all_goals first | exact .inl ⟨rfl, _, _, rfl⟩ | exact .inr ⟨_, rfl⟩

theorem exec_next {s : State} {c : Issue} (hc : s.cur = some c) (i : Instr) : ∃ s', exec i s = .next s' := by
  obtain ⟨-, onPage, body, he⟩ | h := exec_issue_or_next i s
  · rw [he]
    exact issueWith_next hc i onPage body
  · exact h

theorem exec_next_of_isStep {i : Instr} (hi : isStep i = true) (s : State) : ∃ s', exec i s = .next s' := by
  obtain ⟨hf, -⟩ | h := exec_issue_or_next i s
  · rw [hi] at hf
    cases hf
  · exact h

theorem issueAt_next (c : Issue) (pc : Word64) (s : State) : ∃ s', issueAt c pc s = .next s' := by
  unfold issueAt
  extract_lets stopAll
  split
  · exact ⟨_, rfl⟩
  · exact ⟨_, rfl⟩
  · exact exec_next rfl _

theorem takeTurn_next (t : Turn) (s : State) : ∃ s', takeTurn t s = .next s' := by
  cases t with
  | bundle team ts =>
    simp only [takeTurn, issueBundle]
    split
    · exact ⟨_, rfl⟩
    · exact issueAt_next _ _ _
  | front team =>
    simp only [takeTurn, issueFront]
    split
    · split
      · exact issueAt_next _ _ _
      · exact ⟨_, rfl⟩
    · exact ⟨_, rfl⟩
  | event i =>
    simp only [takeTurn]
    split
    · next hi => exact exec_next_of_isStep hi s
    · exact ⟨_, rfl⟩
  | scratchError core word parity e => exact ⟨_, rfl⟩
  | memoryError pa => exact ⟨_, rfl⟩

/-- Settles O52: an issue sets the issue in progress that `exec` asks for, and every other turn answers a next state. -/
theorem everyStepGoesOn : Obligations.EveryStepGoesOn := by
  unfold Obligations.EveryStepGoesOn
  intro s
  unfold step runTurn
  split
  · next t s' _ =>
    obtain ⟨s₁, h⟩ := takeTurn_next t s'
    rw [h]
    exact ⟨_, rfl⟩
  · exact ⟨_, rfl⟩

end Sys2Proof.Machine
end

section
/-!
PROOFS. The integer and move instructions (O1): from what a lane's body leaves to what the instruction does, for each shape
of body, and the word functions of R89 in their arithmetic form.
-/

namespace Sys2Proof.Machine

/-! ### From a lane's body to the instruction -/

section

variable {i : Instr} {body : Lane → M Next} {p : State → Team → Group → Thread → Prop}

/-- The instruction is one that a thread may issue, with the meaning `body` (R73–R75, R86). -/
structure LaneInstr (i : Instr) (body : Lane → M Next) : Prop where
  kind : ∀ s T, kindOk s T i = true
  exec_eq : ∀ s, exec i s = issue i body s

/-- The g registers `rs` are among those that the instruction's fields name. -/
def Names (i : Instr) (rs : List (BitVec 8)) : Prop := ∀ r ∈ rs, r ∈ i.flds.map Fld.code

theorem Solo.lt_of_names {s : State} {c : Issue} {t : Nat} {T : Team} {G : Group} {h : Thread}
    (hs : Solo s i c t T G h) {rs : List (BitVec 8)} (hn : Names i rs) {r : BitVec 8} (hr : r ∈ rs) : r.toNat < 220 := by
  obtain ⟨f, hf, rfl⟩ := List.mem_map.mp (hn r hr)
  exact hs.isG hf

theorem Solo.lt {s : State} {c : Issue} {t : Nat} {T : Team} {G : Group} {h : Thread} (hs : Solo s i c t T G h)
    {r : BitVec 8} (hr : r ∈ i.flds.map Fld.code) : r.toNat < 220 :=
  hs.lt_of_names (rs := [r]) (fun _ h => List.mem_singleton.mp h ▸ hr) (List.mem_singleton.mpr rfl)

theorem LaneInstr.doesIf (hi : LaneInstr i body) {f : State → Nat → Team → Group → Thread → Thread}
    (hb : ∀ s c t T G h, Solo s i c t T G h → p s T G h →
      body (c.lane t) s = .ok (none, s.modThread c.team t fun _ => f s t T G h)) : DoesIf i p f :=
  fun s c t T G h hs hp => hs.does (hi.kind s T) (hi.exec_eq s) (hb s c t T G h hs hp)

theorem LaneInstr.does (hi : LaneInstr i body) {f : Thread → Thread}
    (hb : ∀ s c t T G h, Solo s i c t T G h → body (c.lane t) s = .ok (none, s.modThread c.team t fun _ => f h)) :
    Does i f :=
  fun s c t T G h hs => hs.doesC (hi.kind s T) (f h) (hi.exec_eq s) (hb s c t T G h hs) rfl

theorem LaneInstr.traps (hi : LaneInstr i body) {cause : BitVec 8} {addr : Thread → Word64}
    (hb : ∀ s c t T G h, Solo s i c t T G h → p s T G h → body (c.lane t) s = .error (.trap cause (addr h))) :
    Traps i p cause addr :=
  fun s c t T G h hs hp => hs.traps (hi.kind s T) (hi.exec_eq s) (hb s c t T G h hs hp)

theorem Does.doesIf {f : Thread → Thread} (hd : Does i f) : DoesIf i p fun _ _ _ _ h => f h := by
  intro s c t T G h hs _
  rw [hd s c t T G h hs, hs.after_congr (g := fun _ => f h) rfl]

theorem Does.congr {f g : Thread → Thread} (hd : Does i f) (e : ∀ h, g h = f h) : Does i g := by
  rwa [funext e]

variable {d a b : BitVec 8}

theorem LaneInstr.un {f : Word → Word} (hi : LaneInstr i (un d a f)) (hn : Names i [a, d]) :
    Does i fun h => h.put d (f (h.val a)) :=
  fun s _ _ T _ _ hs => hs.un (hi.kind s T) (hi.exec_eq s) (hs.lt_of_names hn (by simp)) (hs.lt_of_names hn (by simp))

theorem LaneInstr.bin {f : Word → Word → Word} (hi : LaneInstr i (bin d a b f)) (hn : Names i [a, b, d]) :
    Does i fun h => h.put d (f (h.val a) (h.val b)) :=
  fun s _ _ T _ _ hs => hs.bin (hi.kind s T) (hi.exec_eq s) (hs.lt_of_names hn (by simp)) (hs.lt_of_names hn (by simp))
    (hs.lt_of_names hn (by simp))

theorem LaneInstr.ter {f : Word → Word → Word → Word} (hi : LaneInstr i (ter d a b f)) (hn : Names i [a, b, d]) :
    Does i fun h => h.put d (f (h.val a) (h.val b) (h.val d)) :=
  fun s _ _ T _ _ hs => hs.ter (hi.kind s T) (hi.exec_eq s) (hs.lt_of_names hn (by simp)) (hs.lt_of_names hn (by simp))
    (hs.lt_of_names hn (by simp))

end

/-! ### The minimum and maximum of words -/

theorem sminW_eq (x y : Word) : sminW x y = if x.toInt ≤ y.toInt then x else y := by
  simp only [sminW, BitVec.slt_iff_toInt_lt]
  split <;> split <;> first | rfl | omega

theorem smaxW_eq (x y : Word) : smaxW x y = if x.toInt ≤ y.toInt then y else x := by
  simp only [smaxW, BitVec.slt_iff_toInt_lt]
  by_cases h : x.toInt < y.toInt
  · rw [if_pos h, if_pos (by omega)]
  · rw [if_neg h]
    split
    · exact BitVec.eq_of_toInt_eq (by omega)
    · rfl

theorem uminW_eq (x y : Word) : uminW x y = if x.toNat ≤ y.toNat then x else y := by
  simp only [uminW, BitVec.ult, decide_eq_true_eq]
  split <;> split <;> first | rfl | omega

theorem umaxW_eq (x y : Word) : umaxW x y = if x.toNat ≤ y.toNat then y else x := by
  simp only [umaxW, BitVec.ult, decide_eq_true_eq]
  by_cases h : x.toNat < y.toNat
  · rw [if_pos h, if_pos (by omega)]
  · rw [if_neg h]
    split
    · exact BitVec.eq_of_toNat_eq (by omega)
    · rfl

end Sys2Proof.Machine

open Sys2Proof Sys2Proof.Machine

/-- Settles O1: each is a body of two reads and a write. -/
theorem integerBinary : Obligations.IntegerBinary := by
  intro d a b
  refine ⟨LaneInstr.bin ⟨fun _ _ => rfl, exec_iadd d a b⟩ ?_, LaneInstr.bin ⟨fun _ _ => rfl, exec_isub d a b⟩ ?_,
    LaneInstr.bin ⟨fun _ _ => rfl, exec_imul d a b false⟩ ?_, LaneInstr.bin ⟨fun _ _ => rfl, exec_and d a b⟩ ?_,
    LaneInstr.bin ⟨fun _ _ => rfl, exec_or d a b⟩ ?_, LaneInstr.bin ⟨fun _ _ => rfl, exec_xor d a b⟩ ?_,
    LaneInstr.bin (f := fun u v => u &&& ~~~ v) ⟨fun _ _ => rfl, exec_andn d a b⟩ ?_,
    (LaneInstr.bin ⟨fun _ _ => rfl, exec_imin d a b false⟩ ?_).congr fun _ => by rw [← sminW_eq]; rfl,
    (LaneInstr.bin ⟨fun _ _ => rfl, exec_imin d a b true⟩ ?_).congr fun _ => by rw [← uminW_eq]; rfl,
    (LaneInstr.bin ⟨fun _ _ => rfl, exec_imax d a b false⟩ ?_).congr fun _ => by rw [← smaxW_eq]; rfl,
    (LaneInstr.bin ⟨fun _ _ => rfl, exec_imax d a b true⟩ ?_).congr fun _ => by rw [← umaxW_eq]; rfl⟩ <;>
  simp [Names]
end

section
/-!
PROOFS. Products, pair arithmetic and shifts (O2): each function of words as exact integer arithmetic, reduced to the width
written.
-/

namespace Sys2Proof.Machine

/-! ### Products -/

theorem mulHU_eq (x y : Word) : mulHU x y = BitVec.ofNat 32 (x.toNat * y.toNat / 2 ^ 32) := by
  apply BitVec.eq_of_toNat_eq
  have hxy : x.toNat * y.toNat < 2 ^ 32 * 2 ^ 32 := Nat.mul_lt_mul'' x.isLt y.isLt
  simp only [mulHU, BitVec.extractLsb'_toNat, BitVec.toNat_mul, BitVec.toNat_setWidth, BitVec.toNat_ofNat,
    Nat.shiftRight_eq_div_pow]
  rw [Nat.mod_eq_of_lt (a := x.toNat) (by omega), Nat.mod_eq_of_lt (a := y.toNat) (by omega),
    Nat.mod_eq_of_lt (a := x.toNat * y.toNat) (by omega)]

/-- The upper half of an integer reduced to 64 bits. -/
theorem extractLsb'_ofInt_64 (z : Int) : (BitVec.ofInt 64 z).extractLsb' 32 32 = BitVec.ofInt 32 (z / 2 ^ 32) := by
  apply BitVec.eq_of_toNat_eq
  simp only [BitVec.extractLsb'_toNat, BitVec.toNat_ofInt, Nat.shiftRight_eq_div_pow]
  omega

theorem signExtend_64 (x : Word) : x.signExtend 64 = BitVec.ofInt 64 x.toInt := rfl

theorem mulHS_eq (x y : Word) : mulHS x y = BitVec.ofInt 32 (x.toInt * y.toInt / 2 ^ 32) := by
  rw [← extractLsb'_ofInt_64, BitVec.ofInt_mul]
  rfl

theorem mad_eq {w : Nat} (x y z : BitVec w) : z + x * y = BitVec.ofInt w (z.toInt + x.toInt * y.toInt) := by
  simp [BitVec.ofInt_add, BitVec.ofInt_mul]

theorem mad64_eq (x y : Word) (z : Word64) :
    z + x.signExtend 64 * y.signExtend 64 = BitVec.ofInt 64 (z.toInt + x.toInt * y.toInt) := by
  simp [BitVec.ofInt_add, BitVec.ofInt_mul, signExtend_64]

/-! ### Shifts -/

theorem shiftLeft_eq_ofNat {w : Nat} (x : BitVec w) (n : Nat) : x <<< n = BitVec.ofNat w (x.toNat * 2 ^ n) := by
  apply BitVec.eq_of_toNat_eq
  simp [Nat.shiftLeft_eq]

theorem ushiftRight_eq_ofNat {w : Nat} (x : BitVec w) (n : Nat) : x >>> n = BitVec.ofNat w (x.toNat / 2 ^ n) := by
  apply BitVec.eq_of_toNat_eq
  rw [BitVec.toNat_ushiftRight, BitVec.toNat_ofNat, Nat.shiftRight_eq_div_pow,
    Nat.mod_eq_of_lt (Nat.lt_of_le_of_lt (Nat.div_le_self _ _) x.isLt)]

theorem sshiftRight_eq_ofInt {w : Nat} (x : BitVec w) (n : Nat) :
    x.sshiftRight n = BitVec.ofInt w (x.toInt / 2 ^ n) := by
  rw [BitVec.sshiftRight, Int.shiftRight_eq_div_pow]
  norm_cast

theorem shlW_eq (x n : Word) : shlW x n = BitVec.ofNat 32 (x.toNat * 2 ^ n.toNat) := by
  rw [← shiftLeft_eq_ofNat, shlW]
  split
  · rfl
  · exact (BitVec.shiftLeft_eq_zero (by omega)).symm

theorem shrW_eq (x n : Word) : shrW x n = BitVec.ofNat 32 (x.toNat / 2 ^ n.toNat) := by
  rw [← ushiftRight_eq_ofNat, shrW]
  split
  · rfl
  · exact (BitVec.ushiftRight_eq_zero (by omega)).symm

/-- A shift right by 31 or more leaves copies of the sign. -/
theorem div_two_pow_of_le {z : Int} {n : Nat} (hn : 31 ≤ n) (lo : -2 ^ 31 ≤ z) (hi : z < 2 ^ 31) :
    z / 2 ^ n = z / 2 ^ 31 := by
  obtain ⟨k, rfl⟩ := Nat.exists_eq_add_of_le hn
  have hk : (1 : Int) ≤ 2 ^ k := by exact_mod_cast Nat.one_le_two_pow
  rw [pow_add, ← Int.ediv_ediv_of_nonneg (by decide)]
  rcases lt_or_ge z 0 with h | h
  · rw [show z / 2 ^ 31 = -1 by omega]
    rw [Int.neg_one_ediv, Int.sign_eq_one_of_pos (by omega)]
  · rw [show z / 2 ^ 31 = 0 by omega, Int.zero_ediv]

theorem sarW_eq (x n : Word) : sarW x n = BitVec.ofInt 32 (x.toInt / 2 ^ n.toNat) := by
  rw [sarW, sshiftRight_eq_ofInt]
  rcases Nat.le_total n.toNat 31 with h | h
  · rw [Nat.min_eq_left h]
  · have lo := x.le_toInt
    have hi := x.toInt_lt
    rw [Nat.min_eq_right h, div_two_pow_of_le h lo hi]

theorem rotateRight_eq_ofNat (x : Word) (n : BitVec 5) : x.rotateRight n.toNat =
    BitVec.ofNat 32 (x.toNat / 2 ^ n.toNat + x.toNat * 2 ^ (32 - n.toNat)) := by
  apply BitVec.eq_of_toNat_eq
  have hn := n.isLt
  have hx := x.isLt
  have hpow : 2 ^ (32 - n.toNat) * 2 ^ n.toNat = 2 ^ 32 := by rw [← pow_add, Nat.sub_add_cancel (by omega)]
  have hlow : x.toNat / 2 ^ n.toNat < 2 ^ (32 - n.toNat) := by
    rw [Nat.div_lt_iff_lt_mul (Nat.two_pow_pos _), hpow]
    exact hx
  have hhigh : x.toNat * 2 ^ (32 - n.toNat) % 2 ^ 32 = 2 ^ (32 - n.toNat) * (x.toNat % 2 ^ n.toNat) := by
    rw [← hpow, Nat.mul_comm x.toNat, Nat.mul_mod_mul_left]
  have hsum : x.toNat / 2 ^ n.toNat + x.toNat * 2 ^ (32 - n.toNat) % 2 ^ 32 < 2 ^ 32 := by
    rw [hhigh, ← hpow]
    calc x.toNat / 2 ^ n.toNat + 2 ^ (32 - n.toNat) * (x.toNat % 2 ^ n.toNat)
        < 2 ^ (32 - n.toNat) * (x.toNat % 2 ^ n.toNat + 1) := by rw [Nat.mul_add]; omega
      _ ≤ 2 ^ (32 - n.toNat) * 2 ^ n.toNat := Nat.mul_le_mul_left _ (Nat.mod_lt _ (Nat.two_pow_pos _))
  rw [BitVec.toNat_rotateRight, BitVec.toNat_ofNat, Nat.mod_eq_of_lt (a := n.toNat) (by omega),
    Nat.shiftRight_eq_div_pow, Nat.shiftLeft_eq, hhigh, Nat.or_comm, ← Nat.two_pow_add_eq_or_of_lt hlow, ← hhigh]
  generalize x.toNat / 2 ^ n.toNat = A at hsum ⊢
  omega

theorem toNat_and_31 (n : Word) : (n &&& 31).toNat = n.toNat % 32 := by
  rw [BitVec.toNat_and]
  exact Nat.and_two_pow_sub_one_eq_mod n.toNat 5

/-! ### The bodies that are no plain shape -/

theorem wr64_g (s : State) (c : Issue) (t : Nat) (r : BitVec 8) (v : Word64) :
    wr64 (c.lane t) r v s = .ok ((), s.modThread c.team t (·.putPair r v)) := rfl

variable {i : Instr} {d a b : BitVec 8}

/-- A shift of registers shifts by the whole of b where no translation emulates erratum 1. -/
theorem LaneInstr.shift_plain {f : Word → Word → Word} (hi : LaneInstr i (shift f d a b)) (hn : Names i [a, b, d]) :
    DoesIf i plainShifts fun _ _ _ _ h => h.put d (f (h.val a) (h.val b)) := by
  refine hi.doesIf fun s c t T G h hs hp => ?_
  have he : emulates s T h 1 = false := hp
  simp [Machine.shift, seq_apply, hs.erratum, hs.rd (hs.lt_of_names hn (r := a) (by simp)), he,
    hs.rd (hs.lt_of_names hn (r := b) (by simp)), wr_g _ (hs.lt_of_names hn (r := d) (by simp))]
  exact hs.modC (·.put d _)

/-- And by b[4:0] where one does. -/
theorem LaneInstr.shift_short {f : Word → Word → Word} (hi : LaneInstr i (shift f d a b)) (hn : Names i [a, b, d]) :
    DoesIf i shortShifts fun _ _ _ _ h => h.put d (f (h.val a) (h.val b &&& 31)) := by
  refine hi.doesIf fun s c t T G h hs hp => ?_
  have he : emulates s T h 1 = true := hp
  simp [Machine.shift, seq_apply, hs.erratum, hs.rd (hs.lt_of_names hn (r := a) (by simp)), he,
    hs.rd (hs.lt_of_names hn (r := b) (by simp)), wr_g _ (hs.lt_of_names hn (r := d) (by simp))]
  exact hs.modC (·.put d _)

theorem DoesIf.congr {p : State → Team → Group → Thread → Prop} {f g : State → Nat → Team → Group → Thread → Thread}
    (hd : DoesIf i p f) (e : ∀ s t T G h, p s T G h → g s t T G h = f s t T G h) : DoesIf i p g := by
  intro s c t T G h hs hp
  rw [hd s c t T G h hs hp, e s t T G h hp]

theorem does_imadPair (d a b : BitVec 8) : Does (.imad d a b true) fun h => h.putPair d
    (BitVec.ofInt 64 ((h.pair d).toInt + (h.val a).toInt * (h.val b).toInt)) := by
  refine LaneInstr.does ⟨fun _ _ => rfl, exec_imad d a b true⟩ fun s c t T G h hs => ?_
  rw [← mad64_eq, ← hs.modC (·.putPair d _)]
  simp [bodyImad, seq_apply, hs.rd (hs.lt_of_names (rs := [a, b]) (by simp [Names]) (r := a) (by simp)),
    hs.rd (hs.lt_of_names (rs := [a, b]) (by simp [Names]) (r := b) (by simp)), hs.rd64, wr64_g]

theorem does_iadd64 (d a b : BitVec 8) (x : Bool) : Does (.iadd64 d a b x) fun h => h.putPair d
    (if x then h.pair a - h.pair b else h.pair a + h.pair b) := by
  refine LaneInstr.does ⟨fun _ _ => rfl, exec_iadd64 d a b x⟩ fun s c t T G h hs => ?_
  rw [← hs.modC (·.putPair d _)]
  simp [bodyIadd64, seq_apply, hs.rd64, wr64_g]

end Sys2Proof.Machine

open Sys2Proof Sys2Proof.Machine

/-- Settles O2: products and pairs by their bodies, shifts of registers with erratum 1 and without, shifts by immediate. -/
theorem wideProductsAndShifts : Obligations.WideProductsAndShifts := by
  refine ⟨fun d a b => ⟨?_, ?_, ?_, does_imadPair d a b, does_iadd64 d a b false, does_iadd64 d a b true⟩,
    fun d a b => ⟨?_, ?_, ?_, ?_, ?_, ?_, fun n => ⟨?_, ?_, ?_, ?_⟩⟩⟩
  · exact (LaneInstr.bin ⟨fun _ _ => rfl, exec_imul d a b true⟩ (by simp [Names])).congr fun _ => by rw [← mulHU_eq]; rfl
  · exact (LaneInstr.bin ⟨fun _ _ => rfl, exec_imulhs d a b⟩ (by simp [Names])).congr fun _ => by rw [← mulHS_eq]
  · exact (LaneInstr.ter (f := fun u v w => w + u * v) ⟨fun _ _ => rfl, exec_imad d a b false⟩
      (by simp [Names])).congr fun _ => by rw [← mad_eq]
  · exact (LaneInstr.shift_plain ⟨fun _ _ => rfl, exec_shl d a b⟩ (by simp [Names])).congr
      fun _ _ _ _ _ _ => by rw [shlW_eq]
  · exact (LaneInstr.shift_plain ⟨fun _ _ => rfl, exec_shr d a b⟩ (by simp [Names])).congr
      fun _ _ _ _ _ _ => by rw [shrW_eq]
  · exact (LaneInstr.shift_plain ⟨fun _ _ => rfl, exec_sar d a b⟩ (by simp [Names])).congr
      fun _ _ _ _ _ _ => by rw [sarW_eq]
  · exact (LaneInstr.shift_short ⟨fun _ _ => rfl, exec_shl d a b⟩ (by simp [Names])).congr
      fun _ _ _ _ _ _ => by rw [shlW_eq, toNat_and_31]
  · exact (LaneInstr.shift_short ⟨fun _ _ => rfl, exec_shr d a b⟩ (by simp [Names])).congr
      fun _ _ _ _ _ _ => by rw [shrW_eq, toNat_and_31]
  · exact (LaneInstr.shift_short ⟨fun _ _ => rfl, exec_sar d a b⟩ (by simp [Names])).congr
      fun _ _ _ _ _ _ => by rw [sarW_eq, toNat_and_31]
  · exact (LaneInstr.un (f := (· <<< n.toNat)) ⟨fun _ _ => rfl, exec_shli d a n⟩ (by simp [Names])).congr
      fun _ => by rw [← shiftLeft_eq_ofNat]
  · exact (LaneInstr.un (f := (· >>> n.toNat)) ⟨fun _ _ => rfl, exec_shri d a n⟩ (by simp [Names])).congr
      fun _ => by rw [← ushiftRight_eq_ofNat]
  · exact (LaneInstr.un (f := (·.sshiftRight n.toNat)) ⟨fun _ _ => rfl, exec_sari d a n⟩ (by simp [Names])).congr
      fun _ => by rw [← sshiftRight_eq_ofInt]
  · exact (LaneInstr.un (f := (·.rotateRight n.toNat)) ⟨fun _ _ => rfl, exec_rotri d a n⟩ (by simp [Names])).congr
      fun _ => by rw [← rotateRight_eq_ofNat]
end

section
/-!
PROOFS. Immediate and compact forms (O3). The halfword 0x0000 stands for MOV of g0 to itself and for the no-operation (R59):
the model leaves the thread's registers as they stand, and the statement writes g0 with its own value. Where the register map
of a thread lists a zero, the two differ as data.
-/

namespace Sys2Proof.Machine

theorem State.modThread_id (s : State) (k t : Nat) : s.modThread k t (fun h => h) = s := by
  have hT : (fun T : Team => { T with threads := SMap.modify t (fun h => h) T.threads }) = fun T => T :=
    funext fun T => by rw [SMap.modify_id]
  rw [State.modThread, State.modTeam, hT, SMap.modify_id]

/-- A thread that is set to what it is. -/
theorem At.modThread_self {s : State} {c : Issue} {t : Nat} {T : Team} {G : Group} {h : Thread} (hs : At s c t T G h) :
    (s.modThread c.team t fun _ => h) = s :=
  (hs.modC fun h => h).symm.trans (s.modThread_id c.team t)

/-- R59: the word 0x0000 has no effect. -/
theorem does_movCompact_zero : Does (.movCompact 0 0) fun h => h :=
  LaneInstr.does ⟨fun _ _ => rfl, exec_movCompact 0 0⟩ fun s c t T G h hs => by
    rw [hs.modThread_self]
    rfl

/-! ### A thread whose register map lists a zero -/

/-- Register g0, listed with the value that an unlisted register reads as. -/
def listedThread : Thread := { Thread.create 0 0 with g := [(0, 0)] }

def listedLaunch : Launch :=
  ⟨0, placedRecord false, 0, 0, none, false, [], [], none, 0, none, false, false⟩

def listedTeam : Team :=
  let T := Team.create 0 listedLaunch (0, 0) 0 0 0 0 [] 0 0
  { T with status := .resident, threads := [(0, listedThread)] }

def listedIssue : Issue := ⟨0, [0], false, 0, 2⟩

/-- It is alone in the issue of the word 0x0000. -/
def listedState : State := { State.reset with cur := some listedIssue, teams := [(0, listedTeam)] }

theorem solo_listedState : ∃ G, Solo listedState (.movCompact 0 0) listedIssue 0 listedTeam G listedThread := by
  refine ⟨_, ⟨⟨⟨rfl, ⟨rfl, rfl⟩, rfl, ⟨.inl rfl, rfl⟩, rfl, rfl, rfl, ?_⟩, rfl, rfl⟩, rfl⟩⟩
  decide

end Sys2Proof.Machine

open Sys2Proof Sys2Proof.Machine

/-- Refutes O3: the no-operation 0x0000 leaves a listed zero of g0 in the register map, and writing g0 with what it reads as
removes it. -/
theorem not_immediateAndCompactForms : ¬ Obligations.ImmediateAndCompactForms := by
  intro hforms
  obtain ⟨hmov, -⟩ := (hforms.1 0 0 0)
  obtain ⟨G, hs⟩ := solo_listedState
  injection (does_movCompact_zero _ _ _ _ _ _ hs).symm.trans (hmov _ _ _ _ _ _ hs) with heq
  have hthread := congrArg (fun s => (s.thread? 0 0).map Thread.g) heq
  exact absurd hthread (by decide)
end

section
/-!
PROOFS. Unary integer functions and identity reads (O4): the word functions of R93 bit by bit, and the lane bodies that read
the thread's place, its launch's clock, or a b register.
-/

namespace Sys2Proof.Machine

/-! ### Word functions of one register -/

theorem iabsW_eq (x : Word) : iabsW x = BitVec.ofNat 32 x.toInt.natAbs := by
  have hx := x.isLt
  have hmsb : x.getLsbD 31 = x.msb := (BitVec.msb_eq_getLsbD_last x).symm
  apply BitVec.eq_of_toNat_eq
  rw [iabsW, hmsb, BitVec.toNat_ofNat, BitVec.toInt_eq_msb_cond]
  split
  · rw [BitVec.toNat_neg]
    omega
  · rw [Int.natAbs_natCast, Nat.mod_eq_of_lt hx]

/-- The first position whose bit is set ends the leading zeros. -/
theorem length_takeWhile_of_first {f : Nat → Bool} {n k : Nat} (hk : k < n) (hf : f k = true)
    (h0 : ∀ j < k, f j = false) : (((List.range n).map f).takeWhile (fun x => !x)).length = k := by
  have hlen : k < ((List.range n).map f).length := by simpa using hk
  have hidx : List.findIdx (fun x => !!x) ((List.range n).map f) = k := by
    rw [List.findIdx_eq hlen]
    exact ⟨by simpa using hf, fun j hj => by simpa using h0 j hj⟩
  rw [List.takeWhile_eq_take_findIdx_not, hidx, List.length_take, Nat.min_eq_left hlen.le]

theorem clzW_eq (x : Word) : clzW x = BitVec.ofNat 32
    (((List.range 32).map fun j => x.getLsbD (31 - j)).takeWhile (fun x => !x)).length := by
  unfold clzW
  split
  · next h => subst h; rfl
  · next h =>
    have hx : x.toNat ≠ 0 := fun h0 => h (BitVec.eq_of_toNat_eq h0)
    have hlog : x.toNat.log2 < 32 := (Nat.log2_lt hx).mpr x.isLt
    rw [length_takeWhile_of_first (k := 31 - x.toNat.log2) (by omega)]
    · rw [show 31 - (31 - x.toNat.log2) = x.toNat.log2 by omega]
      exact Nat.testBit_log2 hx
    · intro j hj
      exact Nat.testBit_lt_two_pow (Nat.lt_of_lt_of_le Nat.lt_log2_self (Nat.pow_le_pow_right (by decide) (by omega)))

/-- A sum of powers of two, one for each position that holds: its bits are those positions. -/
theorem testBit_foldl_two_pow (f : Nat → Bool) (n : Nat) :
    (List.range n).foldl (fun v j => v + if f j then 2 ^ j else 0) 0 < 2 ^ n ∧
      ∀ j, ((List.range n).foldl (fun v j => v + if f j then 2 ^ j else 0) 0).testBit j = (decide (j < n) && f j) := by
  induction n with
  | zero => simp
  | succ n ih =>
    obtain ⟨hlt, hbit⟩ := ih
    rw [List.range_succ, List.foldl_append, List.foldl_cons, List.foldl_nil]
    generalize (List.range n).foldl _ 0 = v at hlt hbit
    refine ⟨by split <;> omega, fun j => ?_⟩
    rcases Nat.lt_trichotomy j n with hj | hj | hj
    · rw [show decide (j < n + 1) = true by simp; omega, Bool.true_and]
      split
      · rw [Nat.add_comm, Nat.testBit_two_pow_add_gt hj, hbit]
        simp [hj]
      · rw [Nat.add_zero, hbit]
        simp [hj]
    · subst hj
      have hv : v.testBit j = false := Nat.testBit_lt_two_pow hlt
      cases f j <;> simp [Nat.add_comm v, Nat.testBit_two_pow_add_eq, hv]
    · rw [show decide (j < n + 1) = false by simp; omega, Bool.false_and]
      refine Nat.testBit_lt_two_pow (Nat.lt_of_lt_of_le ?_ (Nat.pow_le_pow_right (by decide) hj))
      split <;> omega

theorem getLsbD_brevW (x : Word) {j : Nat} (hj : j < 32) : (brevW x).getLsbD j = x.getLsbD (31 - j) := by
  rw [brevW, BitVec.getLsbD_ofNat, (testBit_foldl_two_pow (fun j => x.getLsbD (31 - j)) 32).2]
  simp [hj]

theorem eq_brevW {x r : Word} (h : ∀ j < 32, r.getLsbD j = x.getLsbD (31 - j)) : r = brevW x :=
  BitVec.eq_of_getLsbD_eq fun j hj => (h j hj).trans (getLsbD_brevW x hj).symm

theorem setWidth_32_eq_ofNat (x : Word) (n : Nat) :
    (x.setWidth n).setWidth 32 = BitVec.ofNat 32 (x.toNat % 2 ^ n) := by
  apply BitVec.eq_of_toNat_eq
  simp

/-! ### Bodies that write one register -/

section

variable {s : State} {i : Instr} {c : Issue} {t : Nat} {d : BitVec 8} {body : Lane → M Next}
  {p : State → Team → Group → Thread → Prop} {v : State → Nat → Team → Group → Thread → Word}

theorem wr_put (hd : d.toNat < 220) (v : Word) : wr (c.lane t) d v s = .ok ((), s.modThread c.team t (·.put d v)) :=
  wr_g s hd v

theorem LaneInstr.puts (hi : LaneInstr i body) (hn : Names i [d])
    (hb : ∀ s c t T G h, Solo s i c t T G h → p s T G h → d.toNat < 220 →
      body (c.lane t) s = .ok (none, s.modThread c.team t (·.put d (v s t T G h)))) :
    DoesIf i p fun s t T G h => h.put d (v s t T G h) :=
  hi.doesIf fun s c t T G h hs hp => by
    rw [hb s c t T G h hs hp (hs.lt_of_names hn (by simp)), hs.modC (·.put d _)]

theorem does_of_doesIf {f : Thread → Thread} (hd : DoesIf i (fun _ _ _ _ => True) fun _ _ _ _ h => f h) : Does i f :=
  fun s c t T G h hs => by
    rw [hd s c t T G h hs trivial]
    exact congrArg _ (hs.after_congr rfl)

end

/-! ### Where a thread is, and its launch's clock -/

theorem doesIf_laneid (d : BitVec 8) : DoesIf (.laneid d) (fun _ _ _ _ => True)
    fun _ t T G h => h.put d (BitVec.ofNat 32 ((G.lane + t % T.width) % 64)) :=
  LaneInstr.puts ⟨fun _ _ => rfl, exec_laneid d⟩ (by simp [Names]) fun s c t T G h hs _ hd => by
    simp [bodyLaneid, seq_apply, theThread_lane, hs.getGroup, hs.getTeam, wr_put hd, Team.index]

theorem doesIf_tidx (d : BitVec 8) : DoesIf (.tidx d) (fun _ _ _ _ => True)
    fun _ t _ _ h => h.put d (BitVec.ofNat 32 t) :=
  LaneInstr.puts ⟨fun _ _ => rfl, exec_tidx d⟩ (by simp [Names]) fun s c t T G h hs _ hd => by
    simp [bodyTidx, seq_apply, theThread_lane, wr_put hd]

section

variable {L : Launch} {s : State} {c : Issue} {t : Nat} {T : Team} {G : Group} {h : Thread}

theorem At.linearIx (hs : At s c t T G h) (hL : SMap.find? T.launch s.launches = some L) : linearIx c.team s =
    .ok (if L.job.isSome then T.x.toNat + 65536 * (T.y.toNat + T.z.toNat)
      else T.x.toNat + L.record.tx.toNat * (T.y.toNat + L.record.ty.toNat * T.z.toNat), s) := by
  simp only [Machine.linearIx, M.bind_apply, hs.getTeam, M.get_apply, hL]
  split <;> rfl

theorem At.clockOf (hs : At s c t T G h) (hL : SMap.find? T.launch s.launches = some L) {t0 : Nat} (ht : L.t0 = some t0) :
    clockOf c.team s = .ok (s.clock - t0, s) := by
  simp only [Machine.clockOf, M.bind_apply, hs.getTeam, M.get_apply, hL, ht]
  rfl

end

theorem doesIf_teamix (d : BitVec 8) (L : Launch) : DoesIf (.teamix d)
    (fun s T _ _ => SMap.find? T.launch s.launches = some L ∧ L.job = none)
    fun _ _ T _ h => h.put d (BitVec.ofNat 32
      (T.x.toNat + L.record.tx.toNat * (T.y.toNat + L.record.ty.toNat * T.z.toNat))) :=
  LaneInstr.puts ⟨fun _ _ => rfl, exec_teamix d⟩ (by simp [Names]) fun s c t T G h hs hL hd => by
    simp [bodyTeamix, seq_apply, hs.linearIx hL.1, hL.2, wr_put hd]

theorem doesIf_teamix_job (d : BitVec 8) (L : Launch) : DoesIf (.teamix d)
    (fun s T _ _ => SMap.find? T.launch s.launches = some L ∧ L.job.isSome = true ∧ T.z = 0)
    fun _ _ T _ h => h.put d (BitVec.ofNat 32 (T.x.toNat + 2 ^ 16 * T.y.toNat)) :=
  LaneInstr.puts ⟨fun _ _ => rfl, exec_teamix d⟩ (by simp [Names]) fun s c t T G h hs hL hd => by
    simp [bodyTeamix, seq_apply, hs.linearIx hL.1, hL.2.1, hL.2.2, wr_put hd]

theorem doesIf_clklo (d : BitVec 8) (L : Launch) (t0 : Nat) : DoesIf (.clklo d)
    (fun s T _ _ => SMap.find? T.launch s.launches = some L ∧ L.t0 = some t0)
    fun s _ _ _ h => h.put d (BitVec.ofNat 32 (s.clock - t0)) :=
  LaneInstr.puts ⟨fun _ _ => rfl, exec_clklo d⟩ (by simp [Names]) fun s c t T G h hs hL hd => by
    simp [bodyClklo, seq_apply, hs.clockOf hL.1 hL.2, wr_put hd]

theorem doesIf_clkhi (d : BitVec 8) (L : Launch) (t0 : Nat) : DoesIf (.clkhi d)
    (fun s T _ _ => SMap.find? T.launch s.launches = some L ∧ L.t0 = some t0)
    fun s _ _ _ h => h.put d (BitVec.ofNat 32 ((s.clock - t0) / 2 ^ 32)) :=
  LaneInstr.puts ⟨fun _ _ => rfl, exec_clkhi d⟩ (by simp [Names]) fun s c t T G h hs hL hd => by
    simp [bodyClkhi, seq_apply, hs.clockOf hL.1 hL.2, wr_put hd]

/-! ### b registers -/

theorem does_b2g (d : BitVec 8) (k : BitVec 3) : Does (.b2g d k) fun h => h.put d (if h.b.getLsbD k.toNat then 1 else 0) :=
  does_of_doesIf (LaneInstr.puts ⟨fun _ _ => rfl, exec_b2g d k⟩ (by simp [Names]) fun s c t T G h hs _ hd => by
    simp [bodyB2g, seq_apply, hs.rdB, wr_put hd])

theorem does_g2b (k : BitVec 3) (a : BitVec 8) : Does (.g2b k a) fun h => { h with b := setBit h.b k (h.val a != 0) } :=
  LaneInstr.does ⟨fun _ _ => rfl, exec_g2b k a⟩ fun s c t T G h hs => by
    rw [← hs.modC fun h' => { h' with b := setBit h'.b k (h.val a != 0) }]
    simp [bodyG2b, seq_apply, hs.rd (hs.lt (r := a) (by simp)), wrB_t]

end Sys2Proof.Machine

open Sys2Proof Sys2Proof.Machine

/-- Settles O4: functions of one register by their bodies, and the reads of the thread's place and clock. -/
theorem integerUnaryAndIdentity : Obligations.IntegerUnaryAndIdentity := by
  refine ⟨fun d a => ⟨?_, ?_, ?_, ?_, ?_, ?_, fun r => ?_, ?_, ?_, ?_, ?_⟩, fun d a k => ⟨doesIf_laneid d, doesIf_tidx d,
    fun L => ⟨doesIf_teamix d L, doesIf_teamix_job d L, fun t0 => ⟨doesIf_clklo d L t0, doesIf_clkhi d L t0⟩⟩,
    does_b2g d k, does_g2b k a⟩⟩
  · exact LaneInstr.un (f := id) ⟨fun _ _ => rfl, exec_mov d a⟩ (by simp [Names])
  · exact LaneInstr.un (f := (~~~ ·)) ⟨fun _ _ => rfl, exec_not d a⟩ (by simp [Names])
  · exact (LaneInstr.un (f := (- ·)) ⟨fun _ _ => rfl, exec_neg d a⟩ (by simp [Names])).congr
      fun _ => by simp
  · exact (LaneInstr.un ⟨fun _ _ => rfl, exec_iabs d a⟩ (by simp [Names])).congr fun _ => by rw [← iabsW_eq]
  · exact (LaneInstr.un ⟨fun _ _ => rfl, exec_clz d a⟩ (by simp [Names])).congr fun _ => by rw [← clzW_eq]
  · exact LaneInstr.un (f := popcW) ⟨fun _ _ => rfl, exec_popc d a⟩ (by simp [Names])
  · exact (LaneInstr.un ⟨fun _ _ => rfl, exec_brev d a⟩ (by simp [Names])).doesIf.congr
      fun _ _ _ _ _ hr => by rw [← eq_brevW hr]
  · exact LaneInstr.un (f := fun v => (v.setWidth 8).signExtend 32) ⟨fun _ _ => rfl, exec_sexb d a⟩ (by simp [Names])
  · exact LaneInstr.un (f := fun v => (v.setWidth 16).signExtend 32) ⟨fun _ _ => rfl, exec_sexh d a⟩ (by simp [Names])
  · exact (LaneInstr.un (f := fun v => (v.setWidth 8).setWidth 32) ⟨fun _ _ => rfl, exec_zexb d a⟩
      (by simp [Names])).congr fun _ => by rw [setWidth_32_eq_ofNat]
  · exact (LaneInstr.un (f := fun v => (v.setWidth 16).setWidth 32) ⟨fun _ _ => rfl, exec_zexh d a⟩
      (by simp [Names])).congr fun _ => by rw [setWidth_32_eq_ofNat]
end

section
/-!
PROOFS. Compares, selection and byte permutation (O5).
-/

namespace Sys2Proof.Machine

theorem intCond_iff (c : BitVec 3) (x y : Word) : intCond c x y = true ↔ condHolds c x y := by
  unfold intCond condHolds
  generalize c.toNat = n
  match n with
  | 0 => exact beq_iff_eq
  | 1 => exact bne_iff_ne
  | 2 => exact BitVec.slt_iff_toInt_lt
  | 3 => exact BitVec.sle_iff_toInt_le
  | 4 => exact BitVec.slt_iff_toInt_lt
  | 5 => exact BitVec.sle_iff_toInt_le
  | 6 => exact decide_eq_true_iff
  | _ + 7 => exact decide_eq_true_iff

theorem eq_intCond {c : BitVec 3} {x y : Word} {r : Bool} (h : r = true ↔ condHolds c x y) : intCond c x y = r :=
  Bool.eq_iff_iff.mpr ((intCond_iff c x y).trans h.symm)

variable {s : State} {c : Issue} {t : Nat} {T : Team} {G : Group} {h : Thread}

/-- A compare's result goes to its b register, alone or anded with what that held. -/
theorem At.setCond (hs : At s c t T G h) (e : BitVec 3) (n r : Bool) : setCond e n r (c.lane t) s = .ok ((),
    s.modThread c.team t fun _ => { h with b := setBit h.b e (if n then h.b.getLsbD e.toNat && r else r) }) := by
  rw [← hs.modC fun h' => { h' with b := setBit h'.b e (if n then h.b.getLsbD e.toNat && r else r) }]
  simp [Machine.setCond, hs.rdB, wrB_t]

theorem doesIf_icmp (e c : BitVec 3) (n : Bool) (a b : BitVec 8) (r : Bool) :
    DoesIf (.icmp e c n a b) (fun _ _ _ h => r = true ↔ condHolds c (h.val a) (h.val b))
      fun _ _ _ _ h => { h with b := setBit h.b e (if n then h.b.getLsbD e.toNat && r else r) } :=
  LaneInstr.doesIf ⟨fun _ _ => rfl, exec_icmp e c n a b⟩ fun s _ t T G h hs hr => by
    simp [bodyIcmp, seq_apply, hs.rd (hs.lt (r := a) (by simp)), hs.rd (hs.lt (r := b) (by simp)), eq_intCond hr,
      hs.setCond]

theorem doesIf_icmpi (e c : BitVec 3) (n : Bool) (a : BitVec 8) (i : BitVec 8) (r : Bool) :
    DoesIf (.icmpi e c n a i) (fun _ _ _ h => r = true ↔ condHolds c (h.val a) (BitVec.ofInt 32 i.toInt))
      fun _ _ _ _ h => { h with b := setBit h.b e (if n then h.b.getLsbD e.toNat && r else r) } :=
  LaneInstr.doesIf ⟨fun _ _ => rfl, exec_icmpi e c n a i⟩ fun s _ t T G h hs hr => by
    have hi : intCond c (h.val a) (i.signExtend 32) = r := eq_intCond hr
    simp [bodyIcmpi, seq_apply, hs.rd (hs.lt (r := a) (by simp)), hi, hs.setCond]

theorem does_sel (c : BitVec 3) (sense : Bool) (d a : BitVec 8) : Does (.sel c sense d a)
    fun h => h.put d (if h.b.getLsbD c.toNat = sense then h.val a else h.val d) :=
  does_of_doesIf (LaneInstr.puts ⟨fun _ _ => rfl, exec_sel c sense d a⟩ (by simp [Names]) fun s _ t T G h hs _ hd => by
    simp [bodySel, seq_apply, hs.rdB, hs.rd (hs.lt (r := a) (by simp)), hs.rd hd, wr_put hd])

/-! ### PERM -/

/-- A selector's three low bits choose a byte of the pair, and its fourth the byte's sign spread (R90). -/
theorem permByte_eq (src : Word64) (sel : Word) (j : Nat) : permByte src sel j =
    if sel.getLsbD (4 * j + 3) then
      (if (src.extractLsb' (8 * (sel.toNat / 16 ^ j % 8)) 8).msb then 0xFF else 0x00)
    else src.extractLsb' (8 * (sel.toNat / 16 ^ j % 8)) 8 := by
  have hpow : 2 ^ (4 * j) = 16 ^ j := by rw [Nat.pow_mul]
  simp only [permByte, BitVec.extractLsb'_toNat, Nat.shiftRight_eq_div_pow, hpow, BitVec.msb_eq_getLsbD_last]

theorem doesIf_perm (d a b : BitVec 8) : DoesIf (.perm d a b) (fun _ _ _ _ => True) fun _ _ _ _ h =>
    h.put d (permW (h.val a) (h.val b) (h.val d)) :=
  (LaneInstr.ter ⟨fun _ _ => rfl, exec_perm d a b⟩ (by simp [Names])).doesIf

end Sys2Proof.Machine

open Sys2Proof Sys2Proof.Machine

/-- Settles O5: a compare sets its b register, SEL writes d in either case, and PERM's bytes are those of its selector. -/
theorem compareSelectPermute : Obligations.CompareSelectPermute := by
  intro d a b e c i sense
  refine ⟨fun r => ⟨doesIf_icmp e c false a b r, doesIf_icmp e c true a b r, doesIf_icmpi e c false a i r,
    doesIf_icmpi e c true a i r⟩, does_sel c sense d a, (doesIf_perm d a b).congr fun _ _ _ _ h _ => ?_⟩
  simp only [permW, permByte_eq]
end

section
/-!
PROOFS. Floating-point arithmetic (O6): the lane bodies, and what the binary32 operations make of NaNs, of zeros, of
differences of equal values and of two sums written out.
-/

namespace Sys2Proof.Machine

/-! ### Bodies -/

section

variable {i : Instr} {p : State → Team → Group → Thread → Prop} {op : FpOp} {x : Bool} {d a b : BitVec 8}

theorem LaneInstr.fpBin (hi : LaneInstr i (fpBin op x d a b)) (hn : Names i [a, b, d]) :
    DoesIf i p fun _ _ _ G h => h.put d (fpWord G.mode op x (h.val a) (h.val b) 0) :=
  hi.puts (fun _ hr => hn _ (List.mem_singleton.mp hr ▸ by simp)) fun s c t T G h hs _ hd => by
    simp [Machine.fpBin, seq_apply, hs.fpMode, hs.rd (hs.lt_of_names hn (r := a) (by simp)),
      hs.rd (hs.lt_of_names hn (r := b) (by simp)), wr_put hd]

theorem doesIf_fadd : DoesIf (.fadd d a b x) p fun _ _ _ G h => h.put d (fpWord G.mode .add x (h.val a) (h.val b) 0) :=
  LaneInstr.fpBin ⟨fun _ _ => rfl, exec_fadd d a b x⟩ (by simp [Names])
theorem doesIf_fsub : DoesIf (.fsub d a b x) p fun _ _ _ G h => h.put d (fpWord G.mode .sub x (h.val a) (h.val b) 0) :=
  LaneInstr.fpBin ⟨fun _ _ => rfl, exec_fsub d a b x⟩ (by simp [Names])
theorem doesIf_fmul : DoesIf (.fmul d a b x) p fun _ _ _ G h => h.put d (fpWord G.mode .mul x (h.val a) (h.val b) 0) :=
  LaneInstr.fpBin ⟨fun _ _ => rfl, exec_fmul d a b x⟩ (by simp [Names])
theorem doesIf_fmin : DoesIf (.fmin d a b x) p fun _ _ _ G h => h.put d (fpWord G.mode .min x (h.val a) (h.val b) 0) :=
  LaneInstr.fpBin ⟨fun _ _ => rfl, exec_fmin d a b x⟩ (by simp [Names])
theorem doesIf_fmax : DoesIf (.fmax d a b x) p fun _ _ _ G h => h.put d (fpWord G.mode .max x (h.val a) (h.val b) 0) :=
  LaneInstr.fpBin ⟨fun _ _ => rfl, exec_fmax d a b x⟩ (by simp [Names])

theorem doesIf_ffma : DoesIf (.ffma d a b x) p
    fun _ _ _ G h => h.put d (fpWord G.mode .fma x (h.val a) (h.val b) (h.val d)) :=
  LaneInstr.puts ⟨fun _ _ => rfl, exec_ffma d a b x⟩ (by simp [Names]) fun s c t T G h hs _ hd => by
    simp [bodyFfma, seq_apply, hs.fpMode, hs.rd (hs.lt (r := a) (by simp)), hs.rd (hs.lt (r := b) (by simp)), hs.rd hd,
      wr_put hd]

theorem doesIf_fcmp (k c : BitVec 3) : DoesIf (.fcmp k c x a b) p fun _ _ _ G h =>
    { h with b := setBit h.b k (if x then h.b.getLsbD k.toNat &&
        fpCond c (fp32.daz G.mode.daz (h.val a).toNat) (fp32.daz G.mode.daz (h.val b).toNat)
      else fpCond c (fp32.daz G.mode.daz (h.val a).toNat) (fp32.daz G.mode.daz (h.val b).toNat)) } :=
  LaneInstr.doesIf ⟨fun _ _ => rfl, exec_fcmp k c x a b⟩ fun s _ t T G h hs _ => by
    simp [bodyFcmp, seq_apply, hs.fpMode, hs.rd (hs.lt (r := a) (by simp)), hs.rd (hs.lt (r := b) (by simp)),
      hs.setCond]

end

/-! ### Patterns of binary32 -/

theorem fp32_mag (v : Nat) : fp32.mag v = v % 2 ^ 31 := rfl
theorem fp32_neg (v : Nat) : fp32.neg v = (v / 2 ^ 31 % 2 == 1) := rfl
theorem fp32_infCode : fp32.infCode = 255 * 2 ^ 23 := rfl

/-- A pattern that is no subnormal reads as itself. -/
theorem daz_of_not_sub {v : Nat} (h : fp32.isSub v = false) (on : Bool) : fp32.daz on v = v := by simp [Ieee.daz, h]

theorem isSub_of_nan {v : Nat} (h : fp32.isNan v = true) : fp32.isSub v = false := by
  have hv : fp32.infCode < fp32.mag v := of_decide_eq_true h
  have hsub : ¬ fp32.mag v < 2 ^ fp32.t := by
    rw [fp32_infCode] at hv
    exact fun (hlt : fp32.mag v < 2 ^ 23) => by omega
  simp [Ieee.isSub, hsub]

theorem value_of_nan {v : Nat} (h : fp32.isNan v = true) : fp32.value v = .nan := if_pos (of_decide_eq_true h)

theorem daz_signed_zero (on n : Bool) : fp32.daz on (fp32.signed n 0) = fp32.signed n 0 :=
  daz_of_not_sub (by cases n <;> rfl) on

theorem value_signed_zero (n : Bool) : fp32.value (fp32.signed n 0) = .fin n 0 (-149) := by cases n <;> rfl

/-- An exponent field below 255 makes a finite value of the pattern's sign, and DAZ keeps it one. -/
theorem value_daz_of_finite {v : Nat} (h : v / 2 ^ 23 % 2 ^ 8 < 255) (on : Bool) :
    ∃ m e, fp32.value (fp32.daz on v) = .fin (fp32.neg v) m e := by
  by_cases hz : (on && fp32.isSub v) = true
  · exact ⟨0, _, by rw [Ieee.daz, if_pos hz, value_signed_zero]⟩
  · have hm : fp32.mag v < fp32.infCode := by rw [fp32_mag, fp32_infCode]; omega
    rw [Ieee.daz, if_neg hz]
    simp only [Ieee.value, if_neg (Nat.lt_asymm hm), if_neg (Nat.ne_of_lt hm)]
    split <;> exact ⟨_, _, rfl⟩

theorem eq_signed_of_zero {v : Word} (h : v = 0 ∨ v = 0x80000000) : v.toNat = fp32.signed v.msb 0 := by
  rcases h with rfl | rfl <;> rfl

theorem toNat_xor_sign {v : Word} (h : v = 0 ∨ v = 0x80000000) :
    (v ^^^ 0x80000000).toNat = fp32.signed (!v.msb) 0 := by
  rcases h with rfl | rfl <;> rfl

theorem neg_toNat (v : Word) : fp32.neg v.toNat = v.msb := by
  have hv := v.isLt
  rw [fp32_neg, BitVec.msb_eq_decide, Bool.eq_iff_iff, beq_iff_eq, decide_eq_true_eq]
  omega

/-! ### The operations on them -/

theorem fpWord_scalar (M : FpMode) (op : FpOp) (a b d : Word) :
    fpWord M op false a b d = BitVec.ofNat 32 (fp32.op M op a.toNat b.toNat d.toNat) := rfl

/-- R35, R36: with a NaN for its first operand an addition gives the canonical NaN, while legacy NaN is off. -/
theorem add_nan {M : FpMode} (hM : M.legacyNan = false) {a : Nat} (ha : fp32.isNan a = true) (b d : Nat) :
    fp32.op M .add a b d = 0x7FC00000 := by
  have hda : fp32.daz M.daz a = a := daz_of_not_sub (isSub_of_nan ha) _
  simp only [Ieee.op, hda, value_of_nan ha, hM, Ieee.nanOf, Ieee.addV]
  exact daz_of_not_sub (v := fp32.nanBits) rfl M.ftz

theorem addFin_negate_self (n : Bool) (m : Nat) (e : Int) : (addFin n m e (!n) m e).1 = 0 := by
  cases n <;> simp [addFin, scaled]

/-- R96: a finite value less itself is +0, or −0 under RDN. -/
theorem addV_negate_self (rnd : Rnd) (nan : Nat) (n : Bool) (m : Nat) (e : Int) :
    fp32.addV rnd nan (.fin n m e) (FVal.fin n m e).negate = fp32.signed (rnd == .rdn) 0 := by
  have hz : zeroSumNeg rnd n m (!n) m = (rnd == .rdn) := by cases n <;> simp [zeroSumNeg]
  simp only [FVal.negate, Ieee.addV, addFin_negate_self, if_true, hz]

theorem sub_self_finite (M : FpMode) {a : Nat} (ha : a / 2 ^ 23 % 2 ^ 8 < 255) (d : Nat) :
    fp32.op M .sub a a d = fp32.signed (M.rnd == .rdn) 0 := by
  obtain ⟨m, e, hv⟩ := value_daz_of_finite ha M.daz
  simp only [Ieee.op, hv, addV_negate_self]
  exact daz_signed_zero _ _

theorem mode_rdn (G : Group) : (G.mode.rnd == .rdn) = decide (G.fpctl.extractLsb' 0 2 = 2) := by
  show (Rnd.ofMode (G.fpctl.extractLsb' 0 2) == .rdn) = _
  generalize G.fpctl.extractLsb' 0 2 = r
  revert r
  decide

/-- R96: the sum of two zeros of one sign is that zero. -/
theorem add_zero_self (M : FpMode) (n : Bool) (d : Nat) :
    fp32.op M .add (fp32.signed n 0) (fp32.signed n 0) d = fp32.signed n 0 := by
  have hz : (addFin n 0 (-149) n 0 (-149)).1 = 0 := by cases n <;> rfl
  simp only [Ieee.op, daz_signed_zero, value_signed_zero, Ieee.addV, hz, if_true]
  simp [zeroSumNeg, Ieee.ftz, daz_signed_zero]

/-- R96: the product of a zero and a finite value is a zero of the product's sign. -/
theorem mul_zero_finite (M : FpMode) (n : Bool) {b : Nat} (hb : b / 2 ^ 23 % 2 ^ 8 < 255) (d : Nat) :
    fp32.op M .mul (fp32.signed n 0) b d = fp32.signed (n != fp32.neg b) 0 := by
  obtain ⟨m, e, hv⟩ := value_daz_of_finite hb M.daz
  simp only [Ieee.op, daz_signed_zero, value_signed_zero, hv, mulV, Ieee.ofV, Nat.zero_mul, if_true]
  exact daz_signed_zero _ _

theorem signed_zero_xor (u v : Word) :
    BitVec.ofNat 32 (fp32.signed (u.msb != v.msb) 0) = (u ^^^ v) &&& 0x80000000 := by
  apply BitVec.eq_of_getLsbD_eq
  intro j hj
  rw [BitVec.getLsbD_and, BitVec.getLsbD_xor, BitVec.msb_eq_getLsbD_last, BitVec.msb_eq_getLsbD_last]
  by_cases h31 : j = 31
  · subst h31
    cases u.getLsbD (32 - 1) <;> cases v.getLsbD (32 - 1) <;> rfl
  · have h0 : (0x80000000 : Word).getLsbD j = false := by
      rw [show (0x80000000 : Word) = BitVec.twoPow 32 31 from rfl, BitVec.getLsbD_twoPow]
      simp; omega
    rw [h0, Bool.and_false]
    cases u.getLsbD (32 - 1) != v.getLsbD (32 - 1)
    · exact BitVec.getLsbD_zero
    · exact h0

/-- R97: of two zeros of unlike sign −0 is the smaller. -/
theorem min_zeros (M : FpMode) (n : Bool) (d : Nat) :
    fp32.op M .min (fp32.signed n 0) (fp32.signed (!n) 0) d = 0x80000000 := by
  simp only [Ieee.op, daz_signed_zero]
  cases n <;> exact daz_signed_zero M.ftz true
theorem max_zeros (M : FpMode) (n : Bool) (d : Nat) :
    fp32.op M .max (fp32.signed n 0) (fp32.signed (!n) 0) d = 0 := by
  simp only [Ieee.op, daz_signed_zero]
  cases n <;> exact daz_signed_zero M.ftz false

/-- Two sums written out, in every rounding mode: 1.5 + 2.25, which is exact, and 1 + 2⁻²⁴, which lies half-way. -/
theorem addV_exact (r : BitVec 2) (nan : Nat) :
    fp32.addV (.ofMode r) nan (fp32.value 0x3FC00000) (fp32.value 0x40100000) = 0x40700000 := by
  fin_cases r <;> rfl

theorem addV_tie (r : BitVec 2) (nan : Nat) : fp32.addV (.ofMode r) nan (fp32.value 0x3F800000) (fp32.value 0x33800000) =
    if r = 3 then 0x3F800001 else 0x3F800000 := by
  fin_cases r <;> rfl

/-- A sum of normal values that is a normal value in its rounding mode is the operation's result under DAZ and FTZ. -/
theorem add_of_addV {M : FpMode} {a b v : Nat} (ha : fp32.isSub a = false) (hb : fp32.isSub b = false)
    (hv : fp32.isSub v = false) (h : fp32.addV M.rnd (fp32.nanOf M.legacyNan [a, b]) (fp32.value a) (fp32.value b) = v)
    (d : Nat) : fp32.op M .add a b d = v := by
  simp only [Ieee.op, daz_of_not_sub ha, daz_of_not_sub hb, h]
  exact daz_of_not_sub hv M.ftz

end Sys2Proof.Machine

open Sys2Proof Sys2Proof.Machine

/-- Settles O6: the bodies, then each fact of R34–R36, R45, R96 and R97 from what the operation makes of its operands. -/
theorem floatArithmetic : Obligations.FloatArithmetic := by
  intro d a b x D E k c
  refine ⟨doesIf_fadd, doesIf_fsub, doesIf_fmul, doesIf_fmin, doesIf_fmax, doesIf_ffma,
    LaneInstr.fpBin ⟨fun _ _ => rfl, exec_faddCompact D E⟩ (by simp [Names]),
    LaneInstr.fpBin ⟨fun _ _ => rfl, exec_fsubCompact D E⟩ (by simp [Names]),
    LaneInstr.fpBin ⟨fun _ _ => rfl, exec_fmulCompact D E⟩ (by simp [Names]),
    LaneInstr.fpBin ⟨fun _ _ => rfl, exec_fmaxCompact D E⟩ (by simp [Names]), doesIf_fcmp k c,
    doesIf_fadd.congr fun _ _ _ G h hp => ?_, ?_⟩
  · rw [fpWord_scalar, add_nan hp.1 hp.2]
    rfl
  intro field zero down up
  refine ⟨doesIf_fsub.congr fun _ _ _ G h hp => ?_, doesIf_fsub.congr fun _ _ _ G h hp => ?_,
    doesIf_fadd.congr fun _ _ _ G h hp => ?_, doesIf_fmul.congr fun _ _ _ G h hp => ?_,
    doesIf_fadd.congr fun _ _ _ G h hp => ?_, doesIf_fadd.congr fun _ _ _ G h hp => ?_,
    doesIf_fadd.congr fun _ _ _ G h hp => ?_, doesIf_fmin.congr fun _ _ _ G h hp => ?_,
    doesIf_fmax.congr fun _ _ _ G h hp => ?_⟩
  · obtain ⟨heq, hfin, hdown⟩ := hp
    have hr : (G.mode.rnd == .rdn) = false := (mode_rdn G).trans (decide_eq_false hdown)
    rw [fpWord_scalar, ← heq, sub_self_finite _ hfin, hr]
    rfl
  · obtain ⟨heq, hfin, hdown⟩ := hp
    have hr : (G.mode.rnd == .rdn) = true := (mode_rdn G).trans (decide_eq_true hdown)
    rw [fpWord_scalar, ← heq, sub_self_finite _ hfin, hr]
    rfl
  · obtain ⟨heq, hz⟩ := hp
    rw [fpWord_scalar, ← heq, eq_signed_of_zero hz, add_zero_self, ← eq_signed_of_zero hz, BitVec.ofNat_toNat,
      BitVec.setWidth_eq]
  · obtain ⟨hz, hfin⟩ := hp
    rw [fpWord_scalar, eq_signed_of_zero hz, mul_zero_finite _ _ hfin, neg_toNat, signed_zero_xor]
  · obtain ⟨ha, hb⟩ := hp
    rw [fpWord_scalar, ha, hb]
    exact congrArg (fun v => h.put d (BitVec.ofNat 32 v)) (add_of_addV rfl rfl rfl (addV_exact _ _) _).symm
  · obtain ⟨ha, hb, hup⟩ := hp
    rw [fpWord_scalar, ha, hb]
    exact congrArg (fun v => h.put d (BitVec.ofNat 32 v))
      (add_of_addV rfl rfl rfl ((addV_tie _ _).trans (if_neg hup)) _).symm
  · obtain ⟨ha, hb, hup⟩ := hp
    rw [fpWord_scalar, ha, hb]
    exact congrArg (fun v => h.put d (BitVec.ofNat 32 v))
      (add_of_addV rfl rfl rfl ((addV_tie _ _).trans (if_pos hup)) _).symm
  · obtain ⟨hz, hb⟩ := hp
    rw [fpWord_scalar, hb, eq_signed_of_zero hz, toNat_xor_sign hz, min_zeros]
    rfl
  · obtain ⟨hz, hb⟩ := hp
    rw [fpWord_scalar, hb, eq_signed_of_zero hz, toNat_xor_sign hz, max_zeros]
    rfl
end

section
/-!
PROOFS. The FUN group (O7): a result that arrives after its window, the range of every function's result, and the patterns
that FABS, FNEG and FCLASS give.
-/

namespace Sys2Proof.Machine

/-! ### Results of a lone thread -/

section

variable {s : State} {c : Issue} {t : Nat} {T : Team} {G : Group} {h : Thread} {ds : List (BitVec 8)}

/-- A result for g registers takes no place among a port's elements. -/
theorem resultPlace_g (hd : ∀ d ∈ ds, d.toNat < 220) : resultPlace (c.lane t) ds s = .ok ((0, none), s) := by
  match ds, hd with
  | [], _ => rfl
  | [d], hd => simp [resultPlace, regCode_g (hd d (by simp))]
  | _ :: _ :: _, _ => simp [resultPlace]

theorem destOk_g (hd : ∀ d ∈ ds, d.toNat < 220) : ds.forM (destOk (c.lane t)) s = .ok ((), s) := by
  induction ds with
  | nil => rfl
  | cons d ds ih =>
    have hd1 : destOk (c.lane t) d s = .ok ((), s) := by
      simp [destOk, regCode_g (hd d (by simp))]
    show (destOk (c.lane t) d >>= fun _ => ds.forM (destOk (c.lane t))) s = _
    rw [M.bind_apply, hd1]
    exact ih fun d' h' => hd d' (by simp [h'])

theorem wrList_g (hd : ∀ d ∈ ds, d.toNat < 220) (vs : List Word64) (s : State) :
    wrList (c.lane t) ds vs s = .ok ((), s.modThread c.team t (·.putAll ds vs)) := by
  induction ds generalizing vs s with
  | nil => simp [wrList, Thread.putAll, State.modThread_id]
  | cons d ds ih =>
    cases vs with
    | nil => simp [wrList, Thread.putAll, State.modThread_id]
    | cons v vs =>
      simp only [wrList, M.bind_apply, wr_put (hd d (by simp)), ih fun d' h' => hd d' (by simp [h']),
        State.modThread_modThread, Thread.putAll]

/-- The thread with values on their way to registers after a window of `n` instructions (R67). -/
def Thread.await (h : Thread) (ds : List (BitVec 8)) (n : Nat) (mem : Bool) (vs : List Word64) : Thread :=
  if n = 0 then h.putAll ds vs else { h with pend := h.pend ++ [⟨ds, .ready vs, n + 1, mem, 0, none⟩] }

theorem At.later (hs : At s c t T G h) (hd : ∀ d ∈ ds, d.toNat < 220) (n : Nat) (mem : Bool) (vs : List Word64) :
    later (c.lane t) ds (.ready vs) n mem s = .ok ((), s.modThread c.team t fun _ => h.await ds n mem vs) := by
  unfold Machine.later
  rw [M.bind_apply, resultPlace_g hd]
  cases n with
  | zero =>
    simp only [wrList_g hd]
    rw [hs.modC (·.putAll ds vs)]
    rfl
  | succ n =>
    have hpend : pendOf (c.lane t) s = .ok (h.pend, s) := by simp [pendOf, hs.getThread]
    simp only [M.bind_apply, destOk_g hd, hpend]
    exact congrArg (fun s => Except.ok ((), s)) (hs.modC fun h' => { h' with pend := h.pend ++ _ })

theorem Thread.await_one (h : Thread) (d : BitVec 8) (l : BitVec 4) (v : Word) :
    h.await [d] l.toNat false [v.setWidth 64] = h.expect d l v := by
  have hl : l.toNat = 0 ↔ l = 0 := (BitVec.toNat_inj (y := 0)).symm.symm
  simp only [Thread.await, Thread.expect, hl]
  split
  · simp [Thread.putAll]
  · rfl

end

/-! ### Every result of the group is a word -/

theorem signed_lt {c : Nat} (hc : c < 2 ^ 31) (n : Bool) : fp32.signed n c < 2 ^ 32 := by
  have : fp32.signed n c = c + if n then 2 ^ 31 else 0 := rfl
  split at this <;> omega

theorem round_lt (rnd : Rnd) (n : Bool) (p q : Nat) : fp32.round rnd n p q < 2 ^ 32 := by
  have hinf : fp32.infCode < 2 ^ 31 := by decide
  by_cases hc : roundCode fp32.t fp32.emin rnd n p q < fp32.infCode
  · simp only [Ieee.round, if_pos hc]
    exact signed_lt (hc.trans hinf) n
  · simp only [Ieee.round, if_neg hc]
    refine signed_lt ?_ n
    have hmax : fp32.infCode - 1 < 2 ^ 31 := by decide
    repeat' split
    all_goals first | exact hinf | exact hmax

theorem endpoint_lt (v : Int) (p : Nat) :
    (if v = 0 then 0 else fp32.round .rne (v < 0) v.natAbs (2 ^ p)) < 2 ^ 32 := by
  split
  · decide
  · exact round_lt _ _ _ _

theorem settled_lt {a : Approx} {v : Nat} (h : a.settled = some v) : v < 2 ^ 32 := by
  simp only [Approx.settled, Option.ite_none_right_eq_some, Option.some.injEq] at h
  obtain ⟨-, rfl⟩ := h
  exact endpoint_lt _ _

theorem settle_lt (f : Nat → Approx) (fuel p : Nat) : settle f fuel p < 2 ^ 32 := by
  induction fuel generalizing p with
  | zero => exact endpoint_lt _ _
  | succ fuel ih =>
    unfold settle
    split
    · next hv => exact settled_lt hv
    · exact ih _

theorem roundIntegral_lt (rnd : Rnd) (n : Bool) (m : Nat) (e : Int) : roundIntegral rnd n m e < 2 ^ 32 := by
  simp only [roundIntegral]
  split
  · exact signed_lt (by decide) n
  · exact round_lt _ _ _ _

theorem mag_lt (b : Nat) : fp32.mag b < 2 ^ 31 := Nat.mod_lt _ (by decide)

theorem fclass_lt (b : Nat) : fclass b < 2 ^ 32 := by
  simp only [fclass]
  repeat' split
  all_goals decide

theorem daz_lt {b : Nat} (hb : b < 2 ^ 32) (on : Bool) : fp32.daz on b < 2 ^ 32 := by
  unfold Ieee.daz
  split
  · exact signed_lt (by decide) _
  · exact hb

theorem nanOf_lt {b : Nat} (hb : b < 2 ^ 32) (legacy : Bool) : fp32.nanOf legacy [b] < 2 ^ 32 := by
  have hbit : 2 ^ (fp32.t - 1) = 4194304 := rfl
  have hq : fp32.quiet b < 2 ^ 32 := by
    rw [Ieee.quiet, hbit]
    split <;> omega
  have hn : fp32.nanBits < 2 ^ 32 := by decide
  cases legacy <;> cases hnan : fp32.isNan b <;> simp only [Ieee.nanOf, List.find?, hnan, if_true, Bool.false_eq_true, if_false]
  · exact hn
  · exact hn
  · exact hn
  · exact hq

theorem funZero_lt (op : FunOp) (n : Bool) : funZero op n < 2 ^ 32 := by
  cases n <;> cases op <;> decide

theorem funInf_lt (op : FunOp) (n : Bool) : funInf op n < 2 ^ 32 := by
  cases n <;> cases op <;> decide

theorem funFin_lt (op : FunOp) {b : Nat} (hb : b < 2 ^ 32) (n : Bool) (m : Nat) (e : Int) :
    funFin op b n m e < 2 ^ 32 := by
  have hmag : fp32.mag b < 2 ^ 32 := (mag_lt b).trans (by decide)
  cases op <;> simp only [funFin]
  case abs => exact hmag
  case neg => exact signed_lt (mag_lt b) _
  case rcp => exact round_lt _ _ _ _
  case rsq | sqrt => split <;> first | decide | exact round_lt _ _ _ _
  case exp2 =>
    split
    · decide
    · split
      · decide
      · exact settle_lt _ _ _
  case log2 => split <;> first | decide | exact settle_lt _ _ _
  case sin | cos => exact settle_lt _ _ _
  case tanh =>
    split
    · exact signed_lt (by decide) _
    · exact settle_lt _ _ _
  case floor | ceil | trunc | rint => exact roundIntegral_lt _ _ _ _
  case cls => exact fclass_lt b
  case sat =>
    split
    · decide
    · split
      · decide
      · exact hb

theorem funResult_lt (M : FpMode) (op : FunOp) {b : Nat} (hb : b < 2 ^ 32) : funResult M op b < 2 ^ 32 := by
  have hd := daz_lt hb M.daz
  have hn := nanOf_lt hd M.legacyNan
  unfold funResult
  split
  · exact fclass_lt b
  · simp only
    split
    · split
      · exact (mag_lt _).trans (by decide)
      · exact signed_lt (mag_lt _) _
      · decide
      · exact hn
    · exact funInf_lt _ _
    · split
      · exact funZero_lt _ _
      · exact daz_lt (funFin_lt op hd _ _ _) _

theorem setWidth_64_ofNat {v : Nat} (hv : v < 2 ^ 32) : (BitVec.ofNat 32 v).setWidth 64 = BitVec.ofNat 64 v := by
  apply BitVec.eq_of_toNat_eq
  simp only [BitVec.toNat_setWidth, BitVec.toNat_ofNat]
  omega

/-! ### Bodies -/

section

variable {i : Instr} {p : State → Team → Group → Thread → Prop} {d a : BitVec 8} {l : BitVec 4}

theorem LaneInstr.function {op : FunOp} (hi : LaneInstr i (fun_ op d a l)) (hn : Names i [a, d]) :
    DoesIf i p fun _ _ _ G h => h.expect d l (BitVec.ofNat 32 (funResult G.mode op (h.val a).toNat)) :=
  hi.doesIf fun s c t T G h hs _ => by
    have hd : ∀ r ∈ [d], r.toNat < 220 := fun r hr => hs.lt_of_names hn (List.mem_cons_of_mem _ hr)
    rw [← Thread.await_one, setWidth_64_ofNat (funResult_lt _ _ (h.val a).isLt)]
    simp [Machine.fun_, seq_apply, hs.fpMode, hs.rd (hs.lt_of_names hn (r := a) (by simp)), hs.later hd]

theorem doesIf_fsat (d a : BitVec 8) (l : BitVec 4) (old : Bool) : DoesIf (.fsat d a l)
    (fun s T _ h => emulates s T h 2 = old) fun _ _ _ G h => h.expect d l (BitVec.ofNat 32
      (if old && fp32.isNan (h.val a).toNat then fp32.nanOf G.mode.legacyNan [(h.val a).toNat]
        else funResult G.mode .sat (h.val a).toNat)) :=
  LaneInstr.doesIf ⟨fun _ _ => rfl, exec_fsat d a l⟩ fun s c t T G h hs hold => by
    have hd : ∀ r ∈ [d], r.toNat < 220 := fun r hr => List.mem_singleton.mp hr ▸ hs.lt (r := d) (by simp)
    have hv : (if old && fp32.isNan (h.val a).toNat then fp32.nanOf G.mode.legacyNan [(h.val a).toNat]
        else funResult G.mode .sat (h.val a).toNat) < 2 ^ 32 := by
      split
      · exact nanOf_lt (h.val a).isLt _
      · exact funResult_lt _ _ (h.val a).isLt
    rw [← Thread.await_one, setWidth_64_ofNat hv]
    simp [bodyFsat, seq_apply, hs.fpMode, hs.erratum, hs.rd (hs.lt (r := a) (by simp)), hs.later hd, hold]

end

/-! ### FABS, FNEG and FCLASS -/

/-- A subnormal operand or result would be read or given as zero. -/
def FpMode.keeps (M : FpMode) (b : Nat) : Prop := fp32.isSub b = false ∨ (M.daz = false ∧ M.ftz = false)

theorem FpMode.keeps.daz_eq {M : FpMode} {b : Nat} (hk : M.keeps b) : fp32.daz M.daz b = b := by
  rcases hk with h | ⟨h, -⟩ <;> simp [Ieee.daz, h]

theorem FpMode.keeps.ftz_eq {M : FpMode} {b v : Nat} (hk : M.keeps b) (hv : fp32.isSub v = fp32.isSub b) :
    fp32.ftz M.ftz v = v := by
  rcases hk with h | ⟨-, h⟩ <;> simp [Ieee.ftz, Ieee.daz, h, hv]

theorem mag_signed {c : Nat} (hc : c < 2 ^ 31) (n : Bool) : fp32.mag (fp32.signed n c) = c := by
  have : fp32.signed n c = c + if n then 2 ^ 31 else 0 := rfl
  rw [this, fp32_mag]
  split <;> omega

theorem isSub_of_mag_eq {u v : Nat} (h : fp32.mag u = fp32.mag v) : fp32.isSub u = fp32.isSub v := by
  simp only [Ieee.isSub, h]

/-- The value of a pattern that is no NaN: an infinity, or a finite one that is zero where its magnitude is. -/
theorem value_cases {b : Nat} (hb : fp32.isNan b = false) :
    (fp32.value b = .inf (fp32.neg b) ∧ fp32.mag b = fp32.infCode) ∨
      ∃ m e, fp32.value b = .fin (fp32.neg b) m e ∧ (m = 0 → fp32.mag b = 0) := by
  have hlt : ¬ fp32.infCode < fp32.mag b := of_decide_eq_false hb
  simp only [Ieee.value, if_neg hlt]
  split
  · next h => exact .inl ⟨rfl, h⟩
  · right
    split
    · exact ⟨_, _, rfl, fun h => h⟩
    · exact ⟨_, _, rfl, fun h => by have : 0 < 2 ^ fp32.t := by decide
                                    omega⟩

theorem funResult_abs {M : FpMode} {b : Nat} (hb : fp32.isNan b = false) (hk : M.keeps b) :
    funResult M .abs b = fp32.mag b := by
  simp only [funResult, reduceCtorEq, if_false, hk.daz_eq]
  rcases value_cases hb with ⟨hv, hm⟩ | ⟨m, e, hv, hm⟩
  · rw [hv, hm]
    rfl
  · rw [hv]
    simp only
    split
    · next h => rw [hm h]; rfl
    · exact hk.ftz_eq (isSub_of_mag_eq (Nat.mod_mod _ _))

theorem funResult_neg {M : FpMode} {b : Nat} (hb : fp32.isNan b = false) (hk : M.keeps b) :
    funResult M .neg b = fp32.signed (!fp32.neg b) (fp32.mag b) := by
  simp only [funResult, reduceCtorEq, if_false, hk.daz_eq]
  rcases value_cases hb with ⟨hv, hm⟩ | ⟨m, e, hv, hm⟩
  · rw [hv, hm]
    rfl
  · rw [hv]
    simp only
    split
    · next h => rw [hm h]; rfl
    · exact hk.ftz_eq (isSub_of_mag_eq (mag_signed (mag_lt b) _))

/-! ### Fields of a pattern -/

theorem mag_eq_fields (v : Nat) : fp32.mag v = v / 2 ^ 23 % 2 ^ 8 * 2 ^ 23 + v % 2 ^ 23 := by
  rw [fp32_mag]
  omega

theorem isNan_iff (v : Nat) : fp32.isNan v = true ↔ v / 2 ^ 23 % 2 ^ 8 = 255 ∧ v % 2 ^ 23 ≠ 0 := by
  rw [Ieee.isNan, decide_eq_true_eq, mag_eq_fields, fp32_infCode]
  omega

theorem isSub_iff (v : Nat) : fp32.isSub v = true ↔ v / 2 ^ 23 % 2 ^ 8 = 0 ∧ v % 2 ^ 23 ≠ 0 := by
  rw [Ieee.isSub, Bool.and_eq_true, decide_eq_true_eq, decide_eq_true_eq, mag_eq_fields, show fp32.t = 23 from rfl]
  omega

theorem keeps_of_fields {M : FpMode} {v : Nat}
    (h : v / 2 ^ 23 % 2 ^ 8 = 0 → v % 2 ^ 23 = 0 ∨ (M.daz = false ∧ M.ftz = false)) : M.keeps v := by
  by_cases hs : fp32.isSub v = true
  · obtain ⟨hf, ht⟩ := (isSub_iff v).mp hs
    exact .inr ((h hf).resolve_left ht)
  · exact .inl (Bool.not_eq_true _ ▸ hs)

theorem fclass_eq (v : Word) : fclass v.toNat = 2 ^ (
    if v.toNat / 2 ^ 23 % 2 ^ 8 = 255 then
      (if v.toNat % 2 ^ 23 = 0 then (if v.msb then 0 else 7) else if v.getLsbD 22 then 9 else 8)
    else if v.toNat / 2 ^ 23 % 2 ^ 8 = 0 then
      (if v.toNat % 2 ^ 23 = 0 then (if v.msb then 3 else 4) else if v.msb then 2 else 5)
    else if v.msb then 1 else 6) := by
  have hmag := mag_eq_fields v.toNat
  have hbit : fp32.mag v.toNat / 2 ^ 22 % 2 = 1 ↔ v.getLsbD 22 = true := by
    rw [BitVec.getLsbD, Nat.testBit_eq_decide_div_mod_eq, decide_eq_true_eq, fp32_mag]
    omega
  have hnan : fp32.infCode < fp32.mag v.toNat ↔ v.toNat / 2 ^ 23 % 2 ^ 8 = 255 ∧ v.toNat % 2 ^ 23 ≠ 0 := by
    rw [fp32_infCode]; omega
  have hinf : fp32.mag v.toNat = fp32.infCode ↔ v.toNat / 2 ^ 23 % 2 ^ 8 = 255 ∧ v.toNat % 2 ^ 23 = 0 := by
    rw [fp32_infCode]; omega
  have hzero : fp32.mag v.toNat = 0 ↔ v.toNat / 2 ^ 23 % 2 ^ 8 = 0 ∧ v.toNat % 2 ^ 23 = 0 := by omega
  have hsub : fp32.mag v.toNat < 2 ^ 23 ↔ v.toNat / 2 ^ 23 % 2 ^ 8 = 0 := by omega
  simp only [fclass, hbit, hnan, hinf, hzero, hsub, neg_toNat]
  by_cases hf : v.toNat / 2 ^ 23 % 2 ^ 8 = 255
  · by_cases ht : v.toNat % 2 ^ 23 = 0 <;> simp only [hf, ht] <;> split <;> simp_all
  · by_cases h0 : v.toNat / 2 ^ 23 % 2 ^ 8 = 0
    · by_cases ht : v.toNat % 2 ^ 23 = 0 <;> simp only [h0, ht] <;> split <;> simp_all
    · simp only [hf, h0, false_and, if_false]
      split <;> rfl

theorem ofNat_mag (v : Word) : BitVec.ofNat 32 (fp32.mag v.toNat) = v &&& 0x7FFFFFFF := by
  apply BitVec.eq_of_toNat_eq
  rw [BitVec.toNat_and, BitVec.toNat_ofNat, Nat.mod_eq_of_lt ((mag_lt _).trans (by decide)), fp32_mag]
  exact (Nat.and_two_pow_sub_one_eq_mod v.toNat 31).symm

theorem ofNat_signed_mag (v : Word) :
    BitVec.ofNat 32 (fp32.signed (!fp32.neg v.toNat) (fp32.mag v.toNat)) = v ^^^ 0x80000000 := by
  have hsigned : fp32.signed (!fp32.neg v.toNat) (fp32.mag v.toNat) =
      if v.msb then fp32.mag v.toNat else 2 ^ 31 + fp32.mag v.toNat := by
    rw [neg_toNat]
    cases v.msb
    · exact Nat.add_comm _ _
    · rfl
  have hbit (j : Nat) : (fp32.mag v.toNat).testBit j = (decide (j < 31) && v.getLsbD j) := Nat.testBit_mod_two_pow _ _ _
  apply BitVec.eq_of_getLsbD_eq
  intro j hj
  rw [BitVec.getLsbD_ofNat, hsigned, BitVec.getLsbD_xor, show (0x80000000 : Word) = BitVec.twoPow 32 31 from rfl,
    BitVec.getLsbD_twoPow, BitVec.msb_eq_getLsbD_last]
  rcases Nat.lt_or_ge j 31 with h | h
  · have hne : ¬ 31 = j := by omega
    split
    · simp [hbit, hj, h, hne]
    · simp [Nat.testBit_two_pow_add_gt h, hbit, hj, h, hne]
  · obtain rfl : j = 31 := by omega
    split
    · next hmsb => simp_all
    · next hmsb =>
      rw [Nat.testBit_two_pow_add_eq, hbit, Bool.eq_false_iff.mpr hmsb]
      rfl

end Sys2Proof.Machine

open Sys2Proof Sys2Proof.Machine

/-- Settles O7: every function's result is a word, which is there after its window; the patterns of FABS, FNEG and FCLASS
follow from their fields. -/
theorem floatFunctions : Obligations.FloatFunctions := by
  intro d a l gives
  refine ⟨LaneInstr.function ⟨fun _ _ => rfl, exec_fabs d a l⟩ ?_, LaneInstr.function ⟨fun _ _ => rfl, exec_fneg d a l⟩ ?_,
    LaneInstr.function ⟨fun _ _ => rfl, exec_frcp d a l⟩ ?_, LaneInstr.function ⟨fun _ _ => rfl, exec_frsq d a l⟩ ?_,
    LaneInstr.function ⟨fun _ _ => rfl, exec_fsqrt d a l⟩ ?_, LaneInstr.function ⟨fun _ _ => rfl, exec_fexp2 d a l⟩ ?_,
    LaneInstr.function ⟨fun _ _ => rfl, exec_flog2 d a l⟩ ?_, LaneInstr.function ⟨fun _ _ => rfl, exec_fsin d a l⟩ ?_,
    LaneInstr.function ⟨fun _ _ => rfl, exec_fcos d a l⟩ ?_, LaneInstr.function ⟨fun _ _ => rfl, exec_ftanh d a l⟩ ?_,
    LaneInstr.function ⟨fun _ _ => rfl, exec_ffloor d a l⟩ ?_, LaneInstr.function ⟨fun _ _ => rfl, exec_fceil d a l⟩ ?_,
    LaneInstr.function ⟨fun _ _ => rfl, exec_ftrunc d a l⟩ ?_, LaneInstr.function ⟨fun _ _ => rfl, exec_frint d a l⟩ ?_,
    LaneInstr.function ⟨fun _ _ => rfl, exec_fclass d a l⟩ ?_, (doesIf_fsat d a l false).congr fun _ _ _ _ _ _ => rfl,
    fun s c t T G h hs hp => ?_, ?_⟩
  case refine_16 =>
    obtain ⟨hold, hnan, hleg⟩ := hp
    rw [doesIf_fsat d a l true s c t T G h hs hold]
    simp only [hnan, hleg, Bool.and_self, if_true, Ieee.nanOf, Bool.false_eq_true, if_false]
    rfl
  case refine_17 =>
    intro field tail kept
    refine ⟨(LaneInstr.function ⟨fun _ _ => rfl, exec_fabs d a l⟩ (by simp [Names])).congr fun _ _ _ G h hp => ?_,
      (LaneInstr.function ⟨fun _ _ => rfl, exec_fneg d a l⟩ (by simp [Names])).congr fun _ _ _ G h hp => ?_,
      (LaneInstr.function ⟨fun _ _ => rfl, exec_fclass d a l⟩ (by simp [Names])).congr fun _ _ _ G h _ => ?_⟩
    · have hnan := Bool.eq_false_iff.mpr fun h => hp.1 ((isNan_iff _).mp h)
      rw [funResult_abs hnan (keeps_of_fields hp.2), ofNat_mag]
    · have hnan := Bool.eq_false_iff.mpr fun h => hp.1 ((isNan_iff _).mp h)
      rw [funResult_neg hnan (keeps_of_fields hp.2), ofNat_signed_mag]
    · exact congrArg (fun v => h.expect d l (BitVec.ofNat 32 v)) (fclass_eq _).symm
  all_goals simp [Names]
end

section
/-!
PROOFS. Conversions and dot products (O8): the format, the rounding and the draw of CVT as a lane reads them, and the binary8
values that binary32 does not hold.
-/

namespace Sys2Proof.Machine

/-! ### What CVT reads -/

section

variable {s : State} {c : Issue} {t : Nat} {T : Team} {G : Group} {h : Thread}

theorem At.slot8_invalid (hs : At s c t T G h) {b : Bool} (hv : (slotOf G.nfmt b).valid = false) :
    Machine.slot8 (c.lane t) b s = .error (.trap Cause.operandFormat 0) := by
  simp [Machine.slot8, hs.nfmt, hv]

theorem At.vfmt (hs : At s c t T G h) {f : BitVec 3} {F : VFmt} (hF : vformat G.nfmt f = some F) :
    vfmt (c.lane t) f s = .ok (F, s) := by
  unfold vformat at hF
  unfold Machine.vfmt
  split at hF <;> simp_all [hs.slot8]

theorem At.vfmt_invalid (hs : At s c t T G h) {f : BitVec 3} (hF : vformat G.nfmt f = none) :
    Machine.vfmt (c.lane t) f s = .error (.trap Cause.operandFormat 0) := by
  unfold vformat at hF
  unfold Machine.vfmt
  split at hF <;> simp_all [hs.slot8_invalid]

/-- The thread with one draw more counted (R147). -/
def Thread.drawn (h : Thread) : Thread := { h with draw := h.draw + 1 }

/-- R147: a draw from the team's seed, counted. -/
theorem At.draw15 (hs : At s c t T G h) (hr : T.replay.getLsbD 0 = false) :
    draw15 c.team t s = .ok (T.rowan t h, s.modThread c.team t Thread.drawn) := by
  have hat : drawAt c.team t T.rseed T.replay h.draw s = .ok (T.rowan t h, s) := by
    unfold drawAt
    rw [hr]
    rfl
  simp only [Machine.draw15, M.bind_apply, hs.getTeam, hs.getThread, hat]
  rfl

theorem ne_three_cases {r : BitVec 2} (hr : r ≠ 3) : r = 0 ∨ r = 1 ∨ r = 2 := by
  revert r
  decide

theorem cvtRnd_apply {r : BitVec 2} (hr : r ≠ 3) (M : FpMode) (F : VFmt) :
    cvtRnd (c.lane t) r M F s = .ok (cvtRound M F r 0, s) := by
  rcases ne_three_cases hr with rfl | rfl | rfl <;> cases F <;> simp [Machine.cvtRnd, cvtRound, intRnd]

theorem At.cvtRnd_draw (hs : At s c t T G h) (hr : T.replay.getLsbD 0 = false) (M : FpMode) (F : VFmt) :
    Machine.cvtRnd (c.lane t) 3#2 M F s =
      .ok (cvtRound M F 3 (T.rowan t h), s.modThread c.team t Thread.drawn) := by
  cases F <;> simp [Machine.cvtRnd, cvtRound, intRnd, theThread_lane, hs.draw15 hr]

/-- The thread of an issue whose one lane is known. -/
theorem At.eq_of_drawn (hs : At s c t T G h) {t' : Nat} (hc : s.cur.map (·.threads) = some [t']) : t = t' := by
  rw [hs.cur] at hc
  simpa [hs.lanes.2] using hc

end

/-! ### CVT -/

section

variable {d a : BitVec 8} {f : BitVec 3} {r p : BitVec 2} {ins : Bool} {F : VFmt} {v : Nat} {clamped : Bool}

theorem doesIf_cvt : DoesIf (.cvt d a f r p ins)
    (fun _ _ G h => r ≠ 3 ∧ vformat G.nfmt f = some F ∧
      cvtResult G.mode F (cvtRound G.mode F r 0) p (h.val a) = .ok v clamped)
    fun _ _ _ _ h => h.put d (placed F ins (if ins then h.val d else 0) v) :=
  LaneInstr.puts ⟨fun _ _ => rfl, exec_cvt d a f r p ins⟩ (by simp [Names]) fun s c t T G h hs hp hd => by
    obtain ⟨hr, hF, hv⟩ := hp
    cases ins <;> simp [bodyCvt, seq_apply, hs.fpMode, hs.vfmt hF, hs.rd (hs.lt (r := a) (by simp)), hs.rd hd,
      cvtRnd_apply hr, hv, wr_put hd]

theorem doesIf_cvt_draw {u : Nat} : DoesIf (.cvt d a f 3 p ins)
    (fun s T G h => s.cur.map (·.threads) = some [u] ∧ T.replay.getLsbD 0 = false ∧ vformat G.nfmt f = some F ∧
      cvtResult G.mode F (cvtRound G.mode F 3 (T.rowan u h)) p (h.val a) = .ok v clamped)
    fun _ _ _ _ h => h.drawn.put d (placed F ins (if ins then h.val d else 0) v) :=
  LaneInstr.doesIf ⟨fun _ _ => rfl, exec_cvt d a f 3 p ins⟩ fun s c t T G h hs hp => by
    obtain ⟨hu, hr, hF, hv⟩ := hp
    obtain rfl := hs.eq_of_drawn hu
    change cvtResult G.mode F (cvtRound G.mode F 3#2 (T.rowan t h)) p (h.val a) = _ at hv
    have hd : d.toNat < 220 := hs.lt (r := d) (by simp)
    rw [← hs.modC fun h' => h'.drawn.put d _]
    cases ins <;> simp [bodyCvt, seq_apply, hs.fpMode, hs.vfmt hF, hs.rd (hs.lt (r := a) (by simp)), hs.rd hd,
      hs.cvtRnd_draw hr, hv, wr_put hd, State.modThread_modThread]

theorem traps_cvt_overflow : Traps (.cvt d a f r p ins)
    (fun _ _ G h => r ≠ 3 ∧ vformat G.nfmt f = some F ∧
      cvtResult G.mode F (cvtRound G.mode F r 0) p (h.val a) = .trap) Cause.overflowTrap fun _ => 0 :=
  LaneInstr.traps ⟨fun _ _ => rfl, exec_cvt d a f r p ins⟩ fun s c t T G h hs hp => by
    obtain ⟨hr, hF, hv⟩ := hp
    cases ins <;> simp [bodyCvt, seq_apply, hs.fpMode, hs.vfmt hF, hs.rd (hs.lt (r := a) (by simp)),
      hs.rd (hs.lt (r := d) (by simp)), cvtRnd_apply hr, hv]

theorem traps_cvt_format : Traps (.cvt d a f r p ins) (fun _ _ G _ => vformat G.nfmt f = none) Cause.operandFormat
    fun _ => 0 :=
  LaneInstr.traps ⟨fun _ _ => rfl, exec_cvt d a f r p ins⟩ fun s c t T G h hs hF => by
    simp [bodyCvt, seq_apply, hs.fpMode, hs.vfmt_invalid hF]

end

/-! ### Elements of binary8 -/

/-- A power of two beyond binary32 rounds to infinity. -/
theorem ofV_two_pow_beyond {e : Nat} (he : 128 ≤ e) (nan : Nat) : fp32.ofV .rne nan (.fin false 1 e) = fp32.infCode := by
  have hlog : ilog2 (2 ^ e) 1 = e := by
    have h1 : Nat.log2 1 = 0 := rfl
    simp [ilog2, Nat.log2_two_pow, h1, ratOf]
  have hmax : max (e : Int) fp32.emin = e := max_eq_left (by rw [show fp32.emin = -126 from rfl]; omega)
  have hexp : (e : Int) - fp32.t = ((e - 23 : Nat) : Int) := by rw [show fp32.t = 23 from rfl]; omega
  have hcode : ((e : Int) - fp32.emin).toNat = e + 126 := by rw [show fp32.emin = -126 from rfl]; omega
  have hdiv : 2 ^ e = 2 ^ 23 * 2 ^ (e - 23) := by rw [← Nat.pow_add, Nat.add_sub_cancel' (by omega)]
  have hround : roundCode fp32.t fp32.emin .rne false (2 ^ e) 1 = (e + 127) * 2 ^ 23 := by
    have hpos : 2 ^ (e - 23) ≠ 0 := (Nat.two_pow_pos _).ne'
    have hk : 2 ^ e / 2 ^ (e - 23) = 2 ^ 23 := by rw [hdiv, Nat.mul_div_cancel _ (Nat.two_pow_pos _)]
    have hr : 2 ^ e % 2 ^ (e - 23) = 0 := by rw [hdiv, Nat.mul_mod_left]
    simp only [roundCode, (Nat.two_pow_pos e).ne', if_false, hlog, hmax, hexp, hcode, ratOf, Nat.one_mul, Nat.mul_one, hk,
      hr, Rnd.up]
    have ht : (2 : Nat) ^ fp32.t = 2 ^ 23 := rfl
    simp only [Nat.mul_zero, hpos.symm, Nat.not_lt_zero, decide_false, Bool.false_and, Bool.or_false, Bool.false_eq_true,
      if_false, ht]
    omega
  have hinf : ¬ roundCode fp32.t fp32.emin .rne false (2 ^ e) 1 < fp32.infCode := by
    rw [hround, fp32_infCode]
    omega
  have hofV : fp32.ofV .rne nan (.fin false 1 e) = fp32.round .rne false (2 ^ e) 1 := by
    simp [Ieee.ofV, ratOf]
  rw [hofV]
  simp only [Ieee.round, if_neg hinf]
  rfl

theorem fp32Of_beyond {v : FVal} {e : Nat} (hv : v = .fin false 1 e) (he : 128 ≤ e) :
    BitVec.ofNat 32 (fp32Of v) = Config.beyondFp32 e := by
  subst hv
  have hb : (FVal.fin false 1 e).beyond32 = true := by
    show (fp32.ofV .rne fp32.nanBits (.fin false 1 e) % 2 ^ 31 == fp32.infCode) = true
    rw [ofV_two_pow_beyond he]
    rfl
  simp [fp32Of, hb, FVal.exponent]

theorem fp32Of_within {v : FVal} (hv : v.beyond32 = false) : fp32Of v = fp32.ofV .rne fp32.nanBits v := by
  simp [fp32Of, hv]

section

variable {q : State → Team → Group → Thread → Prop} {d a b : BitVec 8} {x : Bool}

theorem doesIf_cvif : DoesIf (.cvif d a) q fun _ _ _ G h =>
    h.put d (ofInt G.mode (h.val a).msb (h.val a).toInt.natAbs) :=
  LaneInstr.puts ⟨fun _ _ => rfl, exec_cvif d a⟩ (by simp [Names]) fun s c t T G h hs _ hd => by
    simp [bodyCvif, seq_apply, hs.fpMode, hs.rd (hs.lt (r := a) (by simp)), wr_put hd]

theorem doesIf_cvnf : DoesIf (.cvnf d a) q fun _ _ _ G h => h.put d (ofInt G.mode false (h.val a).toNat) :=
  LaneInstr.puts ⟨fun _ _ => rfl, exec_cvnf d a⟩ (by simp [Names]) fun s c t T G h hs _ hd => by
    simp [bodyCvnf, seq_apply, hs.fpMode, hs.rd (hs.lt (r := a) (by simp)), wr_put hd]

theorem doesIf_cvfi : DoesIf (.cvfi d a) q fun _ _ _ G h => h.put d (toInt G.mode true (h.val a)) :=
  LaneInstr.puts ⟨fun _ _ => rfl, exec_cvfi d a⟩ (by simp [Names]) fun s c t T G h hs _ hd => by
    simp [bodyCvfi, seq_apply, hs.fpMode, hs.rd (hs.lt (r := a) (by simp)), wr_put hd]

theorem doesIf_cvfn : DoesIf (.cvfn d a) q fun _ _ _ G h => h.put d (toInt G.mode false (h.val a)) :=
  LaneInstr.puts ⟨fun _ _ => rfl, exec_cvfn d a⟩ (by simp [Names]) fun s c t T G h hs _ hd => by
    simp [bodyCvfn, seq_apply, hs.fpMode, hs.rd (hs.lt (r := a) (by simp)), wr_put hd]

theorem doesIf_cvhf : DoesIf (.cvhf d a x) q fun _ _ _ G h =>
    h.put d (widen G.mode fp16 ((h.val a).extractLsb' (if x then 16 else 0) 16)) :=
  LaneInstr.puts ⟨fun _ _ => rfl, exec_cvhf d a x⟩ (by simp [Names]) fun s c t T G h hs _ hd => by
    cases x <;> simp [bodyCvhf, seq_apply, hs.fpMode, hs.rd (hs.lt (r := a) (by simp)), wr_put hd]

theorem doesIf_cvbf : DoesIf (.cvbf d a) q fun _ _ _ G h =>
    h.put d (widen G.mode bf16 ((h.val a).extractLsb' 0 16)) :=
  LaneInstr.puts ⟨fun _ _ => rfl, exec_cvbf d a⟩ (by simp [Names]) fun s c t T G h hs _ hd => by
    simp [bodyCvbf, seq_apply, hs.fpMode, hs.rd (hs.lt (r := a) (by simp)), wr_put hd]

theorem doesIf_cv8af : DoesIf (.cv8af d a) (fun s T G h => (slotOf G.nfmt false).valid = true ∧ q s T G h)
    fun _ _ _ G h => h.put d (BitVec.ofNat 32 (fp32Of ((slotOf G.nfmt false).value ((h.val a).toNat % 2 ^ 8)))) :=
  LaneInstr.puts ⟨fun _ _ => rfl, exec_cv8af d a⟩ (by simp [Names]) fun s c t T G h hs hp hd => by
    simp [bodyCv8af, seq_apply, hs.slot8 _ hp.1, hs.rd (hs.lt (r := a) (by simp)), wr_put hd]

theorem doesIf_cv8bf : DoesIf (.cv8bf d a) (fun s T G h => (slotOf G.nfmt true).valid = true ∧ q s T G h)
    fun _ _ _ G h => h.put d (BitVec.ofNat 32 (fp32Of ((slotOf G.nfmt true).value ((h.val a).toNat % 2 ^ 8)))) :=
  LaneInstr.puts ⟨fun _ _ => rfl, exec_cv8bf d a⟩ (by simp [Names]) fun s c t T G h hs hp hd => by
    simp [bodyCv8bf, seq_apply, hs.slot8 _ hp.1, hs.rd (hs.lt (r := a) (by simp)), wr_put hd]

theorem traps_cv8af : Traps (.cv8af d a) (fun _ _ G _ => (slotOf G.nfmt false).valid = false) Cause.operandFormat
    fun _ => 0 :=
  LaneInstr.traps ⟨fun _ _ => rfl, exec_cv8af d a⟩ fun s c t T G h hs hv => by
    simp [bodyCv8af, seq_apply, hs.slot8_invalid hv]

theorem traps_cv8bf : Traps (.cv8bf d a) (fun _ _ G _ => (slotOf G.nfmt true).valid = false) Cause.operandFormat
    fun _ => 0 :=
  LaneInstr.traps ⟨fun _ _ => rfl, exec_cv8bf d a⟩ fun s c t T G h hs hv => by
    simp [bodyCv8bf, seq_apply, hs.slot8_invalid hv]

theorem doesIf_dot4 : DoesIf (.dot4 d a b)
    (fun _ _ G _ => (slotOf G.nfmt false).valid = true ∧ (slotOf G.nfmt true).valid = true)
    fun _ _ _ G h => h.put d (dotSum (h.val d) ((elems 8 4 (h.val a)).map (slotOf G.nfmt false).value)
      ((elems 8 4 (h.val b)).map (slotOf G.nfmt true).value)) :=
  LaneInstr.puts ⟨fun _ _ => rfl, exec_dot4 d a b⟩ (by simp [Names]) fun s c t T G h hs hp hd => by
    simp [bodyDot4, seq_apply, hs.slot8 _ hp.1, hs.slot8 _ hp.2, hs.rd (hs.lt (r := a) (by simp)),
      hs.rd (hs.lt (r := b) (by simp)), hs.rd hd, wr_put hd]

theorem doesIf_dot2 : DoesIf (.dot2 d a b) q fun _ _ _ G h => h.put d (dotSum (h.val d)
    ((elems 16 2 (h.val a)).map (if G.fpctl.getLsbD 6 then bf16 else fp16).value)
    ((elems 16 2 (h.val b)).map (if G.fpctl.getLsbD 6 then bf16 else fp16).value)) :=
  LaneInstr.puts ⟨fun _ _ => rfl, exec_dot2 d a b⟩ (by simp [Names]) fun s c t T G h hs _ hd => by
    simp [bodyDot2, seq_apply, hs.fpctl, hs.rd (hs.lt (r := a) (by simp)), hs.rd (hs.lt (r := b) (by simp)),
      hs.rd hd, wr_put hd]

end

end Sys2Proof.Machine

open Sys2Proof Sys2Proof.Machine

/-- Settles O8: CVT by its format, rounding and draw, then the fixed conversions and the dot products. -/
theorem conversions : Obligations.Conversions := by
  refine ⟨fun d a f r p ins F v clamped => ⟨doesIf_cvt, fun t => doesIf_cvt_draw, traps_cvt_overflow, traps_cvt_format⟩,
    fun d a b x => ⟨doesIf_cvif, doesIf_cvnf, doesIf_cvfi, doesIf_cvfn, doesIf_cvhf, doesIf_cvbf, ?_, fun e => ?_, ?_,
      fun e => ?_, doesIf_dot4, doesIf_dot2, traps_cv8af, traps_cv8bf⟩⟩
  · exact doesIf_cv8af.congr fun _ _ _ _ _ hp => by rw [fp32Of_within hp.2]
  · exact doesIf_cv8af.congr fun _ _ _ _ _ hp => by rw [fp32Of_beyond hp.2.2 hp.2.1]
  · exact doesIf_cv8bf.congr fun _ _ _ _ _ hp => by rw [fp32Of_within hp.2]
  · exact doesIf_cv8bf.congr fun _ _ _ _ _ hp => by rw [fp32Of_beyond hp.2.2 hp.2.1]
end

section
/-!
PROOFS. Probability predicates (O9): reads and writes of q registers by a lone thread, and the instructions that draw.
-/

namespace Sys2Proof.Machine

section

variable {i : Instr} {p : State → Team → Group → Thread → Prop} {body : Lane → M Next}
  {v : State → Nat → Team → Group → Thread → BitVec 25}

/-- A body that writes one q register. -/
theorem LaneInstr.putsQ {q : BitVec 3} (hi : LaneInstr i body)
    (hb : ∀ s c t T G h, Solo s i c t T G h → p s T G h →
      body (c.lane t) s = .ok (none, s.modThread c.team t (·.putQ q (v s t T G h)))) :
    DoesIf i p fun s t T G h => h.putQ q (v s t T G h) :=
  hi.doesIf fun s c t T G h hs hp => by rw [hb s c t T G h hs hp, hs.modC (·.putQ q _)]

/-- A body that writes one b register. -/
theorem LaneInstr.putsB {k : BitVec 3} {b : Thread → Bool} (hi : LaneInstr i body)
    (hb : ∀ s c t T G h, Solo s i c t T G h →
      body (c.lane t) s = .ok (none, s.modThread c.team t fun h' => { h' with b := setBit h'.b k (b h) })) :
    Does i fun h => { h with b := setBit h.b k (b h) } :=
  hi.does fun s c t T G h hs => by rw [hb s c t T G h hs, hs.modC fun h' => { h' with b := setBit h'.b k _ }]

end

variable {d a b : BitVec 8} {q x y k : BitVec 3} {n m : BitVec 2} {Q : BitVec 25} {sense : Bool}

/-! ### Comparison and combination -/

theorem doesIf_scmp : DoesIf (.scmp q n k a b) (fun _ _ _ _ => True) fun _ _ _ G h =>
    h.putQ q (qMake (softCode n (h.val a) (h.val b) G.temp) (BitVec.ofNat 8 (2 ^ k.toNat)) false) :=
  LaneInstr.putsQ ⟨fun _ _ => rfl, exec_scmp q n k a b⟩ fun s c t T G h hs _ => by
    simp [bodyScmp, seq_apply, theThread_lane, hs.getGroup, hs.rd (hs.lt (r := a) (by simp)),
      hs.rd (hs.lt (r := b) (by simp)), wrQ_apply]

theorem LaneInstr.pcomb {i : Instr} {C : Comb} (hi : LaneInstr i (pcomb C q x y m)) :
    DoesIf i (fun _ _ _ h => combine C (h.qval x) (h.qval y) m = some Q) fun _ _ _ _ h => h.putQ q Q :=
  hi.putsQ fun s c t T G h hs hQ => by
    simp [Machine.pcomb, seq_apply, theThread_lane, hs.rdQ, hQ, wrQ_apply]

theorem combine_strict {A B : BitVec 25} (h : qLineage A &&& qLineage B ≠ 0) (C : Comb) : combine C A B 3 = none := by
  have hdep : (qLineage A &&& qLineage B != 0) = true := bne_iff_ne.mpr h
  simp only [combine, hdep]
  rfl

theorem LaneInstr.pcomb_traps {i : Instr} {C : Comb} (hi : LaneInstr i (Machine.pcomb C q x y 3)) :
    Traps i (fun _ _ _ h => qLineage (h.qval x) &&& qLineage (h.qval y) ≠ 0) Cause.dependentPredicate fun _ => 0 :=
  hi.traps fun s c t T G h hs hdep => by
    simp only [Machine.pcomb, seq_apply, M.bind_apply, theThread_lane, M.pure_apply, hs.rdQ,
      combine_strict hdep, trap_apply]

theorem does_pcombNot : Does (.pcombNot q x) fun h =>
    h.putQ q (qMake (0x8000 - qCode (h.qval x)) (qLineage (h.qval x)) (qIndep (h.qval x))) :=
  does_of_doesIf (LaneInstr.putsQ ⟨fun _ _ => rfl, exec_pcombNot q x⟩ fun s c t T G h hs _ => by
    simp [bodyPcombNot, seq_apply, theThread_lane, hs.rdQ, wrQ_apply])

/-! ### Moves -/

theorem does_qset : Does (.qset q a) fun h =>
    h.putQ q (qMake ((h.val a).toNat % 2 ^ 16) ((h.val a).extractLsb' 16 8) ((h.val a).getLsbD 24)) :=
  does_of_doesIf (LaneInstr.putsQ ⟨fun _ _ => rfl, exec_qset q a⟩ fun s c t T G h hs _ => by
    simp [bodyQset, seq_apply, theThread_lane, hs.rd (hs.lt (r := a) (by simp)), wrQ_apply])

theorem does_qget : Does (.qget q d) fun h => h.put d ((h.qval q).setWidth 32) :=
  does_of_doesIf (LaneInstr.puts ⟨fun _ _ => rfl, exec_qget q d⟩ (by simp [Names]) fun s c t T G h hs _ hd => by
    simp [bodyQget, seq_apply, theThread_lane, hs.rdQ, wr_put hd])

theorem does_qfromb : Does (.qfromb q x) fun h =>
    h.putQ q (qMake (if h.b.getLsbD x.toNat then 0x8000 else 0) 0 false) :=
  does_of_doesIf (LaneInstr.putsQ ⟨fun _ _ => rfl, exec_qfromb q x⟩ fun s c t T G h hs _ => by
    simp [bodyQfromb, seq_apply, theThread_lane, hs.rdB, wrQ_apply])

theorem doesIf_pgrad : DoesIf (.pgrad q n d) (fun _ _ _ _ => True) fun _ _ _ G h =>
    h.put d (gradient (decide (n.toNat < 2)) (qCode (h.qval q)) G.temp) :=
  LaneInstr.puts ⟨fun _ _ => rfl, exec_pgrad q n d⟩ (by simp [Names]) fun s c t T G h hs _ hd => by
    simp [bodyPgrad, seq_apply, theThread_lane, hs.getGroup, hs.rdQ, wr_put hd]

theorem does_qhard : Does (.qhard q k) fun h => { h with b := setBit h.b k (decide (0x4000 ≤ qCode (h.qval q))) } :=
  LaneInstr.putsB ⟨fun _ _ => rfl, exec_qhard q k⟩ fun s c t T G h hs => by
    simp [bodyQhard, seq_apply, theThread_lane, hs.rdQ, wrB_t]

/-! ### Draws and blends -/

/-- The issue's one thread is known, and its draws come from the team's seed. -/
def seeded (t : Nat) (s : State) (T : Team) (_ : Group) (_ : Thread) : Prop :=
  s.cur.map (·.threads) = some [t] ∧ T.replay.getLsbD 0 = false

theorem doesIf_selq {t : Nat} : DoesIf (.selq q sense d a) (seeded t) fun _ _ T _ h =>
    h.drawn.put d (if decide (T.rowan t h < qCode (h.qval q)) = sense then h.val a else h.val d) :=
  LaneInstr.doesIf ⟨fun _ _ => rfl, exec_selq q sense d a⟩ fun s c u T G h hs hp => by
    obtain rfl := hs.eq_of_drawn hp.1
    have hd : d.toNat < 220 := hs.lt (r := d) (by simp)
    rw [← hs.modC fun h' => h'.drawn.put d _]
    simp [bodySelq, seq_apply, theThread_lane, hs.rdQ, hs.rd (hs.lt (r := a) (by simp)), hs.rd hd, hs.draw15 hp.2,
      wr_put hd, State.modThread_modThread]

theorem doesIf_coll {t : Nat} : DoesIf (.coll q k) (seeded t) fun _ _ T _ h =>
    { h with draw := h.draw + 1, b := setBit h.b k (decide (T.rowan t h < qCode (h.qval q))) } :=
  LaneInstr.doesIf ⟨fun _ _ => rfl, exec_coll q k⟩ fun s c u T G h hs hp => by
    obtain rfl := hs.eq_of_drawn hp.1
    have hbody : bodyColl q k (c.lane u) s = .ok (none, s.modThread c.team u fun h' =>
        { h'.drawn with b := setBit h'.drawn.b k (decide (T.rowan u h < qCode (h.qval q))) }) := by
      simp [bodyColl, seq_apply, theThread_lane, hs.rdQ, hs.draw15 hp.2, wrB_t, State.modThread_modThread]
    rw [hbody]
    exact congrArg (fun s => Except.ok (none, s))
      (hs.modC fun h' => { h'.drawn with b := setBit h'.drawn.b k (decide (T.rowan u h < qCode (h.qval q))) })

theorem LaneInstr.blend {i : Instr} {f : Nat → Word → Word → Word} (hi : LaneInstr i (blendWith q sense d a f))
    (hn : Names i [a, d]) : Does i fun h =>
      h.put d (f (if sense then qCode (h.qval q) else 0x8000 - qCode (h.qval q)) (h.val a) (h.val d)) :=
  does_of_doesIf (hi.puts (fun _ hr => hn _ (List.mem_cons_of_mem _ hr)) fun s c t T G h hs _ hd => by
    simp [blendWith, seq_apply, theThread_lane, hs.rdQ, hs.rd (hs.lt_of_names hn (r := a) (by simp)), hs.rd hd,
      wr_put hd])

end Sys2Proof.Machine

open Sys2Proof Sys2Proof.Machine

/-- Settles O9: each body writes one q, b or g register; those that draw count the draw first. -/
theorem probabilityPredicates : Obligations.ProbabilityPredicates := by
  refine ⟨fun d a b q x y k n m Q => ⟨doesIf_scmp, LaneInstr.pcomb ⟨fun _ _ => rfl, exec_pcombAnd q x y m⟩,
    LaneInstr.pcomb ⟨fun _ _ => rfl, exec_pcombOr q x y m⟩, LaneInstr.pcomb ⟨fun _ _ => rfl, exec_pcombXor q x y m⟩,
    LaneInstr.pcomb_traps ⟨fun _ _ => rfl, exec_pcombAnd q x y 3⟩,
    LaneInstr.pcomb_traps ⟨fun _ _ => rfl, exec_pcombOr q x y 3⟩,
    LaneInstr.pcomb_traps ⟨fun _ _ => rfl, exec_pcombXor q x y 3⟩, does_pcombNot, does_qset, does_qget, does_qfromb,
    doesIf_pgrad, does_qhard⟩, fun d a q k sense t => ⟨doesIf_selq, doesIf_coll, ?_, ?_⟩⟩
  · exact LaneInstr.blend ⟨fun _ _ => rfl, exec_blend q sense d a⟩ (by simp [Names])
  · exact LaneInstr.blend ⟨fun _ _ => rfl, exec_blendi q sense d a⟩ (by simp [Names])
end

section
/-!
PROOFS. Checksums (O10).
-/

namespace Sys2Proof.Machine

variable {n : BitVec 2} {int : Bool} {a b : BitVec 8}

theorem does_cka : Does (.cka n int a) fun h =>
    h.setCk n.toNat ⟨ckAdd int (h.ckFor n.toNat int) (h.val a), some int⟩ :=
  LaneInstr.does ⟨fun _ _ => rfl, exec_cka n int a⟩ fun s c t T G h hs => by
    rw [← hs.modC fun h' => h'.setCk n.toNat ⟨ckAdd int (h'.ckFor n.toNat int) (h.val a), some int⟩]
    simp [bodyCka, seq_apply, theThread_lane, hs.rd (hs.lt (r := a) (by simp))]

theorem does_ckz : Does (.ckz n) fun h => h.setCk n.toNat ⟨0, none⟩ :=
  LaneInstr.does ⟨fun _ _ => rfl, exec_ckz n⟩ fun _ _ _ _ _ _ hs => hs.modC (·.setCk n.toNat Ck.zero) ▸ rfl

theorem Solo.ckt {s : State} {c : Issue} {t : Nat} {T : Team} {G : Group} {h : Thread}
    (hs : Solo s (.ckt n int a b) c t T G h) : bodyCkt n int a b (c.lane t) s =
      seq (check (ckNear int (h.ckFor n.toNat int) (h.val a) (h.val b)) Cause.invariant) s := by
  simp [bodyCkt, seq_apply, theThread_lane, hs.getThread, hs.rd (hs.lt (r := a) (by simp)),
    hs.rd (hs.lt (r := b) (by simp))]

theorem doesIf_ckt : DoesIf (.ckt n int a b)
    (fun _ _ _ h => ckNear int (h.ckFor n.toNat int) (h.val a) (h.val b) = true) fun _ _ _ _ h => h :=
  LaneInstr.doesIf ⟨fun _ _ => rfl, exec_ckt n int a b⟩ fun s c t T G h hs hnear => by
    rw [hs.ckt, hnear, hs.modThread_self]
    rfl

theorem traps_ckt : Traps (.ckt n int a b)
    (fun _ _ _ h => ckNear int (h.ckFor n.toNat int) (h.val a) (h.val b) = false) Cause.invariant fun _ => 0 :=
  LaneInstr.traps ⟨fun _ _ => rfl, exec_ckt n int a b⟩ fun s c t T G h hs hfar => by
    rw [hs.ckt, hfar]
    rfl

/-- R209: two words whose difference is negative are apart by its magnitude. -/
theorem ckNear_false_of_neg {k : Word64} {e tol : Word} (hneg : 2 ^ 31 ≤ (k.extractLsb' 0 32 - e).toNat)
    (htol : tol.toNat < 2 ^ 32 - (k.extractLsb' 0 32 - e).toNat) : ckNear true k e tol = false := by
  have hrev : (e - k.extractLsb' 0 32).toNat = 2 ^ 32 - (k.extractLsb' 0 32 - e).toNat := by
    have hx := (k.extractLsb' 0 32).isLt
    have he := e.isLt
    rw [BitVec.toNat_sub] at hneg ⊢
    rw [BitVec.toNat_sub]
    omega
  simp only [ckNear, if_true, hrev, decide_eq_false_iff_not]
  omega

theorem Traps.mono {i : Instr} {p q : State → Team → Group → Thread → Prop} {cause : BitVec 8} {addr : Thread → Word64}
    (ht : Traps i p cause addr) (hqp : ∀ s T G h, q s T G h → p s T G h) : Traps i q cause addr :=
  fun s c t T G h hs hq => ht s c t T G h hs (hqp s T G h hq)

end Sys2Proof.Machine

open Sys2Proof Sys2Proof.Machine

/-- Settles O10. -/
theorem checksums : Obligations.Checksums :=
  fun _ _ _ _ => ⟨does_cka, does_cka, does_ckz, doesIf_ckt, traps_ckt,
    traps_ckt.mono fun _ _ _ _ ⟨hneg, htol⟩ => ckNear_false_of_neg hneg htol⟩
end

section
/-!
PROOFS. Branches (O11), and what an instruction that leaves a target as the next PC does.
-/

namespace Sys2Proof.Machine

variable {s s' : State} {i : Instr} {c : Issue} {t : Nat} {T : Team} {G : Group} {h : Thread} {body : Lane → M Next}

/-- A body that gives a target: its thread goes there from the state that the body leaves. -/
theorem LaneInstr.goes (hi : LaneInstr i body) (hs : Solo s i c t T G h) {pc : Word64}
    (hb : body (c.lane t) s = .ok (some pc, s')) : exec i s = .next (s'.modThread c.team t (·.goTo c.len pc)) := by
  rw [hi.exec_eq, issue, issueWith_solo hs (hi.kind s T) hb]
  rfl

theorem LaneInstr.doesTo (hi : LaneInstr i body) {p : State → Team → Group → Thread → Prop}
    {f : Thread → Thread × Word64} (hb : ∀ s c t T G h, Solo s i c t T G h → p s T G h →
      body (c.lane t) s = .ok (some (f h).2, s.modThread c.team t fun _ => (f h).1)) : DoesTo i p f := by
  intro s c t T G h hs hp
  rw [hi.goes hs (hb s c t T G h hs hp), State.modThread_modThread]
  exact congrArg _ (hs.modC fun h => (f h).1.goTo c.len (f h).2).symm

/-- A body that changes nothing. -/
theorem LaneInstr.doesNothing (hi : LaneInstr i body) {p : State → Team → Group → Thread → Prop}
    (hb : ∀ s c t T G h, Solo s i c t T G h → p s T G h → body (c.lane t) s = .ok (none, s)) :
    DoesIf i p fun _ _ _ _ h => h :=
  hi.doesIf fun s c t T G h hs hp => by rw [hb s c t T G h hs hp, hs.modThread_self]

/-- R58: an offset counts halfwords. -/
theorem branchTarget_eq (pc : Word64) (o : BitVec 21) : branchTarget pc o = pc + BitVec.ofInt 64 (2 * o.toInt) := by
  have hsign : o.signExtend 64 = BitVec.ofInt 64 o.toInt := rfl
  have hdouble (x : Word64) : x <<< 1 = 2 * x := by
    rw [BitVec.shiftLeft_eq_mul_twoPow, BitVec.mul_comm]
    rfl
  rw [branchTarget, hdouble, hsign, BitVec.ofInt_mul]
  rfl

theorem doesTo_bra (b : BitVec 3) (sense : Bool) (o : BitVec 21) :
    DoesTo (.bra b sense o) (fun _ _ _ h => h.b.getLsbD b.toNat = sense)
      fun h => (h, h.pc + BitVec.ofInt 64 (2 * o.toInt)) :=
  LaneInstr.doesTo ⟨fun _ _ => rfl, exec_bra b sense o⟩ fun s c t T G h hs hb => by
    rw [hs.modThread_self, ← branchTarget_eq]
    simp only [bodyBra, M.bind_apply, hs.pcOf, hs.rdB, hb, beq_self_eq_true, if_true]
    rfl

theorem doesIf_bra_not (b : BitVec 3) (sense : Bool) (o : BitVec 21) :
    DoesIf (.bra b sense o) (fun _ _ _ h => h.b.getLsbD b.toNat ≠ sense) fun _ _ _ _ h => h :=
  LaneInstr.doesNothing ⟨fun _ _ => rfl, exec_bra b sense o⟩ fun s c t T G h hs hb => by
    simp only [bodyBra, M.bind_apply, hs.pcOf, hs.rdB, beq_eq_false_iff_ne.mpr hb, Bool.false_eq_true, if_false]
    rfl

end Sys2Proof.Machine

open Sys2Proof Sys2Proof.Machine

/-- Settles O11. -/
theorem branches : Obligations.Branches :=
  fun b sense o => ⟨doesTo_bra b sense o, doesIf_bra_not b sense o,
    does_of_doesIf (LaneInstr.doesNothing ⟨fun _ _ => rfl, exec_land⟩ fun _ _ _ _ _ _ _ _ => rfl)⟩
end

section
/-!
PROOFS. Rules of local accesses: a sound core admits every access and serves it as it stands (R267, R270, R271).
-/

namespace Sys2Proof.Machine

section

variable {s : State} {l : Local} {P : Team}

theorem Core.readable_of_sound {c : Core} (he : c.errs = []) (hp : c.perrs = []) (w : Nat) : c.readable w = true := by
  have hd (v : Nat) : c.dataBad v = false := by simp [Core.dataBad, he, SMap.find?, badErr]
  have hw : c.parityWrong w = false := by simp [Core.parityWrong, hp, SMap.find?, badErr]
  unfold Core.readable
  split
  · split <;> simp [hd, hw]
  · simp [hd]

theorem CoreSound.unreadable? (hc : CoreSound s P) (hP : s.team? l.team = some P) (n : Nat) : s.unreadable? l n = none := by
  simp [State.unreadable?, hP, Core.readable_of_sound hc.errs hc.perrs]

theorem CoreSound.serveLocal (hc : CoreSound s P) (hP : s.team? l.team = some P) (n : Nat) : s.serveLocal l n = s := by
  simp [State.serveLocal, hP, hc.errs, hc.perrs]

theorem CoreSound.localHeld (hc : CoreSound s P) (hP : s.team? l.team = some P) (n : Nat) : s.localHeld l n = false := by
  simp [State.localHeld, hP, hc.open_, hc.asked]

theorem CoreSound.admitLocal (hc : CoreSound s P) (hP : s.team? l.team = some P) (n : Nat) :
    admitLocal l n s = .ok ((), s) := by
  simp [Machine.admitLocal, hc.localHeld hP]

theorem CoreSound.readLocal (hc : CoreSound s P) (hP : s.team? l.team = some P) (x n : Nat) :
    readLocal l x n s = .ok (readBytes P.sp l.off n, s) := by
  simp [Machine.readLocal, hc.admitLocal hP, getTeam_apply hP, hc.unreadable? hP, hc.serveLocal hP]

/-- A store to the team's own scratchpad. -/
theorem CoreSound.storeLocal (hc : CoreSound s P) (hP : s.team? l.team = some P) (hw : l.window = false) (t : Nat)
    (bs : List Byte) : storeLocal t l bs s = .ok ((), s.writeLocal l bs) := by
  simp [Machine.storeLocal, hc.admitLocal hP, hw]

end

/-! ### Resolving an address of the team's own scratchpad -/

section

variable {s : State} {k : Nat} {T : Team} {x n : Nat}

theorem local?_own (hT : s.team? k = some T) (hx : x < winBase) (hin : x + n ≤ T.size) :
    s.local? k x n = .ok ⟨k, x, false⟩ := by
  simp [State.local?, hT, hx, hin]

theorem local?_beyond (hT : s.team? k = some T) (hx : x < winBase) (hout : T.size < x + n) :
    s.local? k x n = .error Cause.protection := by
  simp [State.local?, hT, hx, hout]

theorem resolveLocal_own (hT : s.team? k = some T) (hx : x < winBase) (hin : x + n ≤ T.size) :
    resolveLocal k x n s = .ok (⟨k, x, false⟩, s) := by
  simp [resolveLocal, local?_own hT hx hin]

theorem resolveLocal_beyond (hT : s.team? k = some T) (hx : x < winBase) (hout : T.size < x + n) :
    resolveLocal k x n s = .error (.trap Cause.protection (BitVec.ofNat 64 x)) := by
  simp [resolveLocal, local?_beyond hT hx hout]

theorem loadLocal_own (hT : s.team? k = some T) (hx : x < winBase) (hin : x + n ≤ T.size) (hc : CoreSound s T) :
    loadLocal k x n s = .ok (readBytes T.sp x n, s) := by
  simp [loadLocal, resolveLocal_own hT hx hin, hc.readLocal (l := ⟨k, x, false⟩) hT]

theorem aligned_of_mod (h : x % n = 0) (s : State) : aligned x n s = .ok ((), s) := by
  simp [aligned, h]

theorem aligned_of_not (h : x % n ≠ 0) (s : State) :
    aligned x n s = .error (.trap Cause.misalignedData (BitVec.ofNat 64 x)) := by
  simp [aligned, h]

end

end Sys2Proof.Machine
end

section
/-!
PROOFS. Calls and returns (O12): the return stack in its eight registers and in the scratchpad, and the checks of a transfer's
target.
-/

namespace Sys2Proof.Machine

variable {s s' : State} {i : Instr} {c : Issue} {t : Nat} {T : Team} {G : Group} {h : Thread}

/-! ### The return stack -/

theorem At.stackOf (hs : At s c t T G h) : stackOf (c.lane t) s = .ok ((h.rs, h.spill), s) := by
  simp [Machine.stackOf, hs.getThread]

theorem setStack_apply (s : State) (c : Issue) (t : Nat) (rs : List Word64) (n : Nat) :
    setStack (c.lane t) rs n s = .ok ((), s.modThread c.team t fun h => { h with rs := rs, spill := n }) := rfl

theorem check_apply (b : Bool) (cause : BitVec 8) (a : Word64) (s : State) :
    check b cause a s = if b then .ok ((), s) else .error (.trap cause a) := by cases b <;> rfl

/-- R106: the registers have room. -/
theorem pushReturn_of_stackOf {rs : List Word64} (hstack : Machine.stackOf (c.lane t) s = .ok ((rs, 0), s))
    (hlen : rs.length < 8) (v : Word64) : pushReturn (c.lane t) v s =
      .ok ((), s.modThread c.team t fun h => { h with rs := rs ++ [v], spill := 0 }) := by
  have hroom : (rs.length + 0 != 16) = true := bne_iff_ne.mpr (by omega)
  simp only [pushReturn, M.bind_apply, hstack, check_apply, hroom, if_true, Nat.ne_of_lt hlen, if_false, setStack_apply]

theorem At.pushReturn (hs : At s c t T G h) (hlen : h.rs.length < 8) (hspill : h.spill = 0) (v : Word64) :
    pushReturn (c.lane t) v s =
      .ok ((), s.modThread c.team t fun h' => { h' with rs := h.rs ++ [v], spill := 0 }) :=
  pushReturn_of_stackOf (hspill ▸ hs.stackOf) hlen v

/-- R106: the seventeenth nested call. -/
theorem At.pushReturn_full (hs : At s c t T G h) (hfull : h.rs.length + h.spill = 16) (v : Word64) :
    Machine.pushReturn (c.lane t) v s = .error (.trap Cause.illegal 0) := by
  simp [Machine.pushReturn, hs.stackOf, hfull]

/-- Where a thread spills an entry, inside the team's scratchpad. -/
theorem At.spillPlace (hs : At s c t T G h) {j a : Nat} (ha : (T.size : Int) - 64 * (t + 1) + 8 * j = (a : Nat))
    (hin : a < T.size) : spillPlace (c.lane t) j s = .ok (a, s) := by
  have haddr : spillAddr T (c.lane t).who j = (a : Nat) := ha
  simp [Machine.spillPlace, hs.getTeam, haddr, hin]

/-- R106: the oldest entry goes to the scratchpad. -/
theorem At.pushReturn_spill (hs : At s c t T G h) (hlen : h.rs.length = 8) (hspill : h.spill < 8)
    (hrc : s.rcPending c.team (T.origin (.thread t)) = false) {a : Nat}
    (ha : (T.size : Int) - 64 * (t + 1) + 8 * h.spill = (a : Nat)) (hin : a < T.size)
    (hst : storeLocal c.team ⟨c.team, a, false⟩ (leBytes 8 (h.rs.headD 0).toNat) s = .ok ((), s')) (v : Word64) :
    Machine.pushReturn (c.lane t) v s = .ok ((), s'.modThread c.team t fun h' =>
      { h' with rs := h.rs.drop 1 ++ [v], spill := h.spill + 1 }) := by
  have hroom : (8 + h.spill != 16) = true := bne_iff_ne.mpr (by omega)
  simp only [Machine.pushReturn, M.bind_apply, hs.stackOf, check_apply, hroom, hlen, if_true, hs.spillPlace ha hin,
    hs.getTeam, rcFirst_apply, hrc, Bool.false_eq_true, if_false, hst, setStack_apply]

theorem getLastD_of_getLast? {rs : List Word64} {v : Word64} (hv : rs.getLast? = some v) : rs.getLastD 0 = v := by
  rw [List.getLastD_eq_getLast?, hv]
  rfl

theorem length_ne_of_getLast? {rs : List Word64} {v : Word64} (hv : rs.getLast? = some v) : rs.length ≠ 0 := by
  rintro h0
  rw [List.eq_nil_of_length_eq_zero h0] at hv
  cases hv

/-- R106: nothing is spilled. -/
theorem At.popReturn (hs : At s c t T G h) {v : Word64} (hv : h.rs.getLast? = some v) (hspill : h.spill = 0) :
    popReturn (c.lane t) s =
      .ok (v, s.modThread c.team t fun h => { h with rs := h.rs.dropLast, spill := 0 }) := by
  have hne : (h.rs.length + 0 != 0) = true := bne_iff_ne.mpr (length_ne_of_getLast? hv)
  rw [hs.modC fun h => { h with rs := h.rs.dropLast, spill := 0 }]
  simp only [Machine.popReturn, M.bind_apply, hs.stackOf, hspill, check_apply, hne, if_true, Nat.lt_irrefl, if_false,
    setStack_apply, getLastD_of_getLast? hv, M.pure_apply]
  rw [hs.modC fun h' => { h' with rs := h.rs.dropLast, spill := 0 }]

/-- R106: the newest spilled entry comes back. -/
theorem At.popReturn_spilled (hs : At s c t T G h) (hc : CoreSound s T) {v : Word64} (hv : h.rs.getLast? = some v)
    (hspill : 0 < h.spill) {a : Nat} (ha : (T.size : Int) - 64 * (t + 1) + 8 * (h.spill - 1 : Nat) = (a : Nat))
    (hin : a < T.size) : Machine.popReturn (c.lane t) s = .ok (v, s.modThread c.team t fun h =>
      { h with rs := BitVec.ofNat 64 (leNat (readBytes T.sp a 8)) :: h.rs.dropLast, spill := h.spill - 1 }) := by
  have hne : (h.rs.length + h.spill != 0) = true := bne_iff_ne.mpr (by omega)
  rw [hs.modC fun h =>
    { h with rs := BitVec.ofNat 64 (leNat (readBytes T.sp a 8)) :: h.rs.dropLast, spill := h.spill - 1 }]
  simp only [Machine.popReturn, M.bind_apply, hs.stackOf, check_apply, hne, if_true, hspill, hs.spillPlace ha hin,
    hc.readLocal (l := ⟨c.team, a, false⟩) hs.team, setStack_apply, getLastD_of_getLast? hv, M.pure_apply]
  rw [hs.modC fun h' =>
    { h' with rs := BitVec.ofNat 64 (leNat (readBytes T.sp a 8)) :: h.rs.dropLast, spill := h.spill - 1 }]

/-! ### Targets -/

theorem checkTarget_even {pc : Word64} (hpc : pc.getLsbD 0 = false) (ln : Lane) (s : State) :
    checkTarget ln pc s = checkCode ln.team pc s := by
  simp only [checkTarget, M.bind_apply, check_apply, hpc, Bool.not_false, if_true]

theorem checkTarget_odd {pc : Word64} (hpc : pc.getLsbD 0 = true) (ln : Lane) (s : State) :
    checkTarget ln pc s = .error (.trap Cause.misalignedPc pc) := by
  simp only [checkTarget, M.bind_apply, check_apply, hpc, Bool.not_true, Bool.false_eq_true, if_false]

theorem checkLanding_odd {pc : Word64} (hpc : pc.getLsbD 0 = true) (ln : Lane) (s : State) :
    checkLanding ln pc s = .error (.trap Cause.misalignedPc pc) := by
  simp only [checkLanding, M.bind_apply, check_apply, hpc, Bool.not_true, Bool.false_eq_true, if_false]

/-- R109: the word at the target is compared with LAND's. -/
theorem checkLanding_even {pc : Word64} (hpc : pc.getLsbD 0 = false) {ln : Lane} {w : Word} {n : Nat} {j : Option Instr}
    (hf : fetchAt ln.team pc s = .ok ((w, n, j), s')) :
    checkLanding ln pc s = check (w == 0x0000027D) Cause.landing pc s' := by
  simp only [checkLanding, M.bind_apply, check_apply, hpc, Bool.not_false, if_true, hf]

/-! ### CALL, JMPI, CALLI and RET -/

section

variable {b : BitVec 3} {sense : Bool} {o : BitVec 21} {p : BitVec 8}

theorem Solo.call_taken (hs : Solo s (.call b sense o) c t T G h) (hb : h.b.getLsbD b.toNat = sense) :
    bodyCall b sense o (c.lane t) s =
      (pushReturn (c.lane t) (h.pc + 4) >>= fun _ => goTo (branchTarget h.pc o)) s := by
  simp only [bodyCall, M.bind_apply, hs.pcOf, hs.rdB, hb, beq_self_eq_true, if_true]

theorem doesTo_call : DoesTo (.call b sense o)
    (fun _ _ _ h => h.b.getLsbD b.toNat = sense ∧ h.rs.length < 8 ∧ h.spill = 0)
    fun h => ({ h with rs := h.rs ++ [h.pc + 4] }, h.pc + BitVec.ofInt 64 (2 * o.toInt)) :=
  LaneInstr.doesTo ⟨fun _ _ => rfl, exec_call b sense o⟩ fun s c t T G h hs hp => by
    obtain ⟨hb, hlen, hspill⟩ := hp
    rw [← branchTarget_eq, hs.call_taken hb, M.bind_apply, hs.pushReturn hlen hspill,
      hs.modC fun h' => { h' with rs := h.rs ++ [h.pc + 4], spill := 0 }, ← hspill]
    rfl

theorem doesIf_call_not : DoesIf (.call b sense o) (fun _ _ _ h => h.b.getLsbD b.toNat ≠ sense) fun _ _ _ _ h => h :=
  LaneInstr.doesNothing ⟨fun _ _ => rfl, exec_call b sense o⟩ fun s c t T G h hs hb => by
    simp only [bodyCall, M.bind_apply, hs.pcOf, hs.rdB, beq_eq_false_iff_ne.mpr hb, Bool.false_eq_true, if_false]
    rfl

theorem traps_call_full : Traps (.call b sense o)
    (fun _ _ _ h => h.b.getLsbD b.toNat = sense ∧ h.rs.length + h.spill = 16) Cause.illegal fun _ => 0 :=
  LaneInstr.traps ⟨fun _ _ => rfl, exec_call b sense o⟩ fun s c t T G h hs hp => by
    rw [hs.call_taken hp.1, M.bind_apply, hs.pushReturn_full hp.2]

theorem exec_call_spill {a : Nat} (hs : Solo s (.call b sense o) c t T G h) (hb : h.b.getLsbD b.toNat = sense)
    (hlen : h.rs.length = 8) (hspill : h.spill < 8) (hrc : s.rcPending c.team (T.origin (.thread t)) = false)
    (ha : (T.size : Int) - 64 * (t + 1) + 8 * h.spill = (a : Nat)) (hin : a < T.size)
    (hst : storeLocal c.team ⟨c.team, a, false⟩ (leBytes 8 (h.rs.headD 0).toNat) s = .ok ((), s')) :
    exec (.call b sense o) s = .next (s'.modThread c.team t fun h' =>
      ({ h' with rs := h.rs.drop 1 ++ [h.pc + 4], spill := h.spill + 1 } : Thread).goTo c.len
        (h.pc + BitVec.ofInt 64 (2 * o.toInt))) := by
  have hbody : bodyCall b sense o (c.lane t) s = .ok (some (h.pc + BitVec.ofInt 64 (2 * o.toInt)),
      s'.modThread c.team t fun h' => { h' with rs := h.rs.drop 1 ++ [h.pc + 4], spill := h.spill + 1 }) := by
    rw [← branchTarget_eq, hs.call_taken hb, M.bind_apply, hs.pushReturn_spill hlen hspill hrc ha hin hst]
    rfl
  rw [LaneInstr.goes ⟨fun _ _ => rfl, exec_call b sense o⟩ hs hbody, State.modThread_modThread]

theorem Solo.jmpi (hs : Solo s (.jmpi p) c t T G h) : bodyJmpi p (c.lane t) s =
    (checkLanding (c.lane t) (h.pair p) >>= fun _ => goTo (h.pair p)) s := by
  simp only [bodyJmpi, M.bind_apply, hs.rd64]

theorem Solo.calli (hs : Solo s (.calli p) c t T G h) : bodyCalli p (c.lane t) s =
    (checkLanding (c.lane t) (h.pair p) >>= fun _ => pushReturn (c.lane t) (h.pc + 4) >>= fun _ => goTo (h.pair p)) s := by
  simp only [bodyCalli, M.bind_apply, hs.pcOf, hs.rd64]

theorem exec_jmpi_land {n : Nat} {j : Option Instr} (hs : Solo s (.jmpi p) c t T G h)
    (heven : (h.pair p).getLsbD 0 = false) (hf : fetchAt c.team (h.pair p) s = .ok ((0x0000027D, n, j), s')) :
    exec (.jmpi p) s = .next (s'.modThread c.team t fun h' => h'.goTo c.len (h.pair p)) :=
  LaneInstr.goes ⟨fun _ _ => rfl, exec_jmpi p⟩ hs (by
    rw [hs.jmpi, M.bind_apply, checkLanding_even heven hf]
    rfl)

/-- A state in which the thread is as it was, and the fetch has gone before. -/
theorem pushReturn_of_thread? {s : State} (hh : s.thread? c.team t = some h) (hlen : h.rs.length < 8)
    (hspill : h.spill = 0) (v : Word64) : Machine.pushReturn (c.lane t) v s =
      .ok ((), s.modThread c.team t fun h' => { h' with rs := h.rs ++ [v], spill := 0 }) := by
  have hstack : Machine.stackOf (c.lane t) s = .ok ((h.rs, h.spill), s) := by
    simp [Machine.stackOf, Machine.getThread, hh]
  exact pushReturn_of_stackOf (hspill ▸ hstack) hlen v

theorem State.modThread_const {s : State} (hh : s.thread? c.team t = some h) (f : Thread → Thread) :
    s.modThread c.team t f = s.modThread c.team t fun _ => f h := by
  obtain ⟨T, hT, hth⟩ := Option.bind_eq_some_iff.mp hh
  exact State.modThread_congr hT hth rfl

theorem exec_calli_land {n : Nat} {j : Option Instr} (hs : Solo s (.calli p) c t T G h)
    (heven : (h.pair p).getLsbD 0 = false) (hf : fetchAt c.team (h.pair p) s = .ok ((0x0000027D, n, j), s'))
    (hh : s'.thread? c.team t = some h) (hlen : h.rs.length < 8) (hspill : h.spill = 0) :
    exec (.calli p) s = .next (s'.modThread c.team t fun h' =>
      ({ h' with rs := h.rs ++ [h.pc + 4] } : Thread).goTo c.len (h.pair p)) := by
  have hbody : bodyCalli p (c.lane t) s = .ok (some (h.pair p),
      s'.modThread c.team t fun h' => { h' with rs := h.rs ++ [h.pc + 4], spill := 0 }) := by
    rw [hs.calli, M.bind_apply, checkLanding_even heven hf]
    simp only [check_apply, beq_self_eq_true, if_true, M.bind_apply, pushReturn_of_thread? hh hlen hspill]
    rfl
  rw [LaneInstr.goes ⟨fun _ _ => rfl, exec_calli p⟩ hs hbody, State.modThread_modThread, State.modThread_const hh, ← hspill]
  exact congrArg _ (State.modThread_const hh fun h' =>
    ({ h' with rs := h.rs ++ [h.pc + 4] } : Thread).goTo c.len (h.pair p)).symm

theorem traps_jmpi_odd : Traps (.jmpi p) (fun _ _ _ h => (h.pair p).getLsbD 0 = true) Cause.misalignedPc
    fun h => h.pair p :=
  LaneInstr.traps ⟨fun _ _ => rfl, exec_jmpi p⟩ fun s c t T G h hs hodd => by
    rw [hs.jmpi, M.bind_apply, checkLanding_odd hodd]

theorem traps_calli_odd : Traps (.calli p) (fun _ _ _ h => (h.pair p).getLsbD 0 = true) Cause.misalignedPc
    fun h => h.pair p :=
  LaneInstr.traps ⟨fun _ _ => rfl, exec_calli p⟩ fun s c t T G h hs hodd => by
    rw [hs.calli, M.bind_apply, checkLanding_odd hodd]

theorem exec_jmpi_other {w : Word} {n : Nat} {j : Option Instr} (hs : Solo s (.jmpi p) c t T G h)
    (heven : (h.pair p).getLsbD 0 = false) (hf : fetchAt c.team (h.pair p) s = .ok ((w, n, j), s')) (hw : w ≠ 0x0000027D) :
    exec (.jmpi p) s = .next (s.trapped c (.jmpi p) t Cause.landing (h.pair p) none) :=
  hs.traps rfl (exec_jmpi p s) (by
    rw [hs.jmpi, M.bind_apply, checkLanding_even heven hf, beq_eq_false_iff_ne.mpr hw]
    rfl)

theorem exec_calli_other {w : Word} {n : Nat} {j : Option Instr} (hs : Solo s (.calli p) c t T G h)
    (heven : (h.pair p).getLsbD 0 = false) (hf : fetchAt c.team (h.pair p) s = .ok ((w, n, j), s')) (hw : w ≠ 0x0000027D) :
    exec (.calli p) s = .next (s.trapped c (.calli p) t Cause.landing (h.pair p) none) :=
  hs.traps rfl (exec_calli p s) (by
    rw [hs.calli, M.bind_apply, checkLanding_even heven hf, beq_eq_false_iff_ne.mpr hw]
    rfl)

/-- RET goes to the address popped, if that can be fetched. -/
theorem exec_ret_of_pop {v : Word64} {s₁ : State} (hs : Solo s .ret c t T G h)
    (hpop : Machine.popReturn (c.lane t) s = .ok (v, s₁)) (heven : v.getLsbD 0 = false)
    (hcode : checkCode c.team v s₁ = .ok ((), s')) :
    exec .ret s = .next (s'.modThread c.team t fun h => h.goTo c.len v) :=
  LaneInstr.goes ⟨fun _ _ => rfl, exec_ret⟩ hs (by
    simp only [bodyRet, M.bind_apply, hpop, checkTarget_even heven, hcode]
    rfl)

theorem traps_ret_odd (v : Word64) : Traps .ret
    (fun _ _ _ h => h.rs.getLast? = some v ∧ h.spill = 0 ∧ v.getLsbD 0 = true) Cause.misalignedPc fun _ => v :=
  LaneInstr.traps ⟨fun _ _ => rfl, exec_ret⟩ fun s c t T G h hs hp => by
    obtain ⟨hv, hspill, hodd⟩ := hp
    simp only [bodyRet, M.bind_apply, hs.popReturn hv hspill, checkTarget_odd hodd]

theorem traps_ret_empty : Traps .ret (fun _ _ _ h => h.rs = [] ∧ h.spill = 0) Cause.illegal fun _ => 0 :=
  LaneInstr.traps ⟨fun _ _ => rfl, exec_ret⟩ fun s c t T G h hs hp => by
    simp [bodyRet, Machine.popReturn, hs.stackOf, hp.1, hp.2]

end

end Sys2Proof.Machine

open Sys2Proof Sys2Proof.Machine

/-- Settles O12: pushes and pops of the return stack, with the check of each transfer's target. -/
theorem callsAndReturns : Obligations.CallsAndReturns :=
  ⟨fun _ _ _ _ => ⟨doesTo_call, doesIf_call_not, traps_call_full,
      fun _ _ _ _ _ _ _ _ hs hb hlen hspill hrc ha hin hst => exec_call_spill hs hb hlen hspill hrc ha hin hst,
      fun _ _ _ _ _ _ _ _ _ hs heven hf => exec_jmpi_land hs heven hf,
      fun _ _ _ _ _ _ _ _ _ hs heven hf hh hlen hspill => exec_calli_land hs heven hf hh hlen hspill,
      traps_jmpi_odd, traps_calli_odd, fun _ _ _ _ _ _ _ _ _ _ hs heven hf hw => exec_jmpi_other hs heven hf hw,
      fun _ _ _ _ _ _ _ _ _ _ hs heven hf hw => exec_calli_other hs heven hf hw⟩,
    fun _ _ _ _ _ _ _ _ hs hv hspill heven hcode => exec_ret_of_pop hs (hs.popReturn hv hspill) heven hcode,
    fun _ _ _ _ _ _ _ _ _ hs hc hv hspill heven ha hin hcode =>
      exec_ret_of_pop hs (hs.popReturn_spilled hc hv hspill ha hin) heven hcode,
    traps_ret_odd, traps_ret_empty⟩
end

section
/-!
PROOFS. Who has ended: the settlement of operations, slots, barriers and queues that an end brings about (R110, R113, R115,
R170, R216) ends no other thread, and loses no thread's remote failure.
-/

namespace Sys2Proof.Machine

/-- Whether a thread has ended, and the remote failure that it has still to report. -/
def Thread.fate (h : Thread) : Bool × Option Word64 := (h.ended, h.remoteFail)

/-- The same of thread t of a team, if there is one. -/
def Team.fate (T : Team) (t : Nat) : Option (Bool × Option Word64) := (T.thread? t).map Thread.fate

variable {T : Team} {t : Nat}

theorem Team.fate_modThreads {f : Thread → Thread} (hf : ∀ h, (f h).fate = h.fate) (u : Nat) :
    Team.fate { T with threads := SMap.modify u f T.threads } t = T.fate t := by
  simp only [Team.fate, Team.thread?, SMap.find?_modify]
  split
  · rw [Option.map_map]
    exact congrArg (Option.map · _) (funext hf)
  · rfl

theorem Team.fate_foldl {α : Type} {f : Team → α → Team} (hf : ∀ T x, (f T x).fate t = T.fate t) (l : List α)
    (T : Team) : (l.foldl f T).fate t = T.fate t := by
  induction l generalizing T with
  | nil => rfl
  | cons x l ih => rw [List.foldl_cons, ih, hf]

@[simp] theorem Team.fate_modGroup (T : Team) (g : Nat) (f : Group → Group) : (T.modGroup g f).fate t = T.fate t := rfl
@[simp] theorem Team.fate_setGroup (T : Team) (g : Nat) (G : Group) : (T.setGroup g G).fate t = T.fate t := rfl
@[simp] theorem Team.fate_setNb (T : Team) (k : Nat) (B : Barrier) : (T.setNb k B).fate t = T.fate t := rfl

/-! ### Group operations and slots -/

theorem Thread.fate_setRegs (h : Thread) (d : Nat) (vs : List Word) : (h.setRegs d vs).fate = h.fate := by
  induction vs generalizing h d with
  | nil => rfl
  | cons v vs ih => exact ih _ _

@[simp] theorem Thread.fate_receive (h : Thread) (o : GroupOut) (r : Option Bool) (place : Nat) (via : Option Nat) :
    (h.receive o r place via).fate = h.fate := by
  unfold Thread.receive
  cases o with
  | regs d vs =>
    by_cases hd : isG d = true
    · simp only [hd, if_true]
      cases r <;> exact h.fate_setRegs _ _
    · simp only [hd]
      cases r <;> rfl
  | b => cases r <;> rfl
  | ck => cases r <;> rfl
  | push => cases r <;> rfl

@[simp] theorem Team.fate_receive (T : Team) (g u : Nat) (o : GroupOut) (r : Option Bool) :
    (T.receive g u o r).fate t = T.fate t := by
  unfold Team.receive
  extract_lets plain
  have hplain (o : GroupOut) : (plain o).fate t = T.fate t := Team.fate_modThreads (fun h => by exact Thread.fate_receive _ _ _ _ _) u
  split
  · split
    · exact Team.fate_modThreads (fun h => by exact Thread.fate_receive _ _ _ _ _) u
    · exact hplain _
  · exact hplain _

@[simp] theorem Team.fate_completeOp (T : Team) (g : Nat) (op : GroupOp) : (T.completeOp g op).fate t = T.fate t := by
  refine Team.fate_foldl (fun T m => ?_) _ T
  dsimp only
  split
  · exact Team.fate_modThreads (fun h => by split <;> rfl) _
  · rw [Team.fate_receive]
    exact Team.fate_modThreads (fun _ => by rfl) _

@[simp] theorem Team.fate_settleOps (T : Team) (g : Nat) : (T.settleOps g).fate t = T.fate t := by
  unfold Team.settleOps
  split
  · rw [Team.fate_modGroup]
    exact Team.fate_foldl (fun T op => T.fate_completeOp g op) _ T
  · rfl

@[simp] theorem Team.fate_settleSlot (T : Team) (g k : Nat) : (T.settleSlot g k).fate t = T.fate t := by
  unfold Team.settleSlot
  split
  · split
    · dsimp only
      split
      · rw [Team.fate_modGroup]
        exact Team.fate_foldl (fun T u => Team.fate_modThreads (fun _ => by rfl) u) _ T
      · rfl
    · rfl
  · rfl

/-! ### Barriers and queues -/

theorem SMap.find?_map_value {α : Type} (k : Nat) (f : α → α) (m : SMap α) :
    SMap.find? k (m.map fun e => (e.1, f e.2)) = (SMap.find? k m).map f := by
  induction m with
  | nil => rfl
  | cons e m ih =>
    simp only [List.map_cons, SMap.find?]
    split
    · rfl
    · exact ih

@[simp] theorem Team.fate_waiters {f : Thread → Thread} (hf : ∀ h, (f h).fate = h.fate) (T : Team) (k : Nat)
    (g : Front → Front) : (T.waiters k f g).fate t = T.fate t := by
  have hmap : T.threads.map (fun e => if Wait.onNb k e.2.wait then (e.1, f e.2) else e) =
      T.threads.map fun e => (e.1, if Wait.onNb k e.2.wait then f e.2 else e.2) :=
    List.map_congr_left fun e _ => by split <;> rfl
  simp only [Team.fate, Team.thread?, Team.waiters, hmap]
  rw [SMap.find?_map_value t (fun h => if Wait.onNb k h.wait then f h else h), Option.map_map]
  exact congrArg (Option.map · _) (funext fun h => by dsimp only [Function.comp]; split <;> simp [hf])

@[simp] theorem Team.fate_breakNb (T : Team) (k : Nat) (a : Option Word64) : (T.breakNb k a).fate t = T.fate t :=
  Team.fate_waiters (fun _ => by rfl) _ _ _

@[simp] theorem Team.fate_checkPhase (T : Team) (k : Nat) : (T.checkPhase k).fate t = T.fate t := by
  unfold Team.checkPhase
  dsimp only
  split
  · exact Team.fate_waiters (fun _ => by rfl) _ _ _
  · rfl

@[simp] theorem Team.fate_arrive (T : Team) (k g : Nat) : (T.arrive k g).fate t = T.fate t :=
  (Team.fate_checkPhase _ k).trans (T.fate_setNb k _)

@[simp] theorem Team.fate_exitMarks (T : Team) (g : Nat) : (T.exitMarks g).fate t = T.fate t := by
  refine Team.fate_foldl (fun T k => ?_) _ T
  dsimp only
  split
  · split
    · rw [Team.fate_breakNb]
      rfl
    · rw [Team.fate_arrive]
      rfl
  · rfl

@[simp] theorem Team.fate_breakOwed (T : Team) (g : Nat) : (T.breakOwed g).fate t = T.fate t := by
  refine Team.fate_foldl (fun T k => ?_) _ T
  dsimp only
  split
  · exact T.fate_breakNb k none
  · rfl

@[simp] theorem Team.fate_trimQueue (T : Team) (g : Nat) : (T.trimQueue g).fate t = T.fate t := by
  unfold Team.trimQueue
  split <;> rfl

@[simp] theorem Team.fate_endGroup (T : Team) (g : Nat) : (T.endGroup g).fate t = T.fate t := by
  unfold Team.endGroup
  split
  · rw [Team.fate_breakOwed]
    split <;> rfl
  · rfl

/-! ### The end of a thread -/

/-- What an end makes of the thread itself: no trap of it waits, nor any result on its way (R110). -/
def Thread.finish (h : Thread) : Thread := { h with ended := true, wait := none, places := [], trap := none, pend := [] }

/-- The thread that ends has ended, and keeps the failure that it has to report. -/
theorem Team.fate_endThread (T : Team) (t : Nat) :
    (T.endThread t).fate t = (T.thread? t).map fun h => (true, h.remoteFail) := by
  have hfinish : Team.fate { T with threads := SMap.modify t Thread.finish T.threads } t =
      (T.thread? t).map fun h => (true, h.remoteFail) := by
    simp only [Team.fate, Team.thread?, SMap.find?_modify, if_true, Option.map_map]
    rfl
  unfold Team.endThread
  extract_lets g finish T₁ T₂ T₃ T₄ T₅
  have h₅ : T₅.fate t = (T.thread? t).map fun h => (true, h.remoteFail) := by
    rw [Team.fate_trimQueue, Team.fate_exitMarks, Team.fate_foldl fun T k => T.fate_settleSlot g k, Team.fate_settleOps]
    exact hfinish
  split
  · rw [Team.fate_endGroup, h₅]
  · exact h₅

theorem Team.endThread_ended {h : Thread} (hh : T.thread? t = some h) :
    ∃ h', (T.endThread t).thread? t = some h' ∧ h'.ended = true ∧ h'.remoteFail = h.remoteFail := by
  have hfate := T.fate_endThread t
  rw [hh, Team.fate] at hfate
  obtain ⟨h', hh', heq⟩ := Option.map_eq_some_iff.mp hfate
  exact ⟨h', hh', congrArg Prod.fst heq, congrArg Prod.snd heq⟩

end Sys2Proof.Machine
end

section
/-!
PROOFS. Sample words (O50), reset and the creation of a group (O53), and the frame of a result equation (O55).
-/

namespace Sys2Proof.Machine

theorem Thread.create_reg (e : Word64) (y n : Nat) : (Thread.create e y).reg n = 0 := rfl

/-- A register written reads as the value. -/
theorem Thread.reg_put_self (h : Thread) (d : BitVec 8) (v : Word) (hg : SMap.sorted h.g = true) :
    (h.put d v).reg d.toNat = v := SMap.getD_put_self d.toNat v 0 hg

theorem Thread.reg_put_other (h : Thread) {d : BitVec 8} (v : Word) {n : Nat} (hn : n ≠ d.toNat) :
    (h.put d v).reg n = h.reg n := SMap.getD_put_other hn v 0 h.g

theorem State.team?_after_other (s : State) (c : Issue) (t : Nat) (f : Thread → Thread) {k : Nat} (hk : k ≠ c.team) :
    (s.after c t f).team? k = s.team? k := by
  simp [State.after, State.modThread, State.team?_modTeam, hk]

theorem State.team?_after_self (s : State) (c : Issue) (t : Nat) (f : Thread → Thread) {T : Team}
    (hT : s.team? c.team = some T) :
    (s.after c t f).team? c.team = some (T.modThread t fun h => (f h).advance c.len) :=
  State.team?_modThread hT _

theorem Team.thread?_modThread_other (T : Team) {t j : Nat} (f : Thread → Thread) (hj : j ≠ t) :
    (T.modThread t f).thread? j = T.thread? j := by simp [Team.modThread, Team.thread?, SMap.find?_modify, hj]

end Sys2Proof.Machine

open Sys2Proof Sys2Proof.Machine

/-- Settles O50: each word is decoded by evaluation. -/
theorem sampleWords : Obligations.SampleWords := by
  unfold Obligations.SampleWords
  refine ⟨?_, ?_, ?_, ?_, ?_, ?_, ?_, ?_, ?_, ?_, ?_, ?_, ?_, ?_, ?_, ?_, ?_, ?_, ?_, ?_, ?_, ?_, ?_⟩ <;> rfl

/-- Settles O53, by the values that reset and creation write down. -/
theorem resetAndCreation : Obligations.ResetAndCreation := by
  refine ⟨⟨memWf_nil, rfl, fun _ => rfl, rfl, rfl, rfl, ?_⟩, fun e y => ?_⟩
  · refine ⟨?_, ?_, ?_, ?_, ?_, ?_, ?_⟩ <;> rfl
  · exact ⟨Thread.create_reg e y, rfl, fun _ => rfl, rfl, rfl, rfl, rfl, rfl, rfl, rfl, rfl⟩

/-- Settles O55: a result equation changes one thread, and a write one register. -/
theorem frameOfResults : Obligations.FrameOfResults := by
  refine ⟨fun s c t f => ?_, fun h d v hg => ?_⟩
  · refine ⟨fun _ => rfl, rfl, rfl, rfl, rfl, rfl, fun k hk => s.team?_after_other c t f hk, fun T hT => ?_⟩
    refine ⟨_, s.team?_after_self c t f hT, rfl, rfl, rfl, rfl, rfl, rfl, rfl, rfl, rfl, fun j hj => ?_, ?_⟩
    · exact T.thread?_modThread_other _ hj
    · simp [Team.modThread, Team.thread?, SMap.find?_modify]
  · exact ⟨h.reg_put_self d v hg, fun n hn => h.reg_put_other v hn, rfl, rfl, rfl, rfl, rfl, rfl, rfl, rfl, rfl, rfl, rfl⟩
end

section
/-!
PROOFS. The checks before an effect, in their order (O60).
-/

namespace Sys2Proof.Machine

/-- Every instruction of a program is one issue. -/
theorem exec_issue_of_not_step {i : Instr} (hi : isStep i = false) (s : State) :
    ∃ onPage body, exec i s = issueWith i onPage body s := by
  have h : (∃ onPage body, exec i s = issueWith i onPage body s) ∨ isStep i = true := by
    cases i
    all_goals first | exact .inl ⟨_, _, rfl⟩ | exact .inr rfl
  exact h.resolve_right (by simp [hi])

variable {s : State} {i : Instr} {c : Issue} {t : Nat} {T : Team} {G : Group} {h : Thread} {cause : BitVec 8}

theorem At.pend (hs : At s c t T G h) : pendOf (c.lane t) s = .ok (h.pend, s) := by
  simp [pendOf, hs.getThread]

/-- A check that fails before the effect stops the instruction, whatever its effect is. -/
theorem At.stopped_by_checks (hs : At s c t T G h) (hi : isStep i = false)
    (hd : decodeChecks (c.lane t) i s = .error (.trap cause 0)) : exec i s = .next (s.trapped c i t cause 0 none) := by
  obtain ⟨onPage, body, he⟩ := exec_issue_of_not_step hi s
  have hl : c.lanes = [c.lane t] := by simp [Issue.lanes, hs.lanes.1, hs.lanes.2]
  rw [he]
  simp [issueWith, hs.cur, hl, stepLane, hs.present, hs.notDue, perform, prepare, hd, afterLane, State.trapped]

/-- The checks of one thread as the conditions that they are (R75). -/
theorem At.decodeChecks_eq (hs : At s c t T G h) : decodeChecks (c.lane t) i s =
    if i.threadOk = false then .error (.trap Cause.illegal 0)
    else if regsOk T (c.lane t) i = false ∨ i.sregOk false = false then .error (.trap Cause.illegalRegister 0)
    else if i.unimplemented = true then .error (.trap Cause.unimplemented 0)
    else if i.privileged = true ∧ (s.ctx T.ctx).privileged = false then .error (.trap Cause.privileged 0)
    else if i.exempt = false ∧ (conflicts T (c.lane t) i h.pend || s.coordConflict (c.lane t) i h.pend) = true then
      .error (.trap Cause.lookahead 0)
    else .ok ((), s) := by
  simp only [decodeChecks, M.bind_apply, M.get_apply, hs.getTeam]
  cases i.threadOk
  · simp
  cases regsOk T (c.lane t) i
  · simp
  cases i.sregOk false
  · simp
  cases i.unimplemented
  · cases hcf : conflicts T (c.lane t) i h.pend <;> cases hcc : s.coordConflict (c.lane t) i h.pend <;>
      cases i.privileged <;> cases (s.ctx T.ctx).privileged <;> cases i.exempt <;> simp [hs.pend, check_apply, hcf, hcc]
  · simp

/-- R74: an encoding that a TM-940 does not implement traps, whatever its registers hold. -/
theorem traps_unimplemented (hi : isStep i = false) (hok : i.threadOk = true) (hsr : i.sregOk false = true)
    (hun : i.unimplemented = true) : Traps i (fun _ _ _ _ => True) Cause.unimplemented fun _ => 0 :=
  fun s c t T G h hs _ => hs.stopped_by_checks hi (by
    have hregs : regsOk T (c.lane t) i = true := hs.regs
    simp [hs.decodeChecks_eq, hok, hregs, hsr, hun])

end Sys2Proof.Machine

open Sys2Proof Sys2Proof.Machine

/-- Settles O60: the checks are one chain of conditions, whose first failure is the trap. -/
theorem checksBeforeEffects : Obligations.ChecksBeforeEffects := by
  refine ⟨fun i s c t T G h hi hs => ?_, fun d a b => ?_⟩
  · have hd := hs.decodeChecks_eq (i := i)
    refine ⟨fun h1 => ?_, fun h1 h2 => ?_, ?_, ?_, ?_⟩
    · exact hs.stopped_by_checks hi (by simp [hd, h1])
    · exact hs.stopped_by_checks hi (by simp [hd, h1, h2])
    · rintro ⟨h1, h2, h3⟩ h4
      exact hs.stopped_by_checks hi (by simp [hd, h1, h2, h3, h4])
    · rintro ⟨h1, h2, h3⟩ h4 h5 h6
      exact hs.stopped_by_checks hi (by simp [hd, h1, h2, h3, h4, h5, h6])
    · rintro ⟨h1, h2, h3⟩ h4 h5 h6 h7
      have h5' : ¬ (i.privileged = true ∧ (s.ctx T.ctx).privileged = false) := fun ⟨hp, hn⟩ => by simp [h5 hp] at hn
      exact hs.stopped_by_checks hi (by simp only [hd, h1, h2, h3, h4, h5', h6, h7]; simp)
  · exact ⟨traps_unimplemented rfl rfl rfl rfl, traps_unimplemented rfl rfl rfl rfl, traps_unimplemented rfl rfl rfl rfl,
      traps_unimplemented rfl rfl rfl rfl⟩
end

section
/-!
PROOFS. An issue to the front thread (R212, R213), and the fields and forms of front code (O58).
-/

namespace Sys2Proof.Machine

variable {s s' : State} {i : Instr} {c : Issue} {T : Team} {x : Front} {cause : BitVec 8}

/-- The lane of an issue to the front thread. -/
abbrev Issue.frontLane (c : Issue) : Lane := ⟨c.team, .front⟩

/-! ### What comes before the effect -/

theorem FrontSolo.getTeam (hs : FrontSolo s i c T x) : Machine.getTeam c.team s = .ok (T, s) := getTeam_apply hs.team
theorem FrontSolo.getFront (hs : FrontSolo s i c T x) : Machine.getFront c.team s = .ok (x, s) :=
  getFront_apply hs.team hs.front
theorem FrontSolo.pend (hs : FrontSolo s i c T x) : pendOf c.frontLane s = .ok ([], s) := by
  simp [pendOf, hs.getFront, hs.quiet]

/-- R27: front code names f registers only. -/
theorem FrontSolo.code_lt (hs : FrontSolo s i c T x) {f : Fld} (hf : f ∈ i.flds) : regCode f.code = .g f.code.toNat := by
  have hr : i.flds.all fldOkFront = true := hs.regs
  have hf' := List.all_eq_true.mp hr f hf
  simp only [fldOkFront, Bool.and_eq_true, decide_eq_true_eq] at hf'
  exact regCode_g (by omega)

theorem FrontSolo.noReads (hs : FrontSolo s i c T x) : portReads i = [] := by
  unfold portReads
  rw [List.filterMap_eq_nil_iff]
  intro f hf
  rw [hs.code_lt hf]
  cases f.use <;> rfl

theorem FrontSolo.noWrites (hs : FrontSolo s i c T x) : portWrites i = [] := by
  unfold portWrites
  rw [List.filterMap_eq_nil_iff]
  intro f hf
  rw [hs.code_lt hf]
  cases f.use <;> rfl

theorem FrontSolo.noPush (hs : FrontSolo s i c T x) : pushesWindow T i = false := by
  unfold pushesWindow
  rw [List.any_eq_false]
  intro f hf
  simp [hs.code_lt hf]

theorem FrontSolo.present (hs : FrontSolo s i c T x) : s.lanePresent c.frontLane = true := by
  obtain ⟨hstatus, hdying⟩ := hs.runs
  obtain h | h := hstatus <;> simp [State.lanePresent, State.running, hs.team, hs.front, hs.live, h, hdying]

/-- What an instruction's kind allows in front code: an instruction of front code, special registers it may name,
implemented, and the context's privilege where it needs one (R75). -/
def frontKindOk (s : State) (T : Team) (i : Instr) : Bool :=
  i.frontOk && i.sregOk true && !i.unimplemented && (!i.privileged || (s.ctx T.ctx).privileged)

theorem FrontSolo.checks (hs : FrontSolo s i c T x) (hk : frontKindOk s T i = true) :
    decodeChecks c.frontLane i s = .ok ((), s) := by
  simp only [frontKindOk, Bool.and_eq_true] at hk
  obtain ⟨⟨⟨h1, h2⟩, h3⟩, h4⟩ := hk
  simp [decodeChecks, hs.getTeam, hs.pend, hs.regs, h1, h2, h3, h4, conflicts, State.coordConflict]

theorem FrontSolo.prepared (hs : FrontSolo s i c T x) (hk : frontKindOk s T i = true) :
    prepare c.frontLane i s = .ok ((), s) := by
  have hd (all : Bool) : deliver c.frontLane all s = .ok ((), s) := by simp [deliver, hs.pend]
  have hm : mayPause c.frontLane i s = .ok (false, s) := by
    simp [mayPause, hs.pend, hs.getTeam, hs.noPush, hs.noReads]
  simp [prepare, hs.checks hk, hd, hm]

theorem FrontSolo.perform (hs : FrontSolo s i c T x) (hk : frontKindOk s T i = true) (len : Nat) (body : Lane → M Next) :
    perform i len body c.frontLane s = (body c.frontLane >>= complete c.frontLane len) s := by
  unfold Machine.perform
  simp only [M.bind_apply, hs.prepared hk, keepElements_none ⟨hs.noReads, hs.noWrites⟩]

/-! ### How an issue to the front thread ends -/

/-- The front thread past an effect that leaves `next` as its PC. -/
def Front.past (x : Front) (len : Nat) (next : Next) : Front :=
  match next with
  | some pc => { x.advance len with pc := pc }
  | none => x.advance len

theorem complete_front (k len : Nat) (next : Next) (s : State) :
    complete ⟨k, .front⟩ len next s = .ok ((), s.modFront k (·.past len next)) := by
  cases next <;> rfl

theorem FrontSolo.issueWith_eq (hs : FrontSolo s i c T x) (hk : frontKindOk s T i = true)
    (onPage : Lane → Word64 → BitVec 8 → State → State) (body : Lane → M Next) :
    issueWith i onPage body s =
      .next (afterLane c i onPage c.frontLane s ((body c.frontLane >>= complete c.frontLane c.len) s)) := by
  have hl : c.lanes = [c.frontLane] := by simp [Issue.lanes, hs.lanes]
  simp only [issueWith, hs.cur, hl, stepLane, hs.present, State.watchdogDue, hs.perform hk, Bool.not_true,
    Bool.false_eq_true, if_false]

/-- An effect that comes about completes. -/
theorem issueWith_front {onPage : Lane → Word64 → BitVec 8 → State → State} {body : Lane → M Next} {next : Next}
    (hs : FrontSolo s i c T x) (hk : frontKindOk s T i = true) (hb : body c.frontLane s = .ok (next, s')) :
    issueWith i onPage body s = .next (s'.modFront c.team (·.past c.len next)) := by
  simp [hs.issueWith_eq hk, hb, complete_front, afterLane]

/-- A step that is over with the effect. -/
theorem issueWith_front_done {onPage : Lane → Word64 → BitVec 8 → State → State} {body : Lane → M Next}
    (hs : FrontSolo s i c T x) (hk : frontKindOk s T i = true) (hb : body c.frontLane s = .error (.done s')) :
    issueWith i onPage body s = .next s' := by
  simp [hs.issueWith_eq hk, hb, afterLane, State.endIfCancelled]

/-- An effect that waits. -/
theorem issueWith_front_retry {onPage : Lane → Word64 → BitVec 8 → State → State} {body : Lane → M Next}
    (hs : FrontSolo s i c T x) (hk : frontKindOk s T i = true) (hb : body c.frontLane s = .error .retry) :
    issueWith i onPage body s = .next (s.markWait c.frontLane) := by
  simp [hs.issueWith_eq hk, hb, afterLane, State.endIfCancelled]

/-- R214: a trap of the front thread, also one of the checks before an effect, ends its team. -/
theorem FrontSolo.stopped_by_checks (hs : FrontSolo s i c T x) (hi : isStep i = false) (hcause : cause ≠ Cause.uncorrectable)
    (hd : decodeChecks c.frontLane i s = .error (.trap cause 0)) :
    exec i s = .next (s.endByFault c.team .front cause c.word x.pc 0) := by
  obtain ⟨onPage, body, he⟩ := exec_issue_of_not_step hi s
  have hl : c.lanes = [c.frontLane] := by simp [Issue.lanes, hs.lanes]
  rw [he]
  simp [issueWith, hs.cur, hl, stepLane, hs.present, State.watchdogDue, Machine.perform, prepare, hd, afterLane,
    State.trapLane, State.endIfCancelled, hs.team, hs.front, hcause, Issue.tinst]

/-! ### Operands of front code -/

/-- A 32-bit value of front code is the low half of its register (R212). -/
def Front.low (x : Front) (r : BitVec 8) : Word := (x.reg r.toNat).setWidth 32

theorem FrontSolo.rd (hs : FrontSolo s i c T x) (r : BitVec 8) : rd c.frontLane r s = .ok (x.low r, s) := by
  simp [Machine.rd, hs.getFront, Front.low]
theorem FrontSolo.rd64 (hs : FrontSolo s i c T x) (r : BitVec 8) : rd64 c.frontLane r s = .ok (x.reg r.toNat, s) := by
  simp [Machine.rd64, hs.getFront]
theorem FrontSolo.rdB (hs : FrontSolo s i c T x) (k : BitVec 3) :
    rdB c.frontLane k s = .ok (x.b.getLsbD k.toNat, s) := by
  simp [Machine.rdB, hs.getFront]
theorem wr_front (s : State) (r : BitVec 8) (v : Word) :
    wr c.frontLane r v s = .ok ((), s.modFront c.team (·.setReg r.toNat (v.setWidth 64))) := rfl
theorem wr64_front (s : State) (r : BitVec 8) (v : Word64) :
    wr64 c.frontLane r v s = .ok ((), s.modFront c.team (·.setReg r.toNat v)) := rfl

/-- A change of the front thread depends only on it as it is. -/
theorem State.modFront_congr {f g : Front → Front} (hT : s.team? c.team = some T) (hx : T.front = some x) (e : f x = g x) :
    s.modFront c.team f = s.modFront c.team g := by
  unfold State.modFront State.modTeam
  congr 1
  apply SMap.modify_congr
  intro v hv
  have hv' : v = T := Option.some.inj (hv.symm.trans hT)
  simp [hv', hx, e]

theorem State.modFront_id (s : State) (k : Nat) : (s.modFront k fun x => x) = s := by
  have h (T : Team) : ({ T with front := T.front.map fun x => x } : Team) = T := by
    have hf : (T.front.map fun x => x) = T.front := by cases T.front <;> rfl
    rw [hf]
  unfold State.modFront State.modTeam
  simp only [h, SMap.modify_id]

theorem State.modFront_self (hT : s.team? c.team = some T) (hx : T.front = some x) :
    (s.modFront c.team fun _ => x) = s := by
  rw [← State.modFront_congr (f := fun x => x) hT hx rfl, State.modFront_id]

/-- An instruction of front code: its effect is a performance of one lane. -/
structure FrontInstr (i : Instr) (body : Lane → M Next) : Prop where
  kind : ∀ s T, frontKindOk s T i = true
  exec_eq : ∀ s, exec i s = issue i body s

variable {body : Lane → M Next} {p : State → Team → Front → Prop} {f : State → Team → Front → Front}

/-- A body that changes only the front thread, which goes on. -/
theorem FrontInstr.does (hi : FrontInstr i body)
    (hb : ∀ s c T x, FrontSolo s i c T x → p s T x →
      ∃ g : Front → Front, g x = f s T x ∧ body c.frontLane s = .ok (none, s.modFront c.team g)) : FrontDoes i p f := by
  intro s c T x hs hp
  obtain ⟨g, hg, hb⟩ := hb s c T x hs hp
  rw [hi.exec_eq, issue, issueWith_front hs (hi.kind s T) hb, State.modFront_modFront]
  exact congrArg _ (State.modFront_congr hs.team hs.front (by simp [hg, Front.past]))

theorem FrontInstr.un {d a : BitVec 8} {f : Word → Word} (hi : FrontInstr i (un d a f)) :
    FrontDoes i (fun _ _ _ => True) fun _ _ x => x.setReg d.toNat ((f (x.low a)).setWidth 64) :=
  hi.does fun s c T x hs _ => ⟨(·.setReg d.toNat ((f (x.low a)).setWidth 64)), rfl, by
    simp [Machine.un, seq_apply, hs.rd, wr_front]⟩

theorem FrontInstr.bin {d a b : BitVec 8} {f : Word → Word → Word} (hi : FrontInstr i (bin d a b f)) :
    FrontDoes i (fun _ _ _ => True) fun _ _ x => x.setReg d.toNat ((f (x.low a) (x.low b)).setWidth 64) :=
  hi.does fun s c T x hs _ => ⟨(·.setReg d.toNat ((f (x.low a) (x.low b)).setWidth 64)), rfl, by
    simp [Machine.bin, seq_apply, hs.rd, wr_front]⟩

end Sys2Proof.Machine
end

section
/-!
PROOFS. The forms of front code (O58): its operands are f registers, and what it may not execute ends the team.
-/

namespace Sys2Proof.Machine

variable {s : State} {i : Instr} {c : Issue} {T : Team} {x : Front}

theorem FrontSolo.pcOf (hs : FrontSolo s i c T x) : pcOf c.frontLane s = .ok (x.pc, s) := by
  simp [Machine.pcOf, hs.getFront]

theorem frontDoes_movkl (d : BitVec 8) (k : BitVec 16) : FrontDoes (.movkl d k) (fun _ _ _ => True)
    fun _ _ x => x.setReg d.toNat ((BitVec.ofNat 32 k.toNat).setWidth 64) :=
  FrontInstr.does ⟨fun _ _ => rfl, exec_movkl d k⟩ fun s c T x hs _ =>
    ⟨(·.setReg d.toNat ((BitVec.ofNat 32 k.toNat).setWidth 64)), rfl, by simp [bodyMovkl, seq_apply, wr_front]⟩

theorem frontDoes_iadd64 (d a b : BitVec 8) : FrontDoes (.iadd64 d a b false) (fun _ _ _ => True)
    fun _ _ x => x.setReg d.toNat (x.reg a.toNat + x.reg b.toNat) :=
  FrontInstr.does ⟨fun _ _ => rfl, exec_iadd64 d a b false⟩ fun s c T x hs _ =>
    ⟨(·.setReg d.toNat (x.reg a.toNat + x.reg b.toNat)), rfl, by simp [bodyIadd64, seq_apply, hs.rd64, wr64_front]⟩

theorem frontDoes_sel (c : BitVec 3) (sense : Bool) (d a : BitVec 8) :
    FrontDoes (.sel c sense d a) (fun _ _ x => x.b.getLsbD c.toNat = sense)
      fun _ _ x => x.setReg d.toNat ((x.low a).setWidth 64) :=
  FrontInstr.does ⟨fun _ _ => rfl, exec_sel c sense d a⟩ fun s n T x hs hb =>
    ⟨(·.setReg d.toNat ((x.low a).setWidth 64)), rfl, by
      simp [bodySel, seq_apply, hs.rd, hs.rdB, hb, wr_front]⟩

theorem frontDoes_icmp_eq (e : BitVec 3) (a b : BitVec 8) : FrontDoes (.icmp e 0 false a b) (fun _ _ _ => True)
    fun _ _ x => { x with b := setBit x.b e (x.low a == x.low b) } :=
  FrontInstr.does ⟨fun _ _ => rfl, exec_icmp e 0 false a b⟩ fun s n T x hs _ =>
    ⟨fun y => { y with b := setBit y.b e (x.low a == x.low b) }, rfl, by
      simp [bodyIcmp, seq_apply, hs.rd, setCond, hs.rdB, intCond, wrB]⟩

theorem frontDoes_bra_not (c : BitVec 3) (sense : Bool) (o : BitVec 21) :
    FrontDoes (.bra c sense o) (fun _ _ x => x.b.getLsbD c.toNat ≠ sense) fun _ _ x => x :=
  FrontInstr.does ⟨fun _ _ => rfl, exec_bra c sense o⟩ fun s n T x hs hb => by
    refine ⟨fun _ => x, rfl, ?_⟩
    rw [State.modFront_self hs.team hs.front]
    simp [bodyBra, hs.pcOf, hs.rdB, hb]

theorem exec_bra_front {c : BitVec 3} {sense : Bool} {o : BitVec 21} {n : Issue} (hs : FrontSolo s (.bra c sense o) n T x)
    (hb : x.b.getLsbD c.toNat = sense) : exec (.bra c sense o) s = .next (s.modFront n.team fun x =>
      { x.advance n.len with pc := x.pc + BitVec.ofInt 64 (2 * o.toInt) }) := by
  have hbody : bodyBra c sense o n.frontLane s = .ok (some (branchTarget x.pc o), s) := by
    simp [bodyBra, hs.pcOf, hs.rdB, hb, Machine.goTo]
  rw [exec_bra, execBra, issue, issueWith_front hs rfl hbody]
  exact congrArg _ (State.modFront_congr hs.team hs.front (by simp [Front.past, branchTarget_eq]))

/-- R212: an instruction that front code may not execute. -/
theorem exec_front_illegal (hi : isStep i = false) (hf : i.frontOk = false) (hs : FrontSolo s i c T x) :
    exec i s = .next (s.endByFault c.team .front Cause.illegal c.word x.pc 0) :=
  hs.stopped_by_checks hi (by decide) (by simp [decodeChecks, hs.getTeam, hf])

end Sys2Proof.Machine

open Sys2Proof Sys2Proof.Machine

/-- Settles O58: the forms of one, two and no register operands, pairs, selection, comparison and branches. -/
theorem frontForms : Obligations.FrontForms := by
  intro d a b e c sense o i k
  refine ⟨?_, ?_, ?_, ?_, ?_, frontDoes_movkl d k, frontDoes_iadd64 d a b, frontDoes_sel c sense d a,
    frontDoes_icmp_eq e a b, frontDoes_bra_not c sense o, fun _ _ _ _ hs hb => exec_bra_front hs hb,
    fun _ _ _ _ _ hs hi hf => exec_front_illegal hi hf hs⟩
  · exact FrontInstr.un (f := id) ⟨fun _ _ => rfl, exec_mov d a⟩
  · exact FrontInstr.bin (f := (· + ·)) ⟨fun _ _ => rfl, exec_iadd d a b⟩
  · exact FrontInstr.bin (f := (· - ·)) ⟨fun _ _ => rfl, exec_isub d a b⟩
  · exact FrontInstr.bin (f := (· &&& ·)) ⟨fun _ _ => rfl, exec_and d a b⟩
  · exact FrontInstr.un (f := (· + i.signExtend 32)) ⟨fun _ _ => rfl, exec_iaddi d a i⟩
end

section
/-!
PROOFS. The end of a thread and of the front thread, and YLD (O13).
-/

namespace Sys2Proof.Machine

variable {s : State} {i : Instr} {c : Issue} {t : Nat} {T : Team} {G : Group} {h : Thread}

/-- A change of one team depends only on the team as it is. -/
theorem State.modTeam_congr {k : Nat} {f g : Team → Team} (hT : s.team? k = some T) (e : f T = g T) :
    s.modTeam k f = s.modTeam k g := by
  unfold State.modTeam
  congr 1
  apply SMap.modify_congr
  intro v hv
  rw [show v = T from Option.some.inj (hv.symm.trans hT), e]

/-- R133: a thread outside a chain has no window register to settle. -/
theorem Team.exitThread_of_no_chain (hc : T.chain = none) (t : Nat) : T.exitThread t 0 = T.endThread t := by
  have hsettle : T.settle t 8 0 = (T, none) := by
    unfold Team.settle
    simp [hc]
  simp [Team.exitThread, hsettle]

theorem State.endIfCancelled_of_ended (hT : s.team? c.team = some T) (hh : T.thread? t = some h) (he : h.ended = true) :
    s.endIfCancelled (c.lane t) = s := by
  unfold State.endIfCancelled
  simp only [hT, hh]
  cases T.group? (T.groupIx t) <;> simp [he]

theorem State.endIfCancelled_of_running (hT : s.team? c.team = some T) (hh : T.thread? t = some h)
    (hG : T.group? (T.groupIx t) = some G) (hw : h.wait = none) (hc : G.cancelled = false ∨ h.trap = none) :
    s.endIfCancelled (c.lane t) = s := by
  unfold State.endIfCancelled
  obtain hc | hc := hc <;> simp [hT, hh, hG, hw, hc]

/-- A thread outside a chain that has no failure to report ends, and its issue counts (R110, R122). -/
theorem At.exitLane (hs : At s c t T G h) (hc : T.chain = none) (hf : h.remoteFail = none) :
    let s' := (s.modThread c.team t fun h => { h with count := h.count + 1 }).modTeam c.team (·.endThread t)
    exitLane (c.lane t) s = .error (.done s') ∧ s'.endIfCancelled (c.lane t) = s' := by
  intro s'
  let T₁ := T.modThread t fun h => { h with count := h.count + 1 }
  have hc₁ : T₁.chain = none := hc
  have hT₁ : (s.modThread c.team t fun h => { h with count := h.count + 1 }).team? c.team = some T₁ :=
    State.team?_modThread hs.team _
  have hh₁ : T₁.thread? t = some { h with count := h.count + 1 } := Team.thread?_modThread hs.thread _
  obtain ⟨h', hh', hended, hfail⟩ := Team.endThread_ended hh₁
  have hexit : (s.modThread c.team t fun h => { h with count := h.count + 1 }).modTeam c.team (·.exitThread t 0) = s' :=
    State.modTeam_congr hT₁ (Team.exitThread_of_no_chain hc₁ t)
  have hT' : s'.team? c.team = some (T₁.endThread t) := by simp [s', State.team?_modTeam, hT₁]
  have hreport : s'.reportLost c.team (.thread t) = s' := by
    simp [State.reportLost, hT', hh', hended, hfail, hf]
  refine ⟨?_, State.endIfCancelled_of_ended hT' hh' hended⟩
  simp only [Machine.exitLane, M.bind_apply, modThread_apply, modTeam_apply, hexit, M.modify_apply, hreport,
    getThread_apply hT' hh', hended, if_true, endHere_apply]

theorem exec_exit_of_no_chain (hs : Solo s .exit c t T G h) (hc : T.chain = none) (hf : h.remoteFail = none) :
    exec .exit s = .next ((s.modThread c.team t fun h => { h with count := h.count + 1 }).modTeam c.team
      (·.endThread t)) := by
  obtain ⟨hbody, hend⟩ := hs.exitLane hc hf
  rw [exec_exit, execExit, bodyExit, issue, issueWith_solo_done hs rfl hbody, hend]

theorem exec_succExit_of_no_chain (hs : Solo s .succExit c t T G h) (hc : T.chain = none) (hf : h.remoteFail = none) :
    exec .succExit s = .next ((s.modThread c.team t fun h => { h with count := h.count + 1 }).modTeam c.team
      (·.endThread t)) := by
  obtain ⟨hbody, hend⟩ := hs.exitLane hc hf
  rw [exec_succExit, execSuccExit, bodySuccExit, issue, issueWith_solo_done hs rfl hbody, hend]

/-- R215: the front thread's EXIT. -/
theorem exec_exit_front {f : Front} (hs : FrontSolo s .exit c T f) (hf : f.remoteFail = none) :
    exec .exit s = .next (s.modFront c.team fun f => { f with ended := true, wait := none }) := by
  let s' := s.modFront c.team fun f => { f with ended := true, wait := none }
  have hT' : s'.team? c.team = some { T with front := some { f with ended := true, wait := none } } := by
    simp [s', State.modFront, State.team?_modTeam, hs.team, hs.front]
  have hreport : s'.reportLost c.team .front = s' := by simp [State.reportLost, hT', hf]
  have hbody : exitLane c.frontLane s = .error (.done s') := by
    simp only [Machine.exitLane, M.bind_apply, modFront_apply, M.modify_apply]
    exact congrArg (fun u => Except.error (Stop.done u)) hreport
  rw [exec_exit, execExit, bodyExit, issue, issueWith_front_done hs rfl hbody]

/-- The thread after YLD (R69, R121, R122, R288). -/
def Thread.yielded (h : Thread) (limit n : Nat) (park : Bool) : Thread :=
  { h.advance 4 with count := 0, limit := limit, parked := park, g := h.g.filter fun e => decide (e.1 < 16 * n) }

theorem exec_yld_thread {dl n : BitVec 4} {L : Launch} (hs : Solo s (.yld dl n) c t T G h)
    (hL : SMap.find? T.launch s.launches = some L) (hc : G.cancelled = false ∨ h.trap = none) :
    exec (.yld dl n) s = .next (s.modThread c.team t
      (·.yielded (64 * 2 ^ min dl.toNat L.record.y) n.toNat (T.status == .resting))) := by
  let f (h : Thread) : Thread := h.yielded (64 * 2 ^ min dl.toNat L.record.y) n.toNat (T.status == .resting)
  have hbody : bodyYld dl n (c.lane t) s = .error (.done (s.modThread c.team t f)) := by
    simp only [bodyYld, M.bind_apply, hs.getTeam, M.get_apply, hL, modThread_apply, endHere_apply]
    rfl
  rw [exec_yld, execYld, issue, issueWith_solo_done hs rfl hbody,
    State.endIfCancelled_of_running (State.team?_modThread hs.team f) (Team.thread?_modThread hs.thread f) hs.group rfl hc]

end Sys2Proof.Machine

open Sys2Proof Sys2Proof.Machine

/-- Settles O13: what an exit leaves of its thread is `Team.endThread`, and YLD changes its own thread only. -/
theorem exitsAndYield : Obligations.ExitsAndYield := by
  refine ⟨fun s c => ⟨fun t T G h => ⟨exec_exit_of_no_chain, exec_succExit_of_no_chain, fun hh => ?_⟩,
    fun T f => exec_exit_front⟩, fun dl n s c t T G h L hs hL hc => exec_yld_thread hs hL hc⟩
  obtain ⟨h', hh', hended, -⟩ := Team.endThread_ended hh
  exact ⟨h', hh', hended⟩
end

section
/-!
PROOFS. The entry of a trap handler and the return from it (O16).
-/

namespace Sys2Proof.Machine

variable {s s₂ : State} {i : Instr} {c : Issue} {t : Nat} {T : Team} {G : Group} {h : Thread}

/-- Where RTT resumes: the saved address in the PC's upper half (R124). -/
def Thread.resumeAt (h : Thread) : Word64 := h.pc.extractLsb' 32 32 ++ h.tpc

theorem Thread.resumeAt_getLsbD_zero (h : Thread) : h.resumeAt.getLsbD 0 = h.tpc.getLsbD 0 := by
  unfold Thread.resumeAt
  rw [BitVec.getLsbD_append, if_pos (by decide)]

/-- The thread with its frame's valid bit cleared. -/
def Thread.leaveHandler (h : Thread) : Thread := { h with tcause := h.tcause &&& 0xFF }

theorem At.rttThread (hs : At s c t T G h) (hv : h.tcause.getLsbD 8 = true) :
    rttThread c.team t s = .ok (h.resumeAt, s.modThread c.team t Thread.leaveHandler) := by
  simp only [Machine.rttThread, M.bind_apply, hs.getThread, check_apply, hv, if_true, modThread_apply, M.pure_apply]
  rfl

theorem At.rttThread_invalid (hs : At s c t T G h) (hv : h.tcause.getLsbD 8 = false) :
    Machine.rttThread c.team t s = .error (.trap Cause.illegal 0) := by
  simp only [Machine.rttThread, M.bind_apply, hs.getThread, check_apply, hv, Bool.false_eq_true, if_false]

/-- R124: the target can be fetched. -/
theorem At.rttGo_even (hs : At s c t T G h) (hv : h.tcause.getLsbD 8 = true) (heven : h.tpc.getLsbD 0 = false)
    (hcode : checkCode c.team h.resumeAt (s.modThread c.team t Thread.leaveHandler) = .ok ((), s₂)) :
    rttGo (c.lane t) i s = .ok (some h.resumeAt, s₂) := by
  have heven' : h.resumeAt.getLsbD 0 = false := h.resumeAt_getLsbD_zero.trans heven
  simp only [rttGo, M.bind_apply, theThread_lane, M.pure_apply, hs.rttThread hv, checkTarget_even heven', hcode]

/-- R75, R124: an odd target traps in the state in which the frame is valid no more. -/
theorem At.rttGo_odd (hs : At s c t T G h) (hv : h.tcause.getLsbD 8 = true) (hodd : h.tpc.getLsbD 0 = true) :
    rttGo (c.lane t) i s = .error (.done ((s.modThread c.team t Thread.leaveHandler).trapLane c (some i) (c.lane t)
      Cause.misalignedPc h.resumeAt (some h.resumeAt))) := by
  have hodd' : h.resumeAt.getLsbD 0 = true := h.resumeAt_getLsbD_zero.trans hodd
  simp only [rttGo, M.bind_apply, theThread_lane, M.pure_apply, hs.rttThread hv, checkTarget_odd hodd',
    State.modThread_cur, hs.cur]

/-- RTT, and a successor word that ends as RTT does. -/
def ReturnsFromHandler (i : Instr) : Prop := LaneInstr i fun ln => rttGo ln i

theorem returnsFromHandler_of_mem (hi : i = .rtt ∨ i = .succRtt) : ReturnsFromHandler i := by
  obtain rfl | rfl := hi
  · exact ⟨fun _ _ => rfl, exec_rtt⟩
  · exact ⟨fun _ _ => rfl, exec_succRtt⟩

theorem ReturnsFromHandler.exec_even (hi : ReturnsFromHandler i) (hs : Solo s i c t T G h) (hv : h.tcause.getLsbD 8 = true)
    (heven : h.tpc.getLsbD 0 = false)
    (hcode : checkCode c.team h.resumeAt (s.modThread c.team t Thread.leaveHandler) = .ok ((), s₂)) :
    exec i s = .next (s₂.modThread c.team t (·.goTo c.len h.resumeAt)) :=
  LaneInstr.goes hi hs (hs.rttGo_even hv heven hcode)

theorem ReturnsFromHandler.exec_odd (hi : ReturnsFromHandler i) (hs : Solo s i c t T G h) (hv : h.tcause.getLsbD 8 = true)
    (hodd : h.tpc.getLsbD 0 = true) :
    exec i s = .next ((s.modThread c.team t Thread.leaveHandler).trapped c i t Cause.misalignedPc h.resumeAt
      (some h.resumeAt)) := by
  rw [LaneInstr.exec_eq hi, issue, issueWith_solo_done hs (LaneInstr.kind hi s T) (hs.rttGo_odd hv hodd)]
  rfl

theorem ReturnsFromHandler.traps_invalid (hi : ReturnsFromHandler i) :
    Traps i (fun _ _ _ h => h.tcause.getLsbD 8 = false) Cause.illegal fun _ => 0 :=
  LaneInstr.traps hi fun s c t T G h hs hv => by
    simp only [rttGo, M.bind_apply, theThread_lane, M.pure_apply, hs.rttThread_invalid hv]

end Sys2Proof.Machine

open Sys2Proof Sys2Proof.Machine

/-- Settles O16: the entry of a handler as `State.trapLane_of_enters` gives it, and the three outcomes of a return. -/
theorem trapEntryAndReturn : Obligations.TrapEntryAndReturn := by
  refine ⟨fun s c i t T G h cause addr tpc hT hh hG hpend _ _ hnever hvalid hframes hhandler => ?_, fun i hi => ?_⟩
  · have he : Enters s c.team t T G h cause := ⟨hT, hh, hG, hpend, hnever, hvalid, hframes, hhandler⟩
    rw [State.trapLane_of_enters (some i) tpc he]
    exact State.modThread_congr hT hh rfl
  · have hr := returnsFromHandler_of_mem hi
    exact ⟨fun s c t T G h hs hv => ⟨fun s₂ heven hcode => hr.exec_even hs hv heven hcode,
      fun hodd => hr.exec_odd hs hv hodd⟩, hr.traps_invalid⟩
end

section
/-!
PROOFS. Instructions that write one register with a value of registers read in order, whatever their fields name, and the
lanes of a bundle (O59).
-/

namespace Sys2Proof.Machine

variable {s s₀ s₁ s₂ : State} {i : Instr} {c : Issue} {k t : Nat} {T : Team} {G : Group} {h : Thread}
  {as : List (BitVec 8)} {d : BitVec 8} {f : List Word → Word} {vs : List Word}

/-! ### A lane that is ready -/

/-- Thread t of team k issues instruction `i`, alone or with others: it is there, below its watchdog limit, with no result
pending, and may name the registers that `i` names. -/
structure LaneReady (s : State) (i : Instr) (k t : Nat) (T : Team) (G : Group) (h : Thread) : Prop where
  team : s.team? k = some T
  runs : (T.status = .resident ∨ T.status = .resting) ∧ T.dying = false
  thread : T.thread? t = some h
  group : T.group? (T.groupIx t) = some G
  live : h.ended = false
  below : h.count < h.limit
  quiet : h.pend = []
  regs : regsOk T ⟨k, .thread t⟩ i = true

theorem Sole.ready (hs : Sole s i c t T G h) : LaneReady s i c.team t T G h :=
  ⟨hs.team, hs.runs, hs.thread, hs.group, hs.live, hs.below, hs.quiet, hs.regs⟩

theorem LaneReady.running (hs : LaneReady s i k t T G h) : s.running k = true := by
  obtain ⟨hstatus | hstatus, hdying⟩ := hs.runs <;> simp [State.running, hs.team, hstatus, hdying]

theorem LaneReady.present (hs : LaneReady s i k t T G h) : s.lanePresent ⟨k, .thread t⟩ = true := by
  simp [State.lanePresent, hs.running, State.thread?, hs.team, hs.thread, hs.live]

theorem LaneReady.notDue (hs : LaneReady s i k t T G h) : s.watchdogDue ⟨k, .thread t⟩ = false := by
  have := hs.below
  simp [State.watchdogDue, State.thread?, hs.team, hs.thread]
  omega

theorem LaneReady.notStopped (hs : LaneReady s i k t T G h) : s.stopped k = false := by
  obtain ⟨hstatus | hstatus, hdying⟩ := hs.runs <;> simp [State.stopped, hs.team, hstatus, hdying]

theorem LaneReady.getThread (hs : LaneReady s i k t T G h) : Machine.getThread k t s = .ok (h, s) :=
  getThread_apply hs.team hs.thread

theorem LaneReady.pend (hs : LaneReady s i k t T G h) : pendOf ⟨k, .thread t⟩ s = .ok ([], s) := by
  simp [pendOf, hs.getThread, hs.quiet]

theorem LaneReady.checks (hs : LaneReady s i k t T G h) (hk : kindOk s T i = true) :
    decodeChecks ⟨k, .thread t⟩ i s = .ok ((), s) := by
  simp only [kindOk, Bool.and_eq_true] at hk
  obtain ⟨⟨⟨h1, h2⟩, h3⟩, h4⟩ := hk
  simp [decodeChecks, getTeam_apply hs.team, hs.pend, hs.regs, h1, h2, h3, h4, conflicts, State.coordConflict]

/-- An instruction that names no mask and no barrier: nothing is checked of one before its waits. -/
structure NoFirst (i : Instr) : Prop where
  mask : maskStart i = none
  barrier : ∀ l, barrierFirst l i = pure ()

theorem NoFirst.maskFirst (hi : NoFirst i) (l : Lane) : maskFirst l i = pure () := by
  unfold Machine.maskFirst
  rw [hi.mask]
  cases l.who <;> cases i <;> rfl

/-- What comes before the effect of a lane that is not to push into a window takes its stream elements and no more. -/
theorem LaneReady.prepare_eq (hs : LaneReady s i k t T G h) (hi : NoFirst i) (hk : kindOk s T i = true)
    (hpush : pushesWindow T i = false) (hw : Wait.operandsTaken h.wait = false) :
    prepare ⟨k, .thread t⟩ i s =
      (if s.windowStops ⟨k, .thread t⟩ i then unkept (takes k t i) else takes k t i) s := by
  have hd (all : Bool) : deliver ⟨k, .thread t⟩ all s = .ok ((), s) := by simp [deliver, hs.pend]
  have hm : mayPause ⟨k, .thread t⟩ i s = .ok (!(portReads i).isEmpty, s) := by
    simp [mayPause, hs.pend, getTeam_apply hs.team, hpush]
  have hr : releaseFirst ⟨k, .thread t⟩ i s = .ok ((), s) := by
    simp [releaseFirst, getTeam_apply hs.team, hpush]
  simp only [prepare, M.bind_apply, hs.checks hk, hm, hi.maskFirst, takes]
  cases hstop : s.windowStops ⟨k, .thread t⟩ i <;> cases portReads i <;>
    simp [hd, hs.getThread, hi.barrier, hr, hw, unkept, hstop]

/-! ### The rule of one written register -/

/-- The effect: the fields read in order, then the write. -/
def ruleBody (as : List (BitVec 8)) (d : BitVec 8) (f : List Word → Word) (l : Lane) : M Next :=
  seq do
    let vs ← readFields l as
    wr l d (f vs)

theorem readFields_one (l : Lane) (a : BitVec 8) : readFields l [a] = (do let v ← rd l a; pure [v]) := by
  simp [readFields]

theorem readFields_two (l : Lane) (a b : BitVec 8) :
    readFields l [a, b] = (do let v ← rd l a; let w ← rd l b; pure [v, w]) := by
  simp [readFields]

theorem un_eq_rule (d a : BitVec 8) (g : Word → Word) (hf : ∀ v, f [v] = g v) : un d a g = ruleBody [a] d f := by
  funext l
  simp [Machine.un, ruleBody, readFields_one, hf]

theorem bin_eq_rule (d a b : BitVec 8) (g : Word → Word → Word) (hf : ∀ v w, f [v, w] = g v w) :
    bin d a b g = ruleBody [a, b] d f := by
  funext l
  simp [Machine.bin, ruleBody, readFields_two, hf]

/-- What the rule says of an instruction: its effect, and that nothing else comes of its kind. -/
structure RuleInstr (i : Instr) (as : List (BitVec 8)) (d : BitVec 8) (f : List Word → Word) : Prop extends
    LaneInstr i (ruleBody as d f), NoFirst i where
  names : ∀ r ∈ d :: as, r ∈ i.flds.map Fld.code

theorem ruleInstr_of_un {i : Instr} {d a : BitVec 8} {g : Word → Word} {f : List Word → Word}
    (hi : LaneInstr i (un d a g)) (hf : ∀ v, f [v] = g v) (hn : NoFirst i)
    (hnames : ∀ r ∈ [d, a], r ∈ i.flds.map Fld.code) : RuleInstr i [a] d f :=
  { un_eq_rule d a g hf ▸ hi, hn with names := hnames }

theorem ruleInstr_of_bin {i : Instr} {d a b : BitVec 8} {g : Word → Word → Word} {f : List Word → Word}
    (hi : LaneInstr i (bin d a b g)) (hf : ∀ v w, f [v, w] = g v w) (hn : NoFirst i)
    (hnames : ∀ r ∈ [d, a, b], r ∈ i.flds.map Fld.code) : RuleInstr i [a, b] d f :=
  { bin_eq_rule d a b g hf ▸ hi, hn with names := hnames }

theorem ruleInstr_of_laneRule (hr : laneRule i = some (as, d, f)) : RuleInstr i as d f := by
  cases i
  case mov d a =>
    cases hr
    exact ruleInstr_of_un ⟨fun _ _ => rfl, exec_mov d a⟩ (fun _ => rfl) ⟨rfl, fun _ => rfl⟩ (by simp)
  case not d a =>
    cases hr
    exact ruleInstr_of_un ⟨fun _ _ => rfl, exec_not d a⟩ (fun _ => rfl) ⟨rfl, fun _ => rfl⟩ (by simp)
  case neg d a =>
    cases hr
    exact ruleInstr_of_un ⟨fun _ _ => rfl, exec_neg d a⟩ (fun _ => rfl) ⟨rfl, fun _ => rfl⟩ (by simp)
  case iadd d a b =>
    cases hr
    exact ruleInstr_of_bin ⟨fun _ _ => rfl, exec_iadd d a b⟩ (fun _ _ => rfl) ⟨rfl, fun _ => rfl⟩ (by simp)
  case isub d a b =>
    cases hr
    exact ruleInstr_of_bin ⟨fun _ _ => rfl, exec_isub d a b⟩ (fun _ _ => rfl) ⟨rfl, fun _ => rfl⟩ (by simp)
  case imul d a b x =>
    cases x <;> cases hr
    exact ruleInstr_of_bin ⟨fun _ _ => rfl, exec_imul d a b false⟩ (fun _ _ => rfl) ⟨rfl, fun _ => rfl⟩ (by simp)
  case and d a b =>
    cases hr
    exact ruleInstr_of_bin ⟨fun _ _ => rfl, exec_and d a b⟩ (fun _ _ => rfl) ⟨rfl, fun _ => rfl⟩ (by simp)
  case or d a b =>
    cases hr
    exact ruleInstr_of_bin ⟨fun _ _ => rfl, exec_or d a b⟩ (fun _ _ => rfl) ⟨rfl, fun _ => rfl⟩ (by simp)
  case xor d a b =>
    cases hr
    exact ruleInstr_of_bin ⟨fun _ _ => rfl, exec_xor d a b⟩ (fun _ _ => rfl) ⟨rfl, fun _ => rfl⟩ (by simp)
  case iaddi d a v =>
    cases hr
    exact ruleInstr_of_un ⟨fun _ _ => rfl, exec_iaddi d a v⟩ (fun _ => rfl) ⟨rfl, fun _ => rfl⟩ (by simp)
  case andi d a v =>
    cases hr
    exact ruleInstr_of_un ⟨fun _ _ => rfl, exec_andi d a v⟩ (fun _ => rfl) ⟨rfl, fun _ => rfl⟩ (by simp)
  case ori d a v =>
    cases hr
    exact ruleInstr_of_un ⟨fun _ _ => rfl, exec_ori d a v⟩ (fun _ => rfl) ⟨rfl, fun _ => rfl⟩ (by simp)
  case xori d a v =>
    cases hr
    exact ruleInstr_of_un ⟨fun _ _ => rfl, exec_xori d a v⟩ (fun _ => rfl) ⟨rfl, fun _ => rfl⟩ (by simp)
  all_goals cases hr

/-- A lane whose stream elements, reads and write come about completes. -/
theorem RuleInstr.perform (hr : RuleInstr i as d f) (hs : LaneReady s i k t T G h) (hpush : pushesWindow T i = false)
    (hw : Wait.operandsTaken h.wait = false) (htake : takes k t i s = .ok ((), s₀))
    (hread : readFields ⟨k, .thread t⟩ as s₀ = .ok (vs, s₁)) (hwr : wr ⟨k, .thread t⟩ d (f vs) s₁ = .ok ((), s₂))
    (len : Nat) :
    Machine.perform i len (ruleBody as d f) ⟨k, .thread t⟩ s = .ok ((), s₂.modThread k t (·.advance len)) := by
  have hprepare : prepare ⟨k, .thread t⟩ i s = .ok ((), s₀) := by
    rw [hs.prepare_eq hr.toNoFirst (hr.kind s T) hpush hw]
    cases s.windowStops ⟨k, .thread t⟩ i <;> simp [unkept, htake]
  have hbody : ruleBody as d f ⟨k, .thread t⟩ s₀ = .ok (none, s₂) := by
    simp only [ruleBody, seq_apply, M.bind_apply, hread, hwr]
  simp only [Machine.perform, M.bind_apply, hprepare, keepElements, hbody, complete_thread]
  rfl

theorem RuleInstr.exec_of_sole (hr : RuleInstr i as d f) (hs : Sole s i c t T G h) (hpush : pushesWindow T i = false)
    (hw : Wait.operandsTaken h.wait = false) (htake : takes c.team t i s = .ok ((), s₀))
    (hread : readFields ⟨c.team, .thread t⟩ as s₀ = .ok (vs, s₁))
    (hwr : wr ⟨c.team, .thread t⟩ d (f vs) s₁ = .ok ((), s₂)) :
    exec i s = .next (s₂.modThread c.team t (·.advance c.len)) := by
  have hl : c.lanes = [c.lane t] := by simp [Issue.lanes, hs.lanes]
  rw [hr.exec_eq, issue]
  simp only [issueWith, hs.cur, hl, stepLane, hs.present, hs.notDue,
    hr.perform hs.ready hpush hw htake hread hwr c.len, afterLane, Bool.not_true, Bool.false_eq_true, if_false]

/-! ### The lanes of a bundle -/

theorem regCode_of_gOnly (hg : gOnly i = true) {x : Fld} (hx : x ∈ i.flds) : regCode x.code = .g x.code.toNat := by
  have := List.all_eq_true.mp hg x hx
  exact regCode_g (by simpa [isG] using this)

theorem pushesWindow_of_gOnly (hg : gOnly i = true) (T : Team) : pushesWindow T i = false := by
  unfold pushesWindow
  rw [List.any_eq_false]
  intro x hx
  simp [regCode_of_gOnly hg hx]

theorem portReads_of_gOnly (hg : gOnly i = true) : portReads i = [] := by
  unfold portReads
  rw [List.filterMap_eq_nil_iff]
  intro x hx
  rw [regCode_of_gOnly hg hx]
  cases x.use <;> rfl

theorem readFields_g (hT : s.team? k = some T) (hh : T.thread? t = some h) (has : ∀ a ∈ as, a.toNat < 220) :
    readFields ⟨k, .thread t⟩ as s = .ok (as.map h.val, s) := by
  unfold readFields
  induction as with
  | nil => rfl
  | cons a as ih =>
    have ha : rd ⟨k, .thread t⟩ a s = .ok (h.val a, s) := by
      simp [rd, regCode_g (has a (by simp)), getThread_apply hT hh, Thread.val]
    rw [List.mapM_cons]
    simp only [M.bind_apply, ha, ih fun b hb => has b (by simp [hb]), M.pure_apply, List.map_cons]

/-- What one lane of the bundle does to its thread. -/
def Thread.byRule (h : Thread) (as : List (BitVec 8)) (d : BitVec 8) (f : List Word → Word) : Thread :=
  h.put d (f (as.map h.val))

/-- Before a lane's effect, a wait in which it has taken its operands already makes no difference where it names no port. -/
theorem LaneReady.prepared_of_gOnly (hs : LaneReady s i k t T G h) (hk : kindOk s T i = true)
    (hg : gOnly i = true) : prepare ⟨k, .thread t⟩ i s = .ok ((), s) := by
  have hd (all : Bool) : deliver ⟨k, .thread t⟩ all s = .ok ((), s) := by simp [deliver, hs.pend]
  have hm : mayPause ⟨k, .thread t⟩ i s = .ok (false, s) := by
    simp [mayPause, hs.pend, getTeam_apply hs.team, pushesWindow_of_gOnly hg, portReads_of_gOnly hg]
  have hr : releaseFirst ⟨k, .thread t⟩ i s = .ok ((), s) := by
    simp [releaseFirst, getTeam_apply hs.team, pushesWindow_of_gOnly hg]
  simp only [prepare, M.bind_apply, hs.checks hk, hm]
  cases hstop : s.windowStops ⟨k, .thread t⟩ i <;> simp [hd, hs.getThread, hr, hstop, portReads_of_gOnly hg]

theorem RuleInstr.perform_g (hr : RuleInstr i as d f) (hs : LaneReady s i k t T G h) (hg : gOnly i = true) (len : Nat) :
    Machine.perform i len (ruleBody as d f) ⟨k, .thread t⟩ s =
      .ok ((), s.modThread k t fun h => (h.byRule as d f).advance len) := by
  have hlt : ∀ r ∈ d :: as, r.toNat < 220 := fun r hmem => by
    obtain ⟨x, hx, rfl⟩ := List.mem_map.mp (hr.names r hmem)
    simpa [isG] using List.all_eq_true.mp hg x hx
  have hread := readFields_g hs.team hs.thread fun a ha => hlt a (List.mem_cons_of_mem _ ha)
  have hwr (v : Word) : wr ⟨k, .thread t⟩ d v s = .ok ((), s.modThread k t (·.put d v)) := by
    simp [wr, regCode_g (hlt d (List.mem_cons_self ..))]
    rfl
  have hbody : ruleBody as d f ⟨k, .thread t⟩ s = .ok (none, s.modThread k t (·.put d (f (as.map h.val)))) := by
    simp only [ruleBody, seq_apply, M.bind_apply, hread, hwr]
  simp only [Machine.perform, M.bind_apply, hs.prepared_of_gOnly (hr.kind s T) hg, keepElements, hbody,
    complete_thread, State.modThread_modThread]
  exact congrArg (fun u => Except.ok ((), u)) (State.modThread_congr (c := ⟨k, [], false, 0, 0⟩) hs.team hs.thread rfl)

/-- One lane's turn. -/
theorem RuleInstr.stepLane_g (hr : RuleInstr i as d f) (hs : LaneReady s i c.team t T G h) (hg : gOnly i = true)
    (onPage : Lane → Word64 → BitVec 8 → State → State) :
    stepLane c i onPage (ruleBody as d f) s (c.lane t) = s.after c t (·.byRule as d f) := by
  simp only [stepLane, hs.present, hs.notDue, hr.perform_g hs hg, afterLane, Bool.not_true, Bool.false_eq_true, if_false]
  rfl

theorem RuleInstr.consumesAt_g (hr : RuleInstr i as d f) (hs : LaneReady s i k t T G h) (hg : gOnly i = true) (len : Nat) :
    consumesAt i len (ruleBody as d f) s ⟨k, .thread t⟩ = false := by
  simp only [consumesAt, hr.perform_g hs hg]

/-- Another thread of the bundle is ready after one lane's turn. -/
theorem LaneReady.after_other {u : Nat} (hs : LaneReady s i c.team t T G h) (hu : t ≠ u) (g : Thread → Thread) :
    LaneReady (s.after c u g) i c.team t (T.modThread u fun h => (g h).advance c.len) G h where
  team := s.team?_after_self c u g hs.team
  runs := hs.runs
  thread := (T.thread?_modThread_other _ hu).trans hs.thread
  group := hs.group
  live := hs.live
  below := hs.below
  quiet := hs.quiet
  regs := hs.regs

/-- The lanes one after another (R8). -/
theorem RuleInstr.foldl_stepLane (hr : RuleInstr i as d f) (hg : gOnly i = true)
    (onPage : Lane → Word64 → BitVec 8 → State → State) (ts : List Nat) (s : State) (T : Team) (hn : ts.Nodup)
    (hready : ∀ t ∈ ts, ∃ h G, LaneReady s i c.team t T G h) :
    (ts.map c.lane).foldl (stepLane c i onPage (ruleBody as d f)) s =
      ts.foldl (fun s t => s.after c t (·.byRule as d f)) s := by
  induction ts generalizing s T with
  | nil => rfl
  | cons t ts ih =>
    obtain ⟨hnot, hn⟩ := List.nodup_cons.mp hn
    obtain ⟨h, G, hs⟩ := hready t (by simp)
    simp only [List.map_cons, List.foldl_cons, hr.stepLane_g hs hg]
    refine ih _ (T.modThread t fun h => (h.byRule as d f).advance c.len) hn fun u hu => ?_
    obtain ⟨h', G', hs'⟩ := hready u (by simp [hu])
    exact ⟨h', G', hs'.after_other (by rintro rfl; exact hnot hu) _⟩

theorem State.stopped_after (s : State) (c : Issue) (t : Nat) (g : Thread → Thread) :
    (s.after c t g).stopped c.team = s.stopped c.team := by
  simp only [State.stopped, State.after, State.modThread, State.team?_modTeam, if_true]
  cases s.team? c.team <;> rfl

theorem State.stopped_foldl_after (c : Issue) (g : Thread → Thread) (ts : List Nat) (s : State) :
    (ts.foldl (fun s t => s.after c t g) s).stopped c.team = s.stopped c.team := by
  induction ts generalizing s with
  | nil => rfl
  | cons t ts ih => rw [List.foldl_cons, ih, State.stopped_after]

theorem RuleInstr.exec_bundle (hr : RuleInstr i as d f) (hg : gOnly i = true) (hcur : s.cur = some c)
    (hfront : c.front = false) (hn : c.threads.Nodup) (hready : ∀ t ∈ c.threads, ∃ h G, LaneReady s i c.team t T G h) :
    exec i s = .next (c.threads.foldl (fun s t => s.after c t (·.byRule as d f)) s) := by
  have hl : c.lanes = c.threads.map c.lane := by simp [Issue.lanes, hfront]
  have hfold := hr.foldl_stepLane hg (pageSleep (some i)) c.threads s T hn hready
  have hnone : c.lanes.find? (fun l => s.lanePresent l && !s.watchdogDue l && consumesAt i c.len (ruleBody as d f) s l) =
      none := by
    rw [hl, List.find?_eq_none]
    intro l hmem
    obtain ⟨t, ht, rfl⟩ := List.mem_map.mp hmem
    obtain ⟨h, G, hs⟩ := hready t ht
    simp [hr.consumesAt_g hs hg]
  rw [hr.exec_eq, issue]
  simp only [issueWith, hcur]
  rw [← hfold, ← hl]
  split
  · next l hone => simp [hone]
  · have hstop : (c.lanes.foldl (stepLane c i (pageSleep (some i)) (ruleBody as d f)) s).stopped c.team =
        s.stopped c.team := by rw [hl, hfold, State.stopped_foldl_after]
    simp only [inOrder, hnone, ite_self, hstop, Bool.and_not_self, Bool.false_eq_true, if_false]

end Sys2Proof.Machine

open Sys2Proof Sys2Proof.Machine

/-- Settles O59, by induction on the threads of the bundle. -/
theorem bundles : Obligations.Bundles := by
  intro i as d f s c T hrule hg hcur hfront hn hT hstatus hdying hthreads
  refine (ruleInstr_of_laneRule hrule).exec_bundle (T := T) hg hcur hfront hn fun t ht => ?_
  obtain ⟨h, G, hh, hG, hlive, hbelow, hquiet, hregs⟩ := hthreads t ht
  exact ⟨h, G, hT, ⟨hstatus, hdying⟩, hh, hG, hlive, hbelow, hquiet, hregs⟩
end

section
/-!
PROOFS. The control pair of a ring of the team's own may end where the windows begin (O57): nothing that `OwnRing` asks of
a ring bounds the second word of the pair, which a push reads first.
-/

namespace Sys2Proof.Machine

/-- The ring of out0, whose head word is the last below the windows. -/
def edgeRing : Ring := { base := 0, control := 0xFFFFFC, count := 1, window := false }

/-- A team with a scratchpad that would reach past the beginning of the windows, and no window. -/
def edgeTeam : Team := { listedTeam with size := 0x1000004, ports := [(2, edgeRing)] }

def edgeState : State := { State.reset with teams := [(0, edgeTeam)] }

theorem ownRing_edgeRing : OwnRing edgeState edgeTeam edgeRing where
  own := ⟨rfl, by decide, by decide⟩
  control := by decide
  elements := by decide
  some_ := by decide
  sound := ⟨rfl, rfl, rfl, rfl⟩

/-- The address of the tail word names a window that is not mapped (R153). -/
theorem local?_edgeState : edgeState.local? 0 0x1000000 4 = .error Cause.protection := rfl

/-- The push meets that address before it writes anything. -/
theorem wr_edgeState (v : Word) :
    wr ⟨0, .thread 0⟩ 222 v edgeState = .error (.trap Cause.protection 0x1000000) := rfl

end Sys2Proof.Machine

open Sys2Proof Sys2Proof.Machine

/-- Refutes O57: the ring of `edgeState` is empty and its team's own, and a push onto it traps PROTECTION at its tail word. -/
theorem not_operandForms : ¬ Obligations.OperandForms := by
  intro hforms
  obtain ⟨-, -, -, -, -, hpush, -⟩ := hforms.2.2 edgeState 0 0 edgeTeam _ listedThread 0 false 0 edgeRing rfl rfl rfl
  have hwrite := hpush rfl ownRing_edgeRing (by decide) (by decide) rfl
  cases (wr_edgeState 0).symm.trans hwrite
end

section
/-!
PROOFS. How a sole issue of any instruction ends, and what local accesses (O17, O18) and stores share.
-/

namespace Sys2Proof.Machine

variable {s s' u : State} {i : Instr} {c : Issue} {t : Nat} {T T' : Team} {G G' : Group} {h : Thread}
  {body : Lane → M Next} {g : Thread → Thread}

/-! ### How a sole issue ends -/

/-- In a state the instruction is issued lane by lane with this effect. -/
def PerformsAt (s : State) (i : Instr) (body : Lane → M Next) : Prop := ∃ onPage, exec i s = issueWith i onPage body s

/-- The same in every state. -/
def Performs (i : Instr) (body : Lane → M Next) : Prop := ∀ s, PerformsAt s i body

/-- An effect that leaves its thread changed by `g` in another state: the thread goes on. -/
theorem Solo.ends_after (hs : Solo s i c t T G h) (hp : PerformsAt s i body) (hk : kindOk s T i = true)
    (hb : body (c.lane t) s = .ok (none, u.modThread c.team t g)) : exec i s = .next (u.after c t g) := by
  obtain ⟨onPage, he⟩ := hp
  rw [he, issueWith_solo hs hk hb, State.modThread_modThread]
  rfl

theorem Solo.ends_next (hs : Solo s i c t T G h) (hp : PerformsAt s i body) (hk : kindOk s T i = true)
    (hb : body (c.lane t) s = .ok (none, u)) : exec i s = .next (u.after c t fun h => h) :=
  hs.ends_after hp hk (g := fun h => h) (by rw [hb, State.modThread_id])

theorem Solo.ends_trap (hs : Solo s i c t T G h) (hp : PerformsAt s i body) (hk : kindOk s T i = true) {cause : BitVec 8}
    {addr : Word64} (hb : body (c.lane t) s = .error (.trap cause addr)) :
    exec i s = .next (s.trapped c i t cause addr none) := by
  obtain ⟨onPage, he⟩ := hp
  rw [he, issueWith_solo_trap hs hk hb]

theorem Solo.ends_done (hs : Solo s i c t T G h) (hp : PerformsAt s i body) (hk : kindOk s T i = true)
    (hb : body (c.lane t) s = .error (.done s')) : exec i s = .next (s'.endIfCancelled (c.lane t)) := by
  obtain ⟨onPage, he⟩ := hp
  rw [he, issueWith_solo_done hs hk hb]

theorem State.endIfCancelled_of_group (hT : s.team? c.team = some T) (hG : T.group? (T.groupIx t) = some G)
    (hc : G.cancelled = false) : s.endIfCancelled (c.lane t) = s := by
  unfold State.endIfCancelled
  simp only [hT, hG]
  cases T.thread? t <;> simp [hc]

theorem State.endIfCancelled_markWait (hT : s.team? c.team = some T) (hG : T.group? (T.groupIx t) = some G)
    (hc : G.cancelled = false) : (s.markWait (c.lane t)).endIfCancelled (c.lane t) = s.markWait (c.lane t) :=
  State.endIfCancelled_of_group (State.team?_modThread hT _) hG hc

/-- An effect that waits with what it has done so far, its group cancelled or not. -/
theorem Solo.ends_hold_cancel (hs : Solo s i c t T G h) (hp : PerformsAt s i body) (hk : kindOk s T i = true)
    (hb : body (c.lane t) s = .error (.hold u)) :
    exec i s = .next ((u.markWait (c.lane t)).endIfCancelled (c.lane t)) := by
  obtain ⟨onPage, he⟩ := hp
  have hl : c.lanes = [c.lane t] := by simp [Issue.lanes, hs.lanes]
  rw [he]
  simp only [issueWith, hs.cur, hl, stepLane, hs.present, hs.notDue, hs.perform hs.noRings hk, M.bind_apply, hb, afterLane,
    Bool.not_true, Bool.false_eq_true, if_false]

/-- An effect that waits with what it has done so far. -/
theorem Solo.ends_hold (hs : Solo s i c t T G h) (hp : PerformsAt s i body) (hk : kindOk s T i = true)
    (hb : body (c.lane t) s = .error (.hold u)) (hT' : u.team? c.team = some T')
    (hG' : T'.group? (T'.groupIx t) = some G') (hc : G'.cancelled = false) :
    exec i s = .next (u.markWait (c.lane t)) := by
  rw [hs.ends_hold_cancel hp hk hb, State.endIfCancelled_markWait hT' hG' hc]

/-- An effect that waits with nothing done. -/
theorem Solo.ends_retry (hs : Solo s i c t T G h) (hp : PerformsAt s i body) (hk : kindOk s T i = true)
    (hb : body (c.lane t) s = .error .retry) (hc : G.cancelled = false) :
    exec i s = .next (s.markWait (c.lane t)) := by
  obtain ⟨onPage, he⟩ := hp
  have hl : c.lanes = [c.lane t] := by simp [Issue.lanes, hs.lanes]
  rw [he]
  simp only [issueWith, hs.cur, hl, stepLane, hs.present, hs.notDue, hs.perform hs.noRings hk, M.bind_apply, hb, afterLane,
    Bool.not_true, Bool.false_eq_true, if_false]
  rw [State.endIfCancelled_markWait hs.team hs.group hc]

/-! ### Registers of loads and stores -/

/-- R25: the field's shape bounds the registers after the one that it names. -/
theorem Sole.fldOk (hs : Sole s i c t T G h) {x : Fld} (hx : x ∈ i.flds) : fldOk T G x = true := by
  have hr := hs.regs
  simp only [regsOk, hs.group, Bool.and_eq_true] at hr
  exact List.all_eq_true.mp hr.1 x hx

theorem Solo.pair_lt (hs : Solo s i c t T G h) {slot : Slot} {d : BitVec 8} {use : Use} (hx : ⟨slot, d, use, .pair⟩ ∈ i.flds) :
    ∀ r ∈ [d, d + 1], r.toNat < 220 := by
  have hok := hs.fldOk hx
  simp only [Machine.fldOk, Bool.and_eq_true, decide_eq_true_eq] at hok
  obtain ⟨⟨heven, hlt⟩, -⟩ := hok
  have hnext : (d + 1).toNat = d.toNat + 1 := by bv_omega
  simp only [List.mem_cons, List.not_mem_nil, or_false, forall_eq_or_imp, forall_eq, hnext]
  omega

theorem Solo.quad_lt (hs : Solo s i c t T G h) {slot : Slot} {d : BitVec 8} {use : Use} (hx : ⟨slot, d, use, .quad⟩ ∈ i.flds) :
    ∀ r ∈ [d, d + 1, d + 2, d + 3], r.toNat < 220 := by
  have hok := hs.fldOk hx
  simp only [Machine.fldOk, Bool.and_eq_true, decide_eq_true_eq] at hok
  obtain ⟨⟨heven, hlt⟩, -⟩ := hok
  simp only [List.mem_cons, List.not_mem_nil, or_false, forall_eq_or_imp, forall_eq]
  bv_omega

theorem loadDest_pair (d : BitVec 8) : loadDest d 5#3 = [d, d + 1] := rfl
theorem loadDest_quad (d : BitVec 8) : loadDest d 6#3 = [d, d + 1, d + 2, d + 3] := rfl
theorem loadDest_one (d : BitVec 8) {size : BitVec 3} (h5 : size ≠ 5#3) (h6 : size ≠ 6#3) : loadDest d size = [d] := by
  have h5' : size.toNat ≠ 5 := fun h => h5 (BitVec.eq_of_toNat_eq h)
  have h6' : size.toNat ≠ 6 := fun h => h6 (BitVec.eq_of_toNat_eq h)
  unfold loadDest
  split <;> first | rfl | contradiction

theorem destCodes_thread (d : BitVec 8) (size : BitVec 3) : destCodes (c.lane t) d size = loadDest d size := rfl

/-- R64: every register that a load or store of a size code uses is a g register. -/
theorem Solo.loadDest_lt (hs : Solo s i c t T G h) {slot : Slot} {d : BitVec 8} {use : Use} {size : BitVec 3}
    (hx : ⟨slot, d, use, sizeShape size⟩ ∈ i.flds) : ∀ r ∈ loadDest d size, r.toNat < 220 := by
  by_cases h5 : size = 5#3
  · subst h5
    exact hs.pair_lt hx
  · by_cases h6 : size = 6#3
    · subst h6
      exact hs.quad_lt hx
    · rw [loadDest_one d h5 h6]
      exact List.forall_mem_singleton.mpr (hs.isG hx)

theorem Thread.await_mem (h : Thread) (ds : List (BitVec 8)) (l : BitVec 4) (vs : List Word64) :
    h.await ds l.toNat true vs = h.expectAll ds l vs := by
  have hl : l.toNat = 0 ↔ l = 0 := BitVec.toNat_inj (y := 0#4)
  simp only [Thread.await, Thread.expectAll, hl]

/-- R155: the data of a store, read at issue. -/
theorem Solo.storeData (hs : Solo s i c t T G h) {slot : Slot} {d : BitVec 8} {use : Use} {size : BitVec 3}
    (hx : ⟨slot, d, use, sizeShape size⟩ ∈ i.flds) : storeData (c.lane t) d size s = .ok (h.data d size, s) := by
  have hd : d.toNat < 220 := hs.isG hx
  by_cases h5 : size.toNat = 5
  · simp [Machine.storeData, Thread.data, h5, hs.rd64]
  · by_cases h6 : size.toNat = 6
    · simp [Machine.storeData, Thread.data, h6, theThread_lane, rdMany, hs.getThread, List.range, List.range.loop]
    · simp [Machine.storeData, Thread.data, hs.rd hd]

/-- The thread is where it was after a write of scratchpads that leaves its team's threads and groups. -/
theorem At.of_team (hs : At s c t T G h) (hcur : u.cur = s.cur) (hT' : u.team? c.team = some T')
    (hstatus : T'.status = T.status) (hdying : T'.dying = T.dying) (hthreads : T'.threads = T.threads)
    (hgroups : T'.groups = T.groups) (hwidth : T'.width = T.width) : At u c t T' G h where
  cur := hcur.trans hs.cur
  lanes := hs.lanes
  team := hT'
  runs := by rw [hstatus, hdying]; exact hs.runs
  thread := by rw [Team.thread?, hthreads]; exact hs.thread
  group := by rw [Team.group?, Team.groupIx, hgroups, hwidth]; exact hs.group
  live := hs.live
  below := hs.below

/-! ### Writing a team's own scratchpad -/

theorem State.team?_setTeam {k : Nat} (hT : s.team? k = some T) (T' : Team) : (s.setTeam k T').team? k = some T' := by
  rw [State.setTeam, State.team?_modTeam, if_pos rfl, hT]
  rfl

theorem State.team?_writeLocal (hT : s.team? c.team = some T) (x : Nat) (bs : List Byte) :
    (s.writeLocal ⟨c.team, x, false⟩ bs).team? c.team = some { T with sp := writeBytes T.sp x bs } := by
  simp only [State.writeLocal, hT]
  exact State.team?_setTeam hT _

theorem State.writeLocal_cur (s : State) (l : Local) (bs : List Byte) : (s.writeLocal l bs).cur = s.cur := by
  unfold State.writeLocal
  split <;> rfl

theorem At.writeLocal (hs : At s c t T G h) (x : Nat) (bs : List Byte) :
    At (s.writeLocal ⟨c.team, x, false⟩ bs) c t { T with sp := writeBytes T.sp x bs } G h :=
  hs.of_team (s.writeLocal_cur _ _) (State.team?_writeLocal hs.team x bs) rfl rfl rfl rfl rfl

theorem OwnLocal.resolve {x n : Nat} (ho : OwnLocal s T x n) (hT : s.team? c.team = some T) :
    resolveLocal c.team x n s = .ok (⟨c.team, x, false⟩, s) := resolveLocal_own hT ho.own ho.inside

theorem OwnLocal.store {x n : Nat} (ho : OwnLocal s T x n) (hT : s.team? c.team = some T) (bs : List Byte) :
    storeLocal c.team ⟨c.team, x, false⟩ bs s = .ok ((), s.writeLocal ⟨c.team, x, false⟩ bs) :=
  ho.sound.storeLocal (l := ⟨c.team, x, false⟩) hT rfl c.team bs

end Sys2Proof.Machine
end

section
/-!
PROOFS. Loads and stores of the scratchpad (O17).
-/

namespace Sys2Proof.Machine

variable {s : State} {i : Instr} {c : Issue} {t : Nat} {T : Team} {G : Group} {h : Thread} {d a : BitVec 8} {l : BitVec 4}
  {size : BitVec 3} {o : BitVec 2}

/-! ### What stands before a store -/

theorem Sole.pushPending (hs : Sole s i c t T G h) : s.pushPending c.team (.thread t) = false := by
  have hh : SMap.find? t T.threads = some h := hs.thread
  simp [State.pushPending, hs.team, hh, hs.quiet]

theorem State.commitPorch_of_irrevocable {k : Nat} (hT : s.team? k = some T) (hr : T.revocable = false) :
    s.commitPorch k = s := by
  simp [State.commitPorch, hT, hr]

theorem commitPorch_apply (k : Nat) (s : State) : commitPorch k s = .ok ((), s.commitPorch k) := rfl

/-- R166: with nothing outstanding a release waits for nothing. -/
theorem drain_apply (k : Nat) (s : State) : drain k s =
    if (s.commitPorch k).storesPending k || (s.commitPorch k).remotesPending k then .error (.hold (s.commitPorch k))
    else .ok ((), s.commitPorch k) := by
  simp only [drain, M.bind_apply, commitPorch_apply, M.get_apply]
  cases (s.commitPorch k).storesPending k <;> cases (s.commitPorch k).remotesPending k <;> rfl

theorem drain_calm {k : Nat} (hT : s.team? k = some T) (hr : T.revocable = false) (hst : s.storesPending k = false)
    (hre : s.remotesPending k = false) : drain k s = .ok ((), s) := by
  simp [drain_apply, State.commitPorch_of_irrevocable hT hr, hst, hre]

/-! ### Loads -/

/-- The effect of LDL. -/
def bodyLdl (d a : BitVec 8) (l : BitVec 4) (size : BitVec 3) (ln : Lane) : M Next := do
  loadHere ln (← rd ln a).toNat d size l.toNat

theorem performs_ldl (d a : BitVec 8) (l : BitVec 4) (size : BitVec 3) (o : BitVec 2) :
    Performs (.ldl d a l size o) (bodyLdl d a l size) := fun _ => ⟨_, rfl⟩

theorem OwnLocal.load {x n : Nat} (ho : OwnLocal s T x n) (hT : s.team? c.team = some T) :
    loadLocal c.team x n s = .ok (readBytes T.sp x n, s) := loadLocal_own hT ho.own ho.inside ho.sound

theorem doesIf_ldl (d a : BitVec 8) (l : BitVec 4) (size : BitVec 3) (o : BitVec 2) : DoesIf (.ldl d a l size o)
    (fun s T _ h => OwnLocal s T (h.val a).toNat (sizeBytes size)) fun _ _ T _ h => h.expectAll (loadDest d size) l
      (loadVals false size (readBytes T.sp (h.val a).toNat (sizeBytes size))) := by
  intro s c t T G h hs ho
  refine hs.ends_after (performs_ldl d a l size o s) rfl ?_
  have ha : a.toNat < 220 := hs.lt (by simp)
  have hd := hs.loadDest_lt (slot := .d) (d := d) (use := .wr) (size := size) (by simp)
  simp only [bodyLdl, loadHere, loaded, M.bind_apply, seq_apply, hs.rd ha, aligned_of_mod ho.aligned, ho.load hs.team,
    destCodes_thread, hs.later hd, Thread.await_mem]
  rfl

/-! ### Stores -/

/-- The effect of STL. -/
def bodyStl (d a : BitVec 8) (size : BitVec 3) (o : BitVec 2) (ln : Lane) : M Next := do
  storeHere ln (← rd ln a).toNat d size (o == 1)

theorem performs_stl (d a : BitVec 8) (l : BitVec 4) (size : BitVec 3) (o : BitVec 2) :
    Performs (.stl d a l size o) (bodyStl d a size o) := fun _ => ⟨_, rfl⟩

/-- What stands before a store to the own scratchpad is over. -/
theorem Solo.storeHere (hs : Solo s (.stl d a l size o) c t T G h) {x : Nat} (ho : OwnLocal s T x (sizeBytes size))
    (hrel : o = 1 → T.revocable = false ∧ s.storesPending c.team = false ∧ s.remotesPending c.team = false)
    (hrc : o ≠ 1 → s.rcPending c.team (T.origin (.thread t)) = false) :
    storeHere (c.lane t) x d size (o == 1) s =
      .ok (none, s.writeLocal ⟨c.team, x, false⟩ (h.data d size)) := by
  have hdata := hs.storeData (slot := .d) (d := d) (use := .rd) (size := size) (by simp)
  by_cases hr : o = 1
  · obtain ⟨hrev, hst, hre⟩ := hrel hr
    subst hr
    simp [Machine.storeHere, seq_apply, aligned_of_mod ho.aligned, ho.resolve hs.team, hdata, hs.pushPending,
      drain_calm hs.team hrev hst hre, ho.store hs.team]
  · have hr' : ¬ o = 1#2 := hr
    simp [Machine.storeHere, seq_apply, aligned_of_mod ho.aligned, ho.resolve hs.team, hdata, hr', hs.getTeam, hrc hr,
      ho.store hs.team]

theorem exec_stl_of_own (hs : Solo s (.stl d a l size o) c t T G h) (ho : OwnLocal s T (h.val a).toNat (sizeBytes size))
    (hrel : o = 1 → T.revocable = false ∧ s.storesPending c.team = false ∧ s.remotesPending c.team = false)
    (hrc : o ≠ 1 → s.rcPending c.team (T.origin (.thread t)) = false) :
    exec (.stl d a l size o) s =
      .next ((s.writeLocal ⟨c.team, (h.val a).toNat, false⟩ (h.data d size)).after c t fun h => h) := by
  refine hs.ends_next (performs_stl d a l size o s) rfl ?_
  have ha : a.toNat < 220 := hs.lt (by simp)
  simp only [bodyStl, M.bind_apply, hs.rd ha, hs.storeHere ho hrel hrc]

/-- R252, R254: an RC store that the thread made before is not performed. -/
theorem exec_stl_waits (hs : Solo s (.stl d a l size o) c t T G h) (ho : OwnLocal s T (h.val a).toNat (sizeBytes size))
    (hr : o ≠ 1) (hrc : s.rcPending c.team (T.origin (.thread t)) = true) (hc : G.cancelled = false) :
    exec (.stl d a l size o) s = .next (s.markWait (c.lane t)) := by
  refine hs.ends_hold (performs_stl d a l size o s) rfl ?_ hs.team hs.group hc
  have ha : a.toNat < 220 := hs.lt (by simp)
  have hdata := hs.storeData (slot := .d) (d := d) (use := .rd) (size := size) (by simp)
  have hr' : ¬ o = 1#2 := hr
  simp [bodyStl, hs.rd ha, Machine.storeHere, aligned_of_mod ho.aligned, ho.resolve hs.team, hdata, hr', hs.getTeam, hrc]

/-! ### Addresses that trap -/

theorem traps_ldl_misaligned (d a : BitVec 8) (l : BitVec 4) (size : BitVec 3) (o : BitVec 2) :
    Traps (.ldl d a l size o) (fun _ _ _ h => (h.val a).toNat % sizeBytes size ≠ 0) Cause.misalignedData
      fun h => (h.val a).setWidth 64 := fun s c t T G h hs hmis =>
  hs.ends_trap (performs_ldl d a l size o s) rfl (by
    have ha : a.toNat < 220 := hs.lt (by simp)
    simp [bodyLdl, loadHere, hs.rd ha, aligned_of_not hmis])

theorem traps_stl_misaligned (d a : BitVec 8) (l : BitVec 4) (size : BitVec 3) (o : BitVec 2) :
    Traps (.stl d a l size o) (fun _ _ _ h => (h.val a).toNat % sizeBytes size ≠ 0) Cause.misalignedData
      fun h => (h.val a).setWidth 64 := fun s c t T G h hs hmis =>
  hs.ends_trap (performs_stl d a l size o s) rfl (by
    have ha : a.toNat < 220 := hs.lt (by simp)
    simp [bodyStl, Machine.storeHere, hs.rd ha, aligned_of_not hmis])

/-- An aligned access of a thread to an address of the own scratchpad's range that reaches past its end. -/
def pastEnd (a : BitVec 8) (n : Nat) (_ : State) (T : Team) (_ : Group) (h : Thread) : Prop :=
  (h.val a).toNat % n = 0 ∧ (h.val a).toNat < winBase ∧ T.size < (h.val a).toNat + n

theorem traps_ldl_protection (d a : BitVec 8) (l : BitVec 4) (size : BitVec 3) (o : BitVec 2) :
    Traps (.ldl d a l size o) (pastEnd a (sizeBytes size)) Cause.protection fun h => (h.val a).setWidth 64 :=
  fun s c t T G h hs ⟨hal, hlow, hout⟩ => hs.ends_trap (performs_ldl d a l size o s) rfl (by
    have ha : a.toNat < 220 := hs.lt (by simp)
    simp [bodyLdl, loadHere, hs.rd ha, aligned_of_mod hal, loadLocal, resolveLocal_beyond hs.team hlow hout])

theorem traps_stl_protection (d a : BitVec 8) (l : BitVec 4) (size : BitVec 3) (o : BitVec 2) :
    Traps (.stl d a l size o) (pastEnd a (sizeBytes size)) Cause.protection fun h => (h.val a).setWidth 64 :=
  fun s c t T G h hs ⟨hal, hlow, hout⟩ => hs.ends_trap (performs_stl d a l size o s) rfl (by
    have ha : a.toNat < 220 := hs.lt (by simp)
    simp [bodyStl, Machine.storeHere, hs.rd ha, aligned_of_mod hal, resolveLocal_beyond hs.team hlow hout])

end Sys2Proof.Machine

open Sys2Proof Sys2Proof.Machine

/-- Settles O17: an access of the team's own scratchpad is resolved, admitted and served as it stands. -/
theorem localMemory : Obligations.LocalMemory := fun d a l size o =>
  ⟨doesIf_ldl d a l size o, fun _ _ _ _ _ _ hs ho hrel hrc => exec_stl_of_own hs ho hrel hrc,
    fun _ _ _ _ _ _ hs ho hr hrc hc => exec_stl_waits hs ho hr hrc hc, traps_ldl_misaligned d a l size o,
    traps_stl_misaligned d a l size o, traps_ldl_protection d a l size o, traps_stl_protection d a l size o⟩
end

section
/-!
PROOFS. Atomics of the scratchpad (O18).
-/

namespace Sys2Proof.Machine

variable {s : State} {i : Instr} {c : Issue} {t : Nat} {T : Team} {G : Group} {h : Thread} {d a : BitVec 8} {l : BitVec 4}
  {w : Bool} {op : AtomOp} {f : Word → Word → Word}

/-! ### The operations on words -/

/-- An operation that reads one register, delivers the old word there and writes a value of the two (R164). -/
structure WordAtom (op : AtomOp) (f : Word → Word → Word) : Prop where
  operand : ∀ ln d, op.operand ln d = (do let v ← rd ln d; pure (v.setWidth 64))
  result : ∀ ln d m x, op.result ln d m x = ([d], [(m.setWidth 32 : Word).setWidth 64])
  new : ∀ m x, op.new m x = some ((f (m.setWidth 32) (x.setWidth 32)).setWidth 64)
  bytes : op.bytes = 4

theorem wordAtom_add : WordAtom .add fun m x => m + x := ⟨fun _ _ => rfl, fun _ _ _ _ => rfl, fun _ _ => rfl, rfl⟩
theorem wordAtom_fadd : WordAtom .fadd add32 := ⟨fun _ _ => rfl, fun _ _ _ _ => rfl, fun _ _ => rfl, rfl⟩
theorem wordAtom_fadd2 : WordAtom .fadd2 addPairs := ⟨fun _ _ => rfl, fun _ _ _ _ => rfl, fun _ _ => rfl, rfl⟩
theorem wordAtom_and : WordAtom .and fun m x => m &&& x := ⟨fun _ _ => rfl, fun _ _ _ _ => rfl, fun _ _ => rfl, rfl⟩
theorem wordAtom_or : WordAtom .or fun m x => m ||| x := ⟨fun _ _ => rfl, fun _ _ _ _ => rfl, fun _ _ => rfl, rfl⟩
theorem wordAtom_xchg : WordAtom .xchg fun _ x => x := ⟨fun _ _ => rfl, fun _ _ _ _ => rfl, fun _ _ => rfl, rfl⟩

theorem sminW_lt (m x : Word) : sminW m x = if x.toInt < m.toInt then x else m := by
  simp [sminW, BitVec.slt]

theorem wordAtom_min : WordAtom .min fun m x => if x.toInt < m.toInt then x else m :=
  ⟨fun _ _ => rfl, fun _ _ _ _ => rfl, fun m x => by rw [← sminW_lt]; rfl, rfl⟩

theorem smaxW_lt (m x : Word) : smaxW m x = if m.toInt < x.toInt then x else m := by
  simp [smaxW, BitVec.slt]

theorem wordAtom_max : WordAtom .max fun m x => if m.toInt < x.toInt then x else m :=
  ⟨fun _ _ => rfl, fun _ _ _ _ => rfl, fun m x => by rw [← smaxW_lt]; rfl, rfl⟩

/-- A compare that finds its word equal: the upper register of the pair is written (R164). -/
theorem casNew_of_eq {m x : Word64} (he : (m.setWidth 32 : Word) = x.setWidth 32) :
    AtomOp.cas.new m x = some ((x.extractLsb' 32 32).setWidth 64) := if_pos he

theorem casNew_of_ne {m x : Word64} (he : (m.setWidth 32 : Word) ≠ x.setWidth 32) : AtomOp.cas.new m x = none := if_neg he

theorem casResult (m x : Word64) : AtomOp.cas.result (c.lane t) d m x =
    ([d, d + 1], [(m.setWidth 32 : Word).setWidth 64, x >>> 32]) := rfl

/-! ### Pairs of words -/

theorem setWidth_ofNat_64_32 (n : Nat) : (BitVec.ofNat 64 n).setWidth 32 = BitVec.ofNat 32 n := by
  apply BitVec.eq_of_toNat_eq
  simp

theorem Thread.pair_low (h : Thread) (d : BitVec 8) : (h.pair d).setWidth 32 = h.val d := by
  unfold Thread.pair Thread.val
  exact BitVec.setWidth_append_eq_right

theorem Thread.pair_high (h : Thread) (d : BitVec 8) : (h.pair d).extractLsb' 32 32 = h.reg (d.toNat + 1) := by
  unfold Thread.pair
  exact BitVec.extractLsb'_append_eq_left

theorem Thread.pair_shift (h : Thread) (d : BitVec 8) : h.pair d >>> 32 = (h.reg (d.toNat + 1)).setWidth 64 := by
  apply BitVec.eq_of_toNat_eq
  rw [← h.pair_high d]
  simp [BitVec.extractLsb'_toNat]
  omega

/-! ### The effect -/

/-- The access is aligned, lies in the team's own scratchpad, and one of wing scope has no commit before it. -/
def atomReady (s : State) (T : Team) (w : Bool) (x : Nat) : Prop :=
  OwnLocal s T x 4 ∧ (w = true → T.revocable = false ∧ ∀ k, s.cur.map (·.team) = some k → s.committing k = false)

theorem atomReady.commitFirst {x : Nat} (hr : atomReady s T true x) (hs : At s c t T G h) :
    commitFirst c.team s = .ok ((), s) := by
  obtain ⟨hrev, hcommit⟩ := hr.2 rfl
  have hc : s.committing c.team = false := hcommit c.team (by simp [hs.cur])
  simp [Machine.commitFirst, hs.getTeam, hrev, hc]

/-- What stands before the access of a local atomic is over. -/
theorem At.atomHere_eq {x : Nat} {u : Word64} (hs : At s c t T G h) (hr : atomReady s T w x) (n : Nat)
    (hop : op.operand (c.lane t) d s = .ok (u, s)) {m : Word64}
    (hm : m = BitVec.ofNat 64 (leNat (readBytes T.sp x 4))) :
    atomHere op (c.lane t) x d n w s = (do
      match op.new m u with
      | some v => storeLocal c.team ⟨c.team, x, false⟩ (leBytes 4 v.toNat)
      | none => touchLocal ⟨c.team, x, false⟩ 4
      seq (Machine.later (c.lane t) (op.result (c.lane t) d m u).1 (.ready (op.result (c.lane t) d m u).2) n)) s := by
  obtain ⟨ho, -⟩ := id hr
  have hread := ho.sound.readLocal (l := ⟨c.team, x, false⟩) hs.team x 4
  subst hm
  cases w with
  | false =>
    simp only [atomHere, M.bind_apply, aligned_of_mod ho.aligned, ho.resolve hs.team, Bool.false_eq_true, if_false, hop,
      hread] <;> rfl
  | true =>
    simp only [atomHere, M.bind_apply, aligned_of_mod ho.aligned, ho.resolve hs.team, if_true, hr.commitFirst hs, hop,
      hread] <;> rfl

/-- An atomic that writes. -/
theorem At.atomHere_some {x : Nat} {u v : Word64} (hs : At s c t T G h) (hr : atomReady s T w x) (n : Nat)
    (hop : op.operand (c.lane t) d s = .ok (u, s))
    (hnew : op.new (BitVec.ofNat 64 (leNat (readBytes T.sp x 4))) u = some v)
    {ds : List (BitVec 8)} {vs : List Word64} (hds : ∀ r ∈ ds, r.toNat < 220)
    (hres : op.result (c.lane t) d (BitVec.ofNat 64 (leNat (readBytes T.sp x 4))) u = (ds, vs)) :
    atomHere op (c.lane t) x d n w s = .ok (none, (s.writeLocal ⟨c.team, x, false⟩ (leBytes 4 v.toNat)).modThread c.team t
      fun _ => h.await ds n true vs) := by
  rw [hs.atomHere_eq hr n hop rfl]
  simp only [hnew, M.bind_apply, hr.1.store hs.team, seq_apply, hres, (hs.writeLocal x _).later hds]

/-- A compare that fails writes back what it read (R266). -/
theorem At.atomHere_none {x : Nat} {u : Word64} (hs : At s c t T G h) (hr : atomReady s T w x) (n : Nat)
    (hop : op.operand (c.lane t) d s = .ok (u, s))
    (hnew : op.new (BitVec.ofNat 64 (leNat (readBytes T.sp x 4))) u = none)
    {ds : List (BitVec 8)} {vs : List Word64} (hds : ∀ r ∈ ds, r.toNat < 220)
    (hres : op.result (c.lane t) d (BitVec.ofNat 64 (leNat (readBytes T.sp x 4))) u = (ds, vs)) :
    atomHere op (c.lane t) x d n w s = .ok (none, (s.writeLocal ⟨c.team, x, false⟩ (readBytes T.sp x 4)).modThread c.team t
      fun _ => h.await ds n true vs) := by
  rw [hs.atomHere_eq hr n hop rfl]
  simp only [hnew, M.bind_apply, touchLocal, hs.getTeam, M.modify_apply, seq_apply, hres, (hs.writeLocal x _).later hds]

/-! ### The instructions -/

/-- The instruction is the local atomic `op`. -/
structure LocalAtom (i : Instr) (op : AtomOp) (d a : BitVec 8) (l : BitVec 4) (w : Bool) : Prop where
  kind : ∀ s T, kindOk s T i = true
  performs : Performs i fun ln => do atomHere op ln (← rd ln a).toNat d l.toNat w
  names : Names i [a, d]

/-- An operation on words swaps the word for its value (R164). -/
theorem LocalAtom.swaps (hi : LocalAtom i op d a l w) (hop : WordAtom op f) (hs : Solo s i c t T G h)
    (hr : atomReady s T w (h.val a).toNat) :
    exec i s = .next ((s.writeLocal ⟨c.team, (h.val a).toNat, false⟩
      (leBytes 4 (f (T.localWord (h.val a).toNat) (h.val d)).toNat)).after c t fun h =>
        h.expectAll [d] l [(T.localWord (h.val a).toNat).setWidth 64]) := by
  have ha : a.toNat < 220 := hs.lt_of_names hi.names (by simp)
  have hd : d.toNat < 220 := hs.lt_of_names hi.names (by simp)
  have hoperand : op.operand (c.lane t) d s = .ok ((h.val d).setWidth 64, s) := by
    simp only [hop.operand, M.bind_apply, hs.rd hd, M.pure_apply]
  have hbody := hs.atomHere_some hr l.toNat hoperand (hop.new _ _) (ds := [d]) (by simpa using hd) (hop.result _ _ _ _)
  simp only [setWidth_ofNat_64_32, BitVec.setWidth_setWidth_of_le _ (show 32 ≤ 64 by decide), BitVec.setWidth_eq,
    Thread.await_mem, BitVec.toNat_setWidth_of_le (show 32 ≤ 64 by decide)] at hbody
  refine (hs.ends_after (hi.performs s) (hi.kind s T) (by simpa only [M.bind_apply, hs.rd ha] using hbody)).trans ?_
  exact congrArg _ (State.modThread_congr ((hs.writeLocal _ _).team) hs.thread rfl)

/-- R164, R266: the compare of a local atomic. -/
theorem LocalAtom.cas (hi : LocalAtom i .cas d a l w) (hs : Solo s i c t T G h)
    (hpair : ⟨.d, d, .rw, .pair⟩ ∈ i.flds) (hr : atomReady s T w (h.val a).toNat) :
    exec i s = .next ((s.writeLocal ⟨c.team, (h.val a).toNat, false⟩
      (if T.localWord (h.val a).toNat = h.val d then leBytes 4 (h.reg (d.toNat + 1)).toNat
        else readBytes T.sp (h.val a).toNat 4)).after c t fun h =>
          h.expectAll [d, d + 1] l [(T.localWord (h.val a).toNat).setWidth 64, (h.reg (d.toNat + 1)).setWidth 64]) := by
  have ha : a.toNat < 220 := hs.lt_of_names hi.names (by simp)
  have hds := hs.pair_lt hpair
  have hoperand : AtomOp.cas.operand (c.lane t) d s = .ok (h.pair d, s) := hs.rd64 d
  have hold : (BitVec.ofNat 64 (leNat (readBytes T.sp (h.val a).toNat 4))).setWidth 32 = T.localWord (h.val a).toNat :=
    setWidth_ofNat_64_32 _
  have hres := casResult (c := c) (t := t) (d := d) (BitVec.ofNat 64 (leNat (readBytes T.sp (h.val a).toNat 4))) (h.pair d)
  rw [hold, h.pair_shift] at hres
  have hbody : atomHere .cas (c.lane t) (h.val a).toNat d l.toNat w s =
      .ok (none, (s.writeLocal ⟨c.team, (h.val a).toNat, false⟩
        (if T.localWord (h.val a).toNat = h.val d then leBytes 4 (h.reg (d.toNat + 1)).toNat
          else readBytes T.sp (h.val a).toNat 4)).modThread c.team t fun _ =>
            h.expectAll [d, d + 1] l [(T.localWord (h.val a).toNat).setWidth 64, (h.reg (d.toNat + 1)).setWidth 64]) := by
    split
    · next heq =>
      rw [hs.atomHere_some hr l.toNat hoperand (casNew_of_eq (by rw [hold, h.pair_low, heq])) hds hres, h.pair_high,
        BitVec.toNat_setWidth_of_le (by decide), Thread.await_mem]
    · next hne =>
      rw [hs.atomHere_none hr l.toNat hoperand (casNew_of_ne (by rw [hold, h.pair_low]; exact hne)) hds hres,
        Thread.await_mem]
  refine (hs.ends_after (hi.performs s) (hi.kind s T) (by simpa only [M.bind_apply, hs.rd ha] using hbody)).trans ?_
  exact congrArg _ (State.modThread_congr ((hs.writeLocal _ _).team) hs.thread rfl)

theorem localAtom_add (d a : BitVec 8) (l : BitVec 4) (w : Bool) : LocalAtom (.atomlAdd d a l w) .add d a l w where
  kind _ _ := rfl
  performs := fun s => ⟨_, exec_atomlAdd d a l w s⟩
  names := by simp [Names]

theorem localAtom_fadd (d a : BitVec 8) (l : BitVec 4) (w : Bool) : LocalAtom (.atomlFadd d a l w) .fadd d a l w where
  kind _ _ := rfl
  performs := fun s => ⟨_, exec_atomlFadd d a l w s⟩
  names := by simp [Names]

theorem localAtom_min (d a : BitVec 8) (l : BitVec 4) (w : Bool) : LocalAtom (.atomlMin d a l w) .min d a l w where
  kind _ _ := rfl
  performs := fun s => ⟨_, exec_atomlMin d a l w s⟩
  names := by simp [Names]

theorem localAtom_max (d a : BitVec 8) (l : BitVec 4) (w : Bool) : LocalAtom (.atomlMax d a l w) .max d a l w where
  kind _ _ := rfl
  performs := fun s => ⟨_, exec_atomlMax d a l w s⟩
  names := by simp [Names]

theorem localAtom_xchg (d a : BitVec 8) (l : BitVec 4) (w : Bool) : LocalAtom (.atomlXchg d a l w) .xchg d a l w where
  kind _ _ := rfl
  performs := fun s => ⟨_, exec_atomlXchg d a l w s⟩
  names := by simp [Names]

theorem localAtom_fadd2 (d a : BitVec 8) (l : BitVec 4) (w : Bool) : LocalAtom (.atomlFadd2 d a l w) .fadd2 d a l w where
  kind _ _ := rfl
  performs := fun s => ⟨_, exec_atomlFadd2 d a l w s⟩
  names := by simp [Names]

theorem localAtom_or (d a : BitVec 8) (l : BitVec 4) (w : Bool) : LocalAtom (.atomlOr d a l w) .or d a l w where
  kind _ _ := rfl
  performs := fun s => ⟨_, exec_atomlOr d a l w s⟩
  names := by simp [Names]

theorem localAtom_cas (d a : BitVec 8) (l : BitVec 4) (w : Bool) : LocalAtom (.atomlCas d a l w) .cas d a l w where
  kind _ _ := rfl
  performs := fun s => ⟨_, exec_atomlCas d a l w s⟩
  names := by simp [Names]

end Sys2Proof.Machine

open Sys2Proof Sys2Proof.Machine

/-- Settles O18: an operation on words, and a compare that succeeds or fails. -/
theorem localAtomics : Obligations.LocalAtomics := by
  intro d a l w
  refine ⟨?_, ?_, ?_, ?_, ?_, ?_, ?_, fun s c t T G h hs hr heq => ?_, fun s c t T G h hs hr hne => ?_⟩
  · intro _ _ _ _ _ _ hs hr
    have hswap := (localAtom_add d a l w).swaps wordAtom_add hs hr
    exact hswap
  · intro _ _ _ _ _ _ hs hr
    have hswap := (localAtom_fadd d a l w).swaps wordAtom_fadd hs hr
    exact hswap
  · intro _ _ _ _ _ _ hs hr
    have hswap := (localAtom_min d a l w).swaps wordAtom_min hs hr
    exact hswap
  · intro _ _ _ _ _ _ hs hr
    have hswap := (localAtom_max d a l w).swaps wordAtom_max hs hr
    exact hswap
  · intro _ _ _ _ _ _ hs hr
    have hswap := (localAtom_xchg d a l w).swaps wordAtom_xchg hs hr
    exact hswap
  · intro _ _ _ _ _ _ hs hr
    have hswap := (localAtom_fadd2 d a l w).swaps wordAtom_fadd2 hs hr
    exact hswap
  · intro _ _ _ _ _ _ hs hr
    have hswap := (localAtom_or d a l w).swaps wordAtom_or hs hr
    exact hswap
  · have hcas := (localAtom_cas d a l w).cas hs (by simp) hr
    have heq' : T.localWord (h.val a).toNat = h.val d := heq
    rwa [if_pos heq'] at hcas
  · have hcas := (localAtom_cas d a l w).cas hs (by simp) hr
    have hne' : T.localWord (h.val a).toNat ≠ h.val d := hne
    rwa [if_neg hne'] at hcas
end

section
/-!
PROOFS. Loads and stores of global memory through the heap triple (O19).
-/

namespace Sys2Proof.Machine

variable {s : State} {i : Instr} {c : Issue} {t : Nat} {T : Team} {G : Group} {h : Thread} {d a : BitVec 8} {l : BitVec 4}
  {size : BitVec 3} {o : BitVec 2} {x n pa : Nat}

/-! ### The part that an access is, and what it waits for -/

/-- The one part of an access that the heap triple maps. -/
def State.heapPart (s : State) (T : Team) (x n pa : Nat) : Part :=
  ⟨x, n, .phys pa, (s.ctx T.ctx).heap.hkind.extractLsb' 0 2⟩

/-- The check of an access by any lane of the team. -/
theorem InHeap.checkLane {ln : Lane} (hin : InHeap s ln.team T x n pa) (hT : s.team? ln.team = some T) (need : Need)
    (bit : BitVec 8) (hx : need.x = false) : Machine.checkAccess ln x n need bit s = .ok ([s.heapPart T x n pa], s) := by
  simp only [Machine.checkAccess, M.bind_apply, getTeam_apply hT, checkGlobal_heap bit hin.toHeapAt hx]
  rfl

theorem InHeap.checkAccess (hin : InHeap s c.team T x n pa) (hs : At s c t T G h) (need : Need) (bit : BitVec 8)
    (hx : need.x = false) : checkAccess (c.lane t) x n need bit s = .ok ([s.heapPart T x n pa], s) :=
  InHeap.checkLane (ln := c.lane t) hin hs.team need bit hx

theorem State.storeOf_calm {k : Nat} (hst : s.storesPending k = false) (o : Origin) (p : StoreTag → Bool) :
    s.storeOf k o p = false := by
  simp only [State.storesPending, State.storeOf, List.any_eq_false, Bool.and_eq_true, not_and] at hst ⊢
  exact fun w hw hk => absurd hk.1 (hst w hw)

theorem State.remoteOf_calm {k : Nat} (hre : s.remotesPending k = false) (o : Origin) (p : Remote → Bool) :
    s.remoteOf k o p = false := by
  simp only [State.remotesPending, State.remoteOf, List.any_eq_false, Bool.and_eq_true, not_and] at hre ⊢
  exact fun e he hk => absurd hk.2 (hre e he hk.1.1)

theorem State.readsAhead_calm {k : Nat} (hst : s.storesPending k = false) (o : Origin) (pa n : Nat) :
    s.readsAhead k o pa n = false := by
  simp only [State.storesPending, State.readsAhead, List.any_eq_false, Bool.and_eq_true, not_and] at hst ⊢
  exact fun w hw hk => absurd hk.1.1.1.1 (hst w hw)

theorem State.any_of_team_calm {k : Nat} (hst : s.storesPending k = false) (p : PendStore → Bool) :
    (s.stores.any fun w => w.team == k && p w) = false := by
  simp only [State.storesPending, List.any_eq_false, Bool.and_eq_true, not_and] at hst ⊢
  exact fun w hw hk => absurd hk (hst w hw)

/-- With nothing of the team outstanding an access of a lane that owes no element waits for nothing (R254, R258). -/
theorem InHeap.orderLane {ln : Lane} (hin : InHeap s ln.team T x n pa) (hT : s.team? ln.team = some T)
    (hpush : s.pushPending ln.team ln.who = false) (store : Bool) :
    Machine.orderBefore ln [s.heapPart T x n pa] store s = .ok ((), s) := by
  obtain ⟨hst, hre⟩ := hin.quiet
  have hmust : s.mustWait ln.team T.ctx (T.origin ln.who) store (s.heapPart T x n pa) = false := by
    have hwho : (T.origin ln.who).who = ln.who := rfl
    simp only [State.mustWait, State.heapPart, State.storeOf_calm hst, State.remoteOf_calm hre, hwho, hpush, Bool.false_and,
      Bool.and_false, Bool.or_self]
  have hmustAny : [s.heapPart T x n pa].any (s.mustWait ln.team T.ctx (T.origin ln.who) store) = false := by simp [hmust]
  have hcommit : (s.stores.any fun w => w.team == ln.team && w.commit && w.sealed) = false := by
    simpa only [Bool.and_assoc] using State.any_of_team_calm hst fun w => w.commit && w.sealed
  have hread : readFirst ln.team (T.origin ln.who) [s.heapPart T x n pa] s = .ok ((), s) := by
    simp [readFirst, State.heapPart, State.readsAhead_calm hst]
  have hremote : [s.heapPart T x n pa].any Part.isRemote = false := rfl
  unfold Machine.orderBefore
  simp only [M.bind_apply, hremote, Bool.false_eq_true, if_false, getTeam_apply hT, M.get_apply, hmustAny, hcommit,
    Bool.or_self]
  cases store <;> simp [hread]

theorem InHeap.orderBefore (hin : InHeap s c.team T x n pa) (hs : Sole s i c t T G h) (store : Bool) :
    orderBefore (c.lane t) [s.heapPart T x n pa] store s = .ok ((), s) :=
  InHeap.orderLane (ln := c.lane t) hin hs.team hs.pushPending store

theorem aligned_if (b : Bool) (hal : b = true → x % n = 0) : (if b then aligned x n else pure ()) s = .ok ((), s) := by
  cases b with
  | false => rfl
  | true => exact aligned_of_mod (hal rfl) s

/-! ### Loads -/

theorem InHeap.loadLane {ln : Lane} (hin : InHeap s ln.team T x n pa) :
    Machine.loadParts ln [s.heapPart T x n pa] s = .ok ([.bytes (s.teamBytes ln.team pa n)], s) := by
  have hbad : (s.heapPart T x n pa).badWord? s (some ln.team) = none := by
    simp [Part.badWord?, State.heapPart, hin.sound]
  unfold State.heapPart at hbad ⊢
  simp only [Machine.loadParts, M.bind_apply, M.get_apply, hbad, readParts, M.pure_apply, List.append_nil]

theorem InHeap.loadParts (hin : InHeap s c.team T x n pa) :
    loadParts (c.lane t) [s.heapPart T x n pa] s = .ok ([.bytes (s.teamBytes c.team pa n)], s) :=
  InHeap.loadLane (ln := c.lane t) hin

theorem acquireFirst_calm (hst : s.storesPending c.team = false) (ps : List Part) :
    acquireFirst (c.lane t) ps s = .ok ((), s) := by
  simp only [acquireFirst, M.bind_apply, M.get_apply, State.any_of_team_calm hst, Bool.false_and, Bool.false_eq_true, if_false,
    M.pure_apply]

/-- The effect of LD. -/
def bodyLd (d a : BitVec 8) (l : BitVec 4) (size : BitVec 3) (o : BitVec 2) (ln : Lane) : M Next := do
  let ea ← rd64 ln a
  if o == 1 then aligned ea.toNat (sizeBytes size) else pure ()
  loadGlobal (.ld d a l size o) ln ea.toNat d size l.toNat (o == 1)

theorem performs_ld (d a : BitVec 8) (l : BitVec 4) (size : BitVec 3) (o : BitVec 2) :
    Performs (.ld d a l size o) (bodyLd d a l size o) := fun s => ⟨_, exec_ld d a l size o s⟩

theorem InHeap.loadGlobal (hin : InHeap s c.team T x (sizeBytes size) pa) (hs : Solo s i c t T G h)
    (hds : ∀ r ∈ loadDest d size, r.toNat < 220) (j : Instr) (acquire : Bool) :
    loadGlobal j (c.lane t) x d size l.toNat acquire s = .ok (none, s.modThread c.team t fun _ =>
      h.expectAll (loadDest d size) l (loadVals false size (s.teamBytes c.team pa (sizeBytes size)))) := by
  have hremote : [s.heapPart T x (sizeBytes size) pa].any Part.isRemote = false := rfl
  have hcheck := hin.checkAccess hs.toAt ⟨true, false, false⟩ accLoad rfl
  have hloaded := hs.later hds l.toNat true (loadVals false size (s.teamBytes c.team pa (sizeBytes size)))
  rw [Thread.await_mem] at hloaded
  unfold Machine.loadGlobal
  cases acquire <;>
    simp only [M.bind_apply, hcheck, hremote, Bool.false_eq_true, if_false, if_true, hin.orderBefore hs.toSole,
      acquireFirst_calm hin.quiet.1, hin.loadParts, awaitParts, partsReady, finishParts, partsBad, Option.map_some,
      List.append_nil, List.findSome?_cons, List.findSome?_nil, M.pure_apply, seq_apply, loaded, destCodes_thread] <;>
    exact hloaded ▸ rfl

theorem doesIf_ld (d a : BitVec 8) (l : BitVec 4) (size : BitVec 3) (o : BitVec 2) (pa : Nat) :
    DoesIf (.ld d a l size o)
      (fun s T _ h => ∃ k, s.cur.map (·.team) = some k ∧ InHeap s k T (h.pair a).toNat (sizeBytes size) pa ∧
        (o = 1 → (h.pair a).toNat % sizeBytes size = 0))
      fun s _ _ _ h => h.expectAll (loadDest d size) l (loadVals false size (match s.cur with
        | some c => s.teamBytes c.team pa (sizeBytes size)
        | none => [])) := by
  rintro s c t T G h hs ⟨k, hk, hin, hal⟩
  obtain rfl : c.team = k := by simpa [hs.cur] using hk
  have hds := hs.loadDest_lt (slot := .d) (d := d) (use := .wr) (size := size) (by simp)
  have hal' := aligned_if (s := s) (x := (h.pair a).toNat) (n := sizeBytes size) (o == 1) fun ho => hal (by simpa using ho)
  refine hs.ends_after (performs_ld d a l size o s) rfl ?_
  simp only [hs.cur]
  cases ho : o == 1 <;> rw [ho] at hal' <;>
    simp only [bodyLd, M.bind_apply, hs.rd64, ho, Bool.false_eq_true, if_false, if_true, hin.loadGlobal hs hds] at hal' ⊢
  rw [hal']
  exact hin.loadGlobal hs hds _ _

theorem traps_ld_misaligned (d a : BitVec 8) (l : BitVec 4) (size : BitVec 3) :
    Traps (.ld d a l size 1) (fun _ _ _ h => (h.pair a).toNat % sizeBytes size ≠ 0) Cause.misalignedData fun h => h.pair a :=
  fun s c t T G h hs hmis => hs.ends_trap (performs_ld d a l size 1 s) rfl (by
    simp [bodyLd, hs.rd64, aligned_of_not hmis])

/-! ### Stores -/

/-- The effect of ST. -/
def bodySt (d a : BitVec 8) (size : BitVec 3) (o : BitVec 2) (ln : Lane) : M Next := do
  let ea ← rd64 ln a
  if o == 1 then aligned ea.toNat (sizeBytes size) else pure ()
  storeGlobal ln ea.toNat d size (o == 1)

theorem performs_st (d a : BitVec 8) (l : BitVec 4) (size : BitVec 3) (o : BitVec 2) :
    Performs (.st d a l size o) (bodySt d a size o) := fun s => ⟨_, exec_st d a l size o s⟩

theorem Thread.data_length (h : Thread) (d : BitVec 8) (size : BitVec 3) : (h.data d size).length = sizeBytes size := by
  unfold Thread.data
  split
  · next h5 => simp [length_leBytes, sizeBytes, h5]
  · next h6 => simp [length_leBytes, sizeBytes, h6]
  · exact length_leBytes _ _

/-- The one part takes all of the data. -/
theorem writeParts_heapPart (u : State) (k : Nat) (o : Origin) (bs : List Byte) (hn : bs.length = n) :
    writeParts k o [s.heapPart T x n pa] bs u =
      .ok ((), u.storePart k o x pa ((s.ctx T.ctx).heap.hkind.extractLsb' 0 2) bs) := by
  simp [writeParts, State.heapPart, ← hn]

/-- The team after its porch has committed (R258, R302). -/
def Team.committed (T : Team) : Team := { T with revocable := false, porchSlot := none, porch := [] }

theorem State.team?_commitPorch {k : Nat} (hT : s.team? k = some T) :
    (s.commitPorch k).team? k = some (if T.revocable then T.committed else T) := by
  simp only [State.commitPorch, hT]
  split
  · exact State.team?_setTeam (s := { s with stores := _ }) hT _
  · exact hT

theorem State.commitPorch_remotes (s : State) (k : Nat) : (s.commitPorch k).remotes = s.remotes := by
  unfold State.commitPorch
  split
  · split <;> rfl
  · rfl

theorem State.remotesPending_commitPorch (s : State) (k j : Nat) :
    (s.commitPorch k).remotesPending j = s.remotesPending j := by
  simp only [State.remotesPending, State.commitPorch_remotes]

/-- A store that is no release (R159). -/
theorem InHeap.storeGlobal (hin : InHeap s c.team T x (sizeBytes size) pa) (hs : Solo s (.st d a l size o) c t T G h) :
    Machine.storeGlobal (c.lane t) x d size false s = .ok (none, s.storePart c.team (T.origin (.thread t)) x pa
      ((s.ctx T.ctx).heap.hkind.extractLsb' 0 2) (h.data d size)) := by
  have hcheck := hin.checkAccess hs.toAt ⟨false, true, false⟩ accStore rfl
  have hdata := hs.storeData (slot := .d) (d := d) (use := .rd) (size := size) (by simp)
  simp only [Machine.storeGlobal, M.bind_apply, hcheck, hdata, Bool.false_eq_true, if_false, hin.orderBefore hs.toSole,
    hs.getTeam, seq_apply, writeParts_heapPart s c.team _ _ (h.data_length d size)]

/-- A release commits the porch, and stands before every later store (R159, R255). -/
theorem InHeap.storeGlobal_release (hin : InHeap s c.team T x (sizeBytes size) pa)
    (hs : Solo s (.st d a l size o) c t T G h) :
    Machine.storeGlobal (c.lane t) x d size true s = .ok (none, ((s.commitPorch c.team).seal c.team).storePart c.team
      (T.origin (.thread t)) x pa ((s.ctx T.ctx).heap.hkind.extractLsb' 0 2) (h.data d size)) := by
  have hcheck := hin.checkAccess hs.toAt ⟨false, true, false⟩ accStore rfl
  have hdata := hs.storeData (slot := .d) (d := d) (use := .rd) (size := size) (by simp)
  have hremote : [s.heapPart T x (sizeBytes size) pa].any Part.isRemote = false := rfl
  have hre : ((s.commitPorch c.team).seal c.team).remotesPending c.team = false :=
    (s.remotesPending_commitPorch c.team c.team).trans hin.quiet.2
  have hT' : ((s.commitPorch c.team).seal c.team).team? c.team = some (if T.revocable then T.committed else T) :=
    State.team?_commitPorch hs.team
  have horigin : (if T.revocable then T.committed else T).origin (.thread t) = T.origin (.thread t) := by
    split <;> rfl
  simp only [Machine.storeGlobal, M.bind_apply, hcheck, hdata, if_true, pushFirst_apply, hs.pushPending,
    Bool.false_eq_true, if_false, hremote, commitPorch_apply, M.modify_apply, M.get_apply, hre, getTeam_apply hT', horigin,
    seq_apply, writeParts_heapPart _ c.team _ _ (h.data_length d size)]

theorem exec_st_of_heap (hs : Solo s (.st d a l size o) c t T G h) (hin : InHeap s c.team T (h.pair a).toNat (sizeBytes size) pa)
    (ho : o ≠ 1) : exec (.st d a l size o) s = .next ((s.storePart c.team (T.origin (.thread t)) (h.pair a).toNat pa
      ((s.ctx T.ctx).heap.hkind.extractLsb' 0 2) (h.data d size)).after c t fun h => h) := by
  have ho' : (o == 1) = false := by simpa using ho
  exact hs.ends_next (performs_st d a l size o s) rfl (by
    simp only [bodySt, M.bind_apply, hs.rd64, ho', Bool.false_eq_true, if_false, hin.storeGlobal hs])

theorem exec_st_release (hs : Solo s (.st d a l size o) c t T G h) (hin : InHeap s c.team T (h.pair a).toNat (sizeBytes size) pa)
    (ho : o = 1) (hal : (h.pair a).toNat % sizeBytes size = 0) : exec (.st d a l size o) s =
      .next ((((s.commitPorch c.team).seal c.team).storePart c.team (T.origin (.thread t)) (h.pair a).toNat pa
        ((s.ctx T.ctx).heap.hkind.extractLsb' 0 2) (h.data d size)).after c t fun h => h) := by
  have ho' : (o == 1) = true := by simpa using ho
  exact hs.ends_next (performs_st d a l size o s) rfl (by
    simp only [bodySt, M.bind_apply, hs.rd64, ho', if_true, aligned_of_mod hal, hin.storeGlobal_release hs])

theorem traps_st_misaligned (d a : BitVec 8) (l : BitVec 4) (size : BitVec 3) :
    Traps (.st d a l size 1) (fun _ _ _ h => (h.pair a).toNat % sizeBytes size ≠ 0) Cause.misalignedData fun h => h.pair a :=
  fun s c t T G h hs hmis => hs.ends_trap (performs_st d a l size 1 s) rfl (by
    simp [bodySt, hs.rd64, aligned_of_not hmis])

end Sys2Proof.Machine

open Sys2Proof Sys2Proof.Machine

/-- Settles O19: the one part that the heap triple makes of an access is loaded, or stored, with nothing to wait for. -/
theorem globalMemory : Obligations.GlobalMemory := fun d a l size o pa =>
  ⟨doesIf_ld d a l size o pa, fun _ _ _ _ _ _ hs hin => ⟨fun ho => exec_st_of_heap hs hin ho,
    fun ho hal => exec_st_release hs hin ho hal⟩, traps_ld_misaligned d a l size, traps_st_misaligned d a l size⟩
end

section
/-!
PROOFS. What a store leaves unchanged, and that the stored bytes read as the data (O56).
-/

namespace Sys2Proof.Machine

variable {s s' : State} {c : Issue} {t k : Nat} {T : Team} {G : Group} {h : Thread} {d a : BitVec 8} {l : BitVec 4}
  {size : BitVec 3} {o : BitVec 2} {x n pa : Nat}

/-! ### Writes on top of a byte -/

theorem cover_nil (a pa : Nat) (holes : List Nat) (b : Byte) : cover a pa [] holes b = b := by
  unfold cover
  split
  · rfl
  · rfl

theorem cover_outside {a pa : Nat} {bytes : List Byte} (ha : a < pa ∨ pa + bytes.length ≤ a) (holes : List Nat) (b : Byte) :
    cover a pa bytes holes b = b := by
  have : reaches a pa bytes holes = false := by
    unfold reaches
    obtain ha | ha := ha
    · simp [Nat.not_le.mpr ha]
    · simp [Nat.not_lt.mpr ha]
  simp [cover, this]

theorem cover_inside {pa i : Nat} {bytes : List Byte} (hi : i < bytes.length) (b : Byte) :
    cover (pa + i) pa bytes [] b = bytes[i] := by
  simp [cover, reaches, hi]

/-- A write is its first bytes and then the rest. -/
theorem cover_append (a pa : Nat) (xs ys : List Byte) (holes : List Nat) (b : Byte) :
    cover a (pa + xs.length) ys holes (cover a pa xs holes b) = cover a pa (xs ++ ys) holes b := by
  by_cases hhole : a ∈ holes
  · have hnone (p : Nat) (bs : List Byte) (b : Byte) : cover a p bs holes b = b := by simp [cover, reaches, hhole]
    simp only [hnone]
  · by_cases hlow : a < pa + xs.length
    · rw [cover_outside (.inl hlow)]
      by_cases hin : pa ≤ a
      · have hlen : a - pa < xs.length := by omega
        have hlen' : a < pa + (xs.length + ys.length) := by omega
        simp [cover, reaches, hin, hlow, hhole, hlen', List.getD_eq_getElem?_getD, List.getElem?_append_left hlen]
      · rw [cover_outside (.inl (Nat.not_le.mp hin)), cover_outside (.inl (Nat.not_le.mp hin))]
    · rw [cover_outside (pa := pa) (bytes := xs) (.inr (Nat.not_lt.mp hlow))]
      have hin : pa + xs.length ≤ a := Nat.not_lt.mp hlow
      have hin' : pa ≤ a := by omega
      have hsub : a - (pa + xs.length) = a - pa - xs.length := by omega
      have hlt : a < pa + (xs ++ ys).length ↔ a < pa + xs.length + ys.length := by simp; omega
      simp only [cover, reaches, hin, hin', hsub, hlt, List.getD_eq_getElem?_getD,
        List.getElem?_append_right (show xs.length ≤ a - pa by omega)]

theorem cover_pieces (a unit skew : Nat) (hu : 0 < unit) (T : Team) (k : Nat) (tag : StoreTag) (fuel x : Nat) (bs : List Byte)
    (hx : skew ≤ x) (hfuel : bs.length < fuel) (b : Byte) :
    ((pieces unit fuel x bs).map fun p => T.store k (pa + (p.1 - skew)) p.2 tag).foldl
      (fun b w => cover a w.pa w.bytes w.tag.holes b) b = cover a (pa + (x - skew)) bs tag.holes b := by
  induction fuel generalizing x bs b with
  | zero => omega
  | succ fuel ih =>
    by_cases hbs : bs = []
    · subst hbs
      simp [pieces, cover_nil]
    · have hpos : 0 < unit - x % unit := Nat.sub_pos_of_lt (Nat.mod_lt x hu)
      have hlen : 0 < bs.length := List.length_pos_iff.mpr hbs
      have hempty : bs.isEmpty = false := by simpa using hbs
      simp only [pieces, hempty, Bool.false_eq_true, if_false, List.map_cons, List.foldl_cons]
      rw [ih _ _ (by omega) (by simp; omega)]
      conv_rhs => rw [← List.take_append_drop (unit - x % unit) bs]
      rw [← cover_append]
      by_cases hshort : unit - x % unit ≤ bs.length
      · rw [List.length_take_of_le hshort, show pa + (x + (unit - x % unit) - skew) = pa + (x - skew) + (unit - x % unit) by omega]
        rfl
      · simp only [List.drop_eq_nil_of_le (Nat.le_of_not_le hshort), cover_nil]
        rfl

/-- The pieces of a store on its way cover what the store covers (R157, R178). -/
theorem cover_stores (a : Nat) (T : Team) (k pa : Nat) (bs : List Byte) (tag : StoreTag) (b : Byte) :
    (T.stores k pa bs tag).foldl (fun b w => cover a w.pa w.bytes w.tag.holes b) b = cover a pa bs tag.holes b := by
  unfold Team.stores
  rw [cover_pieces a _ tag.skew (by split <;> decide) T k tag _ _ bs (Nat.le_refl _) (Nat.lt_succ_self _),
    Nat.sub_self, Nat.add_zero]

/-! ### What the team sees after a store -/

theorem State.stores_filter_calm (hst : s.storesPending k = false) : s.stores.filter (fun w => w.team == k) = [] := by
  simpa [State.storesPending] using hst

theorem Team.stores_team (T : Team) (k pa : Nat) (bs : List Byte) (tag : StoreTag) :
    ∀ w ∈ T.stores k pa bs tag, (w.team == k) = true := by
  intro w hw
  obtain ⟨p, -, rfl⟩ := List.mem_map.mp hw
  simp [Team.store]

/-- What a list of stores covers does not change when marks of their order do. -/
theorem foldl_cover_map (a : Nat) (f : PendStore → PendStore)
    (hf : ∀ w, (f w).pa = w.pa ∧ (f w).bytes = w.bytes ∧ (f w).tag = w.tag) (ws : List PendStore) (b : Byte) :
    (ws.map f).foldl (fun b w => cover a w.pa w.bytes w.tag.holes b) b =
      ws.foldl (fun b w => cover a w.pa w.bytes w.tag.holes b) b := by
  induction ws generalizing b with
  | nil => rfl
  | cons w ws ih =>
    obtain ⟨hpa, hbytes, htag⟩ := hf w
    simp only [List.map_cons, List.foldl_cons, hpa, hbytes, htag, ih]

/-- The byte that the stores of a team that are on their way, and then its porch, leave. -/
def seen (ws : List PendStore) (ps : List PorchEntry) (a : Nat) (b : Byte) : Byte :=
  ps.foldl (fun b w => cover a w.pa w.bytes w.tag.holes b) (ws.foldl (fun b w => cover a w.pa w.bytes w.tag.holes b) b)

theorem State.teamByte_eq (hT : s.team? k = some T) (a : Nat) :
    s.teamByte k a = seen (s.stores.filter fun w => w.team == k) T.porch a (s.physByte a) := by
  simp only [State.teamByte, hT, seen]

theorem State.teamByte_calm (hT : s.team? k = some T) (hst : s.storesPending k = false) (a : Nat) :
    s.teamByte k a = seen [] T.porch a (s.physByte a) := by
  rw [State.teamByte_eq hT, State.stores_filter_calm hst]

/-- A committed porch covers what the porch covers. -/
theorem cover_commit (a : Nat) (T : Team) (k : Nat) (ps : List PorchEntry) (b : Byte) :
    (ps.flatMap fun e => (T.stores k e.pa e.bytes e.tag).map fun w => { w with sealed := e.sealed, commit := true }).foldl
      (fun b w => cover a w.pa w.bytes w.tag.holes b) b = ps.foldl (fun b w => cover a w.pa w.bytes w.tag.holes b) b := by
  induction ps generalizing b with
  | nil => rfl
  | cons e ps ih =>
    have he := foldl_cover_map a (fun w => { w with sealed := e.sealed, commit := true }) (fun _ => ⟨rfl, rfl, rfl⟩)
      (T.stores k e.pa e.bytes e.tag) b
    rw [List.flatMap_cons, List.foldl_append, he, cover_stores, ih]
    rfl

/-- The stores that a committed porch becomes. -/
def Team.commitStores (T : Team) (k : Nat) : List PendStore :=
  T.porch.flatMap fun e => (T.stores k e.pa e.bytes e.tag).map fun w => { w with sealed := e.sealed, commit := true }

theorem State.commitPorch_of_revocable (hT : s.team? k = some T) (hr : T.revocable = true) :
    s.commitPorch k = ({ s with stores := s.stores ++ T.commitStores k } : State).setTeam k T.committed := by
  simp only [State.commitPorch, hT, hr, if_true]
  rfl

theorem Team.commitStores_team (T : Team) (k : Nat) : ∀ w ∈ T.commitStores k, (w.team == k) = true := by
  intro w hw
  obtain ⟨e, -, hw⟩ := List.mem_flatMap.mp hw
  obtain ⟨v, hv, rfl⟩ := List.mem_map.mp hw
  exact T.stores_team k e.pa e.bytes e.tag v hv

theorem State.seal_filter (s : State) (k : Nat) : (s.seal k).stores.filter (fun w => w.team == k) =
    (s.stores.filter fun w => w.team == k).map fun w => { w with sealed := true } := by
  unfold State.seal
  induction s.stores with
  | nil => rfl
  | cons w ws ih =>
    by_cases hw : w.team = k
    · subst hw
      simpa using ih
    · simpa [hw] using ih

/-- What a store changes: the stores on their way, the porch, and the count of stores. -/
structure Stored (s s' : State) (k : Nat) (T : Team) (pa : Nat) (bs : List Byte) : Prop where
  mem : s'.mem = s.mem
  phys : ∀ a, s'.physByte a = s.physByte a
  team : ∃ T', s'.team? k = some T' ∧ T'.sp = T.sp ∧ T'.groups = T.groups ∧ T'.nbs = T.nbs
  seen : ∀ a, s'.teamByte k a = if T.revocable = true ∨ T.porch = [] then cover a pa bs [] (s.teamByte k a)
    else Machine.seen [] T.porch a (cover a pa bs [] (s.physByte a))

/-- The stores of the team after its porch has committed and been sealed. -/
theorem State.filter_committed (hT : s.team? k = some T) (hst : s.storesPending k = false) (hr : T.revocable = true) :
    ((s.commitPorch k).seal k).stores.filter (fun w => w.team == k) =
      (T.commitStores k).map fun w => { w with sealed := true } := by
  have hcs : (s.commitPorch k).stores = s.stores ++ T.commitStores k := by
    rw [State.commitPorch_of_revocable hT hr]
    rfl
  rw [State.seal_filter, hcs, List.filter_append, State.stores_filter_calm hst,
    List.filter_eq_self.mpr (T.commitStores_team k), List.nil_append]

theorem State.commitPorch_phys (s : State) (k a : Nat) : ((s.commitPorch k).seal k).physByte a = s.physByte a := by
  unfold State.commitPorch
  split
  · split <;> rfl
  · rfl

theorem State.commitPorch_mem (s : State) (k : Nat) : ((s.commitPorch k).seal k).mem = s.mem := by
  unfold State.commitPorch
  split
  · split <;> rfl
  · rfl

theorem State.teamByte_append (hT : s.team? k = some T) (ws : List PendStore) (a : Nat) :
    ({ s with stores := s.stores ++ ws } : State).teamByte k a =
      seen (s.stores.filter (fun w => w.team == k) ++ ws.filter fun w => w.team == k) T.porch a (s.physByte a) := by
  rw [← List.filter_append]
  exact State.teamByte_eq (s := { s with stores := s.stores ++ ws }) hT a

theorem Team.stores_filter (T : Team) (k pa : Nat) (bs : List Byte) (tag : StoreTag) :
    (T.stores k pa bs tag).filter (fun w => w.team == k) = T.stores k pa bs tag :=
  List.filter_eq_self.mpr (T.stores_team k pa bs tag)

/-- An entry of the porch is free. -/
theorem State.stored_storePart_porch (hT : s.team? k = some T) (hst : s.storesPending k = false) (hr : T.revocable = true)
    (hroom : T.porch.length < 2048) (o : Origin) (va pa : Nat) (kind : BitVec 2) (bs : List Byte) :
    Stored s (s.storePart k o va pa kind bs) k T pa bs := by
  let tag : StoreTag := { origin := o, seq := s.nextSeq, kind := kind, bprio := T.bprio, skew := va % 8, holes := [] }
  have hs' : s.storePart k o va pa kind bs =
      ({ s with nextSeq := s.nextSeq + 1 } : State).setTeam k { T with porch := T.porch ++ [⟨pa, bs, tag, false⟩] } := by
    simp only [State.storePart, hT, hr, hroom, decide_true, Bool.and_self, if_true]
    rfl
  have hT' := State.team?_setTeam (s := { s with nextSeq := s.nextSeq + 1 }) hT
    { T with porch := T.porch ++ [⟨pa, bs, tag, false⟩] }
  rw [hs']
  refine ⟨rfl, fun _ => rfl, ⟨_, hT', rfl, rfl, rfl⟩, fun a => ?_⟩
  rw [State.teamByte_eq hT', if_pos (.inl hr), State.teamByte_calm hT hst]
  simp only [Machine.seen, List.foldl_append, List.foldl_cons, List.foldl_nil]
  rw [show (({ s with nextSeq := s.nextSeq + 1 } : State).setTeam k _).stores = s.stores from rfl,
    State.stores_filter_calm hst]
  rfl

/-- No entry of the porch is free: it commits before the store (R258). -/
theorem State.stored_storePart_full (hT : s.team? k = some T) (hst : s.storesPending k = false) (hr : T.revocable = true)
    (hfull : ¬ T.porch.length < 2048) (o : Origin) (va pa : Nat) (kind : BitVec 2) (bs : List Byte) :
    Stored s (s.storePart k o va pa kind bs) k T pa bs := by
  let tag : StoreTag := { origin := o, seq := s.nextSeq, kind := kind, bprio := T.bprio, skew := va % 8, holes := [] }
  obtain ⟨u, hu⟩ : ∃ u, u = (({ s with nextSeq := s.nextSeq + 1 } : State).commitPorch k).seal k := ⟨_, rfl⟩
  have hs' : s.storePart k o va pa kind bs = { u with stores := u.stores ++ T.stores k pa bs tag } := by
    simp only [State.storePart, hT, hr, hfull, decide_false, Bool.and_false, Bool.false_eq_true, if_false, if_true, hu]
    rfl
  have hT' : u.team? k = some T.committed := by
    rw [hu]
    exact (State.team?_commitPorch (s := { s with nextSeq := s.nextSeq + 1 }) hT).trans (by rw [if_pos hr])
  have hstores : u.stores.filter (fun w => w.team == k) = (T.commitStores k).map fun w => { w with sealed := true } := by
    rw [hu]
    exact State.filter_committed (s := { s with nextSeq := s.nextSeq + 1 }) hT hst hr
  have hphys (a : Nat) : u.physByte a = s.physByte a := by
    rw [hu]
    exact State.commitPorch_phys _ k a
  have hmem : u.mem = s.mem := by
    rw [hu]
    exact State.commitPorch_mem _ k
  rw [hs']
  refine ⟨hmem, hphys, ⟨T.committed, hT', rfl, rfl, rfl⟩, fun a => ?_⟩
  have hnew : (({ u with stores := u.stores ++ T.stores k pa bs tag } : State).teamByte k a) =
      cover a pa bs [] (T.porch.foldl (fun b w => cover a w.pa w.bytes w.tag.holes b) (s.physByte a)) := by
    rw [State.teamByte_append hT', hstores, T.stores_filter, hphys]
    simp only [Machine.seen, List.foldl_append, cover_stores]
    rw [foldl_cover_map a (fun w => { w with sealed := true }) fun _ => ⟨rfl, rfl, rfl⟩, Team.commitStores, cover_commit]
    rfl
  rw [if_pos (.inl hr), State.teamByte_calm hT hst]
  exact hnew

/-- The team is irrevocable: the store goes on its way. -/
theorem State.stored_storePart_plain (hT : s.team? k = some T) (hst : s.storesPending k = false) (hr : T.revocable = false)
    (o : Origin) (va pa : Nat) (kind : BitVec 2) (bs : List Byte) :
    Stored s (s.storePart k o va pa kind bs) k T pa bs := by
  let tag : StoreTag := { origin := o, seq := s.nextSeq, kind := kind, bprio := T.bprio, skew := va % 8, holes := [] }
  have hs' : s.storePart k o va pa kind bs =
      { s with nextSeq := s.nextSeq + 1, stores := s.stores ++ T.stores k pa bs tag } := by
    simp only [State.storePart, hT, hr, Bool.false_and, Bool.false_eq_true, if_false]
    rfl
  rw [hs']
  refine ⟨rfl, fun _ => rfl, ⟨T, hT, rfl, rfl, rfl⟩, fun a => ?_⟩
  have hnew := State.teamByte_append (s := { s with nextSeq := s.nextSeq + 1 }) (k := k) hT (T.stores k pa bs tag) a
  have hfilter : ({ s with nextSeq := s.nextSeq + 1 } : State).stores.filter (fun w => w.team == k) = [] :=
    State.stores_filter_calm hst
  rw [hfilter, List.nil_append, T.stores_filter] at hnew
  refine hnew.trans ?_
  rw [State.teamByte_calm hT hst]
  by_cases hp : T.porch = []
  · rw [if_pos (.inr hp), hp]
    simp only [Machine.seen, cover_stores, List.foldl_nil]
    rfl
  · rw [if_neg (by simp [hr, hp])]
    simp only [Machine.seen, cover_stores, List.foldl_nil]
    rfl

theorem State.stored_storePart (hT : s.team? k = some T) (hst : s.storesPending k = false) (o : Origin) (va pa : Nat)
    (kind : BitVec 2) (bs : List Byte) : Stored s (s.storePart k o va pa kind bs) k T pa bs := by
  cases hr : T.revocable with
  | false => exact State.stored_storePart_plain hT hst hr o va pa kind bs
  | true =>
    by_cases hroom : T.porch.length < 2048
    · exact State.stored_storePart_porch hT hst hr hroom o va pa kind bs
    · exact State.stored_storePart_full hT hst hr hroom o va pa kind bs

/-! ### Reading the bytes of a store -/

theorem State.teamBytes_eq {bs : List Byte} (hb : ∀ i (hi : i < bs.length), s.teamByte k (pa + i) = bs[i]) :
    s.teamBytes k pa bs.length = bs := by
  induction bs generalizing pa with
  | nil => rfl
  | cons b bs ih =>
    have htail := ih (pa := pa + 1) fun i hi => by
      have := hb (i + 1) (by simpa using hi)
      rwa [List.getElem_cons_succ, ← Nat.add_assoc, Nat.add_right_comm] at this
    have hhead := hb 0 (by simp)
    rw [Nat.add_zero, List.getElem_cons_zero] at hhead
    simp only [List.length_cons, State.teamBytes, hhead, htail]

theorem readBytes_eq {m : List Host.Cell} {bs : List Byte} (hb : ∀ i (hi : i < bs.length), readByte m (x + i) = bs[i]) :
    readBytes m x bs.length = bs := by
  induction bs generalizing x with
  | nil => rfl
  | cons b bs ih =>
    have htail := ih (x := x + 1) fun i hi => by
      have := hb (i + 1) (by simpa using hi)
      rwa [List.getElem_cons_succ, ← Nat.add_assoc, Nat.add_right_comm] at this
    have hhead := hb 0 (by simp)
    rw [Nat.add_zero, List.getElem_cons_zero] at hhead
    simp only [List.length_cons, readBytes, hhead, htail]

theorem readBytes_writeBytes {m : List Host.Cell} (hm : memWf m = true) (x : Nat) (bs : List Byte) :
    readBytes (writeBytes m x bs) x bs.length = bs :=
  readBytes_eq fun i hi => readByte_writeBytes_inside hm x bs i hi

theorem seen_congr (ps : List PorchEntry) (a : Nat) {b b' : Byte} (hb : b = b') : seen [] ps a b = seen [] ps a b' := by
  rw [hb]

/-- What the team sees outside a store's bytes is what it saw. -/
theorem Stored.teamByte_outside {bs : List Byte} (hp : Stored s s' k T pa bs) (hT : s.team? k = some T)
    (hst : s.storesPending k = false) {y : Nat} (hy : y < pa ∨ pa + bs.length ≤ y) : s'.teamByte k y = s.teamByte k y := by
  rw [hp.seen y]
  split
  · exact cover_outside hy [] _
  · rw [cover_outside hy, State.teamByte_calm hT hst]

theorem Stored.teamBytes {bs : List Byte} (hp : Stored s s' k T pa bs) (hporch : T.revocable = false → T.porch = []) :
    s'.teamBytes k pa bs.length = bs :=
  State.teamBytes_eq fun i hi => by
    have hcase : T.revocable = true ∨ T.porch = [] := by
      cases hr : T.revocable
      · exact .inr (hporch hr)
      · exact .inl rfl
    rw [hp.seen, if_pos hcase, cover_inside hi]

theorem State.writeLocal_mem (s : State) (l : Local) (bs : List Byte) : (s.writeLocal l bs).mem = s.mem := by
  unfold State.writeLocal
  split <;> rfl

theorem State.writeLocal_stores (s : State) (l : Local) (bs : List Byte) : (s.writeLocal l bs).stores = s.stores := by
  unfold State.writeLocal
  split <;> rfl

/-- A thread's own changes are not seen in memory. -/
theorem Stored.after {bs : List Byte} (hp : Stored s s' c.team T pa bs) (f : Thread → Thread) :
    Stored s (s'.after c t f) c.team T pa bs := by
  obtain ⟨T', hT', hsp, hgroups, hnbs⟩ := hp.team
  have hteam := s'.team?_after_self c t f hT'
  refine ⟨hp.mem, hp.phys, ⟨_, hteam, hsp, hgroups, hnbs⟩, fun a => ?_⟩
  rw [← hp.seen a, State.teamByte_eq hteam, State.teamByte_eq hT']
  rfl

end Sys2Proof.Machine

open Sys2Proof Sys2Proof.Machine

/-- Settles O56: STL writes its bytes of one scratchpad, and ST covers its bytes of what the team sees. -/
theorem frameOfStores : Obligations.FrameOfStores := by
  intro d a l size o s s' c t T G h pa ho
  refine ⟨fun hs hown hrc hexec => ?_, fun hs hin hexec => ?_⟩
  · have hnext := exec_stl_of_own hs hown (fun h => absurd h ho) fun _ => hrc
    obtain rfl := Host.Outcome.next.inj (hexec.symm.trans hnext)
    have hT' := State.team?_after_self (s.writeLocal ⟨c.team, (h.val a).toNat, false⟩ (h.data d size)) c t (fun h => h)
      (State.team?_writeLocal hs.team (h.val a).toNat (h.data d size))
    have hlen := h.data_length d size
    refine ⟨?_, ?_, _, hT', fun y hy => ?_, fun hm => ?_, rfl, rfl, rfl⟩
    · exact State.writeLocal_mem s _ _
    · exact State.writeLocal_stores s _ _
    · exact readByte_writeBytes_outside _ (by rwa [hlen])
    · rw [← hlen]
      exact readBytes_writeBytes hm _ _
  · have hnext := exec_st_of_heap hs hin ho
    obtain rfl := Host.Outcome.next.inj (hexec.symm.trans hnext)
    have hstored := (State.stored_storePart hs.team hin.quiet.1 (T.origin (.thread t)) (h.pair a).toNat pa
      ((s.ctx T.ctx).heap.hkind.extractLsb' 0 2) (h.data d size)).after (c := c) (t := t) fun h => h
    have hlen := h.data_length d size
    refine ⟨hstored.mem, fun y hy => hstored.teamByte_outside hs.team hin.quiet.1 (by rwa [hlen]), fun hporch => ?_,
      hstored.team⟩
    rw [← hlen]
    exact hstored.teamBytes hporch
end

section
/-!
PROOFS. Fences (O21).
-/

namespace Sys2Proof.Machine

variable {s u : State} {c : Issue} {t k : Nat} {T T' : Team} {G : Group} {h : Thread} {sc : BitVec 5} {b : BitVec 3}

theorem performs_fence (sc : BitVec 5) (b : BitVec 3) : Performs (.fence sc b) (bodyFence sc b) := fun s => ⟨_, exec_fence sc b s⟩

theorem State.commitPorch_cur (s : State) (k : Nat) : (s.commitPorch k).cur = s.cur := by
  unfold State.commitPorch
  split
  · split <;> rfl
  · rfl

/-- The team as its commit leaves it. -/
def Team.afterCommit (T : Team) : Team := if T.revocable then T.committed else T

theorem At.commitPorch (hs : At s c t T G h) : At (s.commitPorch c.team) c t T.afterCommit G h := by
  refine hs.of_team (s.commitPorch_cur c.team) (State.team?_commitPorch hs.team) ?_ ?_ ?_ ?_ ?_ <;>
    (unfold Team.afterCommit; split <;> rfl)

/-- The thread with its b register written. -/
def Thread.putB (h : Thread) (b : BitVec 3) (v : Bool) : Thread := { h with b := setBit h.b b v }

theorem wrB_putB (u : State) (c : Issue) (t : Nat) (b : BitVec 3) (v : Bool) :
    wrB (c.lane t) b v u = .ok ((), u.modThread c.team t (·.putB b v)) := rfl

/-- A thread that no remote access of failed has nothing to report. -/
theorem At.reportRemote_none (hs : At u c t T G h) (hf : h.remoteFail = none) (b : BitVec 3) :
    reportRemote (c.lane t) b u = .ok ((), u.modThread c.team t (·.putB b false)) := by
  simp only [reportRemote, M.bind_apply, hs.getThread, hf, Option.isSome_none, wrB_putB, M.pure_apply]

/-- What a thread reports of a remote access that failed at an address (R166). -/
def Thread.reported (h : Thread) (b : BitVec 3) (addr : Word64) : Thread :=
  if h.tcause.getLsbD 8 then { h with b := setBit h.b b true, remoteFail := none }
  else { h with b := setBit h.b b true, remoteFail := none, tcause := Cause.remoteAccess.setWidth 32, taddr := addr }

theorem At.reportRemote_some (hs : At u c t T G h) {addr : Word64} (hf : h.remoteFail = some addr) (b : BitVec 3) :
    reportRemote (c.lane t) b u = .ok ((), u.modThread c.team t (·.reported b addr)) := by
  simp only [reportRemote, M.bind_apply, hs.getThread, hf, Option.isSome_some, wrB_putB, modThread_apply,
    State.modThread_modThread]
  refine congrArg (fun u => Except.ok ((), u)) (State.modThread_congr hs.team hs.thread ?_)
  unfold Thread.reported Thread.putB
  cases h.tcause.getLsbD 8 <;> simp

/-- R166: what the fence waits for is over, and it has nothing to report. -/
theorem Solo.fence_quiet (hs : Solo s (.fence sc b) c t T G h) (hu : At u c t T' G h)
    (hdrain : 3 ≤ sc.toNat → drain c.team s = .ok ((), u)) (hnone : sc.toNat < 3 → u = s)
    (hf : sc ≠ 5 ∨ h.remoteFail = none) : exec (.fence sc b) s = .next (u.after c t (·.putB b false)) := by
  have hbody : bodyFence sc b (c.lane t) s = .ok (none, u.modThread c.team t (·.putB b false)) := by
    have hwrite : (if sc = 5#5 then reportRemote (c.lane t) b else wrB (c.lane t) b false) u =
        .ok ((), u.modThread c.team t (·.putB b false)) := by
      obtain h5 | hf := hf
      · have h5' : ¬ sc = 5#5 := h5
        rw [if_neg h5', wrB_putB]
      · split
        · exact hu.reportRemote_none hf b
        · rfl
    unfold bodyFence
    rw [seq_apply]
    by_cases h3 : 3 ≤ sc.toNat
    · simp only [h3, if_true, M.bind_apply, hdrain h3]
      exact hwrite ▸ rfl
    · obtain rfl := hnone (Nat.not_le.mp h3)
      simp only [h3, if_false]
      exact hwrite ▸ rfl
  exact hs.ends_after (performs_fence sc b s) rfl hbody

theorem doesIf_fence_narrow (sc : BitVec 5) (b : BitVec 3) :
    DoesIf (.fence sc b) (fun _ _ _ _ => sc.toNat < 3) fun _ _ _ _ h => h.putB b false := by
  intro s c t T G h hs h3
  have h5 : sc ≠ 5 := by
    rintro rfl
    exact absurd h3 (by decide)
  rw [hs.fence_quiet hs.toAt (fun h => absurd h (Nat.not_le.mpr h3)) (fun _ => rfl) (.inl h5)]
  exact congrArg _ (hs.after_congr rfl)

/-- The fence waits, with the porch committed, while something of the team is outstanding. -/
theorem exec_fence_waits (hs : Solo s (.fence sc b) c t T G h) (h3 : 3 ≤ sc.toNat) (hc : G.cancelled = false)
    (hout : (s.commitPorch c.team).storesPending c.team = true ∨ (s.commitPorch c.team).remotesPending c.team = true) :
    exec (.fence sc b) s = .next ((s.commitPorch c.team).markWait (c.lane t)) := by
  have hu := hs.commitPorch
  have hdrain : drain c.team s = .error (.hold (s.commitPorch c.team)) := by
    rw [drain_apply, if_pos (by simpa using hout)]
  refine hs.ends_hold (performs_fence sc b s) rfl ?_ hu.team hu.group hc
  simp only [bodyFence, seq_apply, h3, if_true, M.bind_apply, hdrain]

theorem pieces_ne_nil {unit fuel x : Nat} {bs : List Byte} (hf : 0 < fuel) (hbs : bs ≠ []) : pieces unit fuel x bs ≠ [] := by
  cases fuel with
  | zero => omega
  | succ fuel => simp [pieces, hbs]

/-- The commit of a porch that holds bytes has stores on their way. -/
theorem State.storesPending_commitPorch (hT : s.team? k = some T) (hr : T.revocable = true)
    (he : ∃ e ∈ T.porch, e.bytes ≠ []) : (s.commitPorch k).storesPending k = true := by
  obtain ⟨e, he, hbytes⟩ := he
  have hne : T.stores k e.pa e.bytes e.tag ≠ [] := by
    simpa [Team.stores] using pieces_ne_nil (Nat.succ_pos _) hbytes
  obtain ⟨w, hw⟩ := List.exists_mem_of_ne_nil _ hne
  have hmem : ({ w with sealed := e.sealed, commit := true } : PendStore) ∈ T.commitStores k :=
    List.mem_flatMap.mpr ⟨e, he, List.mem_map.mpr ⟨w, hw, rfl⟩⟩
  have hstores : (s.commitPorch k).stores = s.stores ++ T.commitStores k := by
    rw [State.commitPorch_of_revocable hT hr]
    rfl
  rw [State.storesPending, hstores, List.any_eq_true]
  exact ⟨_, List.mem_append_right _ hmem, T.commitStores_team k _ hmem⟩

/-- The commit of an empty porch leaves nothing on its way. -/
theorem drain_empty_porch (hT : s.team? k = some T) (hr : T.revocable = true) (hp : T.porch = [])
    (hst : s.storesPending k = false) (hre : s.remotesPending k = false) : drain k s = .ok ((), s.commitPorch k) := by
  have hstores : (s.commitPorch k).storesPending k = false := by
    have hws : T.commitStores k = [] := by simp [Team.commitStores, hp]
    rw [State.commitPorch_of_revocable hT hr, hws, List.append_nil]
    exact hst
  rw [drain_apply, hstores, State.remotesPending_commitPorch, hre]
  rfl

/-- R166: a system fence with a failure to report. -/
theorem exec_fence_reports (hs : Solo s (.fence 5 b) c t T G h) (hr : T.revocable = false)
    (hst : s.storesPending c.team = false) (hre : s.remotesPending c.team = false) {addr : Word64}
    (hf : h.remoteFail = some addr) : exec (.fence 5 b) s = .next (s.after c t (·.reported b addr)) := by
  refine hs.ends_after (performs_fence 5 b s) rfl ?_
  have h3 : 3 ≤ (5 : BitVec 5).toNat := by decide
  unfold bodyFence
  simp only [seq_apply, h3, if_true, M.bind_apply, drain_calm hs.team hr hst hre, hs.reportRemote_some hf]

end Sys2Proof.Machine

open Sys2Proof Sys2Proof.Machine

/-- Settles O21: the narrow scopes, what a wide one waits for, and its completion with and without a report. -/
theorem fences : Obligations.Fences := by
  intro sc b
  refine ⟨doesIf_fence_narrow sc b, fun s c t T G h hs h3 => ⟨fun hc hout => exec_fence_waits hs h3 hc hout,
    fun hr he hc => exec_fence_waits hs h3 hc (.inl (State.storesPending_commitPorch hs.team hr he)),
    fun hr hp hst hre hf => ?_⟩, fun s c t T G h hs h3 hr hst hre => ⟨fun hf => ?_, ?_, ?_⟩⟩
  · exact hs.fence_quiet hs.commitPorch (fun _ => drain_empty_porch hs.team hr hp hst hre)
      (fun hlt => absurd h3 (Nat.not_le.mpr hlt)) hf
  · exact hs.fence_quiet hs.toAt (fun _ => drain_calm hs.team hr hst hre) (fun _ => rfl) hf
  · rintro addr rfl hf hvalid
    rw [exec_fence_reports hs hr hst hre hf]
    exact congrArg _ (hs.after_congr (by simp only [Thread.reported, hvalid]; rfl))
  · rintro addr rfl hf hvalid
    rw [exec_fence_reports hs hr hst hre hf]
    exact congrArg _ (hs.after_congr (by simp only [Thread.reported, hvalid, if_true]))
end

section
/-!
PROOFS. The named-barrier instructions (O22).
-/

namespace Sys2Proof.Machine

variable {s u : State} {i : Instr} {c : Issue} {t : Nat} {T : Team} {G : Group} {h : Thread} {k : BitVec 4} {ind : Bool} {n : Nat}

/-! ### The barrier that an instruction names -/

theorem At.barrier (hs : At s c t T G h) (hn : namesNb G k ind n) : barrier (c.lane t) k ind s = .ok (n, s) := by
  obtain ⟨rfl, hle⟩ := hn
  cases ind with
  | false => rfl
  | true =>
    simp only [if_true] at hle
    simp [Machine.barrier, rdS, hs.getGroup, hle]

theorem At.whole (hs : At s c t T G h) (hn : namesNb G k ind n) (hb : (T.nb n).broken = false) :
    whole (c.lane t) k ind s = .ok (n, s) := by
  simp [Machine.whole, hs.barrier hn, hs.getTeam, hb]

theorem At.whole_broken (hs : At s c t T G h) (hn : namesNb G k ind n) (hb : (T.nb n).broken = true) :
    Machine.whole (c.lane t) k ind s = .error (.trap Cause.barrierBroken (T.nb n).badAddr) := by
  simp [Machine.whole, hs.barrier hn, hs.getTeam, hb]

theorem At.letGo (hs : At s c t T G h) (hw : notLetGo h.wait = true) : letGo (c.lane t) s = .ok ((), s) := by
  simp only [Machine.letGo, waitOf, M.bind_apply, hs.getThread, M.pure_apply]
  revert hw
  cases h.wait with
  | none => exact fun _ => rfl
  | some w =>
    cases w with
    | broken x => exact fun hw => Bool.noConfusion hw
    | _ => exact fun _ => rfl

theorem At.letGo_broken (hs : At s c t T G h) {x : Word64} (hw : h.wait = some (.broken x)) :
    Machine.letGo (c.lane t) s = .error (.trap Cause.barrierBroken x) := by
  simp [Machine.letGo, waitOf, hs.getThread, hw]

/-! ### Arrivals -/

theorem Team.nb_setNb_self (T : Team) (k : Nat) (B : Barrier) : (T.setNb k B).nb k = B := by
  simp [Team.nb, Team.setNb, SMap.getD]

theorem Team.checkPhase_groups (T : Team) (k : Nat) : (T.checkPhase k).groups = T.groups ∧ (T.checkPhase k).width = T.width := by
  unfold Team.checkPhase
  dsimp only
  split <;> exact ⟨rfl, rfl⟩

theorem Team.arrive_groups (T : Team) (k g : Nat) : (T.arrive k g).groups = T.groups ∧ (T.arrive k g).width = T.width :=
  Team.checkPhase_groups _ _

/-- What a thread, or any entry of a team's threads, keeps when one thread changes. -/
theorem SMap.all_modify {α : Type} (p : Nat × α → Bool) {f : α → α} (hf : ∀ k v, p (k, f v) = p (k, v)) (t : Nat) (m : SMap α) :
    (SMap.modify t f m).all p = m.all p := by
  induction m with
  | nil => rfl
  | cons e m ih =>
    simp only [SMap.modify]
    split
    · simp [hf]
    · simp [ih]

/-- Which marks are missing does not depend on a thread's registers (R170). -/
theorem Team.marksComplete_modThread (T : Team) (t : Nat) {f : Thread → Thread} (hf : ∀ h, (f h).ended = h.ended)
    (B : Barrier) (n g : Nat) :
    ((T.modThread t f).setNb n B).marksComplete n g = (T.setNb n B).marksComplete n g := by
  simp only [Team.marksComplete, Team.nb_setNb_self, Team.members, Team.setNb_threads, Team.setNb_width, List.all_filter]
  exact SMap.all_modify _ (fun k v => by simp [hf]) t T.threads

/-- R137: a group of a chain may not arrive at nb0. -/
theorem At.chainCheck (hs : At s c t T G h) (hbeat : n = 0 → G.beat = none) :
    (!(n == 0 && (T.group? (T.groupIx t)).any (fun G => G.beat.isSome))) = true := by
  by_cases h0 : n = 0
  · simp [h0, hs.group, hbeat h0]
  · simp [h0]

theorem At.arriveNb (hs : At u c t T G h) (hbeat : n = 0 → G.beat = none) (hroom : (T.nb n).pending ≠ (T.nb n).expected) :
    arriveNb c.team t n false u = .ok ((), u.modTeam c.team (·.arrive n (T.groupIx t))) := by
  have hfull : ((T.nb n).pending == (T.nb n).expected) = false := by simpa using hroom
  simp only [Machine.arriveNb, M.bind_apply, hs.getTeam, check_apply, hs.chainCheck hbeat, if_true, Bool.false_eq_true, if_false,
    hfull, Bool.not_false, modTeam_apply]

/-- R170: a mark that does not complete its group's. -/
theorem At.arriveNb_mark (hs : At u c t T G h) (hbeat : n = 0 → G.beat = none) {B : Barrier}
    (hB : B = { T.nb n with marks := (T.nb n).marks ++ [(T.groupIx t, t)] })
    (hmark : (T.groupIx t, t) ∉ (T.nb n).marks) (hopen : (T.setNb n B).marksComplete n (T.groupIx t) = false) :
    Machine.arriveNb c.team t n true u = .ok ((), u.modTeam c.team fun _ => T.setNb n B) := by
  subst hB
  have hnew : ((T.nb n).marks.contains (T.groupIx t, t)) = false := by simpa using hmark
  simp only [Machine.arriveNb, M.bind_apply, hs.getTeam, check_apply, hs.chainCheck hbeat, if_true, hnew, Bool.false_eq_true,
    if_false, hopen, modTeam_apply]

/-- The thread after a change that leaves it as it was to the checks of an issue. -/
theorem At.modThread (hs : At s c t T G h) {f : Thread → Thread} (hended : (f h).ended = h.ended) (hcount : (f h).count = h.count)
    (hlimit : (f h).limit = h.limit) : At (s.modThread c.team t f) c t (T.modThread t f) G (f h) where
  cur := hs.cur
  lanes := hs.lanes
  team := State.team?_modThread hs.team f
  runs := hs.runs
  thread := Team.thread?_modThread hs.thread f
  group := hs.group
  live := hended.trans hs.live
  below := by rw [hcount, hlimit]; exact hs.below

/-! ### The instructions -/

theorem exec_nbInit_of_solo {m : BitVec 6} (hs : Solo s (.nbInit k ind m) c t T G h) (hn : namesNb G k ind n)
    (hw : T.anyWaits n = false) (he : (T.nb n).engines = 0) :
    exec (.nbInit k ind m) s = .next ((s.modTeam c.team (·.setNb n
      { T.nb n with expected := m.toNat, pending := 0, bytes := 0, arrived := 0, broken := false, badAddr := 0,
                    participants := if n = 0 then (T.nb n).participants else 0 })).after c t fun h => h) := by
  refine hs.ends_next ⟨_, exec_nbInit k ind m s⟩ rfl ?_
  simp [bodyNbInit, seq_apply, hs.barrier hn, hs.getTeam, hw, he]

variable {a d : BitVec 8} {e : BitVec 3}

theorem exec_nbExpect_of_solo (hs : Solo s (.nbExpect k ind a) c t T G h) (hn : namesNb G k ind n)
    (hb : (T.nb n).broken = false) (hfit : (T.nb n).bytes + (h.val a).toNat < 2 ^ 24) :
    exec (.nbExpect k ind a) s = .next ((s.modTeam c.team (·.setNb n
      { T.nb n with bytes := (T.nb n).bytes + (h.val a).toNat })).after c t fun h => h) := by
  refine hs.ends_next ⟨_, exec_nbExpect k ind a s⟩ rfl ?_
  have hcheck : (decide ((h.val a).toNat < 2 ^ 24) && decide ((T.nb n).bytes + (h.val a).toNat < 2 ^ 24)) = true := by
    simp only [Bool.and_eq_true, decide_eq_true_eq]
    omega
  simp only [bodyNbExpect, seq_apply, M.bind_apply, hs.whole hn hb, hs.rd (hs.lt (r := a) (by simp)), hs.getTeam, check_apply,
    hcheck, if_true, modTeam_apply]

theorem exec_nbArr_of_solo (hs : Solo s (.nbArr k ind d false) c t T G h) (hn : namesNb G k ind n)
    (hb : (T.nb n).broken = false) (hroom : (T.nb n).pending ≠ (T.nb n).expected) (hbeat : n = 0 → G.beat = none) :
    exec (.nbArr k ind d false) s = .next (((s.modThread c.team t (·.put d (if (T.nb n).phase then 1 else 0))).modTeam c.team
      (·.arrive n (T.groupIx t))).after c t fun h => h) := by
  refine hs.ends_next ⟨_, exec_nbArr k ind d false s⟩ rfl ?_
  have hd : d.toNat < 220 := hs.lt (by simp)
  have hu := hs.toAt.modThread (f := (·.put d (if (T.nb n).phase then 1 else 0))) rfl rfl rfl
  simp only [bodyNbArr, seq_apply, M.bind_apply, hs.whole hn hb, theThread_lane, M.pure_apply, hs.getTeam, wr_put hd,
    hu.arriveNb hbeat hroom]
  rfl

/-- The change of a team as a whole, after one of its threads. -/
theorem State.modThread_modTeam_const (hT : s.team? c.team = some T) (f : Thread → Thread) (n : Nat) (B : Barrier) :
    (s.modThread c.team t f).modTeam c.team (fun _ => (T.modThread t f).setNb n B) =
      (s.modTeam c.team (·.setNb n B)).modThread c.team t f := by
  simp only [State.modThread, State.modTeam, SMap.modify_modify]
  congr 1
  refine SMap.modify_congr fun v hv => ?_
  rw [show v = T from Option.some.inj (hv.symm.trans hT)]
  rfl

theorem exec_nbArr_mark (hs : Solo s (.nbArr k ind d true) c t T G h) (hn : namesNb G k ind n)
    (hb : (T.nb n).broken = false) (hbeat : n = 0 → G.beat = none) (hmark : (T.groupIx t, t) ∉ (T.nb n).marks)
    (hopen : (T.setNb n { T.nb n with marks := (T.nb n).marks ++ [(T.groupIx t, t)] }).marksComplete n (T.groupIx t) = false) :
    exec (.nbArr k ind d true) s = .next ((s.modTeam c.team (·.setNb n
      { T.nb n with marks := (T.nb n).marks ++ [(T.groupIx t, t)] })).after c t
        (·.put d (if (T.nb n).phase then 1 else 0))) := by
  let f (h : Thread) : Thread := h.put d (if (T.nb n).phase then 1 else 0)
  let B : Barrier := { T.nb n with marks := (T.nb n).marks ++ [(T.groupIx t, t)] }
  have hd : d.toNat < 220 := hs.lt (by simp)
  have hu := hs.toAt.modThread (f := f) rfl rfl rfl
  have hopen' : ((T.modThread t f).setNb n B).marksComplete n (T.groupIx t) = false :=
    (T.marksComplete_modThread t (f := f) (fun _ => rfl) B n _).trans hopen
  refine hs.ends_after ⟨_, exec_nbArr k ind d true s⟩ rfl ?_
  rw [← State.modThread_modTeam_const hs.team f n B]
  simp only [bodyNbArr, seq_apply, M.bind_apply, hs.whole hn hb, theThread_lane, M.pure_apply, hs.getTeam, wr_put hd]
  exact (hu.arriveNb_mark (B := B) hbeat rfl hmark hopen') ▸ rfl

theorem exec_nbWait_passes (hs : Solo s (.nbWait k ind a) c t T G h) (hn : namesNb G k ind n) (hw : notLetGo h.wait = true)
    (hb : (T.nb n).broken = false) (hphase : (T.nb n).phase ≠ (h.val a).getLsbD 0) :
    exec (.nbWait k ind a) s = .next (s.after c t fun h => h) := by
  refine hs.ends_next ⟨_, exec_nbWait k ind a s⟩ rfl ?_
  have hne : ((T.nb n).phase != (h.val a).getLsbD 0) = true := bne_iff_ne.mpr hphase
  simp only [bodyNbWait, M.bind_apply, hs.letGo hw, hs.whole hn hb, theThread_lane, M.pure_apply,
    hs.rd (hs.lt (r := a) (by simp)), hs.getTeam, hne, if_true]

/-- A wait that the thread has already is left as it is. -/
theorem State.markWait_of_waits (hT : s.team? c.team = some T) (hh : T.thread? t = some h) (hw : h.wait.isSome = true) :
    s.markWait (c.lane t) = s := by
  have hnone : h.wait.isNone = false := by simpa using hw
  refine (State.modThread_congr hT hh (g := fun h => h) ?_).trans (s.modThread_id c.team t)
  simp [hnone]

theorem exec_nbWait_waits (hs : Solo s (.nbWait k ind a) c t T G h) (hn : namesNb G k ind n) (hw : notLetGo h.wait = true)
    (hb : (T.nb n).broken = false) (hphase : (T.nb n).phase = (h.val a).getLsbD 0) (hc : G.cancelled = false) :
    exec (.nbWait k ind a) s =
      .next (s.modThread c.team t fun h => { h with wait := some (.barrier n (T.nb n).phase) }) := by
  let f (h : Thread) : Thread := { h with wait := some (.barrier n (T.nb n).phase) }
  have hu := hs.toAt.modThread (f := f) rfl rfl rfl
  have hbody : bodyNbWait k ind a (c.lane t) s = .error (.hold (s.modThread c.team t f)) := by
    simp only [bodyNbWait, M.bind_apply, hs.letGo hw, hs.whole hn hb, theThread_lane, M.pure_apply,
      hs.rd (hs.lt (r := a) (by simp)), hs.getTeam, ← hphase, bne_self_eq_false, Bool.false_eq_true, if_false, modThread_apply,
      holdHere_apply]
    rfl
  rw [hs.ends_hold ⟨_, exec_nbWait k ind a s⟩ rfl hbody hu.team hu.group hc, State.markWait_of_waits hu.team hu.thread rfl]

theorem exec_nbTest_of_solo (hs : Solo s (.nbTest k ind a e) c t T G h) (hn : namesNb G k ind n)
    (hb : (T.nb n).broken = false) :
    exec (.nbTest k ind a e) s = .next (s.after c t fun h => h.putB e ((T.nb n).phase != (h.val a).getLsbD 0)) := by
  rw [← hs.after_congr (f := (·.putB e ((T.nb n).phase != (h.val a).getLsbD 0))) rfl]
  refine hs.ends_after ⟨_, exec_nbTest k ind a e s⟩ rfl ?_
  simp only [bodyNbTest, seq_apply, M.bind_apply, hs.whole hn hb, M.pure_apply, hs.rd (hs.lt (r := a) (by simp)), hs.getTeam,
    wrB_putB]

/-! ### Arriving and waiting -/

/-- The thread as it waits on the barrier. -/
def Thread.waitNb (h : Thread) (n : Nat) (phase : Bool) : Thread := { h with wait := some (.barrier n phase) }

/-- The team of an arrival, before it. -/
def Team.waitingNb (T : Team) (t n : Nat) : Team := T.modThread t (·.waitNb n (T.nb n).phase)

theorem At.arwBody (hs : At s c t T G h) (hn : namesNb G k ind n) (hw : notLetGo h.wait = true)
    (hb : (T.nb n).broken = false) (hroom : (T.nb n).pending ≠ (T.nb n).expected) (hbeat : n = 0 → G.beat = none)
    {u : State} (hu : u = (s.modThread c.team t (·.waitNb n (T.nb n).phase)).modTeam c.team (·.arrive n (T.groupIx t))) :
    bodyNbArw k ind false (c.lane t) s = restOrWait c.team t u := by
  subst hu
  have hu : At (s.modThread c.team t fun h => { h with wait := some (.barrier n (T.nb n).phase) }) c t (T.waitingNb t n) G
      (h.waitNb n (T.nb n).phase) := hs.modThread rfl rfl rfl
  simp only [bodyNbArw, M.bind_apply, hs.letGo hw, hs.whole hn hb, theThread_lane, M.pure_apply, hs.getTeam, modThread_apply,
    hu.arriveNb hbeat hroom]
  rfl

/-- An effect that ends with the thread at rest, released or waiting. -/
theorem Solo.ends_rest {body : Lane → M Next} {T' : Team} {G' : Group} {h' : Thread} (hs : Solo s i c t T G h)
    (hp : PerformsAt s i body) (hk : kindOk s T i = true) (hbody : body (c.lane t) s = restOrWait c.team t u)
    (hT' : u.team? c.team = some T') (hh' : T'.thread? t = some h') (hG' : T'.group? (T'.groupIx t) = some G')
    (hc : G'.cancelled = false) : exec i s = .next u := by
  cases hrest : h'.wait with
  | none =>
    have hend : body (c.lane t) s = .error (.done u) := by
      rw [hbody]
      simp [restOrWait, getThread_apply hT' hh', hrest]
    rw [hs.ends_done hp hk hend, State.endIfCancelled_of_group hT' hG' hc]
  | some w =>
    have hend : body (c.lane t) s = .error (.hold u) := by
      rw [hbody]
      simp [restOrWait, getThread_apply hT' hh', hrest]
    rw [hs.ends_hold hp hk hend hT' hG' hc, State.markWait_of_waits hT' hh' (by rw [hrest]; rfl)]

theorem exec_nbArw_of_solo (hs : Solo s (.nbArw k ind false) c t T G h) (hn : namesNb G k ind n) (hw : notLetGo h.wait = true)
    (hb : (T.nb n).broken = false) (hroom : (T.nb n).pending ≠ (T.nb n).expected) (hbeat : n = 0 → G.beat = none)
    (hc : G.cancelled = false) :
    exec (.nbArw k ind false) s = .next ((s.modThread c.team t (·.waitNb n (T.nb n).phase)).modTeam c.team
      (·.arrive n (T.groupIx t))) := by
  obtain ⟨u, hu⟩ : ∃ u, u = (s.modThread c.team t (·.waitNb n (T.nb n).phase)).modTeam c.team (·.arrive n (T.groupIx t)) :=
    ⟨_, rfl⟩
  have hbody := hs.toAt.arwBody hn hw hb hroom hbeat hu
  have hT' : u.team? c.team = some ((T.waitingNb t n).arrive n (T.groupIx t)) := by
    rw [hu, State.team?_modTeam, if_pos rfl, State.team?_modThread hs.team]
    rfl
  have hfate : ((T.waitingNb t n).arrive n (T.groupIx t)).fate t = some (h.waitNb n (T.nb n).phase).fate := by
    rw [Team.fate_arrive, Team.fate, Team.waitingNb, Team.thread?_modThread hs.thread]
    rfl
  obtain ⟨h', hh', -⟩ := Option.map_eq_some_iff.mp hfate
  obtain ⟨hgroups, hwidth⟩ := (T.waitingNb t n).arrive_groups n (T.groupIx t)
  have hG' : ((T.waitingNb t n).arrive n (T.groupIx t)).group? (((T.waitingNb t n).arrive n (T.groupIx t)).groupIx t) =
      some G := by
    rw [Team.group?, Team.groupIx, hgroups, hwidth]
    exact hs.group
  rw [← hu]
  exact hs.ends_rest ⟨_, exec_nbArw k ind false s⟩ rfl hbody hT' hh' hG' hc

/-- R168: the last arrival completes the phase and releases a thread that waits. -/
theorem Team.arrive_last {g : Nat} (hb : (T.nb n).broken = false) (hlast : (T.nb n).pending + 1 = (T.nb n).expected)
    (hbytes : (T.nb n).bytes = 0) (heng : (T.nb n).engines = 0) (hh : T.thread? t = some h)
    (hw : Wait.onNb n h.wait = true) :
    (T.arrive n g).thread? t = some (h.advance 4) ∧ ((T.arrive n g).nb n).phase = !(T.nb n).phase := by
  have harrive : T.arrive n g = ((T.setNb n { T.nb n with
      pending := (T.nb n).pending + 1, arrived := (T.nb n).arrived ||| BitVec.ofNat 32 (2 ^ g),
      participants := (T.nb n).participants ||| BitVec.ofNat 32 (2 ^ g) }).setNb n { T.nb n with
        phase := !(T.nb n).phase, pending := 0, arrived := 0,
        participants := (T.nb n).participants ||| BitVec.ofNat 32 (2 ^ g) }).waiters n (·.advance 4) (·.advance 4) := by
    simp [Team.arrive, Team.checkPhase, Team.nb_setNb_self, hlast, hbytes, heng, hb]
  rw [harrive]
  refine ⟨?_, ?_⟩
  · have hmap : T.threads.map (fun e => if Wait.onNb n e.2.wait then (e.1, e.2.advance 4) else e) =
        T.threads.map fun e => (e.1, if Wait.onNb n e.2.wait then e.2.advance 4 else e.2) :=
      List.map_congr_left fun e _ => by split <;> rfl
    unfold Team.thread? at hh
    simp only [Team.thread?, Team.waiters, Team.setNb_threads, hmap]
    rw [SMap.find?_map_value t (fun h : Thread => if Wait.onNb n h.wait then h.advance 4 else h), hh, Option.map_some, hw]
    rfl
  · exact congrArg Barrier.phase (Team.nb_setNb_self _ _ _)

theorem exec_nbArw_last (hs : Solo s (.nbArw k ind false) c t T G h) (hn : namesNb G k ind n) (hw : notLetGo h.wait = true)
    (hb : (T.nb n).broken = false) (hlast : (T.nb n).pending + 1 = (T.nb n).expected) (hbytes : (T.nb n).bytes = 0)
    (heng : (T.nb n).engines = 0) (hbeat : n = 0 → G.beat = none) (hc : G.cancelled = false) :
    ∃ s' h', exec (.nbArw k ind false) s = .next s' ∧ s'.thread? c.team t = some h' ∧ h'.pc = h.pc + 4 ∧ h'.wait = none ∧
      (s'.team? c.team).map (fun T' => (T'.nb n).phase) = some (!(T.nb n).phase) := by
  have hroom : (T.nb n).pending ≠ (T.nb n).expected := by omega
  obtain ⟨hthread, hphase⟩ := Team.arrive_last (T := T.waitingNb t n) (h := h.waitNb n (T.nb n).phase) (g := T.groupIx t) hb
    hlast hbytes heng (Team.thread?_modThread hs.thread _) (by simp [Thread.waitNb, Wait.onNb])
  refine ⟨_, (h.waitNb n (T.nb n).phase).advance 4, exec_nbArw_of_solo hs hn hw hb hroom hbeat hc, ?_, rfl, rfl, ?_⟩
  · rw [State.thread?, State.team?_modTeam, if_pos rfl, State.team?_modThread hs.team]
    exact hthread
  · rw [State.team?_modTeam, if_pos rfl, State.team?_modThread hs.team]
    exact congrArg some hphase

/-! ### Broken barriers -/

/-- Every instruction on a barrier but NB.INIT traps at a broken one (R169). -/
theorem exec_nb_broken (hi : i = .nbExpect k ind a ∨ i = .nbArr k ind d false ∨ i = .nbArr k ind d true ∨ i = .nbWait k ind a ∨
      i = .nbTest k ind a e ∨ i = .nbArw k ind false ∨ i = .nbArw k ind true) (hs : Solo s i c t T G h)
    (hn : namesNb G k ind n) (hw : notLetGo h.wait = true) (hb : (T.nb n).broken = true) :
    exec i s = .next (s.trapped c i t Cause.barrierBroken (T.nb n).badAddr none) := by
  obtain rfl | rfl | rfl | rfl | rfl | rfl | rfl := hi
  · exact hs.ends_trap ⟨_, exec_nbExpect k ind a s⟩ rfl (by simp [bodyNbExpect, seq_apply, hs.whole_broken hn hb])
  · exact hs.ends_trap ⟨_, exec_nbArr k ind d false s⟩ rfl (by simp [bodyNbArr, seq_apply, hs.whole_broken hn hb])
  · exact hs.ends_trap ⟨_, exec_nbArr k ind d true s⟩ rfl (by simp [bodyNbArr, seq_apply, hs.whole_broken hn hb])
  · exact hs.ends_trap ⟨_, exec_nbWait k ind a s⟩ rfl (by simp [bodyNbWait, hs.letGo hw, hs.whole_broken hn hb])
  · exact hs.ends_trap ⟨_, exec_nbTest k ind a e s⟩ rfl (by simp [bodyNbTest, seq_apply, hs.whole_broken hn hb])
  · exact hs.ends_trap ⟨_, exec_nbArw k ind false s⟩ rfl (by simp [bodyNbArw, hs.letGo hw, hs.whole_broken hn hb])
  · exact hs.ends_trap ⟨_, exec_nbArw k ind true s⟩ rfl (by simp [bodyNbArw, hs.letGo hw, hs.whole_broken hn hb])

/-- R172: a thread that was let go from a barrier that broke. -/
theorem exec_nb_let_go {x : Word64} (hi : i = .nbWait k ind a ∨ i = .nbArw k ind false ∨ i = .nbArw k ind true)
    (hs : Solo s i c t T G h) (hw : h.wait = some (.broken x)) :
    exec i s = .next (s.trapped c i t Cause.barrierBroken x none) := by
  obtain rfl | rfl | rfl := hi
  · exact hs.ends_trap ⟨_, exec_nbWait k ind a s⟩ rfl (by simp [bodyNbWait, hs.letGo_broken hw])
  · exact hs.ends_trap ⟨_, exec_nbArw k ind false s⟩ rfl (by simp [bodyNbArw, hs.letGo_broken hw])
  · exact hs.ends_trap ⟨_, exec_nbArw k ind true s⟩ rfl (by simp [bodyNbArw, hs.letGo_broken hw])

end Sys2Proof.Machine

open Sys2Proof Sys2Proof.Machine

/-- Settles O22: each instruction on a sound barrier, and the traps at a broken one. -/
theorem namedBarriers : Obligations.NamedBarriers := by
  intro k ind m a d e n s c t T G h hn
  refine ⟨?_, ?_, ?_, ?_, ?_, ?_, ?_, ?_, ?_, ?_, ?_⟩
  · intro hs hw he
    exact exec_nbInit_of_solo hs hn hw he
  · intro hs hb hfit
    exact exec_nbExpect_of_solo hs hn hb hfit
  · intro hs hb hroom hbeat
    exact exec_nbArr_of_solo hs hn hb hroom hbeat
  · intro hs hb hbeat hmark hopen
    exact exec_nbArr_mark hs hn hb hbeat hmark hopen
  · intro hs hw hb hphase
    exact exec_nbWait_passes hs hn hw hb hphase
  · intro hs hw hb hphase hc
    exact exec_nbWait_waits hs hn hw hb hphase hc
  · intro hs hb
    exact exec_nbTest_of_solo hs hn hb
  · intro hs hw hb hroom hbeat hc
    exact exec_nbArw_of_solo hs hn hw hb hroom hbeat hc
  · intro hs hw hb hlast hbytes heng hbeat hc
    exact exec_nbArw_last hs hn hw hb hlast hbytes heng hbeat hc
  · intro i hi hs hw hb
    exact exec_nb_broken hi hs hn hw hb
  · intro i x hi hs hw
    exact exec_nb_let_go hi hs hw
end

section
/-!
PROOFS. Atomics of global memory through the heap triple (O20).
-/

namespace Sys2Proof.Machine

variable {s u : State} {i : Instr} {c : Issue} {t : Nat} {T : Team} {G : Group} {h : Thread} {d a : BitVec 8} {l : BitVec 4}
  {sc : BitVec 2} {op : AtomOp} {f : Word → Word → Word} {x pa : Nat}

/-! ### A write in physical memory leaves the teams alone -/

/-- The teams and the issue in progress are the same. -/
structure SameTeams (s s' : State) : Prop where
  cur : s'.cur = s.cur
  teams : s'.teams = s.teams

theorem SameTeams.refl (s : State) : SameTeams s s := ⟨rfl, rfl⟩

theorem SameTeams.trans {s s' s'' : State} (h : SameTeams s s') (h' : SameTeams s' s'') : SameTeams s s'' :=
  ⟨h'.cur.trans h.cur, h'.teams.trans h.teams⟩

theorem SameTeams.foldl {α : Type} {f : State → α → State} {s s' : State} (h : SameTeams s s')
    (hf : ∀ s x, SameTeams s (f s x)) (l : List α) : SameTeams s (l.foldl f s') := by
  induction l generalizing s' with
  | nil => exact h
  | cons x l ih => exact ih (h.trans (hf s' x))

theorem sameTeams_discardXlat (s : State) (k : Nat) : SameTeams s (s.discardXlat k) := by
  unfold State.discardXlat
  split <;> exact ⟨rfl, rfl⟩

theorem sameTeams_setStore (s : State) (b z : Word64) : SameTeams s (s.setStore b z) := by
  unfold State.setStore
  dsimp only
  split
  · exact .refl s
  · unfold State.dropXlats
    refine SameTeams.foldl ?_ (fun s e => ?_) _
    · exact ⟨rfl, rfl⟩
    · exact sameTeams_discardXlat s e.1

theorem sameTeams_ctxWrite (s : State) (k : Nat) (v : Word64) : SameTeams s (s.ctxWrite k v) := by
  unfold State.ctxWrite
  dsimp only
  split
  · exact ⟨rfl, rfl⟩
  · split <;> exact ⟨rfl, rfl⟩

theorem sameTeams_attestNow (s : State) : SameTeams s s.attestNow := by
  unfold State.attestNow
  dsimp only
  split <;> exact ⟨rfl, rfl⟩

theorem sameTeams_clearLinden (s : State) (v : Word64) : SameTeams s (s.clearLinden v) := by
  unfold State.clearLinden
  split <;> exact ⟨rfl, rfl⟩

theorem sameTeams_retireBank (s : State) (v : Word64) : SameTeams s (s.retireBank v) := by
  unfold State.retireBank
  dsimp only
  split <;> exact ⟨rfl, rfl⟩

theorem sameTeams_setRoute (s : State) (v : Word64) : SameTeams s (s.setRoute v) := by
  unfold State.setRoute
  dsimp only
  split <;> exact ⟨rfl, rfl⟩

theorem sameTeams_mgmtWrite (s : State) (off : Nat) (v : Word64) : SameTeams s (s.mgmtWrite off v) := by
  unfold State.mgmtWrite
  split
  · exact .refl s
  · split
    case h_8 | h_9 => exact sameTeams_setStore ..
    case h_11 => exact sameTeams_clearLinden ..
    case h_13 => exact sameTeams_retireBank ..
    case h_14 => exact sameTeams_setRoute ..
    case h_1 | h_2 => split <;> exact ⟨rfl, rfl⟩
    case h_15 => split <;> first | exact sameTeams_attestNow s | exact .refl s
    case h_16 =>
      split
      · exact ⟨rfl, rfl⟩
      · split
        · exact ⟨rfl, rfl⟩
        · split
          · exact ⟨rfl, rfl⟩
          · split
            · exact sameTeams_ctxWrite ..
            · exact .refl s
    all_goals exact ⟨rfl, rfl⟩

theorem sameTeams_doorbell (s : State) (w : Nat) (v : Word) (p : BitVec 8) : SameTeams s (s.doorbell w v p) := by
  unfold State.doorbell
  split
  · exact .refl s
  · split
    · exact ⟨rfl, rfl⟩
    · split <;> exact ⟨rfl, rfl⟩

theorem sameTeams_writePhys (s : State) (pa : Nat) (bs : List Byte) (p : BitVec 8) : SameTeams s (s.writePhys pa bs p) := by
  unfold State.writePhys
  dsimp only
  split
  · exact (SameTeams.refl s).foldl (fun s j => sameTeams_mgmtWrite s _ _) _
  · split
    · exact ⟨rfl, rfl⟩
    · refine SameTeams.foldl ?_ (fun s w => ?_) _
      · exact ⟨rfl, rfl⟩
      · exact sameTeams_doorbell s w _ p

theorem SameTeams.team? (hu : SameTeams s u) (k : Nat) : u.team? k = s.team? k := by
  simp only [State.team?, hu.teams]

theorem SameTeams.at (hu : SameTeams s u) (hs : At s c t T G h) : At u c t T G h :=
  hs.of_team hu.cur ((hu.team? _).trans hs.team) rfl rfl rfl rfl rfl

/-! ### What comes before the access -/

theorem State.committing_calm {k : Nat} (hst : s.storesPending k = false) : s.committing k = false :=
  State.any_of_team_calm hst _

/-- What a global atomic waits for before it is ordered: nothing, in an irrevocable team (R258). -/
theorem At.atomFirst_plain (hs : At s c t T G h) (hst : s.storesPending c.team = false) (hr : T.revocable = false)
    (ps : List Part) : (if sc ≠ 0 then commitFirst c.team else entryFirst c.team ps) s = .ok ((), s) := by
  split
  · simp [commitFirst, hs.getTeam, hr, State.committing_calm hst]
  · simp [entryFirst, hs.getTeam, hr]

theorem At.entryFirst_room (hs : At s c t T G h) (hroom : T.porch.length < 2048) (ps : List Part) :
    entryFirst c.team ps s = .ok ((), s) := by
  simp [entryFirst, hs.getTeam, Nat.not_le.mpr hroom]

theorem At.entryFirst_full (hs : At s c t T G h) (hr : T.revocable = true) (hfull : 2048 ≤ T.porch.length) (n : Nat) :
    entryFirst c.team [s.heapPart T x n pa] s = .error (.hold ((s.commitPorch c.team).seal c.team)) := by
  have hremote : [s.heapPart T x n pa].any Part.isRemote = false := rfl
  simp [entryFirst, hs.getTeam, hr, hfull, hremote]

theorem At.commitFirst_revocable (hs : At s c t T G h) (hr : T.revocable = true) :
    commitFirst c.team s = .error (.hold (s.commitPorch c.team)) := by
  simp [commitFirst, hs.getTeam, hr, commitPorch_apply]

/-! ### The effect -/

/-- What the atomic makes of the state: the new value in the porch, or in memory (R258). -/
def State.atomStore (s : State) (c : Issue) (t : Nat) (T : Team) (x pa : Nat) (new : Option (List Byte)) : State :=
  if T.revocable then
    s.storePart c.team (T.origin (.thread t)) x pa ((s.ctx T.ctx).heap.hkind.extractLsb' 0 2) (new.getD [])
  else (new.map fun bs => s.writePhys pa bs T.bprio).getD s

theorem At.storePart_porch (hs : At s c t T G h) (hr : T.revocable = true) (hroom : T.porch.length < 2048) (o : Origin)
    (va : Nat) (kind : BitVec 2) (bs : List Byte) : ∃ T', At (s.storePart c.team o va pa kind bs) c t T' G h := by
  let tag : StoreTag := { origin := o, seq := s.nextSeq, kind := kind, bprio := T.bprio, skew := va % 8, holes := [] }
  let T' : Team := { T with porch := T.porch ++ [⟨pa, bs, tag, false⟩] }
  have hs' : s.storePart c.team o va pa kind bs = ({ s with nextSeq := s.nextSeq + 1 } : State).setTeam c.team T' := by
    unfold State.storePart
    simp only [hs.team]
    rw [if_pos (by simp [hr, hroom])]
  rw [hs']
  exact ⟨T', hs.of_team rfl (State.team?_setTeam (s := { s with nextSeq := s.nextSeq + 1 }) hs.team T') rfl rfl rfl rfl rfl⟩

theorem At.atomStore (hs : At s c t T G h) (hroom : T.revocable = true → T.porch.length < 2048) (new : Option (List Byte)) :
    ∃ T', At (s.atomStore c t T x pa new) c t T' G h := by
  unfold State.atomStore
  split
  · next hr => exact hs.storePart_porch hr (hroom hr) _ _ _ _
  · cases new with
    | none => exact ⟨T, hs⟩
    | some bs => exact ⟨T, (sameTeams_writePhys s pa bs T.bprio).at hs⟩

/-- An atomic with nothing to wait for: its new value is stored, and its result is on its way. -/
theorem InHeap.atomGlobal (hin : InHeap s c.team T x op.bytes pa) (hs : Sole s i c t T G h) (hal : x % op.bytes = 0)
    (hfirst : (if sc ≠ 0 then commitFirst c.team else entryFirst c.team [s.heapPart T x op.bytes pa]) s = .ok ((), s))
    (hroom : T.revocable = true → T.porch.length < 2048) {y : Word64} (hop : op.operand (c.lane t) d s = .ok (y, s))
    {m : Word64} (hm : m = BitVec.ofNat 64 (leNat (s.teamBytes c.team pa op.bytes)))
    {ds : List (BitVec 8)} {vs : List Word64} (hds : ∀ r ∈ ds, r.toNat < 220)
    (hres : op.result (c.lane t) d m y = (ds, vs)) :
    Machine.atomGlobal op (c.lane t) x d l.toNat sc s = .ok (none,
      (s.atomStore c t T x pa ((op.new m y).map fun v => leBytes op.bytes v.toNat)).modThread c.team t fun _ =>
        h.expectAll ds l vs) := by
  obtain ⟨T', hu⟩ := hs.toAt.atomStore (x := x) (pa := pa) hroom ((op.new m y).map fun v => leBytes op.bytes v.toNat)
  have hlater := hu.later hds l.toNat true vs
  rw [Thread.await_mem] at hlater
  have hcheck := hin.checkAccess hs.toAt ⟨true, true, false⟩ accAtomic rfl
  have hover : (s.stores.any fun w => w.team == c.team && decide (w.pa < pa + op.bytes) &&
      decide (pa < w.pa + w.bytes.length)) = false := by
    simpa only [Bool.and_assoc] using State.any_of_team_calm hin.quiet.1 fun w => decide (w.pa < pa + op.bytes) &&
      decide (pa < w.pa + w.bytes.length)
  have horder := hin.orderBefore hs false
  unfold State.heapPart at hcheck hfirst horder
  obtain hsc | hsc := eq_or_ne sc 0 <;> cases hr : T.revocable <;>
    simp only [hsc, hr, State.atomStore, Bool.false_eq_true, if_false, if_true, not_false_eq_true, not_true_eq_false,
      ne_eq] at hfirst hlater ⊢ <;>
    simp only [Machine.atomGlobal, M.bind_apply, aligned_of_mod hal, hcheck, hsc, hfirst, horder, hop,
      hs.getTeam, M.get_apply, hover, hr, Bool.and_false, Bool.false_eq_true, if_false, if_true, ne_eq,
      not_false_eq_true, not_true_eq_false, M.modify_apply, ← hm, hres, seq_apply, hlater, checkWords_sound hin.sound]

/-- An atomic that waits with its porch committed (R258). -/
theorem InHeap.atomGlobal_hold (hin : InHeap s c.team T x op.bytes pa) (hs : At s c t T G h) (hal : x % op.bytes = 0)
    (hfirst : (if sc ≠ 0 then commitFirst c.team else entryFirst c.team [s.heapPart T x op.bytes pa]) s = .error (.hold u)) :
    Machine.atomGlobal op (c.lane t) x d l.toNat sc s = .error (.hold u) := by
  have hcheck := hin.checkAccess hs ⟨true, true, false⟩ accAtomic rfl
  obtain hsc | hsc := eq_or_ne sc 0 <;>
    simp only [hsc, if_false, if_true, not_false_eq_true, not_true_eq_false, ne_eq] at hfirst <;>
    simp only [Machine.atomGlobal, M.bind_apply, aligned_of_mod hal, hcheck, hsc, hfirst, if_false, if_true, ne_eq,
      not_false_eq_true, not_true_eq_false]

/-! ### The instructions -/

/-- The instruction is the global atomic `op`. -/
structure GlobalAtom (i : Instr) (op : AtomOp) (d a : BitVec 8) (l : BitVec 4) (sc : BitVec 2) : Prop where
  kind : ∀ s T, kindOk s T i = true
  performs : Performs i fun ln => do atomGlobal op ln (← rd64 ln a).toNat d l.toNat sc

/-- An instruction that names the one register it reads and writes. -/
structure WordGlobalAtom (i : Instr) (op : AtomOp) (d a : BitVec 8) (l : BitVec 4) (sc : BitVec 2) : Prop
    extends GlobalAtom i op d a l sc where
  names : Names i [d]

/-- An instruction that names the pair it reads and writes. -/
structure PairGlobalAtom (i : Instr) (op : AtomOp) (d a : BitVec 8) (l : BitVec 4) (sc : BitVec 2) : Prop
    extends GlobalAtom i op d a l sc where
  names : ⟨.d, d, .rw, .pair⟩ ∈ i.flds

/-- Either the team is irrevocable, or the atomic has team scope and an entry of the porch is free (R258). -/
def AtomMay (T : Team) (sc : BitVec 2) : Prop := T.revocable = false ∨ (sc = 0 ∧ T.porch.length < 2048)

theorem AtomMay.first (hm : AtomMay T sc) (hs : At s c t T G h) (hst : s.storesPending c.team = false) (ps : List Part) :
    (if sc ≠ 0 then commitFirst c.team else entryFirst c.team ps) s = .ok ((), s) := by
  obtain hr | ⟨rfl, hroom⟩ := hm
  · exact hs.atomFirst_plain hst hr ps
  · exact hs.entryFirst_room hroom ps

theorem AtomMay.room (hm : AtomMay T sc) (hr : T.revocable = true) : T.porch.length < 2048 := by
  obtain hr' | ⟨-, hroom⟩ := hm
  · exact absurd (hr.symm.trans hr') (by decide)
  · exact hroom

theorem GlobalAtom.exec (hi : GlobalAtom i op d a l sc) (hs : Solo s i c t T G h)
    (hin : InHeap s c.team T (h.pair a).toNat op.bytes pa) (hal : (h.pair a).toNat % op.bytes = 0) (hmay : AtomMay T sc)
    {y m : Word64} (hop : op.operand (c.lane t) d s = .ok (y, s))
    (hm : m = BitVec.ofNat 64 (leNat (s.teamBytes c.team pa op.bytes)))
    {ds : List (BitVec 8)} {vs : List Word64} (hds : ∀ r ∈ ds, r.toNat < 220)
    (hres : op.result (c.lane t) d m y = (ds, vs)) {g : Thread → Thread} (hg : g h = h.expectAll ds l vs) :
    Machine.exec i s = .next ((s.atomStore c t T (h.pair a).toNat pa
      ((op.new m y).map fun v => leBytes op.bytes v.toNat)).after c t g) := by
  have hbody := hin.atomGlobal hs.toSole hal (hmay.first hs.toAt hin.quiet.1 _) (fun hr => hmay.room hr) (l := l) hop hm hds hres
  obtain ⟨T', hu⟩ := hs.toAt.atomStore (x := (h.pair a).toNat) (pa := pa) (fun hr => hmay.room hr)
    ((op.new m y).map fun v => leBytes op.bytes v.toNat)
  refine (hs.ends_after (hi.performs s) (hi.kind s T) (by simpa only [M.bind_apply, hs.rd64] using hbody)).trans ?_
  exact congrArg _ (State.modThread_congr hu.team hu.thread (by rw [hg]))

/-- An operation on words (R164). -/
theorem WordGlobalAtom.exec (hi : WordGlobalAtom i op d a l sc) (hop : WordAtom op f) (hs : Solo s i c t T G h)
    (hin : InHeap s c.team T (h.pair a).toNat 4 pa) (hal : (h.pair a).toNat % 4 = 0) (hmay : AtomMay T sc)
    {old : Word} (hold : old = BitVec.ofNat 32 (leNat (s.teamBytes c.team pa 4))) :
    Machine.exec i s = .next ((s.atomStore c t T (h.pair a).toNat pa
      (some (leBytes 4 (f old (h.val d)).toNat))).after c t fun h => h.expectAll [d] l [old.setWidth 64]) := by
  have hd : d.toNat < 220 := hs.lt_of_names hi.names (by simp)
  have hoperand : op.operand (c.lane t) d s = .ok ((h.val d).setWidth 64, s) := by
    simp only [hop.operand, M.bind_apply, hs.rd hd, M.pure_apply]
  subst hold
  rw [← hop.bytes] at hin hal
  have hexec := hi.toGlobalAtom.exec hs hin hal hmay hoperand rfl (ds := [d]) (by simpa using hd) (hop.result _ _ _ _)
    (g := fun h => h.expectAll [d] l _) rfl
  simpa only [hop.new, hop.bytes, setWidth_ofNat_64_32, BitVec.setWidth_setWidth_of_le _ (show 32 ≤ 64 by decide),
    BitVec.setWidth_eq, Option.map_some, BitVec.toNat_setWidth_of_le (show 32 ≤ 64 by decide)] using hexec

theorem State.atomStore_swap (hr : T.revocable = false) (bs : List Byte) :
    s.atomStore c t T x pa (some bs) = s.writePhys pa bs T.bprio := by
  simp [State.atomStore, hr]

theorem State.atomStore_porch (hr : T.revocable = true) (new : Option (List Byte)) :
    s.atomStore c t T x pa new = s.storePart c.team (T.origin (.thread t)) x pa
      ((s.ctx T.ctx).heap.hkind.extractLsb' 0 2) (new.getD []) := by
  simp [State.atomStore, hr]

/-- R258: an atomic of wider scope in a revocable team. -/
theorem GlobalAtom.commits (hi : GlobalAtom i op d a l sc) (hs : Solo s i c t T G h)
    (hin : InHeap s c.team T (h.pair a).toNat op.bytes pa) (hal : (h.pair a).toNat % op.bytes = 0) (hr : T.revocable = true)
    (hsc : sc ≠ 0) (hc : G.cancelled = false) :
    Machine.exec i s = .next ((s.commitPorch c.team).markWait ⟨c.team, .thread t⟩) := by
  have hbody := hin.atomGlobal_hold hs.toAt hal (sc := sc) (d := d) (l := l) (u := s.commitPorch c.team)
    (by rw [if_pos hsc, hs.commitFirst_revocable hr])
  have hT' : (s.commitPorch c.team).team? c.team = some T.committed := by rw [State.team?_commitPorch hs.team, if_pos hr]
  exact hs.ends_hold (hi.performs s) (hi.kind s T) (by simpa only [M.bind_apply, hs.rd64] using hbody)
    hT' hs.group hc

/-- R258: no entry of the porch is free. -/
theorem GlobalAtom.full (hi : GlobalAtom i op d a l 0) (hs : Solo s i c t T G h)
    (hin : InHeap s c.team T (h.pair a).toNat op.bytes pa) (hal : (h.pair a).toNat % op.bytes = 0) (hr : T.revocable = true)
    (hfull : 2048 ≤ T.porch.length) (hc : G.cancelled = false) :
    Machine.exec i s = .next (((s.commitPorch c.team).seal c.team).markWait ⟨c.team, .thread t⟩) := by
  have hbody := hin.atomGlobal_hold hs.toAt hal (sc := 0) (d := d) (l := l) (hs.entryFirst_full hr hfull _)
  have hT' : ((s.commitPorch c.team).seal c.team).team? c.team = some T.committed :=
    (State.team?_commitPorch hs.team).trans (by rw [if_pos hr])
  exact hs.ends_hold (hi.performs s) (hi.kind s T) (by simpa only [M.bind_apply, hs.rd64] using hbody)
    hT' hs.group hc

theorem globalAtom_add (d a : BitVec 8) (l : BitVec 4) (sc : BitVec 2) : WordGlobalAtom (.atomAdd d a l sc) .add d a l sc where
  kind _ _ := rfl
  performs := fun s => ⟨_, exec_atomAdd d a l sc s⟩
  names := by simp [Names]

theorem globalAtom_min (d a : BitVec 8) (l : BitVec 4) (sc : BitVec 2) : WordGlobalAtom (.atomMin d a l sc) .min d a l sc where
  kind _ _ := rfl
  performs := fun s => ⟨_, exec_atomMin d a l sc s⟩
  names := by simp [Names]

theorem globalAtom_max (d a : BitVec 8) (l : BitVec 4) (sc : BitVec 2) : WordGlobalAtom (.atomMax d a l sc) .max d a l sc where
  kind _ _ := rfl
  performs := fun s => ⟨_, exec_atomMax d a l sc s⟩
  names := by simp [Names]

theorem globalAtom_and (d a : BitVec 8) (l : BitVec 4) (sc : BitVec 2) : WordGlobalAtom (.atomAnd d a l sc) .and d a l sc where
  kind _ _ := rfl
  performs := fun s => ⟨_, exec_atomAnd d a l sc s⟩
  names := by simp [Names]

theorem globalAtom_or (d a : BitVec 8) (l : BitVec 4) (sc : BitVec 2) : WordGlobalAtom (.atomOr d a l sc) .or d a l sc where
  kind _ _ := rfl
  performs := fun s => ⟨_, exec_atomOr d a l sc s⟩
  names := by simp [Names]

theorem globalAtom_xchg (d a : BitVec 8) (l : BitVec 4) (sc : BitVec 2) : WordGlobalAtom (.atomXchg d a l sc) .xchg d a l sc where
  kind _ _ := rfl
  performs := fun s => ⟨_, exec_atomXchg d a l sc s⟩
  names := by simp [Names]

theorem globalAtom_add64 (d a : BitVec 8) (l : BitVec 4) (sc : BitVec 2) : PairGlobalAtom (.atomAdd64 d a l sc) .add64 d a l sc where
  kind _ _ := rfl
  performs := fun s => ⟨_, exec_atomAdd64 d a l sc s⟩
  names := by simp

theorem globalAtom_cas (d a : BitVec 8) (l : BitVec 4) (sc : BitVec 2) : PairGlobalAtom (.atomCas d a l sc) .cas d a l sc where
  kind _ _ := rfl
  performs := fun s => ⟨_, exec_atomCas d a l sc s⟩
  names := by simp

theorem exec_atomAdd64_of_heap (hs : Solo s (.atomAdd64 d a l sc) c t T G h) (hin : InHeap s c.team T (h.pair a).toNat 8 pa)
    (hal : (h.pair a).toNat % 8 = 0) (hmay : AtomMay T sc) {m : Word64}
    (hm : m = BitVec.ofNat 64 (leNat (s.teamBytes c.team pa 8))) :
    exec (.atomAdd64 d a l sc) s = .next ((s.atomStore c t T (h.pair a).toNat pa
      (some (leBytes 8 (m + h.pair d).toNat))).after c t fun h => h.expectAll [d, d + 1] l [m &&& 0xFFFFFFFF, m >>> 32]) := by
  have hi := globalAtom_add64 d a l sc
  have hlow : (m.setWidth 32 : Word).setWidth 64 = m &&& 0xFFFFFFFF := by
    apply BitVec.eq_of_toNat_eq
    rw [BitVec.toNat_setWidth_of_le (by decide), BitVec.toNat_setWidth, BitVec.toNat_and]
    exact (Nat.and_two_pow_sub_one_eq_mod _ 32).symm
  rw [← hlow]
  exact hi.toGlobalAtom.exec hs hin hal hmay (hs.rd64 d) hm (hs.pair_lt hi.names) rfl rfl

theorem exec_atomCas_of_heap (hs : Solo s (.atomCas d a l sc) c t T G h) (hin : InHeap s c.team T (h.pair a).toNat 4 pa)
    (hal : (h.pair a).toNat % 4 = 0) (hmay : AtomMay T sc) {old : Word}
    (hold : old = BitVec.ofNat 32 (leNat (s.teamBytes c.team pa 4))) :
    exec (.atomCas d a l sc) s = .next ((s.atomStore c t T (h.pair a).toNat pa
      (if old = h.val d then some (leBytes 4 (h.reg (d.toNat + 1)).toNat) else none)).after c t fun h =>
        h.expectAll [d, d + 1] l [old.setWidth 64, (h.reg (d.toNat + 1)).setWidth 64]) := by
  have hi := globalAtom_cas d a l sc
  have hm : (BitVec.ofNat 64 (leNat (s.teamBytes c.team pa 4))).setWidth 32 = old := (setWidth_ofNat_64_32 _).trans hold.symm
  have hres := casResult (c := c) (t := t) (d := d) (BitVec.ofNat 64 (leNat (s.teamBytes c.team pa 4))) (h.pair d)
  rw [hm, h.pair_shift] at hres
  have hexec := hi.toGlobalAtom.exec hs hin hal hmay (hs.rd64 d) rfl (hs.pair_lt hi.names) hres
    (g := fun h => h.expectAll [d, d + 1] l [old.setWidth 64, (h.reg (d.toNat + 1)).setWidth 64]) rfl
  have hnew : (AtomOp.cas.new (BitVec.ofNat 64 (leNat (s.teamBytes c.team pa 4))) (h.pair d)).map
      (fun v => leBytes 4 v.toNat) = if old = h.val d then some (leBytes 4 (h.reg (d.toNat + 1)).toNat) else none := by
    split
    · next heq =>
      rw [casNew_of_eq (by rw [hm, h.pair_low, heq]), h.pair_high, Option.map_some, BitVec.toNat_setWidth_of_le (by decide)]
    · next hne => rw [casNew_of_ne (by rw [hm, h.pair_low]; exact hne), Option.map_none]
  rw [← hnew]
  exact hexec

/-- What the obligation says of an operation on words in an irrevocable team. -/
theorem WordGlobalAtom.swaps (hi : WordGlobalAtom i op d a l sc) (hop : WordAtom op f) (hs : Solo s i c t T G h)
    (hready : InHeap s c.team T (h.pair a).toNat 4 pa ∧ (h.pair a).toNat % 4 = 0 ∧ T.revocable = false) :
    Machine.exec i s = .next ((s.writePhys pa
      (leBytes 4 (f (BitVec.ofNat 32 (leNat (s.teamBytes c.team pa 4))) (h.val d)).toNat) T.bprio).after c t fun h =>
        h.expectAll [d] l [(BitVec.ofNat 32 (leNat (s.teamBytes c.team pa 4))).setWidth 64]) := by
  obtain ⟨hin, hal, hr⟩ := hready
  rw [hi.exec hop hs hin hal (.inl hr) rfl, State.atomStore_swap hr]

/-- What the obligation says of one of team scope in a revocable team. -/
theorem WordGlobalAtom.porched (hi : WordGlobalAtom i op d a l 0) (hop : WordAtom op f) (hs : Solo s i c t T G h)
    (hin : InHeap s c.team T (h.pair a).toNat 4 pa) (hal : (h.pair a).toNat % 4 = 0) (hr : T.revocable = true) :
    (T.porch.length < 2048 → Machine.exec i s = .next ((s.storePart c.team (T.origin (.thread t)) (h.pair a).toNat pa
        ((s.ctx T.ctx).heap.hkind.extractLsb' 0 2)
        (leBytes 4 (f (BitVec.ofNat 32 (leNat (s.teamBytes c.team pa 4))) (h.val d)).toNat)).after c t fun h =>
          h.expectAll [d] l [(BitVec.ofNat 32 (leNat (s.teamBytes c.team pa 4))).setWidth 64])) ∧
    (2048 ≤ T.porch.length → G.cancelled = false →
      Machine.exec i s = .next (((s.commitPorch c.team).seal c.team).markWait ⟨c.team, .thread t⟩)) := by
  refine ⟨fun hroom => ?_, fun hfull hc => ?_⟩
  · rw [hi.exec hop hs hin hal (.inr ⟨rfl, hroom⟩) rfl, State.atomStore_porch hr]
    rfl
  · rw [← hop.bytes] at hin hal
    exact hi.toGlobalAtom.full hs hin hal hr hfull hc

theorem globalAtom_commits (hi : i = .atomAdd d a l sc ∨ i = .atomMin d a l sc ∨ i = .atomMax d a l sc ∨
      i = .atomAnd d a l sc ∨ i = .atomOr d a l sc ∨ i = .atomXchg d a l sc ∨ i = .atomCas d a l sc)
    (hs : Solo s i c t T G h) (hin : InHeap s c.team T (h.pair a).toNat 4 pa) (hal : (h.pair a).toNat % 4 = 0)
    (hr : T.revocable = true) (hsc : sc ≠ 0) (hc : G.cancelled = false) :
    exec i s = .next ((s.commitPorch c.team).markWait ⟨c.team, .thread t⟩) := by
  obtain rfl | rfl | rfl | rfl | rfl | rfl | rfl := hi
  · exact (globalAtom_add d a l sc).commits hs hin hal hr hsc hc
  · exact (globalAtom_min d a l sc).commits hs hin hal hr hsc hc
  · exact (globalAtom_max d a l sc).commits hs hin hal hr hsc hc
  · exact (globalAtom_and d a l sc).commits hs hin hal hr hsc hc
  · exact (globalAtom_or d a l sc).commits hs hin hal hr hsc hc
  · exact (globalAtom_xchg d a l sc).commits hs hin hal hr hsc hc
  · exact (globalAtom_cas d a l sc).commits hs hin hal hr hsc hc

end Sys2Proof.Machine

open Sys2Proof Sys2Proof.Machine

/-- Settles O20: an operation on words, a sum of pairs, and a compare, at the porch or in memory. -/
theorem globalAtomics : Obligations.GlobalAtomics := by
  intro d a l sc pa
  refine ⟨?_, ?_, ?_, ?_, ?_, ?_, ?_, ?_, ?_, ?_, ?_, ?_, ?_, ?_, ?_, ?_, ?_, ?_, ?_⟩
  · intro i hi s c t T G h hs hin hal hr hsc hc
    exact globalAtom_commits hi hs hin hal hr hsc hc
  · intro s c t T G h hs hin hal hr hsc hc
    exact (globalAtom_add64 d a l sc).commits hs hin hal hr hsc hc
  · intro s c t T G h hs hin hal hr
    have hporched := (globalAtom_add d a l 0).porched wordAtom_add hs hin hal hr
    exact hporched
  · intro s c t T G h hs hin hal hr
    have hporched := (globalAtom_min d a l 0).porched wordAtom_min hs hin hal hr
    exact hporched
  · intro s c t T G h hs hin hal hr
    have hporched := (globalAtom_max d a l 0).porched wordAtom_max hs hin hal hr
    exact hporched
  · intro s c t T G h hs hin hal hr
    have hporched := (globalAtom_and d a l 0).porched wordAtom_and hs hin hal hr
    exact hporched
  · intro s c t T G h hs hin hal hr
    have hporched := (globalAtom_or d a l 0).porched wordAtom_or hs hin hal hr
    exact hporched
  · intro s c t T G h hs hin hal hr
    have hporched := (globalAtom_xchg d a l 0).porched wordAtom_xchg hs hin hal hr
    exact hporched
  · intro s c t T G h hs hin hal hr hroom
    have hexec := exec_atomCas_of_heap hs hin hal (.inr ⟨rfl, hroom⟩) rfl
    rw [State.atomStore_porch hr] at hexec
    rw [hexec]
    split <;> rfl
  · intro s c t T G h hs hin hal hr hroom
    have hexec := exec_atomAdd64_of_heap hs hin hal (.inr ⟨rfl, hroom⟩) rfl
    rwa [State.atomStore_porch hr] at hexec
  · intro s c t T G h hs hready
    have hswap := (globalAtom_add d a l sc).swaps wordAtom_add hs hready
    exact hswap
  · intro s c t T G h hs hready
    have hswap := (globalAtom_min d a l sc).swaps wordAtom_min hs hready
    exact hswap
  · intro s c t T G h hs hready
    have hswap := (globalAtom_max d a l sc).swaps wordAtom_max hs hready
    exact hswap
  · intro s c t T G h hs hready
    have hswap := (globalAtom_and d a l sc).swaps wordAtom_and hs hready
    exact hswap
  · intro s c t T G h hs hready
    have hswap := (globalAtom_or d a l sc).swaps wordAtom_or hs hready
    exact hswap
  · intro s c t T G h hs hready
    have hswap := (globalAtom_xchg d a l sc).swaps wordAtom_xchg hs hready
    exact hswap
  · rintro s c t T G h hs ⟨hin, hal, hr⟩
    have hexec := exec_atomAdd64_of_heap hs hin hal (.inl hr) rfl
    rwa [State.atomStore_swap hr] at hexec
  · rintro s c t T G h hs ⟨hin, hal, hr⟩ heq
    have hexec := exec_atomCas_of_heap hs hin hal (.inl hr) rfl
    rwa [if_pos heq, State.atomStore_swap hr] at hexec
  · rintro s c t T G h hs ⟨hin, hal, hr⟩ hne
    have hexec := exec_atomCas_of_heap hs hin hal (.inl hr) rfl
    rw [if_neg hne] at hexec
    simpa [State.atomStore, hr] using hexec
end

section
/-!
PROOFS. Special registers, and moves between g and s registers (O27).
-/

namespace Sys2Proof.Machine

variable {s u : State} {i : Instr} {c : Issue} {t : Nat} {T : Team} {G : Group} {h : Thread} {d a ix : BitVec 8} {k : BitVec 6}

/-- An operand of one thread alone is uniform (R23). -/
theorem At.uniform (hs : At s c t T G h) (i : Instr) (f : Lane → M (List Word64)) : uniform i s f = true := by
  have hl : c.lanes = [c.lane t] := by simp [Issue.lanes, hs.lanes]
  simp only [Machine.uniform, hs.cur, hl, laneVals]
  cases (prepare (c.lane t) i >>= fun _ => f (c.lane t)) s <;> rfl

/-! ### Reading -/

theorem clockOf_total (hs : At s c t T G h) : ∃ n, clockOf c.team s = .ok (n, s) := by
  simp only [clockOf, M.bind_apply, hs.getTeam, M.get_apply]
  cases SMap.find? T.launch s.launches with
  | none => exact ⟨0, rfl⟩
  | some L => exact ⟨_, rfl⟩

theorem kindOk_srd (hreach : sregReach s T ix) (d : BitVec 8) : kindOk s T (.srd d ix) = true := by
  obtain ⟨hknown, hpriv⟩ := hreach
  change (true && (sregKnown ix.toNat && !(false && sregNotFront ix.toNat)) && !false &&
    (!decide (0x40 ≤ ix.toNat) || (s.ctx T.ctx).privileged)) = true
  by_cases h40 : 0x40 ≤ ix.toNat
  · simp [hknown, hpriv h40]
  · simp [hknown, h40]

theorem performs_srd (d ix : BitVec 8) : Performs (.srd d ix) (bodySrd d ix) := fun s => ⟨_, exec_srd d ix s⟩

theorem Solo.srd (hs : Solo s (.srd d ix) c t T G h) (hreach : sregReach s T ix) {v : Word}
    (hv : readSreg (c.lane t) ix.toNat s = .ok (v, s)) : exec (.srd d ix) s = .next (s.after c t (·.put d v)) := by
  refine hs.ends_after (performs_srd d ix s) (kindOk_srd hreach d) ?_
  simp only [bodySrd, seq_apply, M.bind_apply, hv, wr_put (hs.lt (r := d) (by simp))]

theorem At.readSreg_own (hs : At s c t T G h) {n : Nat} (hn : 0x08 ≤ n ∧ n ≤ 0x0D) :
    readSreg (c.lane t) n s = .ok (h.sreg n, s) := by
  obtain ⟨clock, hclock⟩ := clockOf_total hs
  simp [readSreg, hs.getTeam, hclock, hn, hs.getThread]

theorem At.readSreg_group (hs : At s c t T G h) {n : Nat} (hg : sregNotFront n = true) (hn : ¬ (0x08 ≤ n ∧ n ≤ 0x0D)) :
    readSreg (c.lane t) n s = .ok (T.groupSreg (T.groupIx t) G n, s) := by
  obtain ⟨clock, hclock⟩ := clockOf_total hs
  simp only [readSreg, M.bind_apply, hs.getTeam, hclock, hn, if_false, hg, if_true, hs.getGroup, M.pure_apply]

theorem At.readSreg_shared (hs : At s c t T G h) {n : Nat} (hg : sregNotFront n = false) {L : Launch}
    (hL : SMap.find? T.launch s.launches = some L) {t0 : Nat} (ht : L.t0 = some t0) :
    readSreg (c.lane t) n s = .ok (s.sharedSreg T (s.clock - t0) n, s) := by
  have hn : ¬ (0x08 ≤ n ∧ n ≤ 0x0D) := by
    rintro ⟨hlow, hhigh⟩
    simp [sregNotFront, hlow, hhigh] at hg
  simp only [readSreg, M.bind_apply, hs.getTeam, hs.clockOf hL ht, hn, if_false, hg, Bool.false_eq_true, M.get_apply,
    M.pure_apply]

/-! ### Writing -/

theorem Solo.performs_swr (hs : Solo s i c t T G h) (a ix : BitVec 8) :
    PerformsAt s (.swr a ix) (bodySwr true a ix) := by
  have he : exec (.swr a ix) s = issue (.swr a ix) (bodySwr true a ix) s := by rw [exec_swr, execSwr, hs.uniform]
  exact ⟨_, he⟩

theorem bodySwr_apply (hs : Solo s i c t T G h) (ha : a.toNat < 220) :
    bodySwr true a ix (c.lane t) s = seq (writeSreg (c.lane t) ix.toNat (h.val a)) s := by
  simp only [bodySwr, seq_apply, M.bind_apply, hs.rd ha, Bool.true_or, check_true, M.pure_apply]

/-- A write that succeeds. -/
theorem Solo.swr (hs : Solo s (.swr a ix) c t T G h) (hk : kindOk s T (.swr a ix) = true)
    (hw : writeSreg (c.lane t) ix.toNat (h.val a) s = .ok ((), u)) :
    exec (.swr a ix) s = .next (u.after c t fun h => h) :=
  hs.ends_next (hs.performs_swr a ix) hk (by rw [bodySwr_apply hs (hs.lt (by simp)), seq_apply, hw])

/-- A write to a register of the thread. -/
theorem Solo.swr_own (hs : Solo s (.swr a ix) c t T G h) (hk : kindOk s T (.swr a ix) = true) {f : Thread → Thread}
    (hw : writeSreg (c.lane t) ix.toNat (h.val a) s = .ok ((), s.modThread c.team t f)) :
    exec (.swr a ix) s = .next (s.after c t f) :=
  hs.ends_after (hs.performs_swr a ix) hk (by rw [bodySwr_apply hs (hs.lt (by simp)), seq_apply, hw])

theorem Solo.swr_trap (hs : Solo s (.swr a ix) c t T G h) (hk : kindOk s T (.swr a ix) = true) {cause : BitVec 8}
    (hw : writeSreg (c.lane t) ix.toNat (h.val a) s = .error (.trap cause 0)) :
    exec (.swr a ix) s = .next (s.trapped c (.swr a ix) t cause 0 none) :=
  hs.ends_trap (hs.performs_swr a ix) hk (by rw [bodySwr_apply hs (hs.lt (by simp)), seq_apply, hw])

theorem Solo.swr_waits (hs : Solo s (.swr a ix) c t T G h) (hk : kindOk s T (.swr a ix) = true)
    (hw : writeSreg (c.lane t) ix.toNat (h.val a) s = .error .retry) (hc : G.cancelled = false) :
    exec (.swr a ix) s = .next (s.markWait ⟨c.team, .thread t⟩) :=
  hs.ends_retry (hs.performs_swr a ix) hk (by rw [bodySwr_apply hs (hs.lt (by simp)), seq_apply, hw]) hc

theorem At.modGroupOf (hs : At s c t T G h) (f : Group → Group) :
    modGroupOf c.team t f s = .ok ((), s.modGroupAt c t T f) :=
  congrArg (fun u => Except.ok ((), u)) (State.modTeam_congr hs.team rfl)

theorem tempOk_iff (v : Word) :
    tempOk v = true ↔ fp32.isNan v.toNat = false ∧ (v.getLsbD 31 = false ∨ v = 0x80000000) := by
  simp [tempOk]

theorem At.writeSreg_temp (hs : At s c t T G h) {v : Word}
    (hv : fp32.isNan v.toNat = false ∧ (v.getLsbD 31 = false ∨ v = 0x80000000)) :
    writeSreg (c.lane t) 0x02 v s = .ok ((), s.modGroupAt c t T fun G => { G with temp := v }) := by
  simp [writeSreg, hs.getTeam, (tempOk_iff v).mpr hv, theThread_lane, hs.modGroupOf]

theorem At.writeSreg_noTemp (hs : At s c t T G h) {v : Word}
    (hv : fp32.isNan v.toNat = true ∨ (v.getLsbD 31 = true ∧ v ≠ 0x80000000)) :
    writeSreg (c.lane t) 0x02 v s = .error (.trap Cause.tempInvalid 0) := by
  have hno : tempOk v = false := by
    rw [← Bool.not_eq_true, tempOk_iff]
    rintro ⟨hnan, hsign⟩
    obtain hv | ⟨hneg, hne⟩ := hv
    · exact Bool.noConfusion (hv.symm.trans hnan)
    · obtain hpos | rfl := hsign
      · exact Bool.noConfusion (hneg.symm.trans hpos)
      · exact hne rfl
  simp [writeSreg, hs.getTeam, hno]

/-- What a register of the team receives. -/
theorem At.writeSreg_team (hs : At s c t T G h) (v : Word) :
    writeSreg (c.lane t) 0x03 v s = .ok ((), s.modTeam c.team fun T => { T with rseed := setLo T.rseed v }) ∧
    writeSreg (c.lane t) 0x04 v s = .ok ((), s.modTeam c.team fun T => { T with rseed := setHi T.rseed v }) ∧
    writeSreg (c.lane t) 0x05 v s = .ok ((), s.modTeam c.team fun T => { T with replay := v }) ∧
    writeSreg (c.lane t) 0x38 v s = .ok ((), s.modTeam c.team fun T => { T with bprio := v.setWidth 8 }) := by
  simp [writeSreg, hs.getTeam]

/-- An engine's register is written once the engine is at rest (R223). -/
theorem At.writeSreg_engine (hs : At s c t T G h) (v : Word) :
    writeSreg (c.lane t) 0x18 v s = (if T.mxBusy then .error .retry
      else .ok ((), s.modTeam c.team fun T => { T with mx := { T.mx with prog := v } })) ∧
    writeSreg (c.lane t) 0x19 v s = (if T.rshRunning then .error .retry
      else .ok ((), s.modTeam c.team fun T => { T with rsh := { T.rsh with entry := v.setWidth 16 } })) ∧
    writeSreg (c.lane t) 0x1A v s = (if T.rshRunning then .error .retry
      else .ok ((), s.modTeam c.team fun T => { T with rsh := { T.rsh with row := v.setWidth 16 } })) := by
  refine ⟨?_, ?_, ?_⟩ <;> simp only [writeSreg, M.bind_apply, hs.getTeam] <;> split <;> rfl

theorem Solo.performs_movs (hs : Solo s i c t T G h) (a : BitVec 8) (k : BitVec 6) :
    PerformsAt s (.movs a k) (bodyMovs true a k) := by
  have he : exec (.movs a k) s = issue (.movs a k) (bodyMovs true a k) s := by rw [exec_movs, execMovs, hs.uniform]
  exact ⟨_, he⟩

theorem exec_movs_of_solo (hs : Solo s (.movs a k) c t T G h) :
    exec (.movs a k) s = .next ((s.modGroupAt c t T (·.setSreg k.toNat (h.val a))).after c t fun h => h) := by
  refine hs.ends_next (hs.performs_movs a k) rfl ?_
  simp only [bodyMovs, seq_apply, M.bind_apply, hs.rd (hs.lt (r := a) (by simp)), check_true, M.pure_apply, theThread_lane,
    hs.modGroupOf]

theorem exec_smov_of_solo (hs : Solo s (.smov d k) c t T G h) :
    exec (.smov d k) s = .next (s.after c t (·.put d (G.sreg k.toNat))) := by
  refine hs.ends_after ⟨_, exec_smov d k s⟩ rfl ?_
  have hsreg : rdS (c.lane t) k.toNat s = .ok (G.sreg k.toNat, s) := by simp [rdS, hs.getGroup]
  simp only [bodySmov, seq_apply, M.bind_apply, hsreg, wr_put (hs.lt (r := d) (by simp))]

/-- R223: an engine that runs keeps its registers. -/
theorem exec_swr_engine_waits (hi : (ix = 0x19 ∨ ix = 0x1A) ∧ T.rsh.state = 1 ∨ ix = 0x18 ∧ T.mx.queue ≠ [])
    (hs : Solo s (.swr a ix) c t T G h) (hc : G.cancelled = false) :
    exec (.swr a ix) s = .next (s.markWait ⟨c.team, .thread t⟩) := by
  obtain ⟨hprog, hentry, hrow⟩ := hs.writeSreg_engine (h.val a)
  obtain ⟨rfl | rfl, hrun⟩ | ⟨rfl, hqueue⟩ := hi
  · exact hs.swr_waits rfl (hentry.trans (if_pos (by simp [Team.rshRunning, hrun]))) hc
  · exact hs.swr_waits rfl (hrow.trans (if_pos (by simp [Team.rshRunning, hrun]))) hc
  · exact hs.swr_waits rfl (hprog.trans (if_pos (by simp [Team.mxBusy, hqueue]))) hc

end Sys2Proof.Machine

open Sys2Proof Sys2Proof.Machine

/-- Settles O27: what each register gives, and what a write to each leaves in it. -/
theorem specialRegisters : Obligations.SpecialRegisters := by
  intro a d i k s c t T G h
  refine ⟨fun hs hreach => ⟨fun hlow hhigh => ?_, fun hg hn => ?_, fun hg L t0 hL ht => ?_⟩, fun hs => ?_, fun hs => ?_,
    fun hs hnan hsign => ?_, fun hs hv => ?_, fun hs => ?_, fun hs => ?_, fun hs => ?_, fun hs => ?_, fun hs => ?_,
    fun hs hq => ?_, fun hs hr => ?_, fun hs hr => ?_, fun i hi hs hc => ?_, fun hs => ?_, fun hs => ?_, fun hs => ?_⟩
  · exact hs.srd hreach (hs.readSreg_own ⟨hlow, hhigh⟩)
  · exact hs.srd hreach (hs.readSreg_group hg hn)
  · exact hs.srd hreach (hs.readSreg_shared hg hL ht)
  · exact hs.swr rfl (by simp [writeSreg, hs.getTeam, theThread_lane, hs.modGroupOf])
  · exact hs.swr rfl (by simp [writeSreg, hs.getTeam, theThread_lane, hs.modGroupOf])
  · exact hs.swr rfl (hs.writeSreg_temp ⟨hnan, hsign⟩)
  · exact hs.swr_trap rfl (hs.writeSreg_noTemp hv)
  · exact hs.swr rfl (hs.writeSreg_team (h.val a)).1
  · exact hs.swr rfl (hs.writeSreg_team (h.val a)).2.1
  · exact hs.swr rfl (hs.writeSreg_team (h.val a)).2.2.1
  · exact hs.swr_own rfl (by simp [writeSreg, hs.getTeam, theThread_lane])
  · exact hs.swr_own rfl (by simp [writeSreg, hs.getTeam, theThread_lane])
  · exact hs.swr rfl ((hs.writeSreg_engine (h.val a)).1.trans (if_neg (by simp [Team.mxBusy, hq])))
  · exact hs.swr rfl ((hs.writeSreg_engine (h.val a)).2.1.trans (if_neg (by simp [Team.rshRunning, hr])))
  · exact hs.swr rfl ((hs.writeSreg_engine (h.val a)).2.2.trans (if_neg (by simp [Team.rshRunning, hr])))
  · exact exec_swr_engine_waits hi hs hc
  · exact hs.swr rfl (hs.writeSreg_team (h.val a)).2.2.2
  · exact exec_movs_of_solo hs
  · exact exec_smov_of_solo hs
end

section
/-!
PROOFS. A kill may write the killer's own CTXCTL (O28): the completion word of a collective of the context that is killed
may be misaligned and lie in the management registers, and KILLCTL does not ask that the issuing context is live.
-/

namespace Sys2Proof.Machine

/-- The thread's g0 asks KILLCTL to kill context 1. -/
def killerThread : Thread := { Thread.create 0 0 with g := [(0, 0x80000001)] }

def killerTeam : Team := { listedTeam with threads := [(0, killerThread)] }

/-- The issuing context, privileged and not live. -/
def killerContext : Context := { Context.fresh with privileged := true }

/-- A context whose heap lies at physical address zero. -/
def victimContext : Context :=
  { Context.fresh with live := true, heap := { Context.fresh.heap with hb := 0, hl := 0x10000, ho := 0 } }

/-- A collective of the victim: its completion word lies one byte below CTXCTL of context 0, and its second byte says that a
value was not finite. -/
def victimCollective : Collective :=
  { ctx := 1, desc := List.replicate 48 0 ++ [0xFF, 0x1F] ++ List.replicate 14 0, priority := 0, chunk := 0, nonfinite := true,
    failed := false, out := [], wants := none }

/-- The management registers lie at physical address zero. -/
def killerState : State :=
  { State.reset with
      cur := some listedIssue, teams := [(0, killerTeam)], ctxs := [(0, killerContext), (1, victimContext)],
      collectives := [(0, victimCollective)], mgmt := { State.reset.mgmt with window := 0 } }

theorem solo_killerState : ∃ G, Solo killerState (.swr 0 0x4C) listedIssue 0 killerTeam G killerThread := by
  refine ⟨_, ⟨⟨⟨rfl, ⟨rfl, rfl⟩, rfl, ⟨.inl rfl, rfl⟩, rfl, rfl, rfl, ?_⟩, rfl, rfl⟩, rfl⟩⟩
  decide

/-- The kill makes the issuing context afresh. -/
theorem killBusy_killerState : ((((killerState.setCtx 0 { killerContext with
    killctl := 0x80000001 }).startKill 0 1).ctx 0).killBusy) = false := by rfl

end Sys2Proof.Machine

open Sys2Proof Sys2Proof.Machine

/-- Refutes O28: in `killerState` the kill's completion word writes CTXCTL of the issuing context, which is created anew and
no longer says that its kill is in progress. -/
theorem not_privilege : ¬ Obligations.Privilege := by
  intro hpriv
  obtain ⟨G, hs⟩ := solo_killerState
  obtain ⟨-, -, -, -, -, -, -, -, hkill, -⟩ := hpriv 0 0 0 killerState listedIssue 0 killerTeam G killerThread
  obtain ⟨-, -, -, hbusy⟩ := hkill hs rfl rfl rfl (by decide)
  exact Bool.noConfusion (killBusy_killerState.symm.trans hbusy)
end

section
/-!
PROOFS. What a performance may change: a relation between the state before it and every state it can leave.
-/

namespace Sys2Proof.Machine

/-- A relation that holds of a state and itself, and goes along a run. -/
structure Change (R : State → State → Prop) : Prop where
  refl : ∀ s, R s s
  trans : ∀ {s s' s''}, R s s' → R s' s'' → R s s''

/-- Every state that a performance's end holds is related to the one it began in. -/
def Ends {α : Type} (R : State → State → Prop) (s : State) : Except Stop (α × State) → Prop
  | .ok (_, s') => R s s'
  | .error (.hold s') => R s s'
  | .error (.done s') => R s s'
  | .error _ => True

/-- So does a performance from every state. -/
structure Keeps {α : Type} (R : State → State → Prop) (m : M α) : Prop where
  ends : ∀ s, Ends R s (m s)

variable {α β : Type} {R R' : State → State → Prop} {m : M α} {f : α → M β}

theorem Ends.mono (hR : ∀ s s', R s s' → R' s s') {s : State} {r : Except Stop (α × State)} (h : Ends R s r) :
    Ends R' s r := by
  match r with
  | .ok (_, s') => exact hR _ _ h
  | .error (.hold s') => exact hR _ _ h
  | .error (.done s') => exact hR _ _ h
  | .error (.trap ..) | .error (.trapAt ..) | .error (.page ..) | .error (.pageAt ..) | .error (.lost ..) | .error .retry
  | .error .missing => exact trivial

theorem Keeps.mono (hR : ∀ s s', R s s' → R' s s') (h : Keeps R m) : Keeps R' m := ⟨fun s => (h.ends s).mono hR⟩

theorem Ends.after (hR : Change R) {s s' : State} (hs : R s s') {r : Except Stop (α × State)} (h : Ends R s' r) :
    Ends R s r := by
  match r with
  | .ok (_, _) => exact hR.trans hs h
  | .error (.hold _) => exact hR.trans hs h
  | .error (.done _) => exact hR.trans hs h
  | .error (.trap ..) | .error (.trapAt ..) | .error (.page ..) | .error (.pageAt ..) | .error (.lost ..) | .error .retry
  | .error .missing => exact trivial

theorem keeps_pure (hR : Change R) (a : α) : Keeps R (pure a : M α) := ⟨fun s => hR.refl s⟩

theorem keeps_bind (hR : Change R) (hm : Keeps R m) (hf : ∀ a, Keeps R (f a)) : Keeps R (m >>= f) := by
  refine ⟨fun s => ?_⟩
  have hs := hm.ends s
  rw [M.bind_apply]
  cases hr : m s with
  | ok r =>
    rw [hr] at hs
    exact Ends.after hR hs ((hf r.1).ends r.2)
  | error e =>
    rw [hr] at hs
    cases e <;> exact hs

/-- A performance that goes on from the state that it has read. -/
theorem keeps_from {g : State → M β} (hg : ∀ s, Ends R s (g s s)) : Keeps R (get >>= g) := ⟨hg⟩

theorem keeps_get (hR : Change R) : Keeps R (get : M State) := ⟨fun s => hR.refl s⟩

theorem keeps_modify {g : State → State} (hg : ∀ s, R s (g s)) : Keeps R (modify g : M PUnit) := ⟨hg⟩

theorem keeps_trap (cause : BitVec 8) (addr : Word64) : Keeps R (trap cause addr : M α) := ⟨fun _ => trivial⟩

theorem keeps_page (addr : Word64) (access : BitVec 8) : Keeps R (stop (.page addr access) : M α) := ⟨fun _ => trivial⟩

theorem keeps_hold : Keeps R (hold : M α) := ⟨fun _ => trivial⟩

theorem keeps_holdHere (hR : Change R) : Keeps R (holdHere : M α) := ⟨fun s => hR.refl s⟩

theorem keeps_endHere (hR : Change R) : Keeps R (endHere : M α) := ⟨fun s => hR.refl s⟩

theorem keeps_check (hR : Change R) (b : Bool) (cause : BitVec 8) (addr : Word64) : Keeps R (check b cause addr) := by
  cases b with
  | false => exact keeps_trap cause addr
  | true => exact keeps_pure hR ()

theorem keeps_ite {p : Prop} [Decidable p] {m m' : M α} (hm : Keeps R m) (hm' : Keeps R m') :
    Keeps R (if p then m else m') := by
  split
  · exact hm
  · exact hm'

/-! ### Looking an address up -/

/-- Only cached translations, and the choices taken, have changed. -/
def Looked (s s' : State) : Prop := ∃ tlb picks, s' = { s with tlb := tlb, picks := picks }

theorem change_looked : Change Looked where
  refl s := ⟨s.tlb, s.picks, rfl⟩
  trans := by
    rintro s _ _ ⟨tlb, picks, rfl⟩ ⟨tlb', picks', rfl⟩
    exact ⟨tlb', picks', rfl⟩

theorem looked_pick [DecidableEq α] (old new : α) : Keeps Looked (pick old new) := by
  refine ⟨fun s => ?_⟩
  unfold pick
  split
  · exact change_looked.refl s
  · exact ⟨s.tlb, s.picks + 1, rfl⟩

theorem looked_pickAmong [DecidableEq α] (olds : List α) (new : α) : Keeps Looked (pickAmong olds new) := by
  induction olds generalizing new with
  | nil => exact keeps_pure change_looked new
  | cons old olds ih => exact keeps_bind change_looked (looked_pick old new) ih

theorem looked_translate (c va : Nat) : Keeps Looked (translate c va) := by
  refine keeps_bind change_looked (keeps_get change_looked) fun s => ?_
  refine keeps_bind change_looked (looked_pickAmong _ _) fun root => ?_
  split
  · exact looked_pick _ _
  · dsimp only
    split
    · exact keeps_bind change_looked (keeps_modify fun s => ⟨_, s.picks, rfl⟩) fun _ => keeps_pure change_looked _
    · exact keeps_pure change_looked _

theorem looked_walkRuns (c fuel va n : Nat) : Keeps Looked (walkRuns c fuel va n) := by
  induction fuel generalizing va n with
  | zero => exact keeps_pure change_looked _
  | succ fuel ih =>
    refine keeps_ite (keeps_pure change_looked _) ?_
    exact keeps_bind change_looked (looked_translate c _) fun w =>
      keeps_bind change_looked (ih _ _) fun ws => keeps_pure change_looked _

theorem looked_checkGlobal (c va n : Nat) (need : Need) (access : BitVec 8) :
    Keeps Looked (checkGlobal c va n need access) := by
  refine keeps_bind change_looked (keeps_check change_looked ..) fun _ => ?_
  refine keeps_bind change_looked (keeps_bind change_looked (keeps_get change_looked) fun s => looked_pickAmong _ _)
    fun h => ?_
  refine keeps_bind change_looked (keeps_get change_looked) fun s => ?_
  refine keeps_ite (keeps_ite (keeps_trap ..) (keeps_pure change_looked _)) (keeps_ite (keeps_trap ..) ?_)
  split
  · exact keeps_trap ..
  · refine keeps_bind change_looked (looked_walkRuns ..) fun ws => ?_
    split
    · exact keeps_page ..
    · refine keeps_bind change_looked (keeps_get change_looked) fun s => ?_
      split
      · exact keeps_pure change_looked _
      · exact keeps_trap ..

end Sys2Proof.Machine
end

section
/-!
PROOFS. Invalidation of what is cached, and KILLCTX (O29).
-/

namespace Sys2Proof.Machine

variable {s s' u : State} {i : Instr} {c : Issue} {t : Nat} {T : Team} {G : Group} {h : Thread} {d a : BitVec 8} {j k x : Nat}

/-! ### What a kill leaves of the contexts -/

theorem State.ctx_setCtx_self (s : State) (k : Nat) (x : Context) : (s.setCtx k x).ctx k = x := by
  simp [State.ctx, State.setCtx, SMap.getD]

theorem State.ctx_setCtx_other (s : State) (hjk : j ≠ k) (x : Context) : (s.setCtx k x).ctx j = s.ctx j := by
  simp [State.ctx, State.setCtx, SMap.getD, SMap.find?_insert_other hjk]

/-- Who kills each context is as it was, and a context that lives goes on living and killing. -/
structure KillsKept (s s' : State) : Prop where
  killedBy : ∀ j, (s'.ctx j).killedBy = (s.ctx j).killedBy
  busy : ∀ j, (s.ctx j).live = true → (s'.ctx j).live = true ∧ (s'.ctx j).killBusy = (s.ctx j).killBusy

theorem KillsKept.of_ctxs (he : s'.ctxs = s.ctxs) : KillsKept s s' := by
  have hj (j : Nat) : s'.ctx j = s.ctx j := by simp only [State.ctx, he]
  exact ⟨fun j => by rw [hj], fun j hl => by rw [hj]; exact ⟨hl, rfl⟩⟩

theorem change_killsKept : Change KillsKept where
  refl s := .of_ctxs rfl
  trans h h' := ⟨fun j => (h'.killedBy j).trans (h.killedBy j), fun j hl => by
    obtain ⟨hl', hb⟩ := h.busy j hl
    obtain ⟨hl'', hb'⟩ := h'.busy j hl'
    exact ⟨hl'', hb'.trans hb⟩⟩

theorem killsKept_setCtx (s : State) (k : Nat) {y : Context} (hby : y.killedBy = (s.ctx k).killedBy)
    (hlive : (s.ctx k).live = true → y.live = true ∧ y.killBusy = (s.ctx k).killBusy) : KillsKept s (s.setCtx k y) := by
  refine ⟨fun j => ?_, fun j hl => ?_⟩ <;> obtain rfl | hjk := eq_or_ne j k
  · rw [State.ctx_setCtx_self, hby]
  · rw [State.ctx_setCtx_other s hjk]
  · rw [State.ctx_setCtx_self]
    exact hlive hl
  · rw [State.ctx_setCtx_other s hjk]
    exact ⟨hl, rfl⟩

theorem killsKept_foldl {α : Type} {f : State → α → State} (hf : ∀ s y, KillsKept s (f s y)) (l : List α)
    (hs : KillsKept s s') : KillsKept s (l.foldl f s') := by
  induction l generalizing s' with
  | nil => exact hs
  | cons y l ih => exact ih (change_killsKept.trans hs (hf s' y))

theorem killsKept_ctxWrite (s : State) (k : Nat) (v : Word64) : KillsKept s (s.ctxWrite k v) := by
  unfold State.ctxWrite
  dsimp only
  split
  · refine change_killsKept.trans (s' := s.setCtx k _) (killsKept_setCtx s k ?_ ?_) (.of_ctxs rfl)
    · split <;> rfl
    · exact fun hl => by simp [hl]
  · split
    · exact change_killsKept.refl s
    · next hdead => exact killsKept_setCtx s k rfl fun hl => absurd hl hdead

theorem State.discardXlat_ctxs (s : State) (k : Nat) : (s.discardXlat k).ctxs = s.ctxs := by
  unfold State.discardXlat
  split <;> rfl

theorem State.dropXlats_ctxs (s : State) : s.dropXlats.ctxs = s.ctxs := by
  unfold State.dropXlats
  generalize s.xlats.filter _ = l
  induction l generalizing s with
  | nil => rfl
  | cons x l ih => rw [List.foldl_cons, ih, State.discardXlat_ctxs]

theorem State.setStore_ctxs (s : State) (b z : Word64) : (s.setStore b z).ctxs = s.ctxs := by
  unfold State.setStore
  dsimp only
  split
  · rfl
  · rw [State.dropXlats_ctxs]
    rfl

theorem killsKept_mgmtWrite (s : State) (off : Nat) (v : Word64) : KillsKept s (s.mgmtWrite off v) := by
  unfold State.mgmtWrite
  split
  · exact change_killsKept.refl s
  · split
    case h_8 | h_9 => exact .of_ctxs (State.setStore_ctxs ..)
    case h_1 | h_2 => split <;> exact .of_ctxs rfl
    case h_11 => unfold State.clearLinden; split <;> exact .of_ctxs rfl
    case h_13 => unfold State.retireBank; dsimp only; split <;> exact .of_ctxs rfl
    case h_14 => unfold State.setRoute; dsimp only; split <;> exact .of_ctxs rfl
    case h_15 =>
      split
      · unfold State.attestNow
        dsimp only
        split <;> exact .of_ctxs rfl
      · exact change_killsKept.refl s
    case h_16 =>
      split
      · exact .of_ctxs rfl
      · split
        · exact .of_ctxs rfl
        · split
          · exact .of_ctxs rfl
          · split
            · exact killsKept_ctxWrite ..
            · exact change_killsKept.refl s
    all_goals exact .of_ctxs rfl

theorem State.doorbell_ctxs (s : State) (w : Nat) (v : Word) (p : BitVec 8) : (s.doorbell w v p).ctxs = s.ctxs := by
  unfold State.doorbell
  split
  · rfl
  · split
    · rfl
    · split <;> rfl

theorem killsKept_writePhys (s : State) (pa : Nat) (bs : List Byte) (p : BitVec 8) : KillsKept s (s.writePhys pa bs p) := by
  unfold State.writePhys
  dsimp only
  split
  · exact killsKept_foldl (fun s j => killsKept_mgmtWrite s _ _) _ (change_killsKept.refl s)
  · split
    · exact .of_ctxs rfl
    · refine killsKept_foldl (fun s w => ?_) _ ?_
      · exact .of_ctxs (State.doorbell_ctxs ..)
      · exact .of_ctxs rfl

theorem killsKept_report (s : State) (k : Nat) (r : Report) : KillsKept s (s.report k r) :=
  killsKept_setCtx s k rfl fun hl => ⟨hl, rfl⟩

theorem killsKept_storeCompletion (s : State) (ctx launch agent : Nat) (ps : List Part) (bs : List Byte) :
    KillsKept s (s.storeCompletion ctx launch agent ps bs) := by
  induction ps generalizing s bs with
  | nil => exact change_killsKept.refl s
  | cons p ps ih =>
    unfold State.storeCompletion
    refine change_killsKept.trans ?_ (ih _ _)
    split
    · exact killsKept_writePhys ..
    · exact .of_ctxs rfl

theorem killsKept_writeCompletion (s : State) (ctx launch agent : Nat) (done : Word64) (v : Nat) :
    KillsKept s (s.writeCompletion ctx launch agent done v) := by
  have hlook := (looked_checkGlobal ctx done.toNat 8 ⟨false, true, false⟩ accStore).ends s
  unfold State.writeCompletion runM
  split
  · exact change_killsKept.refl s
  · split
    · next ps s' hr =>
      rw [hr] at hlook
      obtain ⟨tlb, picks, rfl⟩ := hlook
      have hlooked : KillsKept s { s with tlb := tlb, picks := picks } := .of_ctxs rfl
      refine change_killsKept.trans hlooked ?_
      split
      · exact killsKept_report ..
      · dsimp only
        split
        · exact killsKept_storeCompletion ..
        · exact change_killsKept.trans (killsKept_storeCompletion ..) (.of_ctxs rfl)
    · exact killsKept_report ..
    · exact killsKept_report ..
    · exact change_killsKept.refl s

theorem State.leaveWing_ctxs (s : State) (k : Nat) : (s.leaveWing k).ctxs = s.ctxs := by
  have hquit : (s.quitWing k).ctxs = s.ctxs := by
    unfold State.quitWing
    split
    · split <;> rfl
    · rfl
  exact hquit

theorem State.foldl_leaveWing_ctxs (l : List Nat) (s : State) : (l.foldl (fun s t => s.leaveWing t) s).ctxs = s.ctxs := by
  induction l generalizing s with
  | nil => rfl
  | cons t l ih => rw [List.foldl_cons, ih, State.leaveWing_ctxs]

/-- A kill: the context that it kills lives no more (R305). -/
theorem killsKept_killContext (s : State) (k : Nat) : ∃ s', KillsKept s s' ∧
    (s.killContext k).ctxs = (s'.setCtx k { s'.ctx k with live := false }).ctxs := by
  unfold State.killContext
  dsimp only
  refine ⟨_, ?_, rfl⟩
  refine killsKept_foldl (fun s e => killsKept_writeCompletion ..) _ ?_
  refine killsKept_foldl (fun s e => ?_) _ ?_
  · exact change_killsKept.trans (killsKept_writeCompletion ..) (.of_ctxs rfl)
  · exact .of_ctxs (State.foldl_leaveWing_ctxs ..)

/-- What the start of a kill by a live context leaves of both (R28, R305). -/
theorem State.startKill_ctx (hlive : (s.ctx x).live = true) (hne : k ≠ x) :
    ((s.startKill x k).ctx k).live = false ∧ ((s.startKill x k).ctx k).killedBy = (s.ctx k).killedBy ++ [x] ∧
      ((s.startKill x k).ctx x).killBusy = true := by
  let y : Context := { s.ctx x with killBusy := true, killDone := false, killLast := BitVec.ofNat 12 k }
  obtain ⟨s₁, hs₁⟩ : ∃ s₁, s₁ = s.setCtx x y := ⟨_, rfl⟩
  obtain ⟨s₂, hkept, hctxs⟩ := killsKept_killContext s₁ k
  have hx₁ : (s₁.ctx x).live = true ∧ (s₁.ctx x).killBusy = true := by
    rw [hs₁, State.ctx_setCtx_self]
    exact ⟨hlive, rfl⟩
  have hk₁ : (s₁.ctx k).killedBy = (s.ctx k).killedBy := by rw [hs₁, State.ctx_setCtx_other s hne]
  have hkill (j : Nat) : (s₁.killContext k).ctx j = (s₂.setCtx k { s₂.ctx k with live := false }).ctx j := by
    simp only [State.ctx, hctxs]
  have hstart : s.startKill x k = (s₁.killContext k).setCtx k { (s₁.killContext k).ctx k with
      killedBy := ((s₁.killContext k).ctx k).killedBy ++ [x] } := by
    rw [hs₁]
    rfl
  rw [hstart, State.ctx_setCtx_self, State.ctx_setCtx_other _ hne.symm, hkill, hkill, State.ctx_setCtx_self,
    State.ctx_setCtx_other _ hne.symm]
  refine ⟨rfl, ?_, (hkept.busy x hx₁.1).2.trans hx₁.2⟩
  show (s₂.ctx k).killedBy ++ [x] = _
  rw [hkept.killedBy, hk₁]

/-! ### Invalidation -/

/-- Nothing of a context is outstanding (R227). -/
structure Calm (s : State) (T : Team) (k : Nat) : Prop where
  irrevocable : T.revocable = false
  stores : s.stores.any (fun w => w.ctx == k) = false
  remotes : s.remotes.any (fun e => e.2.ctx == k && decide (e.2.agent < 5)) = false
  porches : s.porched k = false

theorem settleAccesses_calm (hT : u.team? c.team = some T) (hc : Calm u T k) : settleAccesses c.team k u = .ok ((), u) := by
  have hcommit : (if T.ctx = k then commitPorch c.team else pure ()) u = .ok ((), u) := by
    split
    · rw [commitPorch_apply, State.commitPorch_of_irrevocable hT hc.irrevocable]
    · rfl
  simp only [settleAccesses, M.bind_apply, getTeam_apply hT]
  by_cases hctx : T.ctx = k <;> simp only [hctx, if_true, if_false] at hcommit ⊢ <;>
    simp only [M.bind_apply, hcommit, M.get_apply, hc.stores, hc.remotes, hc.porches, Bool.or_self, Bool.false_eq_true,
      if_false, M.pure_apply]

theorem exec_icinv_of_calm (hs : Solo s .icinv c t T G h) (hr : T.revocable = false) (hst : s.storesPending c.team = false)
    (hre : s.remotesPending c.team = false) : exec .icinv s = .next ({ s with fetched := s.fetched.filter fun f =>
      !(f.core == T.core && f.ctx == T.ctx) }.after c t fun h => h) := by
  refine hs.ends_next ⟨_, exec_icinv s⟩ rfl ?_
  simp only [bodyIcinv, seq_apply, M.bind_apply, drain_calm hs.team hr hst hre, hs.getTeam, M.modify_apply]

theorem kindOk_of_privileged (hpriv : (s.ctx T.ctx).privileged = true) :
    kindOk s T (.tlbinvAll a) = true ∧ kindOk s T (.tlbinvPage a) = true ∧ kindOk s T .tlbinvHeap = true ∧
      kindOk s T (.killctx d a) = true := by
  have hk : (true && true && !false && (!true || (s.ctx T.ctx).privileged)) = true := by simp [hpriv]
  exact ⟨hk, hk, hk, hk⟩

theorem exec_tlbinvAll_of_calm (hs : Solo s (.tlbinvAll a) c t T G h) (hpriv : (s.ctx T.ctx).privileged = true)
    (hk : (h.val a).toNat % 2 ^ 12 = k) (hc : Calm s T k) :
    exec (.tlbinvAll a) s = .next (({ s with tlb := s.tlb.filter fun e => e.ctx != k }.setCtx k
      { s.ctx k with heldPtbase := [] }).after c t fun h => h) := by
  refine hs.ends_next ⟨_, exec_tlbinvAll a s⟩ (kindOk_of_privileged (d := a) hpriv).1 ?_
  have hlow : ((h.val a).extractLsb' 0 12).toNat = k := by
    rw [BitVec.extractLsb'_toNat, Nat.shiftRight_zero, hk]
  obtain ⟨u, hu⟩ : ∃ u, u = { s with tlb := s.tlb.filter fun e => e.ctx != k }.setCtx k
    { s.ctx k with heldPtbase := [] } := ⟨_, rfl⟩
  have hT : u.team? c.team = some T := by rw [hu]; exact hs.team
  have hcalm : Calm u T k := by rw [hu]; exact ⟨hc.irrevocable, hc.stores, hc.remotes, hc.porches⟩
  simp only [bodyTlbinvAll, seq_apply, M.bind_apply, hs.rd (hs.lt (r := a) (by simp)), hlow, M.modify_apply,
    ← hu, settleAccesses_calm hT hcalm]

theorem exec_tlbinvPage_of_calm (hs : Solo s (.tlbinvPage a) c t T G h) (hpriv : (s.ctx T.ctx).privileged = true)
    (hc : Calm s T T.ctx) (hheld : (s.ctx T.ctx).heldPtbase = []) :
    exec (.tlbinvPage a) s = .next (({ s with tlb := s.tlb.filter fun e => !(e.ctx == T.ctx &&
      (e.page == if e.large then (h.pair a).toNat / 2 ^ 22 else (h.pair a).toNat / 2 ^ 16)) }.setCtx T.ctx
        (s.ctx T.ctx)).after c t fun h => h) := by
  refine hs.ends_next ⟨_, exec_tlbinvPage a s⟩ (kindOk_of_privileged (d := a) hpriv).2.1 ?_
  obtain ⟨u, hu⟩ : ∃ u, u = { s with tlb := s.tlb.filter fun e => !(e.ctx == T.ctx &&
    (e.page == if e.large then (h.pair a).toNat / 2 ^ 22 else (h.pair a).toNat / 2 ^ 16)) }.setCtx T.ctx
      (s.ctx T.ctx) := ⟨_, rfl⟩
  have hT : u.team? c.team = some T := by rw [hu]; exact hs.team
  have hcalm : Calm u T T.ctx := by rw [hu]; exact ⟨hc.irrevocable, hc.stores, hc.remotes, hc.porches⟩
  have hctx : ({ s.ctx T.ctx with heldPtbase := [] } : Context) = s.ctx T.ctx := by rw [← hheld]
  simp only [bodyTlbinvPage, seq_apply, M.bind_apply, hs.rd64, hs.getTeam, M.modify_apply, hheld, List.map_nil, hctx, ← hu,
    settleAccesses_calm hT hcalm]

theorem exec_tlbinvHeap_of_calm (hs : Solo s .tlbinvHeap c t T G h) (hpriv : (s.ctx T.ctx).privileged = true)
    (hc : Calm s T T.ctx) : exec .tlbinvHeap s =
      .next ((s.setCtx T.ctx { s.ctx T.ctx with heldHeap := [] }).after c t fun h => h) := by
  refine hs.ends_next ⟨_, exec_tlbinvHeap s⟩ (kindOk_of_privileged (a := 0) (d := 0) hpriv).2.2.1 ?_
  have hcalm : Calm (s.setCtx T.ctx { s.ctx T.ctx with heldHeap := [] }) T T.ctx :=
    ⟨hc.irrevocable, hc.stores, hc.remotes, hc.porches⟩
  simp only [bodyTlbinvHeap, seq_apply, M.bind_apply, hs.getTeam, M.modify_apply,
    settleAccesses_calm (u := s.setCtx T.ctx _) hs.team hcalm]

/-! ### KILLCTX -/

theorem destOk_one (hd : d.toNat < 220) : destOk (c.lane t) d s = .ok ((), s) := by
  simp [destOk, regCode_g hd]

/-- A kill that the issuing thread has started and that is complete (R228). -/
theorem exec_killctx_complete (hs : Solo s (.killctx d a) c t T G h) (hpriv : (s.ctx T.ctx).privileged = true)
    (hr : T.revocable = false) (hw : h.wait = some (.kill x)) (hx : T.ctx ∉ (s.ctx x).killedBy) :
    exec (.killctx d a) s = .next (s.after c t (·.put d 0)) := by
  refine hs.ends_after ⟨_, exec_killctx d a s⟩ (kindOk_of_privileged hpriv).2.2.2 ?_
  have hd : d.toNat < 220 := hs.lt (by simp)
  have hnot : (s.ctx x).killedBy.contains T.ctx = false := by simpa using hx
  simp only [bodyKillctx, seq_apply, M.bind_apply, destOk_one hd, commitPorch_apply,
    State.commitPorch_of_irrevocable hs.team hr, hs.getTeam, M.get_apply, waitOf, hs.getThread, hw, M.pure_apply, hnot,
    Bool.false_eq_true, if_false, wr_put hd]

/-- What KILLCTX does of a thread that waits for no kill, its context killing nothing. -/
theorem At.bodyKillctx (hs : At s c t T G h) (hr : T.revocable = false) (hw : h.wait = none)
    (hbusy : (s.ctx T.ctx).killBusy = false) (hd : d.toNat < 220) (ha : a.toNat < 220) (hk : (h.val a).toNat % 2 ^ 12 = k) :
    bodyKillctx d a (c.lane t) s = seq (if k = T.ctx then wr (c.lane t) d 2
      else if !(s.ctx k).live then wr (c.lane t) d 1
      else do
        set (s.startKill T.ctx k)
        setWait (c.lane t) (some (.kill k))
        holdHere) s := by
  have hlow : ((h.reg a.toNat).extractLsb' 0 12).toNat = k := by
    rw [BitVec.extractLsb'_toNat, Nat.shiftRight_zero]
    exact hk
  simp only [Machine.bodyKillctx, seq_apply, M.bind_apply, destOk_one hd, commitPorch_apply,
    State.commitPorch_of_irrevocable hs.team hr, hs.getTeam, M.get_apply, waitOf, hs.getThread, hw, M.pure_apply, hbusy,
    Bool.false_eq_true, if_false, rd_g hs.team hs.thread ha, hlow]

/-- What an issue that waits leaves of the contexts. -/
theorem State.waits_ctx (s : State) (l : Lane) (j : Nat) : ((s.markWait l).endIfCancelled l).ctx j = s.ctx j := by
  have hend (u : State) : (u.endIfCancelled l).ctxs = u.ctxs := by
    unfold State.endIfCancelled
    repeat' split
    all_goals rfl
  have hmark : (s.markWait l).ctxs = s.ctxs := by
    unfold State.markWait
    split <;> rfl
  simp only [State.ctx, hend, hmark]

section
variable (hs : Solo s (.killctx d a) c t T G h) (hpriv : (s.ctx T.ctx).privileged = true) (hr : T.revocable = false)
  (hw : h.wait = none) (hbusy : (s.ctx T.ctx).killBusy = false) (hk : (h.val a).toNat % 2 ^ 12 = k)

include hs hpriv hr hw hbusy hk

theorem exec_killctx_own (hown : k = T.ctx) : exec (.killctx d a) s = .next (s.after c t (·.put d 2)) := by
  have hd : d.toNat < 220 := hs.lt (by simp)
  refine hs.ends_after ⟨_, exec_killctx d a s⟩ (kindOk_of_privileged hpriv).2.2.2 ?_
  rw [hs.bodyKillctx hr hw hbusy hd (hs.lt (by simp)) hk, if_pos hown, seq_apply, wr_put hd]

theorem exec_killctx_dead (hother : k ≠ T.ctx) (hdead : (s.ctx k).live = false) :
    exec (.killctx d a) s = .next (s.after c t (·.put d 1)) := by
  have hd : d.toNat < 220 := hs.lt (by simp)
  refine hs.ends_after ⟨_, exec_killctx d a s⟩ (kindOk_of_privileged hpriv).2.2.2 ?_
  rw [hs.bodyKillctx hr hw hbusy hd (hs.lt (by simp)) hk, if_neg hother, if_pos (by simp [hdead]), seq_apply, wr_put hd]

theorem exec_killctx_starts (hother : k ≠ T.ctx) (hlive : (s.ctx k).live = true) (hown : (s.ctx T.ctx).live = true) :
    ∃ s', exec (.killctx d a) s = .next s' ∧ (s'.ctx k).live = false ∧
      (s'.ctx k).killedBy = (s.ctx k).killedBy ++ [T.ctx] ∧ (s'.ctx T.ctx).killBusy = true := by
  have hd : d.toNat < 220 := hs.lt (by simp)
  have hstart := State.startKill_ctx (s := s) hown hother
  have hbody : bodyKillctx d a (c.lane t) s = .error (.hold ((s.startKill T.ctx k).modThread c.team t fun h =>
      { h with wait := some (.kill k) })) := by
    rw [hs.bodyKillctx hr hw hbusy hd (hs.lt (by simp)) hk, if_neg hother, if_neg (by simp [hlive])]
    rfl
  refine ⟨_, hs.ends_hold_cancel ⟨_, exec_killctx d a s⟩ (kindOk_of_privileged hpriv).2.2.2 hbody, ?_⟩
  rw [State.waits_ctx, State.waits_ctx]
  exact hstart

end

end Sys2Proof.Machine

open Sys2Proof Sys2Proof.Machine

/-- Settles O29: each invalidation with nothing outstanding, and KILLCTX by what its target is. -/
theorem invalidationAndKills : Obligations.InvalidationAndKills := by
  refine ⟨fun a s c t T G h => ⟨fun hs hr hst hre => ?_, fun hs hpriv hc => ?_, fun hs hpriv hc hheld => ?_,
    fun hs hpriv hc => ?_⟩, fun d a s c t T G h hs hpriv hlive hr => ⟨fun hw hb hk => ?_, fun hw hb hk hdead => ?_,
    fun hw hb hk hother _ => ?_, fun x hw hx => ?_⟩⟩
  · exact exec_icinv_of_calm hs hr hst hre
  · obtain ⟨hrev, hst, hre, hp⟩ := hc
    exact exec_tlbinvAll_of_calm hs hpriv rfl ⟨hrev, hst, hre, hp⟩
  · obtain ⟨hrev, hst, hre, hp⟩ := hc
    exact exec_tlbinvPage_of_calm hs hpriv ⟨hrev, hst, hre, hp⟩ hheld
  · obtain ⟨hrev, hst, hre, hp⟩ := hc
    exact exec_tlbinvHeap_of_calm hs hpriv ⟨hrev, hst, hre, hp⟩
  · exact exec_killctx_own hs hpriv hr hw hb rfl hk
  · exact exec_killctx_dead hs hpriv hr hw hb rfl hk hdead
  · exact exec_killctx_starts hs hpriv hr hw hb rfl hk hother hlive
  · exact exec_killctx_complete hs hpriv hr hw hx
end

section
/-!
PROOFS. The waits of the front thread, and its launches (O30).
-/

namespace Sys2Proof.Machine

variable {s u : State} {c : Issue} {T : Team} {x : Front} {i : Instr} {d a : BitVec 8} {k : BitVec 5} {pa : Nat}
  {body : Lane → M Next} {p : State → Team → Front → Prop}

/-! ### The waits -/

/-- A wait of the front thread that is over. -/
theorem FrontInstr.passes (hi : FrontInstr i body)
    (hb : ∀ s c T x, FrontSolo s i c T x → p s T x → body c.frontLane s = .ok (none, s)) :
    FrontDoes i p fun _ _ x => x :=
  hi.does fun s c T x hs hp => ⟨fun x => x, rfl, by rw [hb s c T x hs hp, State.modFront_id]⟩

theorem FrontSolo.letGo (hs : FrontSolo s i c T x) (hw : notLetGo x.wait = true) : letGo c.frontLane s = .ok ((), s) := by
  simp only [Machine.letGo, waitOf, M.bind_apply, hs.getFront, M.pure_apply]
  revert hw
  cases x.wait with
  | none => exact fun _ => rfl
  | some w =>
    cases w with
    | broken x => exact fun hw => Bool.noConfusion hw
    | _ => exact fun _ => rfl

theorem frontDoes_ftwaitNb (a : BitVec 8) (k : BitVec 5) :
    FrontDoes (.ftwaitNb a k) (fun _ T x => notLetGo x.wait = true ∧ (T.nb (k.toNat % 16)).broken = false ∧
      (T.nb (k.toNat % 16)).phase ≠ (x.reg a.toNat).getLsbD 0) fun _ _ x => x :=
  FrontInstr.passes ⟨fun _ _ => rfl, exec_ftwaitNb a k⟩ fun s c T x hs ⟨hw, hb, hphase⟩ => by
    have hlow : (x.low a).getLsbD 0 = (x.reg a.toNat).getLsbD 0 := by
      simp [Front.low]
    have hne : ((T.nb (k.toNat % 16)).phase != (x.low a).getLsbD 0) = true := by
      rw [hlow]
      exact bne_iff_ne.mpr hphase
    simp only [bodyFtwaitNb, M.bind_apply, hs.letGo hw, hs.getTeam, hb, Bool.not_false, check_true, M.pure_apply, hs.rd, hne,
      if_true]

theorem frontDoes_ftwaitDq (a : BitVec 8) (k : BitVec 5) :
    FrontDoes (.ftwaitDq a k) (fun _ T x => k.toNat < T.producers + T.consumers ∧
      ∃ G, T.group? k.toNat = some G ∧ G.ended = false ∧ G.dq.length ≤ (x.reg a.toNat).toNat) fun _ _ x => x :=
  FrontInstr.passes ⟨fun _ _ => rfl, exec_ftwaitDq a k⟩ fun s c T x hs ⟨hk, G, hG, hended, hlen⟩ => by
    have hcount : T.queueCount k.toNat ≤ (x.reg a.toNat).toNat := by simpa [Team.queueCount, hG, hended] using hlen
    simp only [bodyFtwaitDq, seq_apply, M.bind_apply, hs.getTeam, hk, decide_true, check_true, M.pure_apply, hs.rd64, hcount,
      if_true]

theorem frontDoes_ftwaitMx : FrontDoes .ftwaitMx (fun _ T _ => T.mx.queue = []) fun _ _ x => x :=
  FrontInstr.passes ⟨fun _ _ => rfl, exec_ftwaitMx⟩ fun s c T x hs hq => by
    have hidle : T.mxBusy = false := by simp [Team.mxBusy, hq]
    simp only [bodyFtwaitMx, seq_apply, M.bind_apply, hs.getTeam, hidle, Bool.false_eq_true, if_false, M.pure_apply]

theorem frontDoes_ftwaitRsh : FrontDoes .ftwaitRsh (fun _ T _ => T.rsh.state ≠ 1) fun _ _ x => x :=
  FrontInstr.passes ⟨fun _ _ => rfl, exec_ftwaitRsh⟩ fun s c T x hs hq => by
    have hidle : T.rshRunning = false := by simpa [Team.rshRunning] using hq
    simp only [bodyFtwaitRsh, seq_apply, M.bind_apply, hs.getTeam, hidle, Bool.false_eq_true, if_false, M.pure_apply]

theorem frontDoes_ftwaitClk (a : BitVec 8) :
    FrontDoes (.ftwaitClk a) (fun s T x => ∃ L t0, SMap.find? T.launch s.launches = some L ∧ L.t0 = some t0 ∧
      (x.reg a.toNat).toNat ≤ s.clock - t0) fun _ _ x => x :=
  FrontInstr.passes ⟨fun _ _ => rfl, exec_ftwaitClk a⟩ fun s c T x hs ⟨L, t0, hL, ht, hle⟩ => by
    have hclock : clockOf c.team s = .ok (s.clock - t0, s) := by
      simp [clockOf, hs.getTeam, hL, ht]
    simp only [bodyFtwaitClk, seq_apply, M.bind_apply, hs.rd64, hclock, hle, if_true, M.pure_apply]

/-! ### Launches -/

/-- An effect of the front thread that waits with what it has done so far. -/
theorem issueWith_front_hold {onPage : Lane → Word64 → BitVec 8 → State → State} (hs : FrontSolo s i c T x)
    (hk : frontKindOk s T i = true) (hb : body c.frontLane s = .error (.hold u)) :
    issueWith i onPage body s = .next (u.markWait c.frontLane) := by
  simp [hs.issueWith_eq hk, hb, afterLane, State.endIfCancelled]

/-- The launch that FTLAUNCH asks for (R220). -/
def State.launchAsked (s : State) (k : Nat) (T : Team) (pa : Nat) (d : BitVec 8) : DevLaunch :=
  ⟨T.ctx, T.priority, LaunchRec.of (s.teamBytes k pa 128), k, d⟩

theorem FrontSolo.bodyFtlaunch (hs : FrontSolo s i c T x) (hin : InHeap s c.team T (x.reg a.toNat).toNat 128 pa)
    (hal : (x.reg a.toNat).toNat % 128 = 0) (hr : T.revocable = false) :
    bodyFtlaunch d a c.frontLane s = submitRecord c.frontLane d (s.teamBytes c.team pa 128) s := by
  have hcheck := InHeap.checkLane (ln := c.frontLane) hin hs.team ⟨true, false, false⟩ accLoad rfl
  have horder := InHeap.orderLane (ln := c.frontLane) hin hs.team rfl false
  have hload : loadParts c.frontLane [s.heapPart T (x.reg a.toNat).toNat 128 pa] s =
      .ok ([.bytes (s.teamBytes c.team pa 128)], s) := InHeap.loadLane (ln := c.frontLane) hin
  have hawait (j : Instr) (n : Nat) : awaitParts j c.frontLane n [.bytes (s.teamBytes c.team pa 128)] s =
      .ok (s.teamBytes c.team pa 128, s) := by
    simp [awaitParts, partsReady, finishParts, partsBad]
  simp only [Machine.bodyFtlaunch, M.bind_apply, hs.rd64, aligned_of_mod hal, hcheck,
    drain_calm hs.team hr hin.quiet.1 hin.quiet.2, horder, hload, hawait]

section
variable (hs : FrontSolo s (.ftlaunch d a) c T x) (hin : InHeap s c.team T (x.reg a.toNat).toNat 128 pa)
  (hal : (x.reg a.toNat).toNat % 128 = 0) (hr : T.revocable = false)

include hs hin hal hr

theorem exec_ftlaunch_queues (hroom : s.devQueue.length < 256) :
    exec (.ftlaunch d a) s = .next (({ s with devQueue := s.devQueue ++ [s.launchAsked c.team T pa d] } : State).modFront c.team
      fun f => { f with wait := some .launch }) := by
  obtain ⟨u, hu⟩ : ∃ u : State, u = ({ s with devQueue := s.devQueue ++ [s.launchAsked c.team T pa d] } : State) := ⟨_, rfl⟩
  have hT : u.team? c.team = some T := by rw [hu]; exact hs.team
  have hbody : bodyFtlaunch d a c.frontLane s = .error (.hold (u.modFront c.team fun f => { f with wait := some .launch })) := by
    rw [hs.bodyFtlaunch hin hal hr, hu]
    simp only [submitRecord, M.bind_apply, M.get_apply, Nat.not_le.mpr hroom, if_false, hs.getTeam, M.set_apply]
    rfl
  rw [← hu, exec_ftlaunch, execFtlaunch, issueWith_front_hold hs rfl hbody]
  exact congrArg _ (State.modFront_modFront ..)

theorem exec_ftlaunch_full (hfull : 256 ≤ s.devQueue.length) :
    exec (.ftlaunch d a) s = .next (s.afterFront c (·.setReg d.toNat 2)) := by
  have hbody : bodyFtlaunch d a c.frontLane s = .ok (none, s.modFront c.team (·.setReg d.toNat 2)) := by
    rw [hs.bodyFtlaunch hin hal hr]
    simp only [submitRecord, M.bind_apply, M.get_apply, hfull, if_true, seq_apply, wr_front]
    rfl
  rw [exec_ftlaunch, execFtlaunch, issueWith_front hs rfl hbody, State.modFront_modFront]
  rfl

end

/-- The dispatcher answers the first record of the device launch queue (R278). -/
theorem exec_launchAdmission_device {e : DevLaunch} {es : List DevLaunch} (hq : s.devQueue = e :: es)
    (hready : s.mgmt.ready = true) (hcool : s.mgmt.thermalHalt = false) :
    exec .launchAdmission s = .next ((({ s with devQueue := es } : State).admitted e.ctx e.record
      (min e.record.prio e.prio)).1.launchAnswer e.team e.dest
        (if (({ s with devQueue := es } : State).admitted e.ctx e.record (min e.record.prio e.prio)).2 then 0 else 1)) := by
  rw [exec_launchAdmission, execLaunchAdmission]
  simp only [hready, hcool, Bool.not_true, Bool.or_self, Bool.false_eq_true, if_false, hq]

end Sys2Proof.Machine

open Sys2Proof Sys2Proof.Machine

/-- Settles O30: each wait that is over, and a launch from its record to its outcome. -/
theorem frontThread : Obligations.FrontThread := by
  refine ⟨fun a k => ⟨frontDoes_ftwaitNb a k, frontDoes_ftwaitDq a k, frontDoes_ftwaitMx, frontDoes_ftwaitRsh,
    frontDoes_ftwaitClk a⟩, fun d a s c T x pa => ⟨fun hs hin hal hr => ⟨fun hroom => ?_, fun hfull => ?_⟩,
    fun e es hq hready hcool => ?_⟩⟩
  · exact exec_ftlaunch_queues hs hin hal hr hroom
  · exact exec_ftlaunch_full hs hin hal hr hfull
  · exact exec_launchAdmission_device hq hready hcool
end

section
/-!
PROOFS. The successor words of a translated segment (O34).
-/

namespace Sys2Proof.Machine

variable {s : State} {c : Issue} {t : Nat} {T : Team} {G : Group} {h : Thread} {x : Xlat}

theorem At.segmentAddr (hs : At s c t T G h) (hx : s.xlatOf T = some x) (n : BitVec 24) :
    segmentAddr (c.lane t) n s = .ok (x.addr n.toNat, s) := by
  simp [Machine.segmentAddr, hs.getTeam, hx]

theorem At.goSegment (hs : At s c t T G h) (hx : s.xlatOf T = some x) (n : BitVec 24) :
    goSegment (c.lane t) n s = .ok (some (x.addr n.toNat), s) := by
  simp only [Machine.goSegment, M.bind_apply, hs.segmentAddr hx]
  rfl

theorem doesTo_succGoto (n : BitVec 24) (x : Xlat) :
    DoesTo (.succGoto n) (fun s T _ _ => s.xlatOf T = some x) fun h => (h, x.addr n.toNat) :=
  LaneInstr.doesTo ⟨fun _ _ => rfl, exec_succGoto n⟩ fun s c t T G h hs hx => by
    rw [hs.modThread_self, bodySuccGoto, hs.goSegment hx]

theorem doesTo_succBr (b : BitVec 3) (sense : Bool) (t1 t2 : BitVec 24) (x : Xlat) :
    DoesTo (.succBr b sense t1 t2) (fun s T _ _ => s.xlatOf T = some x)
      fun h => (h, x.addr (if h.b.getLsbD b.toNat = sense then t1 else t2).toNat) :=
  LaneInstr.doesTo ⟨fun _ _ => rfl, exec_succBr b sense t1 t2⟩ fun s c t T G h hs hx => by
    rw [hs.modThread_self]
    simp only [bodySuccBr, M.bind_apply, hs.rdB, hs.goSegment hx, beq_iff_eq]

theorem doesTo_succSw (r : BitVec 8) (ts : List (BitVec 24)) (x : Xlat) :
    DoesTo (.succSw r ts) (fun s T _ _ => s.xlatOf T = some x)
      fun h => (h, x.addr (ts.getD (min (h.val r).toNat (ts.length - 1)) 0).toNat) :=
  LaneInstr.doesTo ⟨fun _ _ => rfl, exec_succSw r ts⟩ fun s c t T G h hs hx => by
    rw [hs.modThread_self]
    simp only [bodySuccSw, M.bind_apply, hs.rd (hs.lt (r := r) (by simp)), hs.goSegment hx]

theorem doesTo_succCall (t1 t2 : BitVec 24) (x : Xlat) :
    DoesTo (.succCall t1 t2) (fun s T _ h => s.xlatOf T = some x ∧ h.rs.length < 8 ∧ h.spill = 0)
      fun h => ({ h with rs := h.rs ++ [t2.setWidth 64] }, x.addr t1.toNat) :=
  LaneInstr.doesTo ⟨fun _ _ => rfl, exec_succCall t1 t2⟩ fun s c t T G h hs hp => by
    obtain ⟨hx, hlen, hspill⟩ := hp
    simp only [bodySuccCall, M.bind_apply, hs.segmentAddr hx, hs.pushReturn hlen hspill]
    rw [hs.modC fun h' => { h' with rs := h.rs ++ [t2.setWidth 64], spill := 0 }, ← hspill]
    rfl

/-- What SUCC.RET makes of the value that it pops. -/
theorem Solo.bodySuccRet (hs : Solo s .succRet c t T G h) (hx : s.xlatOf T = some x) {v : Word64}
    (hv : h.rs.getLast? = some v) (hspill : h.spill = 0) : bodySuccRet (c.lane t) s =
      (do check (decide (v.toNat < x.segs)) Cause.illegal; goTo (x.addr v.toNat) : M Next)
        (s.modThread c.team t fun h => { h with rs := h.rs.dropLast, spill := 0 }) := by
  have hT := State.team?_modThread hs.team (t := t) fun h : Thread => { h with rs := h.rs.dropLast, spill := 0 }
  have hx' : (s.modThread c.team t fun h => { h with rs := h.rs.dropLast, spill := 0 }).xlatOf
      (T.modThread t fun h => { h with rs := h.rs.dropLast, spill := 0 }) = some x := hx
  simp only [Machine.bodySuccRet, M.bind_apply, hs.popReturn hv hspill, getTeam_apply hT, M.get_apply, hx']

theorem doesTo_succRet (x : Xlat) (v : Word64) :
    DoesTo .succRet (fun s T _ h => s.xlatOf T = some x ∧ h.rs.getLast? = some v ∧ h.spill = 0 ∧ v.toNat < x.segs)
      fun h => ({ h with rs := h.rs.dropLast }, x.addr v.toNat) :=
  LaneInstr.doesTo ⟨fun _ _ => rfl, exec_succRet⟩ fun s c t T G h hs hp => by
    obtain ⟨hx, hv, hspill, hseg⟩ := hp
    rw [hs.bodySuccRet hx hv hspill, hs.modC fun h => { h with rs := h.rs.dropLast, spill := 0 }, ← hspill]
    simp only [M.bind_apply, hseg, decide_true, check_true, M.pure_apply]
    rfl

theorem traps_succRet (x : Xlat) (v : Word64) :
    Traps .succRet (fun s T _ h => s.xlatOf T = some x ∧ h.rs.getLast? = some v ∧ h.spill = 0 ∧ x.segs ≤ v.toNat)
      Cause.illegal fun _ => 0 :=
  LaneInstr.traps ⟨fun _ _ => rfl, exec_succRet⟩ fun s c t T G h hs hp => by
    obtain ⟨hx, hv, hspill, hseg⟩ := hp
    rw [hs.bodySuccRet hx hv hspill]
    simp only [M.bind_apply, Nat.not_lt.mpr hseg, decide_false, check_false, trap_apply]

end Sys2Proof.Machine

open Sys2Proof Sys2Proof.Machine

/-- Settles O34: each successor word goes to the address of the segment that it names, selects or pops. -/
theorem successors : Obligations.Successors := fun t1 t2 b sense r ts x =>
  ⟨doesTo_succGoto t1 x, doesTo_succBr b sense t1 t2 x, doesTo_succSw r ts x, doesTo_succCall t1 t2 x, doesTo_succRet x,
    traps_succRet x⟩
end

section
/-!
PROOFS. Reconvergence slots (O32).
-/

namespace Sys2Proof.Machine

variable {s : State} {c : Issue} {t : Nat} {T : Team} {G : Group} {h : Thread} {e : BitVec 4} {k : BitVec 3}

/-! ### RCV.SET -/

/-- The slot of a group. -/
def Group.slot (G : Group) (k : Nat) : RcvSlot := SMap.getD G.rcv k ⟨0, 0⟩

/-- The slot with another mask. -/
def RcvSlot.remask (sl : RcvSlot) (m : BitVec 128) : RcvSlot := { sl with mask := m }

/-- What RCV.SET does of a thread that is in the mask, and not. -/
theorem Solo.bodyRcvSet (hs : Solo s (.rcvSet e k) c t T G h) : bodyRcvSet e k (c.lane t) s = seq (do
    check ((G.mask T.width e.toNat).getLsbD (T.index t)) Cause.memberMask
    if (G.slot k.toNat).mask = G.mask T.width e.toNat then pure ()
    else
      check ((G.slot k.toNat).arrived == 0) Cause.barrierMisuse
      modGroupOf c.team t fun G' =>
        { G' with rcv := SMap.insert k.toNat ((G.slot k.toNat).remask (G.mask T.width e.toNat)) G'.rcv }) s := by
  simp only [Machine.bodyRcvSet, seq_apply, M.bind_apply, hs.getTeam, theThread_lane, M.pure_apply, hs.getGroup]
  rfl

theorem exec_rcvSet_sets (hs : Solo s (.rcvSet e k) c t T G h) (hin : (G.mask T.width e.toNat).getLsbD (T.index t) = true)
    (hne : (G.slot k.toNat).mask ≠ G.mask T.width e.toNat) (hfree : (G.slot k.toNat).arrived = 0) :
    exec (.rcvSet e k) s = .next ((s.modGroupAt c t T fun G' =>
      { G' with rcv := SMap.insert k.toNat ((G.slot k.toNat).remask (G.mask T.width e.toNat)) G'.rcv }).after c t
        fun h => h) := by
  refine hs.ends_next ⟨_, exec_rcvSet e k s⟩ rfl ?_
  have hfree' : ((G.slot k.toNat).arrived == 0) = true := by simpa using hfree
  rw [hs.bodyRcvSet]
  simp only [seq_apply, M.bind_apply, hin, check_true, M.pure_apply, hne, if_false, hfree', hs.modGroupOf]

theorem exec_rcvSet_same (hs : Solo s (.rcvSet e k) c t T G h) (hin : (G.mask T.width e.toNat).getLsbD (T.index t) = true)
    (heq : (G.slot k.toNat).mask = G.mask T.width e.toNat) : exec (.rcvSet e k) s = .next (s.after c t fun h => h) := by
  refine hs.ends_next ⟨_, exec_rcvSet e k s⟩ rfl ?_
  rw [hs.bodyRcvSet]
  simp only [seq_apply, M.bind_apply, hin, check_true, M.pure_apply, heq, if_true]

theorem exec_rcvSet_outside (hs : Solo s (.rcvSet e k) c t T G h)
    (hout : (G.mask T.width e.toNat).getLsbD (T.index t) = false) :
    exec (.rcvSet e k) s = .next (s.trapped c (.rcvSet e k) t Cause.memberMask 0 none) := by
  refine hs.ends_trap ⟨_, exec_rcvSet e k s⟩ rfl ?_
  rw [hs.bodyRcvSet]
  simp only [seq_apply, M.bind_apply, hout, check_false, trap_apply]

theorem exec_rcvSet_misuse (hs : Solo s (.rcvSet e k) c t T G h) (hin : (G.mask T.width e.toNat).getLsbD (T.index t) = true)
    (hne : (G.slot k.toNat).mask ≠ G.mask T.width e.toNat) (hbusy : (G.slot k.toNat).arrived ≠ 0) :
    exec (.rcvSet e k) s = .next (s.trapped c (.rcvSet e k) t Cause.barrierMisuse 0 none) := by
  refine hs.ends_trap ⟨_, exec_rcvSet e k s⟩ rfl ?_
  have hbusy' : ((G.slot k.toNat).arrived == 0) = false := by simpa using hbusy
  rw [hs.bodyRcvSet]
  simp only [seq_apply, M.bind_apply, hin, check_true, M.pure_apply, hne, if_false, hbusy', check_false, trap_apply]

/-! ### RCV.WAIT -/

/-- The slot with the thread arrived at it. -/
def Team.arriveSlot (T : Team) (G : Group) (t : Nat) (k : Nat) : RcvSlot :=
  { G.slot k with arrived := (G.slot k).arrived ||| BitVec.ofNat 128 (2 ^ T.index t) }

/-- The team as the thread waits at the slot. -/
def Team.waitSlot (T : Team) (G : Group) (t : Nat) (k : Nat) : Team :=
  (T.modGroup (T.groupIx t) fun G' => { G' with rcv := SMap.insert k (T.arriveSlot G t k) G'.rcv }).modThread t
    fun h => { h with wait := some (.slot k) }

/-- The threads past their RCV.WAIT. -/
def advanceAll (ids : List Nat) (ts : SMap Thread) : SMap Thread := ids.foldl (fun ts t => SMap.modify t (·.advance 4) ts) ts

theorem foldl_advance (ids : List Nat) (T : Team) :
    ids.foldl (fun (T : Team) t => { T with threads := SMap.modify t (·.advance 4) T.threads }) T =
      { T with threads := advanceAll ids T.threads } := by
  induction ids generalizing T with
  | nil => rfl
  | cons t ids ih => exact ih _

/-- Every member of a slot has arrived or is no more (R113). -/
def Team.slotFull (T : Team) (g : Nat) (sl : RcvSlot) : Bool :=
  (List.range T.width).all fun i => !sl.mask.getLsbD i || sl.arrived.getLsbD i ||
    match T.thread? (g * T.width + i) with
    | some h => h.ended
    | none => true

/-- The team with the threads that have arrived at a slot released. -/
def Team.releaseSlot (T : Team) (g k : Nat) (sl : RcvSlot) : Team :=
  ({ T with threads := advanceAll (((List.range T.width).filter sl.arrived.getLsbD).map fun i => g * T.width + i) T.threads }
    : Team).modGroup g fun G => { G with rcv := SMap.insert k { sl with arrived := 0 } G.rcv }

theorem Team.settleSlot_eq {g k : Nat} {sl : RcvSlot} (hG : T.group? g = some G) (hsl : SMap.find? k G.rcv = some sl) :
    T.settleSlot g k = if T.slotFull g sl && sl.arrived != 0 then T.releaseSlot g k sl else T := by
  simp only [Team.settleSlot, hG, hsl, foldl_advance]
  rfl

theorem Team.group?_modGroup_self {g : Nat} (hG : T.group? g = some G) (f : Group → Group) :
    (T.modGroup g f).group? g = some (f G) := by
  rw [Team.group?] at hG ⊢
  rw [Team.modGroup, SMap.find?_modify, if_pos rfl, hG]
  rfl

/-- Settling a slot leaves the width, and whether the group is cancelled. -/
theorem Team.settleSlot_group {g k : Nat} {sl : RcvSlot} (hG : T.group? g = some G) (hsl : SMap.find? k G.rcv = some sl) :
    (T.settleSlot g k).width = T.width ∧
      ∃ G', (T.settleSlot g k).group? g = some G' ∧ G'.cancelled = G.cancelled := by
  rw [Team.settleSlot_eq hG hsl]
  split
  · exact ⟨rfl, _, Team.group?_modGroup_self (T := { T with threads := _ }) hG _, rfl⟩
  · exact ⟨rfl, G, hG, rfl⟩

theorem Team.waitSlot_group (hG : T.group? (T.groupIx t) = some G) (k : Nat) :
    (T.waitSlot G t k).group? (T.groupIx t) = some { G with rcv := SMap.insert k (T.arriveSlot G t k) G.rcv } :=
  Team.group?_modGroup_self hG _

/-- The state as the thread has arrived, and the slot has released whom it releases. -/
def State.arrivedSlot (s : State) (c : Issue) (t : Nat) (T : Team) (G : Group) (k : Nat) : State :=
  ((s.modGroupAt c t T fun G' => { G' with rcv := SMap.insert k (T.arriveSlot G t k) G'.rcv }).modThread c.team t fun h =>
    { h with wait := some (.slot k) }).modTeam c.team (·.settleSlot (T.groupIx t) k)

theorem At.team?_arrivedSlot (hs : At s c t T G h) (k : Nat) :
    (s.arrivedSlot c t T G k).team? c.team = some ((T.waitSlot G t k).settleSlot (T.groupIx t) k) := by
  have hmod : (s.modGroupAt c t T fun G' => { G' with rcv := SMap.insert k (T.arriveSlot G t k) G'.rcv }).team? c.team =
      some (T.modGroup (T.groupIx t) fun G' => { G' with rcv := SMap.insert k (T.arriveSlot G t k) G'.rcv }) := by
    rw [State.modGroupAt, State.team?_modTeam, if_pos rfl, hs.team]
    rfl
  rw [State.arrivedSlot, State.team?_modTeam, if_pos rfl, State.team?_modThread hmod]
  rfl

theorem exec_rcvWait_of_solo (hs : Solo s (.rcvWait k) c t T G h) (hin : (G.slot k.toNat).mask.getLsbD (T.index t) = true)
    (hc : G.cancelled = false) : exec (.rcvWait k) s = .next (s.arrivedSlot c t T G k.toNat) := by
  obtain ⟨u, hu⟩ : ∃ u, u = s.arrivedSlot c t T G k.toNat := ⟨_, rfl⟩
  have hT' := hs.team?_arrivedSlot k.toNat
  rw [← hu] at hT' ⊢
  have hfate : ((T.waitSlot G t k.toNat).settleSlot (T.groupIx t) k.toNat).fate t =
      some (Thread.fate { h with wait := some (.slot k.toNat) }) := by
    rw [Team.fate_settleSlot, Team.fate, Team.waitSlot, Team.thread?_modThread (T := T.modGroup _ _) hs.thread]
    rfl
  obtain ⟨h', hh', -⟩ := Option.map_eq_some_iff.mp hfate
  obtain ⟨hwidth, G', hG', hcancel⟩ :=
    Team.settleSlot_group (T.waitSlot_group hs.group k.toNat) (SMap.find?_insert_self k.toNat _ _)
  have hbody : bodyRcvWait k (c.lane t) s = restOrWait c.team t u := by
    have hsettle : ((s.modGroupAt c t T fun G' =>
        { G' with rcv := SMap.insert k.toNat (T.arriveSlot G t k.toNat) G'.rcv }).modThread c.team t fun h =>
          { h with wait := some (.slot k.toNat) }).modTeam c.team (fun T => T.settleSlot (T.groupIx t) k.toNat) = u := by
      rw [hu, State.arrivedSlot]
      exact State.modTeam_congr (State.team?_modThread (T := T.modGroup _ _) (by
        rw [State.modGroupAt, State.team?_modTeam, if_pos rfl, hs.team]; rfl) _) rfl
    have hin' : (SMap.getD G.rcv k.toNat ⟨0, 0⟩).mask.getLsbD (T.index t) = true := hin
    simp only [bodyRcvWait, M.bind_apply, hs.getTeam, theThread_lane, M.pure_apply, hs.getGroup, hin', check_true,
      hs.modGroupOf, modThread_apply, modTeam_apply]
    rw [← hsettle]
    rfl
  refine hs.ends_rest ⟨_, exec_rcvWait k s⟩ rfl hbody hT' hh' (G' := G') ?_ (hcancel.trans hc)
  have hix : ((T.waitSlot G t k.toNat).settleSlot (T.groupIx t) k.toNat).groupIx t = T.groupIx t := congrArg (t / ·) hwidth
  rw [hix]
  exact hG'

/-! ### A thread alone in its mask -/

theorem getLsbD_ofNat_two_pow {n : Nat} (hn : n < 128) (j : Nat) :
    (BitVec.ofNat 128 (2 ^ n)).getLsbD j = decide (j = n) := by
  rw [BitVec.getLsbD_ofNat, Nat.testBit_two_pow]
  by_cases hj : j = n
  · subst hj
    simp [hn]
  · simp [hj, Ne.symm hj]

theorem filter_range_eq {n w : Nat} (hn : n < w) : (List.range w).filter (fun j => decide (j = n)) = [n] := by
  rw [List.filter_eq, List.count_eq_one_of_mem List.nodup_range (List.mem_range.mpr hn)]
  rfl

/-- R113: the slot of a thread alone in its mask releases it. -/
theorem Team.waitSlot_alone (hh : T.thread? t = some h) (hG : T.group? (T.groupIx t) = some G) {k : Nat}
    (hmask : (G.slot k).mask = BitVec.ofNat 128 (2 ^ T.index t)) (hfree : (G.slot k).arrived = 0) (h128 : T.index t < 128)
    (hw : T.index t < T.width) :
    ((T.waitSlot G t k).settleSlot (T.groupIx t) k).thread? t =
      some (({ h with wait := some (.slot k) } : Thread).advance 4) := by
  have harr : (T.arriveSlot G t k).arrived = BitVec.ofNat 128 (2 ^ T.index t) := by
    simp [Team.arriveSlot, hfree]
  have hbits (j : Nat) : (T.arriveSlot G t k).arrived.getLsbD j = decide (j = T.index t) := by
    rw [harr, getLsbD_ofNat_two_pow h128]
  have hfull : (T.waitSlot G t k).slotFull (T.groupIx t) (T.arriveSlot G t k) = true := by
    have hmask' (j : Nat) : (T.arriveSlot G t k).mask.getLsbD j = decide (j = T.index t) := by
      rw [← hbits, harr]
      exact congrArg (fun v : BitVec 128 => v.getLsbD j) hmask
    refine List.all_eq_true.mpr fun j _ => ?_
    rw [hmask', hbits]
    cases decide (j = T.index t) <;> rfl
  have hsome : ((T.arriveSlot G t k).arrived != 0) = true := by
    refine bne_iff_ne.mpr fun h0 => ?_
    have hbit := hbits (T.index t)
    rw [h0] at hbit
    simp at hbit
  have hids : ((List.range (T.waitSlot G t k).width).filter (T.arriveSlot G t k).arrived.getLsbD).map
      (fun j => T.groupIx t * (T.waitSlot G t k).width + j) = [t] := by
    rw [funext hbits]
    show ((List.range T.width).filter fun j => decide (j = T.index t)).map (fun j => T.groupIx t * T.width + j) = [t]
    rw [filter_range_eq hw]
    simp [Team.groupIx, Team.index, Nat.div_add_mod']
  rw [Team.settleSlot_eq (T.waitSlot_group hG k) (SMap.find?_insert_self ..), hfull, hsome, Bool.and_self, if_pos rfl,
    Team.releaseSlot, hids]
  exact Team.thread?_modThread (T := T.waitSlot G t k) (Team.thread?_modThread (T := T.modGroup _ _) hh _) _

theorem exec_rcvWait_alone (hs : Solo s (.rcvWait k) c t T G h)
    (hmask : (G.slot k.toNat).mask = BitVec.ofNat 128 (2 ^ T.index t)) (hfree : (G.slot k.toNat).arrived = 0)
    (h128 : T.index t < 128) (hw : T.index t < T.width) (hc : G.cancelled = false) :
    ∃ s' h', exec (.rcvWait k) s = .next s' ∧ s'.thread? c.team t = some h' ∧ h'.pc = h.pc + 4 ∧ h'.wait = none := by
  have hin : (G.slot k.toNat).mask.getLsbD (T.index t) = true := by
    rw [hmask, getLsbD_ofNat_two_pow h128]
    simp
  refine ⟨_, ({ h with wait := some (.slot k.toNat) } : Thread).advance 4, exec_rcvWait_of_solo hs hin hc, ?_, rfl, rfl⟩
  rw [State.thread?, hs.team?_arrivedSlot]
  exact Team.waitSlot_alone hs.thread hs.group hmask hfree h128 hw

end Sys2Proof.Machine

open Sys2Proof Sys2Proof.Machine

/-- Settles O32: RCV.SET by the mask and the slot, and RCV.WAIT with what the slot then releases. -/
theorem reconvergence : Obligations.Reconvergence := by
  intro e k s c t T G h
  refine ⟨fun hs hin hne hfree => ?_, fun hs hin heq => ?_, fun hs hout => ?_, fun hs hin hne hbusy => ?_,
    fun hs hin hc => ?_, fun hs hmask hfree h128 hw hc => ?_⟩
  · exact exec_rcvSet_sets hs hin hne hfree
  · exact exec_rcvSet_same hs hin heq
  · exact exec_rcvSet_outside hs hout
  · exact exec_rcvSet_misuse hs hin hne hbusy
  · exact exec_rcvWait_of_solo hs hin hc
  · exact exec_rcvWait_alone hs hmask hfree h128 hw hc
end

section
/-!
PROOFS. Decision queues and the markers of chains (O31).
-/

namespace Sys2Proof.Machine

variable {s : State} {i : Instr} {c : Issue} {t : Nat} {T : Team} {G Q : Group} {h : Thread} {x : Front} {g : BitVec 5}
  {a d : BitVec 8} {st : BitVec 2} {skip : BitVec 16} {k : BitVec 3} {C : Chain} {b n : Nat} {v : Word}

/-! ### Decision queues -/

/-- The group with a value at the end of its queue (R216). -/
def Group.pushed1 (Q : Group) (v : Word) : Group := { Q with dq := Q.dq ++ [v], pushed := Q.pushed + 1 }

theorem pushQueue_room {team : Nat} (hT : s.team? team = some T) (hQ : T.group? n = some Q) (hlive : Q.ended = false)
    (hroom : Q.dq.length < 16) (v : Word) :
    pushQueue team n v s = .ok ((), s.modTeam team (·.setGroup n (Q.pushed1 v))) := by
  have hfilter : (T.group? n).filter (fun G => !G.ended) = some Q := by simp [hQ, hlive]
  simp only [pushQueue, M.bind_apply, getTeam_apply hT, hfilter, Nat.not_le.mpr hroom, if_false, modTeam_apply]
  rfl

theorem exec_dqpush_front (hs : FrontSolo s (.dqpush g a) c T x) (hg : g.toNat < T.producers + T.consumers)
    (hQ : T.group? g.toNat = some Q) (hlive : Q.ended = false) (hroom : Q.dq.length < 16) :
    exec (.dqpush g a) s = .next ((s.modTeam c.team (·.setGroup g.toNat (Q.pushed1 ((x.reg a.toNat).setWidth 32)))).afterFront c
      fun f => f) := by
  have hbody : bodyDqpush g a c.frontLane s =
      .ok (none, s.modTeam c.team (·.setGroup g.toNat (Q.pushed1 ((x.reg a.toNat).setWidth 32)))) := by
    simp only [bodyDqpush, M.bind_apply, hs.getTeam, hg, decide_true, check_true, M.pure_apply, seq_apply, hs.rd,
      pushQueue_room hs.team hQ hlive hroom, Front.low]
  rw [exec_dqpush, execDqpush, issue, issueWith_front hs rfl hbody]
  rfl

/-- The lowest member of a group makes the push for all of it (R217). -/
theorem exec_dqpush_lead (hs : Solo s (.dqpush g a) c t T G h) (hg : g.toNat < T.producers + T.consumers)
    (hQ : T.group? g.toNat = some Q) (hlive : Q.ended = false) (hroom : Q.dq.length < 16)
    (hw : h.wait = some (.push v true)) :
    exec (.dqpush g a) s = .next ((s.modTeam c.team (·.setGroup g.toNat (Q.pushed1 v))).after c t fun h => h) := by
  refine hs.ends_next ⟨_, exec_dqpush g a s⟩ rfl ?_
  simp only [bodyDqpush, M.bind_apply, hs.getTeam, hg, decide_true, check_true, M.pure_apply, hs.getThread, hw, seq_apply,
    pushQueue_room hs.team hQ hlive hroom]

theorem exec_dqpop_of_solo (hs : Solo s (.dqpop d) c t T G h) (hne : h.cursor ≠ G.pushed) :
    exec (.dqpop d) s = .next (((s.modThread c.team t fun h =>
      { h.put d (G.dq.getD (G.dq.length - (G.pushed - h.cursor).toNat) 0) with cursor := h.cursor + 1 }).modTeam c.team
        (·.trimQueue (T.groupIx t))).after c t fun h => h) := by
  refine hs.ends_next ⟨_, exec_dqpop d s⟩ rfl ?_
  have hsome : G.unread h ≠ 0 := by
    intro h0
    have hzero : G.pushed - h.cursor = 0 := BitVec.eq_of_toNat_eq h0
    exact hne (sub_eq_zero.mp hzero).symm
  let f (h : Thread) : Thread :=
    { h.put d (G.dq.getD (G.dq.length - (G.pushed - h.cursor).toNat) 0) with cursor := h.cursor + 1 }
  have hf : s.modThread c.team t (fun h' =>
      { h'.put d (G.dq.getD (G.dq.length - G.unread h) 0) with cursor := h'.cursor + 1 }) = s.modThread c.team t f :=
    State.modThread_congr hs.team hs.thread rfl
  have htrim : (s.modThread c.team t f).modTeam c.team (fun T => T.trimQueue (T.groupIx t)) =
      (s.modThread c.team t f).modTeam c.team (·.trimQueue (T.groupIx t)) :=
    State.modTeam_congr (State.team?_modThread hs.team f) rfl
  rw [← htrim, ← hf]
  simp only [bodyDqpop, seq_apply, M.bind_apply, theThread_lane, M.pure_apply, hs.getThread, hs.getGroup, hsome, if_false,
    wr_put (hs.lt (r := d) (by simp)), modThread_apply, modTeam_apply, State.modThread_modThread]
  rfl

/-! ### Chains -/

theorem At.chainOf (hs : At s c t T G h) (hC : T.chain = some C) (hb : G.beat = some b) :
    chainOf (c.lane t) s = .ok ((C, b), s) := by
  simp [Machine.chainOf, hs.getTeam, theThread_lane, hs.getGroup, hC, hb]

theorem At.chainOf_none (hs : At s c t T G h) (hno : T.chain = none ∨ G.beat = none) :
    Machine.chainOf (c.lane t) s = .error (.trap Cause.illegal 0) := by
  simp only [Machine.chainOf, M.bind_apply, hs.getTeam, theThread_lane, M.pure_apply, hs.getGroup]
  obtain hC | hb := hno
  · rw [hC]
    rfl
  · rw [hb]
    cases T.chain <;> rfl

/-- A thread outside a chain. -/
theorem exec_chain_illegal (hi : i = .stage st skip ∨ i = .chend ∨ i = .chseed k a) (hs : Solo s i c t T G h)
    (hno : T.chain = none ∨ G.beat = none) : exec i s = .next (s.trapped c i t Cause.illegal 0 none) := by
  obtain rfl | rfl | rfl := hi
  · exact hs.ends_trap ⟨_, exec_stage st skip s⟩ rfl (by simp only [bodyStage, M.bind_apply, hs.chainOf_none hno])
  · exact hs.ends_trap ⟨_, exec_chend s⟩ rfl (by simp only [bodyChend, seq_apply, M.bind_apply, hs.chainOf_none hno])
  · refine hs.ends_trap ⟨_, exec_chseed k a s⟩ rfl ?_
    simp only [bodyChseed, seq_apply, M.bind_apply, hs.getTeam, theThread_lane, M.pure_apply, hs.getGroup, hs.getThread]
    obtain hC | hb := hno
    · rw [hC]
      rfl
    · rw [hb]
      cases T.chain <;> rfl

/-- The stage comes after the one that the thread is in, and the beat before has passed stage 0 (R129, R130). -/
structure StageNext (T : Team) (C : Chain) (b : Nat) (h : Thread) (st : BitVec 2) : Prop where
  exists_ : st.toNat < C.stages
  later : ∀ cur, h.stage = some cur → cur < st.toNat
  passed : st.toNat = 0 → b = 0 ∨ T.passed C (b - 1) = true

/-- The thread as it enters a stage, or skips it. -/
def Thread.enter (h : Thread) (st : BitVec 2) (C : Chain) (b : Nat) : Thread :=
  { h with stage := some st.toNat, skipped0 := h.skipped0 || (st == 0 && !C.runs b 0) }

section
variable (hs : Solo s (.stage st skip) c t T G h) (hC : T.chain = some C) (hb : G.beat = some b)
  (hnext : StageNext T C b h st)

include hs hC hb hnext

/-- What a marker does of a thread that may come to its stage. -/
theorem Solo.bodyStage : bodyStage st skip (c.lane t) s =
    (if G.cancelled || decide (C.trip + C.stages < b + 2) then do
      modTeam c.team (·.endThread t)
      endHere
    else do
      modThread c.team t (·.enter st C b)
      if C.runs b st.toNat then pure none else goTo (h.pc + BitVec.ofNat 64 (2 * skip.toNat)) : M Next) s := by
  have hpass : ¬ (st.toNat = 0 ∧ 0 < b ∧ (!T.passed C (b - 1)) = true) := by
    rintro ⟨h0, hpos, hnot⟩
    obtain hzero | hpassed := hnext.passed h0
    · omega
    · simp [hpassed] at hnot
  have henter : (fun h : Thread => { h with stage := some st.toNat, skipped0 := h.skipped0 || (st.toNat == 0 && !C.runs b 0) })
      = (·.enter st C b) := by
    have hzero : (st.toNat == 0) = (st == 0) := by
      rw [Bool.eq_iff_iff, beq_iff_eq, beq_iff_eq]
      exact ⟨fun h0 => BitVec.eq_of_toNat_eq h0, fun h0 => by rw [h0]; rfl⟩
    simp only [Thread.enter, hzero]
  cases hstage : h.stage with
  | none =>
    simp only [Machine.bodyStage, M.bind_apply, hs.chainOf hC hb, theThread_lane, M.pure_apply, hs.getThread, hs.getGroup,
      hstage, decide_eq_true hnext.exists_, Bool.and_self, check_true, hs.getTeam, hpass, if_false, henter]
  | some cur =>
    simp only [Machine.bodyStage, M.bind_apply, hs.chainOf hC hb, theThread_lane, M.pure_apply, hs.getThread, hs.getGroup,
      hstage, decide_eq_true hnext.exists_, decide_eq_true (hnext.later cur hstage), Bool.and_self, check_true, hs.getTeam,
      hpass, if_false, henter]

theorem exec_stage_enters (hc : G.cancelled = false) (hin : b + 2 ≤ C.trip + C.stages) (hruns : C.runs b st.toNat = true) :
    exec (.stage st skip) s = .next (s.after c t (·.enter st C b)) := by
  refine hs.ends_after ⟨_, exec_stage st skip s⟩ rfl ?_
  rw [hs.bodyStage hC hb hnext]
  simp only [hc, Nat.not_lt.mpr hin, decide_false, Bool.or_self, Bool.false_eq_true, if_false, M.bind_apply, modThread_apply,
    hruns, if_true, M.pure_apply]

theorem exec_stage_skips (hc : G.cancelled = false) (hin : b + 2 ≤ C.trip + C.stages) (hruns : C.runs b st.toNat = false) :
    exec (.stage st skip) s = .next (s.modThread c.team t fun h =>
      (h.enter st C b).goTo c.len (h.pc + BitVec.ofNat 64 (2 * skip.toNat))) := by
  have hbody : Machine.bodyStage st skip (c.lane t) s =
      .ok (some (h.pc + BitVec.ofNat 64 (2 * skip.toNat)), s.modThread c.team t (·.enter st C b)) := by
    rw [hs.bodyStage hC hb hnext]
    simp only [hc, Nat.not_lt.mpr hin, decide_false, Bool.or_self, Bool.false_eq_true, if_false, M.bind_apply, modThread_apply,
      hruns, goTo, M.pure_apply]
  rw [LaneInstr.goes ⟨fun _ _ => rfl, exec_stage st skip⟩ hs hbody, State.modThread_modThread]
  exact congrArg _ (State.modThread_congr hs.team hs.thread rfl)

/-- R135: a thread beyond the drain, or of a cancelled group. -/
theorem exec_stage_ends (hend : G.cancelled = true ∨ C.trip + C.stages < b + 2) :
    exec (.stage st skip) s = .next (s.modTeam c.team (·.endThread t)) := by
  have hcond : (G.cancelled || decide (C.trip + C.stages < b + 2)) = true := by
    obtain hc | hlt := hend
    · simp [hc]
    · simp [hlt]
  have hbody : Machine.bodyStage st skip (c.lane t) s = .error (.done (s.modTeam c.team (·.endThread t))) := by
    rw [hs.bodyStage hC hb hnext, if_pos hcond]
    rfl
  obtain ⟨h', hh', hended, -⟩ := Team.endThread_ended hs.thread
  have hT' : (s.modTeam c.team (·.endThread t)).team? c.team = some (T.endThread t) := by
    rw [State.team?_modTeam, if_pos rfl, hs.team]
    rfl
  rw [hs.ends_done ⟨_, exec_stage st skip s⟩ rfl hbody, State.endIfCancelled_of_ended hT' hh' hended]

end

theorem exec_chend_of_stage0 (hs : Solo s .chend c t T G h) (hC : T.chain = some C) (hb : G.beat = some b)
    (hstage : h.stage = some 0) : exec .chend s = .next ((s.modTeam c.team fun T =>
      ({ T with chain := T.chain.map fun C => { C with trip := b + 1 } } : Team).cancelBeyond).after c t fun h => h) := by
  refine hs.ends_next ⟨_, exec_chend s⟩ rfl ?_
  simp only [bodyChend, seq_apply, M.bind_apply, hs.chainOf hC hb, theThread_lane, M.pure_apply, hs.getThread, hstage,
    beq_self_eq_true, check_true, modTeam_apply]

theorem exec_chend_elsewhere (hs : Solo s .chend c t T G h) (hC : T.chain = some C) (hb : G.beat = some b)
    (hstage : h.stage ≠ some 0) : exec .chend s = .next (s.trapped c .chend t Cause.illegal 0 none) := by
  refine hs.ends_trap ⟨_, exec_chend s⟩ rfl ?_
  simp only [bodyChend, seq_apply, M.bind_apply, hs.chainOf hC hb, theThread_lane, M.pure_apply, hs.getThread,
    beq_eq_false_iff_ne.mpr hstage, check_false, trap_apply]

/-- The chain with a seed set. -/
def Chain.seed (C : Chain) (key : Nat) (v : Word) : Chain := { C with seeds := SMap.put C.seeds key v 0 }

/-- Before stage 1 (R134). -/
def Thread.beforeStage1 (h : Thread) : Prop := h.stage = none ∨ h.stage = some 0

theorem exec_chseed_sets (hs : Solo s (.chseed k a) c t T G h) (hC : T.chain = some C) (hb : G.beat = some b) (hb0 : b = 0)
    (hstage : h.beforeStage1) : exec (.chseed k a) s = .next ((s.modTeam c.team fun T' =>
      { T' with chain := some (C.seed (128 * k.toNat + T.index t) (h.val a)) }).after c t fun h => h) := by
  refine hs.ends_next ⟨_, exec_chseed k a s⟩ rfl ?_
  subst hb0
  obtain hstage | hstage := hstage <;>
    simp only [bodyChseed, seq_apply, M.bind_apply, hs.getTeam, theThread_lane, M.pure_apply, hs.getGroup, hs.getThread, hC, hb,
      hstage, beq_self_eq_true, Bool.and_self, check_true, hs.rd (hs.lt (r := a) (by simp)), modTeam_apply] <;>
    rfl

theorem exec_chseed_late (hs : Solo s (.chseed k a) c t T G h) (hC : T.chain = some C) (hb : G.beat = some b)
    (hlate : b ≠ 0 ∨ ∃ cur, h.stage = some cur ∧ cur ≠ 0) :
    exec (.chseed k a) s = .next (s.trapped c (.chseed k a) t Cause.illegal 0 none) := by
  refine hs.ends_trap ⟨_, exec_chseed k a s⟩ rfl ?_
  obtain hb0 | ⟨cur, hstage, hcur⟩ := hlate
  · simp only [bodyChseed, seq_apply, M.bind_apply, hs.getTeam, theThread_lane, M.pure_apply, hs.getGroup, hs.getThread, hC, hb,
      beq_eq_false_iff_ne.mpr hb0, Bool.false_and, check_false, trap_apply]
  · simp only [bodyChseed, seq_apply, M.bind_apply, hs.getTeam, theThread_lane, M.pure_apply, hs.getGroup, hs.getThread, hC, hb,
      hstage, beq_eq_false_iff_ne.mpr hcur, Bool.and_false, check_false, trap_apply]

end Sys2Proof.Machine

open Sys2Proof Sys2Proof.Machine

/-- Settles O31: pushes and pops of decision queues, stages by their beat, and what CHEND and CHSEED set. -/
theorem chainsAndQueues : Obligations.ChainsAndQueues := by
  refine ⟨fun g a d s c => ⟨fun T x Q hs hg hQ hlive hroom => ?_, fun t T G h Q v hs hg hQ hlive hroom hw => ?_,
    fun t T G h hs hne => ?_⟩, fun st skip k a s c t T G h => ⟨fun i hi hs hno => ?_, fun C b hC hb => ?_⟩⟩
  · exact exec_dqpush_front hs hg hQ hlive hroom
  · exact exec_dqpush_lead hs hg hQ hlive hroom hw
  · exact exec_dqpop_of_solo hs hne
  · exact exec_chain_illegal hi hs hno
  · refine ⟨fun hs ⟨hst, hlater, hpass⟩ hc hin hruns => ?_, fun hs ⟨hst, hlater, hpass⟩ hc hin hruns => ?_,
      fun hs ⟨hst, hlater, hpass⟩ hend => ?_, fun hs hstage => ?_, fun hs hstage => ?_, fun hs hb0 hstage => ?_,
      fun hs hlate => ?_⟩
    · exact exec_stage_enters hs hC hb ⟨hst, hlater, hpass⟩ hc hin hruns
    · exact exec_stage_skips hs hC hb ⟨hst, hlater, hpass⟩ hc hin hruns
    · exact exec_stage_ends hs hC hb ⟨hst, hlater, hpass⟩ hend
    · exact exec_chend_of_stage0 hs hC hb hstage
    · exact exec_chend_elsewhere hs hC hb hstage
    · exact exec_chseed_sets hs hC hb hb0 hstage
    · exact exec_chseed_late hs hC hb hlate
end

section
/-!
PROOFS. An arrival at a group operation gives up the thread's places in the lines of ports (O33): the state that the
statement gives for a thread that waits keeps them.
-/

namespace Sys2Proof.Machine

/-- A thread that has a place in the line of in0, whatever it waited for there. -/
def placedThread : Thread := { Thread.create 0 0 with places := [(0, 1)] }

/-- Two threads of a group whose s0 names both. -/
def placedTeam : Team :=
  let T := Team.create 0 listedLaunch (0, 0) 0 0 0 0 [3] 0 0
  { T with status := .resident, threads := [(0, placedThread), (1, Thread.create 0 0)] }

def placedState : State := { State.reset with cur := some listedIssue, teams := [(0, placedTeam)] }

theorem solo_placedState : ∃ G, placedTeam.group? 0 = some G ∧ G.ops = [] ∧ G.cancelled = false ∧
    (G.mask placedTeam.width 0).getLsbD 0 = true ∧ (G.mask placedTeam.width 0).getLsbD 1 = true ∧
    Solo placedState (.elect 0 0) listedIssue 0 placedTeam G placedThread := by
  refine ⟨_, rfl, rfl, rfl, by decide, by decide,
    ⟨⟨⟨rfl, ⟨rfl, rfl⟩, rfl, ⟨.inl rfl, rfl⟩, rfl, rfl, rfl, ?_⟩, rfl, rfl⟩, rfl⟩⟩
  decide

/-- The places of thread 0 after a step. -/
def placesAfter (r : Result) : Option (SMap Nat) :=
  match r with
  | .next s => (s.thread? 0 0).map Thread.places
  | _ => none

/-- The places of a thread that changes in a state whose groups have changed. -/
theorem placesAfter_wait {s : State} {c : Issue} {T : Team} {h : Thread} (hT : s.team? 0 = some T) (hh : T.thread? 0 = some h)
    (hc : c.team = 0) (f : Group → Group) (w : Option Wait) :
    placesAfter (.next ((s.modGroupAt c 0 T f).modThread c.team 0 fun h => { h with wait := w })) = some h.places := by
  have hT' : (s.modGroupAt c 0 T f).team? 0 = some (T.modGroup (T.groupIx 0) f) := by
    rw [State.modGroupAt, State.team?_modTeam, if_pos hc.symm, hT]
    rfl
  rw [hc, placesAfter, State.thread?, State.team?_modThread hT', Option.bind_some,
    Team.thread?_modThread (T := T.modGroup _ _) hh]
  rfl

theorem placesAfter_elect : placesAfter (exec (.elect 0 0) placedState) = some [] := by rfl

end Sys2Proof.Machine

open Sys2Proof Sys2Proof.Machine

/-- Refutes O33: thread 0 of `placedState` arrives at an ELECT and waits for thread 1, with its place at in0 given up. -/
theorem not_groupOperations : ¬ Obligations.GroupOperations := by
  intro hops
  obtain ⟨G, hG, hnone, hc, h0, h1, hs⟩ := solo_placedState
  obtain ⟨-, hwaits, -⟩ := hops (.elect 0 0) placedState listedIssue 0 placedTeam G placedThread 0 [] rfl hs
  have hstep := hwaits h0 hnone hc ⟨1, Thread.create 0 0, by decide, by decide, h1, rfl, rfl⟩
  have hplaces := placesAfter_elect
  rw [hstep] at hplaces
  exact absurd ((placesAfter_wait rfl rfl rfl _ _).symm.trans hplaces) (by decide)
end

section
/-!
PROOFS. The copy instructions start their copies (O23); what the start of an engine operation shares with O25 and O26.
-/

namespace Sys2Proof.Machine

variable {s u : State} {i : Instr} {c : Issue} {t : Nat} {T : Team} {G : Group} {h : Thread} {p r : BitVec 8} {sc : BitVec 5}
  {n k : Nat} {bar : Option Nat}

/-! ### The start of an engine operation -/

theorem State.modTeam_id (s : State) (k : Nat) : s.modTeam k (fun T => T) = s := by
  simp only [State.modTeam, SMap.modify_id]

theorem State.modTeam_modTeam (s : State) (k : Nat) (f g : Team → Team) :
    (s.modTeam k f).modTeam k g = s.modTeam k fun T => g (f T) := by
  simp only [State.modTeam, SMap.modify_modify]

theorem Sole.newOp (hs : Sole s i c t T G h) : newOp (c.lane t) s = .ok (newOrigin s T (.thread t), s.opened) := by
  simp only [Machine.newOp, M.bind_apply, pushFirst_apply, hs.pushPending, Bool.false_eq_true, if_false, hs.getTeam]
  rfl

/-- R173: an engine registers on its barrier. -/
theorem registerNb_apply (hT : u.team? k = some T) (hb : mayEnlist T bar) :
    registerNb k bar u = .ok ((), u.modTeam k (·.enlist bar)) := by
  cases bar with
  | none => exact congrArg (fun x => Except.ok ((), x)) (State.modTeam_id u k).symm
  | some b =>
    simp only [registerNb, M.bind_apply, getTeam_apply hT, check_apply, decide_eq_true (hb b rfl), if_true, modTeam_apply]
    exact congrArg (fun x => Except.ok ((), x)) (State.modTeam_congr hT rfl)

/-- R174, R176: a copy that may register starts. -/
theorem Sole.startCopy (hs : Sole s i c t T G h) {C : Origin → Copy} (hb : mayEnlist T (C (newOrigin s T (.thread t))).barrier) :
    startCopy (c.lane t) C s =
      .ok ((), s.opened.modTeam c.team (·.start (C (newOrigin s T (.thread t))))) := by
  simp only [Machine.startCopy, M.bind_apply, hs.newOp, modTeam_apply]
  rw [registerNb_apply (u := s.opened) hs.team hb]
  simp only [State.modTeam_modTeam]
  rfl

/-! ### Operands -/

theorem localRange_apply {x : Word} {pl : Local} {rl : Nat} (hr : Resolves s k x n pl rl) :
    localRange k x n s = .ok (some (pl, rl), s) := by
  obtain ⟨hl, P, hP, rfl⟩ := hr
  simp [localRange, hl, hP]

theorem byteCount_apply {ctl : Word} (hz : ctl.extractLsb' 23 9 = 0) (hn : (ctl.extractLsb' 0 18).toNat ≠ 0)
    (h16 : (ctl.extractLsb' 0 18).toNat % 16 = 0) : byteCount ctl s = .ok ((ctl.extractLsb' 0 18).toNat, s) := by
  have hcheck : (ctl.extractLsb' 23 9 == 0 && (ctl.extractLsb' 0 18).toNat != 0 && (ctl.extractLsb' 0 18).toNat % 16 == 0) =
      true := by
    rw [hz, bne_iff_ne.mpr hn, h16]
    rfl
  simp only [byteCount, M.bind_apply, check_apply, hcheck, if_true, M.pure_apply]

theorem byteCount_uneven {ctl : Word} (h16 : (ctl.extractLsb' 0 18).toNat % 16 ≠ 0) :
    byteCount ctl s = .error (.trap Cause.operandFormat 0) := by
  have hcheck : (ctl.extractLsb' 23 9 == 0 && (ctl.extractLsb' 0 18).toNat != 0 && (ctl.extractLsb' 0 18).toNat % 16 == 0) =
      false := by
    rw [beq_false_of_ne h16, Bool.and_false]
  simp only [byteCount, M.bind_apply, check_apply, hcheck, Bool.false_eq_true, if_false]

/-- A list of reads that change nothing. -/
theorem mapM_apply {α β : Type} {f : α → M β} {g : α → β} (hf : ∀ x, f x s = .ok (g x, s)) (xs : List α) :
    xs.mapM f s = .ok (xs.map g, s) := by
  induction xs with
  | nil => rfl
  | cons x xs ih => rw [List.mapM_cons]; simp only [M.bind_apply, hf, ih, M.pure_apply, List.map_cons]

/-- R176: the coordinates of a box are s registers of the group. -/
theorem At.readCoords (hs : At s c t T G h) (sc rank : Nat) :
    readCoords (c.lane t) sc rank s = .ok ((List.range rank).map fun j => (G.sreg (sc + j)).toInt, s) := by
  refine mapM_apply (fun j => ?_) _
  have hj : rdS (c.lane t) (sc + j) s = .ok (G.sreg (sc + j), s) := by simp [rdS, hs.getGroup]
  show (do pure (← rdS (c.lane t) (sc + j)).toInt : M Int) s = _
  simp only [M.bind_apply, hj, M.pure_apply]

/-- An effect without a next instruction of its own. -/
theorem seq_ok {m : M Unit} (hm : m s = .ok ((), u)) : seq m s = .ok (none, u) := by
  rw [seq_apply, hm]

/-! ### The copies -/

/-- The copy that CPY.L2L of these operands starts. -/
def l2lCopy (src dst ctl : Word) (from_ to_ : Local × Nat) (o : Origin) : Copy :=
  { kind := .l2l, origin := o, desc := [], coord := [], src := src.setWidth 64, dst := dst.setWidth 64, srcAt := some from_,
    dstAt := some to_, total := (ctl.extractLsb' 0 18).toNat, done := 0, barrier := ctlBarrier ctl, sleep := none, parts := [],
    out := [] }

/-- The copy that CPY.G2G starts. -/
def g2gCopy (src dst : Word64) (ctl : Word) (o : Origin) : Copy :=
  { kind := .g2g, origin := o, desc := [], coord := [], src := src, dst := dst, srcAt := none, dstAt := none,
    total := (ctl.extractLsb' 0 18).toNat, done := 0, barrier := ctlBarrier ctl, sleep := none, parts := [], out := [] }

/-- The copy that CPY.G2L or CPY.L2G starts, for the box of a descriptor. -/
def boxCopyOf (kind : CopyKind) (desc : List Byte) (coord : List Int) (x ctl : Word) (place : Local × Nat) (o : Origin) : Copy :=
  let g2l := kind == .g2l
  { kind := kind, origin := o, desc := desc, coord := coord, src := if g2l then 0 else x.setWidth 64,
    dst := if g2l then x.setWidth 64 else 0, srcAt := if g2l then none else some place,
    dstAt := if g2l then some place else none, total := (Box.of desc).bytes, done := 0, barrier := ctlBarrier ctl,
    sleep := none, parts := [], out := [] }

/-! ### The instructions -/

theorem exec_cpyL2l_of_solo {pl ql : Local} {rl ql' : Nat} (hs : Solo s (.cpyL2l p r) c t T G h)
    (hz : (h.val r).extractLsb' 23 9 = 0) (hn : ((h.val r).extractLsb' 0 18).toNat ≠ 0)
    (h16 : ((h.val r).extractLsb' 0 18).toNat % 16 = 0)
    (hsrc : Resolves s c.team (h.reg (p.toNat + 1)) ((h.val r).extractLsb' 0 18).toNat pl rl)
    (hdst : Resolves s c.team (h.reg p.toNat) ((h.val r).extractLsb' 0 18).toNat ql ql')
    (hb : mayEnlist T (ctlBarrier (h.val r))) :
    exec (.cpyL2l p r) s = .next ((s.opened.modTeam c.team (·.start
      (l2lCopy (h.reg (p.toNat + 1)) (h.reg p.toNat) (h.val r) (pl, rl) (ql, ql') (newOrigin s T (.thread t))))).after c t
        fun h => h) := by
  refine hs.ends_next ⟨_, exec_cpyL2l p r s⟩ rfl ?_
  have hr : r.toNat < 220 := hs.lt (by simp)
  have hlow : (h.pair p).extractLsb' 0 32 = h.reg p.toNat := by
    rw [← BitVec.setWidth_eq_extractLsb' (by decide)]
    exact h.pair_low p
  have hstart := hs.startCopy (C := l2lCopy (h.reg (p.toNat + 1)) (h.reg p.toNat) (h.val r) (pl, rl) (ql, ql')) hb
  refine seq_ok ?_
  simp only [M.bind_apply, hs.rd64, hs.rd hr, byteCount_apply hz hn h16, Thread.pair_high, hlow,
    localRange_apply hsrc, localRange_apply hdst]
  exact hstart

theorem exec_cpyG2g_of_solo (hs : Solo s (.cpyG2g p r) c t T G h)
    (hz : (h.val r).extractLsb' 23 9 = 0) (hn : ((h.val r).extractLsb' 0 18).toNat ≠ 0)
    (h16 : ((h.val r).extractLsb' 0 18).toNat % 16 = 0) (hb : mayEnlist T (ctlBarrier (h.val r))) :
    exec (.cpyG2g p r) s = .next ((s.opened.modTeam c.team (·.start
      (g2gCopy (h.pair (p + 2)) (h.pair p) (h.val r) (newOrigin s T (.thread t))))).after c t fun h => h) := by
  refine hs.ends_next ⟨_, exec_cpyG2g p r s⟩ rfl ?_
  have hr : r.toNat < 220 := hs.lt (by simp)
  have hstart := hs.startCopy (C := g2gCopy (h.pair (p + 2)) (h.pair p) (h.val r)) hb
  refine seq_ok ?_
  simp only [M.bind_apply, hs.rd64, hs.rd hr, byteCount_apply hz hn h16]
  exact hstart

/-- R176: a byte count that is no multiple of 16, found before any address is. -/
theorem exec_copy_uneven (hi : i = .cpyL2l p r ∨ i = .cpyG2g p r) (hs : Solo s i c t T G h)
    (h16 : ((h.val r).extractLsb' 0 18).toNat % 16 ≠ 0) :
    exec i s = .next (s.trapped c i t Cause.operandFormat 0 none) := by
  obtain rfl | rfl := hi
  · have hr : r.toNat < 220 := hs.lt (by simp)
    refine hs.ends_trap ⟨_, exec_cpyL2l p r s⟩ rfl ?_
    simp only [bodyCpyL2l, localCopy, seq_apply, M.bind_apply, hs.rd64, hs.rd hr, byteCount_uneven h16]
  · have hr : r.toNat < 220 := hs.lt (by simp)
    refine hs.ends_trap ⟨_, exec_cpyG2g p r s⟩ rfl ?_
    simp only [bodyCpyG2g, globalCopy, seq_apply, M.bind_apply, hs.rd64, hs.rd hr, byteCount_uneven h16]

theorem exec_cpyPfx_of_solo (hs : Solo s (.cpyPfx p r) c t T G h) (hz : (h.val r).extractLsb' 27 5 = 0) :
    exec (.cpyPfx p r) s = .next (s.after c t fun h => h) := by
  have hr : r.toNat < 220 := hs.lt (by simp)
  refine hs.ends_next ⟨_, exec_cpyPfx p r s⟩ rfl ?_
  simp [bodyCpyPfx, seq_apply, hs.rd hr, hz]

/-! ### Boxes -/

/-- The premises of the copies of boxes: a control word, and a descriptor in the scratchpad, that pass R176's checks. -/
structure BoxOk (s : State) (T : Team) (x ctl : Word) (sc : BitVec 5) (desc : List Byte) : Prop where
  zero : ctl.extractLsb' 23 9 = 0
  aligned : (ctl.extractLsb' 0 18).toNat % 64 = 0
  inside : (ctl.extractLsb' 0 18).toNat + 64 ≤ T.size
  sound : CoreSound s T
  desc_eq : desc = readBytes T.sp (ctl.extractLsb' 0 18).toNat 64
  valid : boxValid desc = true
  swizzle : (Box.of desc).swizzle = true → (Box.of desc).ext.headD 0 * (Box.of desc).esize % 128 = 0 ∧ x.toNat % 128 = 0
  coords : sc.toNat + fieldN desc 8 1 ≤ 64

/-- The signed coordinates that s registers hold. -/
def Group.coords (G : Group) (sc rank : Nat) : List Int := (List.range rank).map fun j => (G.sreg (sc + j)).toInt

theorem BoxOk.boxSeen {x ctl : Word} {desc : List Byte} (hbox : BoxOk s T x ctl sc desc) (hT : s.team? k = some T) :
    s.boxSeen k (ctl.extractLsb' 0 18).toNat = desc := by
  simp only [State.boxSeen, hT, hbox.sound.readLocal (l := ⟨k, (ctl.extractLsb' 0 18).toNat, false⟩) hT, hbox.aligned, hbox.inside,
    and_self, if_true, hbox.desc_eq]

/-- R176: a box copy that passes its checks starts the copy of its kind. -/
theorem Solo.boxCopy (hs : Solo s i c t T G h) {kind : CopyKind} {desc : List Byte} {pl : Local} {rl : Nat}
    (hp : p.toNat < 220) (hr : r.toNat < 220) (hbox : BoxOk s T (h.val p) (h.val r) sc desc)
    (hat : Resolves s c.team (h.val p) (Box.of desc).bytes pl rl) (hb : mayEnlist T (ctlBarrier (h.val r))) :
    boxCopy kind sc p r (c.lane t) s = .ok (none, s.opened.modTeam c.team (·.start
      (boxCopyOf kind desc (G.coords sc.toNat (Box.of desc).rank) (h.val p) (h.val r) (pl, rl)
        (newOrigin s T (.thread t))))) := by
  have hstart := hs.startCopy
    (C := boxCopyOf kind desc (G.coords sc.toNat (Box.of desc).rank) (h.val p) (h.val r) (pl, rl)) hb
  have hseen : (desc.isEmpty || decide (sc.toNat + fieldN desc 8 1 ≤ 64)) = true := by
    rw [decide_eq_true hbox.coords, Bool.or_true]
  have hctl : ((h.val r).extractLsb' 23 9 == 0 && ((h.val r).extractLsb' 0 18).toNat % 64 == 0) = true := by
    rw [hbox.zero, hbox.aligned]
    rfl
  have hform : (boxValid desc && (!(Box.of desc).swizzle || (((Box.of desc).ext.headD 0 * (Box.of desc).esize) % 128 == 0 &&
      (h.val p).toNat % 128 == 0))) = true := by
    rw [hbox.valid, Bool.true_and]
    cases hsw : (Box.of desc).swizzle with
    | false => rfl
    | true =>
      rw [(hbox.swizzle hsw).1, (hbox.swizzle hsw).2]
      rfl
  refine seq_ok ?_
  simp only [M.bind_apply, hs.rd hp, hs.rd hr, hs.getTeam, M.get_apply, hbox.boxSeen hs.team, check_apply, hseen, hctl,
    if_true, decide_eq_true hbox.inside, hbox.sound.readLocal (l := ⟨c.team, ((h.val r).extractLsb' 0 18).toNat, false⟩) hs.team,
    ← hbox.desc_eq, hform, localRange_apply hat, hs.readCoords]
  exact hstart

theorem exec_cpyG2l_of_solo {desc : List Byte} {pl : Local} {rl : Nat} (hs : Solo s (.cpyG2l sc p r) c t T G h)
    (hbox : BoxOk s T (h.val p) (h.val r) sc desc) (hat : Resolves s c.team (h.val p) (Box.of desc).bytes pl rl)
    (hb : mayEnlist T (ctlBarrier (h.val r))) :
    exec (.cpyG2l sc p r) s = .next ((s.opened.modTeam c.team (·.start
      (boxCopyOf .g2l desc (G.coords sc.toNat (Box.of desc).rank) (h.val p) (h.val r) (pl, rl)
        (newOrigin s T (.thread t))))).after c t fun h => h) :=
  hs.ends_next ⟨_, exec_cpyG2l sc p r s⟩ rfl (hs.boxCopy (hs.lt (by simp)) (hs.lt (by simp)) hbox hat hb)

theorem exec_cpyL2g_of_solo {desc : List Byte} {pl : Local} {rl : Nat} (hs : Solo s (.cpyL2g sc p r) c t T G h)
    (hbox : BoxOk s T (h.val p) (h.val r) sc desc) (hat : Resolves s c.team (h.val p) (Box.of desc).bytes pl rl)
    (hb : mayEnlist T (ctlBarrier (h.val r))) :
    exec (.cpyL2g sc p r) s = .next ((s.opened.modTeam c.team (·.start
      (boxCopyOf .l2g desc (G.coords sc.toNat (Box.of desc).rank) (h.val p) (h.val r) (pl, rl)
        (newOrigin s T (.thread t))))).after c t fun h => h) :=
  hs.ends_next ⟨_, exec_cpyL2g sc p r s⟩ rfl (hs.boxCopy (hs.lt (by simp)) (hs.lt (by simp)) hbox hat hb)

end Sys2Proof.Machine

open Sys2Proof Sys2Proof.Machine

/-- Settles O23: each instruction passes its checks in R176's order and starts its copy. -/
theorem copyStarts : Obligations.CopyStarts := by
  intro p r sc s c t T G h ctl hctl
  subst hctl
  refine ⟨?_, ?_, ?_, ?_, ?_⟩
  · intro pl ql rl ql' hs hz hn h16 hsrc hdst hb
    exact exec_cpyL2l_of_solo hs hz hn h16 hsrc hdst hb
  · intro hs hz hn h16 hb
    exact exec_cpyG2g_of_solo hs hz hn h16 hb
  · intro pl rl hat desc b hz h64 hin hsound hvalid hswizzle hcoords hb
    have hbox : BoxOk s T (h.val p) (h.val r) sc desc := ⟨hz, h64, hin, hsound, rfl, hvalid, hswizzle, hcoords⟩
    exact ⟨fun hs => exec_cpyG2l_of_solo hs hbox hat hb, fun hs => exec_cpyL2g_of_solo hs hbox hat hb⟩
  · exact fun hs hz => exec_cpyPfx_of_solo hs hz
  · exact fun i hi hs h16 => exec_copy_uneven hi hs h16
end

section
/-!
PROOFS. Stream ports and wings (O24).
-/

namespace Sys2Proof.Machine

variable {s u : State} {i : Instr} {c : Issue} {t : Nat} {T : Team} {G : Group} {h : Thread} {p : BitVec 2} {d a : BitVec 8}
  {w : BitVec 4} {k : Nat}

/-! ### Stream ports -/

theorem portRest_apply (hT : s.team? k = some T) (hp : T.portBusy p = false) : portRest k p s = .ok ((), s) := by
  simp [portRest, getTeam_apply hT, hp]

theorem exec_strmOff_of_solo (hs : Solo s (.strmOff p) c t T G h) (hp : T.portBusy p = false) :
    exec (.strmOff p) s =
      .next ((s.modTeam c.team fun T => { T with ports := SMap.erase p.toNat T.ports }).after c t fun h => h) := by
  refine hs.ends_next ⟨_, exec_strmOff p s⟩ rfl (seq_ok ?_)
  simp only [M.bind_apply, portRest_apply hs.team hp, modTeam_apply]

/-- The ring of a descriptor, in a window or not. -/
def ringOf (r : List Byte) (window : Bool) : Ring :=
  ⟨BitVec.ofNat 32 (fieldN r 0 4), BitVec.ofNat 32 (fieldN r 4 4), fieldN r 8 2, window⟩

/-- R179: a descriptor that breaks no rule, of a ring that lies in one scratchpad that the port may use. -/
structure RingOk (s : State) (k : Nat) (p : BitVec 2) (r : List Byte) (A B : Local) : Prop where
  valid : ringValid r = true
  elements : s.local? k (fieldN r 0 4) (4 * fieldN r 8 2) = .ok A
  control : s.local? k (fieldN r 4 4) 8 = .ok B
  window : A.window = B.window
  team : A.team = B.team
  port : p.getLsbD 1 = true ∨ A.window = false

/-- What is wrong with a descriptor. -/
def RingBad (s : State) (k : Nat) (p : BitVec 2) (r : List Byte) : Prop :=
  ringValid r = false ∨ (∃ e, s.local? k (fieldN r 0 4) (4 * fieldN r 8 2) = .error e) ∨
    (∃ e, s.local? k (fieldN r 4 4) 8 = .error e) ∨
    ∃ A B, s.local? k (fieldN r 0 4) (4 * fieldN r 8 2) = .ok A ∧ s.local? k (fieldN r 4 4) 8 = .ok B ∧
      (A.window ≠ B.window ∨ A.team ≠ B.team ∨ p.getLsbD 1 = false ∧ A.window = true)

/-- The team with a port bound to a ring. -/
def Team.bindPort (T : Team) (p : BitVec 2) (R : Ring) : Team := { T with ports := SMap.insert p.toNat R T.ports }

theorem exec_strm_of_solo (hs : Solo s (.strm p d) c t T G h) (hp : T.portBusy p = false) (hal : (h.val d).toNat % 16 = 0)
    (hin : (h.val d).toNat + 16 ≤ T.size) (hsound : CoreSound s T) {A B : Local}
    (hr : RingOk s c.team p (readBytes T.sp (h.val d).toNat 16) A B) :
    exec (.strm p d) s = .next ((s.modTeam c.team
      (·.bindPort p (ringOf (readBytes T.sp (h.val d).toNat 16) A.window))).after c t fun h => h) := by
  have hd : d.toNat < 220 := hs.lt (by simp)
  have hcheck : ((h.val d).toNat % 16 == 0 && decide ((h.val d).toNat + 16 ≤ T.size)) = true := by simp [hal, hin]
  have hplace : (A.window == B.window && A.team == B.team && (p.getLsbD 1 || !A.window)) = true := by
    rw [hr.window, hr.team, beq_self_eq_true, beq_self_eq_true, Bool.true_and, Bool.true_and, ← hr.window]
    obtain hp | hp := hr.port <;> simp [hp]
  refine hs.ends_next ⟨_, exec_strm p d s⟩ rfl (seq_ok ?_)
  simp only [M.bind_apply, hs.rd hd, hs.uniform, check_apply, if_true, portRest_apply hs.team hp, hs.getTeam, hcheck,
    hsound.readLocal (l := ⟨c.team, (h.val d).toNat, false⟩) hs.team, hr.valid, M.get_apply, hr.elements, hr.control, hplace,
    modTeam_apply, Issue.lane]
  rfl

/-- R179: a descriptor that is misaligned or outside the scratchpad. -/
theorem exec_strm_outside (hs : Solo s (.strm p d) c t T G h) (hp : T.portBusy p = false)
    (hx : (h.val d).toNat % 16 ≠ 0 ∨ T.size < (h.val d).toNat + 16) :
    exec (.strm p d) s = .next (s.trapped c (.strm p d) t Cause.streamMisuse 0 none) := by
  have hd : d.toNat < 220 := hs.lt (by simp)
  have hcheck : ((h.val d).toNat % 16 == 0 && decide ((h.val d).toNat + 16 ≤ T.size)) = false := by
    simp only [Bool.and_eq_false_iff, beq_eq_false_iff_ne, decide_eq_false_iff_not, Nat.not_le]
    exact hx
  refine hs.ends_trap ⟨_, exec_strm p d s⟩ rfl ?_
  simp only [bodyStrm, seq_apply, M.bind_apply, hs.rd hd, hs.uniform, check_apply, if_true, portRest_apply hs.team hp, hs.getTeam,
    hcheck, Bool.false_eq_true, if_false, Issue.lane]

theorem exec_strm_bad (hs : Solo s (.strm p d) c t T G h) (hp : T.portBusy p = false) (hal : (h.val d).toNat % 16 = 0)
    (hin : (h.val d).toNat + 16 ≤ T.size) (hsound : CoreSound s T)
    (hbad : RingBad s c.team p (readBytes T.sp (h.val d).toNat 16)) :
    exec (.strm p d) s = .next (s.trapped c (.strm p d) t Cause.streamMisuse 0 none) := by
  have hd : d.toNat < 220 := hs.lt (by simp)
  have hcheck : ((h.val d).toNat % 16 == 0 && decide ((h.val d).toNat + 16 ≤ T.size)) = true := by simp [hal, hin]
  refine hs.ends_trap ⟨_, exec_strm p d s⟩ rfl ?_
  simp only [bodyStrm, seq_apply, M.bind_apply, hs.rd hd, hs.uniform, check_apply, if_true, portRest_apply hs.team hp, hs.getTeam,
    hcheck, hsound.readLocal (l := ⟨c.team, (h.val d).toNat, false⟩) hs.team, Issue.lane]
  generalize readBytes T.sp (h.val d).toNat 16 = r at hbad
  cases hvalid : ringValid r with
  | false => rfl
  | true =>
    simp only [if_true, M.get_apply]
    obtain hv | ⟨e, he⟩ | ⟨e, he⟩ | ⟨A, B, hA, hB, hAB⟩ := hbad
    · rw [hv] at hvalid
      contradiction
    · simp only [he]
      rfl
    · cases s.local? c.team (fieldN r 0 4) (4 * fieldN r 8 2) <;> simp only [he] <;> rfl
    · have hplace : (A.window == B.window && A.team == B.team && (p.getLsbD 1 || !A.window)) = false := by
        obtain hne | hne | ⟨hin, hwin⟩ := hAB
        · simp [hne]
        · simp [hne]
        · rw [hin, hwin]
          simp
      simp only [hA, hB, M.bind_apply, check_apply, hplace, Bool.false_eq_true, if_false]

/-! ### Wing membership -/

theorem State.modTeam_same (hT : s.team? k = some T) : s.modTeam k (fun _ => T) = s :=
  (State.modTeam_congr (g := fun T => T) hT rfl).trans (s.modTeam_id k)

/-- R182: WJOIN of a team that is in a wing leaves it there. -/
theorem exec_wjoin_member (hs : Solo s (.wjoin d a) c t T G h) {b m : Nat} (hw : T.wing = some (b, m)) :
    exec (.wjoin d a) s = .next (s.after c t (·.put d (BitVec.ofNat 32 (if b = (h.val a).toNat then 0
      else if (s.members T.ctx (h.val a).toNat).length = 16 then 1 else 2)))) := by
  have ha : a.toNat < 220 := hs.lt (by simp)
  have hd : d.toNat < 220 := hs.lt (by simp)
  refine hs.ends_after ⟨_, exec_wjoin d a s⟩ rfl (seq_ok ?_)
  simp only [M.bind_apply, hs.rd ha, hs.uniform, check_apply, if_true, hs.getTeam, M.get_apply, hw, modTeam_apply]
  split
  · simp only [State.modTeam_same hs.team, wr_put hd, *]
  · split
    · simp only [State.modTeam_same hs.team, wr_put hd, *]
    · simp only [State.modTeam_same hs.team, wr_put hd, *]

/-- R182: WJOIN with no wing that takes the team. -/
theorem exec_wjoin_refused (hs : Solo s (.wjoin d a) c t T G h) (hw : T.wing = none) {status : Nat}
    (hst : 255 < (h.val a).toNat ∧ status = 3 ∨
      (h.val a).toNat ≤ 255 ∧ leastFree ((s.members T.ctx (h.val a).toNat).map (·.1)) 16 0 = none ∧ status = 1) :
    exec (.wjoin d a) s = .next (s.after c t (·.put d (BitVec.ofNat 32 status))) := by
  have ha : a.toNat < 220 := hs.lt (by simp)
  have hd : d.toNat < 220 := hs.lt (by simp)
  refine hs.ends_after ⟨_, exec_wjoin d a s⟩ rfl (seq_ok ?_)
  simp only [M.bind_apply, hs.rd ha, hs.uniform, check_apply, if_true, hs.getTeam, M.get_apply, hw, modTeam_apply]
  obtain ⟨hbig, rfl⟩ | ⟨hle, hfull, rfl⟩ := hst
  · simp only [hbig, if_true, State.modTeam_same hs.team, wr_put hd]
  · simp only [Nat.not_lt.mpr hle, if_false, hfull, State.modTeam_same hs.team, wr_put hd]

theorem exec_wjoin_joins (hs : Solo s (.wjoin d a) c t T G h) (hw : T.wing = none) (hle : (h.val a).toNat ≤ 255) {m : Nat}
    (hfree : leastFree ((s.members T.ctx (h.val a).toNat).map (·.1)) 16 0 = some m) :
    exec (.wjoin d a) s =
      .next ((s.modTeam c.team fun T => { T with wing := some ((h.val a).toNat, m) }).after c t (·.put d 0)) := by
  have ha : a.toNat < 220 := hs.lt (by simp)
  have hd : d.toNat < 220 := hs.lt (by simp)
  refine hs.ends_after ⟨_, exec_wjoin d a s⟩ rfl (seq_ok ?_)
  simp only [M.bind_apply, hs.rd ha, hs.uniform, check_apply, if_true, hs.getTeam, M.get_apply, hw, modTeam_apply,
    Nat.not_lt.mpr hle, if_false, hfree, wr_put hd]
  rw [State.modTeam_congr (g := fun T => { T with wing := some ((h.val a).toNat, m) }) hs.team rfl]
  rfl

theorem foldl_add_eq_sum {α : Type} (f : α → Nat) (l : List α) (n : Nat) :
    l.foldl (fun v e => v + f e) n = n + (l.map f).sum := by
  induction l generalizing n with
  | nil => rfl
  | cons x l ih => rw [List.foldl_cons, ih, List.map_cons, List.sum_cons, Nat.add_assoc]

theorem exec_wquery_none (hs : Solo s (.wquery d) c t T G h) (hw : T.wing = none) :
    exec (.wquery d) s = .next (s.after c t (·.put d 0)) := by
  have hd : d.toNat < 220 := hs.lt (by simp)
  refine hs.ends_after ⟨_, exec_wquery d s⟩ rfl (seq_ok ?_)
  simp only [M.bind_apply, hs.getTeam, M.get_apply, hw, wr_put hd]

/-- R181: WQUERY of a member. -/
theorem exec_wquery_member (hs : Solo s (.wquery d) c t T G h) {b m : Nat} (hw : T.wing = some (b, m)) :
    exec (.wquery d) s = .next (s.after c t (·.put d (BitVec.ofNat 32
      (b + m * 2 ^ 8 + 2 ^ 12 + ((s.members T.ctx b).map (fun e => 2 ^ e.1)).sum * 2 ^ 16)))) := by
  have hd : d.toNat < 220 := hs.lt (by simp)
  refine hs.ends_after ⟨_, exec_wquery d s⟩ rfl (seq_ok ?_)
  simp only [M.bind_apply, hs.getTeam, M.get_apply, hw, wr_put hd, foldl_add_eq_sum, Nat.zero_add]

/-- R183: WMAP of a team in no wing, or of no member. -/
theorem exec_wmap_refused (hs : Solo s (.wmap w d a) c t T G h) {status : Word}
    (hst : T.wing = none ∧ status = 2 ∨
      (∃ b m, T.wing = some (b, m) ∧ (h.val a).toNat ∉ (s.members T.ctx b).map (·.1)) ∧ status = 1) :
    exec (.wmap w d a) s = .next (s.after c t (·.put d status)) := by
  have ha : a.toNat < 220 := hs.lt (by simp)
  have hd : d.toNat < 220 := hs.lt (by simp)
  refine hs.ends_after ⟨_, exec_wmap w d a s⟩ rfl (seq_ok ?_)
  simp only [M.bind_apply, hs.rd ha, hs.uniform, check_apply, if_true, hs.getTeam, M.get_apply]
  obtain ⟨hw, rfl⟩ | ⟨⟨b, m, hw, hnone⟩, rfl⟩ := hst
  · simp only [hw, wr_put hd]
  · have hfind : (s.members T.ctx b).find? (fun e => e.1 == (h.val a).toNat) = none := by
      rw [List.find?_eq_none]
      intro e he hm
      exact hnone (List.mem_map.mpr ⟨e, he, by simpa using hm⟩)
    simp only [hw, hfind, wr_put hd]

theorem exec_wmap_maps (hs : Solo s (.wmap w d a) c t T G h) {b m : Nat} {e : Nat × Nat} (hw : T.wing = some (b, m))
    (hfind : (s.members T.ctx b).find? (fun e => e.1 == (h.val a).toNat) = some e) :
    exec (.wmap w d a) s = .next ((s.modTeam c.team fun T =>
      { T with windows := SMap.insert w.toNat (.mapped e.2) T.windows }).after c t (·.put d 0)) := by
  have ha : a.toNat < 220 := hs.lt (by simp)
  have hd : d.toNat < 220 := hs.lt (by simp)
  refine hs.ends_after ⟨_, exec_wmap w d a s⟩ rfl (seq_ok ?_)
  simp only [M.bind_apply, hs.rd ha, hs.uniform, check_apply, if_true, hs.getTeam, M.get_apply, hw, hfind, modTeam_apply,
    wr_put hd]

/-! ### Leaving a wing -/

theorem SMap.find?_map_entry {α β : Type} (k : Nat) (f : Nat → α → β) (m : SMap α) :
    SMap.find? k (m.map fun e => (e.1, f e.1 e.2)) = (SMap.find? k m).map (f k) := by
  induction m with
  | nil => rfl
  | cons e m ih =>
    simp only [List.map_cons, SMap.find?]
    split
    · next hk => simp [hk]
    · exact ih

/-- What the revocation of team k's windows makes of the windows of team j. -/
def Team.revoke (k j : Nat) (T : Team) : Team :=
  { T with windows := T.windows.map fun w => if j = k ∨ w.2 = .mapped k then (w.1, Window.revoked) else w }

theorem State.team?_revokeWindows (s : State) (k j : Nat) : (s.revokeWindows k).team? j = (s.team? j).map (Team.revoke k j) :=
  SMap.find?_map_entry j (fun j T => Team.revoke k j T) s.teams

theorem Team.revoke_windows (k j : Nat) (T : Team) :
    ∀ e ∈ (T.revoke k j).windows, e.2 ≠ .mapped k ∧ (j = k → e.2 = .revoked) := by
  intro e he
  obtain ⟨w, -, rfl⟩ := List.mem_map.mp he
  split
  · exact ⟨nofun, fun _ => rfl⟩
  · next hn => exact ⟨fun h => hn (.inr h), fun h => absurd (.inl h) hn⟩

theorem State.quitWing_eq (hT : s.team? k = some T) (hw : T.wing.isSome = true) :
    s.quitWing k = (s.revokeWindows k).modTeam k fun T => { T with wing := none } := by
  have hn : T.wing.isNone = false := by simpa using hw
  simp only [State.quitWing, hT, hn, Bool.false_eq_true, if_false]

theorem State.team?_quitWing_self (hT : s.team? k = some T) (hw : T.wing.isSome = true) :
    (s.quitWing k).team? k = some { T.revoke k k with wing := none } := by
  rw [State.quitWing_eq hT hw, State.team?_modTeam, if_pos rfl, State.team?_revokeWindows, hT]
  rfl

/-- R184: no window maps the team that has left. -/
theorem State.quitWing_unmapped (hT : s.team? k = some T) (hw : T.wing.isSome = true) {j : Nat} {U : Team}
    (hU : (s.quitWing k).team? j = some U) : ∀ e ∈ U.windows, e.2 ≠ .mapped k := by
  rw [State.quitWing_eq hT hw, State.team?_modTeam, State.team?_revokeWindows] at hU
  obtain ⟨V, -, hV⟩ : ∃ V, s.team? j = some V ∧ U.windows = (V.revoke k j).windows := by
    cases hj : s.team? j with
    | none => split at hU <;> simp [hj] at hU
    | some V =>
      refine ⟨V, rfl, ?_⟩
      split at hU <;> simp only [hj, Option.map_some, Option.some.injEq] at hU <;> rw [← hU]
  rw [hV]
  exact fun e he => (Team.revoke_windows k j V e he).1

/-- The thread is there as before when its team has left its wing. -/
theorem At.quitWing (hs : At s c t T G h) (hw : T.wing.isSome = true) :
    At (s.quitWing c.team) c t { T.revoke c.team c.team with wing := none } G h := by
  obtain ⟨ts, he⟩ := s.quitWing_teams c.team
  have hcur : (s.quitWing c.team).cur = s.cur := by rw [he]
  exact ⟨hcur.trans hs.cur, hs.lanes, State.team?_quitWing_self hs.team hw, hs.runs, hs.thread, hs.group, hs.live, hs.below⟩

theorem At.waitOf (hs : At s c t T G h) : waitOf (c.lane t) s = .ok (h.wait, s) := by
  simp [Machine.waitOf, hs.getThread]

/-- WLEAVE of a thread that does not already wait for its windows. -/
theorem Solo.wleave_starts (hs : Solo s .wleave c t T G h) (hwait : ∀ n, h.wait ≠ some (.leave n)) :
    bodyWleave (c.lane t) s = seq (do
      if T.wing.isNone then pure ()
      else
        let n := (← get).nextSeq
        modify fun s => s.quitWing c.team
        if (← get).windowsBusy c.team n then do
          setWait (c.lane t) (some (.leave n))
          holdHere
        else pure ()) s := by
  simp only [bodyWleave, seq_apply, M.bind_apply, hs.waitOf, hs.getTeam]

theorem exec_wleave_none (hs : Solo s .wleave c t T G h) (hwait : ∀ n, h.wait ≠ some (.leave n)) (hw : T.wing = none) :
    exec .wleave s = .next (s.after c t fun h => h) := by
  refine hs.ends_next ⟨_, exec_wleave s⟩ rfl ((hs.wleave_starts hwait).trans (seq_ok ?_))
  simp only [hw, Option.isNone_none, if_true, M.pure_apply]

/-- R184: with no access in flight through the windows the thread has left at once. -/
theorem exec_wleave_leaves (hs : Solo s .wleave c t T G h) (hwait : ∀ n, h.wait ≠ some (.leave n)) (hw : T.wing.isSome = true)
    (hbusy : (s.quitWing c.team).windowsBusy c.team s.nextSeq = false) :
    exec .wleave s = .next ((s.quitWing c.team).after c t fun h => h) := by
  have hn : T.wing.isNone = false := by simpa using hw
  refine hs.ends_next ⟨_, exec_wleave s⟩ rfl ((hs.wleave_starts hwait).trans (seq_ok ?_))
  simp only [hn, Bool.false_eq_true, if_false, M.bind_apply, M.modify_apply, M.get_apply, hbusy, M.pure_apply]

/-- R184: the thread waits for what is in flight. -/
theorem exec_wleave_waits (hs : Solo s .wleave c t T G h) (hwait : ∀ n, h.wait ≠ some (.leave n)) (hw : T.wing.isSome = true)
    (hbusy : (s.quitWing c.team).windowsBusy c.team s.nextSeq = true) (hc : G.cancelled = false) :
    exec .wleave s = .next ((s.quitWing c.team).modThread c.team t fun h => { h with wait := some (.leave s.nextSeq) }) := by
  have hn : T.wing.isNone = false := by simpa using hw
  have hq := hs.quitWing hw
  let f : Thread → Thread := fun h => { h with wait := some (.leave s.nextSeq) }
  have hq' := hq.modThread (f := f) rfl rfl rfl
  have hbody : bodyWleave (c.lane t) s = .error (.hold ((s.quitWing c.team).modThread c.team t f)) := by
    rw [hs.wleave_starts hwait, seq_apply]
    simp only [hn, Bool.false_eq_true, if_false, M.bind_apply, M.modify_apply, M.get_apply, hbusy, if_true, setWait,
      modThread_apply]
    rfl
  rw [hs.ends_hold ⟨_, exec_wleave s⟩ rfl hbody hq'.team hq'.group hc, State.markWait_of_waits hq'.team hq'.thread rfl]

/-- R184: a thread that waits for its windows. -/
theorem exec_wleave_again (hs : Solo s .wleave c t T G h) {n : Nat} (hwait : h.wait = some (.leave n)) :
    (s.windowsBusy c.team n = false → exec .wleave s = .next (s.after c t fun h => h)) ∧
    (s.windowsBusy c.team n = true → G.cancelled = false → exec .wleave s = .next (s.markWait (c.lane t))) := by
  constructor
  · intro hbusy
    refine hs.ends_next ⟨_, exec_wleave s⟩ rfl (seq_ok ?_)
    simp only [M.bind_apply, hs.waitOf, hwait, M.get_apply, hbusy, Bool.false_eq_true, if_false, M.pure_apply]
  · intro hbusy hc
    refine hs.ends_hold ⟨_, exec_wleave s⟩ rfl ?_ hs.team hs.group hc
    simp only [bodyWleave, seq_apply, M.bind_apply, hs.waitOf, hwait, M.get_apply, hbusy, if_true]
    rfl

/-! ### The two parts of O24 -/

theorem wjoin_cases (hs : Solo s (.wjoin d a) c t T G h) {v : Nat} (hv : (h.val a).toNat = v) {used : List Nat}
    (hused : (s.members T.ctx v).map (·.1) = used) :
    (∀ m, T.wing = some (v, m) → exec (.wjoin d a) s = .next (s.after c t (·.put d 0))) ∧
    ∀ b m, T.wing = some (b, m) → b ≠ v → used.length < 16 → exec (.wjoin d a) s = .next (s.after c t (·.put d 2)) := by
  subst hv hused
  refine ⟨fun m hw => ?_, fun b m hw hb hlen => ?_⟩
  · rw [exec_wjoin_member hs hw, if_pos rfl]
    rfl
  · rw [List.length_map] at hlen
    rw [exec_wjoin_member hs hw, if_neg hb, if_neg (Nat.ne_of_lt hlen)]
    rfl

end Sys2Proof.Machine

open Sys2Proof Sys2Proof.Machine

/-- Settles O24: each instruction's checks and effect, on the windows and the wing as the team has them. -/
theorem streamsAndWings : Obligations.StreamsAndWings := by
  refine ⟨?_, ?_⟩
  · intro p d s c t T G h x r hbusy
    refine ⟨?_, ?_, ?_, ?_⟩
    · intro A B hs hal hin hsound hvalid hA hB hwin hteam hport
      exact exec_strm_of_solo hs hbusy hal hin hsound ⟨hvalid, hA, hB, hwin, hteam, hport⟩
    · exact fun hs => exec_strmOff_of_solo hs hbusy
    · exact fun hs hx => exec_strm_outside hs hbusy hx
    · exact fun hs hal hin hsound hbad => exec_strm_bad hs hbusy hal hin hsound hbad
  · intro d a w s c t T G h v used
    refine ⟨?_, ?_, ?_, ?_, ?_, ?_, ?_, ?_, ?_, ?_, ?_, ?_⟩
    · exact fun m hs hw hle hfree => exec_wjoin_joins hs hw hle hfree
    · exact fun hs hw hle hfull => exec_wjoin_refused hs hw (.inr ⟨hle, hfull, rfl⟩)
    · exact fun hs hw hbig => exec_wjoin_refused hs hw (.inl ⟨hbig, rfl⟩)
    · exact fun m hs hw => (wjoin_cases hs rfl rfl).1 m hw
    · exact fun b m hs hw hb hlen => (wjoin_cases hs rfl rfl).2 b m hw hb hlen
    · exact fun hs hw => exec_wquery_none hs hw
    · exact fun b m hs hw => exec_wquery_member hs hw
    · exact fun hs hw => exec_wmap_refused hs (.inl ⟨hw, rfl⟩)
    · exact fun b m hs hw hnone => exec_wmap_refused hs (.inr ⟨⟨b, m, hw, hnone⟩, rfl⟩)
    · exact fun b m e hs hw hfind => exec_wmap_maps hs hw hfind
    · intro gone hs hwait
      refine ⟨exec_wleave_none hs hwait, fun hw => ⟨exec_wleave_leaves hs hwait hw, exec_wleave_waits hs hwait hw, ?_, ?_⟩⟩
      · exact ⟨_, State.team?_quitWing_self hs.team hw, rfl, fun e he => (Team.revoke_windows _ _ T e he).2 rfl⟩
      · exact fun j U hU => State.quitWing_unmapped hs.team hw hU
    · exact fun n hs hwait => exec_wleave_again hs hwait
end

section
/-!
PROOFS. The re-shard instructions (O26), and blocks read at issue (O25, O26).
-/

namespace Sys2Proof.Machine

variable {s u : State} {i : Instr} {c : Issue} {t : Nat} {T : Team} {G : Group} {h : Thread} {a d : BitVec 8}
  {k x n align src dst : Nat} {bar : Option Nat} {g : List Byte} {w : Bool}

/-! ### Blocks in the scratchpad -/

theorem BlockAt.readBlock (hb : BlockAt s T x n align) (hT : s.team? k = some T) :
    readBlock k x n align s = .ok (readBytes T.sp x n, s) := by
  simp only [Machine.readBlock, M.bind_apply, check_apply, decide_eq_true hb.aligned, decide_eq_true hb.inside,
    decide_eq_true hb.own, Bool.and_self, if_true, getTeam_apply hT, hb.sound.readLocal (l := ⟨k, x, false⟩) hT]

/-- R231: the two layout records are read and pass their checks. -/
theorem LayoutsAt.readLayouts (hl : LayoutsAt s T src dst) (hT : s.team? k = some T) :
    readLayouts k src dst s = .ok ((readBytes T.sp src 64, readBytes T.sp dst 64), s) := by
  simp only [Machine.readLayouts, M.bind_apply, check_apply, decide_eq_true hl.atSrc.aligned, decide_eq_true hl.atDst.aligned,
    if_true, hl.atSrc.readBlock hT, hl.atDst.readBlock hT, hl.srcOk, hl.dstOk, hl.shape, hl.elem, beq_self_eq_true,
    Bool.and_self, M.pure_apply]

theorem GoOk.checkGo (hg : GoOk s T g) (hT : s.team? k = some T) :
    checkGo k g s = .ok ((readBytes T.sp (fieldN g 8 4) 64, readBytes T.sp (fieldN g 12 4) 64), s) := by
  have hform : (fieldN g 4 2 != 0 && decide (fieldN g 6 1 < 32) && fieldN g 7 1 == 0) = true := by
    rw [bne_iff_ne.mpr hg.count, decide_eq_true hg.barrier, hg.zero]
    rfl
  simp only [Machine.checkGo, M.bind_apply, check_apply, decide_eq_true hg.planAligned, if_true, hform, hg.layouts.readLayouts hT,
    getTeam_apply hT, decide_eq_true hg.planInside, M.pure_apply]

/-! ### The start of an operation -/

theorem newOp_apply {ln : Lane} (hT : u.team? ln.team = some T) (hp : u.pushPending ln.team ln.who = false) :
    newOp ln u = .ok (newOrigin u T ln.who, u.opened) := by
  simp only [Machine.newOp, M.bind_apply, pushFirst_apply, hp, Bool.false_eq_true, if_false, getTeam_apply hT]
  rfl

theorem Team.enlist_threads (T : Team) (bar : Option Nat) : (T.enlist bar).threads = T.threads := by
  cases bar <;> rfl

theorem Team.enlist_origin (T : Team) (bar : Option Nat) (who : Who) : (T.enlist bar).origin who = T.origin who := by
  cases bar <;> rfl

/-- An element to be pushed is a matter of the team's threads. -/
theorem State.pushPending_congr (hT : s.team? k = some T) {T' : Team} (hT' : u.team? k = some T')
    (hth : T'.threads = T.threads) (who : Who) : u.pushPending k who = s.pushPending k who := by
  cases who with
  | front => rfl
  | thread t => simp only [State.pushPending, hT, hT', hth]

theorem commitFirst_settled (hT : s.team? k = some T) (hr : T.revocable = false) (hc : s.committing k = false) :
    commitFirst k s = .ok ((), s) := by
  simp only [commitFirst, M.bind_apply, getTeam_apply hT, hr, Bool.false_eq_true, if_false, M.get_apply, hc, M.pure_apply]

/-- R232: the operation starts. -/
theorem Sole.rshStart (hs : Sole s i c t T G h) (hset : T.revocable = false ∧ s.committing c.team = false)
    (hb : mayEnlist T (goBarrier g)) (entry row : BitVec 16) :
    rshStart (c.lane t) g (readBytes T.sp (fieldN g 8 4) 64, readBytes T.sp (fieldN g 12 4) 64) entry row s =
      .ok ((), s.opened.modTeam c.team (·.rshRun g (newOrigin s T (.thread t)) entry row)) := by
  have hreg := registerNb_apply hs.team hb
  have hT' : (s.modTeam c.team (·.enlist (goBarrier g))).team? c.team = some (T.enlist (goBarrier g)) := by
    rw [State.team?_modTeam, if_pos rfl, hs.team]
    rfl
  have hpush : (s.modTeam c.team (·.enlist (goBarrier g))).pushPending c.team (.thread t) = false :=
    (State.pushPending_congr hs.team hT' (T.enlist_threads _) _).trans hs.pushPending
  have hop := newOp_apply (ln := c.lane t) hT' hpush
  simp only [Machine.rshStart, canRegister, M.bind_apply, hreg, commitFirst_settled hs.team hset.1 hset.2, hop, modTeam_apply]
  refine congrArg (fun x => Except.ok ((), x)) ((State.modTeam_modTeam s.opened c.team (·.enlist (goBarrier g)) _).trans ?_)
  refine State.modTeam_congr (s := s.opened) hs.team ?_
  simp only [Team.rshRun]
  cases goBarrier g <;> rfl

/-! ### The instructions -/

theorem exec_rshGo_of_solo (hs : Solo s (.rshGo a) c t T G h) (hrest : T.rsh.state ≠ 1)
    (hset : T.revocable = false ∧ s.committing c.team = false) (hblock : BlockAt s T (h.val a).toNat 16 16)
    (hg : g = readBytes T.sp (h.val a).toNat 16) (hok : GoOk s T g) (hb : mayEnlist T (goBarrier g)) {entry row : BitVec 16}
    (hat : (entry, row) = if T.rsh.state = 3 ∧ T.rsh.go = g then (T.rsh.entry, T.rsh.row) else (0, 0)) :
    exec (.rshGo a) s =
      .next ((s.opened.modTeam c.team (·.rshRun g (newOrigin s T (.thread t)) entry row)).after c t fun h => h) := by
  have ha : a.toNat < 220 := hs.lt (by simp)
  have hrun : T.rshRunning = false := by simpa [Team.rshRunning] using hrest
  have hentry : entry = (if (T.rsh.state == 3 && T.rsh.go == g) = true then T.rsh.entry else 0) ∧
      row = if (T.rsh.state == 3 && T.rsh.go == g) = true then T.rsh.row else 0 := by
    by_cases h3 : T.rsh.state = 3 ∧ T.rsh.go = g
    · simpa [h3] using hat
    · rw [if_neg h3] at hat
      have hno : ¬(T.rsh.state == 3 && T.rsh.go == g) = true := by simpa using h3
      simpa only [if_neg hno, Prod.mk.injEq] using hat
  refine hs.ends_next ⟨_, exec_rshGo a s⟩ rfl (seq_ok ?_)
  simp only [M.bind_apply, hs.rd ha, hs.uniform, check_apply, if_true, hs.getTeam, hrun, Bool.false_eq_true, if_false,
    hblock.readBlock (k := (c.lane t).team) hs.team, ← hg, hok.checkGo (k := (c.lane t).team) hs.team]
  rw [← hentry.1, ← hentry.2]
  exact hs.rshStart hset hb entry row

theorem exec_rshResume_of_solo (hs : Solo s (.rshResume a) c t T G h) (hrest : T.rsh.state ≠ 1)
    (hset : T.revocable = false ∧ s.committing c.team = false) (hblock : BlockAt s T (h.val a).toNat 32 32)
    {r : List Byte} (hr : r = readBytes T.sp (h.val a).toNat 32) (hok : GoOk s T (slice r 0 16))
    (hb : mayEnlist T (goBarrier (slice r 0 16))) (hentry : fieldN r 16 2 ≤ fieldN (slice r 0 16) 4 2)
    (hstate : fieldN r 20 1 ≤ 4) (hzero : fieldN r 21 11 = 0) :
    exec (.rshResume a) s = .next ((s.opened.modTeam c.team (·.rshRun (slice r 0 16) (newOrigin s T (.thread t))
      (BitVec.ofNat 16 (fieldN r 16 2)) (BitVec.ofNat 16 (fieldN r 18 2)))).after c t fun h => h) := by
  have ha : a.toNat < 220 := hs.lt (by simp)
  have hrun : T.rshRunning = false := by simpa [Team.rshRunning] using hrest
  have hform : (decide (fieldN r 16 2 ≤ fieldN (slice r 0 16) 4 2) && decide (fieldN r 20 1 ≤ 4) && fieldN r 21 11 == 0) =
      true := by
    rw [decide_eq_true hentry, decide_eq_true hstate, hzero]
    rfl
  refine hs.ends_next ⟨_, exec_rshResume a s⟩ rfl (seq_ok ?_)
  simp only [M.bind_apply, hs.rd ha, hs.uniform, check_apply, if_true, hs.getTeam, hrun, Bool.false_eq_true, if_false,
    hblock.readBlock (k := (c.lane t).team) hs.team, ← hr, hok.checkGo (k := (c.lane t).team) hs.team, hform]
  exact hs.rshStart hset hb _ _

/-- R204, R235: a trap that keeps what the instruction has done. -/
theorem trapAfter_apply {α : Type} {ln : Lane} {cause : BitVec 8} {addr : Word64} (hcur : u.cur = some c) :
    (trapAfter i ln cause addr : M α) u = .error (.done (u.trapLane c (some i) ln cause addr none)) := by
  simp only [trapAfter, hcur]

theorem exec_rshPoll_of_solo (hs : Solo s (.rshPoll d w) c t T G h) (hrest : w = true ∨ T.rsh.state ≠ 1)
    (hab : T.rsh.abandon = none) :
    exec (.rshPoll d w) s = .next (s.after c t (·.put d (BitVec.ofNat 32 T.rsh.state))) := by
  have hd : d.toNat < 220 := hs.lt (by simp)
  have hgo : (!w && T.rshRunning) = false := by
    obtain rfl | hrest := hrest <;> simp [Team.rshRunning, *]
  refine hs.ends_after ⟨_, exec_rshPoll d w s⟩ rfl (seq_ok ?_)
  simp only [M.bind_apply, hs.getTeam, hgo, Bool.false_eq_true, if_false, hab, wr_put hd]

/-- R235: an abandon is reported once, as a trap. -/
theorem exec_rshPoll_abandon (hs : Solo s (.rshPoll d w) c t T G h) (hrest : w = true ∨ T.rsh.state ≠ 1) {cause : BitVec 8}
    {addr : Word64} (hab : T.rsh.abandon = some (cause, addr)) :
    exec (.rshPoll d w) s = .next ((s.modTeam c.team fun T => { T with rsh := { T.rsh with abandon := none } }).trapped
      c (.rshPoll d w) t cause addr none) := by
  have hgo : (!w && T.rshRunning) = false := by
    obtain rfl | hrest := hrest <;> simp [Team.rshRunning, *]
  refine hs.ends_done ⟨_, exec_rshPoll d w s⟩ rfl ?_
  have hcur : (s.modTeam c.team fun T => { T with rsh := { T.rsh with abandon := none } }).cur = some c := hs.cur
  simp only [bodyRshPoll, seq_apply, M.bind_apply, hs.getTeam, hgo, Bool.false_eq_true, if_false, hab, modTeam_apply]
  rw [trapAfter_apply hcur]

theorem exec_rshSave_of_solo (hs : Solo s (.rshSave a) c t T G h) (hrest : T.rsh.state ≠ 1)
    (hrc : s.rcPending c.team (T.origin (.thread t)) = false) (hal : (h.val a).toNat % 32 = 0)
    (hin : (h.val a).toNat + 32 ≤ T.size) (hsound : CoreSound s T) :
    exec (.rshSave a) s = .next (((s.writeLocal ⟨c.team, (h.val a).toNat, false⟩ T.rsh.record).modTeam c.team fun T =>
      { T with rsh := { T.rsh with state := if T.rsh.state = 2 ∨ T.rsh.state = 4 then T.rsh.state else 0 } }).after
        c t fun h => h) := by
  have ha : a.toNat < 220 := hs.lt (by simp)
  have hrun : T.rshRunning = false := by simpa [Team.rshRunning] using hrest
  have hstore := hsound.storeLocal (l := ⟨c.team, (h.val a).toNat, false⟩) hs.team rfl c.team T.rsh.record
  refine hs.ends_next ⟨_, exec_rshSave a s⟩ rfl (seq_ok ?_)
  simp only [M.bind_apply, hs.rd ha, hs.uniform, check_apply, if_true, decide_eq_true hal, hs.getTeam, decide_eq_true hin, hrun,
    Bool.false_eq_true, if_false, rcFirst_apply, Issue.lane, hrc, hstore, modTeam_apply]

/-! ### Plans -/

/-- R231: a request that is read and has a plan. -/
structure PlanAsked (s : State) (T : Team) (x : Nat) (es : List (List Byte)) : Prop where
  request : BlockAt s T x 16 16
  aligned : fieldN (readBytes T.sp x 16) 8 4 % 32 = 0
  zero : fieldN (readBytes T.sp x 16) 14 2 = 0
  layouts : LayoutsAt s T (fieldN (readBytes T.sp x 16) 0 4) (fieldN (readBytes T.sp x 16) 4 4)
  plan : s.planOf (Layout.of (readBytes T.sp (fieldN (readBytes T.sp x 16) 0 4) 64))
    (Layout.of (readBytes T.sp (fieldN (readBytes T.sp x 16) 4 4) 64)) = some es

/-- What RSH.PLAN does once it has formed the plan. -/
def storePlan (ln : Lane) (d : BitVec 8) (buf cap : Nat) (es : List (List Byte)) : M Unit :=
  if es.length ≤ cap then do
    let T ← getTeam ln.team
    check (es.isEmpty || decide (buf + 32 * es.length ≤ T.size)) Cause.protection (BitVec.ofNat 64 buf)
    if es.isEmpty then pure ()
    else do
      rcFirst ln.team (T.origin ln.who)
      storeLocal ln.team ⟨ln.team, buf, false⟩ es.flatten
    wr ln d (BitVec.ofNat 32 es.length)
  else wr ln d (BitVec.ofNat 32 (2 ^ 31 + es.length))

theorem Solo.rshPlan (hs : Solo s (.rshPlan d a) c t T G h) {es : List (List Byte)} (hp : PlanAsked s T (h.val a).toNat es) :
    bodyRshPlan true d a (c.lane t) s =
      seq (storePlan (c.lane t) d (fieldN (readBytes T.sp (h.val a).toNat 16) 8 4)
        (fieldN (readBytes T.sp (h.val a).toNat 16) 12 2) es) s := by
  have ha : a.toNat < 220 := hs.lt (by simp)
  simp only [bodyRshPlan, seq_apply, M.bind_apply, hs.rd ha, check_apply, if_true,
    hp.request.readBlock (k := (c.lane t).team) hs.team, decide_eq_true hp.aligned, hp.zero, beq_self_eq_true,
    hp.layouts.readLayouts (k := (c.lane t).team) hs.team, M.get_apply, hp.plan]
  rfl

theorem exec_rshPlan_stores (hs : Solo s (.rshPlan d a) c t T G h) {es : List (List Byte)}
    (hp : PlanAsked s T (h.val a).toNat es) (hcap : es.length ≤ fieldN (readBytes T.sp (h.val a).toNat 16) 12 2) (hes : es ≠ [])
    (hfit : fieldN (readBytes T.sp (h.val a).toNat 16) 8 4 + 32 * es.length ≤ T.size)
    (hrc : s.rcPending c.team (T.origin (.thread t)) = false) :
    exec (.rshPlan d a) s = .next ((s.writeLocal ⟨c.team, fieldN (readBytes T.sp (h.val a).toNat 16) 8 4, false⟩
      es.flatten).after c t (·.put d (BitVec.ofNat 32 es.length))) := by
  have hd : d.toNat < 220 := hs.lt (by simp)
  have hne : es.isEmpty = false := by simpa using hes
  have hstore := hp.layouts.atSrc.sound.storeLocal
    (l := ⟨c.team, fieldN (readBytes T.sp (h.val a).toNat 16) 8 4, false⟩) hs.team rfl c.team es.flatten
  refine hs.ends_after ⟨_, exec_rshPlan d a s⟩ rfl ?_
  rw [hs.uniform, hs.rshPlan hp]
  refine seq_ok ?_
  simp only [storePlan, if_pos hcap, M.bind_apply, hs.getTeam, check_apply, hne, decide_eq_true hfit, Bool.or_true, if_true,
    Bool.false_eq_true, if_false, rcFirst_apply, Issue.lane, hrc, hstore]
  exact wr_put hd _

theorem exec_rshPlan_empty (hs : Solo s (.rshPlan d a) c t T G h) (hp : PlanAsked s T (h.val a).toNat []) :
    exec (.rshPlan d a) s = .next (s.after c t (·.put d 0)) := by
  have hd : d.toNat < 220 := hs.lt (by simp)
  refine hs.ends_after ⟨_, exec_rshPlan d a s⟩ rfl ?_
  rw [hs.uniform, hs.rshPlan hp]
  refine seq_ok ?_
  simp only [storePlan, List.length_nil, if_pos (Nat.zero_le _), M.bind_apply, hs.getTeam, check_apply, List.isEmpty_nil,
    Bool.true_or, if_true, wr_put hd]
  rfl

theorem exec_rshPlan_long (hs : Solo s (.rshPlan d a) c t T G h) {es : List (List Byte)}
    (hp : PlanAsked s T (h.val a).toNat es) (hcap : fieldN (readBytes T.sp (h.val a).toNat 16) 12 2 < es.length) :
    exec (.rshPlan d a) s = .next (s.after c t (·.put d (BitVec.ofNat 32 (2 ^ 31 + es.length)))) := by
  have hd : d.toNat < 220 := hs.lt (by simp)
  refine hs.ends_after ⟨_, exec_rshPlan d a s⟩ rfl ?_
  rw [hs.uniform, hs.rshPlan hp]
  refine seq_ok ?_
  simp only [storePlan, if_neg (Nat.not_le.mpr hcap), wr_put hd]

end Sys2Proof.Machine

open Sys2Proof Sys2Proof.Machine

/-- Settles O26: each instruction reads its block, passes its checks and leaves the operation as the rules say. -/
theorem reshardIssue : Obligations.ReshardIssue := by
  intro a d w s c t T G h x req src dst rest o settled
  refine ⟨?_, ?_, ?_, ?_, ?_, ?_, ?_⟩
  · intro es hs hblock hal hzero hlay hplan
    have hp : PlanAsked s T x es := ⟨hblock, hal, hzero, hlay, hplan⟩
    refine ⟨fun hcap hes hfit hrc => exec_rshPlan_stores hs hp hcap hes hfit hrc, ?_, exec_rshPlan_long hs hp⟩
    rintro rfl
    exact exec_rshPlan_empty hs hp
  · intro hs hrest hset hblock hok hb hnew
    refine exec_rshGo_of_solo hs hrest hset hblock rfl hok hb (if_neg ?_).symm
    exact fun hsame => hnew hsame.1 hsame.2
  · intro hs hset hblock hok hb h3 hsame
    exact exec_rshGo_of_solo hs (by rw [h3]; decide) hset hblock rfl hok hb (if_pos ⟨h3, hsame⟩).symm
  · exact fun hs hrest hab => exec_rshPoll_of_solo hs hrest hab
  · exact fun cause addr hs hrest hab => exec_rshPoll_abandon hs hrest hab
  · exact fun hs hrest hrc hal hin hsound => exec_rshSave_of_solo hs hrest hrc hal hin hsound
  · intro r g hs hrest hset hblock hok hb hentry hstate hzero
    exact exec_rshResume_of_solo hs hrest hset hblock rfl hok hb hentry hstate hzero
end

section
/-!
PROOFS. The matrix instructions (O25).
-/

namespace Sys2Proof.Machine

variable {s u : State} {i : Instr} {c : Issue} {t : Nat} {T T' : Team} {G : Group} {h : Thread} {a d : BitVec 8}
  {e q p : BitVec 2} {n w : Bool} {x k : Nat} {kind : MxKind} {bar : Option Nat} {draws : List Nat} {bs : List Byte}

/-! ### The queue -/

theorem mxRoom_apply (hT : s.team? k = some T) (hr : T.mx.queue.length < 8) : mxRoom k s = .ok ((), s) := by
  simp only [mxRoom, M.bind_apply, getTeam_apply hT, if_pos hr, M.pure_apply]

/-- R187: a command as it joins the queue. -/
theorem At.mxCmd (hs : At s c t T G h) (hp : s.pushPending c.team (.thread t) = false) :
    mxCmd (c.lane t) kind bar draws s = .ok (mxCommand G (newOrigin s T (.thread t)) kind bar draws, s.opened) := by
  have hop := newOp_apply (ln := c.lane t) hs.team hp
  simp only [Machine.mxCmd, M.bind_apply, hs.nfmt, hs.fpctl, hop, M.pure_apply]
  rfl

theorem mxEnqueue_apply {C : MxCmd} (hT : s.team? k = some T) (hb : mayEnlist T C.barrier) :
    mxEnqueue k C s = .ok ((), s.modTeam k (·.mxJoin C)) := by
  simp only [mxEnqueue, M.bind_apply, registerNb_apply hT hb, modTeam_apply, State.modTeam_modTeam]
  rfl

/-- R187: a command is formed and joins the queue. -/
theorem At.mxJoins (hs : At s c t T G h) (hp : s.pushPending c.team (.thread t) = false) (hb : mayEnlist T bar) :
    (do mxEnqueue c.team (← Machine.mxCmd (c.lane t) kind bar draws)) s =
      .ok ((), s.opened.modTeam c.team (·.mxJoin (mxCommand G (newOrigin s T (.thread t)) kind bar draws))) := by
  have hT' : s.opened.team? c.team = some T := hs.team
  simp only [M.bind_apply, hs.mxCmd hp]
  exact mxEnqueue_apply (C := mxCommand G (newOrigin s T (.thread t)) kind bar draws) hT' hb

/-! ### Multiplications and zeroing -/

theorem Sole.mxIssueBlock (hs : Sole s i c t T G h) (hok : (Block.of G.nfmt bs).ok T bs = true)
    (hb : mayEnlist T (Block.of G.nfmt bs).bar) :
    mxIssueBlock (c.lane t) bs s = .ok ((), s.opened.modTeam c.team
      (·.mxJoin (mxCommand G (newOrigin s T (.thread t)) (.issue bs) (Block.of G.nfmt bs).bar []))) := by
  have hjoin := hs.mxJoins (kind := .issue bs) (draws := []) hs.pushPending hb
  simp only [Machine.mxIssueBlock, M.bind_apply, hs.nfmt, hs.getTeam, check_apply, hok, if_true]
  exact (M.bind_apply _ _ _).symm.trans hjoin

theorem Sole.mxIssueBlock_bad (hs : Sole s i c t T G h) (hok : (Block.of G.nfmt bs).ok T bs = false) :
    Machine.mxIssueBlock (c.lane t) bs s = .error (.trap Cause.operandFormat 0) := by
  simp only [Machine.mxIssueBlock, M.bind_apply, hs.nfmt, hs.getTeam, check_apply, hok, Bool.false_eq_true, if_false]

theorem exec_mxIssue_of_solo (hs : Solo s (.mxIssue a) c t T G h) (hr : T.mx.queue.length < 8)
    (hblock : BlockAt s T (h.val a).toNat 64 64) (hbs : bs = readBytes T.sp (h.val a).toNat 64)
    (hok : (Block.of G.nfmt bs).ok T bs = true) (hb : mayEnlist T (Block.of G.nfmt bs).bar) :
    exec (.mxIssue a) s = .next ((s.opened.modTeam c.team (·.mxJoin (mxCommand G (newOrigin s T (.thread t)) (.issue bs)
      (Block.of G.nfmt bs).bar []))).after c t fun h => h) := by
  have ha : a.toNat < 220 := hs.lt (by simp)
  refine hs.ends_next ⟨_, exec_mxIssue a s⟩ rfl (seq_ok ?_)
  simp only [M.bind_apply, hs.rd ha, hs.uniform, check_apply, if_true, mxRoom_apply (k := (c.lane t).team) hs.team hr,
    hblock.readBlock (k := (c.lane t).team) hs.team, ← hbs]
  exact hs.mxIssueBlock hok hb

theorem exec_mxIssue_bad (hs : Solo s (.mxIssue a) c t T G h) (hr : T.mx.queue.length < 8)
    (hblock : BlockAt s T (h.val a).toNat 64 64) (hbs : bs = readBytes T.sp (h.val a).toNat 64)
    (hok : (Block.of G.nfmt bs).ok T bs = false) :
    exec (.mxIssue a) s = .next (s.trapped c (.mxIssue a) t Cause.operandFormat 0 none) := by
  have ha : a.toNat < 220 := hs.lt (by simp)
  refine hs.ends_trap ⟨_, exec_mxIssue a s⟩ rfl ?_
  simp only [bodyMxIssue, seq_apply, M.bind_apply, hs.rd ha, hs.uniform, check_apply, if_true,
    mxRoom_apply (k := (c.lane t).team) hs.team hr, hblock.readBlock (k := (c.lane t).team) hs.team, ← hbs,
    hs.mxIssueBlock_bad hok]

/-- The block of MX.ISSUE.S: the words of sixteen s registers (R194). -/
def Group.mxBlock (G : Group) (e : BitVec 2) : List Byte :=
  ((List.range 16).map fun j => G.sreg (16 * e.toNat + j)).flatMap fun v => leBytes 4 v.toNat

theorem exec_mxIssueS_of_solo (hs : Solo s (.mxIssueS e) c t T G h) (hr : T.mx.queue.length < 8)
    (hok : (Block.of G.nfmt (G.mxBlock e)).ok T (G.mxBlock e) = true) (hb : mayEnlist T (Block.of G.nfmt (G.mxBlock e)).bar) :
    exec (.mxIssueS e) s = .next ((s.opened.modTeam c.team (·.mxJoin (mxCommand G (newOrigin s T (.thread t))
      (.issue (G.mxBlock e)) (Block.of G.nfmt (G.mxBlock e)).bar []))).after c t fun h => h) := by
  have hwords : (List.range 16).mapM (fun j => rdS (c.lane t) (16 * e.toNat + j)) s =
      .ok ((List.range 16).map fun j => G.sreg (16 * e.toNat + j), s) :=
    mapM_apply (fun j => by simp [rdS, hs.getGroup]) _
  refine hs.ends_next ⟨_, exec_mxIssueS e s⟩ rfl (seq_ok ?_)
  simp only [M.bind_apply, mxRoom_apply (k := (c.lane t).team) hs.team hr, hwords]
  exact hs.mxIssueBlock hok hb

theorem exec_mxZero_of_solo (hs : Solo s (.mxZero n) c t T G h) (hr : T.mx.queue.length < 8)
    (hcl : T.mx.claims.getLsbD (if n then 1 else 0) = true) :
    exec (.mxZero n) s = .next ((s.opened.modTeam c.team (·.mxJoin (mxCommand G (newOrigin s T (.thread t)) (.zero n)
      none []))).after c t fun h => h) := by
  have hjoin := hs.mxJoins (kind := .zero n) (bar := none) (draws := []) hs.pushPending nofun
  refine hs.ends_next ⟨_, exec_mxZero n s⟩ rfl (seq_ok ?_)
  simp only [M.bind_apply, mxRoom_apply (k := (c.lane t).team) hs.team hr, hs.getTeam, check_apply, hcl, if_true]
  exact (M.bind_apply _ _ _).symm.trans hjoin

theorem exec_mxZero_unclaimed (hs : Solo s (.mxZero n) c t T G h) (hr : T.mx.queue.length < 8)
    (hcl : ¬T.mx.claims.getLsbD (if n then 1 else 0) = true) :
    exec (.mxZero n) s = .next (s.trapped c (.mxZero n) t Cause.operandFormat 0 none) := by
  refine hs.ends_trap ⟨_, exec_mxZero n s⟩ rfl ?_
  simp only [bodyMxZero, seq_apply, M.bind_apply, mxRoom_apply (k := (c.lane t).team) hs.team hr, hs.getTeam, check_apply, hcl,
    Bool.false_eq_true, if_false]

/-! ### Transfers -/

/-- R199: a descriptor that is read. -/
theorem Sole.mxTransfer_bad (hs : Sole s i c t T G h) (hr : T.mx.queue.length < 8) (hblock : BlockAt s T x 32 32)
    (hok : (Tile.of (readBytes T.sp x 32)).ok G.nfmt (T.mx.claims.getLsbD (if n then 1 else 0)) = false)
    (kind : List Byte → MxKind) (sr : Bool) :
    mxTransfer (c.lane t) n x kind sr s = .error (.trap Cause.operandFormat 0) := by
  simp only [mxTransfer, M.bind_apply, mxRoom_apply (k := (c.lane t).team) hs.team hr,
    hblock.readBlock (k := (c.lane t).team) hs.team, hs.getTeam, hs.nfmt, check_apply, hok, Bool.false_eq_true, if_false]

theorem Sole.mxTransfer (hs : Sole s i c t T G h) (hr : T.mx.queue.length < 8) (hblock : BlockAt s T x 32 32)
    (hbs : bs = readBytes T.sp x 32)
    (hok : (Tile.of bs).ok G.nfmt (T.mx.claims.getLsbD (if n then 1 else 0)) = true) (hb : mayEnlist T (Tile.of bs).bar)
    (kind : List Byte → MxKind) :
    Machine.mxTransfer (c.lane t) n x kind false s = .ok ((), s.opened.modTeam c.team
      (·.mxJoin (mxCommand G (newOrigin s T (.thread t)) (kind bs) (Tile.of bs).bar []))) := by
  have hjoin := hs.mxJoins (kind := kind bs) (draws := []) hs.pushPending hb
  simp only [Machine.mxTransfer, M.bind_apply, mxRoom_apply (k := (c.lane t).team) hs.team hr,
    hblock.readBlock (k := (c.lane t).team) hs.team, ← hbs, hs.getTeam, hs.nfmt, check_apply, hok, if_true,
    Bool.false_eq_true, if_false, M.pure_apply]
  exact (M.bind_apply _ _ _).symm.trans hjoin

theorem At.pushPending_quiet (hs : At s c t T G h) (hq : h.pend = []) : s.pushPending c.team (.thread t) = false := by
  have hh : SMap.find? t T.threads = some h := hs.thread
  simp [State.pushPending, hs.team, hh, hq]

/-- The thread with a number of draws counted. -/
def Thread.drawsOn (h : Thread) (n : Nat) : Thread := { h with draw := h.draw + BitVec.ofNat 32 n }

/-- R46, R200: the next draws of a thread, one after another. -/
theorem At.reserveDraws (hs : At s c t T G h) (hr : T.replay.getLsbD 0 = false) (n : Nat) :
    reserveDraws (c.lane t) n s =
      .ok ((List.range n).map fun j => rowan T.rseed t (h.draw + BitVec.ofNat 32 j), s.modThread c.team t (·.drawsOn n)) := by
  induction n generalizing s T h with
  | zero =>
    have hid : s.modThread c.team t (·.drawsOn 0) = s :=
      (State.modThread_congr (g := fun h => h) hs.team hs.thread (by simp [Thread.drawsOn])).trans (s.modThread_id c.team t)
    rw [hid]
    rfl
  | succ n ih =>
    have hs' := hs.modThread (f := Thread.drawn) rfl rfl rfl
    have hih := ih hs' hr
    have hdraw : Machine.draw15 c.team t s = .ok (T.rowan t h, s.modThread c.team t Thread.drawn) := hs.draw15 hr
    have hnext (j : Nat) : h.draw + 1 + BitVec.ofNat 32 j = h.draw + BitVec.ofNat 32 (j + 1) := by
      rw [BitVec.add_assoc]
      congr 1
      bv_omega
    have hvals : T.rowan t h :: (List.range n).map (fun j => rowan T.rseed t (h.draw + 1 + BitVec.ofNat 32 j)) =
        (List.range (n + 1)).map fun j => rowan T.rseed t (h.draw + BitVec.ofNat 32 j) := by
      rw [List.range_succ_eq_map, List.map_cons, List.map_map, BitVec.add_zero, Team.rowan]
      simp only [hnext, Function.comp_def, Nat.succ_eq_add_one]
    have hcount : (s.modThread c.team t Thread.drawn).modThread c.team t (·.drawsOn n) =
        s.modThread c.team t (·.drawsOn (n + 1)) := by
      rw [State.modThread_modThread]
      exact State.modThread_congr hs.team hs.thread (by simp only [Thread.drawsOn, Thread.drawn, hnext])
    have hread : Machine.reserveDraws (c.lane t) (n + 1) s =
        (Machine.draw15 c.team t >>= fun u => Machine.reserveDraws (c.lane t) n >>= fun us => pure (u :: us)) s := rfl
    rw [hread]
    simp only [M.bind_apply, hdraw, hih, M.pure_apply, hcount]
    exact congrArg (fun us => Except.ok (us, _)) hvals

/-- A change of a thread and a command that joins the queue. -/
theorem State.modThread_mxJoin (s : State) (k t : Nat) (f : Thread → Thread) (C : MxCmd) :
    (s.modThread k t f).modTeam k (·.mxJoin C) = (s.modTeam k (·.mxJoin C)).modThread k t f := by
  unfold State.modThread
  rw [State.modTeam_modTeam, State.modTeam_modTeam]
  congr 1
  funext T
  simp only [Team.mxJoin]
  cases C.barrier <;> rfl

/-- R200: a stochastic store reserves the draws of its elements at issue. -/
theorem Sole.mxTransfer_draws (hs : Sole s i c t T G h) (hr : T.mx.queue.length < 8) (hblock : BlockAt s T x 32 32)
    (hbs : bs = readBytes T.sp x 32)
    (hok : (Tile.of bs).ok G.nfmt (T.mx.claims.getLsbD (if n then 1 else 0)) = true) (hb : mayEnlist T (Tile.of bs).bar)
    (hrep : T.replay.getLsbD 0 = false) (kind : List Byte → MxKind) {m : Nat} (hm : m = (Tile.of bs).rows * (Tile.of bs).cols) :
    Machine.mxTransfer (c.lane t) n x kind true s = .ok ((), (s.opened.modTeam c.team
      (·.mxJoin (mxCommand G (newOrigin s T (.thread t)) (kind bs) (Tile.of bs).bar ((List.range m).map fun j =>
        rowan T.rseed t (h.draw + BitVec.ofNat 32 j))))).modThread c.team t (·.drawsOn m)) := by
  subst hm
  have hs' := hs.toAt.modThread (f := (·.drawsOn ((Tile.of bs).rows * (Tile.of bs).cols))) rfl rfl rfl
  have hpush : (s.modThread c.team t (·.drawsOn ((Tile.of bs).rows * (Tile.of bs).cols))).pushPending c.team (.thread t) =
      false :=
    hs'.pushPending_quiet hs.quiet
  have hjoin := hs'.mxJoins (kind := kind bs) (bar := (Tile.of bs).bar) (draws := (List.range ((Tile.of bs).rows * (Tile.of bs).cols)).map fun j =>
    rowan T.rseed t (h.draw + BitVec.ofNat 32 j)) hpush hb
  simp only [Machine.mxTransfer, M.bind_apply, mxRoom_apply (k := (c.lane t).team) hs.team hr,
    hblock.readBlock (k := (c.lane t).team) hs.team, ← hbs, hs.getTeam, hs.nfmt, check_apply, hok, if_true,
    hs.reserveDraws hrep]
  refine ((M.bind_apply _ _ _).symm.trans hjoin).trans ?_
  exact congrArg (fun u => Except.ok ((), u)) (State.modThread_mxJoin s.opened c.team t _ _)

theorem exec_mxLoad_of_solo (hs : Solo s (.mxLoad n a) c t T G h) (hr : T.mx.queue.length < 8)
    (hblock : BlockAt s T (h.val a).toNat 32 32) (hbs : bs = readBytes T.sp (h.val a).toNat 32)
    (hok : (Tile.of bs).ok G.nfmt (T.mx.claims.getLsbD (if n then 1 else 0)) = true) (hb : mayEnlist T (Tile.of bs).bar) :
    exec (.mxLoad n a) s = .next ((s.opened.modTeam c.team (·.mxJoin (mxCommand G (newOrigin s T (.thread t)) (.load n bs)
      (Tile.of bs).bar []))).after c t fun h => h) := by
  have ha : a.toNat < 220 := hs.lt (by simp)
  refine hs.ends_next ⟨_, exec_mxLoad n a s⟩ rfl (seq_ok ?_)
  simp only [M.bind_apply, hs.rd ha, hs.uniform, check_apply, if_true]
  exact hs.mxTransfer hr hblock hbs hok hb _

theorem exec_mxStore_of_solo (hs : Solo s (.mxStore q p n a) c t T G h) (hq : q ≠ 3) (hr : T.mx.queue.length < 8)
    (hblock : BlockAt s T (h.val a).toNat 32 32) (hbs : bs = readBytes T.sp (h.val a).toNat 32)
    (hok : (Tile.of bs).ok G.nfmt (T.mx.claims.getLsbD (if n then 1 else 0)) = true) (hb : mayEnlist T (Tile.of bs).bar) :
    exec (.mxStore q p n a) s = .next ((s.opened.modTeam c.team (·.mxJoin (mxCommand G (newOrigin s T (.thread t))
      (.store n bs q p) (Tile.of bs).bar []))).after c t fun h => h) := by
  have ha : a.toNat < 220 := hs.lt (by simp)
  refine hs.ends_next ⟨_, exec_mxStore q p n a s⟩ rfl (seq_ok ?_)
  simp only [M.bind_apply, hs.rd ha, hs.uniform, check_apply, if_true, beq_false_of_ne hq]
  exact hs.mxTransfer hr hblock hbs hok hb _

theorem exec_mxStore_draws (hs : Solo s (.mxStore 3 p n a) c t T G h) (hr : T.mx.queue.length < 8)
    (hblock : BlockAt s T (h.val a).toNat 32 32) (hbs : bs = readBytes T.sp (h.val a).toNat 32)
    (hrep : T.replay.getLsbD 0 = false)
    (hok : (Tile.of bs).ok G.nfmt (T.mx.claims.getLsbD (if n then 1 else 0)) = true) (hb : mayEnlist T (Tile.of bs).bar) {m : Nat}
    (hm : m = (Tile.of bs).rows * (Tile.of bs).cols) :
    exec (.mxStore 3 p n a) s = .next ((s.opened.modTeam c.team (·.mxJoin (mxCommand G (newOrigin s T (.thread t))
      (.store n bs 3 p) (Tile.of bs).bar ((List.range m).map fun j => rowan T.rseed t (h.draw + BitVec.ofNat 32 j))))).after c t
        (·.drawsOn m)) := by
  have ha : a.toNat < 220 := hs.lt (by simp)
  refine hs.ends_after ⟨_, exec_mxStore 3 p n a s⟩ rfl (seq_ok ?_)
  simp only [M.bind_apply, hs.rd ha, hs.uniform, check_apply, if_true, beq_self_eq_true]
  exact hs.mxTransfer_draws hr hblock hbs hok hb hrep _ hm

/-- R199: a descriptor that breaks a rule. -/
theorem exec_mxTransfer_bad (hi : i = .mxLoad n a ∨ i = .mxStore q p n a) (hs : Solo s i c t T G h)
    (hr : T.mx.queue.length < 8) (hblock : BlockAt s T (h.val a).toNat 32 32)
    (hok : (Tile.of (readBytes T.sp (h.val a).toNat 32)).ok G.nfmt (T.mx.claims.getLsbD (if n then 1 else 0)) = false) :
    exec i s = .next (s.trapped c i t Cause.operandFormat 0 none) := by
  obtain rfl | rfl := hi
  · have ha : a.toNat < 220 := hs.lt (by simp)
    refine hs.ends_trap ⟨_, exec_mxLoad n a s⟩ rfl ?_
    simp only [bodyMxLoad, seq_apply, M.bind_apply, hs.rd ha, hs.uniform, check_apply, if_true, hs.mxTransfer_bad hr hblock hok]
  · have ha : a.toNat < 220 := hs.lt (by simp)
    refine hs.ends_trap ⟨_, exec_mxStore q p n a s⟩ rfl ?_
    simp only [bodyMxStore, seq_apply, M.bind_apply, hs.rd ha, hs.uniform, check_apply, if_true, hs.mxTransfer_bad hr hblock hok]

/-! ### MX.PROG -/

theorem exec_mxProg_waits (hs : Solo s (.mxProg d false) c t T G h) (hw : h.wait = none) (hq : T.mx.queue ≠ [])
    (hc : G.cancelled = false) :
    exec (.mxProg d false) s = .next (s.modThread c.team t fun h => { h with wait := some (.mx T.mx.issued) }) := by
  let f : Thread → Thread := fun h => { h with wait := some (.mx T.mx.issued) }
  have hs' := hs.toAt.modThread (f := f) rfl rfl rfl
  have hlen : ¬T.mx.issued + T.mx.queue.length ≤ T.mx.issued := by
    have := List.length_pos_of_ne_nil hq
    omega
  have hbody : bodyMxProg d false (c.lane t) s = .error (.hold (s.modThread c.team t f)) := by
    simp only [bodyMxProg, seq_apply, M.bind_apply, Bool.false_eq_true, if_false, mxWait, hs.getTeam, hs.waitOf, hw, hlen, setWait,
      modThread_apply]
    rfl
  rw [hs.ends_hold ⟨_, exec_mxProg d false s⟩ rfl hbody hs'.team hs'.group hc,
    State.markWait_of_waits hs'.team hs'.thread rfl]

/-- R204: the commands issued before have ended. -/
theorem At.mxWait_ended (hs : At s c t T G h) (hq : T.mx.queue = []) (hk : ∀ k, h.wait = some (.mx k) → k ≤ T.mx.issued) :
    mxWait (c.lane t) s = .ok ((), s) := by
  simp only [mxWait, M.bind_apply, hs.getTeam, hs.waitOf, hq, List.length_nil, Nat.add_zero]
  rw [if_pos]
  · rfl
  · split
    · next k hw => exact hk k hw
    · exact Nat.le_refl _

theorem exec_mxProg_abandon (hs : Solo s (.mxProg d true) c t T G h) {cause : BitVec 8} {addr : Word64}
    (hab : T.mx.abandon = some (cause, addr)) :
    exec (.mxProg d true) s = .next ((s.modTeam c.team fun T => { T with mx := { T.mx with abandon := none } }).trapped
      c (.mxProg d true) t cause addr none) := by
  have hcur : (s.modTeam c.team fun T => { T with mx := { T.mx with abandon := none } }).cur = some c := hs.cur
  refine hs.ends_done ⟨_, exec_mxProg d true s⟩ rfl ?_
  simp only [bodyMxProg, seq_apply, M.bind_apply, if_true, hs.getTeam, hab, modTeam_apply]
  rw [trapAfter_apply hcur]

/-- R204: the word that MX.PROG gives. -/
def Mx.report (x : Mx) : Word :=
  BitVec.ofNat 32 (x.prog.toNat % 2 ^ 24 + (if x.queue = [] then 2 ^ 24 else 0) +
    (match x.stop with
      | some (true, _) => 2 ^ 25
      | _ => 0) + if x.lastBad then 2 ^ 26 else 0)

theorem exec_mxProg_of_solo (hs : Solo s (.mxProg d w) c t T G h) (hq : w = true ∨ T.mx.queue = [])
    (hk : ∀ k, h.wait = some (.mx k) → k ≤ T.mx.issued) (hab : T.mx.abandon = none) :
    exec (.mxProg d w) s = .next (s.after c t (·.put d T.mx.report)) := by
  have hd : d.toNat < 220 := hs.lt (by simp)
  have hempty : (if T.mxBusy = true then 0 else 2 ^ 24) = if T.mx.queue = [] then 2 ^ 24 else 0 := by
    cases hqueue : T.mx.queue <;> simp [Team.mxBusy, hqueue]
  refine hs.ends_after ⟨_, exec_mxProg d w s⟩ rfl (seq_ok ?_)
  cases w with
  | true =>
    simp only [if_true, M.bind_apply, hs.getTeam, hab, wr_put hd, hempty]
    rfl
  | false =>
    simp only [Bool.false_eq_true, if_false, M.bind_apply, hs.mxWait_ended (hq.resolve_left nofun) hk, hs.getTeam, hab,
      wr_put hd, hempty]
    rfl

end Sys2Proof.Machine

open Sys2Proof Sys2Proof.Machine

/-- Settles O25: each matrix instruction reads its block, passes its checks and joins the queue, and MX.PROG reports. -/
theorem matrixIssue : Obligations.MatrixIssue := by
  intro a d e q p n w s c t T G h x room claimed block sblock desc tile o
  refine ⟨?_, ?_, ?_, ?_, ?_, ?_, ?_, ?_, ?_, ?_, ?_, ?_, ?_⟩
  · exact fun hs hr hblock hok hb => exec_mxIssue_of_solo hs hr hblock rfl hok hb
  · exact fun hs hr hblock hok => exec_mxIssue_bad hs hr hblock rfl hok
  · exact fun hs hr hok hb => exec_mxIssueS_of_solo hs hr hok hb
  · exact fun hs hr hcl => exec_mxZero_of_solo hs hr hcl
  · exact fun hs hr hcl => exec_mxZero_unclaimed hs hr hcl
  · exact fun hs hr hblock hok hb => exec_mxLoad_of_solo hs hr hblock rfl hok hb
  · exact fun hs hq hr hblock hok hb => exec_mxStore_of_solo hs hq hr hblock rfl hok hb
  · exact fun hs hr hblock hrep hok hb => exec_mxStore_draws hs hr hblock rfl hrep hok hb rfl
  · exact fun hs hr hblock hok => exec_mxTransfer_bad (q := q) (p := p) (.inl rfl) hs hr hblock hok
  · exact fun hs hr hblock hok => exec_mxTransfer_bad (.inr rfl) hs hr hblock hok
  · exact fun hs hw hq hc => exec_mxProg_waits hs hw hq hc
  · exact fun hs hq hk hab => exec_mxProg_of_solo hs hq hk hab
  · exact fun cause addr hs hab => exec_mxProg_abandon hs hab
end

section
/-!
PROOFS. A step runs the instruction that is decoded at the PC, and what is decoded there (O48).
-/

namespace Sys2Proof.Machine

variable {s s1 s2 u : State} {k t n : Nat} {as : List Turn} {T : Team} {h : Thread} {i : Instr} {w : Word} {pc : Word64}

/-! ### One turn -/

theorem step_of_agenda {tn : Turn} (ha : s.agenda = tn :: as) :
    step s = finishTurn (some tn) (takeTurn tn { s with agenda := as }) := by
  simp only [step, runTurn, State.chosen, ha]

theorem State.running_of_resident (hT : s.team? k = some T) (hst : T.status = .resident) (hd : T.dying = false) :
    s.running k = true := by
  simp [State.running, hT, hst, hd]

/-- A thread that is ready forms a bundle alone (R285). -/
theorem State.bundle_single (hT : s.team? k = some T) (hrun : s.running k = true) (hh : T.thread? t = some h)
    (hr : h.ready = true) : s.bundle k [t] = [t] := by
  simp [State.bundle, hT, hrun, hh, hr, sortBy, insertBy, Team.onePerLane]

theorem issueAt_of_fetch {c : Issue} {i : Instr} (hf : fetchAt c.team pc s = .ok ((w, n, some i), s1)) :
    issueAt c pc s = exec i { s1 with cur := some { c with word := w, len := n } } := by
  have hf' : runM (fetchAt c.team pc) s = .ok ((w, n, some i), s1) := hf
  simp only [issueAt, hf']

theorem step_bundle (ha : s.agenda = .bundle k [t] :: as) (hT : s.team? k = some T) (hst : T.status = .resident)
    (hd : T.dying = false) (hh : T.thread? t = some h) (hr : h.ready = true)
    (hf : fetchAt k h.pc (({ s with agenda := as } : State).modTeam k (·.issued [t])) = .ok ((w, n, some i), s1)) :
    step s = finishTurn (some (.bundle k [t])) (exec i { s1 with cur := some ⟨k, [t], false, w, n⟩ }) := by
  have hT' : ({ s with agenda := as } : State).team? k = some T := hT
  have hpc : (({ s with agenda := as } : State).thread? k t).map (·.pc) = some h.pc := by simp [State.thread?, hT', hh]
  rw [step_of_agenda ha, takeTurn, issueBundle,
    State.bundle_single hT' (State.running_of_resident hT' hst hd) hh hr]
  simp only [hpc, Option.getD_some, issueAt_of_fetch (c := ⟨k, [t], false, 0, 0⟩) hf]

theorem step_front {f : Front} (ha : s.agenda = .front k :: as) (hT : s.team? k = some T) (hst : T.status = .resident)
    (hd : T.dying = false) (hfr : T.front = some f) (hr : f.ready = true)
    (hf : fetchAt k f.pc { s with agenda := as } = .ok ((w, n, some i), s1)) :
    step s = finishTurn (some (.front k)) (exec i { s1 with cur := some ⟨k, [], true, w, n⟩ }) := by
  have hT' : ({ s with agenda := as } : State).team? k = some T := hT
  rw [step_of_agenda ha, takeTurn, issueFront, hT']
  simp only [Option.bind_some, hfr, State.running_of_resident hT' hst hd, hr, Bool.and_self, if_true,
    issueAt_of_fetch (c := ⟨k, [], true, 0, 0⟩) hf]

theorem State.served_keeps (s : State) (tn : Option Turn) : (s.served tn).mem = s.mem ∧ (s.served tn).clock = s.clock := by
  unfold State.served
  split
  · split <;> exact ⟨rfl, rfl⟩
  · exact ⟨rfl, rfl⟩

/-! ### The end of a clock -/

/-- With nothing published the collective engine takes nothing up. -/
theorem State.takePublished_idle (hq : ∀ e ∈ s.cqs, e.2.head = e.2.tail) : s.takePublished = s := by
  have hnone : s.nextPublished = none := by
    have hf : s.cqs.filter (fun e => s.queueMoves e.2) = [] := by
      rw [List.filter_eq_nil_iff]
      intro e he
      simp [State.queueMoves, hq e he]
    simp [State.nextPublished, hf, sortBy]
  unfold State.takePublished
  cases s.published + s.cqs.length with
  | zero => rfl
  | succ n => simp only [State.takeEntries, hnone]

theorem State.settle_idle (hb : s.heldBanks = []) (hq : ∀ e ∈ s.cqs, e.2.head = e.2.tail)
    (hc : ∀ e ∈ s.cores, e.2.asked = [] ∧ e.2.toRetire = [] ∧ e.2.parityBad = []) : s.settle = s := by
  have hdue : (s.cores.filter fun e => !e.2.asked.isEmpty || (!e.2.fenced && (e.2.failsAgain || e.2.parityFailed))) = [] := by
    rw [List.filter_eq_nil_iff]
    intro e he
    obtain ⟨ha, hr, hp⟩ := hc e he
    simp [ha, Core.failsAgain, hr, Core.parityFailed, hp]
  have hfree : s.freeBanks = s := by simp [State.freeBanks, hb]
  simp only [State.settle, hdue, List.map_nil, List.foldl_nil, hfree, State.takePublished_idle hq]

/-! ### Fetching -/

theorem fetchAt_word (hT : s.team? k = some T) (h1 : fetchHalf k pc s = .ok (w.extractLsb' 0 16, s1)) (hb : w.getLsbD 0 = true)
    (hx : s1.xlatOf T = none) (h2 : fetchHalf k (pc + 2) s1 = .ok (w.extractLsb' 16 16, s2)) (hd : decode32 w = some i) :
    fetchAt k pc s = .ok ((w, 4, some i), s2) := by
  have hlow : (w.extractLsb' 0 16).getLsbD 0 = true := by simpa using hb
  have hw : w.extractLsb' 16 16 ++ w.extractLsb' 0 16 = w := by
    refine BitVec.eq_of_getLsbD_eq fun j hj => ?_
    rw [BitVec.getLsbD_append, BitVec.getLsbD_extractLsb', BitVec.getLsbD_extractLsb']
    by_cases hlt : j < 16
    · simp [hlt]
    · have h16 : 16 + (j - 16) = j := by omega
      simp [hlt, h16, show j - 16 < 16 by omega]
  simp only [fetchAt, M.bind_apply, getTeam_apply hT, h1, M.get_apply, hx, hlow, Bool.not_true, Bool.false_eq_true, if_false, h2,
    M.pure_apply, hw, hd]

theorem fetchAt_compact {hw : Half} (hT : s.team? k = some T) (h1 : fetchHalf k pc s = .ok (hw, s1)) (hb : hw.getLsbD 0 = false)
    (hx : s1.xlatOf T = none) (hd : decode16 hw = some i) : fetchAt k pc s = .ok ((hw.setWidth 32, 2, some i), s1) := by
  simp only [fetchAt, M.bind_apply, getTeam_apply hT, h1, M.get_apply, hx, hb, Bool.not_false, if_true, M.pure_apply, hd]

/-- R340: an address in the code region of a translation. -/
theorem Xlat.half?_isSome {x : Xlat} {e : Nat × Nat × Nat} (hat : x.at? pc = some e) : ∃ hw, x.half? pc = some hw := by
  unfold Xlat.half?
  rw [hat]
  split <;> exact ⟨_, rfl⟩

theorem fetchAt_translated {x : Xlat} {m j p : Nat} (hT : s.team? k = some T) (hx : s.xlatOf T = some x)
    (hat : x.at? pc = some (m, j, p)) (hal : (pc - x.base).getLsbD 1 = false) :
    fetchAt k pc s = .ok (if j = (x.seg m).2 then (x.word m j, 4, (decodeSucc (x.succWords m)).map (·.1))
      else (x.native m j p pc, 4, x.instr m j p pc), s) := by
  obtain ⟨hw, hhalf⟩ := Xlat.half?_isSome hat
  have hfetch : fetchHalf k pc s = .ok (hw, s) := by
    simp only [fetchHalf, M.bind_apply, getTeam_apply hT, M.get_apply, hx, Option.bind_some, hhalf, M.pure_apply]
  simp only [fetchAt, M.bind_apply, getTeam_apply hT, hfetch, M.get_apply, hx, hat, hal, Bool.false_eq_true, if_false]
  split <;> rfl

theorem Xlat.native_plain {x : Xlat} {m j : Nat} (hs : x.stage? m j = none) (p : Nat) (pc : Word64) :
    x.native m j p pc = x.word m j := by
  simp only [Xlat.native, hs]

/-! ### Fetching through the page tables -/

section

variable {c va : Nat} {e : Word64} {large : Bool} {p : Part} {need : Need} {acc : BitVec 8}

/-- R243, R246: a translation that no core holds is the walk's. -/
theorem translate_fresh (hp : (s.ctx c).heldPtbase = []) (hcached : s.cached c va = none)
    (hwalk : s.walk (s.ctx c).ptbase va = .page e large) :
    ∃ es, translate c va s = .ok (.page e large, { s with tlb := es }) := by
  refine ⟨⟨c, if large then va / 2 ^ 22 else va / 2 ^ 16, large, e⟩ :: s.tlb, ?_⟩
  simp only [translate, M.bind_apply, M.get_apply, Context.oldRoots, hp, List.filter_nil, List.map_nil, pickAmong, M.pure_apply,
    hcached, hwalk, M.modify_apply]

/-- R157: a halfword lies in one page. -/
theorem walkRuns_half (h2 : va % 2 = 0) (hva : va < 2 ^ 64) (htr : translate c va s = .ok (.page e large, u)) :
    walkRuns c (pagesIn 2) va 2 s = .ok ([(va, 2, .page e large)], u) := by
  have hmin (sz : Nat) (hsz : sz = 2 ^ 22 ∨ sz = 2 ^ 16) : min 2 (sz - va % sz) = 2 := by
    obtain rfl | rfl := hsz <;> omega
  have hstop (v : Nat) : walkRuns c 1 v 0 u = .ok ([], u) := rfl
  have hk : min 2 ((if large then 2 ^ 22 else 2 ^ 16) - va % (if large then 2 ^ 22 else 2 ^ 16)) = 2 :=
    hmin _ (by cases large <;> simp)
  show walkRuns c (1 + 1) va 2 s = _
  rw [walkRuns]
  simp only [show ¬(2 = 0) from by decide, if_false, M.bind_apply, Nat.mod_eq_of_lt hva, htr]
  cases large
  · simp only [Bool.false_eq_true, if_false] at hk
    simp only [hk, Nat.sub_self, hstop, M.pure_apply]
  · simp only [if_true] at hk
    simp only [hk, Nat.sub_self, hstop, M.pure_apply]

/-- R152: an empty heap window takes no address. -/
theorem checkGlobal_half (hheld : (s.ctx c).heldHeap = []) (hl : (s.ctx c).heap.hl = 0) (hcan : canonical va = true)
    (h2 : va % 2 = 0) (hva : va < 2 ^ 64) (htr : translate c va s = .ok (.page e large, u))
    (huse : usePage u (u.ctx c).privileged need va 2 e large = some p) :
    checkGlobal c va 2 need acc s = .ok ([p], u) := by
  have hheap : heapOf c s = .ok ((s.ctx c).heap, s) := by
    simp only [heapOf, M.bind_apply, M.get_apply, hheld, pickAmong, M.pure_apply]
  have hlen : (s.ctx c).heap.hl.toNat = 0 := by rw [hl]; rfl
  have hout : ¬((s.ctx c).heap.hb.toNat ≤ va ∧ va + 2 ≤ min ((s.ctx c).heap.hb.toNat + (s.ctx c).heap.hl.toNat) (2 ^ 64)) := by
    omega
  have hedge : ¬((s.ctx c).heap.hb.toNat ≤ va ∧ va < min ((s.ctx c).heap.hb.toNat + (s.ctx c).heap.hl.toNat) (2 ^ 64) ∨
      (s.ctx c).heap.hb.toNat ≤ va + 2 - 1 ∧
        va + 2 - 1 < min ((s.ctx c).heap.hb.toNat + (s.ctx c).heap.hl.toNat) (2 ^ 64)) := by
    omega
  have hruns : pageRuns (pagesIn 2) va 2 = [(va, 2)] := by
    have hk : min 2 (65536 - va % 65536) = 2 := by omega
    show pageRuns (1 + 1) va 2 = _
    simp [pageRuns, hk]
  simp only [checkGlobal, M.bind_apply, check_apply, hcan, if_true, hheap, M.get_apply, hout, hedge, if_false, hruns,
    walkRuns_half h2 hva htr, List.find?_cons, List.find?_nil, Bool.not_true, useParts, huse, M.pure_apply,
    show ((Walk.page e large) == .invalid) = false from rfl]

/-- R226: a halfword that no core holds is what the team sees. -/
theorem fetchPhys_fresh (hf : s.fetched = []) (k core ctx pa : Nat) :
    ∃ s', fetchPhys k core ctx pa s = .ok (halfOf (s.teamByte k pa) (s.teamByte k (pa + 1)), s') ∧ s'.mem = s.mem ∧
      s'.teams = s.teams := by
  simp only [fetchPhys, M.bind_apply, M.get_apply, hf, List.find?_nil]
  split
  · exact ⟨s, rfl, rfl, rfl⟩
  · exact ⟨_, rfl, rfl, rfl⟩

/-- R57, R245: a halfword outside a translation is fetched where the page tables put it. -/
theorem fetchHalf_paged (hT : s.team? k = some T) (hx : s.xlatOf T = none) (hheld : (s.ctx T.ctx).heldHeap = [])
    (hp : (s.ctx T.ctx).heldPtbase = []) (hl : (s.ctx T.ctx).heap.hl = 0) (hcan : canonical pc.toNat = true)
    (h2 : pc.toNat % 2 = 0) (hcached : s.cached T.ctx pc.toNat = none)
    (hwalk : s.walk (s.ctx T.ctx).ptbase pc.toNat = .page e large)
    (huse : usePage s (s.ctx T.ctx).privileged ⟨false, false, true⟩ pc.toNat 2 e large = some p) {pa : Nat}
    (hpa : p.target = .phys pa) (hbad : s.badMem = []) (hf : s.fetched = []) :
    ∃ s', fetchHalf k pc s = .ok (halfOf (s.teamByte k pa) (s.teamByte k (pa + 1)), s') ∧ s'.mem = s.mem ∧
      s'.teams = s.teams := by
  obtain ⟨es, htr⟩ := translate_fresh hp hcached hwalk
  have hcheck : checkGlobal T.ctx pc.toNat 2 ⟨false, false, true⟩ accFetch s = .ok ([p], { s with tlb := es }) :=
    checkGlobal_half hheld hl hcan h2 pc.isLt htr huse
  have hremote : p.isRemote = false := by simp [Part.isRemote, hpa]
  have hcode : codePart k pc s = .ok (p, { s with tlb := es }) := by
    simp only [codePart, M.bind_apply, getTeam_apply hT, hcheck, hremote, Bool.false_eq_true, if_false, M.pure_apply]
  have hwords : checkWords none [p] { s with tlb := es } = .ok ((), { s with tlb := es }) :=
    checkWords_sound (s := { s with tlb := es }) hbad none [p]
  simp only [fetchHalf, M.bind_apply, getTeam_apply hT, M.get_apply, hx, Option.bind_none, hcode, hwords, hpa]
  exact fetchPhys_fresh (s := { s with tlb := es }) hf k T.core T.ctx pa

end

end Sys2Proof.Machine

open Sys2Proof Sys2Proof.Machine

/-- Settles O48: the turn of the agenda's first agent, and the fetch that its PC makes. -/
theorem stepRunsTheDecodedInstruction : Obligations.StepRunsTheDecodedInstruction := by
  refine ⟨?_, ?_⟩
  · intro s k t as T i w n s1 hT hst hd
    refine ⟨?_, ?_, ?_, ?_, ?_⟩
    · exact fun h ha hh hr hf => step_bundle ha hT hst hd hh hr hf
    · exact fun f ha hfr hr hf => step_front ha hT hst hd hfr hr hf
    · exact fun tn s' => ⟨rfl, s'.served_keeps tn⟩
    · exact fun u => ⟨rfl, rfl, rfl⟩
    · exact fun u hb hq hc => State.settle_idle hb hq hc
  · intro s k T pc w i hT
    refine ⟨?_, ?_, ?_, ?_⟩
    · exact fun s1 s2 h1 hb hx h2 hd => fetchAt_word hT h1 hb hx h2 hd
    · exact fun hw s1 h1 hb hx hd => fetchAt_compact hT h1 hb hx hd
    · exact fun e large p pa hx hheld hp hl hcan h2 hcached hwalk huse hpa hbad hf =>
        fetchHalf_paged hT hx hheld hp hl hcan h2 hcached hwalk huse hpa hbad hf
    · intro x m j p hx hat hal
      refine ⟨fun hj => ⟨?_, fun hs => Xlat.native_plain hs p pc⟩, fun hj => ?_⟩
      · rw [fetchAt_translated hT hx hat hal, if_neg hj]
      · rw [fetchAt_translated hT hx hat hal, if_pos hj]
end

section
/-!
PROOFS. Steps of engine operations (O35–O37), and the transfers of copies (O35).
-/

namespace Sys2Proof.Machine

variable {s u : State} {k id : Nat} {T T' : Team} {C : Copy} {o : Origin} {m : M Unit} {onPage : Word64 → State → State}
  {onFault : BitVec 8 → Word64 → Option Local → State → State} {f : Team → Team}

/-! ### A step of an engine operation -/

theorem afterFork_apply (hf : s.forkPending k o = false) : afterFork k o s = .ok ((), s) := by
  simp only [afterFork, M.bind_apply, M.get_apply, hf, Bool.false_eq_true, if_false, M.pure_apply]

theorem engineStep_ok (hf : s.forkPending k o = false) (hm : m s = .ok ((), u)) (hsoon : s.tooSoon u k = false) :
    engineStep s k o m onPage onFault = u := by
  simp only [engineStep, runM, M.bind_apply, afterFork_apply hf, hm, hsoon, Bool.false_eq_true, if_false]

/-- R258: what must wait for the porch to commit is not kept. -/
theorem engineStep_early (hf : s.forkPending k o = false) (hm : m s = .ok ((), u) ∨ m s = .error (.hold u))
    (hsoon : s.tooSoon u k = true) : engineStep s k o m onPage onFault = s.commitPorch k := by
  obtain hm | hm := hm <;> simp only [engineStep, runM, M.bind_apply, afterFork_apply hf, hm, hsoon, if_true]

/-- R259: the accesses of the operation follow every access that its thread made before. -/
theorem engineStep_fork (hf : s.forkPending k o = true) : engineStep s k o m onPage onFault = s := by
  have hfork : afterFork k o s = .error .retry := by
    simp only [afterFork, M.bind_apply, M.get_apply, hf, if_true]
    rfl
  simp only [engineStep, runM, M.bind_apply, hfork]

/-- R177, R259: a fault that no word's error caused, of an operation whose stores have been performed. -/
theorem engineStep_trap {cause : BitVec 8} {addr : Word64} (hf : s.forkPending k o = false)
    (hm : m s = .error (.trap cause addr)) (hc : cause ≠ Cause.uncorrectable) (hp : s.opPending k o = false) :
    engineStep s k o m onPage onFault = onFault cause addr none (s.sealOrigin k o) := by
  have hj : runM (joined k o) s = .ok (true, s.sealOrigin k o) := by
    simp only [runM, joined, M.bind_apply, M.get_apply, hp, Bool.false_eq_true, if_false, M.modify_apply, M.pure_apply]
  simp only [engineStep, runM, M.bind_apply, afterFork_apply hf, hm, State.engineFault, if_neg hc]
  rw [show joined k o s = _ from hj]

/-- A step that makes no remote request and commits no porch is not too soon. -/
theorem State.tooSoon_same (hT : s.team? k = some T) (hT' : u.team? k = some T') (hr : T'.revocable = T.revocable)
    (hn : u.nextRemote = s.nextRemote) : s.tooSoon u k = false := by
  simp [State.tooSoon, hT, hT', hr, hn]

/-! ### The end of an operation -/

theorem State.sealOrigin_nextRemote (s : State) (k : Nat) (o : Origin) : (s.sealOrigin k o).nextRemote = s.nextRemote := by
  unfold State.sealOrigin
  split <;> rfl

/-- R259: the seal of an operation's stores leaves all of the team but its porch. -/
def Team.sealed (T : Team) (o : Origin) : Team :=
  match o.op with
  | some n => { T with porch := T.porch.map fun e => if e.tag.origin.op = some n then { e with sealed := true } else e }
  | none => T

theorem State.team?_sealOrigin (hT : s.team? k = some T) (o : Origin) : (s.sealOrigin k o).team? k = some (T.sealed o) := by
  unfold State.sealOrigin Team.sealed
  cases o.op with
  | none => exact hT
  | some n =>
    refine (State.team?_modTeam s k k _).trans ?_
    rw [if_pos rfl, hT]
    rfl

theorem finish_apply (s : State) (k : Nat) (o : Origin) (f : Team → Team) :
    (do if ← joined k o then modTeam k f else pure () : M Unit) s = .ok ((), s.finishes k o f) := by
  simp only [joined, State.finishes, M.bind_apply, M.get_apply]
  cases hp : s.opPending k o <;> rfl

theorem State.finishes_keeps (hT : s.team? k = some T) (o : Origin) (hf : ∀ T, (f T).revocable = T.revocable) :
    ∃ T', (s.finishes k o f).team? k = some T' ∧ T'.revocable = T.revocable ∧
      (s.finishes k o f).nextRemote = s.nextRemote := by
  unfold State.finishes
  split
  · exact ⟨T, hT, rfl, rfl⟩
  · refine ⟨f (T.sealed o), ?_, ?_, s.sealOrigin_nextRemote k o⟩
    · rw [State.team?_modTeam, if_pos rfl, State.team?_sealOrigin hT]
      rfl
    · rw [hf, Team.sealed]
      split <;> rfl

/-! ### Copies -/

theorem Team.revocable_checkPhase (T : Team) (k : Nat) : (T.checkPhase k).revocable = T.revocable := by
  unfold Team.checkPhase
  dsimp only
  split <;> rfl

theorem Team.copied_revocable (T : Team) (id : Nat) (C : Copy) : (T.copied id C).revocable = T.revocable := by
  unfold Team.copied
  cases C.barrier with
  | none => rfl
  | some b => exact Team.revocable_checkPhase _ _

theorem Team.landed_revocable (T : Team) (id : Nat) (C : Copy) (n : Nat) : (T.landed id C n).revocable = T.revocable := by
  unfold Team.landed
  cases C.barrier with
  | none => rfl
  | some b =>
    simp only [Team.landBytes]
    split
    · rfl
    · split
      · rfl
      · exact Team.revocable_checkPhase _ _

/-- A copy that meets a page without a translation sleeps (R177, R248). -/
def copySleeps (k id : Nat) (a : Word64) (s : State) : State :=
  match s.team? k with
  | some T =>
    let r := s.enginePage T.ctx a
    r.1.modTeam k fun T => { T with copies := SMap.modify id (fun C => { C with sleep := some r.2 }) T.copies }
  | none => s

/-- A copy of a team that is on its core, neither asleep nor waiting for an answer, takes a step. -/
theorem exec_copyTransfer_step (ho : OnCore s k T) (hC : SMap.find? id T.copies = some C) (hout : C.out = [])
    (hsleep : C.sleep = none) :
    exec (.copyTransfer k id) s = .next (engineStep s k C.origin (copyPiece k id C) (copySleeps k id)
      fun cause addr place s => s.abandonCopy k id C cause addr place) := by
  have hrun : s.enginesRun k = true := by simp [State.enginesRun, ho.team, ho.resident]
  simp only [exec_copyTransfer, execCopyTransfer, ho.team, Option.bind_some, hC, hrun, hsleep, hout, Bool.not_true,
    Option.isSome_none, List.isEmpty_nil, Bool.or_self, Bool.false_eq_true, if_false]
  rfl

theorem exec_copyTransfer_asleep (ho : OnCore s k T) (hC : SMap.find? id T.copies = some C) (hsleep : C.sleep.isSome = true) :
    exec (.copyTransfer k id) s = .next s := by
  simp only [exec_copyTransfer, execCopyTransfer, ho.team, Option.bind_some, hC, hsleep, Bool.or_true, Bool.true_or, if_true]

theorem finishCopy_apply (s : State) (k id : Nat) (C : Copy) :
    finishCopy k id C s = .ok ((), s.finishes k C.origin (·.copied id C)) := finish_apply s k C.origin _

theorem landPiece_apply (s : State) (k id : Nat) (C : Copy) (n : Nat) :
    landPiece k id C n s = .ok ((), if C.total ≤ C.done + n then
      (s.modTeam k (·.landed id C n)).finishes k C.origin (·.copied id C) else s.modTeam k (·.landed id C n)) := by
  have hland : landPiece k id C n s =
      (if C.total ≤ C.done + n then finishCopy k id C else pure ()) (s.modTeam k (·.landed id C n)) := rfl
  rw [hland]
  split
  · exact finishCopy_apply _ k id C
  · rfl

/-! ### Pieces between own local addresses -/

theorem placeReady_own (ho : OnCore s k T) (a : Nat) (w : Bool) (named : Word64) :
    placeReady (⟨k, a, w⟩, T.relaunches) named s = .ok ((), s) := by
  have hcheck : (T.relaunches == T.relaunches && T.status != .ended) = true := by simp [ho.resident]
  simp only [placeReady, M.bind_apply, M.get_apply, ho.team, check_apply, hcheck, if_true]
  rw [if_pos (.inl ho.resident)]
  rfl

/-- The bytes of the next piece of a copy between local addresses. -/
def Copy.localLen (C : Copy) (b : Nat) : Nat := min (4 - (b + C.done) % 4) (C.total - C.done)

/-- What a copy between own local addresses has read and written. -/
def State.moveLocal (s : State) (k : Nat) (T : Team) (C : Copy) (a b : Nat) : State :=
  s.writeLocal ⟨k, b + C.done, false⟩ (C.ascending (readBytes T.sp (a + C.done) (C.localLen b)))

section

variable {a b : Nat} (ho : OnCore s k T) (hkind : C.kind = .l2l)
  (hsrc : C.srcAt = some (⟨k, a, false⟩, T.relaunches)) (hdst : C.dstAt = some (⟨k, b, false⟩, T.relaunches))

include hkind hdst in
theorem Copy.piece_local : C.piece = ⟨C.localLen b, [(.here C.done, .here C.done, C.localLen b)]⟩ := by
  simp only [Copy.piece, hkind, hdst, Option.map_some, Option.getD_some, Copy.inBlock, Copy.localLen]

include ho hsrc in
theorem readMoves_local (hsound : CoreSound s T) (n : Nat) :
    readMoves k C [(.here C.done, .here C.done, n)] s = .ok ([.bytes (readBytes T.sp (a + C.done) n)], s) := by
  have hready := placeReady_own ho a false (C.src + BitVec.ofNat 64 C.done)
  have hread := hsound.readLocal (l := ⟨k, a + C.done, false⟩) ho.team (C.src + BitVec.ofNat 64 C.done).toNat n
  simp only [readMoves, hsrc, M.bind_apply, hready, hread, M.pure_apply, List.append_nil]

include ho hdst in
theorem writeMoves_local (hsound : CoreSound s T) (n : Nat) (bs : List Byte) :
    writeMoves k C [(.here C.done, .here C.done, n)] bs s = .ok ([], s.writeLocal ⟨k, b + C.done, false⟩ bs) := by
  have hready := placeReady_own ho b false (C.dst + BitVec.ofNat 64 C.done)
  have hstore := hsound.storeLocal (l := ⟨k, b + C.done, false⟩) ho.team rfl k bs
  simp only [writeMoves, hdst, M.bind_apply, hready, hstore, M.pure_apply]

include ho hkind hsrc hdst in
/-- R176: one piece of a copy between the team's own local addresses. -/
theorem copyPiece_local (hsound : CoreSound s T) (hparts : C.parts = []) (hmore : C.done < C.total) :
    copyPiece k id C s = .ok ((), if C.total ≤ C.done + C.localLen b then
      ((s.moveLocal k T C a b).modTeam k (·.landed id C (C.localLen b))).finishes k C.origin (·.copied id C)
      else (s.moveLocal k T C a b).modTeam k (·.landed id C (C.localLen b))) := by
  have hready : partsReady [.bytes (readBytes T.sp (a + C.done) (C.localLen b))] =
      some (readBytes T.sp (a + C.done) (C.localLen b)) := by
    simp [partsReady]
  simp only [copyPiece, if_neg (Nat.not_le.mpr hmore), Copy.piece_local hkind hdst, hparts, List.isEmpty_nil, if_true, M.bind_apply,
    readMoves_local ho hsrc hsound, hready, writeMoves_local ho hdst hsound]
  exact landPiece_apply _ k id C _

end

theorem State.moveLocal_keeps (hT : s.team? k = some T) (a b : Nat) :
    ∃ T', (s.moveLocal k T C a b).team? k = some T' ∧ T'.revocable = T.revocable ∧
      (s.moveLocal k T C a b).nextRemote = s.nextRemote := by
  let bs := C.ascending (readBytes T.sp (a + C.done) (C.localLen b))
  refine ⟨{ T with sp := writeBytes T.sp (b + C.done) bs }, State.team?_writeLocal (c := ⟨k, [], false, 0, 0⟩) hT _ _, rfl, ?_⟩
  simp only [State.moveLocal, State.writeLocal, hT]
  rfl

/-- R177: the copy is given up where the seal of its stores has been set. -/
theorem abandonCopy_sealed {cause : BitVec 8} {addr : Word64} (hT : s.team? k = some T) (hc : cause ≠ Cause.uncorrectable) :
    (s.sealOrigin k C.origin).abandonCopy k id C cause addr none =
      (match C.barrier with
        | some j => (s.sealOrigin k C.origin).modTeam k fun T =>
            Team.abandonOn { T with copies := SMap.erase id T.copies } j (some addr)
        | none => ((s.sealOrigin k C.origin).modTeam k fun T =>
            { T with copies := SMap.erase id T.copies }).report4 T C.origin 2 cause addr) := by
  have hT' := State.team?_sealOrigin hT C.origin
  have hno : ¬(cause = Cause.uncorrectable ∨ (none : Option Local).isSome = true) := by simp [hc]
  simp only [State.abandonCopy, hT', if_neg hno]
  cases C.barrier with
  | some j => exact State.modTeam_congr hT' rfl
  | none =>
    have hreport (u : State) : u.report4 (T.sealed C.origin) C.origin 2 cause addr = u.report4 T C.origin 2 cause addr := by
      unfold Team.sealed
      split <;> rfl
    simp only [hreport]
    exact congrArg (fun u => State.report4 u T C.origin 2 cause addr) (State.modTeam_congr hT' rfl)

end Sys2Proof.Machine

open Sys2Proof Sys2Proof.Machine

/-- Settles O35: a step of the copy engine, by what its piece does. -/
theorem copyTransfers : Obligations.CopyTransfers := by
  intro s k id T C ho hC hout
  refine ⟨fun hf hsleep => ⟨?_, ?_, ?_, ?_⟩, ?_, ?_⟩
  · intro a b hkind hparts hmore hsrc hdst hsound n s1
    obtain ⟨T₁, hT₁, hr₁, hn₁⟩ := State.moveLocal_keeps (C := C) ho.team a b
    have hT₂ : ((s.moveLocal k T C a b).modTeam k (·.landed id C (C.localLen b))).team? k =
        some (T₁.landed id C (C.localLen b)) := by
      rw [State.team?_modTeam, if_pos rfl, hT₁]
      rfl
    have hr₂ : (T₁.landed id C (C.localLen b)).revocable = T.revocable := (T₁.landed_revocable id C _).trans hr₁
    rw [exec_copyTransfer_step ho hC hout hsleep]
    refine congrArg _ (engineStep_ok hf (copyPiece_local ho hkind hsrc hdst hsound hparts hmore) ?_)
    split
    · obtain ⟨T₃, hT₃, hr₃, hn₃⟩ := State.finishes_keeps hT₂ C.origin (f := (·.copied id C)) fun T => T.copied_revocable id C
      exact State.tooSoon_same ho.team hT₃ (hr₃.trans hr₂) (hn₃.trans hn₁)
    · exact State.tooSoon_same ho.team hT₂ hr₂ hn₁
  · intro hdone
    obtain ⟨T', hT', hr, hn⟩ := State.finishes_keeps ho.team C.origin (f := (·.copied id C)) fun T => T.copied_revocable id C
    have hpiece : copyPiece k id C s = .ok ((), s.finishes k C.origin (·.copied id C)) := by
      rw [copyPiece, if_pos hdone]
      exact finishCopy_apply s k id C
    rw [exec_copyTransfer_step ho hC hout hsleep]
    exact congrArg _ (engineStep_ok hf hpiece (State.tooSoon_same ho.team hT' hr hn))
  · intro cause addr hm hrec hunc hp gone s1
    rw [exec_copyTransfer_step ho hC hout hsleep, engineStep_trap (m := copyPiece k id C) hf hm hunc hp]
    exact congrArg _ (abandonCopy_sealed ho.team hunc)
  · intro s1 hm hsoon
    rw [exec_copyTransfer_step ho hC hout hsleep]
    exact congrArg _ (engineStep_early hf hm hsoon)
  · intro hf
    by_cases hsleep : C.sleep = none
    · rw [exec_copyTransfer_step ho hC hout hsleep, engineStep_fork hf]
    · exact exec_copyTransfer_asleep ho hC (Option.isSome_iff_ne_none.mpr hsleep)
  · exact exec_copyTransfer_asleep ho hC
end

section
/-!
PROOFS. Results that arrive, and the pushes and pops of streams (O38).
-/

namespace Sys2Proof.Machine

variable {s s1 s2 u : State} {k t n e : Nat} {T : Team} {h h1 : Thread} {v : Word64} {m : Bool} {via : Option Nat} {p pushes : Bool}
  {d : BitVec 8} {q : Pending} {l : Lane}

theorem OnCore.running (ho : OnCore s k T) : s.running k = true := by
  simp [State.running, ho.team, ho.resident, ho.goes]

theorem OnCore.present (ho : OnCore s k T) (hh : T.thread? t = some h) (he : h.ended = false) :
    s.present ⟨k, .thread t⟩ = true := by
  simp [State.present, State.lanePresent, ho.running, State.thread?, ho.team, hh, he]

theorem quietly_ok {m : M Unit} (hm : m s = .ok ((), u)) : s.quietly m = u := by
  simp only [State.quietly, runM, hm]

/-- A result alone that is there and lands. -/
theorem arriveGo_single {vs : List Word64} (hv : q.value = .ready vs) (hp : q.dest.any isOutPort = pushes)
    (hland : landResult l q vs s = .ok ((), u)) :
    arriveGo l pushes [q] s = .ok (if q.left = 0 then [] else [{ q with value := .ready [] }], u) := by
  simp only [arriveGo, hv, hp, bne_self_eq_false, Bool.false_eq_true, if_false, hland, M.bind_apply, M.pure_apply]

theorem arrive_single (hh : s.team? k = some T) (ht : T.thread? t = some h) (hq : h.pend = [q]) {vs : List Word64}
    (hv : q.value = .ready vs) (hp : q.dest.any isOutPort = pushes) (hland : landResult ⟨k, .thread t⟩ q vs s = .ok ((), u)) :
    arrive ⟨k, .thread t⟩ pushes s =
      .ok ((), u.modThread k t fun h => { h with pend := if q.left = 0 then [] else [{ q with value := .ready [] }] }) := by
  simp only [arrive, pendOf, M.bind_apply, getThread_apply hh ht, M.pure_apply, hq, arriveGo_single hv hp hland, setPend,
    modThread_apply]

/-- R67, R155: a result for a g register is written. -/
theorem landResult_g (hd : d.toNat < 220) (hdest : q.dest = [d]) :
    landResult ⟨k, .thread t⟩ q [v] s = .ok ((), s.modThread k t (·.put d (v.setWidth 32))) := by
  have hwr : wrList ⟨k, .thread t⟩ [d] [v] s = .ok ((), s.modThread k t (·.putAll [d] [v])) :=
    wrList_g (c := ⟨k, [t], false, 0, 0⟩) (by simpa using hd) [v] s
  have hcode : q.dest.map regCode = [.g d.toNat] := by rw [hdest, List.map_singleton, regCode_g hd]
  simp only [landResult, hcode]
  rw [hdest]
  exact hwr

theorem exec_loadResultReturn_single (ho : OnCore s k T) (hh : T.thread? t = some h) (he : h.ended = false) (hd : d.toNat < 220)
    (hq : h.pend = [⟨[d], .ready [v], n, m, e, via⟩]) :
    exec (.loadResultReturn k (.thread t)) s = .next (s.modThread k t fun h =>
      { h.put d (v.setWidth 32) with pend := if n = 0 then [] else [⟨[d], .ready [], n, m, e, via⟩] }) := by
  have hdest : [d].any isOutPort = false := by
    simp only [List.any_cons, List.any_nil, Bool.or_false, isOutPort, Bool.or_eq_false_iff, beq_eq_false_iff_ne]
    omega
  have harrive := arrive_single ho.team hh hq rfl hdest (landResult_g hd rfl)
  rw [State.modThread_modThread] at harrive
  show Host.Outcome.next (if s.present ⟨k, .thread t⟩ then s.quietly (arrive ⟨k, .thread t⟩ false) else s) = _
  rw [if_pos (ho.present hh he), quietly_ok harrive]

theorem regCode_outCode (p : Bool) : regCode (outCode p) = .outPort p := by cases p <;> rfl

/-- R180: an element whose turn has come is pushed. -/
theorem landResult_push {r : Ring} (hT : s.team? k = some T) (hdest : q.dest = [outCode p])
    (hline : ∀ j ∈ T.pushLine p, q.place ≤ j) (hr : T.ring? true p = some r) (hrc : s.rcStoring k (T.origin (.thread t)) = false)
    (hpush : ringPush k r (v.setWidth 32) q.via s = .ok ((), u)) :
    landResult ⟨k, .thread t⟩ q [v] s = .ok ((), u) := by
  have hfirst : ((T.pushLine p).any fun j => decide (j < q.place)) = false := by
    simp only [List.any_eq_false, decide_eq_true_eq, Nat.not_lt]
    exact hline
  have hcode : q.dest.map regCode = [.outPort p] := by rw [hdest, List.map_singleton, regCode_outCode]
  simp only [landResult, hcode, pushPort, M.bind_apply, getTeam_apply hT, hr, M.get_apply, hfirst, hrc, Bool.or_self,
    Bool.false_eq_true, if_false, hpush]

theorem exec_streamPush_single {r : Ring} (ho : OnCore s k T) (hh : T.thread? t = some h) (he : h.ended = false)
    (hq : h.pend = [⟨[outCode p], .ready [v], 0, m, e, via⟩]) (hline : ∀ j ∈ T.pushLine p, e ≤ j)
    (hr : T.ring? true p = some r) (hrc : s.rcStoring k (T.origin (.thread t)) = false)
    (hpush : ringPush k r (v.setWidth 32) via s = .ok ((), u)) :
    exec (.streamPush k (.thread t)) s = .next (u.modThread k t fun h => { h with pend := [] }) := by
  have hdest : [outCode p].any isOutPort = true := by cases p <;> rfl
  have harrive := arrive_single ho.team hh hq rfl hdest (landResult_push ho.team rfl hline hr hrc hpush)
  show Host.Outcome.next (if s.present ⟨k, .thread t⟩ || s.leavesPushes ⟨k, .thread t⟩ then
    s.quietly (arrive ⟨k, .thread t⟩ true) else s) = _
  rw [ho.present hh he, Bool.true_or, if_pos rfl, quietly_ok harrive]
  rfl

/-- The thread has taken an element of an in port. -/
def Thread.take (h : Thread) (p : Bool) (w : Word) : Thread := { h with latch := h.latch ++ [(p, w)] }

/-- The thread leaves the line of an in port. -/
def Thread.leaves (h : Thread) (p : Bool) : Thread :=
  { h with wait := some .poll, places := h.places.filter fun e => e.1 != portIx false p }

theorem exec_streamPop_first {r : Ring} {w : Word} (ho : OnCore s k T) (hh : T.thread? t = some h) (he : h.ended = false)
    (hw : h.wait = some (.port p)) (hn : h.ticket? p = some n) (hline : ∀ j ∈ T.line p, n ≤ j)
    (hr : T.ring? false p = some r) (hrc : s.rcPending k (T.origin (.thread t)) = false) (hpop : ringPop k r s = .ok (w, s1))
    (hs2 : s2 = s1.modThread k t (·.take p w)) (h1' : s2.thread? k t = some h1) :
    exec (.streamPop k (.thread t) p) s =
      .next (if s2.portNeed k h1 p ≤ h1.latched p then s2.modThread k t (·.leaves p) else s2) := by
  have hfirst : ((T.line p).any fun j => decide (j < n)) = false := by
    simp only [List.any_eq_false, decide_eq_true_eq, Nat.not_lt]
    exact hline
  have hwaits : (s.thread? k t).any (fun h => h.wait == some (.port p)) = true := by
    simp [State.thread?, ho.team, hh, hw]
  have hget : getThread k t s2 = .ok (h1, s2) := by simp only [getThread, h1']
  have hm : (do
      let v ← ringPop k r
      modThread k t (·.take p v)
      let h ← getThread k t
      if (← get).portNeed k h p ≤ h.latched p then modThread k t (·.leaves p) else pure () : M Unit) s =
      .ok ((), if s2.portNeed k h1 p ≤ h1.latched p then s2.modThread k t (·.leaves p) else s2) := by
    simp only [M.bind_apply, hpop, modThread_apply, ← hs2, hget, M.get_apply]
    split <;> rfl
  simp only [exec_streamPop, execStreamPop, ho.team, hr, hh, Option.bind_some, hn, ho.present hh he, hfirst, hrc, hwaits,
    Bool.not_false, Bool.and_self, if_true]
  exact congrArg _ (quietly_ok hm)

end Sys2Proof.Machine

open Sys2Proof Sys2Proof.Machine

/-- Settles O38: a result, an element to push and an element to take, each alone. -/
theorem arrivals : Obligations.Arrivals := by
  intro s k t T h v n e m u ho hh he
  refine ⟨fun d hd hq => exec_loadResultReturn_single ho hh he hd hq, ?_, ?_⟩
  · intro p r s1 hq hline hr hrc hpush _
    exact exec_streamPush_single ho hh he hq hline hr hrc hpush
  · intro p r w s1 h1 hw hn hline hr hrc hpop s2 h1'
    exact exec_streamPop_first ho hh he hw hn hline hr hrc hpop rfl h1'
end

section
/-!
PROOFS. Accesses of the host (O45).
-/

namespace Sys2Proof.Machine

variable {s : State} {D : HostDescriptor} {off n : Nat} {bs : List Byte}

/-- R329: a descriptor that keeps the table and whose words can be read is performed. -/
theorem exec_hostCopyDescriptor_performed (hr : s.mgmt.ready = true) (hn : fieldN D.raw 16 4 ≠ 0)
    (hspan : s.spanOk (fieldN D.raw 8 8) (fieldN D.raw 16 4) = true) (hdir : fieldN D.raw 20 1 ≤ 1)
    (hz : fieldN D.raw 21 11 = 0) (hbad : fieldN D.raw 20 1 = 1 → s.badMem = []) :
    exec (.hostCopyDescriptor D) s = .next (if fieldN D.raw 20 1 = 0 then
      ({ s with hostCompletions := s.hostCompletions ++ [true] } : State).writePhys (fieldN D.raw 8 8)
        ((List.range (fieldN D.raw 16 4)).map fun i => D.hostBytes.getD i 0) 0
      else { s with hostCompletions := s.hostCompletions ++ [true],
                    hostReads := s.hostReads ++ readBytes s.mem (fieldN D.raw 8 8) (fieldN D.raw 16 4) }) := by
  have hwords : (fieldN D.raw 20 1 == 1 && s.badMem.any fun a =>
      decide (a < fieldN D.raw 8 8 + fieldN D.raw 16 4) && decide (fieldN D.raw 8 8 < a + 4)) = false := by
    by_cases h1 : fieldN D.raw 20 1 = 1
    · simp [hbad h1]
    · simp [h1]
  simp only [exec_hostCopyDescriptor, execHostCopyDescriptor, hr, hn, Nat.not_lt.mpr hdir, hz, hspan, hwords, Bool.not_true,
    Bool.false_eq_true, if_false, decide_false, bne_self_eq_false, Bool.or_self]

/-- R329: one that breaks the table moves nothing. -/
theorem exec_hostCopyDescriptor_refused (hr : s.mgmt.ready = true) (hbad : fieldN D.raw 16 4 = 0 ∨ 1 < fieldN D.raw 20 1 ∨
      fieldN D.raw 21 11 ≠ 0 ∨ s.spanOk (fieldN D.raw 8 8) (fieldN D.raw 16 4) = false) :
    exec (.hostCopyDescriptor D) s = .next { s with hostCompletions := s.hostCompletions ++ [false] } := by
  simp only [exec_hostCopyDescriptor, execHostCopyDescriptor, hr, Bool.not_true, Bool.false_eq_true, if_false]
  rw [if_pos]
  obtain h | h | h | h := hbad <;> simp [h]

theorem exec_aperture_write (hr : s.mgmt.ready = true)
    (hspan : s.spanOk (s.mgmt.aperture.toNat + off % 2 ^ 36) bs.length = true) :
    exec (.hostApertureAccess (.write off bs)) s = .next (s.writePhys (s.mgmt.aperture.toNat + off % 2 ^ 36) bs 0) := by
  simp only [exec_hostApertureAccess, execHostApertureAccess, hr, hspan, Bool.and_self, if_true]

theorem exec_aperture_read (hr : s.mgmt.ready = true)
    (hok : ∀ i < n, s.physOk (s.mgmt.aperture.toNat + off % 2 ^ 36 + i) = true) :
    exec (.hostApertureAccess (.read off n)) s =
      .next { s with hostReads := s.hostReads ++
                       (List.range n).map fun i => readByte s.mem (s.mgmt.aperture.toNat + off % 2 ^ 36 + i) } := by
  have hbytes : (List.range n).map (fun i => if (s.mgmt.ready && s.physOk (s.mgmt.aperture.toNat + off % 2 ^ 36 + i)) = true then
      readByte s.mem (s.mgmt.aperture.toNat + off % 2 ^ 36 + i) else 0) =
      (List.range n).map fun i => readByte s.mem (s.mgmt.aperture.toNat + off % 2 ^ 36 + i) :=
    List.map_congr_left fun i hi => by rw [hr, hok i (List.mem_range.mp hi), Bool.and_self, if_pos rfl]
  simp only [exec_hostApertureAccess, execHostApertureAccess, hbytes]

/-- R345: before ready the host reads zero and writes nothing. -/
theorem exec_aperture_notReady (hr : s.mgmt.ready = false) :
    exec (.hostApertureAccess (.read off n)) s =
      .next { s with hostReads := s.hostReads ++ (List.range n).map fun _ => 0 } ∧
    exec (.hostApertureAccess (.write off bs)) s = .next s := by
  refine ⟨?_, ?_⟩
  · simp only [exec_hostApertureAccess, execHostApertureAccess, hr, Bool.false_and, Bool.false_eq_true, if_false]
  · simp only [exec_hostApertureAccess, execHostApertureAccess, hr, Bool.false_and, Bool.false_eq_true, if_false]
    exact congrArg _ (List.foldl_fixed _)

end Sys2Proof.Machine

open Sys2Proof Sys2Proof.Machine

/-- Settles O45: a descriptor and an access of each kind. -/
theorem hostAccesses : Obligations.HostAccesses := by
  intro s D off n bs b pa m
  refine ⟨?_, ?_, ?_, fun hr hspan => exec_aperture_write hr hspan, fun hr hok => exec_aperture_read hr hok, ?_, rfl⟩
  · intro hr hn hspan hdir hz
    rw [exec_hostCopyDescriptor_performed hr hn hspan (by omega) hz (by omega), if_pos hdir]
  · intro hr hn hspan hdir hz hbad
    rw [exec_hostCopyDescriptor_performed hr hn hspan (by omega) hz fun _ => hbad, if_neg (by omega)]
  · exact fun hr hbad => exec_hostCopyDescriptor_refused hr hbad
  · intro hr
    refine ⟨(exec_aperture_notReady (bs := bs) hr).1, (exec_aperture_notReady (n := n) hr).2, ?_⟩
    simp only [exec_hostCopyDescriptor, execHostCopyDescriptor, hr, Bool.not_false, if_true]
end

section
/-!
PROOFS. Attestation, the management registers, the translation store and reset (O47).
-/

namespace Sys2Proof.Machine

variable {s : State} {v : BitVec 32} {u z : BitVec 64} {x : BitVec 12} {off : Nat}

/-! ### Attestation -/

/-- The quote of an attestation that starts now (R346). -/
def State.quoteNow (s : State) : Quote := ⟨s.attest.nonce, s.deviceHash, s.firmware.digest, s.mgmt.devid, s.attest.leaf⟩

theorem State.attestNow_starts (hr : s.mgmt.ready = true) (hb : s.attest.busy = false) (hl : s.attest.leaf < 2 ^ 20) :
    s.attestNow = { s with attest :=
      { s.attest with busy := true, done := false, leaf := s.attest.leaf + 1, quote := s.quoteNow } } := by
  have hleaf : decide (leafCount ≤ s.attest.leaf) = false := decide_eq_false (Nat.not_le.mpr hl)
  simp only [State.attestNow, hr, hb, hleaf, Bool.not_true, Bool.or_self, Bool.false_eq_true, if_false, State.quoteNow]

theorem State.attestNow_refused (h : s.mgmt.ready = false ∨ s.attest.busy = true ∨ 2 ^ 20 ≤ s.attest.leaf) :
    s.attestNow = s := by
  unfold State.attestNow
  dsimp only
  rw [if_pos]
  obtain h | h | h := h
  · simp [h]
  · simp [h]
  · rw [decide_eq_true (show leafCount ≤ s.attest.leaf from h), Bool.or_true]

theorem State.attestStatus_used (hb : s.attest.busy = false) (hl : 2 ^ 20 ≤ s.attest.leaf) :
    (s.mgmtRead 0x128).extractLsb' 0 2 = 3 := by
  have hread : s.mgmtRead 0x128 = BitVec.ofNat 64 (3 + s.attest.leaf % leafCount * 2 ^ 12) := by
    show BitVec.ofNat 64 s.attest.status = _
    simp only [Attest.status, hb, Bool.false_eq_true, if_false, leafCount, hl, if_true]
  rw [hread]
  apply BitVec.eq_of_toNat_eq
  have hthree : (3 : BitVec 2).toNat = 3 := rfl
  rw [BitVec.extractLsb'_toNat, BitVec.toNat_ofNat, hthree, Nat.shiftRight_zero]
  omega

theorem exec_attestationComplete_signs (hb : s.attest.busy = true) :
    ∃ sig, exec .attestationComplete s =
      .next { s with attest := { s.attest with busy := false, done := true, sig := sig } } ∧
        ∀ i < 4096, SMap.getD sig i 0 =
        Config.signatureByte s.attest.quote.nonce s.attest.quote.hash s.attest.quote.digest s.attest.quote.devid
          s.attest.quote.leaf i := by
  simp only [exec_attestationComplete, execAttestationComplete, hb, if_true]
  refine ⟨_, rfl, fun i hi => ?_⟩
  rw [SMap.getD_foldl_put_range _ 0 rfl 4096 i, if_pos hi]

/-! ### Write-only registers and contexts -/

theorem exec_spretire_asks {y b : Nat} (hy : y = (v.extractLsb' 0 10).toNat) (hb : b = (v.extractLsb' 10 5).toNat)
    (hlt : y < 768) (hret : SMap.find? (b / 4) (s.core y).retired = none)
    (hfree : ∀ a ∈ (s.core y).toRetire ++ (s.core y).asked, a / 4 ≠ b / 4) :
    exec (.spretire v) s = .next (s.setCore y ((s.core y).askRetire b)) := by
  have hcore : ((v.setWidth 64).extractLsb' 0 10).toNat = y := by
    rw [hy]
    simp only [BitVec.extractLsb'_toNat, BitVec.toNat_setWidth]
    omega
  have hbank : ((v.setWidth 64).extractLsb' 10 5).toNat = b := by
    rw [hb]
    simp only [BitVec.extractLsb'_toNat, BitVec.toNat_setWidth]
    omega
  have hno : ((s.core y).toRetire ++ (s.core y).asked).any (fun a => a / 4 == b / 4) = false := by
    rw [List.any_eq_false]
    intro a ha
    simpa using hfree a ha
  rw [exec_spretire]
  simp only [execSpretire, State.retireBank, hcore, hbank, hret, hno, Option.isSome_none, Bool.false_eq_true, or_false, if_false,
    Nat.not_le.mpr hlt]

theorem exec_spretire_degraded {y b : Nat} (hy : y = (v.extractLsb' 0 10).toNat) (hb : b = (v.extractLsb' 10 5).toNat)
    (hret : (SMap.find? (b / 4) (s.core y).retired).isSome = true) : exec (.spretire v) s = .next s := by
  have hcore : ((v.setWidth 64).extractLsb' 0 10).toNat = y := by
    rw [hy]
    simp only [BitVec.extractLsb'_toNat, BitVec.toNat_setWidth]
    omega
  have hbank : ((v.setWidth 64).extractLsb' 10 5).toNat = b := by
    rw [hb]
    simp only [BitVec.extractLsb'_toNat, BitVec.toNat_setWidth]
    omega
  rw [exec_spretire]
  simp only [execSpretire, State.retireBank, hcore, hbank, hret, true_or, or_true, if_true]

theorem exec_lindenClear_eq (v : BitVec 32) (s : State) : exec (.lindenClear v) s =
    .next (if v.getLsbD 0 then { s with mgmt := { s.mgmt with linden := [], cerepeat := 0 } } else s) := by
  have hbit : (v.setWidth 64).getLsbD 0 = v.getLsbD 0 := by simp
  rw [exec_lindenClear]
  simp only [execLindenClear, State.clearLinden, hbit]
  rfl

theorem State.ctxWrite_made (h0 : u.getLsbD 0 = true) (k : Nat) :
    ((s.ctxWrite k u).ctx k).live = true ∧
      ((s.ctxWrite k u).ctx k).privileged = (if (s.ctx k).live then (s.ctx k).privileged else u.getLsbD 1) ∧
      ((s.ctxWrite k u).ctx k).vector = u.extractLsb' 2 11 ∧ (s.ctxWrite k u).mgmt.contextMade = true := by
  have hself (y : Context) (fs : List Nat) (m : Mgmt) :
      ({ s.setCtx k y with fencedCtxs := fs, mgmt := m } : State).ctx k = y := s.ctx_setCtx_self k y
  simp only [State.ctxWrite, h0, if_true, hself]
  cases hl : (s.ctx k).live <;> simp [hl]

theorem State.ctxWrite_configured (h0 : u.getLsbD 0 = false) {k : Nat} (hl : (s.ctx k).live = false) :
    ((s.ctxWrite k u).ctx k).live = false ∧ ((s.ctxWrite k u).ctx k).privileged = u.getLsbD 1 ∧
      ((s.ctxWrite k u).ctx k).vector = u.extractLsb' 2 11 := by
  simp only [State.ctxWrite, h0, Bool.false_eq_true, if_false, hl, State.ctx_setCtx_self, and_self]

/-! ### The translation store -/

/-- What the discard of one output does to the outputs. -/
def dropOne (needed : Nat → Bool) (m : SMap Xlat) (e : Nat × Xlat) : SMap Xlat :=
  if needed e.1 then SMap.modify e.1 (fun x => { x with stored := false }) m else SMap.erase e.1 m

theorem State.foldl_discardXlat (l : List (Nat × Xlat)) (s : State) :
    l.foldl (fun s e => s.discardXlat e.1) s = { s with xlats := l.foldl (dropOne s.xlatNeeded) s.xlats } := by
  induction l generalizing s with
  | nil => rfl
  | cons e l ih =>
    have hone : s.discardXlat e.1 = { s with xlats := dropOne s.xlatNeeded s.xlats e } := by
      simp only [State.discardXlat, dropOne]
      split <;> rfl
    rw [List.foldl_cons, ih, hone]
    rfl

/-- Outputs of other keys leave the first one. -/
theorem foldl_dropOne_cons {needed : Nat → Bool} {j : Nat} {y : Xlat} (l : List (Nat × Xlat)) (hl : ∀ e ∈ l, e.1 ≠ j)
    (m : SMap Xlat) : l.foldl (dropOne needed) ((j, y) :: m) = (j, y) :: l.foldl (dropOne needed) m := by
  induction l generalizing m with
  | nil => rfl
  | cons e l ih =>
    have hne : ¬j = e.1 := fun h => hl e (List.mem_cons_self ..) h.symm
    have hone : dropOne needed ((j, y) :: m) e = (j, y) :: dropOne needed m e := by
      simp only [dropOne, SMap.modify, SMap.erase, if_neg hne]
      split <;> rfl
    rw [List.foldl_cons, hone, ih (fun e he => hl e (List.mem_cons_of_mem _ he)), List.foldl_cons]

theorem SMap.ne_of_above {α : Type} {j : Nat} {m : SMap α} (hm : SMap.above j m = true) : ∀ e ∈ m, e.1 ≠ j := by
  induction m with
  | nil => simp
  | cons e m ih =>
    simp only [SMap.above, Bool.and_eq_true, decide_eq_true_eq] at hm
    intro e' he'
    obtain rfl | he' := List.mem_cons.mp he'
    · exact Nat.ne_of_gt hm.1
    · exact ih hm.2 e' he'

/-- R336, R349: the outputs that stay when all that are not in use are discarded. -/
theorem foldl_dropOne (used needed : Nat → Bool) {m : SMap Xlat} (hm : SMap.sorted m = true) :
    (m.filter fun e => !used e.1).foldl (dropOne needed) m = m.filterMap fun e =>
      if used e.1 then some e else if needed e.1 then some (e.1, { e.2 with stored := false }) else none := by
  induction m with
  | nil => rfl
  | cons e m ih =>
    obtain ⟨j, y⟩ := e
    simp only [SMap.sorted, Bool.and_eq_true] at hm
    have hrest : ∀ e ∈ m.filter (fun e => !used e.1), e.1 ≠ j := fun e he =>
      SMap.ne_of_above hm.1 e (List.mem_of_mem_filter he)
    cases hu : used j with
    | true =>
      simp only [List.filter_cons, hu, Bool.not_true, Bool.false_eq_true, if_false, List.filterMap_cons, if_true]
      rw [foldl_dropOne_cons _ hrest, ih hm.2]
    | false =>
      cases hn : needed j with
      | true =>
        simp only [List.filter_cons, hu, Bool.not_false, if_true, List.filterMap_cons, Bool.false_eq_true, if_false, hn,
          List.foldl_cons, dropOne, SMap.modify]
        rw [← ih hm.2]
        exact foldl_dropOne_cons _ hrest _
      | false =>
        simp only [List.filter_cons, hu, Bool.not_false, if_true, List.filterMap_cons, Bool.false_eq_true, if_false, hn,
          List.foldl_cons, dropOne, SMap.erase]
        exact ih hm.2

/-- The outputs that stay when all that are not in use are discarded. -/
def State.keptXlats (s : State) : SMap Xlat := s.xlats.filterMap fun e =>
  if s.xlatInUse e.1 then some e else if s.xlatNeeded e.1 then some (e.1, { e.2 with stored := false }) else none

theorem State.dropXlats_eq (s : State) (hm : SMap.sorted s.xlats = true) : s.dropXlats = { s with xlats := s.keptXlats } := by
  simp only [State.dropXlats, State.foldl_discardXlat]
  rw [foldl_dropOne _ _ hm]
  rfl

theorem State.setStore_new {b : BitVec 64} (hb : s.mgmt.xstbase ≠ b &&& 0x00007FFFFFFF0000) (hm : SMap.sorted s.xlats = true) :
    s.setStore b z = { s with
      mgmt := { s.mgmt with xstbase := b &&& 0x00007FFFFFFF0000, xstsize := z.setWidth 16 }, xlats := s.keptXlats } := by
  rw [State.setStore, if_neg fun h => hb h.1]
  exact State.dropXlats_eq _ hm

/-! ### Registers by their offset -/

theorem exec_mgmtWrite_ofNat {k : Nat} (hk : k < 2 ^ 16) :
    exec (.managementRegisterWrite (BitVec.ofNat 16 k) u) s = .next (s.mgmtWrite k u) := by
  rw [exec_managementRegisterWrite, execManagementRegisterWrite, BitVec.toNat_ofNat, Nat.mod_eq_of_lt hk]

/-- The offsets of the blocks of registers, past those that have one offset each. -/
theorem State.mgmtWrite_block (hlow : 0x100 ≤ off) (hne : off ≠ 0x120) (hoff : off % 8 = 0) : s.mgmtWrite off u =
    if off < 0x120 then
      { s with attest := { s.attest with nonce := setNonce s.attest.nonce ((off - 0x100) / 8) u } }
    else if 0x1200 ≤ off ∧ off < 0x1600 then
      s.modSq ((off - 0x1200) / 16) fun q => if off % 16 = 0 then { q with base := ringBase u } else { q with cfg := ringCfg u }
    else if 0x1600 ≤ off ∧ off < 0x1700 then
      s.modCq ((off - 0x1600) / 16) fun q => if off % 16 = 0 then { q with base := ringBase u } else { q with cfg := ringCfg u }
    else if 0x2000 ≤ off ∧ off < 0xA000 then s.ctxWrite ((off - 0x2000) / 8) u
    else s := by
  unfold State.mgmtWrite
  rw [if_neg (not_not_intro hoff)]
  split
  case h_16 => simp only [hlow, true_and]
  all_goals omega

theorem State.mgmtWrite_unaligned (hoff : off % 8 ≠ 0) : s.mgmtWrite off u = s := by
  unfold State.mgmtWrite
  rw [if_pos hoff]

theorem State.mgmtWrite_sig (hlow : 0x200 ≤ off) (hhigh : off < 0x1200) : s.mgmtWrite off u = s := by
  by_cases hoff : off % 8 = 0
  · rw [State.mgmtWrite_block (by omega) (by omega) hoff, if_neg (by omega), if_neg (by omega), if_neg (by omega), if_neg (by omega)]
  · exact State.mgmtWrite_unaligned hoff

theorem State.mgmtWrite_nonce {k : Nat} (hk : k < 4) : s.mgmtWrite (0x100 + 8 * k) u =
    { s with attest := { s.attest with nonce := setNonce s.attest.nonce k u } } := by
  rw [State.mgmtWrite_block (by omega) (by omega) (by omega), if_pos (by omega), show (0x100 + 8 * k - 0x100) / 8 = k by omega]

theorem State.mgmtWrite_sqBase {q : Nat} (hq : q < 64) :
    s.mgmtWrite (0x1200 + 16 * q) u = s.modSq q fun Q => { Q with base := ringBase u } := by
  rw [State.mgmtWrite_block (by omega) (by omega) (by omega), if_neg (by omega), if_pos (by omega),
    show (0x1200 + 16 * q - 0x1200) / 16 = q by omega]
  simp only [show (0x1200 + 16 * q) % 16 = 0 by omega, if_true]

theorem State.mgmtWrite_sqCfg {q : Nat} (hq : q < 64) :
    s.mgmtWrite (0x1208 + 16 * q) u = s.modSq q fun Q => { Q with cfg := ringCfg u } := by
  rw [State.mgmtWrite_block (by omega) (by omega) (by omega), if_neg (by omega), if_pos (by omega),
    show (0x1208 + 16 * q - 0x1200) / 16 = q by omega]
  simp only [show ¬(0x1208 + 16 * q) % 16 = 0 by omega, if_false]

theorem State.mgmtWrite_cqBase {q : Nat} (hq : q < 16) :
    s.mgmtWrite (0x1600 + 16 * q) u = s.modCq q fun Q => { Q with base := ringBase u } := by
  rw [State.mgmtWrite_block (by omega) (by omega) (by omega), if_neg (by omega), if_neg (by omega), if_pos (by omega),
    show (0x1600 + 16 * q - 0x1600) / 16 = q by omega]
  simp only [show (0x1600 + 16 * q) % 16 = 0 by omega, if_true]

theorem State.mgmtWrite_cqCfg {q : Nat} (hq : q < 16) :
    s.mgmtWrite (0x1608 + 16 * q) u = s.modCq q fun Q => { Q with cfg := ringCfg u } := by
  rw [State.mgmtWrite_block (by omega) (by omega) (by omega), if_neg (by omega), if_neg (by omega), if_pos (by omega),
    show (0x1608 + 16 * q - 0x1600) / 16 = q by omega]
  simp only [show ¬(0x1608 + 16 * q) % 16 = 0 by omega, if_false]

/-- One word of the nonce is the one written. -/
theorem setNonce_self (n : BitVec 256) {k : Nat} (hk : k < 4) : (setNonce n k u).extractLsb' (64 * k) 64 = u := by
  apply BitVec.eq_of_getLsbD_eq
  intro i hi
  have hones : (0xFFFFFFFFFFFFFFFF : BitVec 256).getLsbD i = true := by
    have h : (0xFFFFFFFFFFFFFFFF : BitVec 256) = (BitVec.allOnes 64).setWidth 256 := by decide
    rw [h, BitVec.getLsbD_setWidth, BitVec.getLsbD_allOnes]
    simp only [show i < 256 by omega, hi, decide_true, Bool.and_self]
  simp only [setNonce, BitVec.getLsbD_extractLsb', BitVec.getLsbD_or, BitVec.getLsbD_and, BitVec.getLsbD_not,
    BitVec.getLsbD_shiftLeft, BitVec.getLsbD_setWidth, hi, show 64 * k + i < 256 by omega, show ¬64 * k + i < 64 * k by omega,
    Nat.add_sub_cancel_left, show i < 256 by omega, hones, decide_true, decide_false, Bool.not_false, Bool.true_and, Bool.not_true,
    Bool.and_false, Bool.false_or]

/-- The other words of the nonce stay. -/
theorem setNonce_other (n : BitVec 256) {j k : Nat} (hj : j < 4) (hne : j ≠ k) :
    (setNonce n k u).extractLsb' (64 * j) 64 = n.extractLsb' (64 * j) 64 := by
  apply BitVec.eq_of_getLsbD_eq
  intro i hi
  have hones (d : Nat) (hd : 64 ≤ d) : (0xFFFFFFFFFFFFFFFF : BitVec 256).getLsbD d = false := by
    have h : (0xFFFFFFFFFFFFFFFF : BitVec 256) = (BitVec.allOnes 64).setWidth 256 := by decide
    rw [h, BitVec.getLsbD_setWidth, BitVec.getLsbD_allOnes]
    simp only [show ¬d < 64 by omega, decide_false, Bool.and_false]
  have hbits (d : Nat) (hd : 64 ≤ d) : u.getLsbD d = false := BitVec.getLsbD_of_ge u d hd
  by_cases hlt : 64 * j + i < 64 * k
  · simp only [setNonce, BitVec.getLsbD_extractLsb', BitVec.getLsbD_or, BitVec.getLsbD_and, BitVec.getLsbD_not,
      BitVec.getLsbD_shiftLeft, hi, show 64 * j + i < 256 by omega, hlt, decide_true, Bool.not_true, Bool.false_and, Bool.and_false,
      Bool.not_false, Bool.and_true, Bool.true_and, Bool.or_false]
  · simp only [setNonce, BitVec.getLsbD_extractLsb', BitVec.getLsbD_or, BitVec.getLsbD_and, BitVec.getLsbD_not,
      BitVec.getLsbD_shiftLeft, BitVec.getLsbD_setWidth, hi, show 64 * j + i < 256 by omega, hlt,
      hones (64 * j + i - 64 * k) (by omega), hbits (64 * j + i - 64 * k) (by omega), decide_true, decide_false, Bool.not_false,
      Bool.and_false, Bool.and_true, Bool.true_and, Bool.or_false]

theorem State.mgmtWrite_porch (h : ∀ e ∈ s.teams, e.2.status ≠ .resident ∧ e.2.status ≠ .resting) :
    s.mgmtWrite 0x048 u = { s with mgmt := { s.mgmt with porch := u.setWidth 4 } } := by
  have hany : (s.teams.any fun (e : Nat × Team) => e.2.status == .resident || e.2.status == .resting) = false := by
    rw [List.any_eq_false]
    intro e he
    simpa using h e he
  show (if (s.teams.any fun (e : Nat × Team) => e.2.status == .resident || e.2.status == .resting) = true then s else _) = _
  rw [hany]
  rfl

theorem State.mgmtWrite_porch_resident {e : Nat × Team} (he : e ∈ s.teams) (hr : e.2.status = .resident) :
    s.mgmtWrite 0x048 u = s := by
  have hany : (s.teams.any fun (e : Nat × Team) => e.2.status == .resident || e.2.status == .resting) = true :=
    List.any_eq_true.mpr ⟨e, he, by simp [hr]⟩
  show (if (s.teams.any fun (e : Nat × Team) => e.2.status == .resident || e.2.status == .resting) = true then s else _) = _
  rw [if_pos hany]

/-! ### Reset -/

theorem bootFault_none {f : Firmware} (h : f.fault = none) : bootFault f none = none := by
  simp only [bootFault, h]

theorem bootFault_some {f : Firmware} {n : Option (BitVec 3)}
    (h : n ≠ none ∨ f.signed = false ∨ f.key ≠ f.fusedKey ∨ f.version < f.fusedVersion) : (bootFault f n).isSome = true := by
  cases hn : n with
  | some b => cases hf : f.fault <;> simp [bootFault, hf]
  | none =>
    have hf : f.fault.isSome = true := by
      simp only [hn, ne_eq, not_true_eq_false, false_or] at h
      obtain h | h | h := h
      · simp [Firmware.fault, h]
      · simp [Firmware.fault, h]
      · simp only [Firmware.fault]
        split <;> simp
    obtain ⟨a, ha⟩ := Option.isSome_iff_exists.mp hf
    simp [bootFault, ha]

/-- Bytes below a bound stay where only those are kept. -/
theorem readByte_filter {m : List Host.Cell} {keep : Nat → Bool} {a : Nat} (ha : keep a = true) :
    readByte (m.filter fun c => keep c.1) a = readByte m a := by
  induction m with
  | nil => rfl
  | cons c m ih =>
    obtain ⟨j, b⟩ := c
    by_cases hj : a = j
    · subst hj
      rw [List.filter_cons, if_pos ha]
      simp only [readByte, SMap.getD, SMap.find?, if_true]
    · have hskip (l : List Host.Cell) : readByte ((j, b) :: l) a = readByte l a := by
        simp only [readByte, SMap.getD, SMap.find?, if_neg (Ne.symm hj)]
      rw [hskip, List.filter_cons]
      split
      · rw [hskip, ih]
      · exact ih

end Sys2Proof.Machine
end

open Sys2Proof Sys2Proof.Machine

/-- Settles O47: each write changes the registers that its offset names, by the lemmas above; a reset is read off
`execResetBoot`. -/
theorem management : Obligations.Management := by
  unfold Obligations.Management
  intro s v u z x
  dsimp only
  have hsimple (off : BitVec 16) (s' : State) (h : s.mgmtWrite off.toNat u = s') :
      exec (.managementRegisterWrite off u) s = .next s' := by
    rw [exec_managementRegisterWrite, execManagementRegisterWrite, h]
  refine ⟨⟨fun hr hb hl => ?_, fun h => ?_⟩, fun hu => ⟨fun hr hb hl => ?_, fun h => ?_⟩, State.attestStatus_used,
    exec_attestationComplete_signs, fun h => ?_, fun h => ?_, ⟨fun hlt hret hfree => exec_spretire_asks rfl rfl hlt hret hfree,
    fun hret => exec_spretire_degraded rfl rfl hret⟩, fun h => ?_, fun h => ?_, fun h hl => ?_, fun h hl => ?_, fun hb hm => ?_,
    rfl, rfl, rfl, rfl, rfl, rfl, rfl, fun h => ?_, fun h => ?_, fun h => ?_, fun e h => ?_, fun k hk => ?_, fun q hq => ⟨?_, ?_⟩,
    fun q hq => ⟨?_, ?_⟩, ?_, fun off hlow hhigh => ?_, ?_, fun h => ?_, fun n h => ?_⟩
  · rw [exec_attestation, execAttestation, State.attestNow_starts hr hb hl]
    rfl
  · rw [exec_attestation, execAttestation, State.attestNow_refused h]
  · refine hsimple _ _ ?_
    show (if u.getLsbD 0 = true then s.attestNow else s) = _
    rw [if_pos hu, State.attestNow_starts hr hb hl]
    rfl
  · refine hsimple _ _ ?_
    show (if u.getLsbD 0 = true then s.attestNow else s) = _
    rw [if_pos hu, State.attestNow_refused h]
  · rw [exec_lindenClear_eq, if_pos h]
  · rw [exec_lindenClear_eq, if_neg (Bool.eq_false_iff.mp h)]
  · rw [exec_route, execRoute, State.setRoute, if_neg (Nat.not_lt.mpr h)]
    rfl
  · exact ⟨_, rfl, State.ctxWrite_made h x.toNat⟩
  · rw [exec_ctxctl, execCtxctl, State.ctxWrite, if_neg (Bool.eq_false_iff.mp h), if_pos hl]
  · exact ⟨_, rfl, State.ctxWrite_configured h hl⟩
  · rw [exec_translationStoreConfig, execTranslationStoreConfig, State.setStore_new hb hm]
    rfl
  · refine hsimple _ _ ?_
    show (if s.mgmt.contextMade = true then s else _) = s
    rw [if_pos h]
  · refine hsimple _ _ ?_
    show (if s.mgmt.contextMade = true then s else _) = _
    rw [if_neg (Bool.eq_false_iff.mp h)]
    rfl
  · exact hsimple _ _ (State.mgmtWrite_porch h)
  · exact fun hr => hsimple _ _ (State.mgmtWrite_porch_resident h hr)
  · refine ⟨setNonce s.attest.nonce k u, ?_, setNonce_self _ hk, fun j hj hne => setNonce_other _ hj hne⟩
    rw [exec_mgmtWrite_ofNat (by omega), State.mgmtWrite_nonce hk]
  · rw [exec_mgmtWrite_ofNat (by omega), State.mgmtWrite_sqBase hq]
    rfl
  · rw [exec_mgmtWrite_ofNat (by omega), State.mgmtWrite_sqCfg hq]
    rfl
  · rw [exec_mgmtWrite_ofNat (by omega), State.mgmtWrite_cqBase hq]
    rfl
  · rw [exec_mgmtWrite_ofNat (by omega), State.mgmtWrite_cqCfg hq]
    rfl
  · simp only [List.forall_mem_cons, List.not_mem_nil, false_implies, implies_true, and_true]
    exact ⟨rfl, rfl, rfl, rfl, rfl, rfl, rfl, rfl, rfl, rfl, rfl, rfl, rfl, rfl⟩
  · exact hsimple _ _ (State.mgmtWrite_sig hlow hhigh)
  · simp only [List.forall_mem_cons, List.not_mem_nil, false_implies, implies_true, and_true]
    exact ⟨rfl, rfl, rfl, rfl⟩
  · have hfault := bootFault_none h
    refine ⟨_, rfl, ?_, rfl, rfl, rfl, rfl, rfl, fun a ha => ?_⟩
    · show (bootFault s.firmware none).isNone = true
      rw [hfault]
      rfl
    · exact readByte_filter (keep := fun a => !(bootFault s.firmware none).all (fun k => decide (4 < k)) || decide (a < hbmEnd))
        (by rw [decide_eq_true ha, Bool.or_true])
  · have hfault := bootFault_some h
    refine ⟨_, rfl, ?_, hfault⟩
    show (bootFault s.firmware n).isNone = false
    rw [← Option.not_isSome, hfault]
    rfl

section
/-!
PROOFS. Row alerts, corrected errors, power and temperature (O46).
-/

namespace Sys2Proof.Machine

variable {s s' : State}

/-! ### What serving the requests that wait here can change -/

/-- A relation kept by all that the service of a request of another device is made of. -/
structure Serves (R : State → State → Prop) : Prop extends Change R where
  looked : ∀ s s', Looked s s' → R s s'
  writePhys : ∀ s pa bs p, R s (s.writePhys pa bs p)
  recordFault : ∀ s c va acc r, s.recordFault c va acc = some r → R s r.1
  answer : ∀ s dev a, R s (s.answer dev a)
  inbound : ∀ (s : State) (q : SMap Inbound), R s { s with inbound := q }

section
variable {R : State → State → Prop}

theorem keeps_checkWords (hR : Change R) (team : Option Nat) (ps : List Part) : Keeps R (checkWords team ps) := by
  induction ps with
  | nil => exact keeps_pure hR ()
  | cons p ps ih =>
    refine keeps_bind hR (keeps_get hR) fun s => ?_
    split
    · exact keeps_trap ..
    · exact ih

theorem Serves.writePartsNow (hR : Serves R) (ps : List Part) (bs : List Byte) (s : State) : R s (writePartsNow ps bs s) := by
  induction ps generalizing bs s with
  | nil => exact hR.refl s
  | cons p ps ih =>
    refine hR.trans ?_ (ih ..)
    split
    · exact hR.writePhys ..
    · exact hR.refl s

theorem Serves.serveRequest (hR : Serves R) (req : InboundRequest) : Keeps R (serveRequest req) := by
  have hC := hR.toChange
  have hdone (ps : List Part) : Keeps R (match req.op with
      | .load _ => do pure (partsBytes (← get) ps)
      | .store bs => do
        modify (Machine.writePartsNow ps bs)
        pure []
      | .atomic op x => do
        let o := AtomOp.ofCode op
        let old := partsBytes (← get) ps
        match o.new (BitVec.ofNat 64 (leNat old)) x with
        | some v => modify (Machine.writePartsNow ps (leBytes o.bytes v.toNat))
        | none => pure ()
        pure old) := by
    split
    · exact keeps_bind hC (keeps_get hC) fun s => keeps_pure hC _
    · exact keeps_bind hC (keeps_modify fun s => hR.writePartsNow ..) fun _ => keeps_pure hC _
    · refine keeps_bind hC (keeps_get hC) fun s => ?_
      dsimp only
      split
      · exact keeps_bind hC (keeps_modify fun s => hR.writePartsNow ..) fun _ => keeps_pure hC _
      · exact keeps_pure hC _
  have hread (ps : List Part) := keeps_ite (p := (opNeeds req.op).r = true)
    (keeps_bind hC (keeps_checkWords hC none ps) fun _ => hdone ps) (hdone ps)
  have hbank (ps : List Part) := keeps_bind hC (keeps_get hC) fun s =>
    keeps_ite (p := ps.any s.bankHeld = true) (keeps_bind hC (keeps_hold (α := PUnit)) fun _ => hread ps) (hread ps)
  have hfound := keeps_bind hC
    ((looked_checkGlobal req.ctx.toNat req.addr.toNat (opSize req.op) (opNeeds req.op) (opBit req.op)).mono hR.looked)
    fun ps => keeps_bind hC (keeps_check hC (!ps.any Part.isRemote) Cause.remoteAccess 0) fun _ => hbank ps
  unfold Machine.serveRequest
  dsimp only
  split
  · exact keeps_bind hC (keeps_check hC ..) fun _ => hfound
  · exact hfound

theorem Serves.refuseRecorded (hR : Serves R) {req : InboundRequest} {a : Word64}
    (h : s.refuseRecorded req a = .ok s') : R s s' := by
  unfold State.refuseRecorded at h
  split at h
  · next r hr =>
    cases h
    exact hR.trans (hR.recordFault _ _ _ _ _ hr) (hR.answer ..)
  · cases h

theorem Serves.tryInbound (hR : Serves R) {req : InboundRequest} {w : Option Word64}
    (h : s.tryInbound req w = .ok s') : R s s' := by
  have hkeeps := (hR.serveRequest req).ends s
  unfold State.tryInbound runM at h
  dsimp only at h
  split at h
  · cases h
    exact hR.answer ..
  · split at h
    · exact hR.refuseRecorded h
    · split at h
      · next hr =>
        rw [hr] at hkeeps
        cases h
        exact hR.trans hkeeps (hR.answer ..)
      · exact hR.refuseRecorded h
      · cases h
      · cases h
        exact hR.answer ..

theorem Change.foldl (hR : Change R) {α : Type} {f : State → α → State} (hf : ∀ s y, R s (f s y)) (l : List α) (s : State) :
    R s (l.foldl f s) := by
  induction l generalizing s with
  | nil => exact hR.refl s
  | cons y l ih => exact hR.trans (hf s y) (ih _)

theorem Serves.serveInbound (hR : Serves R) (s : State) : R s s.serveInbound := by
  refine hR.toChange.foldl (fun s e => ?_) _ s
  dsimp only
  split
  · exact hR.refl s
  · split
    · exact hR.trans (hR.inbound s _) (hR.answer ..)
    · split
      · next hr => exact hR.trans (hR.inbound s _) (hR.tryInbound hr)
      · exact hR.inbound s _

end

/-! ### Banks that are held -/

/-- The banks that are held are the same ones. -/
def HeldKept (s s' : State) : Prop := s'.heldBanks = s.heldBanks

theorem change_heldKept : Change HeldKept where
  refl _ := rfl
  trans h h' := h'.trans h

theorem heldKept_dropXlats (s : State) : HeldKept s s.dropXlats := by
  refine change_heldKept.foldl (fun s e => ?_) _ s
  unfold State.discardXlat
  split <;> rfl

theorem heldKept_setStore (s : State) (b z : Word64) : HeldKept s (s.setStore b z) := by
  unfold State.setStore
  dsimp only
  split
  · rfl
  · exact heldKept_dropXlats _

theorem heldKept_ctxWrite (s : State) (k : Nat) (v : Word64) : HeldKept s (s.ctxWrite k v) := by
  unfold State.ctxWrite
  dsimp only
  split
  · rfl
  · split <;> rfl

theorem heldKept_mgmtWrite (s : State) (off : Nat) (v : Word64) : HeldKept s (s.mgmtWrite off v) := by
  unfold State.mgmtWrite
  split
  · rfl
  · split
    case h_8 | h_9 => exact heldKept_setStore ..
    case h_1 | h_2 => split <;> rfl
    case h_11 => unfold State.clearLinden; split <;> rfl
    case h_13 => unfold State.retireBank; dsimp only; split <;> rfl
    case h_14 => unfold State.setRoute; dsimp only; split <;> rfl
    case h_15 =>
      split
      · unfold State.attestNow
        dsimp only
        split <;> rfl
      · rfl
    case h_16 =>
      split
      · rfl
      · split
        · rfl
        · split
          · rfl
          · split
            · exact heldKept_ctxWrite ..
            · rfl
    all_goals rfl

theorem heldKept_doorbell (s : State) (w : Nat) (v : Word) (p : BitVec 8) : HeldKept s (s.doorbell w v p) := by
  unfold State.doorbell
  split
  · rfl
  · split
    · rfl
    · split <;> rfl

theorem heldKept_writePhys (s : State) (pa : Nat) (bs : List Byte) (p : BitVec 8) : HeldKept s (s.writePhys pa bs p) := by
  unfold State.writePhys
  dsimp only
  split
  · exact change_heldKept.foldl (fun s j => heldKept_mgmtWrite s _ _) _ s
  · split
    · rfl
    · exact change_heldKept.foldl (fun s w => heldKept_doorbell ..) _ _

theorem heldKept_takeRecord (s : State) (c i addr bm type : Nat) (acc : BitVec 8) (d : List Byte) :
    HeldKept s (s.takeRecord c i addr bm type acc d) := by
  unfold State.takeRecord State.faultInterrupt State.setCtx
  rfl

theorem heldKept_recordFault {c : Nat} {va : Word64} {acc : BitVec 8} {r : State × Nat}
    (h : s.recordFault c va acc = some r) : HeldKept s r.1 := by
  unfold State.recordFault at h
  dsimp only at h
  split at h
  · rw [← Option.some.inj h]
    rfl
  · split at h
    · rw [← Option.some.inj h]
      exact heldKept_takeRecord ..
    · cases h

theorem heldKept_answer (s : State) (dev : Nat) (a : RemoteAnswer) : HeldKept s (s.answer dev a) := by
  unfold State.answer
  dsimp only
  split <;> rfl

theorem serves_heldKept : Serves HeldKept where
  toChange := change_heldKept
  looked := by
    rintro s _ ⟨tlb, picks, rfl⟩
    rfl
  writePhys := heldKept_writePhys
  recordFault _ _ _ _ _ := heldKept_recordFault
  answer := heldKept_answer
  inbound _ _ := rfl

/-- R242: a bank that is still held is one whose alert is less than 512 clocks old. -/
theorem State.freeBanks_held (s : State) : ∀ h ∈ s.freeBanks.heldBanks, s.clock < h.2.2 + 512 := by
  intro h hh
  have hsub : h ∈ s.heldBanks.filter fun b => decide (s.clock < b.2.2 + alertHold) := by
    unfold State.freeBanks at hh
    dsimp only at hh
    split at hh
    · next he => rwa [he]
    · rwa [show _ = _ from serves_heldKept.serveInbound _] at hh
  exact of_decide_eq_true (List.mem_filter.mp hsub).2

theorem State.bankHeld_iff (s : State) (pa va n : Nat) (kind : BitVec 2) :
    s.bankHeld ⟨va, n, .phys pa, kind⟩ = true ↔ pa < hbmEnd ∧
      ∃ t, (pa / 4096 % 8, Config.bankAt pa, t) ∈ s.heldBanks ∧ s.clock < t + 512 := by
  simp only [State.bankHeld, Bool.and_eq_true, decide_eq_true_eq, List.any_eq_true, beq_iff_eq, hbmStack]
  refine and_congr_right fun _ => ⟨?_, ?_⟩
  · rintro ⟨⟨a, b, t⟩, hmem, ⟨rfl, rfl⟩, hlt⟩
    exact ⟨t, hmem, hlt⟩
  · rintro ⟨t, hmem, hlt⟩
    exact ⟨_, hmem, ⟨rfl, rfl⟩, hlt⟩

/-! ### Corrected errors -/

/-- R251: the filter takes the bits of a row that it does not know, and the log counts the error. -/
theorem exec_correctedError_new {e : BitVec 3} {rho : BitVec 32}
    (h : ∃ i ∈ lindenBits rho, i ∉ SMap.getD s.mgmt.linden e.toNat []) :
    ∃ s', exec (.correctedError e rho) s = .next s' ∧ s'.mgmt.celogcnt = s.mgmt.celogcnt + 1 ∧
      s'.mgmt.cerepeat = s.mgmt.cerepeat ∧
      ∀ i, i ∈ SMap.getD s'.mgmt.linden e.toNat [] ↔ i ∈ SMap.getD s.mgmt.linden e.toNat [] ∨ i ∈ lindenBits rho := by
  have hall : (lindenBits rho).all (SMap.getD s.mgmt.linden e.toNat []).contains = false := by
    obtain ⟨i, hi, hn⟩ := h
    rw [List.all_eq_false]
    exact ⟨i, hi, by simpa using hn⟩
  have hlog (u : State) (k : Nat) : (u.logError k rho).mgmt = { u.mgmt with celogcnt := u.mgmt.celogcnt + 1 } := by
    unfold State.logError
    dsimp only
    split <;> rfl
  rw [exec_correctedError]
  unfold execCorrectedError
  dsimp only
  rw [hall]
  refine ⟨_, rfl, ?_, ?_, fun i => ?_⟩ <;> simp only [Bool.false_eq_true, if_false, hlog]
  · rfl
  · rfl
  · simp only [State.modMgmt, SMap.getD, SMap.find?_insert_self, Option.getD_some, List.mem_append, List.mem_filter,
      List.mem_eraseDups, Bool.not_eq_true', List.contains_eq_mem, decide_eq_false_iff_not]
    by_cases hi : i ∈ (SMap.find? e.toNat s.mgmt.linden).getD [] <;> simp [hi]

/-! ### Temperature -/

theorem SMap.getD_put_new {α : Type} [DecidableEq α] (m : SMap α) (k : Nat) {v d : α} (hv : v ≠ d) :
    SMap.getD (SMap.put m k v d) k d = v := by
  rw [SMap.put, if_neg hv, SMap.getD, SMap.find?_insert_self, Option.getD_some]

/-- The registers when a die is hot (R348). -/
def Mgmt.heat (m : Mgmt) (die : Nat) (temp : BitVec 8) : Mgmt :=
  { m.setTemp die temp with hot := if m.hot.contains die then m.hot else m.hot ++ [die] }

theorem Mgmt.mem_heat (m : Mgmt) (die : Nat) (temp : BitVec 8) : die ∈ (m.heat die temp).hot := by
  unfold Mgmt.heat
  dsimp only
  split
  · next h => exact List.contains_iff_mem.mp h
  · simp

theorem Mgmt.heat_temp (m : Mgmt) (die : Nat) {temp : BitVec 8} (ht : 95 < temp.toNat) :
    SMap.getD (m.heat die temp).dietemp die 0 = temp :=
  SMap.getD_put_new _ _ fun h => by simp [h] at ht

/-- R348: a die above 95 °C and no hotter than 105. -/
theorem State.heat_warm {x : Nat} {temp : BitVec 8} (h : temp.toNat ≤ 105) :
    s.heat x temp = s.modMgmt fun m => m.heat x temp := by
  unfold State.heat
  dsimp only
  rw [if_neg (Nat.not_lt.mpr h)]
  rfl

theorem State.bundles_hot {y : Nat} (h : y / 192 ∈ s.mgmt.hot) : s.bundles y = 1 := by
  rw [State.bundles, if_pos (List.contains_iff_mem.mpr h)]

/-! ### The thermal trip -/

theorem State.foldl_leaveWing_teams (l : List Nat) (s : State) : ∃ ts, l.foldl State.leaveWing s = { s with teams := ts } := by
  induction l generalizing s with
  | nil => exact ⟨s.teams, rfl⟩
  | cons k l ih =>
    obtain ⟨ts, hk⟩ := s.leaveWing_teams k
    obtain ⟨ts', hl⟩ := ih { s with teams := ts }
    exact ⟨ts', by rw [List.foldl_cons, hk, hl]⟩

/-- What a thermal trip leaves: nothing is reported, and the contexts live or not as the list says. -/
structure Tripped (s s' : State) (live : Nat → Bool) : Prop where
  mgmt : s'.mgmt = s.mgmt
  msix : s'.msix = s.msix
  launches : s'.launches = s.launches
  collectives : s'.collectives = []
  live : ∀ y, (s'.ctx y).live = live y

/-- With every launch complete and no collective, the kill of a context reports nothing. -/
theorem State.killContext_quiet (s : State) (k : Nat) (hL : ∀ L ∈ s.launches, L.2.complete = true)
    (hC : s.collectives = []) : Tripped s (s.killContext k) fun y => if y = k then false else (s.ctx y).live := by
  have hopen : (s.launches.filter fun e => e.2.ctx == k && !e.2.complete) = [] := by
    rw [List.filter_eq_nil_iff]
    intro e he
    simp [hL e he]
  unfold State.killContext
  dsimp only
  obtain ⟨ts, hts⟩ := s.foldl_leaveWing_teams ((s.teams.filter (fun e => e.2.ctx == k && e.2.status != .ended)).map (·.1))
  rw [hts]
  simp only [hopen, hC, List.filter_nil, List.foldl_nil]
  refine ⟨rfl, rfl, rfl, rfl, fun y => ?_⟩
  by_cases hy : y = k
  · subst hy
    rw [if_pos rfl]
    exact congrArg Context.live (s.ctx_setCtx_self y { s.ctx y with live := false })
  · rw [if_neg hy]
    exact congrArg Context.live (s.ctx_setCtx_other hy { s.ctx k with live := false })

theorem State.foldl_killContext_quiet (l : List Nat) (s : State) (hL : ∀ L ∈ s.launches, L.2.complete = true)
    (hC : s.collectives = []) :
    Tripped s (l.foldl State.killContext s) fun y => if y ∈ l then false else (s.ctx y).live := by
  induction l generalizing s with
  | nil => exact ⟨rfl, rfl, rfl, hC, fun y => rfl⟩
  | cons k l ih =>
    have hk := s.killContext_quiet k hL hC
    have hl := ih (s.killContext k) (by rwa [hk.launches]) hk.collectives
    refine ⟨hl.mgmt.trans hk.mgmt, hl.msix.trans hk.msix, hl.launches.trans hk.launches, hl.collectives, fun y => ?_⟩
    rw [List.foldl_cons, hl.live, hk.live]
    by_cases hy : y = k <;> simp [hy]

theorem SMap.mem_of_find? {α : Type} {m : SMap α} {k : Nat} {v : α} (h : SMap.find? k m = some v) : (k, v) ∈ m := by
  induction m with
  | nil => cases h
  | cons e m ih =>
    simp only [SMap.find?] at h
    split at h
    · next hk =>
      cases h
      exact hk ▸ List.mem_cons_self ..
    · exact List.mem_cons_of_mem _ (ih h)

/-- A context that lives is listed among those that live. -/
theorem State.mem_live {y : Nat} (h : (s.ctx y).live = true) :
    y ∈ (s.ctxs.filter fun (e : Nat × Context) => e.2.live).map fun (e : Nat × Context) => e.1 := by
  unfold State.ctx SMap.getD at h
  cases hf : SMap.find? y s.ctxs with
  | none =>
    rw [hf] at h
    cases h
  | some c =>
    rw [hf] at h
    exact List.mem_map.mpr ⟨(y, c), List.mem_filter.mpr ⟨SMap.mem_of_find? hf, h⟩, rfl⟩

/-- R348: a thermal trip. -/
theorem State.heat_trip {x : Nat} {temp : BitVec 8} (ht : 105 < temp.toNat) (hL : ∀ L ∈ s.launches, L.2.complete = true)
    (hC : s.collectives = []) : (s.heat x temp).mgmt = { s.mgmt.heat x temp with thermalHalt := true } ∧
      (s.heat x temp).msix = s.msix ++ [0] ∧ ∀ y, ((s.heat x temp).ctx y).live = false := by
  unfold State.heat
  dsimp only
  rw [if_pos ht]
  have hk := State.foldl_killContext_quiet ((s.ctxs.filter fun (e : Nat × Context) => e.2.live).map fun (e : Nat × Context) => e.1)
    { s with mgmt := { s.mgmt.heat x temp with thermalHalt := true } } hL hC
  refine ⟨hk.mgmt, congrArg (· ++ [0]) hk.msix, fun y => ?_⟩
  refine (hk.live y).trans ?_
  split
  · rfl
  · next hn =>
    by_contra hlive
    exact hn (State.mem_live (s := s) (Bool.not_eq_false _ ▸ hlive))

end Sys2Proof.Machine

open Sys2Proof Sys2Proof.Machine

/-- Settles O46: the banks by `serves_heldKept`, the trip by the kills, which report nothing here. -/
theorem conditions : Obligations.Conditions := by
  unfold Obligations.Conditions
  intro s k b e rho w x ks temp
  dsimp only
  refine ⟨rfl, rfl, fun hin => ?_, fun pa va n kind => s.bankHeld_iff pa va n kind, s.freeBanks_held, fun hall hmax => ?_,
    exec_correctedError_new, fun hw => ?_, fun hw => ?_, fun hx ht hwarm => ?_, fun hx ht => ?_, fun hx ht _ hL hC => ?_⟩
  · rw [exec_refreshManagementComplete, execRefreshManagementComplete]
    unfold State.serveInbound
    simp only [hin, List.foldl_nil]
    rfl
  · rw [exec_correctedError, execCorrectedError]
    dsimp only
    rw [if_pos (List.all_eq_true.mpr fun i hi => List.contains_iff_mem.mpr (hall i hi))]
    simp only [State.modMgmt, if_neg hmax]
  · rw [exec_powerEstimate, execPowerEstimate, if_pos (show s.mgmt.powerLimit < w from hw)]
    rfl
  · rw [exec_powerEstimate, execPowerEstimate, if_neg (show ¬s.mgmt.powerLimit < w from Nat.not_lt.mpr hw)]
  · refine ⟨s.heat x temp, ?_, ?_⟩
    · rw [exec_temperatureThrottle, execTemperatureThrottle, if_pos ⟨hx, ht⟩]
    · rw [State.heat_warm hwarm]
      refine ⟨Mgmt.mem_heat .., Mgmt.heat_temp _ x ht, fun y hy => State.bundles_hot ?_⟩
      rw [hy]
      exact Mgmt.mem_heat ..
  · refine ⟨_, by rw [exec_temperatureThrottleEnd, execTemperatureThrottleEnd, if_pos ⟨hx, ht⟩], ?_⟩
    simp [State.modMgmt]
  · obtain ⟨hmgmt, hmsix, hdead⟩ := State.heat_trip (x := x) ht hL hC
    refine ⟨s.heat x temp, ?_, ?_, ?_⟩
    · rw [exec_thermalTrip, execThermalTrip, if_pos ⟨hx, ht⟩]
    · rw [exec_temperatureThrottle, execTemperatureThrottle, if_pos ⟨hx, by omega⟩]
    · rw [hmgmt]
      exact ⟨rfl, Mgmt.mem_heat s.mgmt x temp, Mgmt.heat_temp _ x (by omega), hmsix, hdead⟩

end

section
/-!
PROOFS. What happens to threads and teams between instructions: the watchdog, trap entry, the age of paths, the front
thread's clock, chains, and the end of a team (O39).
-/

namespace Sys2Proof.Machine

variable {s s' : State} {k t g n : Nat} {pc : Word64} {T U : Team} {h : Thread} {f : Front} {r : TrapReq}

/-! ### Watchdog and traps -/

/-- A thread whose clocks are over, and that nothing else stops (R122). -/
structure Overdue (s : State) (k t : Nat) (T : Team) (h : Thread) : Prop where
  core : OnCore s k T
  thread : T.thread? t = some h
  live : h.ended = false
  wait : h.wait = none
  trap : h.trap = none
  unparked : h.parked = false
  due : h.limit ≤ h.count

theorem OnCore.thread? (ho : OnCore s k T) (t : Nat) : s.thread? k t = T.thread? t := by
  simp only [State.thread?, ho.team, Option.bind_some]

theorem exec_watchdog_due (ho : Overdue s k t T h) :
    exec (.watchdog k t) s = .next (s.takeTrap k t ⟨Cause.watchdog, 0, h.pc, s.wordAt k h.pc, none⟩) := by
  have hthread : s.thread? k t = some h := (ho.core.thread? t).trans ho.thread
  have hdue : s.watchdogDue ⟨k, .thread t⟩ = true := by
    simp only [State.watchdogDue, hthread, decide_eq_true_eq]
    exact ho.due
  rw [exec_watchdog]
  simp only [execWatchdog, hthread, ho.core.present ho.thread ho.live, ho.wait, ho.trap, ho.unparked, hdue, Option.isNone_none,
    Bool.not_false, Bool.and_self, if_true]

theorem exec_trapEntry_trap (ho : OnCore s k T) (hh : T.thread? t = some h) (hl : h.ended = false) (ht : h.trap = some r) :
    exec (.trapEntry k t) s = .next (s.takeTrap k t r) := by
  rw [exec_trapEntry]
  simp only [execTrapEntry, (ho.thread? t).trans hh, ht, ho.present hh hl, if_true]

/-- The thread as a trap takes it: it waits for nothing and stands in no line. -/
def Thread.struck (h : Thread) : Thread := { h with wait := none, places := [] }

theorem deliver_nothing (hT : s.team? k = some T) (hh : T.thread? t = some h) (hp : h.pend = []) (all : Bool) :
    deliver ⟨k, .thread t⟩ all s = .ok ((), s) := by
  simp only [deliver, pendOf, M.bind_apply, getThread_apply hT hh, M.pure_apply, hp, List.isEmpty_nil, if_true]

theorem deliver_remote (hT : s.team? k = some T) (hh : T.thread? t = some h) {p : Pending} (hp : h.pend = [p])
    (hr : p.isRemote = true) : deliver ⟨k, .thread t⟩ true s = .error .retry := by
  obtain ⟨x, hx⟩ : ∃ x, p.value = .remote x := by
    unfold Pending.isRemote at hr
    cases hv : p.value with
    | remote x => exact ⟨x, rfl⟩
    | ready vs => simp [hv] at hr
  simp only [deliver, pendOf, M.bind_apply, getThread_apply hT hh, M.pure_apply, hp, List.isEmpty_cons, Bool.false_eq_true,
    if_false, deliverGo, Bool.true_or, if_true, hx]
  rfl

/-- WATCHDOG waits for the thread's results alone. -/
theorem State.takeTrap_watchdog {u : State} (hu : s.modThread k t Thread.struck = u) (hc : r.cause = Cause.watchdog) :
    (deliver ⟨k, .thread t⟩ true u = .ok ((), s') → s.takeTrap k t r = s'.enter k t r) ∧
      (deliver ⟨k, .thread t⟩ true u = .error .retry →
        s.takeTrap k t r = u.modThread k t fun h => { h with trap := some r }) := by
  have hstruck : (s.modThread k t fun h => { h with wait := none, places := [] }) = u := hu
  have hword : ¬(r.cause = Cause.reconstruction ∨ r.cause = Cause.uncorrectable) := by
    rw [hc]
    decide
  have hnever : Cause.never r.cause = true := by
    rw [hc]
    decide
  refine ⟨fun hd => ?_, fun hd => ?_⟩ <;>
    simp only [State.takeTrap, hstruck, if_neg hword, hnever, Bool.not_true, Bool.false_and, Bool.false_eq_true, if_false, runM, hd]

/-- What the WATCHDOG of a thread with no results to come makes of its team (R300). -/
def Team.watchdogged (T : Team) (t : Nat) (h : Thread) (w : Word) : Team :=
  { T.modThread t Thread.struck with
    dying := true
    fault := some ⟨2, detail Cause.watchdog.toNat 0 w h.pc 0 (whereBytes T (.thread t)), some T.launch⟩ }

theorem Overdue.dies (ho : Overdue s k t T h) {G : Group} (hG : T.group? (T.groupIx t) = some G) (hp : h.pend = []) :
    (s.takeTrap k t ⟨Cause.watchdog, 0, h.pc, s.wordAt k h.pc, none⟩).team? k =
      some (T.watchdogged t h (s.wordAt k h.pc)) := by
  have hT := State.team?_modThread ho.core.team (t := t) Thread.struck
  have hh := Team.thread?_modThread ho.thread Thread.struck
  have hgoes : ((T.modThread t Thread.struck).dying || (T.modThread t Thread.struck).status == .ended) = false := by
    show (T.dying || T.status == .ended) = false
    rw [ho.core.goes, ho.core.resident]
    rfl
  have hgroup : (T.modThread t Thread.struck).group? ((T.modThread t Thread.struck).groupIx t) = some G := hG
  have hnever : Cause.never Cause.watchdog = true := by decide
  have hword : ¬(Cause.watchdog = Cause.reconstruction ∨ Cause.watchdog = Cause.uncorrectable) := by decide
  rw [(State.takeTrap_watchdog rfl rfl).1 (deliver_nothing hT hh hp true)]
  simp only [State.enter, hT, hh, hgroup, if_neg hword, hnever, or_true, if_true, State.endByFault, hgoes, Bool.false_eq_true,
    if_false]
  exact State.team?_setTeam hT _

theorem Overdue.waits (ho : Overdue s k t T h) {p : Pending} (hp : h.pend = [p]) (hr : p.isRemote = true)
    (r : TrapReq) (hc : r.cause = Cause.watchdog) :
    (s.takeTrap k t r).thread? k t = some { h.struck with trap := some r } := by
  have hT := State.team?_modThread ho.core.team (t := t) Thread.struck
  have hh := Team.thread?_modThread ho.thread Thread.struck
  rw [(State.takeTrap_watchdog (s' := s) rfl hc).2 (deliver_remote hT hh hp hr), State.thread?_modThread, State.thread?, hT,
    Option.bind_some, hh]
  rfl

/-! ### Paths, chains and the clock -/

theorem exec_pathAgeing_old (ho : OnCore s k T) (hp : T.path g pc ≠ []) (ha : 1024 ≤ T.ageOf s.clock g pc) :
    exec (.pathAgeing k g pc) s = .next { s with agenda := .bundle k (T.path g pc) :: s.agenda } := by
  have hne : (T.path g pc).isEmpty = false := by
    cases hl : T.path g pc with
    | nil => exact absurd hl hp
    | cons => rfl
  rw [exec_pathAgeing]
  simp only [execPathAgeing, ho.team, ho.running, hne, Bool.not_false, decide_eq_true ha, Bool.and_self, if_true]

theorem exec_chainGroupCreate_due (ho : OnCore s k T) {L : Launch} (hL : SMap.find? T.launch s.launches = some L)
    (hdue : T.chainDue = true) : exec (.chainGroupCreate k) s = .next (s.modTeam k (·.createBeat L.record)) := by
  rw [exec_chainGroupCreate]
  simp only [execChainGroupCreate, ho.team, hL, ho.resident, ho.goes, hdue, beq_self_eq_true, Bool.not_false, Bool.and_self,
    if_true]

theorem exec_chainSettle_settled (ho : OnCore s k T) (hh : T.thread? t = some h) (hl : h.ended = false)
    (hw : h.wait = some (.settle n)) :
    exec (.chainSettle k t) s = .next ((s.modTeam k (·.exitThread t n)).reportLost k (.thread t)) := by
  rw [exec_chainSettle]
  simp only [execChainSettle, (ho.thread? t).trans hh, hw, ho.present hh hl, if_true]

theorem OnCore.presentFront (ho : OnCore s k T) (hf : T.front = some f) (hl : f.ended = false) :
    s.present ⟨k, .front⟩ = true := by
  simp [State.present, State.lanePresent, ho.running, ho.team, hf, hl]

theorem clockOf_started {L : Launch} {t0 : Nat} (hT : s.team? k = some T) (hL : SMap.find? T.launch s.launches = some L)
    (ht : L.t0 = some t0) : clockOf k s = .ok (s.clock - t0, s) := by
  simp only [clockOf, M.bind_apply, getTeam_apply hT, M.get_apply, hL, M.pure_apply, ht, Option.getD_some]

/-- R219: the front thread goes on past FTWAIT.CLK. -/
theorem exec_clockWaitExpiry_reached (ho : OnCore s k T) (hf : T.front = some f) (hl : f.ended = false)
    (hw : f.wait = some .poll) {a : BitVec 8} {w : Word} {s1 : State} {L : Launch} {t0 : Nat}
    (hfetch : fetchAt k f.pc s = .ok ((w, n, some (.ftwaitClk a)), s1)) (hteam : s1.team? k = some T)
    (hlaunches : s1.launches = s.launches) (hclock : s1.clock = s.clock) (hL : SMap.find? T.launch s.launches = some L)
    (ht : L.t0 = some t0) (hle : (f.reg a.toNat).toNat ≤ s.clock - t0) :
    exec (.clockWaitExpiry k) s = .next (s.modFront k (·.advance 4)) := by
  have hnow : clockOf k s1 = .ok (s.clock - t0, s1) := by
    rw [clockOf_started hteam (hlaunches ▸ hL) ht, hclock]
  have hfront : (s.team? k).bind (·.front) = some f := by rw [ho.team, Option.bind_some, hf]
  rw [exec_clockWaitExpiry]
  simp only [execClockWaitExpiry, hfront, runM, M.bind_apply, hfetch, hnow, M.pure_apply, ho.presentFront hf hl, hw,
    beq_self_eq_true, decide_eq_true hle, Bool.and_self, if_true]

/-! ### The end of a team -/

/-- What a team's end leaves of its wing and its porch until then. -/
structure Rests (T U : Team) : Prop where
  wing : T.wing = none → U.wing = none
  porch : U.porch = T.porch
  revocable : U.revocable = T.revocable

theorem Rests.refl (T : Team) : Rests T T := ⟨id, rfl, rfl⟩

theorem Rests.trans {T U V : Team} (h : Rests T U) (h' : Rests U V) : Rests T V :=
  ⟨h'.wing ∘ h.wing, h'.porch.trans h.porch, h'.revocable.trans h.revocable⟩

theorem State.team?_modFront (hT : s.team? k = some T) (F : Front → Front) :
    (s.modFront k F).team? k = some { T with front := T.front.map F } := by
  rw [State.modFront, State.team?_modTeam, if_pos rfl, hT]
  rfl

/-- The thread and the team when the elements for a team that is no more have gone. -/
def Thread.dropInto (h : Thread) (k : Nat) : Thread :=
  let drop (p : Pending) : Pending := if p.via = some k then { p with value := .ready [], via := none } else p
  { h with pend := (h.pend.map drop).filter fun p => p.value != .ready [] || decide (0 < p.left) }

def Team.dropInto (T : Team) (k : Nat) : Team :=
  { T with threads := T.threads.map fun (x : Nat × Thread) => (x.1, x.2.dropInto k) }

theorem State.team?_dropInto (s : State) (k j : Nat) : (s.dropInto k).team? j = (s.team? j).map (·.dropInto k) :=
  SMap.find?_map_value j (fun U : Team => U.dropInto k) s.teams

theorem State.reportLost_rests (hT : s.team? k = some T) (who : Who) :
    ∃ U, (s.reportLost k who).team? k = some U ∧ Rests T U := by
  unfold State.reportLost
  rw [hT]
  dsimp only
  cases who with
  | front =>
    dsimp only
    split
    · split
      · exact ⟨_, State.team?_modFront (s := s.report T.ctx _) hT _, id, rfl, rfl⟩
      · exact ⟨T, hT, .refl T⟩
    · exact ⟨T, hT, .refl T⟩
  | thread t =>
    dsimp only
    split
    · split
      · exact ⟨_, State.team?_modThread (hT := hT) _, id, rfl, rfl⟩
      · exact ⟨T, hT, .refl T⟩
    · exact ⟨T, hT, .refl T⟩

theorem State.foldl_reportLost_rests (l : List (Nat × Thread)) (hT : s.team? k = some T) :
    ∃ U, (l.foldl (fun s e => s.reportLost k (.thread e.1)) s).team? k = some U ∧ Rests T U := by
  induction l generalizing s T with
  | nil => exact ⟨T, hT, .refl T⟩
  | cons e l ih =>
    obtain ⟨U, hU, hTU⟩ := State.reportLost_rests hT (.thread e.1)
    obtain ⟨V, hV, hUV⟩ := ih hU
    exact ⟨V, hV, hTU.trans hUV⟩

theorem State.sweepLost_rests (hT : s.team? k = some T) (V : Team) :
    ∃ U, (s.sweepLost k V).team? k = some U ∧ Rests T U := by
  obtain ⟨U, hU, hTU⟩ := State.foldl_reportLost_rests V.threads hT
  obtain ⟨W, hW, hUW⟩ := State.reportLost_rests hU .front
  exact ⟨W, hW, hTU.trans hUW⟩

theorem State.leaveWing_rests (hT : s.team? k = some T) :
    ∃ U, (s.leaveWing k).team? k = some U ∧ U.wing = none ∧ Rests T U := by
  obtain ⟨V, hV, hwing, hrests⟩ : ∃ V, (s.quitWing k).team? k = some V ∧ V.wing = none ∧ Rests T V := by
    cases hw : T.wing with
    | none =>
      rw [State.quitWing_none hT hw]
      exact ⟨T, hT, hw, .refl T⟩
    | some w => exact ⟨_, State.team?_quitWing_self hT (by rw [hw]; rfl), rfl, fun _ => rfl, rfl, rfl⟩
  refine ⟨V.dropInto k, ?_, hwing, hrests.trans ⟨id, rfl, rfl⟩⟩
  rw [State.leaveWing, State.team?_dropInto, hV]
  rfl

theorem State.commitPorch_rests (hT : s.team? k = some T) :
    ∃ U, (s.commitPorch k).team? k = some U ∧ U.wing = T.wing ∧ ((T.revocable = false → T.porch = []) → U.porch = []) := by
  unfold State.commitPorch
  rw [hT]
  dsimp only
  split
  · exact ⟨_, State.team?_setTeam (s := { s with stores := _ }) hT _, rfl, fun _ => rfl⟩
  · next hr => exact ⟨T, hT, rfl, fun h => h (Bool.eq_false_iff.mpr hr)⟩

/-- The team as its end halts it. -/
def Team.halted (T : Team) : Team :=
  { T with
    threads := T.threads.map fun (e : Nat × Thread) =>
      (e.1, { e.2 with ended := true, wait := none, places := [], trap := none, pend := [] })
    front := T.front.map fun f => { f with ended := true, wait := none }
    copies := []
    mx := { T.mx with queue := [] }
    rsh := { T.rsh with state := if T.rsh.state = 1 then 3 else T.rsh.state, flight := [] } }

theorem State.endTeam_eq (hT : s.team? k = some T) : s.endTeam k =
    (((((s.setTeam k T.halted).sweepLost k T.halted).leaveWing k).commitPorch k).reportEnd T).modTeam k fun T =>
      { T with status := .ended, dying := false, fault := none, porchSlot := none } := by
  unfold State.endTeam
  rw [hT]
  rfl

theorem State.team?_reportEnd (s : State) (V : Team) (k : Nat) : (s.reportEnd V).team? k = s.team? k := by
  unfold State.reportEnd
  split <;> rfl

/-- R184, R258, R300: a team that has ended. -/
theorem State.endTeam_ended (hT : s.team? k = some T) (hp : T.revocable = false → T.porch = []) :
    ∃ U, (s.endTeam k).team? k = some U ∧ U.status = .ended ∧ U.dying = false ∧ U.fault = none ∧ U.porch = [] ∧
      U.porchSlot = none ∧ U.wing = none := by
  obtain ⟨V, hV, hrestsV⟩ := State.sweepLost_rests (State.team?_setTeam hT T.halted) T.halted
  obtain ⟨W, hW, hwing, hrestsW⟩ := State.leaveWing_rests hV
  obtain ⟨X, hX, hwingX, hporch⟩ := State.commitPorch_rests hW
  have hrests : Rests T.halted W := hrestsV.trans hrestsW
  refine ⟨{ X with status := .ended, dying := false, fault := none, porchSlot := none }, ?_, rfl, rfl, rfl, ?_, rfl,
    hwingX.trans hwing⟩
  · rw [State.endTeam_eq hT, State.team?_modTeam, if_pos rfl, State.team?_reportEnd, hX]
    rfl
  · exact hporch fun hr => hrests.porch.trans (hp (hrests.revocable.symm.trans hr))

theorem exec_teamEnd_of_team (hT : s.team? k = some T) : exec (.teamEnd k) s = .next (
    if !(if T.dying then s.enginesStill T && !s.pushesOwed k T
      else (T.status == .resident || T.status == .resting) && T.exited && T.enginesDone) then s
    else if (s.quitWing k).peersBusy k then s.quitWing k
    else if T.dying then s.endDying k T
    else s.endTeam k) := by
  rw [exec_teamEnd, execTeamEnd, hT]

/-- A team that a fault has ended, and whose engines are at rest. -/
theorem exec_teamEnd_dying (hT : s.team? k = some T) (hd : T.dying = true) (he : s.enginesStill T = true)
    (ho : s.pushesOwed k T = false) : exec (.teamEnd k) s = .next (
      if (s.quitWing k).peersBusy k then s.quitWing k else s.endDying k T) := by
  rw [exec_teamEnd_of_team hT]
  simp only [hd, he, ho, if_true, Bool.not_false, Bool.and_self, Bool.not_true, Bool.false_eq_true, if_false]

/-- A team that has exited, and whose engines have finished. -/
theorem exec_teamEnd_exited (ho : OnCore s k T) (he : T.exited = true) (hc : T.copies = []) (hm : T.mx.queue = [])
    (hr : T.rsh.state ≠ 1) : exec (.teamEnd k) s = .next (
      if (s.quitWing k).peersBusy k then s.quitWing k else s.endTeam k) := by
  have hdone : T.enginesDone = true := by simp [Team.enginesDone, hc, hm, Team.rshRunning, hr]
  rw [exec_teamEnd_of_team ho.team]
  simp only [ho.goes, ho.resident, he, hdone, beq_self_eq_true, Bool.true_or, Bool.and_self, Bool.not_true, Bool.false_eq_true,
    if_false]

end Sys2Proof.Machine

open Sys2Proof Sys2Proof.Machine

/-- Settles O39: each event as its lemma above says; a team's end keeps what `Rests` names. -/
theorem threadAndTeamEvents : Obligations.ThreadAndTeamEvents := by
  unfold Obligations.ThreadAndTeamEvents
  refine ⟨fun s k t g pc T h ho => ⟨fun hh hl hw ht hp hdue => ?_, fun r hh hl ht => exec_trapEntry_trap ho hh hl ht,
    exec_pathAgeing_old ho, fun f a w n s1 L t0 hf hl hw hfetch hteam hla hcl hL ht hle =>
      exec_clockWaitExpiry_reached ho hf hl hw hfetch hteam hla hcl hL ht hle⟩,
    fun s k T hT hd he ho => ⟨fun hb => ?_, fun hb => ⟨fun hr hp => ?_, fun hr hc => ?_, fun hr hp hc => ?_⟩⟩,
    fun s k t T h ho => ⟨fun L hL hdue => exec_chainGroupCreate_due ho hL hdue, fun n hh hl hw => exec_chainSettle_settled ho hh hl hw,
      fun he hc hm hr hb => ?_, fun he hc hm hr hb hp => ?_, fun he => ?_⟩⟩
  · have hover : Overdue s k t T h := ⟨ho, hh, hl, hw, ht, hp, hdue⟩
    refine ⟨exec_watchdog_due hover, fun G hG hpend => ?_, fun p hpend hr => ?_⟩
    · exact ⟨_, _, _, exec_watchdog_due hover, hover.dies hG hpend, rfl, rfl, rfl, rfl⟩
    · exact ⟨_, _, exec_watchdog_due hover, hover.waits hpend hr _ rfl, rfl, hpend⟩
  · rw [exec_teamEnd_dying hT hd he ho, if_pos hb]
  · have hne : T.porch.isEmpty = false := by
      cases hl : T.porch with
      | nil => exact absurd hl hp
      | cons => rfl
    rw [exec_teamEnd_dying hT hd he ho, if_neg (Bool.eq_false_iff.mp hb)]
    simp only [State.endDying, hr, hne, Bool.not_false, Bool.and_self, if_true]
  · rw [exec_teamEnd_dying hT hd he ho, if_neg (Bool.eq_false_iff.mp hb)]
    simp only [State.endDying, hr, Bool.false_and, Bool.false_eq_true, if_false, hc, if_true]
  · obtain ⟨U, hU, hstatus, hgone, hfault, -, hslot, hwing⟩ := State.endTeam_ended hT fun _ => hp
    refine ⟨s.endTeam k, U, ?_, hU, hstatus, hgone, hfault, hslot, hwing⟩
    rw [exec_teamEnd_dying hT hd he ho, if_neg (Bool.eq_false_iff.mp hb)]
    simp only [State.endDying, hr, Bool.false_and, Bool.false_eq_true, if_false, hc]
  · rw [exec_teamEnd_exited ho he hc hm hr, if_pos hb]
  · obtain ⟨U, hU, hstatus, -, -, hporch, hslot, hwing⟩ := State.endTeam_ended ho.team hp
    refine ⟨s.endTeam k, U, ?_, hU, hstatus, hporch, hslot, hwing⟩
    rw [exec_teamEnd_exited ho he hc hm hr, if_neg (Bool.eq_false_iff.mp hb)]
  · rw [exec_teamEnd_of_team ho.team]
    simp only [ho.goes, he, Bool.and_false, Bool.false_and, Bool.not_false, if_true, Bool.false_eq_true, if_false]

end

section
/-!
PROOFS. The steps of a running re-shard operation (O37): past the last entry a row pull does not move RSPROG.
-/

namespace Sys2Proof.Machine

/-- An operation of no entries that runs, past its last entry, with one row in flight that owes no store any more, and that
RSPROG has not passed. -/
def landedTeam : Team :=
  { listedTeam with rsh := { listedTeam.rsh with state := 1, nextEntry := 5, flight := [⟨0, 0, []⟩] } }

def landedState : State := { State.reset with teams := [(0, landedTeam)] }

/-- The pull has no row to pull, and leaves the operation as it is. -/
theorem exec_rshRowPull_landedState (ans : RemoteAnswer) : exec (.rshRowPull 0 ans) landedState = .next landedState := rfl

end Sys2Proof.Machine

open Sys2Proof Sys2Proof.Machine

/-- Refutes O37: with every entry pulled and a row still listed in flight, a row pull changes nothing, also where that row has
landed, and RSPROG is not brought up to date. -/
theorem not_reshardSteps : ¬ Obligations.ReshardSteps := by
  intro hsteps
  have hpull := (hsteps landedState 0 landedTeam .expired ⟨rfl, rfl, rfl⟩ rfl).1 rfl rfl rfl
  injection (exec_rshRowPull_landedState .expired).symm.trans (hpull.2.1 (by decide) (by decide)) with heq
  have hentry := congrArg (fun s => (s.team? 0).map (·.rsh.entry)) heq
  exact absurd hentry (by decide)
end

section
/-!
PROOFS. The steps of matrix commands: zeroing, K-slices, and the rows of MX.STORE and MX.LOAD (O36).
-/

namespace Sys2Proof.Machine

variable {s s1 u : State} {k n : Nat} {T : Team} {C : MxCmd} {d : List Byte} {o : Origin} {parts : List LoadPart} {bs : List Byte}
  {q pol : BitVec 2} {b : Bool}

/-! ### What a step's remote requests and commit are read from -/

theorem State.tooSoon_congr (u u' : State) (hr : (u'.team? k).any (·.revocable) = (u.team? k).any (·.revocable))
    (hn : u'.nextRemote = u.nextRemote) : s.tooSoon u' k = s.tooSoon u k := by
  simp only [State.tooSoon, hr, hn]

theorem State.tooSoon_self (s : State) (k : Nat) : s.tooSoon s k = false := by
  simp only [State.tooSoon, bne_self_eq_false, Bool.false_and, Bool.and_not_self, Bool.or_self]

theorem State.tooSoon_modTeam (f : Team → Team) (hf : ∀ T, (f T).revocable = T.revocable) :
    s.tooSoon (u.modTeam k f) k = s.tooSoon u k := by
  refine State.tooSoon_congr u _ ?_ rfl
  rw [State.team?_modTeam, if_pos rfl]
  cases u.team? k with
  | none => rfl
  | some T => exact hf T

theorem State.tooSoon_modMx (F : Mx → Mx) : s.tooSoon (u.modTeam k fun T => { T with mx := F T.mx }) k = s.tooSoon u k :=
  State.tooSoon_modTeam _ fun _ => rfl

theorem State.tooSoon_finishes (o : Origin) (f : Team → Team) (hf : ∀ T, (f T).revocable = T.revocable) :
    s.tooSoon (u.finishes k o f) k = s.tooSoon u k := by
  cases hT : u.team? k with
  | some T =>
    obtain ⟨T', hT', hr, hn⟩ := State.finishes_keeps hT o hf
    exact State.tooSoon_congr u _ (by simp [hT', hT, hr]) hn
  | none =>
    have hseal : (u.sealOrigin k o).team? k = none := by
      unfold State.sealOrigin
      split
      · refine (State.team?_modTeam u k k _).trans ?_
        rw [if_pos rfl, hT]
        rfl
      · exact hT
    unfold State.finishes
    split
    · rfl
    · rw [State.tooSoon_modTeam f hf]
      exact State.tooSoon_congr u _ (by rw [hseal, hT]) (u.sealOrigin_nextRemote k o)

theorem Team.mxEnd_revocable (T : Team) (C : MxCmd) : (T.mxEnd C).revocable = T.revocable := by
  unfold Team.mxEnd
  dsimp only
  split
  · exact Team.revocable_checkPhase ..
  · rfl

theorem Team.mxLanded_revocable (T : Team) (C : MxCmd) (n : Nat) : (T.mxLanded C n).revocable = T.revocable := by
  unfold Team.mxLanded
  dsimp only
  split
  · simp only [Team.landBytes]
    split
    · rfl
    · split
      · rfl
      · exact Team.revocable_checkPhase ..
  · rfl

/-! ### Starts -/

theorem Mx.setTile_queue (x : Mx) (b : Bool) (t : SMap Word) : (x.setTile b t).queue = x.queue := by
  cases b <;> rfl

theorem Mx.head_queue {x : Mx} (h : x.queue.head? = some C) (f : MxCmd → MxCmd) : (x.head f).queue.head? = some (f C) := by
  obtain ⟨cs, hcs⟩ := List.head?_eq_some_iff.mp h
  simp only [Mx.head, hcs, List.head?_cons]

theorem mxBegin_queue (x : Mx) (p : Block) (d : List Byte) : (mxBegin x p d).queue = x.queue := by
  unfold mxBegin
  dsimp only
  generalize (if x.stop = some (true, d) then x.prog else 0) = start
  split
  · exact Mx.setTile_queue ..
  · rfl

theorem Team.mxEnd_queue (T : Team) (C : MxCmd) : (T.mxEnd C).mx.queue = T.mx.queue.drop 1 := by
  unfold Team.mxEnd
  dsimp only
  split
  · unfold Team.engineDone Team.checkPhase
    dsimp only
    split <;> rfl
  · rfl

theorem OnCore.enginesRun (ho : OnCore s k T) : s.enginesRun k = true := by
  simp only [State.enginesRun, ho.team, ho.resident, beq_self_eq_true, Bool.true_or]

/-- A command that has just started makes no step yet, if its start is over, or if none is left. -/
theorem exec_matrixCommandStart_over (ho : OnCore s k T) (hC : T.mx.queue.head? = some C) (hst : C.started = false)
    (hover : ∀ c, (T.mxStart C).mx.queue.head? = some c → c.starting = false ∨ c.started = false) :
    exec (.matrixCommandStart k) s = .next (s.modTeam k (·.mxStart C)) := by
  have hhead : (s.team? k).bind (·.mx.queue.head?) = some C := by rw [ho.team, Option.bind_some, hC]
  have hT' : (s.modTeam k (·.mxStart C)).team? k = some (T.mxStart C) := by
    rw [State.team?_modTeam, if_pos rfl, ho.team]
    rfl
  rw [exec_matrixCommandStart]
  simp only [execMatrixCommandStart, hhead, ho.enginesRun, hst, Bool.not_false, Bool.and_self, if_true, mxStep, hT',
    Option.bind_some]
  cases hc : (T.mxStart C).mx.queue.head? with
  | none => rfl
  | some c =>
    have hready : (c.started && c.starting) = false := by
      obtain h | h := hover c hc <;> simp [h]
    simp only [hready, Bool.not_false, Bool.or_true, if_true]

/-! ### Steps -/

/-- The head command's step, when it may move. -/
theorem MxRuns.step (hr : MxRuns s k T C) (hf : s.forkPending k C.origin = false) {ready : MxCmd → Bool} {m : MxCmd → M Unit}
    (hready : ready C = true) (hm : m C s = .ok ((), u)) (hsoon : s.tooSoon u k = false) : mxStep s k ready m = u := by
  obtain ⟨hsleep, -, hout⟩ := hr.awake
  have hhead : (s.team? k).bind (·.mx.queue.head?) = some C := by rw [hr.on.team, Option.bind_some, hr.head]
  simp only [mxStep, hhead, hr.on.enginesRun, hsleep, hout, hready, Option.isSome_none, List.isEmpty_nil, Bool.not_true, Bool.or_self,
    Bool.false_eq_true, if_false]
  exact engineStep_ok hf hm hsoon

/-- A step that comes before the porch has committed (R258). -/
theorem MxRuns.early (hr : MxRuns s k T C) (hf : s.forkPending k C.origin = false) {ready : MxCmd → Bool} {m : MxCmd → M Unit}
    (hready : ready C = true) (hm : m C s = .ok ((), u) ∨ m C s = .error (.hold u)) (hsoon : s.tooSoon u k = true) :
    mxStep s k ready m = s.commitPorch k := by
  obtain ⟨hsleep, -, hout⟩ := hr.awake
  have hhead : (s.team? k).bind (·.mx.queue.head?) = some C := by rw [hr.on.team, Option.bind_some, hr.head]
  simp only [mxStep, hhead, hr.on.enginesRun, hsleep, hout, hready, Option.isSome_none, List.isEmpty_nil, Bool.not_true, Bool.or_self,
    Bool.false_eq_true, if_false]
  exact engineStep_early hf hm hsoon

theorem MxRuns.fetch (hr : MxRuns s k T C) {ask : M (List LoadPart)} (hask : ask s = .ok (parts, s1))
    (hbs : partsReady parts = some bs) : mxFetch k C ask s = .ok (bs, s1) := by
  obtain ⟨-, hparts, -⟩ := hr.awake
  simp only [mxFetch, M.bind_apply, hparts, List.isEmpty_nil, if_true, hask, hbs, M.pure_apply]

/-- The state after the end of a transfer, or before it. -/
def State.endsMx (s : State) (k : Nat) (C : MxCmd) (last : Bool) : State :=
  if last then s.finishes k C.origin (·.mxEnd C) else s

theorem mxLand_apply (k : Nat) (C : MxCmd) (s : State) : mxLand k C [] s =
    .ok ((), (s.modTeam k fun T => T.mxLanded C C.landing.1).endsMx k C C.landing.2) := by
  have hfin := finish_apply (s.modTeam k fun T => T.mxLanded C C.landing.1) k C.origin (·.mxEnd C)
  unfold State.endsMx
  simp only [mxLand, List.isEmpty_nil, if_true, M.bind_apply, modTeam_apply]
  cases C.landing.2 with
  | false => rfl
  | true => exact hfin

theorem State.tooSoon_endsMx (last : Bool) : s.tooSoon (u.endsMx k C last) k = s.tooSoon u k := by
  cases last with
  | false => rfl
  | true => exact State.tooSoon_finishes _ _ fun T => T.mxEnd_revocable C

/-- What one K-slice makes of the team's matrix unit (R54, R196). -/
def Mx.sliced (x : Mx) (p : Block) (j : Nat) (t : SMap Word) : Mx :=
  ({ x with prog := BitVec.ofNat 32 ((j + 1) * p.w) }.setTile p.acc t).head fun C => { C with parts := [] }

/-- R54, R196: one K-slice. -/
theorem mxSlice_apply (hr : MxRuns s k T C) (hk : C.kind = .issue d)
    (hask : fetchRuns k C.origin (sliceRuns (Block.of C.nfmt d) (T.mx.prog.toNat / (Block.of C.nfmt d).w)) s = .ok (parts, s1))
    (hbs : partsReady parts = some bs) : mxSlice k C s = .ok ((),
      let p := Block.of C.nfmt d
      let j := T.mx.prog.toNat / p.w
      let t := (p.problems.foldl (fun r q => addProblem p (min p.w (p.k - j * p.w)) q r.1 r.2) (T.mx.tile p.acc, bs)).1
      let s2 := s1.modTeam k fun T => { T with mx := T.mx.sliced p j t }
      if p.slices ≤ j + 1 then s2.modTeam k (·.mxEnd C) else s2) := by
  simp only [mxSlice, hk, M.bind_apply, getTeam_apply hr.on.team, hr.fetch hask hbs, modMx, modTeam_apply]
  split <;> rfl

theorem mxStoreRow_done (hk : C.kind = .store b d q pol) (hd : (Tile.of d).steps ≤ C.step) :
    mxStoreRow k C s = .ok ((), s.endsMx k C true) := by
  simp only [mxStoreRow, hk, if_pos hd]
  exact finish_apply s k C.origin (·.mxEnd C)

theorem MxCmd.landing_store (hk : C.kind = .store b d q pol) (hlt : C.step < (Tile.of d).rows) :
    C.landing = ((Tile.of d).cols * (fmtOf C.nfmt (Tile.of d).code).bytes,
      !(Tile.of d).trailer && C.step + 1 == (Tile.of d).rows) := by
  simp only [MxCmd.landing, hk, if_pos hlt]

theorem mxStoreRow_apply (hr : MxRuns s k T C) (hk : C.kind = .store b d q pol) (hlt : C.step < (Tile.of d).rows)
    (htrap : .trap ∉ storeElems C (Tile.of d) (T.mx.tile b) q pol)
    (hput : putRuns k C.origin (Tile.of d).here (((Tile.of d).opnd C.nfmt).rowRuns (Tile.of d).addr C.step 0
        ((Tile.of d).cols * ((Tile.of d).opnd C.nfmt).e))
      ((((storeElems C (Tile.of d) (T.mx.tile b) q pol).drop (C.step * (Tile.of d).cols)).take (Tile.of d).cols).flatMap fun v =>
        leBytes ((Tile.of d).opnd C.nfmt).e v.bits) s = .ok ([], s1)) :
    mxStoreRow k C s = .ok ((), (s1.modTeam k fun T => T.mxLanded C ((Tile.of d).cols * (fmtOf C.nfmt (Tile.of d).code).bytes)).endsMx
      k C (!(Tile.of d).trailer && C.step + 1 == (Tile.of d).rows)) := by
  have hsteps : ¬(Tile.of d).steps ≤ C.step := by
    unfold Tile.steps
    omega
  have hnone : (storeElems C (Tile.of d) (T.mx.tile b) q pol).findIdx? (· == .trap) = none := by
    rw [List.findIdx?_eq_none_iff]
    intro v hv
    simpa using fun h : v = .trap => htrap (h ▸ hv)
  simp only [mxStoreRow, hk, if_neg hsteps, M.bind_apply, getTeam_apply hr.on.team, hnone, if_pos hlt, mxStoreRow.slice', hput,
    mxLand_apply, MxCmd.landing_store hk hlt]

theorem MxCmd.landing_load (hk : C.kind = .load b d) (ht : (Tile.of d).trailer = false) :
    C.landing = ((Tile.of d).cols * (fmtOf C.nfmt (Tile.of d).code).bytes, C.step + 1 == (Tile.of d).rows) := by
  simp only [MxCmd.landing, hk, ht, Bool.false_eq_true, if_false]

/-- What one row of an MX.LOAD makes of an accumulator (R203). -/
def Mx.rowLoaded (x : Mx) (b : Bool) (t : Tile) (o : Opnd) (r : Nat) (bs : List Byte) : Mx :=
  x.setTile b ((List.range t.cols).foldl
    (fun a j => setAcc a (t.row0 + r) (t.col0 + j) (loadElem o.fmt (fieldN bs (j * o.e) o.e))) (x.tile b))

theorem mxLoadRow_apply (hr : MxRuns s k T C) (hk : C.kind = .load b d) (ht : (Tile.of d).trailer = false)
    (hlt : C.step < (Tile.of d).rows)
    (hask : engineGets 3 k C.origin (Tile.of d).here (((Tile.of d).opnd C.nfmt).rowRuns (Tile.of d).addr C.step 0
        ((Tile.of d).cols * ((Tile.of d).opnd C.nfmt).e)) s = .ok (parts, s1))
    (hbs : partsReady parts = some bs) :
    mxLoadRow k C s = .ok ((), ((s1.modTeam k fun T =>
        { T with mx := T.mx.rowLoaded b (Tile.of d) ((Tile.of d).opnd C.nfmt) C.step bs }).modTeam k fun T =>
        T.mxLanded C ((Tile.of d).cols * (fmtOf C.nfmt (Tile.of d).code).bytes)).endsMx k C (C.step + 1 == (Tile.of d).rows)) := by
  have hsteps : ¬(Tile.of d).steps ≤ C.step := by
    unfold Tile.steps
    omega
  simp only [mxLoadRow, hk, if_neg hsteps, ht, Bool.false_and, Bool.false_eq_true, if_false, M.bind_apply, hr.fetch hask hbs, modMx,
    modTeam_apply, mxLand_apply, MxCmd.landing_load hk ht]
  rfl

end Sys2Proof.Machine

open Sys2Proof Sys2Proof.Machine

/-- Settles O36: each step's performance by its lemma above, and `MxRuns.step` or `MxRuns.early` for how it goes on. -/
theorem matrixSteps : Obligations.MatrixSteps := by
  unfold Obligations.MatrixSteps
  intro s k T C
  dsimp only
  refine ⟨fun n ho hq hst hk => ?_, fun d ho hC hst hk htr => ?_, fun ho hC hst _ hk => ?_, fun hr hf =>
    ⟨fun d parts bs s1 hk hstart hask hsoon hbs => ?_, fun n d q pol s1 hk hlt htrap hput hsoon => ?_,
      fun n d q pol hk hdone => ?_, fun n d parts bs s1 hk htr hlt hask hsoon hbs => ?_, fun d hk hstart hearly => ?_,
      fun n d q pol hk hearly => ?_, fun n d hk hearly => ?_⟩⟩
  · have hstart : T.mxStart C = ({ T with mx := T.mx.setTile n [] } : Team).mxEnd C := by simp only [Team.mxStart, hk]
    have hempty : (T.mxStart C).mx.queue.head? = none := by
      rw [hstart, Team.mxEnd_queue, Mx.setTile_queue, hq]
      rfl
    rw [exec_matrixCommandStart_over ho (by rw [hq]; rfl) hst (by simp [hempty])]
    exact congrArg _ (State.modTeam_congr ho.team hstart)
  · have hstart : T.mxStart C =
        { T with mx := (mxBegin T.mx (Block.of C.nfmt d) d).head fun C => { C with started := true } } := by
      simp only [Team.mxStart, hk]
    rw [exec_matrixCommandStart_over ho hC hst fun c hc => .inl ?_]
    · exact congrArg _ (State.modTeam_congr ho.team hstart)
    · rw [hstart, Mx.head_queue (by rw [mxBegin_queue, hC])] at hc
      rw [← Option.some.inj hc]
      simp [MxCmd.starting, hk, htr]
  · have hstart : T.mxStart C = { T with mx := T.mx.head fun C => { C with started := true } } := by
      obtain ⟨n, d, q, p, hk⟩ | ⟨n, d, hk⟩ := hk <;> simp only [Team.mxStart, hk]
    rw [exec_matrixCommandStart_over ho hC hst fun c hc => .inl ?_]
    · exact congrArg _ (State.modTeam_congr ho.team hstart)
    · rw [hstart, Mx.head_queue hC] at hc
      rw [← Option.some.inj hc]
      obtain ⟨n, d, q, p, hk⟩ | ⟨n, d, hk⟩ := hk <;> simp [MxCmd.starting, hk]
  · have hm := mxSlice_apply hr hk hask hbs
    rw [exec_mxSlice, execMxSlice, hr.step hf (by simp [hr.started, hstart, hk]) hm ?_]
    · rfl
    · dsimp only
      split
      · rw [State.tooSoon_modTeam _ fun T => T.mxEnd_revocable C]
        exact (State.tooSoon_modMx fun x => x.sliced _ _ _).trans hsoon
      · exact (State.tooSoon_modMx fun x => x.sliced _ _ _).trans hsoon
  · have hm := mxStoreRow_apply hr hk hlt htrap hput
    rw [exec_mxStoreTransfer, execMxStoreTransfer, hr.step hf (by simp [hr.started, hk]) hm ?_]
    · rfl
    · rw [State.tooSoon_endsMx, State.tooSoon_modTeam _ fun T => T.mxLanded_revocable C _, hsoon]
  · rw [exec_mxStoreTransfer, execMxStoreTransfer, hr.step hf (by simp [hr.started, hk]) (mxStoreRow_done hk hdone) ?_]
    · rfl
    · rw [State.tooSoon_endsMx, State.tooSoon_self]
  · have hm := mxLoadRow_apply hr hk htr hlt hask hbs
    rw [exec_mxLoadTransfer, execMxLoadTransfer, hr.step hf (by simp [hr.started, hk]) hm ?_]
    · rfl
    · rw [State.tooSoon_endsMx, State.tooSoon_modTeam _ fun T => T.mxLanded_revocable C _]
      exact (State.tooSoon_modMx fun x => x.rowLoaded n (Tile.of d) ((Tile.of d).opnd C.nfmt) C.step bs).trans hsoon
  · obtain ⟨s1, hm, hsoon⟩ := hearly
    rw [exec_mxSlice, execMxSlice, hr.early hf (by simp [hr.started, hstart, hk]) hm hsoon]
  · obtain ⟨s1, hm, hsoon⟩ := hearly
    rw [exec_mxStoreTransfer, execMxStoreTransfer, hr.early hf (by simp [hr.started, hk]) hm hsoon]
  · obtain ⟨s1, hm, hsoon⟩ := hearly
    rw [exec_mxLoadTransfer, execMxLoadTransfer, hr.early hf (by simp [hr.started, hk]) hm hsoon]

end

section
/-!
PROOFS. Doorbells, the admission and completion of launches, and the dealing of job records (O41).
-/

namespace Sys2Proof.Machine

variable {s s1 : State} {ctx id q x : Nat} {L : Launch} {j : Job} {r : LaunchRec} {done : Word64}

/-! ### Completion words -/

/-- A write that reaches neither registers nor a doorbell, with no bad word in memory. -/
theorem State.writePhys_plain {pa : Nat} {bs : List Byte} (hbad : s.badMem = []) (hreg : s.inRegisters pa bs.length = false)
    (hbell : s.doorbellWords pa bs.length = []) (p : BitVec 8) :
    s.writePhys pa bs p = { s with mem := writeBytes s.mem pa bs } := by
  unfold State.writePhys
  dsimp only
  rw [if_neg (Bool.eq_false_iff.mp hreg)]
  split
  · simp only [hbad, List.filter_nil]
  · next hne => exact absurd hbell hne

/-- A completion word of the heap triple, with no interrupt assigned (R293). -/
theorem State.writeCompletion_heap {pa launch agent v : Nat} (hd : done ≠ 0) (hp : HeapAt s ctx done.toNat 8 pa)
    (hbell : s.doorbellWords pa 8 = []) (hreg : s.inRegisters pa 8 = false) (hvec : s.doneVectors = []) :
    s.writeCompletion ctx launch agent done v = { s with mem := writeBytes s.mem pa (leBytes 8 v) } := by
  have hall : (leBytes 8 v).take 8 = leBytes 8 v := List.take_of_length_le (by rw [length_leBytes])
  have hbad (kind : BitVec 2) : s.partBad ⟨done.toNat, 8, .phys pa, kind⟩ = false := by
    simp only [State.partBad, State.badIn, hp.sound, List.any_nil]
  unfold State.writeCompletion runM
  rw [if_neg hd, checkGlobal_heap accStore hp rfl]
  simp only [List.any_cons, List.any_nil, hbad, Bool.or_self, Bool.false_eq_true, if_false, State.storeCompletion, hall,
    List.take_succ_cons, List.take_zero, Part.isRemote]
  rw [State.writePhys_plain hp.sound (by rwa [length_leBytes]) (by rwa [length_leBytes])]
  simp only [State.completionInterrupt, hvec, List.filter_nil, List.map_nil, List.append_nil]

/-! ### Admission -/

theorem need_false : need false s = .error (.trap Cause.illegal 0) := rfl

/-- A record that breaks the table is refused: status 2 (R275, R293). -/
theorem State.admitted_refused (hr : recOk r = false) (prio : Nat) :
    (s.admitted ctx r prio).1 = s.writeCompletion ctx 0 5 r.done 2 := by
  unfold State.admitted runM admitRec
  rw [M.bind_apply, hr, need_false]

/-- R274, R275: what the statement names of the limits of a record. -/
theorem recOk_false (h : r.gang = 0 ∨ 16 < r.gang.toNat ∨ 3 < r.width.toNat ∨ r.scratch.toNat % 16 ≠ 0 ∨
    r.image.toNat % 256 ≠ 0) : recOk r = false := by
  rw [← Bool.not_eq_true]
  intro hok
  simp only [recOk, Bool.and_eq_true, decide_eq_true_eq, beq_iff_eq] at hok
  obtain h | h | h | h | h := h
  · simp [h] at hok
  all_goals omega

theorem exec_launchAdmission_queue {Q : Queue} {va : Word64} {d : List Byte} (hready : s.mgmt.ready = true)
    (hhalt : s.mgmt.thermalHalt = false) (hdev : s.devQueue = []) (hnext : s.nextQueue = some (q, Q)) (hQ : QueueHolds s Q va)
    (hal : va.toNat % 128 = 0)
    (hread : runM (sysRead Q.ctx va 128) { s with sqs := SMap.insert q Q.next s.sqs, lastQueue := q } = .ok (d, s1)) :
    exec .launchAdmission s = .next (s1.admitted Q.ctx (LaunchRec.of d) (LaunchRec.of d).prio).1 := by
  simp only [hdev] at hread
  rw [exec_launchAdmission]
  simp only [execLaunchAdmission, hready, hhalt, Bool.not_true, Bool.or_self, Bool.false_eq_true, if_false, hdev, hnext, hQ.entry,
    hQ.live, hal, ne_eq, not_true_eq_false, hread]

/-! ### Completion -/

theorem exec_launchComplete_over (hL : SMap.find? id s.launches = some L) (hover : s.launchOver id L = true) :
    exec (.launchComplete id) s =
      .next (({ s with launches := SMap.insert id { L with complete := true } s.launches } : State).writeCompletion
        L.ctx id 5 L.record.done (s.doneWord L (if L.faulted then 3 else 1))) := by
  rw [exec_launchComplete]
  simp only [execLaunchComplete, hL, hover, if_true]

theorem State.launchOver_of (hp : L.pending = false) (hc : L.complete = false) (hj : L.job = none)
    (hteams : ∀ e ∈ s.teams, e.2.launch = id → e.2.status = .ended) (ho : s.outstanding id = false) :
    s.launchOver id L = true := by
  have hall : s.teams.all (fun (e : Nat × Team) => e.2.launch != id || e.2.status == .ended) = true := by
    rw [List.all_eq_true]
    intro e he
    by_cases hid : e.2.launch = id
    · simp [hteams e he hid]
    · simp [hid]
  simp only [State.launchOver, hp, hc, hj, hall, ho, Option.all_none, Bool.not_false, Bool.and_self]

theorem State.launchOver_false {T : Team} {n : Nat} (hT : (n, T) ∈ s.teams) (hid : T.launch = id) (hst : T.status ≠ .ended)
    (L : Launch) : s.launchOver id L = false := by
  have hall : s.teams.all (fun (e : Nat × Team) => e.2.launch != id || e.2.status == .ended) = false := by
    rw [List.all_eq_false]
    exact ⟨(n, T), hT, by simp [hid, hst]⟩
  simp only [State.launchOver, hall, Bool.and_false, Bool.false_and]

/-! ### Job records -/

theorem exec_jobChunkTake_next (hL : SMap.find? id s.launches = some L) (hj : L.job = some j) (hp : L.pending = false)
    (hc : L.complete = false) (hlive : (s.ctx L.ctx).live = true) (hnone : (SMap.getD j.runs x (0, 0)).2 = 0)
    (hfence : (s.core x).fenced = false) (hx : x < 768) (hcl : s.fencedClusters = []) (hstr : j.stranded s = none)
    (hmore : j.dealt < j.count) : exec (.jobChunkTake id x) s = .next (modJob s id fun i =>
      { i with dealt := i.dealt + chunkSize (j.count - j.dealt) (s.jobCores id x),
               runs := SMap.insert x (i.dealt, chunkSize (j.count - j.dealt) (s.jobCores id x)) i.runs }) := by
  rw [exec_jobChunkTake]
  simp only [execJobChunkTake, hL, hj, hp, hc, hlive, hnone, State.coreFenced, hfence, hcl, List.contains_nil, hstr, if_pos hmore,
    Bool.not_true, Bool.or_self, Nat.lt_irrefl, decide_false, Nat.not_le.mpr hx, Bool.false_eq_true, if_false]

theorem exec_jobTeamCreate_read {a n base : Nat} {d : List Byte} (hL : SMap.find? id s.launches = some L) (hj : L.job = some j)
    (hc : L.complete = false) (hlive : (s.ctx L.ctx).live = true) (hrun : SMap.getD j.runs x (0, 0) = (a, n + 1))
    (hst : s.staggered L = false) (hporch : s.porchMiB = 0) (hahead : s.workAhead (id, L) = false)
    (hfit : s.fitsAt x [] L.record.room = some base)
    (hread : runM (sysRead L.ctx (j.array + BitVec.ofNat 64 (j.rsize * a)) j.rsize)
      (modJob s id fun i => { i with runs := SMap.insert x (a + 1, n) i.runs }) = .ok (d, s1)) :
    exec (.jobTeamCreate id x) s =
      .next (if s.keepsRoom (((s1.addTeam (s1.jobTeam id L j a d)).gangStarted id).placeTeam s1.nextTeam x base)
          (s.unitsBefore (id, L)) L.priority id
        then ((s1.addTeam (s1.jobTeam id L j a d)).gangStarted id).placeTeam s1.nextTeam x base else s) := by
  rw [exec_jobTeamCreate]
  simp only [execJobTeamCreate, hL, hj, hc, hlive, hrun, hst, hporch, hahead, hfit, Nat.lt_irrefl, decide_false, Bool.false_and,
    Bool.or_self, Nat.add_one_ne_zero, Bool.false_eq_true, if_false, Nat.add_sub_cancel, hread]

end Sys2Proof.Machine

open Sys2Proof Sys2Proof.Machine

/-- Settles O41: the dispatcher's steps by the lemmas above; a refused record's completion word lies in the heap. -/
theorem launchesAndJobs : Obligations.LaunchesAndJobs := by
  unfold Obligations.LaunchesAndJobs
  refine ⟨fun s id q v L => ⟨fun hready hq => ?_, fun Q va d s1 hready hhalt hdev hnext hQ hal hread => ?_,
    fun hL hp hc => ?_, fun hL hp hc hj hteams ho => ?_, fun T n hL hT hid hst => ?_⟩, fun s id x L j hL hj hc hlive =>
    ⟨fun hp hnone hfence hx hcl hstr hmore => ?_, fun a n base d s1 hrun hst hporch hahead hfit hread => ?_⟩⟩
  · rw [exec_launchDoorbell, execLaunchDoorbell]
    simp only [hready, decide_eq_true hq, Bool.and_self, if_true]
  · have hadm := exec_launchAdmission_queue hready hhalt hdev hnext hQ hal hread
    refine ⟨hadm, fun hbad => ⟨fun hdone => ?_, fun pa hdone hheap hbell hreg hvec => ?_⟩⟩
    · rw [hadm, State.admitted_refused (recOk_false hbad), State.writeCompletion, if_pos hdone]
    · rw [hadm, State.admitted_refused (recOk_false hbad), State.writeCompletion_heap hdone hheap hbell hreg hvec]
  · rw [exec_wizinTranslate]
    simp only [execWizinTranslate, hL, hp, hc, Bool.not_false, Bool.and_self, if_true]
  · exact exec_launchComplete_over hL (State.launchOver_of hp hc hj hteams ho)
  · rw [exec_launchComplete]
    simp only [execLaunchComplete, hL, State.launchOver_false hT hid hst L, Bool.false_eq_true, if_false]
  · exact exec_jobChunkTake_next hL hj hp hc hlive hnone hfence hx hcl hstr hmore
  · exact exec_jobTeamCreate_read hL hj hc hlive hrun hst hporch hahead hfit hread

end

section
/-!
PROOFS. The fabric: answers to this device's requests, budgets, requests of other devices, and ports (O43).
-/

namespace Sys2Proof.Machine

variable {s : State} {id k t p : Nat} {r : Remote} {R : InboundRequest} {T : Team} {h : Thread} {C : Copy} {c : MxCmd} {a : RemoteAnswer}
  {bs : List Byte} {n : Nat}

/-! ### Answers -/

/-- The device when a request has left it. -/
def State.unasked (s : State) (id : Nat) : State := { s with remotes := SMap.erase id s.remotes }

/-- A request of a live context has its answer. -/
structure Asked (s : State) (id : Nat) (r : Remote) (T : Team) : Prop where
  found : SMap.find? id s.remotes = some r
  live : (s.ctx r.ctx).live = true
  team : s.team? r.team = some T

theorem Asked.unasked_team (ha : Asked s id r T) : (s.unasked id).team? r.team = some T := ha.team

theorem Asked.dead_false (ha : Asked s id r T) : ¬(!((s.unasked id).ctx r.ctx).live) = true := by
  rw [show ((s.unasked id).ctx r.ctx).live = true from ha.live]
  decide

theorem Asked.load (ha : Asked s id r T) (hagent : r.agent = 0) (hop : r.op = .load n) :
    s.answerRemote id a = (s.unasked id).answerLoad id r n a := by
  unfold State.answerRemote
  rw [ha.found]
  dsimp only
  rw [hagent, hop]
  exact (if_neg (by decide)).trans (if_neg ha.dead_false)

theorem Asked.store (ha : Asked s id r T) (hagent : r.agent = 0) (hop : r.op = .store bs) :
    s.answerRemote id a =
      if RemoteAnswer.ok a then s.unasked id else (s.unasked id).noteFailure ⟨r.team, r.origin.who⟩ r.addr := by
  unfold State.answerRemote
  rw [ha.found]
  dsimp only
  rw [hagent, hop]
  exact (if_neg (by decide)).trans (if_neg ha.dead_false)

theorem Asked.atomic (ha : Asked s id r T) (hagent : r.agent = 0) {op : BitVec 3} {x : Word64} (hop : r.op = .atomic op x) :
    s.answerRemote id a = if RemoteAnswer.ok a then (s.unasked id).answerAtomic id r op x a
      else ((s.unasked id).answerAtomic id r op x a).noteFailure ⟨r.team, r.origin.who⟩ r.addr := by
  unfold State.answerRemote
  rw [ha.found]
  dsimp only
  rw [hagent, hop]
  exact (if_neg (by decide)).trans (if_neg ha.dead_false)

/-- How many bytes a request asked for. -/
def RemoteOp.asks : RemoteOp → Nat
  | .load n => n
  | _ => 0

theorem Asked.copy (ha : Asked s id r T) (hagent : r.agent = 2) :
    s.answerRemote id a = (s.unasked id).answerCopy id r r.op.asks a := by
  unfold State.answerRemote
  rw [ha.found]
  dsimp only
  rw [hagent]
  exact (if_neg (by decide)).trans (if_neg ha.dead_false)

theorem Asked.mx (ha : Asked s id r T) (hagent : r.agent = 3) :
    s.answerRemote id a = (s.unasked id).answerMx id r r.op.asks a := by
  unfold State.answerRemote
  rw [ha.found]
  dsimp only
  rw [hagent]
  exact (if_neg (by decide)).trans (if_neg ha.dead_false)

theorem exec_remoteAnswer_sent (hr : SMap.find? id s.remotes = some r) (hs : r.sent = true) (a : RemoteAnswer) :
    exec (.remoteAnswer id a) s = .next (s.answerRemote id a) := by
  rw [exec_remoteAnswer, execRemoteAnswer, hr, if_pos (show Option.any (·.sent) (some r) = true from hs)]

theorem exec_remoteAnswer_unsent (hr : SMap.find? id s.remotes = some r) (hs : r.sent = false) (a : RemoteAnswer) :
    exec (.remoteAnswer id a) s = .next s := by
  rw [exec_remoteAnswer, execRemoteAnswer, hr, if_neg (Bool.eq_false_iff.mp (show Option.any (·.sent) (some r) = false from hs))]

/-! ### Failures of a thread's requests -/

/-- The thread when a request of its to an address has failed (R166). -/
def Thread.failedAt (h : Thread) (addr : Word64) : Thread := { h with remoteFail := some (h.remoteFail.getD addr) }

theorem State.reportLost_live {u : State} {U : Team} (hU : u.team? k = some U) (hh : U.thread? t = some h) (hl : h.ended = false) :
    u.reportLost k (.thread t) = u := by
  simp only [State.reportLost, hU, hh, hl]

/-- A failure of a thread that has not ended is kept for its FENCE. -/
theorem State.noteFailure_live {u : State} {U : Team} (hU : u.team? k = some U) (hh : U.thread? t = some h) (hl : h.ended = false)
    (addr : Word64) : u.noteFailure ⟨k, .thread t⟩ addr = u.modThread k t (·.failedAt addr) :=
  State.reportLost_live (State.team?_modThread hU _) (Team.thread?_modThread hh (·.failedAt addr)) hl

/-! ### Loads -/

theorem later_g {ds : List (BitVec 8)} {u : State} {U : Team} (hU : u.team? k = some U) (hh : U.thread? t = some h)
    (hd : ∀ d ∈ ds, d.toNat < 220) (n : Nat) (mem : Bool) (vs : List Word64) :
    later ⟨k, .thread t⟩ ds (.ready vs) n mem u = .ok ((), u.modThread k t fun _ => h.await ds n mem vs) := by
  have hplace : resultPlace ⟨k, .thread t⟩ ds u = .ok ((0, none), u) := resultPlace_g (c := ⟨k, [t], false, 0, 0⟩) hd
  have hwr : wrList ⟨k, .thread t⟩ ds vs u = .ok ((), u.modThread k t (·.putAll ds vs)) :=
    wrList_g (c := ⟨k, [t], false, 0, 0⟩) hd vs u
  have hok : ds.forM (destOk ⟨k, .thread t⟩) u = .ok ((), u) := destOk_g (c := ⟨k, [t], false, 0, 0⟩) hd
  have hpend : pendOf ⟨k, .thread t⟩ u = .ok (h.pend, u) := by
    simp only [pendOf, M.bind_apply, getThread_apply hU hh, M.pure_apply]
  have hmod (f : Thread → Thread) : u.modThread k t f = u.modThread k t fun _ => f h :=
    State.modThread_congr (c := ⟨k, [t], false, 0, 0⟩) hU hh rfl
  unfold later
  rw [M.bind_apply, hplace]
  cases n with
  | zero =>
    simp only [hwr]
    rw [hmod (·.putAll ds vs)]
    rfl
  | succ n =>
    simp only [M.bind_apply, hok, hpend]
    exact congrArg (fun s => Except.ok ((), s)) (hmod fun h' => { h' with pend := h.pend ++ _ })

/-- R67, R155: a load that has all its bytes. -/
theorem finishLoad_ld {l : BitVec 4} {d a : BitVec 8} {size : BitVec 3} {o : BitVec 2} {u : State} {U : Team}
    (hU : u.team? k = some U) (hh : U.thread? t = some h) (hd : ∀ e ∈ loadDest d size, e.toNat < 220) (bs : List Byte) :
    finishLoad ⟨k, .thread t⟩ (.ld d a l size o) bs u =
      .ok ((), u.modThread k t fun _ => (h.expectAll (loadDest d size) l (loadVals false size bs)).advance 4) := by
  have hload : loaded ⟨k, .thread t⟩ d size l.toNat bs u =
      .ok ((), u.modThread k t fun _ => h.expectAll (loadDest d size) l (loadVals false size bs)) :=
    (later_g hU hh hd l.toNat true _).trans (by rw [Thread.await_mem]; rfl)
  show (loaded ⟨k, .thread t⟩ d size l.toNat bs >>= fun _ => complete ⟨k, .thread t⟩ 4 none) u = _
  rw [M.bind_apply, hload]
  show Except.ok ((), State.modThread _ _ _ _) = _
  rw [State.modThread_modThread]

theorem Asked.waitAt (ha : Asked s id r T) (hwho : r.origin.who = .thread t) (hh : T.thread? t = some h) :
    (s.unasked id).waitAt ⟨r.team, r.origin.who⟩ = h.wait := by
  simp only [State.waitAt, hwho, State.thread?, ha.unasked_team, Option.bind_some, hh]

/-- A load of a thread that waits for a request. -/
structure Loads (s : State) (id : Nat) (r : Remote) (T : Team) (t : Nat) (h : Thread) (i : Instr) (word : Word) (addr : Word64)
    (parts : List LoadPart) : Prop extends Asked s id r T where
  who : r.origin.who = .thread t
  thread : T.thread? t = some h
  wait : h.wait = some (.load i word addr parts)
  part : .asked id ∈ parts

theorem Loads.performed {l : BitVec 4} {d a : BitVec 8} {size : BitVec 3} {o : BitVec 2} {word : Word} {addr : Word64}
    {parts : List LoadPart} {all : List Byte} (hl : Loads s id r T t h (.ld d a l size o) word addr parts)
    (hall : partsReady (parts.map (LoadPart.answer id (padTo n bs))) = some all)
    (hbad : partsBad (parts.map (LoadPart.answer id (padTo n bs))) = none) (hd : ∀ e ∈ loadDest d size, e.toNat < 220) :
    (s.unasked id).answerLoad id r n (.performed bs) = (s.unasked id).modThread r.team t fun h =>
      (({ h with wait := none } : Thread).expectAll (loadDest d size) l (loadVals false size all)).advance 4 := by
  have hT := State.team?_modThread hl.team (t := t) fun h => { h with wait := none }
  have hh := Team.thread?_modThread hl.thread fun h => { h with wait := none }
  have hfin := finishLoad_ld (a := a) (o := o) (l := l) (u := (s.unasked id).modThread r.team t fun h => { h with wait := none })
    hT hh hd all
  unfold State.answerLoad
  dsimp only
  rw [hl.toAsked.waitAt hl.who hl.thread, hl.wait]
  dsimp only
  rw [if_neg (by simpa using hl.part), hall, hbad]
  show ((s.unasked id).setWaitAt ⟨r.team, r.origin.who⟩ none).goOn _ = _
  rw [hl.who]
  show State.goOn ((s.unasked id).modThread r.team t fun h => { h with wait := none }) _ = _
  simp only [State.goOn, runM, hfin, State.modThread_modThread]
  exact State.modThread_congr (c := ⟨r.team, [t], false, 0, 0⟩) hl.unasked_team hl.thread rfl

theorem Loads.refused {i : Instr} {word : Word} {addr : Word64} {parts : List LoadPart}
    (hl : Loads s id r T t h i word addr parts) : (s.unasked id).answerLoad id r n .refused =
      ((s.unasked id).countIssue ⟨r.team, .thread t⟩).takeTrap r.team t ⟨Cause.remoteAccess, addr, h.pc, word, some i⟩ := by
  unfold State.answerLoad
  dsimp only
  rw [hl.toAsked.waitAt hl.who hl.thread, hl.wait]
  dsimp only
  rw [if_neg (by simpa using hl.part)]
  show State.loadFails _ ⟨r.team, r.origin.who⟩ _ _ _ _ = _
  rw [hl.who]
  have hthread : (s.unasked id).thread? r.team t = some h := by
    rw [State.thread?, hl.unasked_team, Option.bind_some, hl.thread]
  simp only [State.loadFails, hthread]

/-! ### Atomics -/

/-- A word of an answer, delivered to a register (R164). -/
theorem atomVals_word {op : BitVec 3} (h1 : op ≠ 1) (h7 : op ≠ 7) (x : Word64) (bs : List Byte) (d : BitVec 8) :
    atomVals false op x (.performed bs) [d] = [(BitVec.ofNat 32 (leNat (padTo 4 bs))).setWidth 64] := by
  have hcases : op = 0#3 ∨ op = 2#3 ∨ op = 3#3 ∨ op = 4#3 ∨ op = 5#3 ∨ op = 6#3 := by
    revert h1 h7
    revert op
    decide
  have hlo (v : Nat) : ((BitVec.ofNat 64 v).setWidth 32).setWidth 64 = (BitVec.ofNat 32 v).setWidth 64 := by
    rw [BitVec.setWidth_ofNat_of_le (by decide)]
  obtain rfl | rfl | rfl | rfl | rfl | rfl := hcases <;> exact congrArg (fun v => [v]) (hlo _)

theorem State.answerAtomic_apply {u : State} {U : Team} (hU : u.team? r.team = some U) (hh : U.thread? t = some h)
    (hwho : r.origin.who = .thread t) {op : BitVec 3} {x : Word64} {d : BitVec 8} {n e : Nat} {m : Bool} {via : Option Nat}
    (hp : h.pend = [⟨[d], .remote id, n, m, e, via⟩]) (a : RemoteAnswer) :
    u.answerAtomic id r op x a = u.modThread r.team t fun h =>
      { h with pend := [⟨[d], .ready (atomVals false op x a [d]), n, m, e, via⟩] } := by
  unfold State.answerAtomic
  rw [hwho]
  refine State.modThread_congr (c := ⟨r.team, [t], false, 0, 0⟩) hU hh ?_
  simp only [hp, List.map_cons, List.map_nil, Pending.answered, if_true]

/-! ### Copies and matrix commands -/

/-- The one copy of a team asked for something. -/
theorem Asked.copyHit (ha : Asked s id r T) {k : Nat} (hC : T.copies = [(k, C)]) (hhit : .asked id ∈ C.parts ∨ id ∈ C.out)
    (a : RemoteAnswer) : (∀ bs C', a = .performed bs →
      { C with parts := C.parts.map (LoadPart.answer id (padTo n bs)), out := C.out.filter (· != id) } = C' →
      (s.unasked id).answerCopy id r n a =
        if C.out.contains id && C'.out.isEmpty then
          ((s.unasked id).setTeam r.team { T with copies := [(k, C')] }).goOn (landPiece r.team k C' C'.piece.bytes)
        else (s.unasked id).setTeam r.team { T with copies := [(k, C')] }) ∧
    (RemoteAnswer.ok a = false → (s.unasked id).answerCopy id r n a =
      ((s.unasked id).sealOrigin r.team C.origin).abandonCopy r.team k C Cause.remoteAccess r.addr) := by
  have hfind : List.find? (fun e : Nat × Copy => e.2.parts.contains (.asked id) || e.2.out.contains id) [(k, C)] = some (k, C) := by
    rw [List.find?_cons_of_pos]
    simpa using hhit
  have hins (C' : Copy) : SMap.insert k C' [(k, C)] = [(k, C')] := by
    simp only [SMap.insert, Nat.lt_irrefl, if_false, if_true]
  unfold State.answerCopy
  rw [ha.unasked_team]
  dsimp only
  rw [hC, hfind]
  refine ⟨fun bs C' hbs hC' => ?_, fun hno => ?_⟩
  · rw [hbs]
    dsimp only
    rw [hins, ← hC']
  · cases a with
    | performed bs => cases hno
    | refused | expired => rfl

theorem Asked.copyLoaded (ha : Asked s id r T) {k : Nat} (hC : T.copies = [(k, C)]) (hparts : C.parts = [.asked id])
    (hout : C.out = []) : (s.unasked id).answerCopy id r n (.performed bs) =
      (s.unasked id).setTeam r.team { T with copies := [(k, { C with parts := [.bytes (padTo n bs)] })] } := by
  rw [(ha.copyHit hC (.inl (by simp [hparts])) _).1 bs { C with parts := [.bytes (padTo n bs)] } rfl
    (by simp [hparts, hout, LoadPart.answer]), hout]
  rfl

theorem Asked.copyLanded (ha : Asked s id r T) {k : Nat} (hC : T.copies = [(k, C)]) {ws : List Byte} (hparts : C.parts = [.bytes ws])
    (hout : C.out = [id]) : (s.unasked id).answerCopy id r n (.performed []) =
      let C' : Copy := { C with out := [] }
      let s1 := ((s.unasked id).setTeam r.team { T with copies := [(k, C')] }).modTeam r.team (·.landed k C' C.piece.bytes)
      if C.total ≤ C.done + C.piece.bytes then s1.finishes r.team C.origin (·.copied k C') else s1 := by
  have hsame : ({ C with parts := C.parts.map (LoadPart.answer id (padTo n [])), out := C.out.filter (· != id) } : Copy) =
      { C with out := [] } := by
    simp [hparts, hout, LoadPart.answer]
  rw [(ha.copyHit hC (.inr (by simp [hout])) _).1 [] _ rfl hsame, hout]
  simp only [List.contains_cons, beq_self_eq_true, Bool.true_or, List.isEmpty_nil, Bool.and_self, if_true, State.goOn, runM,
    landPiece_apply]
  rfl

/-- The state when a team's one copy has been given up for a failed request. -/
def State.copyGone (s : State) (k : Nat) (T : Team) (C : Copy) (addr : Word64) : State :=
  match C.barrier with
  | some j => (s.sealOrigin k C.origin).modTeam k fun T => Team.abandonOn { T with copies := [] } j (some addr)
  | none => ((s.sealOrigin k C.origin).modTeam k fun T => { T with copies := [] }).report4 T C.origin 2 Cause.remoteAccess addr

theorem Team.sealed_copies (T : Team) (o : Origin) : (T.sealed o).copies = T.copies := by
  unfold Team.sealed
  split <;> rfl

theorem Asked.copyGone (ha : Asked s id r T) {k : Nat} (hC : T.copies = [(k, C)]) (hhit : .asked id ∈ C.parts ∨ id ∈ C.out) :
    (s.unasked id).answerCopy id r n .refused = (s.unasked id).copyGone r.team T C r.addr := by
  have hT := State.team?_sealOrigin ha.unasked_team C.origin
  have hsealed : SMap.erase k (T.sealed C.origin).copies = [] := by
    rw [Team.sealed_copies, hC]
    simp only [SMap.erase, if_true]
  rw [(ha.copyHit hC hhit _).2 rfl, abandonCopy_sealed ha.unasked_team (by decide)]
  unfold State.copyGone
  cases C.barrier with
  | some j => exact State.modTeam_congr hT (by rw [hsealed])
  | none =>
    exact congrArg (fun u => State.report4 u T C.origin 2 Cause.remoteAccess r.addr) (State.modTeam_congr hT (by rw [hsealed]))

/-- The one matrix command of a team asked for something. -/
theorem Asked.mxLoaded (ha : Asked s id r T) (hq : T.mx.queue = [c]) (hparts : c.parts = [.asked id]) (hout : c.out = []) :
    (s.unasked id).answerMx id r n (.performed bs) = (s.unasked id).modTeam r.team fun T =>
      { T with mx := { T.mx with queue := [{ c with parts := [.bytes (padTo n bs)] }] } } := by
  have hhead : ((s.unasked id).team? r.team).bind (·.mx.queue.head?) = some c := by
    rw [ha.unasked_team, Option.bind_some, hq]
    rfl
  have hasked : (!c.parts.contains (.asked id) && !c.out.contains id) = false := by simp [hparts]
  unfold State.answerMx
  rw [hhead]
  dsimp only
  rw [hasked]
  simp only [hout, hparts, List.map_cons, List.map_nil, LoadPart.answer, if_true, List.filter_nil, List.contains_nil, Bool.false_and,
    Bool.false_eq_true, if_false]
  refine State.modTeam_congr ha.unasked_team ?_
  simp only [Mx.head, hq]

theorem Asked.mxGone (ha : Asked s id r T) (hq : T.mx.queue = [c]) (hhit : .asked id ∈ c.parts ∨ id ∈ c.out) :
    (s.unasked id).answerMx id r n .refused =
      let s1 := ((s.unasked id).sealOrigin r.team c.origin).modTeam r.team fun T => T.mxAbandon c Cause.remoteAccess r.addr
      if c.barrier = none then s1.report4 T c.origin 3 Cause.remoteAccess r.addr else s1 := by
  have hT := State.team?_sealOrigin ha.unasked_team c.origin
  have hhead : ((s.unasked id).team? r.team).bind (·.mx.queue.head?) = some c := by
    rw [ha.unasked_team, Option.bind_some, hq]
    rfl
  have hasked : (!c.parts.contains (.asked id) && !c.out.contains id) = false := by
    obtain h | h := hhit <;> simp [h]
  have hreport (u : State) : u.report4 (T.sealed c.origin) c.origin 3 Cause.remoteAccess r.addr =
      u.report4 T c.origin 3 Cause.remoteAccess r.addr := by
    unfold Team.sealed
    split <;> rfl
  unfold State.answerMx
  rw [hhead]
  dsimp only
  rw [hasked]
  show State.mxAbandon _ _ _ _ _ = _
  unfold State.mxAbandon
  rw [hT]
  dsimp only
  rw [if_neg (by decide), hreport]
  have hset : ((s.unasked id).sealOrigin r.team c.origin).setTeam r.team ((T.sealed c.origin).mxAbandon c Cause.remoteAccess r.addr) =
      ((s.unasked id).sealOrigin r.team c.origin).modTeam r.team fun T => T.mxAbandon c Cause.remoteAccess r.addr :=
    State.modTeam_congr hT rfl
  rw [hset]
  cases c.barrier <;> rfl

/-! ### Requests of other devices -/

/-- A request that this device refuses, counted in INFAULT (R313, R349). -/
theorem State.answer_refused (s : State) (dev : Nat) : s.answer dev .refused =
    { s with answers := s.answers ++ [(dev, .refused)], mgmt := { s.mgmt with infault := s.mgmt.infault + 1 } } := rfl

theorem exec_inbound_first (hr : s.mgmt.ready = true) (hb : R.budget ≠ 0) (hfirst : ∀ e ∈ s.inbound, e.2.req.dev ≠ R.dev) :
    (∀ u, s.tryInbound R none = .ok u → exec (.inboundRemoteRequest R) s = .next u) ∧
      (∀ w, s.tryInbound R none = .error w → exec (.inboundRemoteRequest R) s = .next { s with
        inbound := SMap.insert s.nextRemote ⟨R, s.clock, w⟩ s.inbound, nextRemote := s.nextRemote + 1 }) := by
  have hany : (s.inbound.any fun (e : Nat × Inbound) => e.2.req.dev == R.dev) = false := by
    rw [List.any_eq_false]
    intro e he
    simpa using hfirst e he
  refine ⟨fun u hu => ?_, fun w hw => ?_⟩ <;> rw [exec_inboundRemoteRequest] <;>
    simp only [execInboundRemoteRequest, hr, Bool.not_true, Bool.false_eq_true, if_false, hb, hany]
  · rw [hu]
  · rw [hw]

theorem State.tryInbound_dead (hl : (s.ctx R.ctx.toNat).live = false) :
    s.tryInbound R none = .ok (s.answer R.dev.toNat .refused) := by
  simp only [State.tryInbound, hl, Bool.not_false, Bool.true_or, if_true]

theorem State.tryInbound_live (hl : (s.ctx R.ctx.toNat).live = true) (hf : R.ctx.toNat ∉ s.fencedCtxs) :
    (∀ bs u, runM (serveRequest R) s = .ok (bs, u) → s.tryInbound R none = .ok (u.answer R.dev.toNat (.performed bs))) ∧
    (∀ cause a, runM (serveRequest R) s = .error (.trap cause a) → s.tryInbound R none = .ok (s.answer R.dev.toNat .refused)) ∧
    (∀ a bit, runM (serveRequest R) s = .error (.page a bit) → s.tryInbound R none = s.refuseRecorded R a) ∧
    (runM (serveRequest R) s = .error .retry → s.tryInbound R none = .error none) := by
  have hfence : s.fencedCtxs.contains R.ctx.toNat = false := by simpa using hf
  refine ⟨fun bs u hu => ?_, fun cause a hu => ?_, fun a bit hu => ?_, fun hu => ?_⟩ <;>
    simp only [State.tryInbound, hl, hfence, Bool.not_true, Bool.or_self, Bool.false_eq_true, if_false, hu]

/-! ### Ports -/

theorem State.modPort_eq (hp : p < 18) (f : Port → Port) :
    s.modPort p f = { s with ports := SMap.insert p (f (SMap.getD s.ports p .fresh)) s.ports } := by
  rw [State.modPort, if_pos hp]

end Sys2Proof.Machine

open Sys2Proof Sys2Proof.Machine

/-- Settles O43: each answer by the lemma above for its agent, each inbound request by `State.tryInbound_live`. -/
theorem fabric : Obligations.Fabric := by
  unfold Obligations.Fabric
  intro s id p r R T
  dsimp only
  refine ⟨fun hr hlive hT => ?_, fun hr hs ans => exec_remoteAnswer_unsent hr hs ans, fun hr hbudget => ?_, fun hready => ?_,
    fun hready => ⟨fun hb => ?_, fun e q hb hin hdev => ?_, fun hb hfirst => ?_⟩, fun hp => ?_⟩
  · have ha : Asked s id r T := ⟨hr, hlive, hT⟩
    refine ⟨fun t h hagent hwho hh hl => ⟨fun bs hop => ⟨fun hs => ?_, fun hs => ?_, fun hs hspent => ?_⟩,
      fun n d a l size o word addr parts hs hop hw hpart => ?_, fun op x d n m e via hs hop h1 h7 hp => ?_⟩,
      fun k C hs hagent hC => ⟨fun n bs hop hparts hout => ?_, fun bs ws hop hparts hout => ?_, fun hhit => ?_⟩,
      fun C hs hagent hq => ⟨fun n bs hop hparts hout => ?_, fun hhit => ?_⟩⟩
    · rw [exec_remoteAnswer_sent hr hs, ha.store hagent hop]
      rfl
    · rw [exec_remoteAnswer_sent hr hs, ha.store hagent hop, hwho]
      exact congrArg _ (State.noteFailure_live ha.unasked_team hh hl r.addr)
    · have hspends : s.spent r.budget r.since = true := decide_eq_true hspent
      rw [exec_requestBudgetExpiry]
      simp only [execRequestBudgetExpiry, hr, hs, hspends, Bool.not_false, Bool.and_self, if_true, ha.store hagent hop, hwho]
      exact congrArg _ (State.noteFailure_live ha.unasked_team hh hl r.addr)
    · have hloads : Loads s id r T t h (.ld d a l size o) word addr parts := ⟨ha, hwho, hh, hw, hpart⟩
      refine ⟨fun bs all hall hbad hd => ?_, ?_⟩
      · rw [exec_remoteAnswer_sent hr hs, ha.load hagent hop, hloads.performed hall hbad hd]
        rfl
      · rw [exec_remoteAnswer_sent hr hs, ha.load hagent hop, hloads.refused]
        rfl
    · have happly (a : RemoteAnswer) := State.answerAtomic_apply (x := x) (op := op) ha.unasked_team hh hwho hp a
      refine ⟨fun bs => ?_, ?_⟩
      · rw [exec_remoteAnswer_sent hr hs, ha.atomic hagent hop, happly, atomVals_word h1 h7]
        rfl
      · rw [exec_remoteAnswer_sent hr hs, ha.atomic hagent hop, happly, hwho]
        exact congrArg _ (State.noteFailure_live (State.team?_modThread ha.unasked_team _) (Team.thread?_modThread hh _) hl r.addr)
    · rw [exec_remoteAnswer_sent hr hs, ha.copy hagent, hop]
      exact congrArg _ (ha.copyLoaded hC hparts hout)
    · rw [exec_remoteAnswer_sent hr hs, ha.copy hagent, hop]
      exact congrArg _ (ha.copyLanded hC hparts hout)
    · rw [exec_remoteAnswer_sent hr hs, ha.copy hagent, ha.copyGone hC hhit]
      rfl
    · rw [exec_remoteAnswer_sent hr hs, ha.mx hagent, hop]
      exact congrArg _ (ha.mxLoaded hq hparts hout)
    · rw [exec_remoteAnswer_sent hr hs, ha.mx hagent, ha.mxGone hq hhit]
      rfl
  · have hheld : (!r.sent && s.spent r.budget r.since) = false := by
      obtain h | h := hbudget
      · simp [h]
      · have hlt : s.spent r.budget r.since = false := decide_eq_false (Nat.not_le.mpr h)
        simp [hlt]
    rw [exec_requestBudgetExpiry]
    simp only [execRequestBudgetExpiry, hr, hheld, Bool.false_eq_true, if_false]
  · rw [exec_inboundRemoteRequest]
    simp only [execInboundRemoteRequest, hready, Bool.not_false, if_true]
  · rw [exec_inboundRemoteRequest]
    simp only [execInboundRemoteRequest, hready, Bool.not_true, Bool.false_eq_true, if_false, hb, if_true]
    rfl
  · have hany : (s.inbound.any fun (e : Nat × Inbound) => e.2.req.dev == R.dev) = true :=
      List.any_eq_true.mpr ⟨(e, q), hin, by simp [hdev]⟩
    rw [exec_inboundRemoteRequest]
    simp only [execInboundRemoteRequest, hready, Bool.not_true, Bool.false_eq_true, if_false, hb, hany, if_true]
  · obtain ⟨hok, hwait⟩ := exec_inbound_first hready hb hfirst
    refine ⟨fun hl => hok _ (State.tryInbound_dead hl), fun hl hf => ?_⟩
    obtain ⟨hperformed, htrap, hpage, hretry⟩ := State.tryInbound_live hl hf
    refine ⟨fun bs s1 h1 => hok _ (hperformed bs s1 h1), fun cause a h1 => hok _ (htrap cause a h1), fun a bit h1 =>
      ⟨fun s1 n hrec => hok _ ?_, fun hrec => hwait _ ?_⟩, fun h1 => hwait _ (hretry h1)⟩
    · rw [hpage a bit h1, State.refuseRecorded, hrec]
      rfl
    · rw [hpage a bit h1, State.refuseRecorded, hrec]
  · refine ⟨?_, rfl, fun hsent => ⟨?_, ?_⟩, fun hrem hport hs hheld => ?_⟩
    · rw [exec_linkPause, execLinkPause, State.modPort_eq hp]
    · rw [exec_linkResume, execLinkResume, List.filter_eq_nil_iff.mpr (fun e he => ?_), List.foldl_nil, State.modPort_eq hp]
      by_cases hport : e.2.port = p
      · simp [hsent e he hport]
      · simp [hport]
    · rw [exec_portFailure, execPortFailure, if_neg (Nat.not_le.mpr hp), List.filter_eq_nil_iff.mpr (fun e he => ?_),
        List.foldl_nil, State.modPort_eq hp]
      by_cases hport : e.2.port = p
      · simp [hsent e he hport]
      · simp [hport]
    · have hlist : [(id, r)].filter (fun (e : Nat × Remote) => e.2.port == p && !e.2.sent && decide (p < 18)) = [(id, r)] := by
        simp [hport, hs, hp]
      have hspent (f : Port → Port) : (s.modPort p f).spent r.budget r.since = false := by
        rw [State.modPort_eq hp]
        exact decide_eq_false (Nat.not_le.mpr hheld)
      rw [exec_linkResume, execLinkResume, hrem, hlist]
      simp only [List.foldl_cons, List.foldl_nil, hspent, Bool.false_eq_true, if_false]
      rw [State.modPort_eq hp]
      simp only [hrem, SMap.modify, if_true]
      rfl

end

section
/-!
PROOFS. Collectives: doorbells, chunks, the arithmetic of a chunk, and completion (O44).
-/

namespace Sys2Proof.Machine

variable {s u : State} {ctx id va m n lo : Nat} {x : Collective} {c : Coll} {ps : List PeerContribution} {bs : List Byte}
  {rs : List (Nat × Nat)}

/-! ### Spans of the heap window -/

/-- What the heap window says of an access does not depend on what memory holds. -/
theorem HeapAt.of_mem {pa : Nat} {cells : List Host.Cell} (h : HeapAt s ctx va n pa) : HeapAt { s with mem := cells } ctx va n pa :=
  ⟨h.settled, h.canon, h.lo, h.hi, h.phys, h.exists_, h.sound⟩

theorem HeapAt.of_collectives {pa : Nat} {q : SMap Collective} (h : HeapAt s ctx va n pa) :
    HeapAt { s with collectives := q } ctx va n pa :=
  ⟨h.settled, h.canon, h.lo, h.hi, h.phys, h.exists_, h.sound⟩

theorem chunkStep.collReadGo_heap (hrs : ∀ r ∈ rs, HeapAt s ctx r.1 r.2 (s.heapPa ctx r.1)) :
    chunkStep.collReadGo ctx rs s =
      .ok (rs.flatMap fun r => (List.range r.2).map fun i => s.physByte (s.heapPa ctx r.1 + i), s) := by
  induction rs with
  | nil => rfl
  | cons r rs ih =>
    obtain ⟨va, n⟩ := r
    have hat : HeapAt s ctx va n (s.heapPa ctx va) := hrs (va, n) (List.mem_cons_self ..)
    have hrest := ih fun r hr => hrs r (List.mem_cons_of_mem _ hr)
    have hcheck := checkGlobal_heap (need := ⟨true, false, false⟩) accEngine hat rfl
    simp only [chunkStep.collReadGo, M.bind_apply, hcheck, checkWords_sound hat.sound, M.get_apply,
      M.pure_apply, hrest, List.take_succ_cons, List.take_zero, partsBytes, List.flatMap_cons, List.flatMap_nil, List.append_nil]

theorem chunkStep.collRead_heap (h : HeapSpan s ctx va n) : chunkStep.collRead ctx va n s = .ok (s.spanBytes ctx va n, s) :=
  chunkStep.collReadGo_heap h

/-- Memory, and the bytes that are left, after the page runs of a write (R321). -/
def State.spanRun (s : State) (ctx : Nat) (m : List Host.Cell × List Byte) (r : Nat × Nat) : List Host.Cell × List Byte :=
  (writeBytes m.1 (s.heapPa ctx r.1) (m.2.take r.2), m.2.drop r.2)

/-- The bytes that go to a page run are as many as its length says. -/
theorem collWriteGo_heap (fuel : Nat) (hlen : bs.length = n)
    (hspan : ∀ r ∈ pageRuns fuel va n, HeapAt s ctx r.1 r.2 (s.heapPa ctx r.1) ∧
      s.doorbellWords (s.heapPa ctx r.1) r.2 = [] ∧ s.inRegisters (s.heapPa ctx r.1) r.2 = false) :
    collWriteGo ctx (pageRuns fuel va n) bs s =
      .ok ((), { s with mem := ((pageRuns fuel va n).foldl (s.spanRun ctx) (s.mem, bs)).1 }) := by
  induction fuel generalizing va n bs s with
  | zero => rfl
  | succ fuel ih =>
    by_cases hn : n = 0
    · simp only [pageRuns, if_pos hn]
      rfl
    · obtain ⟨j, hj⟩ : ∃ j, j = min n (65536 - va % 65536) := ⟨_, rfl⟩
      have hruns : pageRuns (fuel + 1) va n = (va, j) :: pageRuns fuel (va + j) (n - j) := by
        simp only [pageRuns, if_neg hn, hj]
      rw [hruns] at hspan ⊢
      obtain ⟨hat, hbell, hreg⟩ := hspan (va, j) (List.mem_cons_self ..)
      have htake : (bs.take j).length = j := by
        rw [List.length_take]
        omega
      have hcheck := checkGlobal_heap (need := ⟨false, true, false⟩) accEngine hat rfl
      have hput := State.writePhys_plain (bs := bs.take j) hat.sound (by rwa [htake]) (by rwa [htake]) 0
      have hrest := ih (s := { s with mem := writeBytes s.mem (s.heapPa ctx va) (bs.take j) }) (va := va + j) (bs := bs.drop j)
        (n := n - j) (by rw [List.length_drop, hlen]) fun r hr => by
          obtain ⟨hr1, hr2, hr3⟩ := hspan r (List.mem_cons_of_mem _ hr)
          exact ⟨hr1.of_mem, hr2, hr3⟩
      simp only [collWriteGo, M.bind_apply, hcheck, M.modify_apply, hput, hrest, List.foldl_cons]
      rfl

theorem collWrite_heap (h : PlainSpan s ctx va bs.length) :
    collWrite ctx va bs s = .ok ((), { s with mem := s.spanWrite ctx va bs }) :=
  collWriteGo_heap (bs.length / 65536 + 2) rfl fun r hr => ⟨h.1 r hr, h.2 r hr⟩

/-! ### One chunk -/

theorem mapM_collRead {os : List (Nat × Nat)} (f : Nat × Nat → Nat) (h : ∀ o ∈ os, HeapSpan s ctx (f o) o.2) :
    os.mapM (fun o => chunkStep.collRead ctx (f o) o.2) s = .ok (os.map fun o => s.spanBytes ctx (f o) o.2, s) := by
  induction os with
  | nil => rfl
  | cons o os ih =>
    have ho := chunkStep.collRead_heap (h o (List.mem_cons_self ..))
    have hos := ih fun o' h' => h o' (List.mem_cons_of_mem _ h')
    rw [List.mapM_cons]
    simp only [M.bind_apply, ho, hos, M.pure_apply, List.map_cons]

/-- What this device's buffers show of a chunk, and what comes of it. -/
structure ChunkReady (s : State) (x : Collective) (c : Coll) (m : Nat) (ps : List PeerContribution) (lo n : Nat)
    (xs : List (Nat × List Byte)) : Prop where
  own : HeapSpan s x.ctx (c.send + (c.ownRun m lo n).1) (c.ownRun m lo n).2
  others : ∀ o ∈ c.otherRuns m lo n, HeapSpan s x.ctx (c.send + o.1) o.2
  gathered : c.contributions m (s.spanBytes x.ctx (c.send + (c.ownRun m lo n).1) (c.ownRun m lo n).2) ps = some xs
  plain : c.skips = false → PlainSpan s x.ctx (c.recv + lo) (c.result lo n xs).1.length

/-- Whether the chunk marks its collective as one with a non-finite value (R320). -/
def State.chunkMarks (s : State) (x : Collective) (c : Coll) (m : Nat) (ps : List PeerContribution) (lo n : Nat)
    (xs : List (Nat × List Byte)) : Bool :=
  x.nonfinite || (c.result lo n xs).2 ||
    (((c.otherRuns m lo n).map fun o => s.spanBytes x.ctx (c.send + o.1) o.2).any fun bs =>
      (List.range (n / c.e)).any fun i => c.wild (c.load bs i)) || (c.type != 3 && ps.any (·.nonfinite))

/-- The collective when a chunk of it has been moved. -/
def Collective.moved (x : Collective) (c : Coll) (marked : Bool) (res : List Byte) : Collective :=
  { x with chunk := x.chunk + 1, nonfinite := marked, out := if c.skips then x.out ++ res else [] }

theorem chunkStep_apply {xs : List (Nat × List Byte)} (hlo : lo = x.chunk * 65536) (hn : n = min 65536 (c.total - lo))
    (h : ChunkReady s x c m ps lo n xs) : chunkStep id x c m ps s = .ok ((), { s with
      mem := if c.skips then s.mem else s.spanWrite x.ctx (c.recv + lo) (c.result lo n xs).1,
      collectives := SMap.insert id (x.moved c (s.chunkMarks x c m ps lo n xs) (c.result lo n xs).1) s.collectives }) := by
  unfold chunkStep
  dsimp only
  rw [← hlo, ← hn]
  simp only [M.bind_apply, chunkStep.collRead_heap h.own, mapM_collRead (fun o => c.send + o.1) h.others, h.gathered]
  cases hskip : c.skips with
  | true =>
    simp only [Collective.moved, hskip, if_true]
    rfl
  | false =>
    have hwrite := collWrite_heap (h.plain hskip)
    simp only [Bool.false_eq_true, if_false, M.bind_apply, hwrite, Collective.moved, hskip]
    rfl

theorem State.chunkMarks_iff {xs : List (Nat × List Byte)} : s.chunkMarks x c m ps lo n xs = true ↔
    x.nonfinite = true ∨ (c.result lo n xs).2 = true ∨
      (∃ o ∈ c.otherRuns m lo n, ∃ i < n / c.e, c.wild (c.load (s.spanBytes x.ctx (c.send + o.1) o.2) i) = true) ∨
      (c.type ≠ 3 ∧ ∃ p ∈ ps, p.nonfinite = true) := by
  simp only [State.chunkMarks, Bool.or_eq_true, List.any_eq_true, List.mem_map, List.mem_range, exists_exists_and_eq_and,
    Bool.and_eq_true, bne_iff_ne, or_assoc]

/-! ### When a chunk moves -/

/-- A collective of this device whose next chunk may move. -/
structure Moves (s : State) (id : Nat) (x : Collective) (m : Nat) : Prop where
  found : SMap.find? id s.collectives = some x
  first : ∀ e ∈ s.collectives, Collective.ahead e (id, x) = true → s.chunkNow e.1 [] = none
  member : (Coll.of x.desc).member? s.mgmt.devid.toNat = some m
  sound : x.failed = false

theorem Moves.exec (h : Moves s id x m) (ps : List PeerContribution) :
    exec (.collectiveChunk id ps) s = .next ((s.chunkNow id ps).getD s) := by
  have hany : (s.collectives.any fun (e : Nat × Collective) => Collective.ahead e (id, x) && (s.chunkNow e.1 []).isSome) = false := by
    rw [List.any_eq_false]
    intro e he
    cases ha : Collective.ahead e (id, x) with
    | false => simp
    | true => simp [h.first e he ha]
  rw [exec_collectiveChunk]
  simp only [execCollectiveChunk, h.found, hany, Bool.false_eq_true, if_false]

theorem exec_collectiveChunk_behind (hx : SMap.find? id s.collectives = some x) {e : Nat × Collective} (he : e ∈ s.collectives)
    (ha : Collective.ahead e (id, x) = true) (hnow : (s.chunkNow e.1 []).isSome = true) (ps : List PeerContribution) :
    Machine.exec (.collectiveChunk id ps) s = .next s := by
  have hany : (s.collectives.any fun (e : Nat × Collective) => Collective.ahead e (id, x) && (s.chunkNow e.1 []).isSome) = true :=
    List.any_eq_true.mpr ⟨e, he, by rw [ha, hnow]; rfl⟩
  rw [exec_collectiveChunk]
  simp only [execCollectiveChunk, hx, hany, if_true]

/-- A member that failed fails the collective (R322). -/
theorem Moves.peerFailed (h : Moves s id x m) {p : PeerContribution} (hp : p ∈ ps) (hf : p.failed = true) :
    s.chunkNow id ps = some (s.failCollective id) := by
  have hany : ps.any (·.failed) = true := List.any_eq_true.mpr ⟨p, hp, hf⟩
  simp only [State.chunkNow, h.found, h.member, Option.bind_some, h.sound, Bool.false_eq_true, if_false, hany, if_true]

/-- A chunk is left, and no member has failed. -/
structure Moves.More (s : State) (id : Nat) (x : Collective) (m : Nat) (ps : List PeerContribution) : Prop extends
    Moves s id x m where
  left : x.chunk < (Coll.of x.desc).chunks
  peers : ∀ p ∈ ps, p.failed = false

theorem Moves.More.none_failed (h : Moves.More s id x m ps) : ps.any (·.failed) = false := by
  rw [List.any_eq_false]
  intro p hp
  simp [h.peers p hp]

theorem Moves.More.waits (h : Moves.More s id x m ps) {a : Word64} (hw : x.wants = some a) :
    s.chunkNow id ps = (s.recordFault x.ctx a accEngine).map fun r => r.1.failCollective id := by
  simp only [State.chunkNow, h.found, h.member, Option.bind_some, h.sound, Bool.false_eq_true, if_false, h.none_failed,
    Nat.not_le.mpr h.left, hw]

theorem Moves.More.goes (h : Moves.More s id x m ps) (hw : x.wants = none) :
    (∀ u, runM (chunkStep id x (Coll.of x.desc) m ps) s = .ok ((), u) → s.chunkNow id ps = some u) ∧
    (∀ a bit, runM (chunkStep id x (Coll.of x.desc) m ps) s = .error (.page a bit) →
      s.chunkNow id ps = some (s.collectiveFault id x a)) ∧
    (∀ cause a, runM (chunkStep id x (Coll.of x.desc) m ps) s = .error (.trap cause a) →
      s.chunkNow id ps = some (s.failCollective id)) := by
  refine ⟨fun u hu => ?_, fun a bit hu => ?_, fun cause a hu => ?_⟩ <;>
    simp only [State.chunkNow, h.found, h.member, Option.bind_some, h.sound, Bool.false_eq_true, if_false, h.none_failed,
      Nat.not_le.mpr h.left, hw, hu]

/-! ### The arithmetic of a chunk -/

/-- One more contribution is combined with the value so far, and looked at (R319, R320). -/
def Coll.reduceStep (c : Coll) (r : Word × Bool) (w : Word) : Word × Bool :=
  (c.combine r.1 w, r.2 || c.wild w || c.wild (c.combine r.1 w))

theorem Coll.reduceAll_cons (c : Coll) (v : Word) (vs : List Word) :
    c.reduceAll (v :: vs) = vs.foldl c.reduceStep (v, c.wild v) := rfl

theorem Coll.foldl_reduceStep (c : Coll) (vs : List Word) (v : Word) (b : Bool) :
    (vs.foldl c.reduceStep (v, b)).1 = vs.foldl c.combine v ∧
      ((vs.foldl c.reduceStep (v, b)).2 = true ↔ b = true ∨ (∃ w ∈ vs, c.wild w = true) ∨
        ∃ k < vs.length, c.wild ((vs.take (k + 1)).foldl c.combine v) = true) := by
  induction vs generalizing v b with
  | nil => simp
  | cons w vs ih =>
    obtain ⟨hval, hflag⟩ := ih (c.combine v w) (b || c.wild w || c.wild (c.combine v w))
    refine ⟨hval, ?_⟩
    have hsplit : (∃ k < (w :: vs).length, c.wild (((w :: vs).take (k + 1)).foldl c.combine v) = true) ↔
        c.wild (c.combine v w) = true ∨ ∃ k < vs.length, c.wild ((vs.take (k + 1)).foldl c.combine (c.combine v w)) = true :=
      Nat.exists_lt_succ_left
    rw [hsplit, List.foldl_cons]
    simp only [Coll.reduceStep] at hflag ⊢
    rw [hflag]
    have hor (p q r t v : Prop) : ((p ∨ q) ∨ r) ∨ t ∨ v ↔ p ∨ (q ∨ t) ∨ r ∨ v := by tauto
    simp only [Bool.or_eq_true, List.mem_cons, exists_eq_or_imp]
    exact hor ..

theorem Coll.reduceAll_fold (c : Coll) (v : Word) (vs : List Word) : (c.reduceAll (v :: vs)).1 = vs.foldl c.combine v ∧
    ((c.reduceAll (v :: vs)).2 = true ↔ (∃ w ∈ v :: vs, c.wild w = true) ∨
      ∃ k ≤ vs.length, c.wild ((vs.take k).foldl c.combine v) = true) := by
  obtain ⟨hval, hflag⟩ := c.foldl_reduceStep vs v (c.wild v)
  have hsplit : (∃ k ≤ vs.length, c.wild ((vs.take k).foldl c.combine v) = true) ↔
      c.wild v = true ∨ ∃ k < vs.length, c.wild ((vs.take (k + 1)).foldl c.combine v) = true := by
    simp only [← Nat.lt_succ_iff]
    exact Nat.exists_lt_succ_left
  have hor (p q r : Prop) : p ∨ q ∨ r ↔ (p ∨ q) ∨ p ∨ r := by tauto
  rw [Coll.reduceAll_cons, hflag, hsplit]
  simp only [List.mem_cons, exists_eq_or_imp]
  exact ⟨hval, hor ..⟩

/-- A value reduced so far, over the contributions that come first (R319). -/
def Coll.reduced (c : Coll) (y : Nat × List Byte) (ys : List (Nat × List Byte)) (k i : Nat) : Word :=
  (ys.take k).foldl (fun w z => c.combine w (c.load z.2 i)) (c.load y.2 i)

theorem Coll.reduced_eq (c : Coll) (y : Nat × List Byte) (ys : List (Nat × List Byte)) (k i : Nat) :
    c.reduced y ys k i = ((ys.map fun z => c.load z.2 i).take k).foldl c.combine (c.load y.2 i) := by
  rw [Coll.reduced, ← List.map_take, List.foldl_map]

theorem Coll.result_reduce (c : Coll) (hop : c.op < 2) (lo n : Nat) (y : Nat × List Byte) (ys : List (Nat × List Byte)) :
    (c.result lo n (y :: ys)).1 = ((List.range (n / c.e)).flatMap fun i => c.store (c.reduced y ys ys.length i)) ∧
    ((c.result lo n (y :: ys)).2 = true ↔ ∃ i < n / c.e, (∃ z ∈ y :: ys, c.wild (c.load z.2 i) = true) ∨
      (∃ k ≤ ys.length, c.wild (c.reduced y ys k i) = true) ∨ c.wild (c.load (c.result lo n (y :: ys)).1 i) = true) := by
  have hops : c.op = 0 ∨ c.op = 1 := by omega
  have hone (i : Nat) := c.reduceAll_fold (c.load y.2 i) (ys.map fun z => c.load z.2 i)
  have hvalue : (c.result lo n (y :: ys)).1 =
      (List.range (n / c.e)).flatMap fun i => c.store (c.reduced y ys ys.length i) := by
    simp only [Coll.result, if_pos hops, List.map_cons, List.flatMap_map, hone, Coll.reduced_eq]
    congr 1
    funext i
    rw [List.take_of_length_le (by rw [List.length_map])]
  refine ⟨hvalue, ?_⟩
  have hflag : (c.result lo n (y :: ys)).2 =
      (((List.range (n / c.e)).map fun i => c.reduceAll ((y :: ys).map fun z => c.load z.2 i)).any (·.2) ||
        (List.range (n / c.e)).any fun i => c.wild (c.load (c.result lo n (y :: ys)).1 i)) := by
    simp only [Coll.result, if_pos hops]
  rw [hflag]
  simp only [Bool.or_eq_true, List.any_eq_true, List.mem_map, exists_exists_and_eq_and, List.mem_range, List.map_cons,
    (hone _).2, List.length_map, Coll.reduced_eq, List.mem_cons, exists_eq_or_imp]
  simp only [← exists_or, ← and_or_left, or_assoc]

theorem getD_range_self (bs : List Byte) : (List.range bs.length).map (fun i => bs.getD i 0) = bs := by
  refine List.ext_getElem (by rw [List.length_map, List.length_range]) fun i h1 h2 => ?_
  rw [List.getElem_map, List.getElem_range, List.getD_eq_getElem _ _ h2]

theorem Coll.result_broadcast (c : Coll) (hop : c.op = 3) {xs : List (Nat × List Byte)}
    (hroot : xs.find? (fun y => y.1 == c.root) = some (c.root, bs)) (hlen : bs.length = n) : (c.result lo n xs).1 = bs := by
  have hred : ¬(c.op = 0 ∨ c.op = 1) := by omega
  have hgather : ¬c.op = 2 := by omega
  simp only [Coll.result, if_neg hred, if_neg hgather, hroot, Option.map_some, Option.getD_some]
  rw [← hlen, getD_range_self]

theorem Coll.result_gather (c : Coll) (hop : c.op = 2) (lo n : Nat) (xs : List (Nat × List Byte)) :
    (c.result lo n xs).1 = (List.range c.size).flatMap fun k =>
      padTo (c.gatherRun lo n k).2 (((xs.find? fun y => y.1 == k).map (·.2)).getD []) := by
  have hred : ¬(c.op = 0 ∨ c.op = 1) := by omega
  simp only [Coll.result, if_neg hred, if_pos hop]
  rfl

/-! ### Completion -/

/-- The device when a collective is over. -/
def State.dropCollective (s : State) (id : Nat) : State := { s with collectives := SMap.erase id s.collectives }

/-- The collective is over, and what its last writes leave has a status. -/
theorem exec_collectiveComplete_over (hx : SMap.find? id s.collectives = some x)
    (hover : x.failed = true ∨ (Coll.of x.desc).chunks ≤ x.chunk) {status : Nat}
    (hflush : (s.dropCollective id).flushCollective x (Coll.of x.desc) = .ok (u, status)) :
    exec (.collectiveComplete id) s = .next
      (u.writeCompletion x.ctx 0 6 (Coll.of x.desc).done (status + if x.nonfinite then 256 else 0)) := by
  have hover' : (x.failed || decide ((Coll.of x.desc).chunks ≤ x.chunk)) = true := by simpa using hover
  have hdrop : State.flushCollective { s with collectives := SMap.erase id s.collectives } x (Coll.of x.desc) = .ok (u, status) :=
    hflush
  rw [exec_collectiveComplete]
  simp only [execCollectiveComplete, hx, hover', if_true, hdrop, State.collectiveWord]

theorem PlainSpan.of_dropCollective (h : PlainSpan s ctx va n) (id : Nat) : PlainSpan (s.dropCollective id) ctx va n :=
  ⟨fun r hr => (h.1 r hr).of_collectives, h.2⟩

theorem State.flush_failed (hf : x.failed = true) : u.flushCollective x c = .ok (u, 4) := by
  simp only [State.flushCollective, hf, if_true]

theorem State.flush_written (hf : x.failed = false) (hs : c.skips = false) : u.flushCollective x c = .ok (u, 1) := by
  simp only [State.flushCollective, hf, hs, Bool.false_eq_true, if_false, Bool.not_false, if_true]

theorem State.flush_skipped (hf : x.failed = false) (hs : c.skips = true) (hn : x.nonfinite = true) :
    u.flushCollective x c = .ok (u, 2) := by
  simp only [State.flushCollective, hf, hs, hn, Bool.false_eq_true, if_false, Bool.not_true, if_true]

theorem State.flush_kept (hf : x.failed = false) (hs : c.skips = true) (hn : x.nonfinite = false) (hw : x.wants = none)
    (hplain : PlainSpan u x.ctx c.recv x.out.length) :
    u.flushCollective x c = .ok ({ u with mem := u.spanWrite x.ctx c.recv x.out }, 1) := by
  have hwrite := collWrite_heap hplain
  simp only [State.flushCollective, hf, hs, hn, hw, Bool.false_eq_true, if_false, Bool.not_true, runM, hwrite]

theorem State.flush_recorded (hf : x.failed = false) (hs : c.skips = true) (hn : x.nonfinite = false) {a : Word64}
    (hw : x.wants = some a) {r : State × Nat} (hr : u.recordFault x.ctx a accEngine = some r) :
    u.flushCollective x c = .ok (r.1, 4) := by
  simp only [State.flushCollective, hf, hs, hn, hw, Bool.false_eq_true, if_false, Bool.not_true, hr]

end Sys2Proof.Machine

open Sys2Proof Sys2Proof.Machine

/-- Settles O44: chunks by `chunkStep_apply` and `Moves.More.goes`, their arithmetic by `Coll.result_reduce`. -/
theorem collectives : Obligations.Collectives := by
  unfold Obligations.Collectives
  intro s id q v x ps
  dsimp only
  refine ⟨fun hready hq => ?_, fun hx => ⟨fun e he ha hnow => exec_collectiveChunk_behind hx he ha hnow ps,
    fun hfirst m hm hf => ?_⟩, fun lo n y ys hop => (Coll.of x.desc).result_reduce hop lo n y ys,
    fun lo n xs bs hop hroot hlen => Coll.result_broadcast _ hop hroot hlen, fun lo n xs hop => Coll.result_gather _ hop lo n xs,
    fun ht w => ?_, fun hx => ⟨fun hf => ?_, fun hf hover => ⟨fun hs => ?_, fun hs hn => ?_, fun hs hn hw hplain => ?_,
      fun hs hn a hw r hrec => ?_⟩, fun hf hleft => ?_⟩⟩
  · rw [exec_collectiveDoorbell]
    simp only [execCollectiveDoorbell, hready, decide_eq_true hq, Bool.and_self, if_true]
  · have hmoves : Moves s id x m := ⟨hx, hfirst, hm, hf⟩
    refine ⟨fun p hp hpf => ?_, fun hleft hps a hw => ?_, fun hleft hps hw => ?_⟩
    · rw [hmoves.exec, hmoves.peerFailed hp hpf, Option.getD_some]
    · rw [hmoves.exec, Moves.More.waits ⟨hmoves, hleft, hps⟩ hw]
    · obtain ⟨hok, hpage, htrap⟩ := Moves.More.goes ⟨hmoves, hleft, hps⟩ hw
      refine ⟨fun a bit hstep => ?_, fun cause a hstep => ?_, fun xs hown hothers hxs hplain => ?_⟩
      · rw [hmoves.exec, hpage a bit hstep, Option.getD_some]
        unfold State.collectiveFault
        cases s.recordFault x.ctx a accEngine <;> rfl
      · rw [hmoves.exec, htrap cause a hstep, Option.getD_some]
      · have hready : ChunkReady s x (Coll.of x.desc) m ps _ _ xs := ⟨hown, hothers, hxs, hplain⟩
        refine ⟨_, ?_, State.chunkMarks_iff⟩
        rw [hmoves.exec, hok _ (chunkStep_apply rfl rfl hready), Option.getD_some]
        rfl
  · simp [Coll.wild, ht]
  · exact exec_collectiveComplete_over hx (.inl hf) (State.flush_failed hf)
  · exact exec_collectiveComplete_over hx (.inr hover) (State.flush_written hf hs)
  · exact exec_collectiveComplete_over hx (.inr hover) (State.flush_skipped hf hs hn)
  · exact exec_collectiveComplete_over hx (.inr hover) (State.flush_kept hf hs hn hw (hplain.of_dropCollective id))
  · exact exec_collectiveComplete_over hx (.inr hover) (State.flush_recorded hf hs hn hw hrec)
  · rw [exec_collectiveComplete]
    simp only [execCollectiveComplete, hx, hf, decide_eq_false (Nat.not_le.mpr hleft), Bool.or_self, Bool.false_eq_true, if_false]

end

section
/-!
PROOFS. The dispatcher's placement, and the saving of teams at rest (O42).
-/

namespace Sys2Proof.Machine

variable {s u : State} {k id : Nat} {T : Team} {L : Launch} {e : Nat × Team} {r v : List (Nat × Team)}
  {us vs : List (List (Nat × Team))} {p at_ : List (Nat × Nat)}

/-! ### The place that a unit takes -/

/-- A unit that fits nowhere has no place. -/
theorem State.unitPlace_none (h : s.placeOf [] v = none) : s.unitPlace v = none := by
  rw [State.unitPlace, h, Option.bind_none]

theorem State.unitPlace_lowest (h : s.placeOf [] v = some p) (hk : s.unitKeepsRoom v p = true) : s.unitPlace v = some p := by
  rw [State.unitPlace, h, Option.bind_some, if_pos hk]

theorem State.unitPlace_elsewhere (h : s.placeOf [] v = some p) (hk : s.unitKeepsRoom v p = false) :
    s.unitPlace v = s.elsewhere v := by
  rw [State.unitPlace, h, Option.bind_some, if_neg (Bool.eq_false_iff.mp hk)]

/-- What leaving some cores alone finds, it finds for one choice of them. -/
theorem leaving_some {α : Type} {f : List Nat → Option α} {a : α} {cs keep : List Nat} (h : leaving f keep cs = some a) :
    ∃ keep', f keep' = some a := by
  induction cs generalizing keep with
  | nil => exact ⟨keep, h⟩
  | cons c cs ih =>
    obtain h | ⟨-, h⟩ := Option.or_eq_some_iff.mp h
    · exact ih h
    · exact ih h

/-- Another place than the lowest keeps the room that is being made. -/
theorem State.elsewhere_keeps (h : s.elsewhere v = some at_) :
    s.unitKeepsRoom v at_ = true ∧ ∃ keep, ∃ cl < 48, s.placeIn [] keep v cl = some at_ := by
  obtain ⟨cl, hcl, hleave⟩ := List.exists_of_findSome?_eq_some h
  obtain ⟨keep, hkeep⟩ := leaving_some hleave
  obtain ⟨hplace, hroom⟩ := Option.filter_eq_some_iff.mp hkeep
  exact ⟨hroom, keep, cl, List.mem_range.mp hcl, hplace⟩

theorem State.placeOf_some (h : s.placeOf [] v = some p) : ∃ cl < 48, s.placeIn [] [] v cl = some p := by
  obtain ⟨cl, hcl, hplace⟩ := List.exists_of_findSome?_eq_some h
  exact ⟨cl, List.mem_range.mp hcl, hplace⟩

/-- With nothing at rest, and no job before it that fits, a unit behind others that fit nowhere keeps the room (R281). -/
theorem State.unitKeepsRoom_of_free (hw : s.waitingUnits = us ++ (e :: r) :: vs) (hus : ∀ u ∈ us, s.placeOf [] u = none)
    (hrest : s.resting = []) (hjobs : ∀ x ∈ s.launches, Launch.before x e.2.priority e.2.launch = true →
      ∀ j, s.jobDue x.2 = some j → s.jobFits [] x.2 j = false) (at_ : List (Nat × Nat)) :
    s.unitKeepsRoom (e :: r) at_ = true := by
  have hbefore : ∀ u ∈ s.waitingUnits.takeWhile (· != e :: r), u ∈ us := by
    rw [hw]
    intro u hu
    rw [List.takeWhile_append] at hu
    split at hu
    · simpa using hu
    · exact (List.takeWhile_sublist _).subset hu
  simp only [State.unitKeepsRoom, State.keepsRoom, hrest, Bool.and_eq_true, List.all_eq_true]
  refine ⟨fun u hu => ?_, fun x hx => ?_⟩
  · rw [hus u (hbefore u hu)]
    rfl
  · cases hb : Launch.before x e.2.priority e.2.launch with
    | false => rfl
    | true =>
      cases hj : s.jobDue x.2 with
      | none => rfl
      | some j => simp [hjobs x hx hb j hj]

/-! ### The unit placed next -/

theorem State.nextUnit_of (hw : s.waitingUnits = us ++ v :: vs) (hus : ∀ u ∈ us, s.placeOf [] u = none)
    (hv : s.unitPlace v = some at_) : s.nextUnit = some (v, at_) := by
  have hnone : us.findSome? (fun u => (s.unitPlace u).map fun p => (u, p)) = none := by
    rw [List.findSome?_eq_none_iff]
    intro u hu
    rw [State.unitPlace_none (hus u hu)]
    rfl
  rw [State.nextUnit, hw, List.findSome?_append, hnone, Option.none_or, List.findSome?_cons, hv]
  rfl

theorem State.placeNext_of (hw : s.waitingUnits = us ++ (e :: r) :: vs) (hus : ∀ u ∈ us, s.placeOf [] u = none)
    (hv : s.unitPlace (e :: r) = some at_) (hjob : s.jobAhead e.2.priority e.2.launch = false) :
    s.placeNext = s.placeUnit (e :: r) at_ := by
  simp only [State.placeNext, State.nextUnit_of hw hus hv, hjob, Bool.false_eq_true, if_false]

/-- Where every place of every unit would take room that is being made, none is placed. -/
theorem State.placeNext_none (h : ∀ u ∈ s.waitingUnits, ∀ keep, ∀ cl < 48, ∀ at_, s.placeIn [] keep u cl = some at_ →
    s.unitKeepsRoom u at_ = false) : s.placeNext = s := by
  have hnone : s.nextUnit = none := by
    rw [State.nextUnit, List.findSome?_eq_none_iff]
    intro u hu
    cases hp : s.placeOf [] u with
    | none =>
      rw [State.unitPlace_none hp]
      rfl
    | some p =>
      obtain ⟨cl, hcl, hplace⟩ := State.placeOf_some hp
      rw [State.unitPlace_elsewhere hp (h u hu [] cl hcl p hplace)]
      cases he : s.elsewhere u with
      | none => rfl
      | some at_ =>
        obtain ⟨hroom, keep, cl, hcl, hplace⟩ := State.elsewhere_keeps he
        rw [h u hu keep cl hcl at_ hplace] at hroom
        cases hroom
  rw [State.placeNext, hnone]

/-! ### Saving a team at rest -/

theorem State.rshCut_idle (hT : s.team? k = some T) (hr : T.rsh.state ≠ 1) : s.rshCut k = s := by
  have hrun : T.rshRunning = false := by simp [Team.rshRunning, hr]
  have hsettle : s.rshSettle k = s := by simp only [State.rshSettle, hT, hrun, Bool.false_eq_true, if_false]
  simp only [State.rshCut, hsettle, hT, hrun, Bool.false_eq_true, if_false]

/-- The settled rows change no place of the team. -/
theorem State.rshSettle_keeps (hT : s.team? k = some T) : (s.rshSettle k).cores = s.cores ∧
    ∃ T', (s.rshSettle k).team? k = some T' ∧ T'.core = T.core := by
  unfold State.rshSettle
  rw [hT]
  dsimp only
  split
  · exact ⟨rfl, _, State.team?_setTeam hT _, rfl⟩
  · exact ⟨rfl, T, hT, rfl⟩

theorem State.sealOrigin_cores (s : State) (k : Nat) (o : Origin) : (s.sealOrigin k o).cores = s.cores := by
  unfold State.sealOrigin
  split <;> rfl

theorem Team.sealed_core (T : Team) (o : Origin) : (T.sealed o).core = T.core := by
  unfold Team.sealed
  split <;> rfl

/-- A cut at a row boundary leaves the cores, and where the team is. -/
theorem State.rshCut_keeps (hT : s.team? k = some T) :
    (s.rshCut k).cores = s.cores ∧ ∃ T', (s.rshCut k).team? k = some T' ∧ T'.core = T.core := by
  obtain ⟨hcores, T₁, hT₁, hcore⟩ := s.rshSettle_keeps hT
  unfold State.rshCut
  dsimp only
  rw [hT₁]
  dsimp only
  split
  · refine ⟨(State.sealOrigin_cores ..).trans hcores, ?_⟩
    obtain ⟨u, hu⟩ : ∃ u : State, u = { s.rshSettle k with
      stores := (s.rshSettle k).stores.filter fun w => !(w.team == k && T₁.rsh.owes w.tag.seq) } := ⟨_, rfl⟩
    have hTu : u.team? k = some T₁ := by
      rw [hu]
      exact hT₁
    rw [← hu]
    refine ⟨{ T₁.sealed T₁.rsh.origin with rsh := (T₁.sealed T₁.rsh.origin).rsh.cut }, ?_, (T₁.sealed_core _).trans hcore⟩
    rw [State.team?_modTeam, if_pos rfl, State.team?_sealOrigin hTu]
    rfl
  · exact ⟨hcores, T₁, hT₁, hcore⟩

theorem exec_contextSave_sound (hT : s.team? k = some T) (hc : s.canSave k T = true) (hsound : CoreSound s T) :
    exec (.contextSave k) s = .next ((s.rshCut k).modTeam k fun T => { T with status := .saved }) := by
  obtain ⟨hcores, T', hT', hcore⟩ := s.rshCut_keeps hT
  have hsound' : CoreSound (s.rshCut k) T' := by
    obtain ⟨h1, h2, h3, h4⟩ := hsound
    simp only [State.core] at h1 h2 h3 h4
    constructor <;> simp only [State.core, hcores, hcore] <;> assumption
  have hheld : s.localHeld ⟨k, 0, false⟩ T.size = false := hsound.localHeld (l := ⟨k, 0, false⟩) hT T.size
  have hread : s.unreadable? ⟨k, 0, false⟩ T.size = none := hsound.unreadable? (l := ⟨k, 0, false⟩) hT T.size
  have hserve : (s.rshCut k).serveLocal ⟨k, 0, false⟩ T.size = s.rshCut k :=
    hsound'.serveLocal (l := ⟨k, 0, false⟩) hT' T.size
  rw [exec_contextSave]
  simp only [execContextSave, hT, hc, hheld, hread, hserve, Bool.not_true, Bool.and_false, Bool.or_self, Bool.false_eq_true,
    if_false, ite_self]

theorem exec_contextSave_no (hT : s.team? k = some T) (hc : s.canSave k T = false) : exec (.contextSave k) s = .next s := by
  rw [exec_contextSave]
  simp only [execContextSave, hT, hc, Bool.not_false, Bool.true_or, if_true]

/-! ### What the statement says of one placement -/

/-- The dispatcher places a unit in each of the ways of R281, or none. -/
structure Places (s : State) (i : Instr) : Prop where
  lowest : ∀ us e r vs at_, s.waitingUnits = us ++ (e :: r) :: vs → (∀ u ∈ us, s.placeOf [] u = none) →
    s.placeOf [] (e :: r) = some at_ → s.jobAhead e.2.priority e.2.launch = false →
    (s.resting = [] ∧ ∀ x ∈ s.launches, Launch.before x e.2.priority e.2.launch = true → ∀ j, s.jobDue x.2 = some j →
      s.jobFits [] x.2 j = false) ∨ s.unitKeepsRoom (e :: r) at_ = true →
    exec i s = .next (s.placeUnit (e :: r) at_)
  other : ∀ us e r vs p at_, s.waitingUnits = us ++ (e :: r) :: vs → (∀ u ∈ us, s.placeOf [] u = none) →
    s.placeOf [] (e :: r) = some p → s.unitKeepsRoom (e :: r) p = false → s.elsewhere (e :: r) = some at_ →
    s.jobAhead e.2.priority e.2.launch = false →
    exec i s = .next (s.placeUnit (e :: r) at_) ∧ s.unitKeepsRoom (e :: r) at_ = true
  nothing : (∀ u ∈ s.waitingUnits, ∀ keep, ∀ cl < 48, ∀ at_, s.placeIn [] keep u cl = some at_ →
    s.unitKeepsRoom u at_ = false) → exec i s = .next s

theorem places_of_placeNext {i : Instr} (hi : exec i s = .next s.placeNext) : Places s i where
  lowest us e r vs at_ hw hus hp hjob hroom := by
    have hkeep : s.unitKeepsRoom (e :: r) at_ = true := by
      obtain ⟨hrest, hjobs⟩ | hkeep := hroom
      · exact State.unitKeepsRoom_of_free hw hus hrest hjobs at_
      · exact hkeep
    rw [hi, State.placeNext_of hw hus (State.unitPlace_lowest hp hkeep) hjob]
  other us e r vs p at_ hw hus hp hno helse hjob := by
    have hplace : s.unitPlace (e :: r) = some at_ := (State.unitPlace_elsewhere hp hno).trans helse
    rw [hi, State.placeNext_of hw hus hplace hjob]
    exact ⟨rfl, (State.elsewhere_keeps helse).1⟩
  nothing h := by rw [hi, State.placeNext_none h]

end Sys2Proof.Machine

open Sys2Proof Sys2Proof.Machine

/-- Settles O42: placements by `places_of_placeNext`, the save of a team at rest by `exec_contextSave_sound`. -/
theorem placement : Obligations.Placement := by
  unfold Obligations.Placement
  intro s id k T L
  dsimp only
  have hplaced {i : Instr} (hi : exec i s = .next s.placeNext) :=
    And.intro (places_of_placeNext hi).lowest (And.intro (places_of_placeNext hi).other (places_of_placeNext hi).nothing)
  refine ⟨hplaced rfl, fun hL hst => hplaced ?_, fun hL hst => ?_, fun hv => ?_, fun hv => ?_, fun hT hst hc hsound =>
    ⟨exec_contextSave_sound hT hc hsound, State.rshCut_idle hT⟩, fun hT hc => exec_contextSave_no hT hc⟩
  · rw [exec_gangStaggerExpiry]
    simp only [execGangStaggerExpiry, hL, hst, Bool.false_eq_true, if_false]
  · rw [exec_gangStaggerExpiry]
    simp only [execGangStaggerExpiry, hL, hst, if_true]
  · rw [exec_preemption, execPreemption, hv]
    rfl
  · rw [exec_preemption, execPreemption, hv]

end

section
/-!
PROOFS. Performances that keep memory in its one form: the rules from which each operation's own lemma follows (O51). In
what follows `sound_f` says so of a performance `f`, `f_memWf` of a change of the state, and `f_mem` that `f` does not write
memory.
-/

namespace Sys2Proof.Machine

theorem memWf_of_eq {s s' : State} (h : s'.mem = s.mem) (hs : memWf s.mem = true) : memWf s'.mem = true := h ▸ hs

/-- Memory is in its form in every state that a performance's end holds. -/
def EndsOk {α : Type} : Except Stop (α × State) → Prop
  | .ok (_, s') => memWf s'.mem = true
  | .error (.hold s') => memWf s'.mem = true
  | .error (.done s') => memWf s'.mem = true
  | .error _ => True

theorem EndsOk.error {α β : Type} {e : Stop} (h : EndsOk (.error e : Except Stop (α × State))) :
    EndsOk (.error e : Except Stop (β × State)) := by
  cases e <;> exact h

/-- From memory in its form, a performance ends with memory in its form. -/
structure Sound {α : Type} (m : M α) : Prop where
  ends : ∀ s : State, memWf s.mem = true → EndsOk (m s)

variable {α β : Type} {m : M α} {f : α → M β}

theorem sound_pure (a : α) : Sound (pure a : M α) := ⟨fun _ hs => hs⟩

theorem sound_bind (hm : Sound m) (hf : ∀ a, Sound (f a)) : Sound (m >>= f) := by
  refine ⟨fun s h => ?_⟩
  have hs := hm.ends s h
  rw [M.bind_apply]
  cases hr : m s with
  | ok r =>
    rw [hr] at hs
    exact (hf r.1).ends r.2 hs
  | error e =>
    rw [hr] at hs
    exact hs.error

/-- A performance that goes on from the state that it has read. -/
theorem sound_get {g : State → M β} (hg : ∀ s : State, memWf s.mem = true → Sound (g s)) : Sound (get >>= g) :=
  ⟨fun s hs => (hg s hs).ends s hs⟩

theorem sound_getv : Sound (get : M State) := ⟨fun _ hs => hs⟩

theorem sound_set {s : State} (hs : memWf s.mem = true) : Sound (set s : M PUnit) := ⟨fun _ _ => hs⟩

theorem sound_modify {g : State → State} (hg : ∀ s : State, memWf s.mem = true → memWf (g s).mem = true) :
    Sound (modify g : M PUnit) := ⟨hg⟩

theorem sound_stop (e : Stop) (he : EndsOk (.error e : Except Stop (α × State))) : Sound (stop e : M α) :=
  ⟨fun _ _ => he⟩

theorem sound_trap (cause : BitVec 8) (addr : Word64) : Sound (trap cause addr : M α) := ⟨fun _ _ => trivial⟩

theorem sound_page (addr : Word64) (access : BitVec 8) : Sound (stop (.page addr access) : M α) :=
  ⟨fun _ _ => trivial⟩

theorem sound_hold : Sound (hold : M α) := ⟨fun _ _ => trivial⟩

theorem sound_holdHere : Sound (holdHere : M α) := ⟨fun _ hs => hs⟩

theorem sound_endHere : Sound (endHere : M α) := ⟨fun _ hs => hs⟩

theorem sound_check (b : Bool) (cause : BitVec 8) (addr : Word64) : Sound (check b cause addr) := by
  cases b with
  | false => exact sound_trap cause addr
  | true => exact sound_pure ()

theorem Sound.run {s s' : State} {a : α} (hm : Sound m) (hs : memWf s.mem = true) (h : runM m s = .ok (a, s')) :
    memWf s'.mem = true := by
  have he := hm.ends s hs
  rw [show m s = .ok (a, s') from h] at he
  exact he

theorem Sound.apply {s s' : State} {a : α} (hm : Sound m) (hs : memWf s.mem = true) (h : m s = .ok (a, s')) :
    memWf s'.mem = true := hm.run hs h

theorem Sound.held {s s' : State} (hm : Sound m) (hs : memWf s.mem = true) (h : m s = .error (.hold s')) :
    memWf s'.mem = true := by
  have he := hm.ends s hs
  rw [h] at he
  exact he

theorem Sound.done {s s' : State} (hm : Sound m) (hs : memWf s.mem = true) (h : m s = .error (.done s')) :
    memWf s'.mem = true := by
  have he := hm.ends s hs
  rw [h] at he
  exact he

end Sys2Proof.Machine
end

section
/-!
PROOFS. Memory's form under memory accesses, the scratchpad, registers, operands and group operations (O51).
-/

namespace Sys2Proof.Machine

variable {α β : Type} {m : M α} {f : α → M β}

theorem sound_pick [DecidableEq α] (old new : α) : Sound (pick old new) := by
  refine ⟨fun s hs => ?_⟩
  unfold pick
  split
  · exact hs
  · exact hs

theorem sound_pickAmong [DecidableEq α] (olds : List α) (new : α) : Sound (pickAmong olds new) := by
  induction olds generalizing new with
  | nil => exact sound_pure new
  | cons old olds ih => exact sound_bind (sound_pick old new) ih

theorem sound_translate (c va : Nat) : Sound (translate c va) := by
  refine sound_get fun s hs => sound_bind (sound_pickAmong ..) fun root => ?_
  split
  · exact sound_pick ..
  · dsimp only
    split
    · exact sound_bind (sound_modify fun _ hs => hs) fun _ => sound_pure _
    · exact sound_pure _

theorem sound_walkRuns (c fuel va n : Nat) : Sound (walkRuns c fuel va n) := by
  induction fuel generalizing va n with
  | zero => exact sound_pure _
  | succ fuel ih => grind [walkRuns, sound_bind, sound_translate, sound_pure]

theorem sound_heapOf (c : Nat) : Sound (heapOf c) := by
  grind [heapOf, sound_get, sound_pickAmong]

theorem sound_checkGlobal (c va n : Nat) (need : Need) (access : BitVec 8) :
    Sound (checkGlobal c va n need access) := by
  refine sound_bind (sound_check ..) fun _ => sound_bind (sound_heapOf c) fun h => sound_get fun s _ => ?_
  dsimp only
  split
  · grind [sound_trap, sound_pure]
  · split
    · exact sound_trap ..
    · split
      · exact sound_trap ..
      · refine sound_bind (sound_walkRuns ..) fun ws => ?_
        split
        · exact sound_page ..
        · grind [sound_get, sound_trap, sound_pure]

theorem sound_getTeam (t : Nat) : Sound (getTeam t) := by
  refine ⟨fun s hs => ?_⟩
  unfold getTeam
  split
  · exact hs
  · trivial

theorem sound_modTeam (t : Nat) (f : Team → Team) : Sound (modTeam t f) := by
  unfold modTeam
  grind [sound_modify, State.modTeam_mem]

theorem State.commitPorch_leaves_mem (s : State) (t : Nat) : (s.commitPorch t).mem = s.mem := by
  unfold State.commitPorch
  split
  · split <;> rfl
  · rfl

theorem sound_commitPorch (t : Nat) : Sound (commitPorch t) := by
  unfold commitPorch
  grind [sound_modify, State.commitPorch_leaves_mem]

theorem sound_commitFirst (t : Nat) : Sound (commitFirst t) := by
  grind [commitFirst, sound_bind, sound_getv, sound_holdHere, sound_pure, sound_getTeam, sound_commitPorch]

theorem State.sealOp_mem (s : State) (t op : Nat) : (s.sealOp t op).mem = s.mem := by
  grind [State.sealOp, State.modTeam_mem]

theorem State.storePart_mem (s : State) (t : Nat) (o : Origin) (va pa : Nat) (kind : BitVec 2) (bytes : List Byte)
    (holes : List Nat) : (s.storePart t o va pa kind bytes holes).mem = s.mem := by
  grind [State.storePart, State.setTeam_mem, State.seal_mem, State.commitPorch_leaves_mem]

theorem State.request_mem (s : State) (ctx team agent launch core : Nat) (o : Origin) (dev : BitVec 17)
    (addr : Word64) (op : RemoteOp) : (s.request ctx team agent launch core o dev addr op).mem = s.mem := by
  grind [State.request]

theorem sound_remoteAs (agent t : Nat) (o : Origin) (dev : BitVec 17) (addr : Nat) (op : RemoteOp) :
    Sound (remoteAs agent t o dev addr op) := by
  grind [remoteAs, sound_bind, sound_get, sound_set, sound_pure, sound_getTeam, State.request_mem]

theorem sound_rcFirst (t : Nat) (o : Origin) : Sound (rcFirst t o) := by
  grind [rcFirst, sound_get, sound_holdHere, sound_pure]

theorem sound_pushFirst (t : Nat) (who : Who) : Sound (pushFirst t who) := by
  grind [pushFirst, sound_get, sound_holdHere, sound_pure]

theorem sound_readFirst (t : Nat) (o : Origin) (ps : List Part) : Sound (readFirst t o ps) := by
  grind [readFirst, sound_get, sound_hold, sound_pure]

theorem sound_drain (t : Nat) : Sound (drain t) := by
  grind [drain, sound_bind, sound_getv, sound_holdHere, sound_pure, sound_commitPorch]

theorem sound_resolveLocal (t x n : Nat) : Sound (resolveLocal t x n) := by
  grind [resolveLocal, sound_get, sound_trap, sound_hold, sound_pure]

theorem State.serveLocal_mem (s : State) (l : Local) (n : Nat) : (s.serveLocal l n).mem = s.mem := by
  grind [State.serveLocal, State.setCore_mem]

theorem sound_admitLocal (l : Local) (n : Nat) : Sound (admitLocal l n) := by
  grind [admitLocal, sound_get, sound_hold, sound_pure]

theorem sound_readLocal (l : Local) (x n : Nat) : Sound (readLocal l x n) := by
  refine sound_bind (sound_admitLocal l n) fun _ => sound_bind (sound_getTeam _) fun P => sound_get fun s hs => ?_
  split
  · exact sound_stop _ trivial
  · exact sound_bind (sound_set (memWf_of_eq (State.serveLocal_mem s l n) hs)) fun _ => sound_pure _

theorem sound_storeLocal (t : Nat) (l : Local) (bytes : List Byte) : Sound (storeLocal t l bytes) := by
  grind [storeLocal, sound_bind, sound_modify, sound_admitLocal, State.writeLocal_mem, sound_commitPorch]

theorem sound_touchLocal (l : Local) (n : Nat) : Sound (touchLocal l n) := by
  grind [touchLocal, sound_bind, sound_modify, sound_getTeam, State.writeLocal_mem]

theorem sound_loadLocal (t x n : Nat) : Sound (loadLocal t x n) := by
  grind [loadLocal, sound_bind, sound_resolveLocal, sound_readLocal]

theorem sound_readBlock (t x n align : Nat) : Sound (readBlock t x n align) := by
  grind [readBlock, sound_bind, sound_check, sound_getTeam, sound_readLocal]

theorem State.modMgmt_mem (s : State) (f : Mgmt → Mgmt) : (s.modMgmt f).mem = s.mem := by
  grind [State.modMgmt]

theorem State.attestNow_mem (s : State) : (s.attestNow).mem = s.mem := by
  grind [State.attestNow]

theorem State.clearLinden_mem (s : State) (v : Word64) : (s.clearLinden v).mem = s.mem := by
  grind [State.clearLinden, State.modMgmt_mem]

theorem State.retireBank_mem (s : State) (v : Word64) : (s.retireBank v).mem = s.mem := by
  grind [State.retireBank, State.setCore_mem]

theorem State.setRoute_mem (s : State) (v : Word64) : (s.setRoute v).mem = s.mem := by
  grind [State.setRoute, State.modMgmt_mem]

theorem State.performStore_memWf (s : State) (w : PendStore) (hs : memWf s.mem = true) :
    memWf (s.performStore w).mem = true := by
  unfold State.performStore
  generalize runsBetween w.tag.holes w.pa w.bytes = rs
  induction rs generalizing s with
  | nil => exact hs
  | cons r rs ih => exact ih _ (memWf_writePhys hs ..)

theorem sound_checkWords (team : Option Nat) (ps : List Part) : Sound (checkWords team ps) := by
  induction ps with
  | nil => exact sound_pure _
  | cons p ps ih => grind [checkWords, sound_get, sound_trap]

theorem sound_readParts (t : Nat) (ps : List Part) : Sound (readParts t ps) := by
  induction ps with
  | nil => exact sound_pure _
  | cons p ps ih => grind [readParts, sound_bind, sound_get, sound_pure]

theorem sound_writeParts (t : Nat) (o : Origin) (ps : List Part) (bytes : List Byte) :
    Sound (writeParts t o ps bytes) := by
  induction ps generalizing bytes with
  | nil => exact sound_pure _
  | cons p ps ih => grind [writeParts, sound_bind, sound_modify, State.storePart_mem, sound_remoteAs]

theorem sound_getThread (team t : Nat) : Sound (getThread team t) := by
  refine ⟨fun s hs => ?_⟩
  unfold getThread
  split
  · exact hs
  · trivial

theorem sound_getFront (team : Nat) : Sound (getFront team) := by
  refine ⟨fun s hs => ?_⟩
  unfold getFront
  split
  · exact hs
  · trivial

theorem sound_modThread (team t : Nat) (f : Thread → Thread) : Sound (modThread team t f) := by
  grind [modThread, sound_modify, State.modThread_mem]

theorem sound_modFront (team : Nat) (f : Front → Front) : Sound (modFront team f) := by
  unfold modFront
  grind [sound_modify, State.modFront_mem]

theorem sound_getGroup (team t : Nat) : Sound (getGroup team t) := by
  refine ⟨fun s hs => ?_⟩
  unfold getGroup
  split
  · exact hs
  · trivial

theorem sound_modGroupOf (team t : Nat) (f : Group → Group) : Sound (modGroupOf team t f) := by
  grind [modGroupOf, sound_modTeam]

theorem sound_loadLocal32 (t x : Nat) : Sound (loadLocal32 t x) := by
  grind [loadLocal32, sound_bind, sound_pure, sound_loadLocal]

theorem sound_storeLocal32 (t x : Nat) (v : Word) : Sound (storeLocal32 t x v) := by
  grind [storeLocal32, sound_bind, sound_resolveLocal, sound_storeLocal]

theorem sound_ringPop (team : Nat) (r : Ring) : Sound (ringPop team r) := by
  grind [ringPop, sound_bind, sound_hold, sound_pure, sound_loadLocal32, sound_storeLocal32]

theorem sound_ringPlace (team : Nat) (via : Option Nat) (x : Nat) : Sound (ringPlace team via x) := by
  unfold ringPlace
  grind [sound_bind, sound_hold, sound_pure, sound_resolveLocal, sound_getTeam]

theorem sound_ringPush (team : Nat) (r : Ring) (v : Word) (via : Option Nat) : Sound (ringPush team r v via) := by
  grind [ringPush, sound_bind, sound_hold, sound_pure, sound_ringPlace, sound_readLocal, sound_storeLocal]

theorem sound_latchPort (team t : Nat) (p : Bool) (ins outs : List Bool) : Sound (latchPort team t p ins outs) := by
  refine sound_bind (sound_getTeam team) fun T => sound_bind (sound_getThread team t) fun h => sound_get fun _ _ => ?_
  have hline (s : State) (hs : memWf s.mem = true) (T : Team) (h : Thread) (w : Wait) :
      memWf (s.setThread team t (T.inLine h w (p :: ins) outs)).mem = true :=
    memWf_of_eq (State.setThread_mem ..) hs
  dsimp only
  split
  · exact ⟨fun s hs => hline s hs ..⟩
  · split
    · exact sound_trap ..
    · next r _ =>
      refine ⟨fun s hs => ?_⟩
      have hp := (sound_ringPop team r).ends s hs
      split
      · next hr =>
        rw [hr] at hp
        exact memWf_of_eq (State.modThread_mem ..) hp
      · exact hline s hs ..
      · next e _ hr =>
        rw [hr] at hp
        exact hp.error

theorem sound_latchPorts (team t : Nat) (outs seen ps : List Bool) : Sound (latchPorts team t outs seen ps) := by
  induction ps generalizing seen with
  | nil => exact sound_modThread ..
  | cons p ps ih => grind [latchPorts, sound_bind, sound_getThread, sound_latchPort]

theorem sound_popPort (team t : Nat) (p : Bool) : Sound (popPort team t p) := by
  grind [popPort, sound_bind, sound_trap, sound_hold, sound_pure, sound_getThread, sound_modThread, sound_getTeam]

theorem sound_pushPort (l : Lane) (p : Bool) (place : Nat) (v : Word) (via : Option Nat) :
    Sound (pushPort l p place v via) := by
  grind [pushPort, sound_bind, sound_getv, sound_trap, sound_hold, sound_getTeam, sound_ringPush]

theorem sound_readWindow (team t k d : Nat) : Sound (readWindow team t k d) := by
  unfold readWindow
  grind [sound_bind, sound_trap, sound_hold, sound_pure, sound_getTeam, sound_getGroup, sound_getThread]

theorem sound_writeWindow (team t k d : Nat) (v : Word) : Sound (writeWindow team t k d v) := by
  refine sound_bind (sound_getTeam team) fun T => sound_bind (sound_getGroup team t) fun G =>
    sound_bind (sound_getThread team t) fun h => ?_
  split
  · exact sound_bind (sound_check ..) fun _ => sound_bind (sound_check ..) fun _ =>
      sound_bind (sound_modTeam ..) fun _ => sound_modThread ..
  · exact sound_trap ..

theorem sound_destOk (l : Lane) (c : BitVec 8) : Sound (destOk l c) := by
  unfold destOk
  split
  · exact sound_pure _
  · split
    · exact sound_bind (sound_getThread ..) fun h => sound_check ..
    · refine sound_bind (sound_getTeam _) fun T => sound_get fun s _ => ?_
      split
      · split
        · exact sound_pure _
        · exact sound_trap ..
      · exact sound_trap ..
    · exact sound_pure _

theorem sound_rd (l : Lane) (c : BitVec 8) : Sound (rd l c) := by
  grind [rd, sound_bind, sound_trap, sound_pure, sound_getFront, sound_getThread, sound_popPort, sound_readWindow]

theorem sound_wr (l : Lane) (c : BitVec 8) (v : Word) : Sound (wr l c v) := by
  unfold wr
  grind [sound_bind, sound_getv, sound_trap, sound_hold, sound_modFront, sound_modThread, sound_getTeam,
    sound_getThread, sound_pushPort, sound_writeWindow]

theorem sound_rd64 (l : Lane) (c : BitVec 8) : Sound (rd64 l c) := by
  grind [rd64, sound_bind, sound_pure, sound_getFront, sound_getThread]

theorem sound_wr64 (l : Lane) (c : BitVec 8) (v : Word64) : Sound (wr64 l c v) := by
  grind [wr64, sound_modFront, sound_modThread]

theorem sound_rdMany (team t c n : Nat) : Sound (rdMany team t c n) := by
  grind [rdMany, sound_bind, sound_pure, sound_getThread]

theorem sound_rdB (l : Lane) (k : BitVec 3) : Sound (rdB l k) := by
  grind [rdB, sound_bind, sound_pure, sound_getFront, sound_getThread]

theorem sound_wrB (l : Lane) (k : BitVec 3) (v : Bool) : Sound (wrB l k v) := by
  grind [wrB, sound_modFront, sound_modThread]

theorem sound_rdQ (team t : Nat) (k : BitVec 3) : Sound (rdQ team t k) := by
  grind [rdQ, sound_bind, sound_pure, sound_getThread]

theorem sound_wrQ (team t : Nat) (k : BitVec 3) (v : BitVec 25) : Sound (wrQ team t k v) := by
  grind [wrQ, sound_modThread]

theorem sound_rdS (l : Lane) (n : Nat) : Sound (rdS l n) := by
  grind [rdS, sound_bind, sound_pure, sound_getTeam, sound_getGroup]

theorem sound_fpctl (l : Lane) : Sound (fpctl l) := by
  grind [fpctl, sound_bind, sound_pure, sound_getGroup]

theorem sound_nfmt (l : Lane) : Sound (nfmt l) := by
  grind [nfmt, sound_bind, sound_pure, sound_getGroup]

theorem sound_fpMode (l : Lane) : Sound (fpMode l) := by
  grind [fpMode, sound_bind, sound_pure, sound_fpctl]

theorem sound_slot8 (l : Lane) (b : Bool) : Sound (slot8 l b) := by
  grind [slot8, sound_bind, sound_check, sound_pure, sound_nfmt]

theorem sound_clockOf (team : Nat) : Sound (clockOf team) := by
  grind [clockOf, sound_bind, sound_getv, sound_pure, sound_getTeam]

theorem sound_arriveOp (team t : Nat) (i : Instr) (mask : BitVec 128) (vals : List Word) :
    Sound (arriveOp team t i mask vals) := by
  grind [arriveOp, sound_bind, sound_check, sound_getTeam, sound_getGroup, sound_modTeam, sound_modThread]

theorem sound_registerNb (team : Nat) (bar : Option Nat) : Sound (registerNb team bar) := by
  unfold registerNb
  grind [sound_bind, sound_check, sound_pure, sound_getTeam, sound_modTeam]

end Sys2Proof.Machine
end

section
/-!
PROOFS. Memory's form under faults, kills, fences, traps and the return stack (O51).
-/

namespace Sys2Proof.Machine

variable {α β : Type} {m : M α} {f : α → M β}

theorem sound_wrList (l : Lane) (cs : List (BitVec 8)) (vs : List Word64) : Sound (wrList l cs vs) := by
  induction cs generalizing vs with
  | nil => exact sound_pure _
  | cons c cs ih =>
    cases vs with
    | nil => exact sound_pure _
    | cons v vs => grind [wrList, sound_bind, sound_modFront, sound_wr]

theorem sound_pendOf (l : Lane) : Sound (pendOf l) := by
  grind [pendOf, sound_bind, sound_pure, sound_getFront, sound_getThread]

theorem sound_setPend (l : Lane) (p : List Pending) : Sound (setPend l p) := by
  grind [setPend, sound_modFront, sound_modThread]

theorem sound_landResult (l : Lane) (p : Pending) (vs : List Word64) : Sound (landResult l p vs) := by
  unfold landResult
  split
  · exact sound_pushPort ..
  · exact sound_wrList ..

theorem sound_resultPlace (l : Lane) (dest : List (BitVec 8)) : Sound (resultPlace l dest) := by
  grind [resultPlace, sound_bind, sound_pure, sound_getTeam, sound_getThread]

theorem sound_deliverGo (l : Lane) (all owed : Bool) (ps : List Pending) : Sound (deliverGo l all owed ps) := by
  induction ps generalizing owed with
  | nil => exact sound_pure _
  | cons p ps ih => grind [deliverGo, sound_bind, sound_hold, sound_pure, sound_landResult]

theorem sound_deliver (l : Lane) (all : Bool) : Sound (deliver l all) := by
  grind [deliver, sound_bind, sound_pure, sound_pendOf, sound_deliverGo, sound_setPend]

theorem sound_forM {β : Type} {f : β → M PUnit} (hf : ∀ x, Sound (f x)) (l : List β) : Sound (l.forM f) := by
  induction l with
  | nil => exact sound_pure _
  | cons x l ih => exact sound_bind (hf x) fun _ => ih

theorem sound_later (l : Lane) (dest : List (BitVec 8)) (v : PendValue) (n : Nat) (mem : Bool) :
    Sound (later l dest v n mem) := by
  refine sound_bind (sound_resultPlace l dest) fun ⟨place, via⟩ => ?_
  dsimp only
  split
  · next vs =>
    refine ⟨fun s hs => ?_⟩
    split
    · exact (sound_setPend ..).ends s hs
    · exact (sound_wrList l dest vs).ends s hs
  · exact sound_bind (sound_forM (sound_destOk l) dest) fun _ => sound_bind (sound_pendOf l) fun ps => sound_setPend ..

theorem sound_stackOf (l : Lane) : Sound (stackOf l) := by
  grind [stackOf, sound_bind, sound_pure, sound_getFront, sound_getThread]

theorem sound_setStack (l : Lane) (rs : List Word64) (spill : Nat) : Sound (setStack l rs spill) := by
  grind [setStack, sound_modFront, sound_modThread]

theorem sound_spillPlace (l : Lane) (j : Nat) : Sound (spillPlace l j) := by
  grind [spillPlace, sound_bind, sound_check, sound_pure, sound_getTeam]

theorem sound_pushReturn (l : Lane) (v : Word64) : Sound (pushReturn l v) := by
  grind [pushReturn, sound_bind, sound_check, sound_stackOf, sound_spillPlace, sound_getTeam, sound_rcFirst,
    sound_storeLocal, sound_setStack]

theorem sound_popReturn (l : Lane) : Sound (popReturn l) := by
  grind [popReturn, sound_bind, sound_check, sound_pure, sound_stackOf, sound_spillPlace, sound_readLocal,
    sound_setStack]

theorem State.reportLost_mem (s : State) (team : Nat) (who : Who) : (s.reportLost team who).mem = s.mem := by
  unfold State.reportLost
  split
  · rfl
  · dsimp only
    split
    · split
      · split
        · rfl
        · rfl
      · rfl
    · split
      · split
        · rfl
        · rfl
      · rfl

theorem State.endByFault_mem (s : State) (team : Nat) (who : Who) (cause : BitVec 8) (word : Word)
    (pc addr : Word64) : (s.endByFault team who cause word pc addr).mem = s.mem := by
  unfold State.endByFault
  split
  · split <;> rfl
  · rfl

theorem State.revokeWindows_mem (s : State) (team : Nat) : (s.revokeWindows team).mem = s.mem := by
  grind [State.revokeWindows]

theorem State.dropInto_mem (s : State) (team : Nat) : (s.dropInto team).mem = s.mem := by
  grind [State.dropInto]

theorem State.quitWing_mem (s : State) (team : Nat) : (s.quitWing team).mem = s.mem := by
  grind [State.quitWing, State.modTeam_mem, State.revokeWindows_mem]

theorem State.leaveWing_mem (s : State) (team : Nat) : (s.leaveWing team).mem = s.mem := by
  grind [State.leaveWing, State.dropInto_mem, State.quitWing_mem]

theorem State.completionInterrupt_mem (s : State) (ctx : Nat) (done : Word64) :
    (s.completionInterrupt ctx done).mem = s.mem := by
  grind [State.completionInterrupt]

theorem State.completionLost_mem (s : State) (ctx agent : Nat) (cause : BitVec 8) (done : Word64) :
    (s.completionLost ctx agent cause done).mem = s.mem := by
  grind [State.completionLost, State.report_mem]

theorem State.storeCompletion_memWf (s : State) (ctx launch agent : Nat) (ps : List Part) (bs : List Byte)
    (hs : memWf s.mem = true) : memWf (s.storeCompletion ctx launch agent ps bs).mem = true := by
  induction ps generalizing s bs with
  | nil => exact hs
  | cons p ps ih =>
    refine ih _ _ ?_
    split
    · exact memWf_writePhys hs ..
    · exact hs

theorem State.writeCompletion_memWf (s : State) (ctx launch agent : Nat) (done : Word64) (v : Nat)
    (hs : memWf s.mem = true) : memWf (s.writeCompletion ctx launch agent done v).mem = true := by
  unfold State.writeCompletion
  split
  · exact hs
  · split
    · next ps s' hr =>
      have h' := (sound_checkGlobal ..).run hs hr
      dsimp only
      split
      · exact memWf_of_eq (State.completionLost_mem ..) h'
      · split
        · exact State.storeCompletion_memWf _ _ _ _ _ _ h'
        · exact State.storeCompletion_memWf _ _ _ _ _ _ h'
    · exact memWf_of_eq (State.completionLost_mem ..) hs
    · exact memWf_of_eq (State.completionLost_mem ..) hs
    · exact hs

/-- Going through a list keeps memory's form when each step does. -/
theorem memWf_foldl {β : Type} {f : State → β → State}
    (hf : ∀ s b, memWf s.mem = true → memWf (f s b).mem = true) (l : List β) {s : State} (hs : memWf s.mem = true) :
    memWf (l.foldl f s).mem = true := by
  induction l generalizing s with
  | nil => exact hs
  | cons b l ih => exact ih (hf s b hs)

theorem State.killContext_memWf (s : State) (ctx : Nat) (hs : memWf s.mem = true) :
    memWf (s.killContext ctx).mem = true := by
  have hw (s : State) (launch agent : Nat) (done : Word64) (v : Nat) (h : memWf s.mem = true) :
      memWf (s.writeCompletion ctx launch agent done v).mem = true := State.writeCompletion_memWf _ _ _ _ _ _ h
  refine memWf_foldl (fun s e h => ?_) _ (memWf_foldl (fun s e h => ?_) _ (memWf_foldl (fun s e h => ?_) _ hs))
  · exact hw s _ _ _ _ h
  · exact hw s _ _ _ _ h
  · exact memWf_of_eq (State.leaveWing_mem ..) h

theorem State.startKill_memWf (s : State) (issuer ctx : Nat) (hs : memWf s.mem = true) :
    memWf (s.startKill issuer ctx).mem = true := by
  grind [State.startKill, State.setCtx_mem, State.killContext_memWf]

theorem State.report5_mem (s : State) (T : Team) (who : Who) (event : Nat) (cause : BitVec 8) (addr : Word64) :
    (s.report5 T who event cause addr).mem = s.mem := by
  grind [State.report5, State.report_mem]

theorem State.contain_memWf (s : State) (m : Met) (cause : BitVec 8) (addr : Word64) (hs : memWf s.mem = true) :
    memWf (s.contain m cause addr).mem = true := by
  grind [State.contain, State.report5_mem, State.leaveWing_mem, State.setTeam_mem, State.endByFault_mem,
    State.killContext_memWf]

theorem State.reportFence_mem (s : State) (T : Option Team) (core : Nat) (who : Who) (event : Nat)
    (cause : BitVec 8) (addr : Word64) : (s.reportFence T core who event cause addr).mem = s.mem := by
  unfold State.reportFence
  split
  · rfl
  · split <;> rfl

theorem State.containAll_memWf (s : State) (m : Option Met) (hit : List (Nat × Team)) (cause : BitVec 8)
    (addr : Word64) (hs : memWf s.mem = true) : memWf (s.containAll m hit cause addr).mem = true :=
  memWf_foldl (fun s _ h => State.contain_memWf s _ cause addr h) hit hs

theorem State.fenceCluster_memWf (s : State) (m : Option Met) (core : Nat) (cause : BitVec 8) (addr : Word64)
    (hs : memWf s.mem = true) : memWf (s.fenceCluster m core cause addr).mem = true := by
  grind [State.fenceCluster, State.containAll_memWf, State.reportFence_mem]

theorem State.fenceCore_memWf (s : State) (m : Option Met) (core : Nat) (cause : BitVec 8) (addr : Word64)
    (hs : memWf s.mem = true) : memWf (s.fenceCore m core cause addr).mem = true := by
  grind [State.fenceCore, State.reportFence_mem, State.setCore_mem, State.containAll_memWf, State.fenceCluster_memWf]

theorem State.failPlace_memWf (s : State) (m : Met) (l : Local) (addr : Word64) (hs : memWf s.mem = true) :
    memWf (s.failPlace m l addr).mem = true := by
  grind [State.failPlace, State.report5_mem, State.setCore_mem, State.fenceCore_memWf]

theorem State.consume_memWf (s : State) (team : Nat) (who : Who) (cause : BitVec 8) (word : Word)
    (pc addr : Word64) (place : Option Local) (hs : memWf s.mem = true) :
    memWf (s.consume team who cause word pc addr place).mem = true := by
  refine State.contain_memWf _ _ _ _ ?_
  split
  · exact State.failPlace_memWf _ _ _ _ hs
  · exact hs

theorem State.enter_memWf (s : State) (team t : Nat) (r : TrapReq) (hs : memWf s.mem = true) :
    memWf (s.enter team t r).mem = true := by
  grind [State.enter, State.consume_memWf, State.endByFault_mem, State.setThread_mem, State.writeLocal_mem]

theorem State.takeTrap_memWf (s : State) (team t : Nat) (r : TrapReq) (hs : memWf s.mem = true) :
    memWf (s.takeTrap team t r).mem = true := by
  have h : memWf (s.modThread team t fun h => { h with wait := none, places := [] }).mem = true := hs
  unfold State.takeTrap
  dsimp only
  split
  · exact State.enter_memWf _ _ _ _ h
  · split
    · exact h
    · split
      · next hr => exact State.enter_memWf _ _ _ _ ((sound_deliver ..).run h hr)
      · exact State.enter_memWf _ _ _ _ h
      · exact State.consume_memWf _ _ _ _ _ _ _ _ h
      · exact h

theorem sound_rttThread (team t : Nat) : Sound (rttThread team t) := by
  grind [rttThread, sound_bind, sound_check, sound_pure, sound_getThread, sound_modThread]

theorem sound_waitOf (ln : Lane) : Sound (waitOf ln) := by
  grind [waitOf, sound_bind, sound_pure, sound_getFront, sound_getThread]

theorem sound_letGo (ln : Lane) : Sound (letGo ln) := by
  grind [letGo, sound_bind, sound_trap, sound_pure, sound_waitOf]

end Sys2Proof.Machine
end

section
/-!
PROOFS. Memory's form under an issue: the checks before an effect, the end of a performance, and the lanes in order
  (O51).
-/

namespace Sys2Proof.Machine

variable {α β : Type} {m : M α} {f : α → M β}

theorem sound_decodeChecks (l : Lane) (i : Instr) : Sound (decodeChecks l i) := by
  refine sound_get fun s _ => sound_bind (sound_getTeam _) fun T => sound_bind (sound_check ..) fun _ => ?_
  refine sound_bind (sound_check ..) fun _ => sound_bind (sound_check ..) fun _ => sound_bind
    (sound_check ..) fun _ => ?_
  exact sound_bind (sound_pendOf l) fun _ => sound_check ..

theorem sound_complete (l : Lane) (len : Nat) (next : Next) : Sound (complete l len next) := by
  grind [complete, sound_modThread, sound_modFront]

theorem sound_releaseFirst (l : Lane) (i : Instr) : Sound (releaseFirst l i) := by
  refine sound_bind (sound_getTeam _) fun T => ?_
  split
  · split
    · exact sound_bind (sound_forM (fun f : Fld => sound_destOk l f.code) _) fun _ => sound_drain _
    · exact sound_pure _
  · exact sound_pure _

theorem sound_barrier (ln : Lane) (k : BitVec 4) (indirect : Bool) : Sound (barrier ln k indirect) := by
  grind [barrier, sound_bind, sound_check, sound_pure, sound_rdS]

theorem sound_whole (ln : Lane) (k : BitVec 4) (indirect : Bool) : Sound (whole ln k indirect) := by
  grind [whole, sound_bind, sound_check, sound_pure, sound_barrier, sound_getTeam]

theorem sound_discard (hm : Sound m) : Sound (discard m) := sound_bind hm fun _ => sound_pure _

theorem sound_barrierFirst (l : Lane) (i : Instr) : Sound (barrierFirst l i) := by
  unfold barrierFirst
  split
  · exact sound_discard (sound_whole ..)
  · exact sound_discard (sound_whole ..)
  · exact sound_discard (sound_whole ..)
  · exact sound_bind (sound_letGo l) fun _ => sound_discard (sound_whole ..)
  · exact sound_pure _

theorem sound_maskFirst (l : Lane) (i : Instr) : Sound (maskFirst l i) := by
  unfold maskFirst
  split
  · exact sound_pure _
  · exact sound_bind (sound_getTeam _) fun T => sound_bind (sound_getGroup ..) fun G => sound_check ..
  · exact sound_pure _

theorem sound_unkept (m : M α) (hm : Sound m) : Sound (unkept m) := by
  refine ⟨fun s hs => ?_⟩
  have h := hm.ends s hs
  unfold unkept
  split
  · trivial
  · exact h

theorem sound_mayPause (l : Lane) (i : Instr) : Sound (mayPause l i) := by
  grind [mayPause, sound_bind, sound_pure, sound_pendOf, sound_getTeam]

theorem sound_ite {p : Prop} [Decidable p] {m m' : M α} (hm : Sound m) (hm' : Sound m') :
    Sound (if p then m else m') := by
  split
  · exact hm
  · exact hm'

/-- A performance that does something more under a condition, and then goes on. -/
theorem sound_when {p : Prop} [Decidable p] {m : M Unit} {f : Unit → M β} (hm : Sound m) (hf : ∀ a, Sound (f a)) :
    Sound (if p then m >>= f else f ()) := by
  split
  · exact sound_bind hm hf
  · exact hf ()

theorem sound_unless {p : Prop} [Decidable p] {m : M Unit} {f : Unit → M β} (hm : Sound m)
    (hf : ∀ a, Sound (f a)) : Sound (if p then f () else m >>= f) := by
  split
  · exact hf ()
  · exact sound_bind hm hf

theorem sound_prepare (l : Lane) (i : Instr) : Sound (prepare l i) := by
  refine sound_bind (sound_decodeChecks l i) fun _ => sound_bind (sound_mayPause l i) fun pause => ?_
  refine sound_when (sound_maskFirst l i) fun _ => sound_bind (sound_deliver ..) fun _ => ?_
  split
  · exact sound_pure _
  · refine sound_bind (sound_getThread ..) fun h => sound_when (sound_barrierFirst l i) fun _ => ?_
    refine sound_get fun s _ => sound_unless (sound_releaseFirst l i) fun _ => ?_
    split
    · exact sound_pure _
    · split
      · exact sound_pure _
      · dsimp only
        split
        · exact sound_unkept _ (sound_latchPorts ..)
        · exact sound_latchPorts ..

theorem State.inPushLine_mem (s : State) (l : Lane) (p : Bool) : (s.inPushLine l p).mem = s.mem := by
  grind [State.inPushLine, State.modThread_mem]

theorem State.keepLatch_mem (s s' : State) (l : Lane) : (s.keepLatch s' l).mem = s'.mem := by
  unfold State.keepLatch
  split
  · split
    · split <;> rfl
    · rfl
  · rfl

theorem sound_keepElements (l : Lane) (i : Instr) (m : M α) (hm : Sound m) : Sound (keepElements l i m) := by
  refine ⟨fun s hs => ?_⟩
  have h := hm.ends s hs
  have hk (s' : State) (h' : memWf s'.mem = true) : memWf (s.keepLatch s' l).mem = true := by
    exact memWf_of_eq (State.keepLatch_mem ..) h'
  unfold keepElements
  split
  · split
    · exact memWf_of_eq (State.inPushLine_mem ..) hs
    · split
      · trivial
      · exact hk s hs
  · next s' hr =>
    rw [hr] at h
    split
    · exact h
    · split
      · trivial
      · exact hk s' h
  · exact h

theorem sound_perform (i : Instr) (len : Nat) (body : Lane → M Next) (l : Lane) (hbody : ∀ x, Sound (body x)) :
    Sound (perform i len body l) := by
  grind [perform, sound_bind, sound_prepare, sound_keepElements, sound_complete]

theorem State.trapLane_memWf (s : State) (c : Issue) (i : Option Instr) (l : Lane) (cause : BitVec 8) (addr : Word64)
    (tpc : Option Word64) (hs : memWf s.mem = true) : memWf (s.trapLane c i l cause addr tpc).mem = true := by
  grind [State.trapLane, State.modThread_mem, State.takeTrap_memWf, State.consume_memWf, State.endByFault_mem]

theorem State.loseLane_memWf (s : State) (c : Issue) (l : Lane) (place : Local) (addr : Word64)
    (hs : memWf s.mem = true) : memWf (s.loseLane c l place addr).mem = true := by
  grind [State.loseLane, State.modThread_mem, State.consume_memWf]

theorem sound_trapAfter (i : Instr) (l : Lane) (cause : BitVec 8) (addr : Word64) :
    Sound (trapAfter i l cause addr : M α) := by
  refine ⟨fun s hs => ?_⟩
  unfold trapAfter
  split
  · exact State.trapLane_memWf _ _ _ _ _ _ _ hs
  · trivial

theorem State.markWait_mem (s : State) (l : Lane) : (s.markWait l).mem = s.mem := by
  grind [State.markWait, State.modThread_mem, State.modFront_mem]

theorem State.countIssue_mem (s : State) (l : Lane) : (s.countIssue l).mem = s.mem := by
  grind [State.countIssue, State.modThread_mem]

theorem State.setWait_mem (s : State) (l : Lane) (w : Wait) : (s.setWait l w).mem = s.mem := by
  grind [State.setWait, State.modThread_mem, State.modFront_mem]

theorem pageSleepAs_memWf (l : Lane) (addr : Word64) (access : BitVec 8) (req : TrapReq) (s : State)
    (hs : memWf s.mem = true) : memWf (pageSleepAs l addr access req s).mem = true := by
  have hc : memWf (s.countIssue l).mem = true := memWf_of_eq (State.countIssue_mem s l) hs
  unfold pageSleepAs
  split
  · dsimp only
    split
    · next s' r hr =>
      have h' : memWf s'.mem = true := memWf_recordFault hc hr
      exact memWf_of_eq (State.setWait_mem ..) h'
    · exact memWf_of_eq (State.setWait_mem ..) hc
  · exact hs

theorem pageSleep_memWf (i : Option Instr) (l : Lane) (addr : Word64) (access : BitVec 8) (s : State)
    (hs : memWf s.mem = true) : memWf (pageSleep i l addr access s).mem = true := by
  grind [pageSleep, pageSleepAs_memWf]

theorem State.endIfCancelled_mem (s : State) (l : Lane) : (s.endIfCancelled l).mem = s.mem := by
  grind [State.endIfCancelled, State.setTeam_mem]

theorem afterLane_memWf (c : Issue) (i : Instr) (onPage : Lane → Word64 → BitVec 8 → State → State) (l : Lane)
    (s : State) (r : Except Stop (Unit × State)) (hs : memWf s.mem = true) (hr : EndsOk r)
    (hpage : ∀ l addr access s, memWf s.mem = true → memWf (onPage l addr access s).mem = true) :
    memWf (afterLane c i onPage l s r).mem = true := by
  have hend (s : State) (h : memWf s.mem = true) : memWf (s.endIfCancelled l).mem = true :=
    memWf_of_eq (State.endIfCancelled_mem s l) h
  have hmark (s : State) (h : memWf s.mem = true) : memWf ((s.markWait l).endIfCancelled l).mem = true :=
    hend _ (memWf_of_eq (State.markWait_mem s l) h)
  unfold afterLane
  split
  · exact hr
  · exact hend _ (State.trapLane_memWf _ _ _ _ _ _ _ hs)
  · exact hend _ (State.trapLane_memWf _ _ _ _ _ _ _ hs)
  · exact hend _ (State.loseLane_memWf _ _ _ _ _ hs)
  · exact hend _ (hpage _ _ _ _ hs)
  · exact hend _ (pageSleepAs_memWf _ _ _ _ _ hs)
  · exact hmark _ hs
  · exact hmark _ hr
  · exact hend _ hr
  · exact hs

theorem State.watchdogTrap_memWf (s : State) (c : Issue) (l : Lane) (hs : memWf s.mem = true) :
    memWf (s.watchdogTrap c l).mem = true := by
  grind [State.watchdogTrap, State.takeTrap_memWf]

theorem stepLane_memWf (c : Issue) (i : Instr) (onPage : Lane → Word64 → BitVec 8 → State → State)
    (body : Lane → M Next) (s : State) (l : Lane) (hs : memWf s.mem = true) (hbody : ∀ l, Sound (body l))
    (hpage : ∀ l addr access s, memWf s.mem = true → memWf (onPage l addr access s).mem = true) :
    memWf (stepLane c i onPage body s l).mem = true := by
  unfold stepLane
  split
  · exact hs
  · split
    · exact State.watchdogTrap_memWf _ _ _ hs
    · exact afterLane_memWf _ _ _ _ _ _ hs ((sound_perform i _ body l hbody).ends s hs) hpage

theorem memWf_endLast {step : State → Lane → State}
    (hstep : ∀ s l, memWf s.mem = true → memWf (step s l).mem = true) (traps : State → Lane → Bool) (c : Issue)
    {s : State} (hs : memWf s.mem = true) : memWf (endLast step traps c s).mem = true := by
  have hskip (s : State) (l : Lane) (h : memWf s.mem = true) :
      memWf (if traps s l then s else step s l).mem = true := by
    split
    · exact h
    · exact hstep s l h
  unfold endLast
  extract_lets ends s' ids
  have h' : memWf s'.mem = true := memWf_foldl hskip _ hs
  clear_value s' ids
  split
  · exact hstep _ _ h'
  · exact h'

theorem memWf_inOrder {step : State → Lane → State}
    (hstep : ∀ s l, memWf s.mem = true → memWf (step s l).mem = true) (consumes : Lane → Bool)
    (traps : State → Lane → Bool) (c : Issue) {s : State} (hs : memWf s.mem = true) :
    memWf (inOrder step consumes traps c s).mem = true := by
  unfold inOrder
  split
  · exact hstep s _ hs
  · dsimp only
    split
    · exact memWf_endLast hstep traps c hs
    · exact memWf_foldl hstep _ hs

theorem sound_seq {m : M Unit} (hm : Sound m) : Sound (seq m) := sound_bind hm fun _ => sound_pure _

theorem sound_mapM {β γ : Type} {f : β → M γ} (hf : ∀ x, Sound (f x)) (l : List β) : Sound (l.mapM f) := by
  induction l with
  | nil => exact sound_pure _
  | cons x l ih =>
    rw [List.mapM_cons]
    exact sound_bind (hf x) fun _ => sound_bind ih fun _ => sound_pure _

theorem sound_theThread (l : Lane) : Sound (theThread l) := by
  grind [theThread, sound_trap, sound_pure]

end Sys2Proof.Machine
end

section
/-!
PROOFS. Memory's form under fetches, control flow and named barriers (O51).
-/

namespace Sys2Proof.Machine

theorem sound_erratum (ln : Lane) (id : Nat) : Sound (erratum ln id) := by
  grind [erratum, sound_bind, sound_getv, sound_pure, sound_getTeam]

theorem sound_fetchPhys (team core ctx pa : Nat) : Sound (fetchPhys team core ctx pa) := by
  refine sound_get fun s _ => ?_
  dsimp only
  split
  · exact sound_pure _
  · split
    · exact sound_pick ..
    · exact sound_bind (sound_modify fun _ hs => hs) fun _ => sound_pure _

theorem sound_codePart (team : Nat) (va : Word64) : Sound (codePart team va) := by
  grind [codePart, sound_bind, sound_trap, sound_pure, sound_getTeam, sound_checkGlobal]

theorem sound_checkCode (team : Nat) (va : Word64) : Sound (checkCode team va) := by
  grind [checkCode, sound_bind, sound_getv, sound_pure, sound_getTeam, sound_codePart]

theorem sound_fetchHalf (team : Nat) (va : Word64) : Sound (fetchHalf team va) := by
  refine sound_bind (sound_getTeam team) fun T => sound_get fun s _ => ?_
  split
  · exact sound_pure _
  · refine sound_bind (sound_codePart ..) fun p => sound_bind (sound_checkWords ..) fun _ => ?_
    split
    · exact sound_fetchPhys ..
    · exact sound_trap ..

theorem sound_fetchAt (team : Nat) (va : Word64) : Sound (fetchAt team va) := by
  refine sound_bind (sound_getTeam team) fun T => sound_bind (sound_fetchHalf team va) fun h => ?_
  have hnative : Sound (if !h.getLsbD 0 then pure (h.setWidth 32, 2, decode16 h) else do
      let h' ← fetchHalf team (va + 2)
      pure (h' ++ h, 4, decode32 (h' ++ h)) : M (Word × Nat × Option Instr)) := by
    grind [sound_bind, sound_fetchHalf, sound_pure]
  refine sound_get fun s _ => ?_
  split
  · split
    · split
      · exact hnative
      · split
        · exact sound_pure _
        · exact sound_pure _
    · exact hnative
  · exact hnative

theorem sound_un (d a : BitVec 8) (f : Word → Word) (ln : Lane) : Sound (un d a f ln) := by
  grind [un, sound_bind, sound_seq, sound_rd, sound_wr]

theorem sound_bin (d a b : BitVec 8) (f : Word → Word → Word) (ln : Lane) : Sound (bin d a b f ln) := by
  grind [bin, sound_bind, sound_seq, sound_rd, sound_wr]

theorem sound_ter (d a b : BitVec 8) (f : Word → Word → Word → Word) (ln : Lane) : Sound (ter d a b f ln) := by
  grind [ter, sound_bind, sound_seq, sound_rd, sound_wr]

theorem sound_compact (d : BitVec 6) (s : BitVec 5) (f : Word → Word → Word) (ln : Lane) :
    Sound (compact d s f ln) := sound_bin ..

theorem sound_setCond (e : BitVec 3) (and res : Bool) (ln : Lane) : Sound (setCond e and res ln) := by
  grind [setCond, sound_bind, sound_rdB, sound_wrB]

theorem sound_drawAt (team t : Nat) (seed : Word64) (replay n : Word) : Sound (drawAt team t seed replay n) := by
  grind [drawAt, sound_bind, sound_check, sound_pure, sound_getTeam, sound_readLocal]

theorem sound_draw15 (team t : Nat) : Sound (draw15 team t) := by
  grind [draw15, sound_bind, sound_pure, sound_getTeam, sound_getThread, sound_drawAt, sound_modThread]

theorem sound_pcOf (ln : Lane) : Sound (pcOf ln) := by
  grind [pcOf, sound_bind, sound_pure, sound_getFront, sound_getThread]

theorem sound_goTo (pc : Word64) : Sound (goTo pc) := by
  grind [goTo, sound_pure]

theorem sound_restOrWait (team t : Nat) : Sound (restOrWait team t) := by
  grind [restOrWait, sound_bind, sound_holdHere, sound_endHere, sound_getThread]

theorem sound_checkTarget (ln : Lane) (pc : Word64) : Sound (checkTarget ln pc) := by
  grind [checkTarget, sound_bind, sound_check, sound_checkCode]

theorem sound_checkLanding (ln : Lane) (pc : Word64) : Sound (checkLanding ln pc) := by
  refine sound_bind (sound_check ..) fun _ => sound_bind ⟨fun s hs => ?_⟩ fun ⟨w, _, _⟩ => sound_check ..
  have h := (sound_fetchAt ln.team pc).ends s hs
  split
  · trivial
  · trivial
  · exact h

theorem sound_exitLane (ln : Lane) : Sound (exitLane ln) := by
  grind [exitLane, sound_bind, sound_modify, sound_holdHere, sound_endHere, sound_modFront, State.reportLost_mem,
    sound_modThread, sound_modTeam, sound_getThread]

theorem sound_chainOf (ln : Lane) : Sound (chainOf ln) := by
  grind [chainOf, sound_bind, sound_trap, sound_pure, sound_getTeam, sound_theThread, sound_getGroup]

theorem sound_rttGo (ln : Lane) (i : Instr) : Sound (rttGo ln i) := by
  refine sound_bind (sound_theThread ln) fun t => sound_bind (sound_rttThread ..) fun target => ⟨fun s hs => ?_⟩
  have h := (sound_checkTarget ln target).ends s hs
  split
  · exact State.trapLane_memWf _ _ _ _ _ _ _ hs
  · exact pageSleepAs_memWf _ _ _ _ _ hs
  · next hr _ =>
    rw [hr] at h
    exact h.error
  · next hr => exact (sound_checkTarget ln target).apply hs hr

theorem sound_segmentAddr (ln : Lane) (T : BitVec 24) : Sound (segmentAddr ln T) := by
  grind [segmentAddr, sound_bind, sound_getv, sound_trap, sound_pure, sound_getTeam]

theorem sound_goSegment (ln : Lane) (T : BitVec 24) : Sound (goSegment ln T) := by
  grind [goSegment, sound_bind, sound_segmentAddr, sound_goTo]

theorem sound_bodyBra (c : BitVec 3) (s : Bool) (o : BitVec 21) (ln : Lane) : Sound (bodyBra c s o ln) := by
  grind [bodyBra, sound_bind, sound_pure, sound_pcOf, sound_rdB, sound_goTo]

theorem sound_bodyCall (c : BitVec 3) (s : Bool) (o : BitVec 21) (ln : Lane) : Sound (bodyCall c s o ln) := by
  grind [bodyCall, sound_bind, sound_pure, sound_pcOf, sound_rdB, sound_pushReturn, sound_goTo]

theorem sound_bodyJmpi (p : BitVec 8) (ln : Lane) : Sound (bodyJmpi p ln) := by
  grind [bodyJmpi, sound_bind, sound_rd64, sound_checkLanding, sound_goTo]

theorem sound_bodyCalli (p : BitVec 8) (ln : Lane) : Sound (bodyCalli p ln) := by
  grind [bodyCalli, sound_bind, sound_pcOf, sound_rd64, sound_checkLanding, sound_pushReturn, sound_goTo]

theorem sound_bodyRet (ln : Lane) : Sound (bodyRet ln) := by
  grind [bodyRet, sound_bind, sound_popReturn, sound_checkTarget, sound_goTo]

theorem sound_bodyExit (ln : Lane) : Sound (bodyExit ln) := sound_exitLane ln

theorem sound_bodyLand (ln : Lane) : Sound (bodyLand ln) := by
  grind [bodyLand, sound_pure]

theorem sound_bodyRcvSet (s : BitVec 4) (k : BitVec 3) (ln : Lane) : Sound (bodyRcvSet s k ln) := by
  grind [bodyRcvSet, sound_bind, sound_check, sound_pure, sound_seq, sound_getTeam, sound_theThread, sound_getGroup,
    sound_modGroupOf]

theorem sound_bodyRcvWait (k : BitVec 3) (ln : Lane) : Sound (bodyRcvWait k ln) :=
  sound_bind (sound_getTeam _) fun _ => sound_bind (sound_theThread ln) fun _ => sound_bind (sound_getGroup ..) fun _ =>
    sound_bind (sound_check ..) fun _ => sound_bind (sound_modGroupOf ..) fun _ => sound_bind
      (sound_modThread ..) fun _ =>
      sound_bind (sound_modTeam ..) fun _ => sound_restOrWait ..

theorem sound_bodyYld (dl n : BitVec 4) (ln : Lane) : Sound (bodyYld dl n ln) := by
  grind [bodyYld, sound_bind, sound_getv, sound_endHere, sound_pure, sound_getTeam, sound_modThread]

theorem sound_bodyStage (s : BitVec 2) (k : BitVec 16) (ln : Lane) : Sound (bodyStage s k ln) := by
  refine sound_bind (sound_chainOf ln) fun ⟨C, b⟩ => sound_bind (sound_theThread ln) fun t => ?_
  refine sound_bind (sound_getThread ..) fun h => sound_bind (sound_getGroup ..) fun G => ?_
  refine sound_bind (sound_check ..) fun _ => sound_bind (sound_getTeam _) fun T => ?_
  split
  · exact sound_hold
  · split
    · exact sound_bind (sound_modTeam ..) fun _ => sound_endHere
    · refine sound_bind (sound_modThread ..) fun _ => ?_
      split
      · exact sound_pure _
      · exact sound_goTo _

theorem sound_bodyChend (ln : Lane) : Sound (bodyChend ln) := by
  grind [bodyChend, sound_bind, sound_check, sound_seq, sound_chainOf, sound_theThread, sound_getThread, sound_modTeam]

theorem sound_bodyTrap (i : BitVec 8) (ln : Lane) : Sound (bodyTrap i ln) :=
  sound_bind (sound_pcOf ln) fun _ => sound_stop _ trivial

theorem sound_bodyRtt (ln : Lane) : Sound (bodyRtt ln) := by
  grind [bodyRtt, sound_rttGo]

theorem sound_bodyBop (d a b : BitVec 3) (o : BitVec 2) (ln : Lane) : Sound (bodyBop d a b o ln) := by
  grind [bodyBop, sound_bind, sound_seq, sound_rdB, sound_wrB]

theorem sound_bodyBrk (ln : Lane) : Sound (bodyBrk ln) := by
  grind [bodyBrk, sound_trap]

theorem sound_bodySuccGoto (t : BitVec 24) (ln : Lane) : Sound (bodySuccGoto t ln) := by
  grind [bodySuccGoto, sound_goSegment]

theorem sound_bodySuccBr (c : BitVec 3) (sense : Bool) (t1 t2 : BitVec 24) (ln : Lane) :
    Sound (bodySuccBr c sense t1 t2 ln) := by
  grind [bodySuccBr, sound_bind, sound_rdB, sound_goSegment]

theorem sound_bodySuccSw (i : BitVec 8) (ts : List (BitVec 24)) (ln : Lane) : Sound (bodySuccSw i ts ln) := by
  grind [bodySuccSw, sound_bind, sound_rd, sound_goSegment]

theorem sound_bodySuccCall (t tr : BitVec 24) (ln : Lane) : Sound (bodySuccCall t tr ln) := by
  grind [bodySuccCall, sound_bind, sound_segmentAddr, sound_pushReturn, sound_goTo]

theorem sound_bodySuccRet (ln : Lane) : Sound (bodySuccRet ln) := by
  grind [bodySuccRet, sound_bind, sound_getv, sound_trap, sound_check, sound_popReturn, sound_getTeam, sound_goTo]

theorem sound_bodySuccExit (ln : Lane) : Sound (bodySuccExit ln) := sound_exitLane ln

theorem sound_bodySuccRtt (ln : Lane) : Sound (bodySuccRtt ln) := by
  grind [bodySuccRtt, sound_rttGo]

theorem sound_arriveNb (team t k : Nat) (group : Bool) : Sound (arriveNb team t k group) := by
  grind [arriveNb, sound_bind, sound_check, sound_getTeam, sound_modTeam]

theorem sound_bodyNbInit (k : BitVec 4) (i : Bool) (n : BitVec 6) (ln : Lane) : Sound (bodyNbInit k i n ln) := by
  grind [bodyNbInit, sound_bind, sound_check, sound_seq, sound_barrier, sound_getTeam, sound_modTeam]

theorem sound_bodyNbExpect (k : BitVec 4) (i : Bool) (a : BitVec 8) (ln : Lane) : Sound (bodyNbExpect k i a ln) := by
  grind [bodyNbExpect, sound_bind, sound_check, sound_seq, sound_whole, sound_rd, sound_getTeam, sound_modTeam]

theorem sound_bodyNbArr (k : BitVec 4) (i : Bool) (d : BitVec 8) (g : Bool) (ln : Lane) :
    Sound (bodyNbArr k i d g ln) := by
  grind [bodyNbArr, sound_bind, sound_seq, sound_whole, sound_theThread, sound_getTeam, sound_wr, sound_arriveNb]

theorem sound_bodyNbWait (k : BitVec 4) (i : Bool) (a : BitVec 8) (ln : Lane) : Sound (bodyNbWait k i a ln) := by
  refine sound_bind (sound_letGo ln) fun _ => sound_bind (sound_whole ..) fun k => sound_bind
    (sound_theThread ln) fun t => ?_
  refine sound_bind (sound_rd ..) fun x => sound_bind (sound_pure _) fun tok => sound_bind (sound_getTeam _) fun T => ?_
  split
  · exact sound_pure _
  · exact sound_bind (sound_modThread ..) fun _ => sound_holdHere

theorem sound_bodyNbArw (k : BitVec 4) (i g : Bool) (ln : Lane) : Sound (bodyNbArw k i g ln) := by
  grind [bodyNbArw, sound_bind, sound_letGo, sound_whole, sound_theThread, sound_getTeam, sound_modThread,
    sound_arriveNb, sound_restOrWait]

theorem sound_bodyNbTest (k : BitVec 4) (i : Bool) (a : BitVec 8) (e : BitVec 3) (ln : Lane) :
    Sound (bodyNbTest k i a e ln) := by
  grind [bodyNbTest, sound_bind, sound_seq, sound_whole, sound_rd, sound_getTeam, sound_wrB]

end Sys2Proof.Machine
end

section
/-!
PROOFS. Memory's form under loads, stores, atomics, engines and copies (O51).
-/

namespace Sys2Proof.Machine

variable {α β : Type} {m : M α} {f : α → M β}

theorem sound_storeData (ln : Lane) (d : BitVec 8) (s : BitVec 3) : Sound (storeData ln d s) := by
  grind [storeData, sound_bind, sound_pure, sound_rd64, sound_theThread, sound_rdMany, sound_rd]

theorem sound_aligned (ea n : Nat) : Sound (aligned ea n) := by
  grind [aligned, sound_check]

theorem sound_checkAccess (ln : Lane) (ea n : Nat) (need : Need) (access : BitVec 8) :
    Sound (checkAccess ln ea n need access) := by
  grind [checkAccess, sound_bind, sound_getTeam, sound_checkGlobal]

theorem sound_orderBefore (ln : Lane) (ps : List Part) (store : Bool) : Sound (orderBefore ln ps store) := by
  grind [orderBefore, sound_bind, sound_getv, sound_holdHere, sound_pure, sound_getTeam, sound_readFirst,
    sound_commitFirst]

theorem sound_loadParts (ln : Lane) (ps : List Part) : Sound (loadParts ln ps) := by
  induction ps with
  | nil => exact sound_pure _
  | cons p ps ih =>
    have hrest (a : LoadPart) : Sound (do pure (a :: (← loadParts ln ps))) := sound_bind ih fun _ => sound_pure _
    unfold loadParts
    split
    · refine sound_get fun s _ => ?_
      split
      · exact sound_bind (sound_pure _) hrest
      · exact sound_bind (sound_readParts ..) fun _ => sound_bind (sound_pure _) hrest
    · exact sound_bind (sound_getTeam _) fun T => sound_bind (sound_remoteAs ..) fun _ => sound_bind
        (sound_pure _) hrest

theorem sound_loaded (ln : Lane) (d : BitVec 8) (s : BitVec 3) (l : Nat) (bs : List Byte) :
    Sound (loaded ln d s l bs) := by
  grind [loaded, sound_later]

theorem sound_setWait (ln : Lane) (w : Option Wait) : Sound (setWait ln w) := by
  grind [setWait, sound_modFront, sound_modThread]

theorem sound_acquireFirst (ln : Lane) (ps : List Part) : Sound (acquireFirst ln ps) := by
  grind [acquireFirst, sound_get, sound_holdHere, sound_pure]

theorem sound_finishParts (parts : List LoadPart) (bs : List Byte) : Sound (finishParts parts bs) := by
  grind [finishParts, sound_trap, sound_pure]

theorem sound_awaitParts (i : Instr) (ln : Lane) (ea : Nat) (parts : List LoadPart) :
    Sound (awaitParts i ln ea parts) := by
  grind [awaitParts, sound_bind, sound_holdHere, sound_finishParts, sound_setWait]

theorem sound_loadGlobal (i : Instr) (ln : Lane) (ea : Nat) (d : BitVec 8) (s : BitVec 3) (l : Nat) (acquire : Bool) :
    Sound (loadGlobal i ln ea d s l acquire) := by
  refine sound_bind (sound_checkAccess ..) fun ps => sound_when (sound_forM (sound_destOk ln) _) fun _ => ?_
  refine sound_bind (sound_orderBefore ..) fun _ => sound_when (sound_acquireFirst ..) fun _ => ?_
  refine sound_bind (sound_loadParts ..) fun parts => sound_bind (sound_awaitParts ..) fun bs => ?_
  exact sound_seq (sound_loaded ..)

theorem sound_storeGlobal (ln : Lane) (ea : Nat) (d : BitVec 8) (s : BitVec 3) (release : Bool) :
    Sound (storeGlobal ln ea d s release) := by
  refine sound_bind (sound_checkAccess ..) fun ps => sound_bind (sound_storeData ..) fun bs => ?_
  extract_lets write
  have hw : ∀ r, Sound (write r) := fun _ => sound_bind (sound_getTeam _) fun T => sound_seq (sound_writeParts ..)
  clear_value write
  split
  · refine sound_bind (sound_pushFirst ..) fun _ => ?_
    split
    · exact sound_bind (sound_drain _) hw
    · refine sound_bind (sound_commitPorch _) fun _ => sound_bind (sound_modify fun s hs => ?_) fun _ => ?_
      · exact memWf_of_eq (State.seal_mem ..) hs
      · exact sound_get fun s _ => sound_when sound_holdHere hw
  · exact sound_bind (sound_orderBefore ..) hw

theorem sound_loadHere (ln : Lane) (ea : Nat) (d : BitVec 8) (s : BitVec 3) (l : Nat) :
    Sound (loadHere ln ea d s l) := by
  grind [loadHere, sound_bind, sound_aligned, sound_loadLocal, sound_seq, sound_loaded]

theorem sound_storeHere (ln : Lane) (ea : Nat) (d : BitVec 8) (s : BitVec 3) (release : Bool) :
    Sound (storeHere ln ea d s release) := by
  grind [storeHere, sound_bind, sound_aligned, sound_resolveLocal, sound_storeData, sound_seq, sound_storeLocal,
    sound_pushFirst, sound_drain, sound_getTeam, sound_rcFirst, sound_commitPorch]

theorem sound_AtomOp_operand (op : AtomOp) (ln : Lane) (d : BitVec 8) : Sound (op.operand ln d) := by
  unfold AtomOp.operand
  split
  · exact sound_rd64 ..
  · exact sound_rd64 ..
  · exact sound_bind (sound_rd ..) fun _ => sound_pure _

theorem sound_entryFirst (t : Nat) (ps : List Part) : Sound (entryFirst t ps) := by
  grind [entryFirst, sound_bind, sound_modify, sound_holdHere, sound_pure, sound_getTeam, State.seal_mem,
    State.commitPorch_leaves_mem]

/-- One of two performances, and then what both go on with. -/
theorem sound_either {p : Prop} [Decidable p] {m m' : M α} {f : α → M β} (hm : Sound m) (hm' : Sound m')
    (hf : ∀ a, Sound (f a)) : Sound (if p then m >>= f else m' >>= f) := by
  split
  · exact sound_bind hm hf
  · exact sound_bind hm' hf

/-- The store that an atomic makes in memory, if it makes one. -/
theorem memWf_getD_writePhys {s : State} (hs : memWf s.mem = true) (new : Option (List Byte)) (pa : Nat)
    (p : BitVec 8) : memWf ((new.map fun bs => s.writePhys pa bs p).getD s).mem = true := by
  cases new with
  | none => exact hs
  | some bs => exact memWf_writePhys hs ..

theorem sound_atomGlobal (op : AtomOp) (ln : Lane) (ea : Nat) (d : BitVec 8) (l : Nat) (scope : BitVec 2) :
    Sound (atomGlobal op ln ea d l scope) := by
  refine sound_bind (sound_aligned ..) fun _ => sound_bind (sound_checkAccess ..) fun ps => ?_
  refine sound_either (sound_commitFirst _) (sound_entryFirst ..) fun _ => ?_
  refine sound_bind (sound_orderBefore ..) fun _ => sound_bind (sound_AtomOp_operand ..) fun x => ?_
  refine sound_bind (sound_getTeam _) fun T => ?_
  split
  · split
    · exact sound_bind (sound_remoteAs ..) fun id => sound_seq (sound_later ..)
    · refine sound_get fun s _ => ?_
      extract_lets overlap
      split
      · exact sound_holdHere
      · refine sound_bind (sound_checkWords ..) fun _ => sound_either ?_ ?_ fun _ => sound_seq (sound_later ..)
        · exact sound_modify fun s hs => memWf_of_eq (State.storePart_mem ..) hs
        · exact sound_modify fun s hs => memWf_getD_writePhys hs ..
  · exact sound_pure _

theorem sound_atomHere (op : AtomOp) (ln : Lane) (ea : Nat) (d : BitVec 8) (l : Nat) (wing : Bool) :
    Sound (atomHere op ln ea d l wing) := by
  refine sound_bind (sound_aligned ..) fun _ => sound_bind (sound_resolveLocal ..) fun p => ?_
  refine sound_when (sound_commitFirst _) fun _ => sound_bind (sound_AtomOp_operand ..) fun x => ?_
  refine sound_bind (sound_readLocal ..) fun bs => ?_
  extract_lets m result finish
  have hf : ∀ r, Sound (finish r) := fun _ => sound_seq (sound_later ..)
  clear_value finish
  split
  · exact sound_bind (sound_storeLocal ..) hf
  · exact sound_bind (sound_touchLocal ..) hf

theorem sound_reportRemote (ln : Lane) (b : BitVec 3) : Sound (reportRemote ln b) := by
  grind [reportRemote, sound_bind, sound_pure, sound_getThread, sound_wrB, sound_modThread, sound_getFront,
    sound_modFront]

theorem sound_bodyFence (s : BitVec 5) (b : BitVec 3) (ln : Lane) : Sound (bodyFence s b ln) := by
  grind [bodyFence, sound_bind, sound_seq, sound_reportRemote, sound_wrB, sound_drain]

theorem sound_newOp (ln : Lane) : Sound (newOp ln) := by
  grind [newOp, sound_bind, sound_get, sound_set, sound_pure, sound_pushFirst, sound_getTeam]

theorem sound_afterFork (team : Nat) (o : Origin) : Sound (afterFork team o) := by
  grind [afterFork, sound_get, sound_hold, sound_pure]

theorem State.sealOrigin_mem (s : State) (team : Nat) (o : Origin) : (s.sealOrigin team o).mem = s.mem := by
  grind [State.sealOrigin, State.sealOp_mem]

theorem sound_joined (team : Nat) (o : Origin) : Sound (joined team o) := by
  grind [joined, sound_bind, sound_getv, sound_modify, sound_pure, State.sealOrigin_mem]

theorem sound_askParts (agent team : Nat) (o : Origin) (ps : List Part) : Sound (askParts agent team o ps) := by
  induction ps with
  | nil => exact sound_pure _
  | cons p ps ih => grind [askParts, sound_bind, sound_pure, sound_readFirst, sound_readParts, sound_remoteAs]

theorem sound_engineRead (agent team : Nat) (o : Origin) (va n : Nat) : Sound (engineRead agent team o va n) := by
  grind [engineRead, sound_bind, sound_getTeam, sound_checkGlobal, sound_checkWords, sound_askParts]

theorem sound_sendParts (agent team : Nat) (o : Origin) (holes : List Nat) (ps : List Part) (bs : List Byte) :
    Sound (sendParts agent team o holes ps bs) := by
  induction ps generalizing bs with
  | nil => exact sound_pure _
  | cons p ps ih =>
    grind [sendParts, sound_bind, sound_modify, sound_pure, sound_mapM, sound_remoteAs, State.storePart_mem]

theorem sound_engineWrite (agent team : Nat) (o : Origin) (va : Nat) (bs : List Byte) (holes : List Nat) :
    Sound (engineWrite agent team o va bs holes) := by
  grind [engineWrite, sound_bind, sound_getTeam, sound_checkGlobal, sound_sendParts]

theorem sound_engineStoreGo (agent team : Nat) (o : Origin) (cs : List (Nat × List Byte)) :
    Sound (engineStoreGo agent team o cs) := by
  induction cs with
  | nil => exact sound_pure _
  | cons c cs ih => exact sound_bind (sound_engineWrite ..) fun _ => sound_bind ih fun _ => sound_pure _

theorem sound_engineStore (agent team : Nat) (o : Origin) (va : Nat) (bs : List Byte) :
    Sound (engineStore agent team o va bs) := by
  grind [engineStore, sound_engineStoreGo]

theorem sound_engineGet (agent team : Nat) (o : Origin) (here : Bool) (a n : Nat) :
    Sound (engineGet agent team o here a n) := by
  grind [engineGet, sound_bind, sound_pure, sound_loadLocal, sound_engineRead]

theorem sound_enginePut (agent team : Nat) (o : Origin) (here : Bool) (a : Nat) (bs : List Byte) :
    Sound (enginePut agent team o here a bs) := by
  grind [enginePut, sound_bind, sound_pure, sound_resolveLocal, sound_storeLocal, sound_engineStore]

theorem sound_engineGets (agent team : Nat) (o : Origin) (here : Bool) (rs : List (Nat × Nat)) :
    Sound (engineGets agent team o here rs) := by
  induction rs with
  | nil => exact sound_pure _
  | cons r rs ih => exact sound_bind (sound_engineGet ..) fun _ => sound_bind ih fun _ => sound_pure _

theorem sound_placeReady (at_ : Local × Nat) (named : Word64) : Sound (placeReady at_ named) := by
  grind [placeReady, sound_bind, sound_getv, sound_trap, sound_check, sound_hold, sound_pure]

/-- What a fault of an engine does keeps memory's form. -/
def FaultOk (onFault : BitVec 8 → Word64 → Option Local → State → State) : Prop :=
  ∀ c a l s, memWf s.mem = true → memWf (onFault c a l s).mem = true

theorem State.engineFault_memWf (s : State) (team : Nat) (o : Origin) (cause : BitVec 8) (addr : Word64)
    {onFault : BitVec 8 → Word64 → Option Local → State → State} (hf : FaultOk onFault) (hs : memWf s.mem = true) :
    memWf (s.engineFault team o cause addr onFault).mem = true := by
  unfold State.engineFault
  split
  · exact hf _ _ _ _ hs
  · split
    · next hr => exact hf _ _ _ _ ((sound_joined team o).run hs hr)
    · exact hs

theorem engineStep_memWf (s : State) (team : Nat) (o : Origin) {m : M Unit} {onPage : Word64 → State → State}
    {onFault : BitVec 8 → Word64 → Option Local → State → State} (hm : Sound m)
    (hp : ∀ a s, memWf s.mem = true → memWf (onPage a s).mem = true) (hf : FaultOk onFault)
    (hs : memWf s.mem = true) : memWf (engineStep s team o m onPage onFault).mem = true := by
  have h : Sound (do afterFork team o; m) := sound_bind (sound_afterFork team o) fun _ => hm
  have hsoon (s' : State) (h' : memWf s'.mem = true) :
      memWf (if s.tooSoon s' team then s.commitPorch team else s').mem = true := by
    split
    · exact memWf_of_eq (State.commitPorch_leaves_mem ..) hs
    · exact h'
  unfold engineStep
  split
  · next hr => exact hsoon _ (h.run hs hr)
  · exact hp _ _ hs
  · exact hp _ _ hs
  · exact hf _ _ _ _ hs
  · exact State.engineFault_memWf _ _ _ _ _ hf hs
  · exact State.engineFault_memWf _ _ _ _ _ hf hs
  · next hr => exact hsoon _ (h.held hs hr)
  · next hr => exact h.done hs hr
  · exact hs
  · exact hs

theorem State.report4_mem (s : State) (T : Team) (o : Origin) (agent : Nat) (cause : BitVec 8) (addr : Word64) :
    (s.report4 T o agent cause addr).mem = s.mem := by
  grind [State.report4, State.report_mem]

theorem sound_localRange (team : Nat) (x : Word) (n : Nat) : Sound (localRange team x n) := by
  grind [localRange, sound_get, sound_trap, sound_pure]

theorem sound_startCopy (ln : Lane) (C : Origin → Copy) : Sound (startCopy ln C) := by
  grind [startCopy, sound_bind, sound_newOp, sound_registerNb, sound_modTeam]

theorem sound_readCoords (ln : Lane) (sc rank : Nat) : Sound (readCoords ln sc rank) := by
  refine sound_mapM (fun j => ?_) _
  split
  · exact sound_bind (sound_rdS ..) fun _ => sound_pure _
  · exact sound_bind (sound_rd ..) fun _ => sound_pure _

theorem sound_boxCopy (kind : CopyKind) (sc : BitVec 5) (l c : BitVec 8) (ln : Lane) :
    Sound (boxCopy kind sc l c ln) := by
  refine sound_seq <| sound_bind (sound_rd ..) fun x => sound_bind (sound_rd ..) fun ctl => ?_
  refine sound_bind (sound_getTeam _) fun T => sound_get fun s _ => ?_
  refine sound_bind (sound_check ..) fun _ => sound_bind (sound_check ..) fun _ => sound_bind
    (sound_check ..) fun _ => ?_
  refine sound_bind (sound_readLocal ..) fun d => sound_bind (sound_check ..) fun _ => ?_
  exact sound_bind (sound_localRange ..) fun _ => sound_bind (sound_readCoords ..) fun _ => sound_startCopy ..

theorem sound_byteCount (ctl : Word) : Sound (byteCount ctl) := by
  grind [byteCount, sound_bind, sound_check, sound_pure]

theorem sound_localCopy (p c : BitVec 8) (ln : Lane) : Sound (localCopy p c ln) := by
  refine sound_seq ?_
  extract_lets start
  have hs : ∀ pr, Sound (start pr) := fun _ =>
    sound_bind (sound_rd ..) fun _ => sound_bind (sound_byteCount _) fun _ => sound_bind (sound_localRange ..) fun _ =>
      sound_bind (sound_localRange ..) fun _ => sound_startCopy ..
  clear_value start
  split
  · exact sound_bind (sound_rd64 ..) fun _ => sound_bind (sound_pure _) hs
  · exact sound_bind (sound_rd64 ..) hs

theorem sound_globalCopy (p c : BitVec 8) (ln : Lane) : Sound (globalCopy p c ln) := by
  grind [globalCopy, sound_bind, sound_seq, sound_rd64, sound_rd, sound_byteCount, sound_startCopy]

theorem sound_bodyCpyG2l (s : BitVec 5) (l c : BitVec 8) (ln : Lane) : Sound (bodyCpyG2l s l c ln) := sound_boxCopy ..

theorem sound_bodyCpyL2g (s : BitVec 5) (l c : BitVec 8) (ln : Lane) : Sound (bodyCpyL2g s l c ln) := sound_boxCopy ..

theorem sound_bodyCpyL2l (p c : BitVec 8) (ln : Lane) : Sound (bodyCpyL2l p c ln) := sound_localCopy ..

theorem sound_bodyCpyG2g (p c : BitVec 8) (ln : Lane) : Sound (bodyCpyG2g p c ln) := sound_globalCopy ..

theorem sound_bodyCpyPfx (_p c : BitVec 8) (ln : Lane) : Sound (bodyCpyPfx _p c ln) := by
  grind [bodyCpyPfx, sound_bind, sound_check, sound_seq, sound_rd]

theorem sound_readMoves (team : Nat) (C : Copy) (ms : List (Side × Side × Nat)) : Sound (readMoves team C ms) := by
  induction ms with
  | nil => exact sound_pure _
  | cons m ms ih =>
    obtain ⟨src, dst, n⟩ := m
    have hrest (a : List LoadPart) : Sound (do pure (a ++ (← readMoves team C ms))) :=
      sound_bind ih fun _ => sound_pure _
    unfold readMoves
    split
    · exact sound_bind (sound_engineRead ..) hrest
    · split
      · exact sound_bind (sound_placeReady ..) fun _ => sound_bind (sound_readLocal ..) fun _ =>
          sound_bind (sound_pure _) hrest
      · exact sound_bind (sound_pure _) hrest

theorem sound_writeMoves (team : Nat) (C : Copy) (ms : List (Side × Side × Nat)) (bs : List Byte) :
    Sound (writeMoves team C ms bs) := by
  unfold writeMoves
  split
  · exact sound_pure _
  · exact sound_engineWrite ..
  · split
    · exact sound_bind (sound_placeReady ..) fun _ => sound_bind (sound_storeLocal ..) fun _ => sound_pure _
    · exact sound_pure _

theorem sound_modCopy (team id : Nat) (f : Copy → Copy) : Sound (modCopy team id f) := by
  grind [modCopy, sound_modTeam]

theorem sound_finishCopy (team id : Nat) (C : Copy) : Sound (finishCopy team id C) := by
  grind [finishCopy, sound_bind, sound_pure, sound_joined, sound_modTeam]

theorem sound_landPiece (team id : Nat) (C : Copy) (n : Nat) : Sound (landPiece team id C n) := by
  grind [landPiece, sound_bind, sound_pure, sound_modTeam, sound_finishCopy]

theorem sound_copyPiece (team id : Nat) (C : Copy) : Sound (copyPiece team id C) := by
  grind [copyPiece, sound_bind, sound_holdHere, sound_finishCopy, sound_modCopy, sound_writeMoves, sound_landPiece,
    sound_readMoves]

theorem State.abandonCopy_memWf (s : State) (team id : Nat) (C : Copy) (cause : BitVec 8) (addr : Word64)
    (place : Option Local) (hs : memWf s.mem = true) :
    memWf (s.abandonCopy team id C cause addr place).mem = true := by
  grind [State.abandonCopy, State.setTeam_mem, State.report4_mem, State.consume_memWf]

end Sys2Proof.Machine
end

section
/-!
PROOFS. Memory's form under translation, launches, streams, wings and system instructions (O51).
-/

namespace Sys2Proof.Machine

variable {α β : Type} {m : M α} {f : α → M β}

theorem sound_refuse : Sound (refuse : M α) := sound_trap ..

theorem sound_need (c : Bool) : Sound (need c) := by
  grind [need, sound_check]

theorem sound_sysReadGo (c : Nat) (need : Need) (ps : List Part) : Sound (sysReadGo c need ps) := by
  induction ps with
  | nil => exact sound_pure _
  | cons p ps ih =>
    have hrest (bs : List Byte) : Sound (do pure (bs ++ (← sysReadGo c need ps))) := sound_bind ih fun _ => sound_pure _
    unfold sysReadGo
    split
    · exact sound_get fun s _ => sound_bind (sound_pure _) hrest
    · exact sound_bind sound_refuse hrest

theorem sound_sysReadAs (c : Nat) (need : Need) (va : Word64) (n : Nat) : Sound (sysReadAs c need va n) := by
  grind [sysReadAs, sound_bind, sound_pure, sound_checkGlobal, sound_checkWords, sound_sysReadGo]

theorem sound_sysRead (c : Nat) (va : Word64) (n : Nat) : Sound (sysRead c va n) := by
  grind [sysRead, sound_sysReadAs]

theorem sound_imageRead (c : Nat) (va : Word64) (n : Nat) : Sound (imageRead c va n) := by
  grind [imageRead, sound_sysReadAs]

theorem roomFor_mem {n fuel : Nat} {s s' : State} (h : roomFor n fuel s = some s') : s'.mem = s.mem := by
  induction fuel generalizing s with
  | zero => cases h
  | succ fuel ih =>
    unfold roomFor at h
    split at h
    · cases h
      rfl
    · split at h
      · rw [ih h, State.discardXlat_mem]
      · cases h

theorem sound_translation (ctx : Nat) (image : Word64) (h : Image) : Sound (translation ctx image h) := by
  refine sound_get fun s _ => ?_
  dsimp only
  split
  · exact sound_pure _
  · refine sound_bind (sound_imageRead ..) fun _ => sound_bind (sound_imageRead ..) fun _ => ?_
    refine sound_bind (sound_need _) fun _ => sound_get fun s hs => ?_
    split
    · next s' hr =>
      have h' : memWf s'.mem = true := memWf_of_eq (roomFor_mem hr) hs
      exact sound_bind (sound_set h') fun _ => sound_pure _
    · exact sound_refuse

theorem sound_chooseBody (ctx : Nat) (r : LaunchRec) : Sound (chooseBody ctx r) := by
  refine sound_bind (sound_imageRead ..) fun hd => sound_bind (sound_need _) fun _ => ?_
  extract_lets h
  refine sound_get fun s _ => ?_
  split
  · refine sound_bind (sound_need _) fun _ => sound_bind (sound_need _) fun _ => ?_
    exact sound_either (sound_pure _) (sound_imageRead ..) fun tt => sound_pure _
  · split
    · refine sound_bind (sound_translation ..) fun k => sound_get fun s _ => ?_
      split
      · exact sound_bind (sound_need _) fun _ => sound_pure _
      · exact sound_refuse
    · exact sound_refuse

theorem sound_readCard (ctx : Nat) (r : LaunchRec) (b : Body15) : Sound (readCard ctx r b) := by
  grind [readCard, sound_bind, sound_pure, sound_sysRead, sound_need]

theorem State.createTeams_mem (s : State) (id : Nat) : (s.createTeams id).mem = s.mem := by
  have hf (ts : List Team) (s : State) : (ts.foldl State.addTeam s).mem = s.mem := by
    induction ts generalizing s with
    | nil => rfl
    | cons T ts ih => exact ih _
  unfold State.createTeams
  split
  · split
    · rfl
    · exact hf _ s
  · rfl

theorem sound_admitRec (ctx : Nat) (r : LaunchRec) (prio : Nat) : Sound (admitRec ctx r prio) := by
  grind [admitRec, sound_bind, sound_get, sound_set, sound_need, sound_sysRead, sound_chooseBody, sound_readCard,
    State.createTeams_mem]

theorem State.launchAnswer_mem (s : State) (team : Nat) (dest : BitVec 8) (v : Word64) :
    (s.launchAnswer team dest v).mem = s.mem := by
  grind [State.launchAnswer, State.modFront_mem]

theorem sound_submitRecord (ln : Lane) (d : BitVec 8) (bs : List Byte) : Sound (submitRecord ln d bs) := by
  grind [submitRecord, sound_bind, sound_get, sound_set, sound_holdHere, sound_seq, sound_wr, sound_getTeam,
    sound_setWait]

theorem sound_bodyFtlaunch (d a : BitVec 8) (ln : Lane) : Sound (bodyFtlaunch d a ln) := by
  refine sound_bind (sound_rd64 ..) fun _ => sound_bind (sound_aligned ..) fun _ => ?_
  refine sound_bind (sound_checkAccess ..) fun ps => sound_bind (sound_drain _) fun _ => ?_
  refine sound_bind (sound_orderBefore ..) fun _ => sound_bind (sound_loadParts ..) fun _ => ?_
  exact sound_bind (sound_awaitParts ..) fun bs => sound_submitRecord ..

theorem sound_portRest (team : Nat) (p : BitVec 2) : Sound (portRest team p) := by
  grind [portRest, sound_bind, sound_hold, sound_pure, sound_getTeam]

theorem sound_bodyStrm (same : Bool) (p : BitVec 2) (d : BitVec 8) (ln : Lane) : Sound (bodyStrm same p d ln) := by
  refine sound_seq <| sound_bind (sound_rd ..) fun _ => sound_bind (sound_check ..) fun _ => ?_
  refine sound_bind (sound_portRest ..) fun _ => sound_bind (sound_getTeam _) fun T => ?_
  refine sound_bind (sound_check ..) fun _ => sound_bind (sound_readLocal ..) fun r => ?_
  refine sound_bind (sound_check ..) fun _ => sound_get fun s _ => ?_
  split
  · exact sound_bind (sound_check ..) fun _ => sound_modTeam ..
  · exact sound_trap ..

theorem sound_bodyStrmOff (p : BitVec 2) (ln : Lane) : Sound (bodyStrmOff p ln) := by
  grind [bodyStrmOff, sound_bind, sound_seq, sound_portRest, sound_modTeam]

theorem sound_bodyWjoin (same : Bool) (d a : BitVec 8) (ln : Lane) : Sound (bodyWjoin same d a ln) := by
  grind [bodyWjoin, sound_bind, sound_getv, sound_check, sound_seq, sound_rd, sound_getTeam, sound_modTeam, sound_wr]

theorem sound_bodyWleave (ln : Lane) : Sound (bodyWleave ln) := by
  refine sound_seq <| sound_bind (sound_waitOf ln) fun w => ?_
  split
  · refine sound_get fun s _ => ?_
    split
    · exact sound_holdHere
    · exact sound_pure _
  · refine sound_bind (sound_getTeam _) fun T => ?_
    split
    · exact sound_pure _
    · refine sound_get fun s _ => sound_bind (sound_modify fun s hs => ?_) fun _ => sound_get fun s _ => ?_
      · exact memWf_of_eq (State.quitWing_mem ..) hs
      · split
        · exact sound_bind (sound_setWait ..) fun _ => sound_holdHere
        · exact sound_pure _

theorem sound_bodyWmap (same : Bool) (w : BitVec 4) (d a : BitVec 8) (ln : Lane) : Sound (bodyWmap same w d a ln) := by
  refine sound_seq <| sound_bind (sound_rd ..) fun m => sound_bind (sound_check ..) fun _ => ?_
  refine sound_bind (sound_getTeam _) fun T => sound_get fun s _ => ?_
  split
  · exact sound_wr ..
  · split
    · exact sound_wr ..
    · exact sound_bind (sound_modTeam ..) fun _ => sound_wr ..

theorem sound_bodyWquery (d : BitVec 8) (ln : Lane) : Sound (bodyWquery d ln) := by
  grind [bodyWquery, sound_bind, sound_getv, sound_seq, sound_getTeam, sound_wr]

theorem sound_readSreg (ln : Lane) (i : Nat) : Sound (readSreg ln i) := by
  grind [readSreg, sound_bind, sound_getv, sound_pure, sound_getTeam, sound_clockOf, sound_getThread, sound_getGroup]

theorem sound_bodySrd (d i : BitVec 8) (ln : Lane) : Sound (bodySrd d i ln) := by
  grind [bodySrd, sound_bind, sound_seq, sound_readSreg, sound_wr]

theorem State.writeKillctl_memWf (s : State) (ctx : Nat) (v : Word) (hs : memWf s.mem = true) :
    memWf (s.writeKillctl ctx v).mem = true := by
  grind [State.writeKillctl, State.setCtx_mem, State.startKill_memWf]

theorem sound_writeSreg (ln : Lane) (i : Nat) (v : Word) : Sound (writeSreg ln i v) := by
  grind [writeSreg, sound_bind, sound_modify, sound_check, sound_hold, sound_getTeam, sound_theThread,
    sound_modGroupOf, sound_modTeam, sound_modThread, State.setCtx_mem, State.writeKillctl_memWf]

theorem sound_bodySwr (same : Bool) (a i : BitVec 8) (ln : Lane) : Sound (bodySwr same a i ln) := by
  grind [bodySwr, sound_bind, sound_check, sound_seq, sound_rd, sound_writeSreg]

theorem sound_bodyMovs (same : Bool) (a : BitVec 8) (s : BitVec 6) (ln : Lane) : Sound (bodyMovs same a s ln) := by
  grind [bodyMovs, sound_bind, sound_check, sound_seq, sound_rd, sound_theThread, sound_modGroupOf]

theorem sound_bodySmov (d : BitVec 8) (s : BitVec 6) (ln : Lane) : Sound (bodySmov d s ln) := by
  grind [bodySmov, sound_bind, sound_seq, sound_rdS, sound_wr]

theorem sound_bodyChseed (k : BitVec 3) (a : BitVec 8) (ln : Lane) : Sound (bodyChseed k a ln) := by
  refine sound_seq <| sound_bind (sound_theThread ln) fun t => sound_bind (sound_getTeam _) fun T => ?_
  refine sound_bind (sound_getGroup ..) fun G => sound_bind (sound_getThread ..) fun h => ?_
  split
  · exact sound_bind (sound_check ..) fun _ => sound_bind (sound_rd ..) fun _ => sound_modTeam ..
  · exact sound_trap ..

theorem sound_bodyIcinv (ln : Lane) : Sound (bodyIcinv ln) := by
  grind [bodyIcinv, sound_bind, sound_modify, sound_seq, sound_drain, sound_getTeam]

theorem sound_settleAccesses (team ctx : Nat) : Sound (settleAccesses team ctx) := by
  grind [settleAccesses, sound_bind, sound_getv, sound_holdHere, sound_pure, sound_getTeam, sound_commitPorch]

theorem sound_bodyTlbinvAll (a : BitVec 8) (ln : Lane) : Sound (bodyTlbinvAll a ln) := by
  grind [bodyTlbinvAll, sound_bind, sound_modify, sound_seq, sound_rd, State.setCtx_mem, sound_settleAccesses]

theorem sound_bodyTlbinvPage (a : BitVec 8) (ln : Lane) : Sound (bodyTlbinvPage a ln) := by
  grind [bodyTlbinvPage, sound_bind, sound_modify, sound_seq, sound_rd64, sound_getTeam, State.setCtx_mem,
    sound_settleAccesses]

theorem sound_bodyTlbinvHeap (ln : Lane) : Sound (bodyTlbinvHeap ln) := by
  grind [bodyTlbinvHeap, sound_bind, sound_modify, sound_seq, sound_getTeam, State.setCtx_mem, sound_settleAccesses]

theorem sound_bodyKillctx (d a : BitVec 8) (ln : Lane) : Sound (bodyKillctx d a ln) := by
  refine sound_seq <| sound_bind (sound_destOk ln d) fun _ => sound_bind (sound_commitPorch _) fun _ => ?_
  refine sound_bind (sound_getTeam _) fun T => sound_get fun s hs => sound_bind (sound_waitOf ln) fun w => ?_
  split
  · split
    · exact sound_holdHere
    · exact sound_wr ..
  · split
    · exact sound_holdHere
    · refine sound_bind (sound_rd ..) fun v => ?_
      dsimp only
      split
      · exact sound_wr ..
      · split
        · exact sound_wr ..
        · exact sound_bind (sound_set (State.startKill_memWf _ _ _ hs)) fun _ =>
            sound_bind (sound_setWait ..) fun _ => sound_holdHere

theorem sound_bodyFtwaitNb (a : BitVec 8) (k : BitVec 5) (ln : Lane) : Sound (bodyFtwaitNb a k ln) := by
  grind [bodyFtwaitNb, sound_bind, sound_check, sound_holdHere, sound_pure, sound_letGo, sound_getTeam, sound_rd,
    sound_setWait]

theorem sound_bodyFtwaitDq (a : BitVec 8) (k : BitVec 5) (ln : Lane) : Sound (bodyFtwaitDq a k ln) := by
  grind [bodyFtwaitDq, sound_bind, sound_check, sound_hold, sound_pure, sound_seq, sound_getTeam, sound_rd64]

theorem sound_bodyFtwaitMx (ln : Lane) : Sound (bodyFtwaitMx ln) := by
  grind [bodyFtwaitMx, sound_bind, sound_hold, sound_pure, sound_seq, sound_getTeam]

theorem sound_bodyFtwaitRsh (ln : Lane) : Sound (bodyFtwaitRsh ln) := by
  grind [bodyFtwaitRsh, sound_bind, sound_hold, sound_pure, sound_seq, sound_getTeam]

theorem sound_bodyFtwaitClk (a : BitVec 8) (ln : Lane) : Sound (bodyFtwaitClk a ln) := by
  grind [bodyFtwaitClk, sound_bind, sound_hold, sound_pure, sound_seq, sound_rd64, sound_clockOf]

end Sys2Proof.Machine
end

section
/-!
PROOFS. Memory's form under matrix commands, re-shard operations and placement (O51).
-/

namespace Sys2Proof.Machine

theorem sound_mxRoom (team : Nat) : Sound (mxRoom team) := by
  grind [mxRoom, sound_bind, sound_hold, sound_pure, sound_getTeam]

theorem sound_mxEnqueue (team : Nat) (c : MxCmd) : Sound (mxEnqueue team c) := by
  grind [mxEnqueue, sound_bind, sound_registerNb, sound_modTeam]

theorem sound_mxCmd (ln : Lane) (kind : MxKind) (bar : Option Nat) (draws : List Nat) :
    Sound (mxCmd ln kind bar draws) := by
  grind [mxCmd, sound_bind, sound_pure, sound_nfmt, sound_fpctl, sound_newOp]

theorem sound_mxIssueBlock (ln : Lane) (d : List Byte) : Sound (mxIssueBlock ln d) := by
  grind [mxIssueBlock, sound_bind, sound_check, sound_nfmt, sound_getTeam, sound_mxCmd, sound_mxEnqueue]

theorem sound_bodyMxIssue (same : Bool) (a : BitVec 8) (ln : Lane) : Sound (bodyMxIssue same a ln) := by
  grind [bodyMxIssue, sound_bind, sound_check, sound_seq, sound_rd, sound_mxRoom, sound_readBlock, sound_mxIssueBlock]

theorem sound_bodyMxIssueS (e : BitVec 2) (ln : Lane) : Sound (bodyMxIssueS e ln) :=
  sound_seq <| sound_bind (sound_mxRoom _) fun _ => sound_bind (sound_mapM (fun _ => sound_rdS ..) _) fun _ =>
    sound_mxIssueBlock ..

theorem sound_bodyMxZero (n : Bool) (ln : Lane) : Sound (bodyMxZero n ln) := by
  grind [bodyMxZero, sound_bind, sound_check, sound_seq, sound_mxRoom, sound_getTeam, sound_mxCmd, sound_mxEnqueue]

theorem sound_reserveDraws (ln : Lane) (n : Nat) : Sound (reserveDraws ln n) := by
  induction n with
  | zero => exact sound_pure _
  | succ n ih =>
    have hrest (u : Nat) : Sound (do pure (u :: (← reserveDraws ln n))) := sound_bind ih fun _ => sound_pure _
    unfold reserveDraws
    split
    · exact sound_bind (sound_draw15 ..) hrest
    · exact sound_get fun s hs => sound_bind (sound_set hs) fun _ => sound_bind (sound_pure _) hrest

theorem sound_mxTransfer (ln : Lane) (n : Bool) (x : Nat) (kind : List Byte → MxKind) (sr : Bool) :
    Sound (mxTransfer ln n x kind sr) := by
  refine sound_bind (sound_mxRoom _) fun _ => sound_bind (sound_readBlock ..) fun d => ?_
  refine sound_bind (sound_getTeam _) fun T => sound_bind (sound_nfmt ln) fun _ => sound_bind
    (sound_check ..) fun _ => ?_
  refine sound_either (sound_reserveDraws ..) (sound_pure _) fun draws => ?_
  exact sound_bind (sound_mxCmd ..) fun c => sound_mxEnqueue ..

theorem sound_bodyMxStore (same : Bool) (q p : BitVec 2) (n : Bool) (a : BitVec 8) (ln : Lane) :
    Sound (bodyMxStore same q p n a ln) := by
  grind [bodyMxStore, sound_bind, sound_check, sound_seq, sound_rd, sound_mxTransfer]

theorem sound_bodyMxLoad (same n : Bool) (a : BitVec 8) (ln : Lane) : Sound (bodyMxLoad same n a ln) := by
  grind [bodyMxLoad, sound_bind, sound_check, sound_seq, sound_rd, sound_mxTransfer]

theorem sound_mxWait (ln : Lane) : Sound (mxWait ln) := by
  grind [mxWait, sound_bind, sound_holdHere, sound_pure, sound_getTeam, sound_waitOf, sound_setWait]

theorem sound_bodyMxProg (d : BitVec 8) (w : Bool) (ln : Lane) : Sound (bodyMxProg d w ln) := by
  grind [bodyMxProg, sound_bind, sound_seq, sound_getTeam, sound_modTeam, sound_trapAfter, sound_wr, sound_mxWait]

theorem sound_modMx (team : Nat) (f : Mx → Mx) : Sound (modMx team f) := by
  grind [modMx, sound_modTeam]

theorem State.mxAbandon_memWf (s : State) (team : Nat) (c : MxCmd) (cause : BitVec 8) (addr : Word64)
    (place : Option Local) (hs : memWf s.mem = true) : memWf (s.mxAbandon team c cause addr place).mem = true := by
  grind [State.mxAbandon, State.setTeam_mem, State.report4_mem, State.consume_memWf]

theorem State.enginePage_memWf (s : State) (ctx : Nat) (a : Word64) (hs : memWf s.mem = true) :
    memWf (s.enginePage ctx a).1.mem = true := by
  unfold State.enginePage
  split
  · next hr => exact memWf_recordFault hs hr
  · exact hs

theorem State.mxPage_memWf (s : State) (team : Nat) (c : MxCmd) (addr : Word64) (hs : memWf s.mem = true) :
    memWf (s.mxPage team c addr).mem = true := by
  unfold State.mxPage
  split
  · next T _ =>
    have h := State.enginePage_memWf s T.ctx addr hs
    dsimp only
    split
    · exact memWf_of_eq (State.modTeam_mem ..) h
    · exact memWf_of_eq (State.modTeam_mem ..) h
  · exact hs

theorem mxStep_memWf (s : State) (team : Nat) (ready : MxCmd → Bool) {m : MxCmd → M Unit} (hm : ∀ c, Sound (m c))
    (hs : memWf s.mem = true) : memWf (mxStep s team ready m).mem = true := by
  unfold mxStep
  split
  · exact hs
  · split
    · exact hs
    · refine engineStep_memWf _ _ _ (hm _) (fun a s h => ?_) (fun cause a at_ s h => ?_) hs
      · exact State.mxPage_memWf _ _ _ _ h
      · exact State.mxAbandon_memWf _ _ _ _ _ _ h

theorem sound_mxFetch (team : Nat) (c : MxCmd) (ask : M (List LoadPart)) (hask : Sound ask) :
    Sound (mxFetch team c ask) := by
  grind [mxFetch, sound_bind, sound_holdHere, sound_pure, sound_modMx]

theorem sound_checkTrailer (team : Nat) (c : MxCmd) (o : Opnd) (h l : Nat) : Sound (checkTrailer team c o h l) := by
  grind [checkTrailer, sound_bind, sound_check, sound_mxFetch, sound_engineGets]

theorem sound_mxTrailer (team : Nat) (c : MxCmd) : Sound (mxTrailer team c) := by
  grind [mxTrailer, sound_bind, sound_pure, sound_checkTrailer, sound_modMx]

theorem sound_fetchRuns (team : Nat) (o : Origin) (rs : List (Bool × Nat × Nat)) : Sound (fetchRuns team o rs) := by
  induction rs with
  | nil => exact sound_pure _
  | cons r rs ih => exact sound_bind (sound_engineGet ..) fun _ => sound_bind ih fun _ => sound_pure _

theorem sound_mxSlice (team : Nat) (c : MxCmd) : Sound (mxSlice team c) := by
  grind [mxSlice, sound_bind, sound_pure, sound_getTeam, sound_mxFetch, sound_fetchRuns, sound_modMx, sound_modTeam]

theorem sound_putRuns (team : Nat) (o : Origin) (here : Bool) (rs : List (Nat × Nat)) (bs : List Byte) :
    Sound (putRuns team o here rs bs) := by
  induction rs generalizing bs with
  | nil => exact sound_pure _
  | cons r rs ih => exact sound_bind (sound_enginePut ..) fun _ => sound_bind (ih _) fun _ => sound_pure _

theorem sound_mxFinish (team : Nat) (c : MxCmd) : Sound (mxFinish team c) := by
  grind [mxFinish, sound_bind, sound_pure, sound_joined, sound_modTeam]

theorem sound_mxLand (team : Nat) (c : MxCmd) (out : List Nat) : Sound (mxLand team c out) := by
  grind [mxLand, sound_bind, sound_pure, sound_modTeam, sound_mxFinish, sound_modMx]

theorem sound_mxStoreRow (team : Nat) (c : MxCmd) : Sound (mxStoreRow team c) := by
  grind [mxStoreRow, sound_bind, sound_trap, sound_pure, sound_mxFinish, sound_getTeam, sound_mxLand, sound_putRuns,
    sound_enginePut]

theorem sound_mxLoadRow (team : Nat) (c : MxCmd) : Sound (mxLoadRow team c) := by
  grind [mxLoadRow, sound_bind, sound_pure, sound_mxFinish, sound_checkTrailer, sound_mxLand, sound_mxFetch,
    sound_engineGets, sound_modMx]

theorem sound_readLayouts (team src dst : Nat) : Sound (readLayouts team src dst) := by
  refine sound_bind (sound_check ..) fun _ => sound_bind (sound_check ..) fun _ => ?_
  refine sound_bind (sound_readBlock ..) fun a => sound_bind (sound_check ..) fun _ => ?_
  refine sound_bind (sound_readBlock ..) fun b => sound_bind (sound_check ..) fun _ => ?_
  exact sound_bind (sound_check ..) fun _ => sound_pure _

theorem sound_bodyRshPlan (same : Bool) (d a : BitVec 8) (ln : Lane) : Sound (bodyRshPlan same d a ln) := by
  refine sound_seq <| sound_bind (sound_rd ..) fun x => sound_bind (sound_check ..) fun _ => ?_
  refine sound_bind (sound_readBlock ..) fun q => sound_bind (sound_check ..) fun _ => ?_
  refine sound_bind (sound_check ..) fun _ => sound_bind (sound_readLayouts ..) fun ⟨src, dst⟩ =>
    sound_get fun s _ => ?_
  split
  · exact sound_trap ..
  · split
    · refine sound_bind (sound_getTeam _) fun T => sound_bind (sound_check ..) fun _ => ?_
      extract_lets finish
      have hf : ∀ r, Sound (finish r) := fun _ => sound_wr ..
      clear_value finish
      split
      · exact hf _
      · exact sound_bind (sound_rcFirst ..) fun _ => sound_bind (sound_storeLocal ..) hf
    · exact sound_wr ..

theorem sound_checkGo (team : Nat) (g : List Byte) : Sound (checkGo team g) := by
  grind [checkGo, sound_bind, sound_check, sound_pure, sound_readLayouts, sound_getTeam]

theorem sound_canRegister (team : Nat) (k : Option Nat) : Sound (canRegister team k) := by
  refine ⟨fun s hs => ?_⟩
  have h := (sound_registerNb team k).ends s hs
  unfold canRegister
  split
  · exact hs
  · next hr =>
    rw [hr] at h
    exact h.error

theorem sound_rshStart (ln : Lane) (g : List Byte) (recs : List Byte × List Byte) (entry row : BitVec 16) :
    Sound (rshStart ln g recs entry row) := by
  grind [rshStart, sound_bind, sound_canRegister, sound_commitFirst, sound_registerNb, sound_newOp, sound_modTeam]

theorem sound_bodyRshGo (same : Bool) (a : BitVec 8) (ln : Lane) : Sound (bodyRshGo same a ln) := by
  grind [bodyRshGo, sound_bind, sound_check, sound_hold, sound_seq, sound_rd, sound_getTeam, sound_readBlock,
    sound_checkGo, sound_rshStart]

theorem sound_bodyRshPoll (d : BitVec 8) (w : Bool) (ln : Lane) : Sound (bodyRshPoll d w ln) := by
  grind [bodyRshPoll, sound_bind, sound_hold, sound_seq, sound_getTeam, sound_modTeam, sound_trapAfter, sound_wr]

theorem sound_bodyRshSave (same : Bool) (a : BitVec 8) (ln : Lane) : Sound (bodyRshSave same a ln) := by
  refine sound_seq <| sound_bind (sound_rd ..) fun x => sound_bind (sound_check ..) fun _ => ?_
  refine sound_bind (sound_check ..) fun _ => sound_bind (sound_getTeam _) fun T => sound_bind
    (sound_check ..) fun _ => ?_
  split
  · exact sound_bind (sound_modTeam ..) fun _ => sound_holdHere
  · exact sound_bind (sound_rcFirst ..) fun _ => sound_bind (sound_storeLocal ..) fun _ => sound_modTeam ..

theorem sound_bodyRshResume (same : Bool) (a : BitVec 8) (ln : Lane) : Sound (bodyRshResume same a ln) := by
  grind [bodyRshResume, sound_bind, sound_check, sound_hold, sound_seq, sound_rd, sound_getTeam, sound_readBlock,
    sound_checkGo, sound_rshStart]

theorem State.rshSettle_mem (s : State) (team : Nat) : (s.rshSettle team).mem = s.mem := by
  grind [State.rshSettle, State.setTeam_mem]

theorem State.rshCut_mem (s : State) (team : Nat) : (s.rshCut team).mem = s.mem := by
  grind [State.rshCut, State.rshSettle_mem, State.modTeam_mem, State.sealOrigin_mem]

theorem State.rshStop_mem (s : State) (team : Nat) : (s.rshStop team).mem = s.mem := by
  grind [State.rshStop, State.modTeam_mem, State.rshCut_mem]

theorem sound_pullRow (team : Nat) (x : Entry) (va n : Nat) (answer : RemoteAnswer) (dva : Word64) :
    Sound (pullRow team x va n answer dva) := by
  refine sound_get fun s _ => ?_
  split
  · refine sound_bind (sound_getTeam _) fun T => sound_bind (sound_checkGlobal ..) fun ps => ?_
    refine sound_bind (sound_check ..) fun _ => sound_bind (sound_checkWords ..) fun _ => ?_
    exact sound_bind (sound_readFirst ..) fun _ => sound_readParts ..
  · split
    · exact sound_pure _
    · exact sound_trap ..

theorem sound_landRow (team : Nat) (o : Origin) (dva : Nat) (bs : List Byte) : Sound (landRow team o dva bs) := by
  grind [landRow, sound_bind, sound_check, sound_pure, sound_getTeam, sound_checkGlobal, sound_engineStore]

theorem sound_rshRow (team : Nat) (answer : RemoteAnswer) : Sound (rshRow team answer) := by
  refine sound_bind (sound_getTeam _) fun T => ?_
  extract_lets r at_ src dst settle go
  have hs : ∀ r, Sound (settle r) := fun _ => sound_modify fun s hs => memWf_of_eq (State.rshSettle_mem ..) hs
  clear_value settle
  split
  · split
    · exact sound_bind (sound_joined ..) fun b => sound_ite (sound_modTeam ..) (sound_pure _)
    · exact sound_pure _
  · have hgo : ∀ d, Sound (go d) := by
      intro d
      refine sound_get fun s _ => sound_bind (sound_check ..) fun _ => ?_
      split
      · exact sound_bind (sound_modTeam ..) hs
      · refine sound_bind (sound_pullRow ..) fun bs => sound_get fun s _ => ?_
        refine sound_bind (sound_landRow ..) fun _ => sound_get fun s _ => ?_
        exact sound_bind (sound_modTeam ..) hs
    clear_value go
    split
    · exact sound_bind (sound_pure _) hgo
    · exact sound_bind (sound_readLocal ..) hgo

theorem State.rshAbandon_memWf (s : State) (team : Nat) (cause : BitVec 8) (addr : Word64) (place : Option Local)
    (hs : memWf s.mem = true) : memWf (s.rshAbandon team cause addr place).mem = true := by
  grind [State.rshAbandon, State.modTeam_mem, State.rshCut_mem, State.report4_mem, State.consume_memWf]

theorem State.placeTeam_mem (s : State) (t core base : Nat) : (s.placeTeam t core base).mem = s.mem := by
  grind [State.placeTeam, State.setCore_mem, State.setTeam_mem]

theorem State.placeUnit_mem (s : State) (u : List (Nat × Team)) (at_ : List (Nat × Nat)) :
    (s.placeUnit u at_).mem = s.mem := by
  have hf (l : List ((Nat × Team) × (Nat × Nat))) (s : State) :
      (l.foldl (fun (s : State) x => s.placeTeam x.1.1 x.2.1 x.2.2) s).mem = s.mem := by
    induction l generalizing s with
    | nil => rfl
    | cons x l ih => exact (ih _).trans (State.placeTeam_mem ..)
  refine (hf _ _).trans ?_
  split
  · rfl
  · rfl

theorem State.placeNext_mem (s : State) : (s.placeNext).mem = s.mem := by
  grind [State.placeNext, State.placeUnit_mem]

theorem modJob_mem (s : State) (id : Nat) (f : Job → Job) : (modJob s id f).mem = s.mem := by
  grind [modJob]

end Sys2Proof.Machine
end

section
/-!
PROOFS. Memory's form under arithmetic, group operations, probability predicates and run-ahead (O51).
-/

namespace Sys2Proof.Machine

theorem sound_vfmt (ln : Lane) (f : BitVec 3) : Sound (vfmt ln f) := by
  grind [vfmt, sound_bind, sound_pure, sound_slot8]

theorem sound_cvtRnd (ln : Lane) (r : BitVec 2) (md : FpMode) (F : VFmt) : Sound (cvtRnd ln r md F) := by
  grind [cvtRnd, sound_bind, sound_pure, sound_theThread, sound_draw15]

theorem sound_bodyCvt (d a : BitVec 8) (f : BitVec 3) (r p : BitVec 2) (i : Bool) (ln : Lane) :
    Sound (bodyCvt d a f r p i ln) := by
  refine sound_seq <| sound_bind (sound_fpMode ln) fun md => sound_bind (sound_vfmt ..) fun F => ?_
  refine sound_bind (sound_rd ..) fun u => sound_either (sound_rd ..) (sound_pure _) fun old => ?_
  refine sound_bind (sound_cvtRnd ..) fun rnd => ?_
  split
  · exact sound_trap ..
  · exact sound_wr ..

theorem sound_bodyCvif (d a : BitVec 8) (ln : Lane) : Sound (bodyCvif d a ln) := by
  grind [bodyCvif, sound_bind, sound_seq, sound_fpMode, sound_rd, sound_wr]

theorem sound_bodyCvnf (d a : BitVec 8) (ln : Lane) : Sound (bodyCvnf d a ln) := by
  grind [bodyCvnf, sound_bind, sound_seq, sound_fpMode, sound_rd, sound_wr]

theorem sound_bodyCvfi (d a : BitVec 8) (ln : Lane) : Sound (bodyCvfi d a ln) := by
  grind [bodyCvfi, sound_bind, sound_seq, sound_fpMode, sound_rd, sound_wr]

theorem sound_bodyCvfn (d a : BitVec 8) (ln : Lane) : Sound (bodyCvfn d a ln) := by
  grind [bodyCvfn, sound_bind, sound_seq, sound_fpMode, sound_rd, sound_wr]

theorem sound_bodyCvhf (d a : BitVec 8) (x : Bool) (ln : Lane) : Sound (bodyCvhf d a x ln) := by
  grind [bodyCvhf, sound_bind, sound_seq, sound_fpMode, sound_rd, sound_wr]

theorem sound_bodyCvbf (d a : BitVec 8) (ln : Lane) : Sound (bodyCvbf d a ln) := by
  grind [bodyCvbf, sound_bind, sound_seq, sound_fpMode, sound_rd, sound_wr]

theorem sound_bodyCv8af (d a : BitVec 8) (ln : Lane) : Sound (bodyCv8af d a ln) := by
  grind [bodyCv8af, sound_bind, sound_seq, sound_slot8, sound_rd, sound_wr]

theorem sound_bodyCv8bf (d a : BitVec 8) (ln : Lane) : Sound (bodyCv8bf d a ln) := by
  grind [bodyCv8bf, sound_bind, sound_seq, sound_slot8, sound_rd, sound_wr]

theorem sound_bodyDot4 (d a b : BitVec 8) (ln : Lane) : Sound (bodyDot4 d a b ln) := by
  grind [bodyDot4, sound_bind, sound_seq, sound_slot8, sound_rd, sound_wr]

theorem sound_bodyDot2 (d a b : BitVec 8) (ln : Lane) : Sound (bodyDot2 d a b ln) := by
  grind [bodyDot2, sound_bind, sound_seq, sound_fpctl, sound_rd, sound_wr]

theorem sound_fpBin (op : FpOp) (packed : Bool) (d a b : BitVec 8) (ln : Lane) : Sound (fpBin op packed d a b ln) := by
  grind [fpBin, sound_bind, sound_seq, sound_fpMode, sound_rd, sound_wr]

theorem sound_fun_ (op : FunOp) (d a : BitVec 8) (l : BitVec 4) (ln : Lane) : Sound (fun_ op d a l ln) := by
  grind [fun_, sound_bind, sound_seq, sound_fpMode, sound_rd, sound_later]

theorem sound_bodyFfma (d a b : BitVec 8) (x : Bool) (ln : Lane) : Sound (bodyFfma d a b x ln) := by
  grind [bodyFfma, sound_bind, sound_seq, sound_fpMode, sound_rd, sound_wr]

theorem sound_bodyFsat (d a : BitVec 8) (l : BitVec 4) (ln : Lane) : Sound (bodyFsat d a l ln) := by
  grind [bodyFsat, sound_bind, sound_seq, sound_fpMode, sound_erratum, sound_rd, sound_later]

theorem sound_bodyFcmp (e c : BitVec 3) (n : Bool) (a b : BitVec 8) (ln : Lane) : Sound (bodyFcmp e c n a b ln) := by
  grind [bodyFcmp, sound_bind, sound_seq, sound_fpMode, sound_rd, sound_setCond]

theorem sound_rdVals (cs : List (BitVec 8)) (ln : Lane) : Sound (rdVals cs ln) := sound_mapM (sound_rd ln) cs

theorem sound_rdFlag (f : BitVec 3) (ln : Lane) : Sound (rdFlag f ln) := by
  grind [rdFlag, sound_bind, sound_pure, sound_rdB]

theorem sound_groupOp (s : BitVec 4) (i : Instr) (vals : Lane → M (List Word)) (ln : Lane)
    (hvals : ∀ l, Sound (vals l)) : Sound (groupOp s i vals ln) := by
  refine sound_bind (sound_getTeam _) fun T => sound_bind (sound_theThread ln) fun t => ?_
  refine sound_bind (sound_getGroup ..) fun G => sound_bind (sound_check ..) fun _ => ?_
  refine sound_bind (hvals ln) fun vs => sound_bind (sound_forM (fun f : Fld => sound_destOk ln f.code) _) fun _ => ?_
  exact sound_bind (sound_arriveOp ..) fun _ => sound_restOrWait ..

theorem sound_pushQueue (team g : Nat) (v : Word) : Sound (pushQueue team g v) := by
  grind [pushQueue, sound_bind, sound_hold, sound_pure, sound_getTeam, sound_modTeam]

theorem sound_bodyDqpush (g : BitVec 5) (a : BitVec 8) (ln : Lane) : Sound (bodyDqpush g a ln) := by
  refine sound_bind (sound_getTeam _) fun T => sound_bind (sound_check ..) fun _ => ?_
  split
  · exact sound_seq (sound_bind (sound_rd ..) fun _ => sound_pushQueue ..)
  · refine sound_bind (sound_getThread ..) fun h => ?_
    split
    · exact sound_seq (sound_pushQueue ..)
    · exact sound_ite sound_hold (sound_pure _)
    · exact sound_bind (sound_rd ..) fun _ => sound_bind (sound_arriveOp ..) fun _ => sound_restOrWait ..

theorem sound_bodyDqpop (d : BitVec 8) (ln : Lane) : Sound (bodyDqpop d ln) := by
  grind [bodyDqpop, sound_bind, sound_hold, sound_seq, sound_theThread, sound_getThread, sound_getGroup, sound_wr,
    sound_modThread, sound_modTeam]

theorem sound_bodyCka (n : BitVec 2) (m : Bool) (a : BitVec 8) (ln : Lane) : Sound (bodyCka n m a ln) := by
  grind [bodyCka, sound_bind, sound_seq, sound_theThread, sound_rd, sound_modThread]

theorem sound_bodyCkt (n : BitVec 2) (m : Bool) (a b : BitVec 8) (ln : Lane) : Sound (bodyCkt n m a b ln) := by
  grind [bodyCkt, sound_bind, sound_check, sound_seq, sound_theThread, sound_getThread, sound_rd]

theorem sound_bodyCkz (n : BitVec 2) (ln : Lane) : Sound (bodyCkz n ln) := by
  grind [bodyCkz, sound_bind, sound_seq, sound_theThread, sound_modThread]

theorem sound_shift (f : Word → Word → Word) (d a b : BitVec 8) (ln : Lane) : Sound (shift f d a b ln) := by
  grind [shift, sound_bind, sound_seq, sound_erratum, sound_rd, sound_wr]

theorem sound_linearIx (team : Nat) : Sound (linearIx team) := by
  grind [linearIx, sound_bind, sound_getv, sound_pure, sound_getTeam]

theorem sound_bodyMovi (d : BitVec 6) (i : BitVec 5) (ln : Lane) : Sound (bodyMovi d i ln) := by
  grind [bodyMovi, sound_seq, sound_wr]

theorem sound_bodyImad (d a b : BitVec 8) (x : Bool) (ln : Lane) : Sound (bodyImad d a b x ln) := by
  cases x with
  | true =>
    exact sound_seq <| sound_bind (sound_rd ..) fun _ => sound_bind (sound_rd ..) fun _ =>
      sound_bind (sound_rd64 ..) fun _ => sound_wr64 ..
  | false => exact sound_ter ..

theorem sound_bodyIadd64 (d a b : BitVec 8) (x : Bool) (ln : Lane) : Sound (bodyIadd64 d a b x ln) := by
  grind [bodyIadd64, sound_bind, sound_seq, sound_rd64, sound_wr64]

theorem sound_bodyLaneid (d : BitVec 8) (ln : Lane) : Sound (bodyLaneid d ln) := by
  grind [bodyLaneid, sound_bind, sound_seq, sound_theThread, sound_getGroup, sound_getTeam, sound_wr]

theorem sound_bodyTidx (d : BitVec 8) (ln : Lane) : Sound (bodyTidx d ln) := by
  grind [bodyTidx, sound_bind, sound_seq, sound_theThread, sound_wr]

theorem sound_bodyTeamix (d : BitVec 8) (ln : Lane) : Sound (bodyTeamix d ln) := by
  grind [bodyTeamix, sound_bind, sound_seq, sound_linearIx, sound_wr]

theorem sound_bodyClklo (d : BitVec 8) (ln : Lane) : Sound (bodyClklo d ln) := by
  grind [bodyClklo, sound_bind, sound_seq, sound_clockOf, sound_wr]

theorem sound_bodyClkhi (d : BitVec 8) (ln : Lane) : Sound (bodyClkhi d ln) := by
  grind [bodyClkhi, sound_bind, sound_seq, sound_clockOf, sound_wr]

theorem sound_bodyB2g (d : BitVec 8) (k : BitVec 3) (ln : Lane) : Sound (bodyB2g d k ln) := by
  grind [bodyB2g, sound_bind, sound_seq, sound_rdB, sound_wr]

theorem sound_bodyG2b (k : BitVec 3) (a : BitVec 8) (ln : Lane) : Sound (bodyG2b k a ln) := by
  grind [bodyG2b, sound_bind, sound_seq, sound_rd, sound_wrB]

theorem sound_bodyClz64 (_d _a : BitVec 8) (ln : Lane) : Sound (bodyClz64 _d _a ln) := by
  grind [bodyClz64, sound_trap]

theorem sound_bodyPopc64 (_d _a : BitVec 8) (ln : Lane) : Sound (bodyPopc64 _d _a ln) := by
  grind [bodyPopc64, sound_trap]

theorem sound_bodyMovkl (d : BitVec 8) (i : BitVec 16) (ln : Lane) : Sound (bodyMovkl d i ln) := by
  grind [bodyMovkl, sound_seq, sound_wr]

theorem sound_bodyMovkh (d : BitVec 8) (i : BitVec 16) (ln : Lane) : Sound (bodyMovkh d i ln) := by
  grind [bodyMovkh, sound_bind, sound_seq, sound_rd, sound_wr]

theorem sound_bodyIcmp (e c : BitVec 3) (n : Bool) (a b : BitVec 8) (ln : Lane) : Sound (bodyIcmp e c n a b ln) := by
  grind [bodyIcmp, sound_bind, sound_seq, sound_rd, sound_setCond]

theorem sound_bodyIcmpi (e c : BitVec 3) (n : Bool) (a i : BitVec 8) (ln : Lane) : Sound (bodyIcmpi e c n a i ln) := by
  grind [bodyIcmpi, sound_bind, sound_seq, sound_rd, sound_setCond]

theorem sound_bodySel (c : BitVec 3) (s : Bool) (d a : BitVec 8) (ln : Lane) : Sound (bodySel c s d a ln) := by
  grind [bodySel, sound_bind, sound_seq, sound_rdB, sound_rd, sound_wr]

theorem sound_bodyIdiv (_d _a _b : BitVec 8) (ln : Lane) : Sound (bodyIdiv _d _a _b ln) := by
  grind [bodyIdiv, sound_trap]

theorem sound_bodyIdivu (_d _a _b : BitVec 8) (ln : Lane) : Sound (bodyIdivu _d _a _b ln) := by
  grind [bodyIdivu, sound_trap]

theorem sound_pcomb (C : Comb) (d a b : BitVec 3) (m : BitVec 2) (ln : Lane) : Sound (pcomb C d a b m ln) := by
  grind [pcomb, sound_bind, sound_trap, sound_seq, sound_theThread, sound_rdQ, sound_wrQ]

theorem sound_blendWith (c : BitVec 3) (s : Bool) (d a : BitVec 8) (f : Nat → Word → Word → Word) (ln : Lane) :
    Sound (blendWith c s d a f ln) := by
  grind [blendWith, sound_bind, sound_seq, sound_theThread, sound_rdQ, sound_rd, sound_wr]

theorem sound_bodyScmp (q : BitVec 3) (k : BitVec 2) (l : BitVec 3) (a b : BitVec 8) (ln : Lane) :
    Sound (bodyScmp q k l a b ln) := by
  grind [bodyScmp, sound_bind, sound_seq, sound_theThread, sound_getGroup, sound_rd, sound_wrQ]

theorem sound_bodyPcombNot (d a : BitVec 3) (ln : Lane) : Sound (bodyPcombNot d a ln) := by
  grind [bodyPcombNot, sound_bind, sound_seq, sound_theThread, sound_rdQ, sound_wrQ]

theorem sound_bodySelq (c : BitVec 3) (s : Bool) (d a : BitVec 8) (ln : Lane) : Sound (bodySelq c s d a ln) := by
  grind [bodySelq, sound_bind, sound_seq, sound_theThread, sound_rdQ, sound_rd, sound_draw15, sound_wr]

theorem sound_bodyColl (q d : BitVec 3) (ln : Lane) : Sound (bodyColl q d ln) := by
  grind [bodyColl, sound_bind, sound_seq, sound_theThread, sound_rdQ, sound_draw15, sound_wrB]

theorem sound_bodyQset (q : BitVec 3) (a : BitVec 8) (ln : Lane) : Sound (bodyQset q a ln) := by
  grind [bodyQset, sound_bind, sound_seq, sound_theThread, sound_rd, sound_wrQ]

theorem sound_bodyQget (q : BitVec 3) (d : BitVec 8) (ln : Lane) : Sound (bodyQget q d ln) := by
  grind [bodyQget, sound_bind, sound_seq, sound_theThread, sound_rdQ, sound_wr]

theorem sound_bodyQfromb (q b : BitVec 3) (ln : Lane) : Sound (bodyQfromb q b ln) := by
  grind [bodyQfromb, sound_bind, sound_seq, sound_theThread, sound_rdB, sound_wrQ]

theorem sound_bodyPgrad (q : BitVec 3) (k : BitVec 2) (d : BitVec 8) (ln : Lane) : Sound (bodyPgrad q k d ln) := by
  grind [bodyPgrad, sound_bind, sound_seq, sound_theThread, sound_getGroup, sound_rdQ, sound_wr]

theorem sound_bodyQhard (q d : BitVec 3) (ln : Lane) : Sound (bodyQhard q d ln) := by
  grind [bodyQhard, sound_bind, sound_seq, sound_theThread, sound_rdQ, sound_wrB]

theorem State.faultTrap_memWf (s : State) (team t : Nat) (req : TrapReq) (hs : memWf s.mem = true) :
    memWf (s.faultTrap team t req).mem = true := by
  grind [State.faultTrap, State.modThread_mem, State.endIfCancelled_mem, State.takeTrap_memWf]

theorem Ahead.record_memWf {a b : Ahead} {ctx : Nat} {va : Word64} {bit : BitVec 8} (ha : memWf a.real.mem = true)
    (h : a.record ctx va bit = some b) : memWf b.real.mem = true := by
  unfold Ahead.record at h
  split at h
  · cases h
    exact ha
  · obtain ⟨r, hr, rfl⟩ := Option.map_eq_some_iff.mp h
    exact memWf_recordFault ha hr

/-- Memory is in its form in the machine of a run-ahead that goes on. -/
def AheadOk (o : Option Ahead) : Prop := ∀ b, o = some b → memWf b.real.mem = true

theorem aheadOk_none : AheadOk none := fun _ h => nomatch h

theorem aheadOk_some {a : Ahead} (ha : memWf a.real.mem = true) : AheadOk (some a) := by
  rintro _ ⟨⟩
  exact ha

theorem aheadOk_ite {p : Prop} [Decidable p] {o o' : Option Ahead} (h : AheadOk o) (h' : AheadOk o') :
    AheadOk (if p then o else o') := by
  split
  · exact h
  · exact h'

/-- Run-ahead writes nothing but the records of the pages that it finds: its simulation is given up (R249). -/
theorem aheadOk_aheadStep (ln : Lane) {a : Ahead} (ha : memWf a.real.mem = true) : AheadOk (aheadStep ln a) := by
  unfold aheadStep
  split
  · extract_lets read wrote known
    split
    · refine aheadOk_ite aheadOk_none ?_
      split
      · exact aheadOk_some ha
      · split
        · next a' _ _ hr _ =>
          have ha' : memWf a'.real.mem = true := Ahead.record_memWf ha hr
          exact aheadOk_some ha'
        · exact aheadOk_some ha
        · exact aheadOk_none
      · exact aheadOk_none
    · split
      · exact aheadOk_none
      · refine aheadOk_ite aheadOk_none (aheadOk_ite ?_ (aheadOk_ite aheadOk_none ?_))
        · split
          · exact aheadOk_some ha
          · exact aheadOk_none
        · split
          · exact aheadOk_some ha
          · exact aheadOk_none
  · exact aheadOk_none

theorem aheadGo_memWf (ln : Lane) (n : Nat) {a : Ahead} (ha : memWf a.real.mem = true) :
    memWf (aheadGo ln n a).real.mem = true := by
  induction n generalizing a with
  | zero => exact ha
  | succ n ih =>
    unfold aheadGo
    split
    · next hb =>
      split
      · exact aheadOk_aheadStep ln ha _ hb
      · exact ih (aheadOk_aheadStep ln ha _ hb)
    · exact ha

theorem State.runAhead_memWf (s : State) (i : Instr) (len : Nat) (ln : Lane) (past : Nat) (hs : memWf s.mem = true) :
    memWf (s.runAhead i len ln past).real.mem = true := by
  unfold State.runAhead
  dsimp only
  split
  · exact hs
  · split
    · exact hs
    · split
      · exact aheadGo_memWf ln 256 hs
      · exact hs

theorem State.aheadThenSleep_memWf (s : State) (i : Instr) (len : Nat) (ln : Lane) (past : Nat) (rec_ : Option Nat)
    (req : TrapReq) (hs : memWf s.mem = true) : memWf (s.aheadThenSleep i len ln past rec_ req).mem = true := by
  have h := State.runAhead_memWf s i len ln past hs
  have hw (w : Wait) : memWf ((s.runAhead i len ln past).real.setWait ln w).mem = true :=
    memWf_of_eq (State.setWait_mem ..) h
  unfold State.aheadThenSleep
  dsimp only
  split
  · exact hw _
  · exact hw _
  · exact State.faultTrap_memWf _ _ _ _ h
  · exact h

theorem dataPage_memWf (i : Instr) (len : Nat) (ln : Lane) (va : Word64) (bit : BitVec 8) (s : State)
    (hs : memWf s.mem = true) : memWf (dataPage i len ln va bit s).mem = true := by
  have hc : memWf (s.countIssue ln).mem = true := memWf_of_eq (State.countIssue_mem s ln) hs
  unfold dataPage
  split
  · dsimp only
    split
    · next s' r hr =>
      have h' : memWf s'.mem = true := memWf_recordFault hc hr
      exact State.aheadThenSleep_memWf _ _ _ _ _ _ _ h'
    · exact memWf_of_eq (State.setWait_mem ..) hc
  · exact hs

end Sys2Proof.Machine
end

section
/-!
PROOFS. Memory's form under answers of the fabric, collectives, host accesses and management (O51).
-/

namespace Sys2Proof.Machine

variable {α β : Type} {m : M α} {f : α → M β}

theorem sound_arriveGo (l : Lane) (pushes : Bool) (ps : List Pending) : Sound (arriveGo l pushes ps) := by
  induction ps with
  | nil => exact sound_pure _
  | cons p ps ih =>
    have hkeep : Sound (do pure (p :: (← arriveGo l pushes ps))) := sound_bind ih fun _ => sound_pure _
    unfold arriveGo
    split
    · next vs _ =>
      split
      · exact hkeep
      · refine ⟨fun s hs => ?_⟩
        have h := (sound_landResult l p vs).ends s hs
        split
        · next hr =>
          rw [hr] at h
          exact (sound_bind ih fun _ => sound_pure _).ends _ h
        · exact hs
        · next hr =>
          rw [hr] at h
          exact h.error
    · exact sound_ite (sound_pure _) hkeep

theorem sound_arrive (l : Lane) (pushes : Bool) : Sound (arrive l pushes) := by
  grind [arrive, sound_bind, sound_pendOf, sound_arriveGo, sound_setPend]

theorem State.quietly_memWf (s : State) {m : M Unit} (hm : Sound m) (hs : memWf s.mem = true) :
    memWf (s.quietly m).mem = true := by
  unfold State.quietly
  split
  · next hr => exact hm.run hs hr
  · exact hs

theorem State.sweepLost_mem (s : State) (team : Nat) (T : Team) : (s.sweepLost team T).mem = s.mem := by
  have hf (l : List (Nat × Thread)) (s : State) :
      (l.foldl (fun s (e : Nat × Thread) => s.reportLost team (.thread e.1)) s).mem = s.mem := by
    induction l generalizing s with
    | nil => rfl
    | cons e l ih => exact (ih _).trans (State.reportLost_mem ..)
  exact (State.reportLost_mem ..).trans (hf _ _)

theorem State.reportEnd_mem (s : State) (T : Team) : (s.reportEnd T).mem = s.mem := by
  grind [State.reportEnd, State.report_mem]

theorem State.endTeam_mem (s : State) (team : Nat) : (s.endTeam team).mem = s.mem := by
  grind [State.endTeam, State.leaveWing_mem, State.sweepLost_mem, State.setTeam_mem, State.modTeam_mem,
    State.reportEnd_mem, State.commitPorch_leaves_mem]

theorem State.endDying_mem (s : State) (team : Nat) (T : Team) : (s.endDying team T).mem = s.mem := by
  grind [State.endDying, State.commitPorch_leaves_mem, State.leaveWing_mem, State.endTeam_mem]

theorem State.wakeThread_memWf (s : State) (team t rec_ : Nat) (hs : memWf s.mem = true) :
    memWf (s.wakeThread team t rec_).mem = true := by
  grind [State.wakeThread, State.faultTrap_memWf, State.setWait_mem]

theorem State.wakeFront_mem (s : State) (team rec_ : Nat) : (s.wakeFront team rec_).mem = s.mem := by
  grind [State.wakeFront, State.endByFault_mem, State.modFront_mem]

theorem State.wakeTeam_memWf (s : State) (team : Nat) (T : Team) (rec_ : Nat) (hs : memWf s.mem = true) :
    memWf (s.wakeTeam team T rec_).mem = true :=
  memWf_of_eq (State.wakeFront_mem ..) (memWf_foldl (fun s e h => State.wakeThread_memWf s team e.1 rec_ h) _ hs)

theorem State.fenceBare_memWf (s : State) (core : Nat) (hs : memWf s.mem = true) :
    memWf (s.fenceBare core).mem = true := by
  grind [State.fenceBare, State.fenceCore_memWf]

/-- Memory is in its form in a state that there may be. -/
def SomeOk (o : Option State) : Prop := ∀ s, o = some s → memWf s.mem = true

theorem someOk_none : SomeOk none := fun _ h => nomatch h

theorem someOk_some {s : State} (hs : memWf s.mem = true) : SomeOk (some s) := by
  rintro _ ⟨⟩
  exact hs

theorem someOk_or {o o' : Option State} (h : SomeOk o) (h' : SomeOk o') : SomeOk (o.or o') := by
  cases o with
  | none => exact h'
  | some s => exact h

theorem someOk_bind {β : Type} {f : β → Option State} (hf : ∀ b, SomeOk (f b)) (o : Option β) : SomeOk (o.bind f) := by
  cases o with
  | none => exact someOk_none
  | some b => exact hf b

theorem someOk_findSome? {β : Type} {f : β → Option State} (hf : ∀ b, SomeOk (f b)) (l : List β) :
    SomeOk (l.findSome? f) := by
  intro s hs
  obtain ⟨b, -, hb⟩ := List.exists_of_findSome?_eq_some hs
  exact hf b s hb

/-- A fault record is taken, if one is free, and then something is done that keeps memory's form. -/
theorem someOk_record {s : State} (hs : memWf s.mem = true) (c : Nat) (va : Word64) (acc : BitVec 8)
    {f : State × Nat → State} (hf : ∀ s k, memWf s.mem = true → memWf (f (s, k)).mem = true) :
    SomeOk ((s.recordFault c va acc).map f) := by
  intro s' h
  obtain ⟨⟨s1, k⟩, hr, rfl⟩ := Option.map_eq_some_iff.mp h
  exact hf s1 k (memWf_recordFault hs hr)

theorem someOk_recordWaiting {s : State} (ctx : Nat) (l : Lane) (w : Option Wait) (hs : memWf s.mem = true) :
    SomeOk (s.recordWaiting ctx l w) := by
  unfold State.recordWaiting
  split
  · refine someOk_record hs _ _ _ fun s k h => ?_
    split
    · exact State.aheadThenSleep_memWf _ _ _ _ _ _ _ h
    · exact memWf_of_eq (State.setWait_mem ..) h
  · split
    · next r _ hr =>
      exact someOk_some (State.aheadThenSleep_memWf _ _ _ _ _ _ _ (memWf_recordFault (t := r.1) (r := r.2) hs hr))
    · exact someOk_none
  · exact someOk_none

theorem someOk_recordEngine {s : State} (team : Nat) (T : Team) (hs : memWf s.mem = true) :
    SomeOk (s.recordEngine team T) := by
  refine someOk_or (someOk_findSome? (fun e => ?_) _) (someOk_or ?_ ?_)
  · split
    · exact someOk_record hs _ _ _ fun s k h => memWf_of_eq (State.modTeam_mem ..) h
    · exact someOk_none
  · split
    · split
      · exact someOk_record hs _ _ _ fun s k h => memWf_of_eq (State.modTeam_mem ..) h
      · exact someOk_none
    · exact someOk_none
  · split
    · exact someOk_record hs _ _ _ fun s k h => memWf_of_eq (State.rshStop_mem ..) h
    · exact someOk_none

theorem someOk_recordWaiter {s : State} (ctx : Nat) (hs : memWf s.mem = true) : SomeOk (s.recordWaiter ctx) := by
  refine someOk_findSome? (fun e => ?_) _
  dsimp only
  split
  · exact someOk_none
  · refine someOk_or (someOk_findSome? (fun h => someOk_recordWaiting _ _ _ hs) _) (someOk_or ?_ ?_)
    · exact someOk_bind (fun f => someOk_recordWaiting _ _ _ hs) _
    · exact someOk_recordEngine _ _ hs

theorem someOk_takeFaultRecord {s : State} (ctx : Nat) (hs : memWf s.mem = true) : SomeOk (s.takeFaultRecord ctx) := by
  unfold State.takeFaultRecord
  split
  · exact someOk_some (memWf_takeRecord (memWf_of_eq (State.setCtx_mem ..) hs) ..)
  · exact someOk_recordWaiter ctx hs

theorem sound_finishLoad (l : Lane) (i : Instr) (bs : List Byte) : Sound (finishLoad l i bs) := by
  unfold finishLoad
  split
  · exact sound_bind (sound_loaded ..) fun _ => sound_complete ..
  · exact sound_bind (sound_submitRecord ..) fun _ => sound_complete ..
  · exact sound_pure _

theorem State.goOn_memWf (s : State) {m : M Unit} (hm : Sound m) (hs : memWf s.mem = true) :
    memWf (s.goOn m).mem = true := by
  unfold State.goOn
  split
  · next hr => exact hm.run hs hr
  · next hr => exact hm.held hs hr
  · exact hs

theorem State.setWaitAt_mem (s : State) (l : Lane) (w : Option Wait) : (s.setWaitAt l w).mem = s.mem := by
  grind [State.setWaitAt, State.modFront_mem, State.modThread_mem]

theorem State.loadFails_memWf (s : State) (l : Lane) (i : Instr) (word : Word) (cause : BitVec 8) (addr : Word64)
    (hs : memWf s.mem = true) : memWf (s.loadFails l i word cause addr).mem = true := by
  grind [State.loadFails, State.takeTrap_memWf, State.countIssue_mem, State.consume_memWf, State.endByFault_mem]

theorem State.answerLoad_memWf (s : State) (id : Nat) (r : Remote) (n : Nat) (a : RemoteAnswer)
    (hs : memWf s.mem = true) : memWf (s.answerLoad id r n a).mem = true := by
  unfold State.answerLoad
  dsimp only
  split
  · split
    · exact hs
    · split
      · split
        · exact State.loadFails_memWf _ _ _ _ _ _ hs
        · exact State.goOn_memWf _ (sound_finishLoad ..) (memWf_of_eq (State.setWaitAt_mem ..) hs)
        · exact memWf_of_eq (State.setWaitAt_mem ..) hs
      · exact State.loadFails_memWf _ _ _ _ _ _ hs
  · exact hs

theorem State.noteFailure_mem (s : State) (l : Lane) (addr : Word64) : (s.noteFailure l addr).mem = s.mem := by
  grind [State.noteFailure, State.reportLost_mem, State.modFront_mem, State.modThread_mem]

theorem State.answerAtomic_mem (s : State) (id : Nat) (r : Remote) (op : BitVec 3) (x : Word64) (a : RemoteAnswer) :
    (s.answerAtomic id r op x a).mem = s.mem := by
  grind [State.answerAtomic, State.modFront_mem, State.modThread_mem]

theorem State.answerCopy_memWf (s : State) (id : Nat) (r : Remote) (n : Nat) (a : RemoteAnswer)
    (hs : memWf s.mem = true) : memWf (s.answerCopy id r n a).mem = true := by
  unfold State.answerCopy
  split
  · exact hs
  · dsimp only
    split
    · exact hs
    · split
      · split
        · exact State.goOn_memWf _ (sound_landPiece ..) (memWf_of_eq (State.setTeam_mem ..) hs)
        · exact memWf_of_eq (State.setTeam_mem ..) hs
      · exact State.abandonCopy_memWf _ _ _ _ _ _ _ (memWf_of_eq (State.sealOrigin_mem ..) hs)

theorem State.answerMx_memWf (s : State) (id : Nat) (r : Remote) (n : Nat) (a : RemoteAnswer)
    (hs : memWf s.mem = true) : memWf (s.answerMx id r n a).mem = true := by
  unfold State.answerMx
  split
  · exact hs
  · split
    · exact hs
    · split
      · dsimp only
        split
        · exact State.goOn_memWf _ (sound_mxLand ..) hs
        · exact hs
      · exact State.mxAbandon_memWf _ _ _ _ _ _ (memWf_of_eq (State.sealOrigin_mem ..) hs)

theorem State.answerRemote_memWf (s : State) (id : Nat) (a : RemoteAnswer) (hs : memWf s.mem = true) :
    memWf (s.answerRemote id a).mem = true := by
  grind [State.answerRemote, State.completionInterrupt_mem, State.completionLost_mem, State.answerCopy_memWf,
    State.answerMx_memWf, State.answerLoad_memWf, State.noteFailure_mem, State.answerAtomic_mem]

theorem State.answer_mem (s : State) (dev : Nat) (a : RemoteAnswer) : (s.answer dev a).mem = s.mem := by
  unfold State.answer
  dsimp only
  split
  · rfl
  · rfl

/-- Memory that was in its form still is. -/
def MemKept (s s' : State) : Prop := memWf s.mem = true → memWf s'.mem = true

theorem serves_memKept : Serves MemKept where
  refl _ h := h
  trans h h' hs := h' (h hs)
  looked := by
    rintro s _ ⟨tlb, picks, rfl⟩ hs
    exact hs
  writePhys _ _ _ _ hs := memWf_writePhys hs ..
  recordFault _ _ _ _ _ hr hs := memWf_recordFault hs hr
  answer _ _ _ hs := memWf_of_eq (State.answer_mem ..) hs
  inbound _ _ hs := hs

theorem State.serveInbound_memWf (s : State) (hs : memWf s.mem = true) : memWf s.serveInbound.mem = true :=
  serves_memKept.serveInbound s hs

theorem State.modPort_mem (s : State) (p : Nat) (f : Port → Port) : (s.modPort p f).mem = s.mem := by
  grind [State.modPort]

theorem State.collectiveWord_memWf (s : State) (ctx : Nat) (c : Coll) (status : Nat) (nonfinite : Bool)
    (hs : memWf s.mem = true) : memWf (s.collectiveWord ctx c status nonfinite).mem = true := by
  grind [State.collectiveWord, State.writeCompletion_memWf]

theorem State.addCollective_memWf (s : State) (ctx : Nat) (d : List Byte) (number : Nat) (prio : BitVec 8)
    (hs : memWf s.mem = true) : memWf (s.addCollective ctx d number prio).mem = true := by
  grind [State.addCollective, State.collectiveWord_memWf]

theorem State.takeCollective_memWf (s : State) (q : Nat) (Q : Queue) (hs : memWf s.mem = true) :
    memWf (s.takeCollective q Q).mem = true := by
  unfold State.takeCollective
  extract_lets s' recorded
  have hs' : memWf s'.mem = true := hs
  have hrec (a : Word64) : memWf (recorded a).mem = true := by
    unfold recorded
    split
    · next hr => exact memWf_recordFault hs' hr
    · exact hs
  clear_value s' recorded
  split
  · split
    · exact hs'
    · split
      · exact hrec _
      · split
        · next hr => exact State.addCollective_memWf _ _ _ _ _ ((sound_sysRead ..).run hs' hr)
        · exact hrec _
        · exact hs'
  · exact hs'

theorem State.takeEntries_memWf (s : State) (n : Nat) (hs : memWf s.mem = true) :
    memWf (s.takeEntries n).mem = true := by
  induction n generalizing s with
  | zero => exact hs
  | succ n ih =>
    unfold State.takeEntries
    split
    · exact ih _ (State.takeCollective_memWf _ _ _ hs)
    · exact hs

theorem State.takePublished_memWf (s : State) (hs : memWf s.mem = true) : memWf (s.takePublished).mem = true := by
  grind [State.takePublished, State.takeEntries_memWf]

theorem sound_collWriteGo (ctx : Nat) (rs : List (Nat × Nat)) (bs : List Byte) : Sound (collWriteGo ctx rs bs) := by
  induction rs generalizing bs with
  | nil => exact sound_pure _
  | cons r rs ih =>
    refine sound_bind (sound_checkGlobal ..) fun ps => ?_
    split
    · split
      · exact sound_bind (sound_modify fun s hs => memWf_writePhys hs ..) fun _ => ih _
      · exact sound_bind (sound_trap ..) fun _ => ih _
    · exact sound_bind (sound_pure _) fun _ => ih _

theorem sound_collWrite (ctx va : Nat) (bs : List Byte) : Sound (collWrite ctx va bs) := by
  grind [collWrite, sound_collWriteGo]

theorem sound_chunkStep_collReadGo (ctx : Nat) (rs : List (Nat × Nat)) : Sound (chunkStep.collReadGo ctx rs) := by
  induction rs with
  | nil => exact sound_pure _
  | cons r rs ih =>
    have hrest (bs : List Byte) : Sound (do pure (bs ++ (← chunkStep.collReadGo ctx rs))) :=
      sound_bind ih fun _ => sound_pure _
    refine sound_bind (sound_checkGlobal ..) fun ps => sound_bind (sound_checkWords ..) fun _ => ?_
    split
    · split
      · exact sound_get fun s _ => sound_bind (sound_pure _) hrest
      · exact sound_bind (sound_trap ..) hrest
    · exact sound_bind (sound_pure _) hrest

theorem sound_chunkStep_collRead (ctx va n : Nat) : Sound (chunkStep.collRead ctx va n) := by
  grind [chunkStep.collRead, sound_chunkStep_collReadGo]

theorem sound_chunkStep (id : Nat) (x : Collective) (c : Coll) (r : Nat) (peers : List PeerContribution) :
    Sound (chunkStep id x c r peers) := by
  refine sound_bind (sound_chunkStep_collRead ..) fun own => ?_
  refine sound_bind (sound_mapM (fun o => sound_chunkStep_collRead ..) _) fun others => ?_
  dsimp only
  split
  · exact sound_hold
  · exact sound_unless (sound_collWrite ..) fun _ => sound_modify fun s hs => hs

theorem State.failCollective_mem (s : State) (id : Nat) : (s.failCollective id).mem = s.mem := by
  grind [State.failCollective]

theorem State.collectiveFault_memWf (s : State) (id : Nat) (x : Collective) (a : Word64) (hs : memWf s.mem = true) :
    memWf (s.collectiveFault id x a).mem = true := by
  unfold State.collectiveFault
  split
  · next hr => exact memWf_of_eq (State.failCollective_mem ..) (memWf_recordFault hs hr)
  · exact hs

theorem someOk_chunkNow {s : State} (id : Nat) (peers : List PeerContribution) (hs : memWf s.mem = true) :
    SomeOk (s.chunkNow id peers) := by
  have hfail (s : State) (h : memWf s.mem = true) : memWf (s.failCollective id).mem = true :=
    memWf_of_eq (State.failCollective_mem ..) h
  refine someOk_bind (fun x => ?_) _
  refine someOk_bind (fun r => ?_) _
  split
  · exact someOk_none
  · split
    · exact someOk_some (hfail s hs)
    · split
      · exact someOk_none
      · split
        · exact someOk_record hs _ _ _ fun s k h => hfail s h
        · split
          · next hr => exact someOk_some ((sound_chunkStep ..).run hs hr)
          · exact someOk_some (State.collectiveFault_memWf _ _ _ _ hs)
          · exact someOk_none
          · exact someOk_some (hfail s hs)

theorem State.flushCollective_memWf {s : State} {x : Collective} {c : Coll} {r : State × Nat}
    (hs : memWf s.mem = true) (h : s.flushCollective x c = .ok r) : memWf r.1.mem = true := by
  unfold State.flushCollective at h
  extract_lets recorded at h
  have hrec (a : Word64) (hr : recorded a = .ok r) : memWf r.1.mem = true := by
    unfold recorded at hr
    split at hr
    · next hq =>
      cases hr
      exact memWf_recordFault hs hq
    · cases hr
  clear_value recorded
  split at h
  · cases h
    exact hs
  · split at h
    · cases h
      exact hs
    · split at h
      · cases h
        exact hs
      · split at h
        · exact hrec _ h
        · split at h
          · next hr =>
            cases h
            exact (sound_collWrite ..).run hs hr
          · exact hrec _ h
          · cases h
            exact hs

theorem State.logError_memWf (s : State) (stack : Nat) (rho : Word) (hs : memWf s.mem = true) :
    memWf (s.logError stack rho).mem = true := by
  unfold State.logError
  dsimp only
  split
  · exact memWf_writeBytes hs ..
  · exact hs

theorem State.freeBanks_memWf (s : State) (hs : memWf s.mem = true) : memWf (s.freeBanks).mem = true := by
  grind [State.freeBanks, State.serveInbound_memWf]

theorem State.heat_memWf (s : State) (die : Nat) (temp : BitVec 8) (hs : memWf s.mem = true) :
    memWf (s.heat die temp).mem = true := by
  unfold State.heat
  dsimp only
  split
  · exact memWf_foldl State.killContext_memWf _ hs
  · exact hs

end Sys2Proof.Machine
end

section
/-!
PROOFS. Memory's form under the end of a clock and what strikes a word (O51).
-/

namespace Sys2Proof.Machine

theorem stopLane_memWf (c : Issue) (e : Stop) (s : State) (l : Lane) (hs : memWf s.mem = true) :
    memWf (stopLane c e s l).mem = true := by
  have hend (s : State) (h : memWf s.mem = true) : memWf (s.endIfCancelled l).mem = true :=
    memWf_of_eq (State.endIfCancelled_mem s l) h
  unfold stopLane
  split
  · exact hs
  · split
    · exact State.watchdogTrap_memWf _ _ _ hs
    · split
      · exact hend _ (State.trapLane_memWf _ _ _ _ _ _ _ hs)
      · exact hend _ (pageSleep_memWf _ _ _ _ _ hs)
      · exact hend _ (memWf_of_eq (State.markWait_mem ..) hs)

theorem State.strike_mem (s : State) (core word : Nat) (parity : Bool) (e : WordErr) :
    (s.strike core word parity e).mem = s.mem := by
  grind [State.strike, State.setCore_mem]

theorem State.strikeMem_memWf (s : State) (pa : Nat) (hs : memWf s.mem = true) : memWf (s.strikeMem pa).mem = true := by
  grind [State.strikeMem, State.fenceCluster_memWf]

theorem State.served_mem (s : State) (t : Option Turn) : (s.served t).mem = s.mem := by
  unfold State.served
  split
  · split
    · exact (State.setCore_mem ..).trans (State.setTeam_mem ..)
    · rfl
  · rfl

theorem State.tick_memWf (s : State) (hs : memWf s.mem = true) : memWf (s.tick).mem = true := by
  grind [State.tick]

theorem State.settleCore_memWf (s : State) (core : Nat) (hs : memWf s.mem = true) :
    memWf (s.settleCore core).mem = true := by
  grind [State.settleCore, State.setCore_mem, State.fenceBare_memWf]

theorem State.settle_memWf (s : State) (hs : memWf s.mem = true) : memWf s.settle.mem = true := by
  have h : memWf (((s.cores.filter fun e => !e.2.asked.isEmpty || (!e.2.fenced && (e.2.failsAgain ||
      e.2.parityFailed))).map (·.1)).foldl State.settleCore s).mem = true := memWf_foldl State.settleCore_memWf _ hs
  exact State.takePublished_memWf _ (State.freeBanks_memWf _ h)

end Sys2Proof.Machine
end

section
/-!
PROOFS. Memory's form under each step of the device of itself (O51).
-/

namespace Sys2Proof.Machine

/-- Memory is in its form in the next state, if an outcome is one. -/
def NextOk : Host.Outcome State Fault Refusal → Prop
  | .next s => memWf s.mem = true
  | _ => True

theorem nextOk_next {s : State} (hs : memWf s.mem = true) : NextOk (.next s) := hs

/-! ### Steps of the device -/

theorem SMap.above_filter {α : Type} (p : Nat × α → Bool) {k : Nat} {m : SMap α} (h : SMap.above k m = true) :
    SMap.above k (m.filter p) = true := by
  induction m with
  | nil => rfl
  | cons e m ih =>
    obtain ⟨j, v⟩ := e
    simp only [SMap.above, Bool.and_eq_true, decide_eq_true_eq] at h
    rw [List.filter_cons]
    split
    · simp [SMap.above, h.1, ih h.2]
    · exact ih h.2

theorem SMap.sorted_filter {α : Type} (p : Nat × α → Bool) {m : SMap α} (h : SMap.sorted m = true) :
    SMap.sorted (m.filter p) = true := by
  induction m with
  | nil => rfl
  | cons e m ih =>
    simp only [SMap.sorted, Bool.and_eq_true] at h
    rw [List.filter_cons]
    split
    · simp [SMap.sorted, SMap.above_filter p h.1, ih h.2]
    · exact ih h.2

/-- A part of a memory in its form is in its form. -/
theorem SMap.canon_filter {α : Type} [DecidableEq α] (p : Nat × α → Bool) {d : α} {m : SMap α}
    (h : SMap.canon m d = true) : SMap.canon (m.filter p) d = true := by
  simp only [SMap.canon, Bool.and_eq_true, List.all_eq_true] at h ⊢
  exact ⟨SMap.sorted_filter p h.1, fun e he => h.2 e (List.mem_of_mem_filter he)⟩

section
variable {s : State} (hs : memWf s.mem = true)
include hs

theorem nextOk_execCopyTransfer (team id : Nat) : NextOk (execCopyTransfer team id s) := by
  refine nextOk_next ?_
  split
  · exact hs
  · next C _ =>
    split
    · exact hs
    · refine engineStep_memWf _ _ _ (sound_copyPiece ..) (fun a s h => ?_) (fun cause addr place s h => ?_) hs
      · split
        · exact memWf_of_eq (State.modTeam_mem ..) (State.enginePage_memWf _ _ _ h)
        · exact h
      · exact State.abandonCopy_memWf _ _ _ _ _ _ _ h

theorem memWf_admitted (ctx : Nat) (r : LaunchRec) (prio : Nat) : memWf (s.admitted ctx r prio).1.mem = true := by
  unfold State.admitted
  split
  · next hr => exact (sound_admitRec ..).run hs hr
  · exact State.writeCompletion_memWf _ _ _ _ _ _ hs

theorem nextOk_execLaunchAdmission : NextOk (execLaunchAdmission s) := by
  refine nextOk_next ?_
  split
  · exact hs
  · split
    · next d ds _ =>
      have h : memWf ({ s with devQueue := ds } : State).mem = true := hs
      exact memWf_of_eq (State.launchAnswer_mem ..) (memWf_admitted h ..)
    · split
      · exact hs
      · dsimp only
        split
        · split
          · exact hs
          · split
            · next hr =>
              refine memWf_admitted (Sound.run (sound_sysRead ..) ?_ hr) ..
              exact hs
            · exact hs
        · exact hs

theorem nextOk_execLaunchDoorbell (q : Nat) (tail : BitVec 32) : NextOk (execLaunchDoorbell q tail s) := by
  refine nextOk_next ?_
  split
  · exact memWf_writePhys hs ..
  · exact hs

theorem nextOk_execWizinTranslate (launch : Nat) : NextOk (execWizinTranslate launch s) := by
  refine nextOk_next ?_
  split
  · split
    · exact memWf_of_eq (State.createTeams_mem ..) hs
    · exact hs
  · exact hs

theorem nextOk_execLaunchComplete (launch : Nat) : NextOk (execLaunchComplete launch s) := by
  refine nextOk_next ?_
  split
  · split
    · exact State.writeCompletion_memWf _ _ _ _ _ _ hs
    · exact hs
  · exact hs

theorem nextOk_execMatrixCommandStart (team : Nat) : NextOk (execMatrixCommandStart team s) := by
  refine nextOk_next ?_
  split
  · refine mxStep_memWf _ _ _ (sound_mxTrailer team) ?_
    split
    · exact hs
    · exact hs
  · exact hs

theorem nextOk_execMxSlice (team : Nat) : NextOk (execMxSlice team s) :=
  mxStep_memWf _ _ _ (sound_mxSlice team) hs

theorem nextOk_execMxStoreTransfer (team : Nat) : NextOk (execMxStoreTransfer team s) :=
  mxStep_memWf _ _ _ (sound_mxStoreRow team) hs

theorem nextOk_execMxLoadTransfer (team : Nat) : NextOk (execMxLoadTransfer team s) :=
  mxStep_memWf _ _ _ (sound_mxLoadRow team) hs

theorem nextOk_execRshRowPull (team : Nat) (answer : RemoteAnswer) : NextOk (execRshRowPull team answer s) := by
  refine nextOk_next ?_
  split
  · exact hs
  · next T _ =>
    split
    · exact hs
    · refine engineStep_memWf _ _ _ (sound_rshRow ..) (fun a s h => ?_) (fun cause a at_ s h => ?_) hs
      · have hp := State.enginePage_memWf s T.ctx a h
        dsimp only
        split
        · exact memWf_of_eq (State.rshStop_mem ..) hp
        · exact memWf_of_eq (State.modTeam_mem ..) hp
      · exact State.rshAbandon_memWf _ _ _ _ _ h

theorem nextOk_execRshStopAtBoundary (team : Nat) : NextOk (execRshStopAtBoundary team s) := by
  refine nextOk_next ?_
  split
  · split
    · exact memWf_of_eq (State.rshStop_mem ..) hs
    · exact hs
  · exact hs

theorem nextOk_execTeamPlacement : NextOk (execTeamPlacement s) := memWf_of_eq (State.placeNext_mem s) hs

theorem nextOk_execGangStaggerExpiry (launch : Nat) : NextOk (execGangStaggerExpiry launch s) := by
  refine nextOk_next ?_
  split
  · split
    · exact hs
    · exact memWf_of_eq (State.placeNext_mem s) hs
  · exact hs

theorem nextOk_execJobChunkTake (launch core : Nat) : NextOk (execJobChunkTake launch core s) := by
  refine nextOk_next ?_
  split
  · split
    · split
      · exact hs
      · split
        · exact memWf_of_eq (modJob_mem ..) hs
        · split
          · exact memWf_of_eq (modJob_mem ..) hs
          · exact hs
    · exact hs
  · exact hs

theorem nextOk_execJobTeamCreate (launch core : Nat) : NextOk (execJobTeamCreate launch core s) := by
  refine nextOk_next ?_
  split
  · split
    · dsimp only
      split
      · exact hs
      · split
        · exact hs
        · split
          · next hr =>
            have h' := (sound_sysRead ..).run (memWf_of_eq (modJob_mem s launch _) hs) hr
            split
            · exact memWf_of_eq (State.placeTeam_mem ..) h'
            · exact hs
          · exact hs
    · exact hs
  · exact hs

theorem nextOk_execPreemption : NextOk (execPreemption s) := by
  refine nextOk_next ?_
  split
  · exact memWf_foldl (fun s t h => memWf_of_eq (State.modTeam_mem ..) h) _ hs
  · exact hs

theorem nextOk_execContextSave (team : Nat) : NextOk (execContextSave team s) := by
  refine nextOk_next ?_
  split
  · exact hs
  · split
    · exact hs
    · split
      · exact State.consume_memWf _ _ _ _ _ _ _ _ hs
      · exact memWf_of_eq (State.modTeam_mem ..)
          (memWf_of_eq (State.serveLocal_mem ..) (memWf_of_eq (State.rshCut_mem s team) hs))

theorem nextOk_execLoadResultReturn (team : Nat) (who : Who) : NextOk (execLoadResultReturn team who s) := by
  refine nextOk_next ?_
  split
  · exact State.quietly_memWf _ (sound_arrive ..) hs
  · exact hs

theorem nextOk_execStreamPush (team : Nat) (who : Who) : NextOk (execStreamPush team who s) := by
  refine nextOk_next ?_
  split
  · exact State.quietly_memWf _ (sound_arrive ..) hs
  · exact hs

theorem nextOk_execStreamPop (team : Nat) (who : Who) (port : Bool) : NextOk (execStreamPop team who port s) := by
  refine nextOk_next ?_
  split
  · split
    · split
      · refine State.quietly_memWf _ ?_ hs
        refine sound_bind (sound_ringPop ..) fun v => sound_bind (sound_modThread ..) fun _ => ?_
        refine sound_bind (sound_getThread ..) fun h => sound_get fun s _ => ?_
        exact sound_ite (sound_modThread ..) (sound_pure _)
      · exact hs
    · exact hs
  · exact hs

theorem nextOk_execWatchdog (team t : Nat) : NextOk (execWatchdog team t s) := by
  refine nextOk_next ?_
  split
  · split
    · exact State.takeTrap_memWf _ _ _ _ hs
    · exact hs
  · exact hs

theorem nextOk_execTrapEntry (team t : Nat) : NextOk (execTrapEntry team t s) := by
  refine nextOk_next ?_
  split
  · split
    · split
      · exact State.takeTrap_memWf _ _ _ _ hs
      · exact hs
    · exact hs
  · exact hs

theorem nextOk_execTeamEnd (team : Nat) : NextOk (execTeamEnd team s) := by
  refine nextOk_next ?_
  split
  · exact hs
  · extract_lets onCore rest
    clear_value rest
    split
    · exact hs
    · split
      · exact memWf_of_eq (State.quitWing_mem ..) hs
      · split
        · exact memWf_of_eq (State.endDying_mem ..) hs
        · exact memWf_of_eq (State.endTeam_mem ..) hs

theorem nextOk_execChainGroupCreate (team : Nat) : NextOk (execChainGroupCreate team s) := by
  refine nextOk_next ?_
  split
  · exact hs
  · split
    · split
      · exact memWf_of_eq (State.modTeam_mem ..) hs
      · exact hs
    · exact hs

theorem nextOk_execChainSettle (team t : Nat) : NextOk (execChainSettle team t s) := by
  refine nextOk_next ?_
  split
  · split
    · split
      · exact memWf_of_eq (State.reportLost_mem ..) (memWf_of_eq (State.modTeam_mem s team _) hs)
      · exact hs
    · exact hs
  · exact hs

theorem nextOk_execFaultRecordWake (ctx rec_ : Nat) : NextOk (execFaultRecordWake ctx rec_ s) := by
  refine nextOk_next ?_
  split
  · exact memWf_foldl (fun s e h => State.wakeTeam_memWf _ _ _ _ h) _ hs
  · exact hs

theorem nextOk_execStoreAcknowledgement (team k : Nat) : NextOk (execStoreAcknowledgement team k s) := by
  refine nextOk_next ?_
  dsimp only
  split
  · split
    · exact memWf_of_eq (State.rshSettle_mem ..) (State.performStore_memWf _ _ hs)
    · exact hs
  · exact hs

theorem nextOk_execClockWaitExpiry (team : Nat) : NextOk (execClockWaitExpiry team s) := by
  refine nextOk_next ?_
  split
  · split
    · split
      · exact memWf_of_eq (State.modFront_mem ..) hs
      · exact hs
    · exact hs
  · exact hs

theorem nextOk_execPathAgeing (team group : Nat) (pc : Word64) : NextOk (execPathAgeing team group pc s) := by
  refine nextOk_next ?_
  split
  · exact hs
  · split
    · exact hs
    · exact hs

theorem nextOk_execParityUpdateLand (core : Nat) : NextOk (execParityUpdateLand core s) := by
  have hland (s : State) (h : memWf s.mem = true) :
      memWf (if (s.core core).parityFailed then s.fenceBare core else s).mem = true := by
    split
    · exact State.fenceBare_memWf _ _ h
    · exact h
  refine nextOk_next (hland _ ?_)
  split
  · exact hs
  · exact memWf_of_eq (State.setCore_mem ..) hs

theorem nextOk_execBankRetire (core bank : Nat) : NextOk (execBankRetire core bank s) := by
  refine nextOk_next ?_
  dsimp only
  split
  · exact hs
  · split
    · split
      · exact memWf_of_eq (State.setCore_mem ..) hs
      · exact State.fenceBare_memWf _ _ (memWf_of_eq (State.setCore_mem ..) hs)
    · split
      · exact hs
      · exact memWf_of_eq (State.setCore_mem ..) hs

theorem nextOk_execKillComplete (ctx : Nat) : NextOk (execKillComplete ctx s) := by
  refine nextOk_next ?_
  dsimp only
  split
  · exact hs
  · exact memWf_foldl (fun s i h => memWf_of_eq (State.setCtx_mem ..) h) _ (memWf_of_eq (State.setCtx_mem ..) hs)

theorem nextOk_execRemoteAnswer (id : Nat) (answer : RemoteAnswer) : NextOk (execRemoteAnswer id answer s) := by
  refine nextOk_next ?_
  split
  · exact State.answerRemote_memWf _ _ _ hs
  · exact hs

theorem nextOk_execRequestBudgetExpiry (id : Nat) : NextOk (execRequestBudgetExpiry id s) := by
  refine nextOk_next ?_
  split
  · split
    · exact State.answerRemote_memWf _ _ _ hs
    · exact hs
  · split
    · exact memWf_of_eq (State.answer_mem ..) hs
    · exact hs
  · exact hs

theorem nextOk_execInboundRemoteRequest (req : InboundRequest) : NextOk (execInboundRemoteRequest req s) := by
  refine nextOk_next ?_
  dsimp only
  split
  · exact hs
  · split
    · exact memWf_of_eq (State.answer_mem ..) hs
    · split
      · exact hs
      · split
        · next hr => exact serves_memKept.tryInbound hr hs
        · exact hs

theorem nextOk_execFaultRecordTake (ctx : Nat) : NextOk (execFaultRecordTake ctx s) := by
  refine nextOk_next ?_
  have h := someOk_takeFaultRecord ctx hs
  cases hr : s.takeFaultRecord ctx with
  | none => exact State.serveInbound_memWf s hs
  | some s' => exact h s' hr

theorem memWf_modPort (p : Nat) (f : Port → Port) : memWf (s.modPort p f).mem = true :=
  memWf_of_eq (State.modPort_mem s p f) hs

theorem nextOk_execLinkPause (port : Nat) : NextOk (execLinkPause port s) := memWf_modPort hs ..

theorem nextOk_execLinkResume (port : Nat) : NextOk (execLinkResume port s) := by
  refine nextOk_next (memWf_foldl (fun s e h => ?_) _ (memWf_modPort hs ..))
  dsimp only
  split
  · exact State.answerRemote_memWf _ _ _ h
  · exact h

theorem nextOk_execPortFailure (port : Nat) : NextOk (execPortFailure port s) := by
  refine nextOk_next ?_
  split
  · exact hs
  · exact memWf_foldl (fun s e h => State.answerRemote_memWf _ _ _ h) _ (memWf_modPort hs ..)

theorem nextOk_execCollectiveDoorbell (q : Nat) (tail : BitVec 32) : NextOk (execCollectiveDoorbell q tail s) := by
  refine nextOk_next ?_
  split
  · exact State.takePublished_memWf _ (memWf_writePhys hs ..)
  · exact hs

theorem nextOk_execCollectiveChunk (id : Nat) (peers : List PeerContribution) :
    NextOk (execCollectiveChunk id peers s) := by
  refine nextOk_next ?_
  split
  · exact hs
  · split
    · exact hs
    · have h := someOk_chunkNow id peers hs
      cases hr : s.chunkNow id peers with
      | none => exact hs
      | some s' => exact h s' hr

theorem nextOk_execCollectiveComplete (id : Nat) : NextOk (execCollectiveComplete id s) := by
  refine nextOk_next ?_
  split
  · exact hs
  · dsimp only
    split
    · split
      · next r hr =>
        have h : memWf r.1.mem = true :=
          State.flushCollective_memWf (s := { s with collectives := SMap.erase id s.collectives }) hs hr
        exact State.collectiveWord_memWf _ _ _ _ _ h
      · exact hs
    · exact hs

theorem nextOk_execHostCopyDescriptor (d : HostDescriptor) : NextOk (execHostCopyDescriptor d s) := by
  refine nextOk_next ?_
  split
  · exact hs
  · dsimp only
    split
    · exact hs
    · split
      · exact memWf_writePhys (s := { s with hostCompletions := s.hostCompletions ++ [true] }) hs ..
      · exact hs

theorem nextOk_execHostApertureAccess (a : HostAccess) : NextOk (execHostApertureAccess a s) := by
  refine nextOk_next ?_
  dsimp only
  split
  · exact hs
  · split
    · exact memWf_writePhys hs ..
    · refine memWf_foldl (fun s x h => ?_) _ hs
      split
      · exact memWf_writePhys h ..
      · exact h

theorem nextOk_execCorrectedError (stack : BitVec 3) (rho : BitVec 32) : NextOk (execCorrectedError stack rho s) := by
  refine nextOk_next ?_
  dsimp only
  split
  · exact hs
  · exact State.logError_memWf _ _ _ hs

theorem nextOk_execRefreshManagementComplete (stack bank : Nat) :
    NextOk (execRefreshManagementComplete stack bank s) :=
  State.serveInbound_memWf { s with heldBanks := s.heldBut stack bank } hs

theorem nextOk_execPowerEstimate (watts : Nat) (ks : List (BitVec 3)) : NextOk (execPowerEstimate watts ks s) := by
  refine nextOk_next ?_
  split
  · exact memWf_foldl (fun s x h => memWf_of_eq (State.setCore_mem ..) h) _ hs
  · exact hs

theorem nextOk_execTemperatureThrottle (die : Nat) (temp : BitVec 8) : NextOk (execTemperatureThrottle die temp s) := by
  refine nextOk_next ?_
  split
  · exact State.heat_memWf _ _ _ hs
  · exact hs

theorem nextOk_execTemperatureThrottleEnd (die : Nat) (temp : BitVec 8) :
    NextOk (execTemperatureThrottleEnd die temp s) := by
  refine nextOk_next ?_
  split
  · exact hs
  · exact hs

theorem nextOk_execThermalTrip (die : Nat) (temp : BitVec 8) : NextOk (execThermalTrip die temp s) := by
  refine nextOk_next ?_
  split
  · exact State.heat_memWf _ _ _ hs
  · exact hs

/-- A reset leaves a part of what memory held (R345). -/
theorem nextOk_execResetBoot (failed : Option (BitVec 3)) : NextOk (execResetBoot failed s) := SMap.canon_filter _ hs

theorem nextOk_execAttestationComplete : NextOk (execAttestationComplete s) := by
  refine nextOk_next ?_
  split
  · exact hs
  · exact hs

end

end Sys2Proof.Machine
end

section
/-!
PROOFS. Memory's form under every instruction and every turn, and so under a step (O51).
-/

namespace Sys2Proof.Machine

/-! ### Instructions -/

/-- One lane's turn in an issue keeps memory in its form where its performance and what follows a page fault do. -/
theorem nextOk_issueWith {i : Instr} {onPage : Lane → Word64 → BitVec 8 → State → State} {body : Body} {s : State}
    (hpage : ∀ l addr access s, memWf s.mem = true → memWf (onPage l addr access s).mem = true)
    (hs : memWf s.mem = true) (hbody : ∀ l, Sound (body l)) : NextOk (issueWith i onPage body s) := by
  unfold issueWith
  split
  · trivial
  · next c _ =>
    have hstep (s : State) (l : Lane) (h : memWf s.mem = true) : memWf (stepLane c i onPage body s l).mem = true :=
      stepLane_memWf c i onPage body s l h hbody hpage
    dsimp only
    split
    · exact hstep s _ hs
    · exact memWf_inOrder hstep _ _ c hs

theorem nextOk_issue {i : Instr} {body : Body} {s : State} (hs : memWf s.mem = true) (hbody : ∀ l, Sound (body l)) :
    NextOk (issue i body s) :=
  nextOk_issueWith (fun l addr access s => pageSleep_memWf (some i) l addr access s) hs hbody

theorem nextOk_issueMem {i : Instr} {body : Body} {s : State} (hs : memWf s.mem = true) (hbody : ∀ l, Sound (body l)) :
    NextOk (issueMem i body s) :=
  nextOk_issueWith (dataPage_memWf i 4) hs hbody

theorem sound_bodyMovCompact (d : BitVec 6) (s : BitVec 5) (ln : Lane) : Sound (bodyMovCompact d s ln) := by
  unfold bodyMovCompact
  split
  · exact sound_pure _
  · exact sound_un ..

theorem sound_alignedRelease {release : Bool} {a n : Nat} {m : Unit → M Next} (hm : ∀ u, Sound (m u)) :
    Sound (if release = true then aligned a n >>= m else m ()) :=
  sound_when (sound_aligned ..) hm

/-- Every instruction and every event of the device keeps memory in its form. -/
theorem nextOk_exec (i : Instr) {s : State} (hs : memWf s.mem = true) : NextOk (exec i s) :=
  match i with
  | .movCompact _ _ => nextOk_issue hs fun _ => sound_bodyMovCompact ..
  | .iaddCompact _ _ => nextOk_issue hs fun _ => sound_compact ..
  | .isubCompact _ _ => nextOk_issue hs fun _ => sound_compact ..
  | .andCompact _ _ => nextOk_issue hs fun _ => sound_compact ..
  | .orCompact _ _ => nextOk_issue hs fun _ => sound_compact ..
  | .xorCompact _ _ => nextOk_issue hs fun _ => sound_compact ..
  | .shlCompact _ _ => nextOk_issue hs fun _ => sound_compact ..
  | .shrCompact _ _ => nextOk_issue hs fun _ => sound_compact ..
  | .sarCompact _ _ => nextOk_issue hs fun _ => sound_compact ..
  | .imulCompact _ _ => nextOk_issue hs fun _ => sound_compact ..
  | .faddCompact _ _ => nextOk_issue hs fun _ => sound_fpBin ..
  | .fsubCompact _ _ => nextOk_issue hs fun _ => sound_fpBin ..
  | .fmulCompact _ _ => nextOk_issue hs fun _ => sound_fpBin ..
  | .fmaxCompact _ _ => nextOk_issue hs fun _ => sound_fpBin ..
  | .iaddiCompact _ _ => nextOk_issue hs fun _ => sound_un ..
  | .movi _ _ => nextOk_issue hs fun _ => sound_bodyMovi ..
  | .iadd _ _ _ => nextOk_issue hs fun _ => sound_bin ..
  | .isub _ _ _ => nextOk_issue hs fun _ => sound_bin ..
  | .imul _ _ _ _ => nextOk_issue hs fun _ => sound_bin ..
  | .imulhs _ _ _ => nextOk_issue hs fun _ => sound_bin ..
  | .imad _ _ _ _ => nextOk_issue hs fun _ => sound_bodyImad ..
  | .and _ _ _ => nextOk_issue hs fun _ => sound_bin ..
  | .or _ _ _ => nextOk_issue hs fun _ => sound_bin ..
  | .xor _ _ _ => nextOk_issue hs fun _ => sound_bin ..
  | .andn _ _ _ => nextOk_issue hs fun _ => sound_bin ..
  | .shl _ _ _ => nextOk_issue hs fun _ => sound_shift ..
  | .shr _ _ _ => nextOk_issue hs fun _ => sound_shift ..
  | .sar _ _ _ => nextOk_issue hs fun _ => sound_shift ..
  | .imin _ _ _ _ => nextOk_issue hs fun _ => sound_bin ..
  | .imax _ _ _ _ => nextOk_issue hs fun _ => sound_bin ..
  | .iadd64 _ _ _ _ => nextOk_issue hs fun _ => sound_bodyIadd64 ..
  | .perm _ _ _ => nextOk_issue hs fun _ => sound_ter ..
  | .mov _ _ => nextOk_issue hs fun _ => sound_un ..
  | .not _ _ => nextOk_issue hs fun _ => sound_un ..
  | .neg _ _ => nextOk_issue hs fun _ => sound_un ..
  | .iabs _ _ => nextOk_issue hs fun _ => sound_un ..
  | .clz _ _ => nextOk_issue hs fun _ => sound_un ..
  | .popc _ _ => nextOk_issue hs fun _ => sound_un ..
  | .brev _ _ => nextOk_issue hs fun _ => sound_un ..
  | .sexb _ _ => nextOk_issue hs fun _ => sound_un ..
  | .sexh _ _ => nextOk_issue hs fun _ => sound_un ..
  | .zexb _ _ => nextOk_issue hs fun _ => sound_un ..
  | .zexh _ _ => nextOk_issue hs fun _ => sound_un ..
  | .laneid _ => nextOk_issue hs fun _ => sound_bodyLaneid ..
  | .tidx _ => nextOk_issue hs fun _ => sound_bodyTidx ..
  | .teamix _ => nextOk_issue hs fun _ => sound_bodyTeamix ..
  | .clklo _ => nextOk_issue hs fun _ => sound_bodyClklo ..
  | .clkhi _ => nextOk_issue hs fun _ => sound_bodyClkhi ..
  | .b2g _ _ => nextOk_issue hs fun _ => sound_bodyB2g ..
  | .g2b _ _ => nextOk_issue hs fun _ => sound_bodyG2b ..
  | .clz64 _ _ => nextOk_issue hs fun _ => sound_bodyClz64 ..
  | .popc64 _ _ => nextOk_issue hs fun _ => sound_bodyPopc64 ..
  | .iaddi _ _ _ => nextOk_issue hs fun _ => sound_un ..
  | .andi _ _ _ => nextOk_issue hs fun _ => sound_un ..
  | .ori _ _ _ => nextOk_issue hs fun _ => sound_un ..
  | .xori _ _ _ => nextOk_issue hs fun _ => sound_un ..
  | .shli _ _ _ => nextOk_issue hs fun _ => sound_un ..
  | .shri _ _ _ => nextOk_issue hs fun _ => sound_un ..
  | .sari _ _ _ => nextOk_issue hs fun _ => sound_un ..
  | .rotri _ _ _ => nextOk_issue hs fun _ => sound_un ..
  | .movkl _ _ => nextOk_issue hs fun _ => sound_bodyMovkl ..
  | .movkh _ _ => nextOk_issue hs fun _ => sound_bodyMovkh ..
  | .icmp _ _ _ _ _ => nextOk_issue hs fun _ => sound_bodyIcmp ..
  | .icmpi _ _ _ _ _ => nextOk_issue hs fun _ => sound_bodyIcmpi ..
  | .sel _ _ _ _ => nextOk_issue hs fun _ => sound_bodySel ..
  | .shflIdx _ _ _ _ => nextOk_issue hs fun _ => sound_groupOp _ _ _ _ fun _ => sound_rdVals ..
  | .shflUp _ _ _ _ => nextOk_issue hs fun _ => sound_groupOp _ _ _ _ fun _ => sound_rdVals ..
  | .shflDown _ _ _ _ => nextOk_issue hs fun _ => sound_groupOp _ _ _ _ fun _ => sound_rdVals ..
  | .shflXor _ _ _ _ => nextOk_issue hs fun _ => sound_groupOp _ _ _ _ fun _ => sound_rdVals ..
  | .voteAny _ _ _ _ => nextOk_issue hs fun _ => sound_groupOp _ _ _ _ fun _ => sound_rdFlag ..
  | .voteAll _ _ _ _ => nextOk_issue hs fun _ => sound_groupOp _ _ _ _ fun _ => sound_rdFlag ..
  | .voteBallot _ _ _ _ => nextOk_issue hs fun _ => sound_groupOp _ _ _ _ fun _ => sound_rdFlag ..
  | .voteMatch _ _ _ _ => nextOk_issue hs fun _ => sound_groupOp _ _ _ _ fun _ => sound_rdVals ..
  | .voteRadd _ _ _ _ => nextOk_issue hs fun _ => sound_groupOp _ _ _ _ fun _ => sound_rdVals ..
  | .voteRmin _ _ _ _ => nextOk_issue hs fun _ => sound_groupOp _ _ _ _ fun _ => sound_rdVals ..
  | .voteRmax _ _ _ _ => nextOk_issue hs fun _ => sound_groupOp _ _ _ _ fun _ => sound_rdVals ..
  | .voteRfadd _ _ _ _ => nextOk_issue hs fun _ => sound_groupOp _ _ _ _ fun _ => sound_rdVals ..
  | .fadd _ _ _ _ => nextOk_issue hs fun _ => sound_fpBin ..
  | .fsub _ _ _ _ => nextOk_issue hs fun _ => sound_fpBin ..
  | .fmul _ _ _ _ => nextOk_issue hs fun _ => sound_fpBin ..
  | .ffma _ _ _ _ => nextOk_issue hs fun _ => sound_bodyFfma ..
  | .fmin _ _ _ _ => nextOk_issue hs fun _ => sound_fpBin ..
  | .fmax _ _ _ _ => nextOk_issue hs fun _ => sound_fpBin ..
  | .fabs _ _ _ => nextOk_issue hs fun _ => sound_fun_ ..
  | .fneg _ _ _ => nextOk_issue hs fun _ => sound_fun_ ..
  | .frcp _ _ _ => nextOk_issue hs fun _ => sound_fun_ ..
  | .frsq _ _ _ => nextOk_issue hs fun _ => sound_fun_ ..
  | .fsqrt _ _ _ => nextOk_issue hs fun _ => sound_fun_ ..
  | .fexp2 _ _ _ => nextOk_issue hs fun _ => sound_fun_ ..
  | .flog2 _ _ _ => nextOk_issue hs fun _ => sound_fun_ ..
  | .fsin _ _ _ => nextOk_issue hs fun _ => sound_fun_ ..
  | .fcos _ _ _ => nextOk_issue hs fun _ => sound_fun_ ..
  | .ftanh _ _ _ => nextOk_issue hs fun _ => sound_fun_ ..
  | .ffloor _ _ _ => nextOk_issue hs fun _ => sound_fun_ ..
  | .fceil _ _ _ => nextOk_issue hs fun _ => sound_fun_ ..
  | .ftrunc _ _ _ => nextOk_issue hs fun _ => sound_fun_ ..
  | .frint _ _ _ => nextOk_issue hs fun _ => sound_fun_ ..
  | .fclass _ _ _ => nextOk_issue hs fun _ => sound_fun_ ..
  | .fsat _ _ _ => nextOk_issue hs fun _ => sound_bodyFsat ..
  | .fcmp _ _ _ _ _ => nextOk_issue hs fun _ => sound_bodyFcmp ..
  | .cvt _ _ _ _ _ _ => nextOk_issue hs fun _ => sound_bodyCvt ..
  | .cvif _ _ => nextOk_issue hs fun _ => sound_bodyCvif ..
  | .cvnf _ _ => nextOk_issue hs fun _ => sound_bodyCvnf ..
  | .cvfi _ _ => nextOk_issue hs fun _ => sound_bodyCvfi ..
  | .cvfn _ _ => nextOk_issue hs fun _ => sound_bodyCvfn ..
  | .cvhf _ _ _ => nextOk_issue hs fun _ => sound_bodyCvhf ..
  | .cvbf _ _ => nextOk_issue hs fun _ => sound_bodyCvbf ..
  | .cv8af _ _ => nextOk_issue hs fun _ => sound_bodyCv8af ..
  | .cv8bf _ _ => nextOk_issue hs fun _ => sound_bodyCv8bf ..
  | .dot4 _ _ _ => nextOk_issue hs fun _ => sound_bodyDot4 ..
  | .dot2 _ _ _ => nextOk_issue hs fun _ => sound_bodyDot2 ..
  | .idiv _ _ _ => nextOk_issue hs fun _ => sound_bodyIdiv ..
  | .idivu _ _ _ => nextOk_issue hs fun _ => sound_bodyIdivu ..
  | .scmp _ _ _ _ _ => nextOk_issue hs fun _ => sound_bodyScmp ..
  | .pcombAnd _ _ _ _ => nextOk_issue hs fun _ => sound_pcomb ..
  | .pcombOr _ _ _ _ => nextOk_issue hs fun _ => sound_pcomb ..
  | .pcombNot _ _ => nextOk_issue hs fun _ => sound_bodyPcombNot ..
  | .pcombXor _ _ _ _ => nextOk_issue hs fun _ => sound_pcomb ..
  | .blend _ _ _ _ => nextOk_issue hs fun _ => sound_blendWith ..
  | .blendi _ _ _ _ => nextOk_issue hs fun _ => sound_blendWith ..
  | .selq _ _ _ _ => nextOk_issue hs fun _ => sound_bodySelq ..
  | .coll _ _ => nextOk_issue hs fun _ => sound_bodyColl ..
  | .qset _ _ => nextOk_issue hs fun _ => sound_bodyQset ..
  | .qget _ _ => nextOk_issue hs fun _ => sound_bodyQget ..
  | .qfromb _ _ => nextOk_issue hs fun _ => sound_bodyQfromb ..
  | .pgrad _ _ _ => nextOk_issue hs fun _ => sound_bodyPgrad ..
  | .qhard _ _ => nextOk_issue hs fun _ => sound_bodyQhard ..
  | .ld _ _ _ _ _ => nextOk_issueMem hs fun _ => sound_bind (sound_rd64 ..) fun _ => sound_alignedRelease fun _ =>
      sound_loadGlobal ..
  | .st _ _ _ _ _ => nextOk_issueMem hs fun _ => sound_bind (sound_rd64 ..) fun _ => sound_alignedRelease fun _ =>
      sound_storeGlobal ..
  | .ldl _ _ _ _ _ => nextOk_issueMem hs fun _ => sound_bind (sound_rd ..) fun _ => sound_loadHere ..
  | .stl _ _ _ _ _ => nextOk_issueMem hs fun _ => sound_bind (sound_rd ..) fun _ => sound_storeHere ..
  | .atomAdd _ _ _ _ => nextOk_issueMem hs fun _ => sound_bind (sound_rd64 ..) fun _ => sound_atomGlobal ..
  | .atomAdd64 _ _ _ _ => nextOk_issueMem hs fun _ => sound_bind (sound_rd64 ..) fun _ => sound_atomGlobal ..
  | .atomMin _ _ _ _ => nextOk_issueMem hs fun _ => sound_bind (sound_rd64 ..) fun _ => sound_atomGlobal ..
  | .atomMax _ _ _ _ => nextOk_issueMem hs fun _ => sound_bind (sound_rd64 ..) fun _ => sound_atomGlobal ..
  | .atomAnd _ _ _ _ => nextOk_issueMem hs fun _ => sound_bind (sound_rd64 ..) fun _ => sound_atomGlobal ..
  | .atomOr _ _ _ _ => nextOk_issueMem hs fun _ => sound_bind (sound_rd64 ..) fun _ => sound_atomGlobal ..
  | .atomXchg _ _ _ _ => nextOk_issueMem hs fun _ => sound_bind (sound_rd64 ..) fun _ => sound_atomGlobal ..
  | .atomCas _ _ _ _ => nextOk_issueMem hs fun _ => sound_bind (sound_rd64 ..) fun _ => sound_atomGlobal ..
  | .atomlAdd _ _ _ _ => nextOk_issueMem hs fun _ => sound_bind (sound_rd ..) fun _ => sound_atomHere ..
  | .atomlFadd _ _ _ _ => nextOk_issueMem hs fun _ => sound_bind (sound_rd ..) fun _ => sound_atomHere ..
  | .atomlMin _ _ _ _ => nextOk_issueMem hs fun _ => sound_bind (sound_rd ..) fun _ => sound_atomHere ..
  | .atomlMax _ _ _ _ => nextOk_issueMem hs fun _ => sound_bind (sound_rd ..) fun _ => sound_atomHere ..
  | .atomlXchg _ _ _ _ => nextOk_issueMem hs fun _ => sound_bind (sound_rd ..) fun _ => sound_atomHere ..
  | .atomlCas _ _ _ _ => nextOk_issueMem hs fun _ => sound_bind (sound_rd ..) fun _ => sound_atomHere ..
  | .atomlFadd2 _ _ _ _ => nextOk_issueMem hs fun _ => sound_bind (sound_rd ..) fun _ => sound_atomHere ..
  | .atomlOr _ _ _ _ => nextOk_issueMem hs fun _ => sound_bind (sound_rd ..) fun _ => sound_atomHere ..
  | .fence _ _ => nextOk_issueMem hs fun _ => sound_bodyFence ..
  | .nbInit _ _ _ => nextOk_issue hs fun _ => sound_bodyNbInit ..
  | .nbExpect _ _ _ => nextOk_issue hs fun _ => sound_bodyNbExpect ..
  | .nbArr _ _ _ _ => nextOk_issue hs fun _ => sound_bodyNbArr ..
  | .nbWait _ _ _ => nextOk_issue hs fun _ => sound_bodyNbWait ..
  | .nbArw _ _ _ => nextOk_issue hs fun _ => sound_bodyNbArw ..
  | .nbTest _ _ _ _ => nextOk_issue hs fun _ => sound_bodyNbTest ..
  | .cpyG2l _ _ _ => nextOk_issue hs fun _ => sound_bodyCpyG2l ..
  | .cpyL2g _ _ _ => nextOk_issue hs fun _ => sound_bodyCpyL2g ..
  | .cpyL2l _ _ => nextOk_issue hs fun _ => sound_bodyCpyL2l ..
  | .cpyG2g _ _ => nextOk_issue hs fun _ => sound_bodyCpyG2g ..
  | .cpyPfx _ _ => nextOk_issue hs fun _ => sound_bodyCpyPfx ..
  | .strm _ _ => nextOk_issue hs fun _ => sound_bodyStrm ..
  | .strmOff _ => nextOk_issue hs fun _ => sound_bodyStrmOff ..
  | .mxIssue _ => nextOk_issue hs fun _ => sound_bodyMxIssue ..
  | .mxIssueS _ => nextOk_issue hs fun _ => sound_bodyMxIssueS ..
  | .mxZero _ => nextOk_issue hs fun _ => sound_bodyMxZero ..
  | .mxStore _ _ _ _ => nextOk_issue hs fun _ => sound_bodyMxStore ..
  | .mxLoad _ _ => nextOk_issue hs fun _ => sound_bodyMxLoad ..
  | .mxProg _ _ => nextOk_issue hs fun _ => sound_bodyMxProg ..
  | .wjoin _ _ => nextOk_issue hs fun _ => sound_bodyWjoin ..
  | .wmap _ _ _ => nextOk_issue hs fun _ => sound_bodyWmap ..
  | .wquery _ => nextOk_issue hs fun _ => sound_bodyWquery ..
  | .rshPlan _ _ => nextOk_issue hs fun _ => sound_bodyRshPlan ..
  | .rshGo _ => nextOk_issue hs fun _ => sound_bodyRshGo ..
  | .rshPoll _ _ => nextOk_issue hs fun _ => sound_bodyRshPoll ..
  | .rshSave _ => nextOk_issue hs fun _ => sound_bodyRshSave ..
  | .rshResume _ => nextOk_issue hs fun _ => sound_bodyRshResume ..
  | .cka _ _ _ => nextOk_issue hs fun _ => sound_bodyCka ..
  | .ckx _ _ _ _ => nextOk_issue hs fun _ => sound_groupOp _ _ _ _ fun _ =>
    sound_bind (sound_theThread _) fun _ => sound_bind (sound_getThread ..) fun _ => sound_pure _
  | .ckt _ _ _ _ => nextOk_issue hs fun _ => sound_bodyCkt ..
  | .ckz _ => nextOk_issue hs fun _ => sound_bodyCkz ..
  | .bra _ _ _ => nextOk_issue hs fun _ => sound_bodyBra ..
  | .call _ _ _ => nextOk_issue hs fun _ => sound_bodyCall ..
  | .jmpi _ => nextOk_issue hs fun _ => sound_bodyJmpi ..
  | .calli _ => nextOk_issue hs fun _ => sound_bodyCalli ..
  | .ret => nextOk_issue hs fun _ => sound_bodyRet ..
  | .exit => nextOk_issue hs fun _ => sound_bodyExit ..
  | .rcvSet _ _ => nextOk_issue hs fun _ => sound_bodyRcvSet ..
  | .rcvWait _ => nextOk_issue hs fun _ => sound_bodyRcvWait ..
  | .yld _ _ => nextOk_issue hs fun _ => sound_bodyYld ..
  | .stage _ _ => nextOk_issue hs fun _ => sound_bodyStage ..
  | .chend => nextOk_issue hs fun _ => sound_bodyChend ..
  | .trap _ => nextOk_issue hs fun _ => sound_bodyTrap ..
  | .rtt => nextOk_issue hs fun _ => sound_bodyRtt ..
  | .elect _ _ => nextOk_issue hs fun _ => sound_groupOp _ _ _ _ fun _ => sound_pure _
  | .bop _ _ _ _ => nextOk_issue hs fun _ => sound_bodyBop ..
  | .brk => nextOk_issue hs fun _ => sound_bodyBrk ..
  | .srd _ _ => nextOk_issue hs fun _ => sound_bodySrd ..
  | .swr _ _ => nextOk_issue hs fun _ => sound_bodySwr ..
  | .movs _ _ => nextOk_issue hs fun _ => sound_bodyMovs ..
  | .smov _ _ => nextOk_issue hs fun _ => sound_bodySmov ..
  | .dqpush _ _ => nextOk_issue hs fun _ => sound_bodyDqpush ..
  | .dqpop _ => nextOk_issue hs fun _ => sound_bodyDqpop ..
  | .ftwaitNb _ _ => nextOk_issue hs fun _ => sound_bodyFtwaitNb ..
  | .ftwaitDq _ _ => nextOk_issue hs fun _ => sound_bodyFtwaitDq ..
  | .ftwaitClk _ => nextOk_issue hs fun _ => sound_bodyFtwaitClk ..
  | .ftlaunch _ _ => nextOk_issueWith (fun l addr access s => pageSleep_memWf _ l addr access s) hs fun _ =>
      sound_bodyFtlaunch ..
  | .chseed _ _ => nextOk_issue hs fun _ => sound_bodyChseed ..
  | .tlbinvAll _ => nextOk_issue hs fun _ => sound_bodyTlbinvAll ..
  | .tlbinvPage _ => nextOk_issue hs fun _ => sound_bodyTlbinvPage ..
  | .killctx _ _ => nextOk_issue hs fun _ => sound_bodyKillctx ..
  | .succGoto _ => nextOk_issue hs fun _ => sound_bodySuccGoto ..
  | .succBr _ _ _ _ => nextOk_issue hs fun _ => sound_bodySuccBr ..
  | .succSw _ _ => nextOk_issue hs fun _ => sound_bodySuccSw ..
  | .succCall _ _ => nextOk_issue hs fun _ => sound_bodySuccCall ..
  | .faultRecordWake _ _ => nextOk_execFaultRecordWake hs ..
  | .trapEntry _ _ => nextOk_execTrapEntry hs ..
  | .chainSettle _ _ => nextOk_execChainSettle hs ..
  | .streamPush _ _ => nextOk_execStreamPush hs ..
  | .chainGroupCreate _ => nextOk_execChainGroupCreate hs ..
  | .copyTransfer _ _ => nextOk_execCopyTransfer hs ..
  | .matrixCommandStart _ => nextOk_execMatrixCommandStart hs ..
  | .mxSlice _ => nextOk_execMxSlice hs ..
  | .mxStoreTransfer _ => nextOk_execMxStoreTransfer hs ..
  | .mxLoadTransfer _ => nextOk_execMxLoadTransfer hs ..
  | .rshStopAtBoundary _ => nextOk_execRshStopAtBoundary hs ..
  | .rshRowPull _ _ => nextOk_execRshRowPull hs ..
  | .storeAcknowledgement _ _ => nextOk_execStoreAcknowledgement hs ..
  | .clockWaitExpiry _ => nextOk_execClockWaitExpiry hs ..
  | .teamEnd _ => nextOk_execTeamEnd hs ..
  | .contextSave _ => nextOk_execContextSave hs ..
  | .wizinTranslate _ => nextOk_execWizinTranslate hs ..
  | .jobTeamCreate _ _ => nextOk_execJobTeamCreate hs ..
  | .jobChunkTake _ _ => nextOk_execJobChunkTake hs ..
  | .launchComplete _ => nextOk_execLaunchComplete hs ..
  | .parityUpdateLand _ => nextOk_execParityUpdateLand hs ..
  | .bankRetire _ _ => nextOk_execBankRetire hs ..
  | .requestBudgetExpiry _ => nextOk_execRequestBudgetExpiry hs ..
  | .killComplete _ => nextOk_execKillComplete hs ..
  | .faultRecordTake _ => nextOk_execFaultRecordTake hs ..
  | .collectiveDoorbell _ _ => nextOk_execCollectiveDoorbell hs ..
  | .collectiveComplete _ => nextOk_execCollectiveComplete hs ..
  | .collectiveChunk _ _ => nextOk_execCollectiveChunk hs ..
  | .refreshManagementComplete _ _ => nextOk_execRefreshManagementComplete hs ..
  | .resetBoot _ => nextOk_execResetBoot hs ..
  | .ftwaitMx => nextOk_issue hs fun _ => sound_bodyFtwaitMx ..
  | .ftwaitRsh => nextOk_issue hs fun _ => sound_bodyFtwaitRsh ..
  | .icinv => nextOk_issue hs fun _ => sound_bodyIcinv ..
  | .tlbinvHeap => nextOk_issue hs fun _ => sound_bodyTlbinvHeap ..
  | .wleave => nextOk_issue hs fun _ => sound_bodyWleave ..
  | .land => nextOk_issue hs fun _ => sound_bodyLand ..
  | .succRet => nextOk_issue hs fun _ => sound_bodySuccRet ..
  | .succExit => nextOk_issue hs fun _ => sound_bodySuccExit ..
  | .succRtt => nextOk_issue hs fun _ => sound_bodySuccRtt ..
  | .loadResultReturn _ _ => nextOk_execLoadResultReturn hs ..
  | .streamPop _ _ _ => nextOk_execStreamPop hs ..
  | .watchdog _ _ => nextOk_execWatchdog hs ..
  | .launchDoorbell _ _ => nextOk_execLaunchDoorbell hs ..
  | .launchAdmission => nextOk_execLaunchAdmission hs
  | .teamPlacement => nextOk_execTeamPlacement hs
  | .gangStaggerExpiry _ => nextOk_execGangStaggerExpiry hs ..
  | .pathAgeing _ _ _ => nextOk_execPathAgeing hs ..
  | .preemption => nextOk_execPreemption hs
  | .remoteAnswer _ _ => nextOk_execRemoteAnswer hs ..
  | .inboundRemoteRequest _ => nextOk_execInboundRemoteRequest hs ..
  | .linkPause _ => nextOk_execLinkPause hs ..
  | .linkResume _ => nextOk_execLinkResume hs ..
  | .portFailure _ => nextOk_execPortFailure hs ..
  | .hostCopyDescriptor _ => nextOk_execHostCopyDescriptor hs ..
  | .hostApertureAccess _ => nextOk_execHostApertureAccess hs ..
  | .correctedError _ _ => nextOk_execCorrectedError hs ..
  | .rowActivationAlert _ _ => hs
  | .powerEstimate _ _ => nextOk_execPowerEstimate hs ..
  | .temperatureThrottle _ _ => nextOk_execTemperatureThrottle hs ..
  | .thermalTrip _ _ => nextOk_execThermalTrip hs ..
  | .attestation => memWf_of_eq (State.attestNow_mem ..) hs
  | .lindenClear _ => memWf_of_eq (State.clearLinden_mem ..) hs
  | .spretire _ => memWf_of_eq (State.retireBank_mem ..) hs
  | .route _ => memWf_of_eq (State.setRoute_mem ..) hs
  | .ctxctl _ _ => memWf_of_eq (State.ctxWrite_mem ..) hs
  | .translationStoreConfig _ _ => memWf_of_eq (State.setStore_mem ..) hs
  | .managementRegisterWrite _ _ => memWf_of_eq (State.mgmtWrite_mem ..) hs
  | .hostLinkFailure _ => hs
  | .linkRetransmission _ => hs
  | .temperatureThrottleEnd _ _ => nextOk_execTemperatureThrottleEnd hs ..
  | .attestationComplete => nextOk_execAttestationComplete hs
/-! ### Turns -/

theorem nextOk_issueAt (c : Issue) (pc : Word64) {s : State} (hs : memWf s.mem = true) : NextOk (issueAt c pc s) := by
  unfold issueAt
  dsimp only
  split
  · exact memWf_inOrder (stopLane_memWf _ _) _ _ _ hs
  · next word len s' hr =>
    have h' : memWf s'.mem = true := (sound_fetchAt c.team pc).run hs hr
    exact memWf_inOrder (stopLane_memWf _ _) _ _ _ h'
  · next i s' hr =>
    have h' : memWf s'.mem = true := (sound_fetchAt c.team pc).run hs hr
    exact nextOk_exec i h'

theorem nextOk_issueBundle (team : Nat) (ts : List Nat) {s : State} (hs : memWf s.mem = true) :
    NextOk (issueBundle team ts s) := by
  unfold issueBundle
  split
  · exact hs
  · exact nextOk_issueAt _ _ (memWf_of_eq (State.modTeam_mem ..) hs)

theorem nextOk_issueFront (team : Nat) {s : State} (hs : memWf s.mem = true) : NextOk (issueFront team s) := by
  unfold issueFront
  split
  · split
    · exact nextOk_issueAt _ _ hs
    · exact hs
  · exact hs

theorem nextOk_takeTurn (t : Turn) {s : State} (hs : memWf s.mem = true) : NextOk (takeTurn t s) := by
  cases t with
  | bundle team ts => exact nextOk_issueBundle team ts hs
  | front team => exact nextOk_issueFront team hs
  | event i =>
    unfold takeTurn
    dsimp only
    split
    · exact nextOk_exec i hs
    · exact hs
  | scratchError core word parity e => exact memWf_of_eq (State.strike_mem s core word parity e) hs
  | memoryError pa => exact State.strikeMem_memWf s pa hs

theorem nextOk_finishTurn (t : Option Turn) {r : Host.Outcome State Fault Refusal} (h : NextOk r) :
    NextOk (finishTurn t r) := by
  cases r with
  | next s => exact State.tick_memWf _ (State.settle_memWf _ (memWf_of_eq (State.served_mem s t) h))
  | fault f => trivial
  | refused f => trivial

theorem State.chosen_mem (s : State) : s.chosen.2.mem = s.mem := by
  unfold State.chosen
  split <;> rfl

/-- Whatever a step does, memory keeps its form. -/
theorem nextOk_step {s : State} (hs : memWf s.mem = true) : NextOk (step s) := by
  have h : memWf s.chosen.2.mem = true := memWf_of_eq s.chosen_mem hs
  unfold step runTurn
  split
  · next t s' hc =>
    rw [hc] at h
    exact nextOk_finishTurn _ (nextOk_takeTurn t h)
  · next s' hc =>
    rw [hc] at h
    exact nextOk_finishTurn _ h

end Sys2Proof.Machine

open Sys2Proof Sys2Proof.Machine

/-- Settles O51: every operation of a step is a performance, or a change of the state, that keeps memory in its form. -/
theorem memoryKeepsItsForm : Obligations.MemoryKeepsItsForm := by
  unfold Obligations.MemoryKeepsItsForm
  intro s s' hs h
  have hn : NextOk (step s) := nextOk_step hs
  rw [h] at hn
  exact hn

end
